-- ==== Sys2Proof/Word.lean ====
section
/-! DEFINITION. The word types of the N8 and their plainest arithmetic. -/

namespace Sys2Proof

/-- A register word of 32 bits (R31, R38). -/
abbrev Word := BitVec 32

/-- A byte of memory; memory is little-endian (R4). -/
abbrev Byte := BitVec 8

/-- A 64-bit virtual address, PC or register pair (R4). -/
abbrev Addr := BitVec 64

/-- A lane mask. It is 64 bits wide here; a warp of width 32 uses bits 31:0 only (R38). -/
abbrev Lanes := BitVec 64

/-- One bit of a natural number. -/
def bitAt (n i : Nat) : Bool := n.testBit i

/-- Bits hi:lo of a natural number, as R3 writes them. -/
def bits (n hi lo : Nat) : Nat := (n >>> lo) % 2 ^ (hi + 1 - lo)

end Sys2Proof
end

