-- ==== Sys2Proof/Config.lean ====
section
/-! DEFINITION. What one implementation fixes, and the free values: constants without a body for everything the manual
leaves open. Nothing can be proved of their values, so a statement holds whatever they are. -/

namespace Sys2Proof

/-- DESIGN CHOICE (log 5). The choice, at a step's tick, among events and partitions that may go next (R74 leaves the
order of partitions open, R176 and R381 that of accesses). The model takes it modulo the number of options. -/
opaque Config.schedule : Nat → Nat

/-- DESIGN CHOICE (log 5). A free choice made inside a step: the tick, and which choice of that step it is. -/
opaque Config.pick : Nat → Nat → Nat

/-- DESIGN CHOICE (log 9). The result a special function gives for an operand where R136 gives only a bound: function
number and operand. It depends on nothing else, since results are the same on every device of a stepping. -/
opaque Config.special : Nat → Word → Word

/-- DESIGN CHOICE (log 43). The bytes of memory that the device reserves for a coordinator's partial sums (R325). -/
opaque Config.sumRoom : Nat

/-- DESIGN CHOICE (log 30). The digest of outward requests (R406): the digest so far and the request's words. -/
opaque Config.digest : BitVec 64 → List Nat → BitVec 64

/-- DESIGN CHOICE (log 31). The device's answer to an SPDM request (R416): request code, payload, and the tick. -/
opaque Config.spdm : Nat → List Byte → Nat → List Word

/-- DESIGN CHOICE (log 80). The keys that management firmware generates at a reset (R415): the number of the reset, and which of
the four of the two worlds' pairs. -/
opaque Config.worldKey : Nat → Nat → BitVec 256

/-- DESIGN CHOICE (log 80). Where in host memory the safe tier keeps a checkpoint's lines (R426). -/
opaque Config.safeTier : Nat

end Sys2Proof
end

