-- ==== Sys2Proof/Machine/Float.lean ====
section
/-! DEFINITION. The number formats and their exact arithmetic: decoding of R111 and R112, rounding and overflow of R118 to
R120, flushing of R122, NaNs of R126, minima of R127, sums of exact products, conversions of R128, and the LQ2 code of
R117. Values are exact: a magnitude is a natural number times a power of two, or a fraction of two such numbers. -/

namespace Sys2Proof.Machine

open Sys2Proof

/-- The floating formats (R111). -/
inductive Fmt where
  | f32 | f16 | bf16 | e4m3 | e5m2 | e2m1
  deriving DecidableEq, Repr

namespace Fmt

/-- Width in bits. -/
def width : Fmt → Nat | f32 => 32 | f16 => 16 | bf16 => 16 | e4m3 => 8 | e5m2 => 8 | e2m1 => 4
/-- Mantissa bits. -/
def mbits : Fmt → Nat | f32 => 23 | f16 => 10 | bf16 => 7 | e4m3 => 3 | e5m2 => 2 | e2m1 => 1
/-- Exponent bits. -/
def ebits (f : Fmt) : Nat := f.width - 1 - f.mbits
/-- Bias. -/
def bias : Fmt → Nat | f32 => 127 | f16 => 15 | bf16 => 127 | e4m3 => 7 | e5m2 => 15 | e2m1 => 1
/-- Precision, counting the hidden bit. -/
def prec (f : Fmt) : Nat := f.mbits + 1
/-- Exponent of the smallest normal value. -/
def emin (f : Fmt) : Int := 1 - (f.bias : Int)
/-- The largest finite value's code. -/
def maxCode : Fmt → Nat | f32 => 0x7F7FFFFF | f16 => 0x7BFF | bf16 => 0x7F7F | e4m3 => 0x7E | e5m2 => 0x7B | e2m1 => 0x7
/-- The default NaN; E2M1 has none and gives +0 (R128). -/
def defNan : Fmt → Nat | f32 => 0x7FC00000 | f16 => 0x7E00 | bf16 => 0x7FC0 | e4m3 => 0x7F | e5m2 => 0x7E | e2m1 => 0
/-- Whether the format has infinities and NaNs of the IEEE kind. -/
def ieee : Fmt → Bool | e4m3 => false | e2m1 => false | _ => true
/-- Whether FTZI and FTZO apply (R122). -/
def flushes : Fmt → Bool | f32 => true | f16 => true | bf16 => true | _ => false
/-- Sub-elements in a register (R115). -/
def per (f : Fmt) : Nat := 32 / f.width
/-- The sign bit's weight. -/
def signBit (f : Fmt) : Nat := 2 ^ (f.width - 1)
/-- The sign bits of a whole register of packed values. -/
def signMask : Fmt → Word
  | f32 => 0x80000000 | f16 => 0x80008000 | bf16 => 0x80008000 | e4m3 => 0x80808080 | e5m2 => 0x80808080 | e2m1 => 0x88888888

end Fmt

/-- A decoded value (R112): a NaN, signalling or not, an infinity, or ± m × 2^e. -/
inductive FVal where
  | nan (snan : Bool)
  | inf (s : Bool)
  | fin (s : Bool) (m : Nat) (e : Int)
  deriving DecidableEq, Repr

/-- Decodes a code of a format (R112). -/
def unpack (f : Fmt) (b : Nat) : FVal :=
  let s := bitAt b (f.width - 1)
  let m := b % 2 ^ f.mbits
  let e := b / 2 ^ f.mbits % 2 ^ f.ebits
  if f.ieee && e == 2 ^ f.ebits - 1 then
    (if m = 0 then .inf s else .nan (m < 2 ^ (f.mbits - 1)))
  else if f = .e4m3 ∧ e = 15 ∧ m = 7 then .nan false
  else if e = 0 then .fin s m (f.emin - f.mbits)
  else .fin s (m + 2 ^ f.mbits) ((e : Int) - f.bias - f.mbits)

/-- Whether a code is a signalling NaN (R70, R112). -/
def isSnan (f : Fmt) (b : Nat) : Bool := unpack f b == .nan true

/-- Whether a code is a NaN. -/
def isNan (f : Fmt) (b : Nat) : Bool :=
  match unpack f b with
  | .nan _ => true
  | _ => false

/-- Whether a code is subnormal. -/
def isSub (f : Fmt) (b : Nat) : Bool :=
  b / 2 ^ f.mbits % 2 ^ f.ebits == 0 && b % 2 ^ f.mbits != 0

/-- What FMODE and the prefix select for an operation (R121, R138). -/
structure FEnv where
  mode : Nat := 1
  sat : Bool := false
  ftzi : Bool := false
  ftzo : Bool := false
  nanp : Bool := false
  mmode : Bool := false
  deriving DecidableEq, Repr

/-- The flags of LSTAT (R123). -/
def flIX : Word := 1
def flUF : Word := 2
def flOF : Word := 4
def flDZ : Word := 8
def flINV : Word := 16
def flSAT : Word := 32
def flXLB : Word := 64

/-- A result with its flags and the generator after it (R120, R123). -/
structure FRes where
  v : Nat
  fl : Word := 0
  rng : Word := 0
  deriving DecidableEq, Repr

/-- One step of the generator (R120). -/
def srStep (s : Word) : Word :=
  let s := if s = 0 then 0x6D2B79F5#32 else s
  let s := s ^^^ (s <<< 13)
  let s := s ^^^ (s >>> 17)
  s ^^^ (s <<< 5)

/-- The generator after one rounded result: it advances under SR only. -/
def FEnv.advance (env : FEnv) (rng : Word) : Word := if env.mode = 6 then srStep rng else rng

/-- A source as FTZI leaves it (R122). -/
def ftziBits (f : Fmt) (env : FEnv) (b : Nat) : Nat :=
  if env.ftzi && f.flushes && isSub f b then b / f.signBit % 2 * f.signBit else b

/-- floor(log2(n / d)) for positive n and d. -/
def flog2 (n d : Nat) : Int :=
  let a := Nat.log2 n
  let b := Nat.log2 d
  if b ≤ a then
    (if d * 2 ^ (a - b) ≤ n then (a : Int) - b else (a : Int) - b - 1)
  else if d ≤ n * 2 ^ (b - a) then (a : Int) - b else (a : Int) - b - 1

/-- A natural number shifted by an integer amount, downwards only as far as the caller ensures exactness. -/
def scale2 (n : Nat) (k : Int) : Nat := n * 2 ^ k.toNat

/-- The quotient of a magnitude by 2^u as a fraction. -/
def fracOf (n d : Nat) (e u : Int) : Nat × Nat := (scale2 n (e - u), scale2 d (u - e))

/-- Rounds a fraction to a whole number of units in a mode; `rnd` are the generator's 16 bits (R118, R120). -/
def roundQ (mode : Nat) (s : Bool) (n d : Nat) (rnd : Nat) : Nat :=
  let q := n / d
  let r := n % d
  let up :=
    match mode with
    | 1 => decide (d < 2 * r) || (2 * r == d && q % 2 == 1)
    | 2 => false
    | 3 => s && r != 0
    | 4 => !s && r != 0
    | 5 => decide (d ≤ 2 * r)
    | _ => false
  if mode = 6 then (n * 65536 / d + rnd) / 65536 else if up then q + 1 else q

/-- Encodes q × 2^u, a value of the format in units of its last place. -/
def pack (f : Fmt) (s : Bool) (q : Nat) (u : Int) : Nat :=
  let q' := if q = 2 ^ f.prec then q / 2 else q
  let u' := if q = 2 ^ f.prec then u + 1 else u
  let body :=
    if q' < 2 ^ f.mbits then q'
    else (u' + f.mbits + f.bias).toNat * 2 ^ f.mbits + (q' - 2 ^ f.mbits)
  body + (if s then f.signBit else 0)

/-- Whether q × 2^u exceeds the largest finite value (R119). -/
def overflows (f : Fmt) (q : Nat) (u : Int) : Bool :=
  match unpack f f.maxCode with
  | .fin _ m e => decide (scale2 m (e - u) < scale2 q (u - e))
  | _ => false

/-- The sign as the high bit of a code. -/
def signed (f : Fmt) (s : Bool) (b : Nat) : Nat := b + (if s then f.signBit else 0)

/-- What an overflow delivers (R119). -/
def overflowRes (f : Fmt) (env : FEnv) (s : Bool) (rng : Word) : FRes :=
  if env.sat || f = .e2m1 then { v := signed f s f.maxCode, fl := flSAT ||| flIX, rng := rng }
  else if env.mode = 2 || (env.mode = 3 && !s) || (env.mode = 4 && s) then
    { v := signed f s f.maxCode, fl := flOF ||| flIX, rng := rng }
  else if f = .e4m3 then { v := signed f s 0x7F, fl := flOF ||| flIX, rng := rng }
  else { v := signed f s ((2 ^ f.ebits - 1) * 2 ^ f.mbits), fl := flOF ||| flIX, rng := rng }

/-- Round: the non-zero value ± n / d × 2^e into a format (R118 to R120, R122). -/
def roundTo (f : Fmt) (env : FEnv) (rng : Word) (s : Bool) (n d : Nat) (e : Int) : FRes :=
  let rng' := env.advance rng
  let rnd := rng'.toNat / 65536
  let k := flog2 n d + e
  let ue := max k f.emin - f.mbits
  let x := fracOf n d e ue
  let q := roundQ env.mode s x.1 x.2 rnd
  let inexact := q * x.2 != x.1
  if overflows f q ue then overflowRes f env s rng'
  else
    let tiny :=
      if env.mode = 6 then q != 0 && decide (q < 2 ^ f.mbits) && ue == f.emin - f.mbits
      else if k < f.emin then
        let y := fracOf n d e (k - f.mbits)
        let q1 := roundQ env.mode s y.1 y.2 0
        !(q1 == 2 ^ f.prec && k + 1 == f.emin)
      else false
    if tiny && env.ftzo && f.flushes then { v := signed f s 0, fl := flUF ||| flIX, rng := rng' }
    else
      { v := pack f s q ue, rng := rng',
        fl := (if inexact then flIX else 0) ||| (if tiny && inexact then flUF else 0) }

/-- The delivery of an infinite result. It is one of the format's, or an overflow under R128; into E4M3 it is NaN whatever the
mode (log 23). -/
def infRes (f : Fmt) (env : FEnv) (rng : Word) (s : Bool) : FRes :=
  let rng' := env.advance rng
  if f.ieee then { v := signed f s ((2 ^ f.ebits - 1) * 2 ^ f.mbits), rng := rng' }
  else if env.sat || f = .e2m1 then { v := signed f s f.maxCode, fl := flSAT ||| flIX, rng := rng' }
  else { v := signed f s 0x7F, fl := flOF ||| flIX, rng := rng' }

/-- The delivery of a NaN result, into E2M1 as +0 with INV (R128). -/
def nanRes (f : Fmt) (env : FEnv) (rng : Word) (v : Nat) (fl : Word) : FRes :=
  if f = .e2m1 then { v := 0, fl := fl ||| flINV, rng := env.advance rng } else { v := v, fl := fl, rng := env.advance rng }

/-- A NaN operand carried into a destination format (R126; log 22 for formats of equal width). -/
def carryNan (src dst : Fmt) (b : Nat) : Nat :=
  let s := bitAt b (src.width - 1)
  if dst = .e2m1 then 0
  else if dst = .e4m3 || src = .e4m3 then signed dst s dst.defNan
  else
    let pl := b % 2 ^ (src.mbits - 1)
    let body := if src.mbits ≤ dst.mbits then pl * 2 ^ (dst.mbits - src.mbits) else pl / 2 ^ (src.mbits - dst.mbits)
    signed dst s ((2 ^ dst.ebits - 1) * 2 ^ dst.mbits + 2 ^ (dst.mbits - 1) + body)

/-- The NaN result of operands in the order of R126: the first NaN among them when NANP is set, else the default NaN. -/
def nanOf (env : FEnv) (dst : Fmt) : List (Fmt × Nat) → Nat
  | [] => dst.defNan
  | (f, b) :: t => if env.nanp && isNan f b then carryNan f dst b else nanOf env dst t

/-- INV for a signalling operand; under POISON the operation has trapped before (R70, R124). -/
def snanFl (ops : List (Fmt × Nat)) : Word := if ops.any (fun p => isSnan p.1 p.2) then flINV else 0

/-- Whether a NaN is among operands. -/
def anyNan (ops : List (Fmt × Nat)) : Bool := ops.any (fun p => isNan p.1 p.2)

/-- An exact term: NaN (a product of zero and infinity, or of a NaN), infinite, or ± m × 2^e. -/
abbrev Term := FVal

/-- The exact product of two values; 0 × ∞ is an invalid NaN, marked signalling here. -/
def mulV : FVal → FVal → FVal
  | .nan a, .nan b => .nan (a || b)
  | .nan a, _ => .nan a
  | _, .nan b => .nan b
  | .inf a, .inf b => .inf (a != b)
  | .inf a, .fin b m _ => if m = 0 then .nan true else .inf (a != b)
  | .fin a m _, .inf b => if m = 0 then .nan true else .inf (a != b)
  | .fin a m e, .fin b k g => .fin (a != b) (m * k) (e + g)

/-- Whether a product is the invalid case 0 × ∞. -/
def invProd (a b : FVal) : Bool :=
  match a, b with
  | .inf _, .fin _ m _ => m == 0
  | .fin _ m _, .inf _ => m == 0
  | _, _ => false

/-- Negates a value. -/
def negV : FVal → FVal
  | .nan a => .nan a
  | .inf s => .inf (!s)
  | .fin s m e => .fin (!s) m e

/-- The lowest exponent of non-zero finite terms. -/
def minExp : List FVal → Int → Int
  | [], d => d
  | .fin _ m e :: t, d => if m = 0 then minExp t d else minExp t (min e d)
  | _ :: t, d => minExp t d

/-- The exact sum of finite terms in units of 2^u, u at most every exponent. -/
def sumAt (u : Int) : List FVal → Int
  | [] => 0
  | .fin s m e :: t => (if s then -(scale2 m (e - u) : Int) else scale2 m (e - u)) + sumAt u t
  | _ :: t => sumAt u t

/-- Whether a term is infinite with a sign. -/
def isInf (s : Bool) : FVal → Bool
  | .inf t => s == t
  | _ => false

/-- Whether a term is a zero, or not, with a sign. -/
def isNeg : FVal → Bool
  | .fin s _ _ => s
  | .inf s => s
  | .nan _ => false

/-- The sign of an exact zero sum: that of its terms when they agree and are zeros, else minus under RDN only (log 14). -/
def zeroSign (env : FEnv) (ts : List FVal) : Bool :=
  let zeros := ts.all (fun t => match t with | .fin _ m _ => m == 0 | _ => false)
  if zeros && ts.all isNeg && !ts.isEmpty then true
  else if zeros && ts.all (fun t => !isNeg t) then false
  else env.mode == 3

/-- A sum of exact terms rounded once (R138): `ops` are the NaN operands' order, `inv` an invalid product met. -/
def sumRes (f : Fmt) (env : FEnv) (rng : Word) (ops : List (Fmt × Nat)) (inv : Bool) (ts : List FVal) : FRes :=
  let pos := ts.any (isInf false)
  let neg := ts.any (isInf true)
  let inv' := inv || (pos && neg)
  let fl := snanFl ops ||| (if inv' then flINV else 0)
  if anyNan ops then nanRes f env rng (nanOf env f ops) fl
  else if inv' then nanRes f env rng f.defNan fl
  else if pos then infRes f env rng false
  else if neg then infRes f env rng true
  else
    let u := minExp ts 4096
    let x := sumAt u ts
    if x = 0 then { v := signed f (zeroSign env ts) 0, rng := env.advance rng }
    else roundTo f env rng (decide (x < 0)) x.natAbs 1 u

/-- A + B. -/
def fAdd (f : Fmt) (env : FEnv) (rng : Word) (a b : Nat) : FRes :=
  let a := ftziBits f env a
  let b := ftziBits f env b
  sumRes f env rng [(f, a), (f, b)] false [unpack f a, unpack f b]

/-- A − B. -/
def fSub (f : Fmt) (env : FEnv) (rng : Word) (a b : Nat) : FRes :=
  let a := ftziBits f env a
  let b := ftziBits f env b
  sumRes f env rng [(f, a), (f, b)] false [unpack f a, negV (unpack f b)]

/-- A × B. -/
def fMul (f : Fmt) (env : FEnv) (rng : Word) (a b : Nat) : FRes :=
  let a := ftziBits f env a
  let b := ftziBits f env b
  let x := unpack f a
  let y := unpack f b
  sumRes f env rng [(f, a), (f, b)] (invProd x y) [mulV x y]

/-- The products of two lists of values. -/
def prods (xs ys : List FVal) : List FVal := List.zipWith mulV xs ys

/-- Whether any product of two lists is invalid. -/
def anyInv (xs ys : List FVal) : Bool := (List.zipWith invProd xs ys).any id

/-- Σ A_i × B_i + C, exact products and one rounding: sources in format `g`, C and the result in `f` (R146 to R148). -/
def fDot (g f : Fmt) (env : FEnv) (rng : Word) (as bs : List Nat) (c : Nat) : FRes :=
  let as := as.map (ftziBits g env)
  let bs := bs.map (ftziBits g env)
  let c := ftziBits f env c
  let xs := as.map (unpack g)
  let ys := bs.map (unpack g)
  sumRes f env rng (as.map (fun a => (g, a)) ++ bs.map (fun b => (g, b)) ++ [(f, c)]) (anyInv xs ys)
    (prods xs ys ++ [unpack f c])

/-- A × B + C in one format. -/
def fFma (f : Fmt) (env : FEnv) (rng : Word) (a b c : Nat) : FRes := fDot f f env rng [a] [b] c

/-- A / B, correctly rounded (R136, R137). -/
def fDivide (env : FEnv) (rng : Word) (a b : Nat) : FRes :=
  let a := ftziBits .f32 env a
  let b := ftziBits .f32 env b
  let ops := [(Fmt.f32, a), (Fmt.f32, b)]
  let bad : FRes := nanRes .f32 env rng Fmt.f32.defNan flINV
  match unpack .f32 a, unpack .f32 b with
  | .nan _, _ => nanRes .f32 env rng (nanOf env .f32 ops) (snanFl ops)
  | _, .nan _ => nanRes .f32 env rng (nanOf env .f32 ops) (snanFl ops)
  | .inf _, .inf _ => bad
  | .inf s, .fin t _ _ => infRes .f32 env rng (s != t)
  | .fin s _ _, .inf t => { v := signed .f32 (s != t) 0, rng := env.advance rng }
  | .fin s m e, .fin t k g =>
    if k = 0 then
      (if m = 0 then bad else { infRes .f32 env rng (s != t) with fl := flDZ })
    else if m = 0 then { v := signed .f32 (s != t) 0, rng := env.advance rng }
    else roundTo .f32 env rng (s != t) m k (e - g)

/-- The integer square root of n, by bits from 2^k down: `r` is the root so far. -/
def isqrt (n : Nat) : Nat → Nat → Nat
  | 0, r => if (r + 1) * (r + 1) ≤ n then r + 1 else r
  | k + 1, r => isqrt n k (if (r + 2 ^ (k + 1)) * (r + 2 ^ (k + 1)) ≤ n then r + 2 ^ (k + 1) else r)

/-- √x, correctly rounded: the root to 60 bits and more with a last bit that says whether it is exact (R136, R137). -/
def fSqrt (env : FEnv) (rng : Word) (a : Nat) : FRes :=
  let a := ftziBits .f32 env a
  match unpack .f32 a with
  | .nan _ => nanRes .f32 env rng (nanOf env .f32 [(.f32, a)]) (snanFl [(.f32, a)])
  | .inf s => if s then nanRes .f32 env rng Fmt.f32.defNan flINV else infRes .f32 env rng false
  | .fin s m e =>
    if m = 0 then { v := signed .f32 s 0, rng := env.advance rng }
    else if s then nanRes .f32 env rng Fmt.f32.defNan flINV
    else
      let m1 := if e % 2 = 0 then m else 2 * m
      let e1 := if e % 2 = 0 then e else e - 1
      let n := m1 * 2 ^ 120
      let r := isqrt n 80 0
      roundTo .f32 env rng false (2 * r + (if r * r = n then 0 else 1)) 2 (e1 / 2 - 60)

/-- Whether a value orders below another: −0 below +0 (R127). -/
def ltV : FVal → FVal → Bool
  | .fin s m e, .fin t k g =>
    let u := min e g
    let x := sumAt u [.fin s m e]
    let y := sumAt u [.fin t k g]
    decide (x < y) || (decide (x = y) && m == 0 && s && !t)
  | .inf s, .inf t => s && !t
  | .inf s, _ => s
  | _, .inf t => !t
  | _, _ => false

/-- The magnitude of a value. -/
def absV : FVal → FVal
  | .nan a => .nan a
  | .inf _ => .inf false
  | .fin _ m e => .fin false m e

/-- Minimum and maximum of a format, by value or by magnitude (R127, R146). -/
def fMinMax (f : Fmt) (isMax mag : Bool) (env : FEnv) (rng : Word) (a b : Nat) : FRes :=
  let a := ftziBits f env a
  let b := ftziBits f env b
  let x := unpack f a
  let y := unpack f b
  let ops := [(f, a), (f, b)]
  let fl := snanFl ops
  let lo (p q : FVal) : Bool := if isMax then ltV q p else ltV p q
  let first : Bool :=
    if mag && lo (absV x) (absV y) then true
    else if mag && lo (absV y) (absV x) then false
    else lo x y
  if anyNan ops then
    if env.mmode && fl = 0 && !(isNan f a && isNan f b) then
      { v := if isNan f a then b else a, rng := rng }
    else { v := nanOf env f ops, fl := fl, rng := rng }
  else { v := if first then a else b, rng := rng }

/-- A value of one format rounded into another, times 2^k, NaN operands named by `ops` (R128, R150, R151). -/
def fConv (src dst : Fmt) (env : FEnv) (rng : Word) (b : Nat) (k : Int) : FRes :=
  let b := ftziBits src env b
  match unpack src b with
  | .nan _ => nanRes dst env rng (nanOf env dst [(src, b)]) (snanFl [(src, b)])
  | .inf s => infRes dst env rng s
  | .fin s m e =>
    if m = 0 then { v := signed dst s 0, rng := env.advance rng } else roundTo dst env rng s m 1 (e + k)

/-- An integer rounded into a format (R128). -/
def fOfInt (dst : Fmt) (env : FEnv) (rng : Word) (x : Int) : FRes :=
  if x = 0 then { v := 0, rng := env.advance rng } else roundTo dst env rng (decide (x < 0)) x.natAbs 1 0

/-- A floating value as an integer between bounds (R128): the integer with flags. -/
def fToInt (src : Fmt) (env : FEnv) (rng : Word) (b : Nat) (lo hi : Int) : Int × Word × Word :=
  let b := ftziBits src env b
  let rng' := env.advance rng
  match unpack src b with
  | .nan _ => (0, flINV, rng')
  | .inf s => (if s then lo else hi, flINV, rng')
  | .fin s m e =>
    let x := fracOf m 1 e 0
    let q := roundQ env.mode s x.1 x.2 (rng'.toNat / 65536)
    let v : Int := if s then -(q : Int) else q
    if v < lo then (lo, flINV, rng')
    else if hi < v then (hi, flINV, rng')
    else (v, if q * x.2 != x.1 then flIX else 0, rng')

/-- The value of an E8M0 byte as an exponent; 0xFF is a NaN (R113). -/
def e8m0 (b : Nat) : Option Int := if b % 256 = 255 then none else some ((b % 256 : Nat) - 127)

/-- The parity of a number's low seven bits. -/
def parity7 (n : Nat) : Bool :=
  (List.range 7).foldl (fun p i => p != bitAt n i) false

/-- LQ2Decode at scale 1 (R117): weight i of a code under a table entry, as sign and magnitude in halves. -/
def lq2 (entry : Word) (c i : Nat) : FVal :=
  let k := bits entry.toNat (4 * i + 3) (4 * i)
  let mag := 2 * k + 1 - (if bitAt c 15 then 1 else 0)
  let neg := if i < 7 then bitAt c (8 + i) else parity7 (c / 256 % 128)
  if mag = 0 then .fin false 0 0 else .fin neg mag (-1)

/-- A weight into a format, times 2^k: exact in halves, then rounded. -/
def lqRound (dst : Fmt) (env : FEnv) (rng : Word) (w : FVal) (k : Int) : FRes :=
  match w with
  | .fin s m e => if m = 0 then { v := signed dst s 0, rng := env.advance rng } else roundTo dst env rng s m 1 (e + k)
  | _ => { v := dst.defNan, rng := env.advance rng }

/-! Matrix pass arithmetic and ALN (R133, R134). -/

/-- floor(log2 |t|) of a non-zero finite term. -/
def termLog : FVal → Option Int
  | .fin _ m e => if m = 0 then none else some ((Nat.log2 m : Int) + e)
  | _ => none

/-- The largest exponent among terms. -/
def maxLog : List FVal → Option Int → Option Int
  | [], d => d
  | t :: r, d =>
    match termLog t, d with
    | some a, some b => maxLog r (some (max a b))
    | some a, none => maxLog r (some a)
    | none, d => maxLog r d

/-- A finite term in units of 2^g, toward zero. -/
def truncAt (g : Int) : FVal → Int
  | .fin s m e =>
    let q : Int := ((scale2 m (e - g) / 2 ^ (g - e).toNat : Nat) : Int)
    if s then -q else q
  | _ => 0

/-- PassElement (R133). -/
def passElement (env : FEnv) (ts : List FVal) : Nat :=
  let nan := ts.any (fun t => match t with | .nan _ => true | _ => false)
  let pos := ts.any (isInf false)
  let neg := ts.any (isInf true)
  if nan || (pos && neg) then 0x7FC00000
  else if pos then 0x7F800000
  else if neg then 0xFF800000
  else
    match maxLog ts none with
    | none => 0
    | some em =>
      let g := em - 26
      let x := ts.foldl (fun a t => a + truncAt g t) (0 : Int)
      if x = 0 then 0 else (roundTo .f32 { env with mode := 1, sat := false } 0 (decide (x < 0)) x.natAbs 1 g).v

/-- Whether a code is a normal value. -/
def isNormal (f : Fmt) (b : Nat) : Bool :=
  match unpack f b with
  | .fin _ _ _ => b / 2 ^ f.mbits % 2 ^ f.ebits != 0
  | _ => false

/-- The exponent byte of a block of ALN contributions, and its special bit (R134 phase 1). -/
def alnExp (f : Fmt) : List Nat → Nat × Bool
  | [] => (0, false)
  | b :: t =>
    let r := alnExp f t
    match unpack f b with
    | .fin _ m e => (if isNormal f b then max r.1 ((Nat.log2 m : Int) + e + 127).toNat else r.1, r.2)
    | _ => (r.1, true)

/-- The int32 of one element (R134 phase 2). `ebyte` is E + 127. -/
def alnQ (f : Fmt) (ebyte : Nat) (b : Nat) : Int :=
  match unpack f b with
  | .fin s m e => truncAt ((ebyte : Int) - 127 - 30) (.fin s m e)
  | _ => 0

/-- A sum modulo 2^48 as two's complement. -/
def wrap48 (x : Int) : Int := (x + 2 ^ 47) % 2 ^ 48 - 2 ^ 47

/-- The result of an element (R134 phase 3). -/
def alnResult (f : Fmt) (ebyte : Nat) (special : Bool) (sum : Int) : Nat :=
  let x := wrap48 sum
  if special then f.defNan
  else if x = 0 then 0
  else (roundTo f {} 0 (decide (x < 0)) x.natAbs 1 ((ebyte : Int) - 127 - 30)).v

end Sys2Proof.Machine
end

