-- ==== Sys2Proof/Fields.lean ====
section
/-! DEFINITION. What stands inside an instruction: the fields of each encoding format of R34, and what each event
of the opcode table carries. Every structure of a word begins with `sw`, the switch marker S of bit 31 (R31). -/

namespace Sys2Proof

/-- HNOP: 20:0 payload. `minor` is the hint minor, 0 or 8 to 15 (R49). -/
structure FHnop where
  sw : Bool
  minor : BitVec 4
  p : BitVec 21
  deriving DecidableEq, Repr

/-- HIMM.LO and HIMM.HI: 15:0 value (R49). -/
structure FHimm where
  sw : Bool
  v : BitVec 16
  deriving DecidableEq, Repr

/-- HOFS: 20:0 signed byte offset (R49). -/
structure FHofs where
  sw : Bool
  o : BitVec 21
  deriving DecidableEq, Repr

/-- HCACHE: 2:0 policy. HREUSE: 2:0 last-use bits (R49). -/
structure FH3 where
  sw : Bool
  p : BitVec 3
  deriving DecidableEq, Repr

/-- HSTALL: 3:0 core clocks (R49). -/
structure FHstall where
  sw : Bool
  n : BitVec 4
  deriving DecidableEq, Repr

/-- HPRIO: 1:0 warp issue priority (R49). -/
structure FHprio where
  sw : Bool
  p : BitVec 2
  deriving DecidableEq, Repr

/-- The prefix word XP, format P (R34, R53). -/
structure FXp where
  sw : Bool
  m : BitVec 3
  z : Bool
  r : BitVec 3
  c : BitVec 7
  e : Bool
  t : Bool
  x : BitVec 2
  i : Bool
  j : Bool
  k : Bool
  n : Bool
  o : Bool
  deriving DecidableEq, Repr

/-- Format B: mask, priority and signed word offset (R34). -/
structure FBr where
  sw : Bool
  m : BitVec 3
  p : BitVec 3
  o : BitVec 17
  deriving DecidableEq, Repr

/-- Format J (R34). -/
structure FCall where
  sw : Bool
  o : BitVec 25
  deriving DecidableEq, Repr

/-- Format L (R34). -/
structure FLoop where
  sw : Bool
  l : BitVec 2
  p : BitVec 3
  o : BitVec 20
  deriving DecidableEq, Repr

/-- Format C with F2 only: JMPI, CALLI, TLBINV (R88, R418). -/
structure FA where
  sw : Bool
  a : BitVec 7
  deriving DecidableEq, Repr

/-- A word with no field but S. -/
structure FNone where
  sw : Bool
  deriving DecidableEq, Repr

/-- Format C with a code: TRAP, SYSC, BRK (R88). -/
structure FCode where
  sw : Bool
  c : BitVec 7
  deriving DecidableEq, Repr

/-- Format C with a rejoin register: ENROL, JOIN, STRIKE (R88). -/
structure FJ where
  sw : Bool
  j : BitVec 3
  deriving DecidableEq, Repr

/-- LSET (R88, R92). -/
structure FLset where
  sw : Bool
  l : BitVec 2
  a : BitVec 7
  deriving DecidableEq, Repr

/-- Three 7-bit register fields: formats VR, SR and A (R34). -/
structure FDab where
  sw : Bool
  d : BitVec 7
  a : BitVec 7
  b : BitVec 7
  deriving DecidableEq, Repr

/-- Two 7-bit register fields, the third a zero field. -/
structure FDa where
  sw : Bool
  d : BitVec 7
  a : BitVec 7
  deriving DecidableEq, Repr

/-- Formats VI and SI: two registers and imm9 (R34). -/
structure FImm where
  sw : Bool
  d : BitVec 7
  a : BitVec 7
  i : BitVec 9
  deriving DecidableEq, Repr

/-- MOVI and SMOVI: one register and imm9 (R145, R159). -/
structure FMovi where
  sw : Bool
  d : BitVec 7
  i : BitVec 9
  deriving DecidableEq, Repr

/-- Format CV (R34, R149). -/
structure FCvt where
  sw : Bool
  t : BitVec 4
  u : BitVec 4
  d : BitVec 7
  a : BitVec 7
  e : BitVec 3
  deriving DecidableEq, Repr

/-- SCVT.UP and SCVT.DN: byte select and three registers (R150, R151). -/
structure FScvt where
  sw : Bool
  e : BitVec 2
  d : BitVec 7
  a : BitVec 7
  b : BitVec 7
  deriving DecidableEq, Repr

/-- Format CM (R34, R152). -/
structure FCmp where
  sw : Bool
  m : BitVec 3
  a : BitVec 7
  b : BitVec 7
  deriving DecidableEq, Repr

/-- MAND, MOR, MXOR, MANDN (R153). -/
structure FMask3 where
  sw : Bool
  d : BitVec 3
  a : BitVec 3
  b : BitVec 3
  deriving DecidableEq, Repr

/-- MNOT (R153). -/
structure FMask2 where
  sw : Bool
  d : BitVec 3
  a : BitVec 3
  deriving DecidableEq, Repr

/-- MPOPC, MFFS, MTOS (R153). -/
structure FMaskS where
  sw : Bool
  a : BitVec 3
  n : BitVec 6
  deriving DecidableEq, Repr

/-- MFROMS (R153). -/
structure FMfroms where
  sw : Bool
  d : BitVec 3
  n : BitVec 6
  deriving DecidableEq, Repr

/-- MFC, MFCV (R160); MFCP (R419): a register and a control-register number. -/
structure FMfc where
  sw : Bool
  d : BitVec 7
  n : BitVec 7
  deriving DecidableEq, Repr

/-- MTC (R160) and MTCP (R419): a source register and a control-register number. -/
structure FMtc where
  sw : Bool
  a : BitVec 7
  n : BitVec 7
  deriving DecidableEq, Repr

/-- Fields A and B: VWRI, LQTBL, SLICE.REDL.I32. -/
structure FAb where
  sw : Bool
  a : BitVec 7
  b : BitVec 7
  deriving DecidableEq, Repr

/-- XSET (R160, R162). -/
structure FXset where
  sw : Bool
  x : BitVec 2
  a : BitVec 7
  g : Bool
  l : BitVec 2
  deriving DecidableEq, Repr

/-- Format M (R34). -/
structure FMem where
  sw : Bool
  d : BitVec 7
  a : BitVec 7
  p : BitVec 4
  c : BitVec 4
  deriving DecidableEq, Repr

/-- PREF (R218). -/
structure FPref where
  sw : Bool
  a : BitVec 7
  deriving DecidableEq, Repr

/-- SLICE.LDL (R388). -/
structure FLdl where
  sw : Bool
  d : BitVec 7
  a : BitVec 7
  l : BitVec 2
  deriving DecidableEq, Repr

/-- SLICE.CSTM (R388). -/
structure FCstm where
  sw : Bool
  d : BitVec 7
  a : BitVec 7
  m : BitVec 4
  deriving DecidableEq, Repr

/-- KSCOPE (R187). -/
structure FKscope where
  sw : Bool
  d : BitVec 4
  o : BitVec 9
  deriving DecidableEq, Repr

/-- KDEF: produce and consume key (R187). KFORK uses the same places for Kd and Ks. -/
structure FKdef where
  sw : Bool
  p : BitVec 4
  c : BitVec 4
  deriving DecidableEq, Repr

/-- KJOIN (R187). -/
structure FKjoin where
  sw : Bool
  d : BitVec 4
  a : BitVec 4
  b : BitVec 4
  deriving DecidableEq, Repr

/-- KWAIT (R187). -/
structure FKwait where
  sw : Bool
  c : BitVec 4
  deriving DecidableEq, Repr

/-- KSEND (R187). -/
structure FKsend where
  sw : Bool
  p : BitVec 4
  c : BitVec 4
  s : BitVec 6
  deriving DecidableEq, Repr

/-- KRECV and KPOLL: one key and an S number (R187). -/
structure FKs where
  sw : Bool
  k : BitVec 4
  s : BitVec 6
  deriving DecidableEq, Repr

/-- PBIND (R242). -/
structure FPbind where
  sw : Bool
  p : BitVec 3
  s : BitVec 7
  deriving DecidableEq, Repr

/-- PUSH (R242). -/
structure FPush where
  sw : Bool
  p : BitVec 3
  v : BitVec 7
  c : BitVec 4
  deriving DecidableEq, Repr

/-- POP, PPEEK, PSTAT (R242). -/
structure FPop where
  sw : Bool
  p : BitVec 3
  d : BitVec 7
  deriving DecidableEq, Repr

/-- PUNBIND (R242). -/
structure FPort where
  sw : Bool
  p : BitVec 3
  deriving DecidableEq, Repr

/-- A V register, an S number and both keys: formats CP, CRF and GF (R34). -/
structure FCp where
  sw : Bool
  v : BitVec 7
  n : BitVec 6
  p : BitVec 4
  c : BitVec 4
  deriving DecidableEq, Repr

/-- One V register: TCANCEL, MXHBIND, MXHGEN, SCBIND, SCINV. -/
structure FV where
  sw : Bool
  v : BitVec 7
  deriving DecidableEq, Repr

/-- A V register and an S number: RCREAD, CPOLL, CRSTAT. -/
structure FVn where
  sw : Bool
  v : BitVec 7
  n : BitVec 6
  deriving DecidableEq, Repr

/-- A V register and both keys: MXPOST, MXRD, MXWR, MXZERO, SCLOAD, GLAUNCH. -/
structure FMx where
  sw : Bool
  v : BitVec 7
  p : BitVec 4
  c : BitVec 4
  deriving DecidableEq, Repr

/-- CRALLOC and CRALLOC.W: vD and n/2 (R343). -/
structure FAlloc where
  sw : Bool
  d : BitVec 7
  n : BitVec 5
  deriving DecidableEq, Repr

/-- BINIT and BSTAT: a barrier and an S number (R372). -/
structure FBs where
  sw : Bool
  b : BitVec 4
  s : BitVec 6
  deriving DecidableEq, Repr

/-- BARV and BSYNC: a barrier and both keys (R372). -/
structure FBar where
  sw : Bool
  b : BitVec 4
  p : BitVec 4
  c : BitVec 4
  deriving DecidableEq, Repr

/-- BWAIT (R372). -/
structure FBwait where
  sw : Bool
  b : BitVec 4
  deriving DecidableEq, Repr

/-- GSTAT (R377). -/
structure FGstat where
  sw : Bool
  d : BitVec 6
  n : BitVec 6
  deriving DecidableEq, Repr

/-! What the events of the table carry. They have no encoding: the device, the host, a debugger or a peer device
sets them going, and the state names what they act on. -/

/-- Who waits for a page (R201): a warp's group, a copy (R267), a matrix post (R289), a Creel buffer (R340), the
completion word of a grid (R358), or a request of another device (R322). -/
inductive WalkFor where
  | warp (uid : Nat)
  | copy (id : Nat)
  | post (id : Nat)
  | creel (buf : Nat)
  | grid (key : Nat)
  | queue (q : Nat)
  | fabric (ch : Nat) (seq : Nat)
  deriving DecidableEq, Repr

/-- A page walk under way (R197, R201): who asked, for which address and access kind (R201's KIND), and the warp and
lanes a page request names. -/
structure WalkReq where
  who : WalkFor
  core : Nat
  ctx : Nat
  uid : Nat
  va : Addr
  kind : BitVec 2
  lanes : Lanes
  page : Nat
  deriving DecidableEq, Repr

/-- A fabric request as it arrives (R306, R307, R315). `valid` says the sequencing fields are valid. `std` marks an
atomic request of the standard; `virt` a write of a one-sided collective, whose address the target translates (R322); `src` the
device that sends it. What a copy's landing carries besides (log 40): `rc` the receive counter its bytes count on (R319),
`owes` that its bytes need a counter core (R261), and its reduce operator with the element code (R251). `covers` are the
members that a message combined in a switch stands for (R327); `held` says that the request waits in its holding entry
(R314), and `dup` that it has been counted as a duplicate (R316). -/
structure FabReq where
  ch : Nat
  seq : BitVec 16
  pred : BitVec 16
  sold : BitVec 16
  valid : Bool
  std : Bool
  write : Bool
  addr : Nat
  data : List (Nat × Byte)
  len : Nat
  virt : Bool := false
  rc : Option Nat := none
  owes : Bool := false
  rop : Nat := 0
  code : Nat := 0
  covers : Nat := 1
  held : Bool := false
  dup : Bool := false
  src : Nat := 0
  deriving DecidableEq, Repr

/-- A fabric response: the request it answers, the refusal reason (0 when applied) and data (R315). -/
structure FabResp where
  ch : Nat
  seq : BitVec 16
  reason : Nat
  data : List Byte
  deriving DecidableEq, Repr

/-- A 64-byte message of the message window, as sixteen words, on a channel of this device (R309, R310), with the members it
stands for when a switch has combined it (R327). -/
structure Msg where
  ch : Nat
  words : List Word
  covers : Nat := 1
  deriving DecidableEq, Repr

/-- Where a Creel arrival comes from: an operation of a warp, a copy landing, or a fabric request (R332). -/
inductive ArrSrc where
  | op (id unit : Nat)
  | copy (id ix : Nat)
  | fabric (ch : Nat) (seq : BitVec 16)
  deriving DecidableEq, Repr

/-- A Creel arrival: the bytes of one write request in a buffer's window, by window offset (R332). -/
structure Arrival where
  buf : Nat
  data : List (Nat × Byte)
  src : ArrSrc
  deriving DecidableEq, Repr

/-- A host access over Avtos: to device memory at its home slice, or a host write to its own SYS memory (R412). `dbg` names
the context for which a debugger makes it (R401). -/
structure HostAcc where
  write : Bool
  sys : Bool
  addr : Nat
  len : Nat
  data : List Byte
  dbg : Option Nat := none
  deriving DecidableEq, Repr

/-- One 32-byte kernel descriptor (R64). -/
structure Kernel where
  entry : Nat
  vregs : Nat
  warps : Nat
  wide : Bool
  gang : Nat
  weave : Bool
  lanePorts : Bool
  trap : Bool
  scratch : Nat
  name : Nat := 0
  deriving DecidableEq, Repr

/-- A code object as the loader installs it in a context: its handle, where text and data are mapped, whether it runs
interlocked, its kernels, and its whole image, by which the loader knows it again (R63 to R65, R417). -/
structure CodeObj where
  handle : Nat
  text : Nat
  data : Nat
  interlock : Bool
  kernels : List Kernel
  image : List Byte := []
  deriving DecidableEq, Repr

/-- A code object given to the loader: its image, and the virtual addresses that the runtime has chosen for its text and its
data (R63, R65). -/
structure ObjFile where
  handle : Nat
  text : Nat
  data : Nat
  bytes : List Byte
  deriving DecidableEq, Repr

/-- What ALLOTMENT_SET sets for a context (R262, R287, R329, R359, R409). -/
inductive Allot where
  | tiles (core : Nat) (mask : BitVec 16)
  | counters (core : Nat) (mask : BitVec 64)
  | creel (die : Nat) (mask : BitVec 8)
  | share (cores : List Nat)
  deriving DecidableEq, Repr

/-- Who speaks on the management interface: system software of a world, or management firmware (R392, R418). -/
inductive Requester where
  | software (secure : Bool) | firmware
  deriving DecidableEq, Repr

/-- What a requester asks for on the management interface, with who asks. -/
structure Asked (α : Type) where
  who : Requester
  what : α
  deriving DecidableEq, Repr

/-- A recorded segment, by its number, and the context to replay it in (R407). -/
structure ReplayOf where
  seg : Nat
  ctx : Nat
  deriving DecidableEq, Repr

/-- A management write to a table or register without a row of its own (R350, R321, R414, R417, R317, R400). -/
inductive MgmtWrite where
  | queue (q : Nat) (words : List Word)
  | groupTable (ctx base : Nat)
  | group (ctx g : Nat) (words : List Word)
  | region (die e : Nat) (base limit : BitVec 64)
  | hashLane (peer h port : Nat)
  | load (ctx : Nat) (file : ObjFile)
  | unload (ctx handle : Nat)
  | fretry (v : Word)
  | deviceNumber (n : Nat)
  | observe (who : Requester) (ctx header : Nat)
  | readObs (who : Requester) (ctx : Nat)
  | root (ctx table : Nat)
  | sample (core temp : Nat)
  | powerCap (watts : Nat)
  | power (watts : Nat)
  | readErrors
  deriving DecidableEq, Repr

/-- An error record's contents but SEQ and COUNT (R427). -/
structure EccRec where
  unit : Nat
  die : Nat
  uncorr : Bool
  index : Word
  addr : Nat
  deriving DecidableEq, Repr

/-- The clock domains of R5 whose unit counts the model keeps. -/
inductive Unit5 where
  | core (c : Nat)
  | mesh (die : Nat)
  | lpddr (channel : Nat)
  deriving DecidableEq, Repr

/-- A management session message of SPDM 1.2 (R416's Attestation): its payload bytes. -/
structure SpdmReq where
  payload : List Byte
  deriving DecidableEq, Repr

end Sys2Proof
end

