-- ==== Sys2Proof/Syntax.lean ====
section
/-! DEFINITION. The instructions: one constructor for each row of the opcode table, first the 345 words of R54 in the
order of the opcode map, then the 115 events of the device, the host and the fabric. -/

namespace Sys2Proof

/-- An instruction word with its fields, or an event with what it acts on. -/
inductive Instr where
  -- major 0x01 HINT
  | hnop (o : FHnop)
  | himmLo (o : FHimm)
  | himmHi (o : FHimm)
  | hofs (o : FHofs)
  | hcache (o : FH3)
  | hreuse (o : FH3)
  | hstall (o : FHstall)
  | hprio (o : FHprio)
  -- major 0x02 XP
  | xp (o : FXp)
  -- major 0x03 BR
  | brT (o : FBr)
  | brF (o : FBr)
  | brAny (o : FBr)
  | brAll (o : FBr)
  -- major 0x04 CALL
  | call (o : FCall)
  -- major 0x05 LOOP
  | loopb (o : FLoop)
  -- major 0x06 CTL
  | jmpi (o : FA)
  | calli (o : FA)
  | ret (o : FNone)
  | exit (o : FNone)
  | trap (o : FCode)
  | sysc (o : FCode)
  | brk (o : FCode)
  | yield (o : FNone)
  | nop (o : FNone)
  | enrol (o : FJ)
  | join (o : FJ)
  | strike (o : FJ)
  | lset (o : FLset)
  | drain (o : FNone)
  | eret (o : FNone)
  -- major 0x08 VINT
  | iadd (o : FDab)
  | isub (o : FDab)
  | imul (o : FDab)
  | imulhI (o : FDab)
  | imulhN (o : FDab)
  | imad (o : FDab)
  | andV (o : FDab)
  | orV (o : FDab)
  | xorV (o : FDab)
  | shl (o : FDab)
  | shr (o : FDab)
  | sar (o : FDab)
  | minI (o : FDab)
  | minN (o : FDab)
  | maxI (o : FDab)
  | maxN (o : FDab)
  -- major 0x09 VINT.S
  | iaddS (o : FDab)
  | isubS (o : FDab)
  | imulS (o : FDab)
  | imulhIS (o : FDab)
  | imulhNS (o : FDab)
  | imadS (o : FDab)
  | andS (o : FDab)
  | orS (o : FDab)
  | xorS (o : FDab)
  | shlS (o : FDab)
  | shrS (o : FDab)
  | sarS (o : FDab)
  | minIS (o : FDab)
  | minNS (o : FDab)
  | maxIS (o : FDab)
  | maxNS (o : FDab)
  -- major 0x0A VBIT
  | popc (o : FDa)
  | clz (o : FDa)
  | brev (o : FDa)
  | bfeI (o : FDab)
  | bfeN (o : FDab)
  | bfi (o : FDab)
  | sel (o : FDab)
  | prmt (o : FDab)
  | andn (o : FDab)
  | absdI (o : FDab)
  | iaddD (o : FDab)
  | isubD (o : FDab)
  | shlD (o : FDab)
  | shrD (o : FDab)
  | imulwI (o : FDab)
  | imulwN (o : FDab)
  -- major 0x0B VINT.I
  | iaddi (o : FImm)
  | andi (o : FImm)
  | xori (o : FImm)
  | movi (o : FMovi)
  -- major 0x0C VF32
  | fadd (o : FDab)
  | fsub (o : FDab)
  | fmul (o : FDab)
  | ffma (o : FDab)
  | fmin (o : FDab)
  | fmax (o : FDab)
  | fminm (o : FDab)
  | fmaxm (o : FDab)
  | fabs (o : FDa)
  | fneg (o : FDa)
  | frcp (o : FDa)
  | frsq (o : FDa)
  | fsqrt (o : FDa)
  | fex2 (o : FDa)
  | flg2 (o : FDa)
  | fdiv (o : FDab)
  -- major 0x0D VF32.S
  | faddS (o : FDab)
  | fsubS (o : FDab)
  | fmulS (o : FDab)
  | ffmaS (o : FDab)
  | fminS (o : FDab)
  | fmaxS (o : FDab)
  | fminmS (o : FDab)
  | fmaxmS (o : FDab)
  | fsinS (o : FDa)
  | fcosS (o : FDa)
  | ftanhS (o : FDa)
  | fsigmS (o : FDa)
  | ferfS (o : FDa)
  -- major 0x0E VH2
  | hadd (o : FDab)
  | hsub (o : FDab)
  | hmul (o : FDab)
  | hfma (o : FDab)
  | hmin (o : FDab)
  | hmax (o : FDab)
  | badd (o : FDab)
  | bsub (o : FDab)
  | bmul (o : FDab)
  | bfma (o : FDab)
  | bmin (o : FDab)
  | bmax (o : FDab)
  | hdot2 (o : FDab)
  | bdot2 (o : FDab)
  -- major 0x0F VQ
  | qaddE4m3 (o : FDab)
  | qsubE4m3 (o : FDab)
  | qmulE4m3 (o : FDab)
  | qaddE5m2 (o : FDab)
  | qsubE5m2 (o : FDab)
  | qmulE5m2 (o : FDab)
  | qdot4E4m3 (o : FDab)
  | qdot4E5m2 (o : FDab)
  | qdot4I8 (o : FDab)
  | qdot4N8 (o : FDab)
  | xdot8E2m1 (o : FDab)
  | qmaxE4m3 (o : FDab)
  | qminE4m3 (o : FDab)
  | qaddI8 (o : FDab)
  | qaddN8 (o : FDab)
  | qmaxI8 (o : FDab)
  -- major 0x10 VCVT
  | cvt (o : FCvt)
  -- major 0x11 SCVT.UP
  | scvtUpE4m3 (o : FScvt)
  | scvtUpE5m2 (o : FScvt)
  | scvtUpE2m1 (o : FScvt)
  | scvtUpLq2 (o : FScvt)
  -- major 0x12 SCVT.DN
  | scvtDnE4m3 (o : FScvt)
  | scvtDnE5m2 (o : FScvt)
  | scvtDnE2m1 (o : FScvt)
  -- major 0x13 VCMP
  | cmpEq (o : FCmp)
  | cmpNe (o : FCmp)
  | cmpLtI (o : FCmp)
  | cmpLeI (o : FCmp)
  | cmpLtN (o : FCmp)
  | cmpLeN (o : FCmp)
  | cmpFeq (o : FCmp)
  | cmpFne (o : FCmp)
  | cmpFlt (o : FCmp)
  | cmpFle (o : FCmp)
  | cmpFuno (o : FCmp)
  | cmpFord (o : FCmp)
  | cmpTstz (o : FCmp)
  | cmpTstnz (o : FCmp)
  -- major 0x14 VCMP.S
  | cmpEqS (o : FCmp)
  | cmpNeS (o : FCmp)
  | cmpLtIS (o : FCmp)
  | cmpLeIS (o : FCmp)
  | cmpLtNS (o : FCmp)
  | cmpLeNS (o : FCmp)
  | cmpFeqS (o : FCmp)
  | cmpFneS (o : FCmp)
  | cmpFltS (o : FCmp)
  | cmpFleS (o : FCmp)
  | cmpFunoS (o : FCmp)
  | cmpFordS (o : FCmp)
  | cmpTstzS (o : FCmp)
  | cmpTstnzS (o : FCmp)
  -- major 0x15 MASK
  | mand (o : FMask3)
  | mor (o : FMask3)
  | mxor (o : FMask3)
  | mandn (o : FMask3)
  | mnot (o : FMask2)
  | mpopc (o : FMaskS)
  | mffs (o : FMaskS)
  | mfroms (o : FMfroms)
  | mtos (o : FMaskS)
  -- major 0x16 XLANE
  | shflIdx (o : FDab)
  | shflUp (o : FDab)
  | shflDn (o : FDab)
  | shflXor (o : FDab)
  | voteAny (o : FDa)
  | voteAll (o : FDa)
  | ballot (o : FDa)
  | matchV (o : FDa)
  | redxAddI (o : FDa)
  | redxAddF (o : FDa)
  | redxMinI (o : FDa)
  | redxMaxI (o : FDa)
  | scanAddI (o : FDa)
  | scanAddF (o : FDa)
  | bcast (o : FDa)
  -- major 0x17 SALU
  | sadd (o : FDab)
  | ssub (o : FDab)
  | smul (o : FDab)
  | sand (o : FDab)
  | sor (o : FDab)
  | sxor (o : FDab)
  | sshl (o : FDab)
  | sshr (o : FDab)
  | ssar (o : FDab)
  | sminI (o : FDab)
  | smaxI (o : FDab)
  | sminN (o : FDab)
  | smaxN (o : FDab)
  | saddD (o : FDab)
  | scmp (o : FDab)
  | ssel (o : FDab)
  -- major 0x18 SALU.I
  | saddi (o : FImm)
  | smovi (o : FMovi)
  | sandi (o : FImm)
  | sshli (o : FImm)
  -- major 0x19 MOV
  | movv (o : FDa)
  | movVs (o : FDa)
  | movSv (o : FDab)
  | mfc (o : FMfc)
  | mtc (o : FMtc)
  | mfcv (o : FMfc)
  | vrdi (o : FDa)
  | vwri (o : FAb)
  | xset (o : FXset)
  -- major 0x1A LD
  | ldB8 (o : FMem)
  | ldB16 (o : FMem)
  | ldB32 (o : FMem)
  | ldB64 (o : FMem)
  | ldB128 (o : FMem)
  | ldI8 (o : FMem)
  | ldI16 (o : FMem)
  | pref (o : FPref)
  -- major 0x1B ST
  | stB8 (o : FMem)
  | stB16 (o : FMem)
  | stB32 (o : FMem)
  | stB64 (o : FMem)
  | stB128 (o : FMem)
  -- major 0x1C LDN
  | ldnB8 (o : FMem)
  | ldnB16 (o : FMem)
  | ldnB32 (o : FMem)
  | ldnB64 (o : FMem)
  | ldnB128 (o : FMem)
  | ldnI8 (o : FMem)
  | ldnI16 (o : FMem)
  | ldnPres (o : FMem)
  -- major 0x1D STN
  | stnB8 (o : FMem)
  | stnB16 (o : FMem)
  | stnB32 (o : FMem)
  | stnB64 (o : FMem)
  | stnB128 (o : FMem)
  -- major 0x1E ATOM
  | atomAddI32 (o : FDab)
  | atomMinI32 (o : FDab)
  | atomMaxI32 (o : FDab)
  | atomMinN32 (o : FDab)
  | atomMaxN32 (o : FDab)
  | atomAnd (o : FDab)
  | atomOr (o : FDab)
  | atomXor (o : FDab)
  | atomXchg (o : FDab)
  | atomCas (o : FDab)
  | atomAddF32 (o : FDab)
  | atomAddBf16x2 (o : FDab)
  | atomIncw (o : FDab)
  | atomAddI64 (o : FDab)
  | atomCas64 (o : FDab)
  | atomXchg64 (o : FDab)
  -- major 0x1F ATOMN
  | atomnAddI32 (o : FDab)
  | atomnMinI32 (o : FDab)
  | atomnMaxI32 (o : FDab)
  | atomnMinN32 (o : FDab)
  | atomnMaxN32 (o : FDab)
  | atomnAnd (o : FDab)
  | atomnOr (o : FDab)
  | atomnXor (o : FDab)
  | atomnXchg (o : FDab)
  | atomnCas (o : FDab)
  | atomnAddF32 (o : FDab)
  | atomnAddBf16x2 (o : FDab)
  | atomnIncw (o : FDab)
  | atomnAddI64 (o : FDab)
  | atomnCas64 (o : FDab)
  | atomnXchg64 (o : FDab)
  -- major 0x20 SLICE
  | sliceLdl (o : FLdl)
  | sliceCstm (o : FCstm)
  | sliceRedlI32 (o : FAb)
  | sliceRedlAln (o : FDab)
  -- major 0x21 KEY
  | kscope (o : FKscope)
  | kdef (o : FKdef)
  | kfork (o : FKdef)
  | kjoin (o : FKjoin)
  | kwait (o : FKwait)
  | ksend (o : FKsend)
  | krecv (o : FKs)
  | kpoll (o : FKs)
  -- major 0x22 PORT
  | pbind (o : FPbind)
  | push (o : FPush)
  | pop (o : FPop)
  | ppeek (o : FPop)
  | pstat (o : FPop)
  | punbind (o : FPort)
  -- major 0x23 COPY
  | tcopy (o : FCp)
  | tcopyt (o : FCp)
  | tcancel (o : FV)
  | rcarm (o : FCp)
  | rcwait (o : FCp)
  | rcread (o : FVn)
  | cpoll (o : FVn)
  -- major 0x24 MX
  | mxpost (o : FMx)
  | mxrd (o : FMx)
  | mxwr (o : FMx)
  | mxzero (o : FMx)
  | mxhbind (o : FV)
  | mxhgen (o : FV)
  | scbind (o : FV)
  | scload (o : FMx)
  | scinv (o : FV)
  -- major 0x25 CREEL
  | crcfg (o : FCp)
  | cralloc (o : FAlloc)
  | crallocW (o : FAlloc)
  | crgate (o : FCp)
  | crwait (o : FCp)
  | crstat (o : FVn)
  | crfree (o : FCp)
  -- major 0x26 BAR
  | binit (o : FBs)
  | barv (o : FBar)
  | bwait (o : FBwait)
  | bsync (o : FBar)
  | bstat (o : FBs)
  -- major 0x27 GRID
  | glaunch (o : FMx)
  | gwait (o : FCp)
  | gstat (o : FGstat)
  -- major 0x28 LQ
  | lqdec (o : FDab)
  | lqdot (o : FDab)
  | lqtbl (o : FAb)
  -- major 0x3F SYS
  | mtcp (o : FMtc)
  | mfcp (o : FMfc)
  | tlbinv (o : FA)
  | wswitch (o : FDa)
  | halt (o : FNone)
  -- events
  | arbStarveLimit (uid : Nat)
  | registerResultReturn (uid : Nat) (id : Nat)
  | lqtblComplete (core : Nat) (id : Nat)
  | warpRetire (uid : Nat)
  | trapEntry (uid : Nat)
  | memberLeave (id : Nat)
  | releaseNotice (id : Nat)
  | chimeLeave (uid : Nat)
  | chimeInboxArrival (id : Nat)
  | chimeDiscard (id : Nat)
  | tlbWalkComplete (req : WalkReq)
  | loadReturn (id : Nat) (unit : Nat)
  | storeAtHome (id : Nat) (unit : Nat)
  | atomicAtHome (id : Nat) (unit : Nat)
  | partialFlush (line : Nat) (slice : Nat)
  | windowAccess (id : Nat) (unit : Nat)
  | remoteRefusal (id : Nat) (unit : Nat) (reason : Nat)
  | portValueVisible (id : Nat)
  | portWatchdogExpiry (uid : Nat)
  | copyBegin (id : Nat)
  | copyChunkRead (id : Nat)
  | copyLanding (id : Nat) (line : Nat)
  | holdingSlotDrain (id : Nat) (line : Nat) (member : Nat)
  | copyEnd (id : Nat)
  | rcStateW1c (core : Nat) (n : Nat) (bits : Nat)
  | mxGrant (quad : Nat)
  | mxStarvationLimit (id : Nat)
  | mxCaptureComplete (id : Nat)
  | scaleFetchReturn (quad : Nat) (ctx : Nat) (tensor : Nat) (block : Nat)
  | mxPassBoundary (id : Nat)
  | fabricRequestArrival (req : FabReq)
  | fabricResponse (rsp : FabResp)
  | fabricRetryTimeout (ch : Nat) (seq : Nat)
  | fabricPortDown (port : Nat) (moves : List (Nat × Nat × Nat))
  | channelCreate (ch : Nat) (words : List Word)
  | channelClose (ch : Nat)
  | channelFetchComplete (ch : Nat)
  | chimeMsg (msg : Msg)
  | signalMsg (msg : Msg)
  | atomicMsg (msg : Msg)
  | entryMsg (msg : Msg)
  | expMsg (msg : Msg)
  | goMsg (msg : Msg)
  | contribMsg (msg : Msg)
  | resultMsg (msg : Msg)
  | doneMsg (msg : Msg)
  | mismatchMsg (msg : Msg)
  | collectiveTimeout (ctx : Nat) (group : Nat) (n : Nat)
  | creelArrival (arr : Arrival)
  | creelDeadline (buf : Nat) (slot : Nat)
  | creelRelease (buf : Nat)
  | creelQuietEnd (buf : Nat) (slot : Nat)
  | doorbell (q : Nat) (tail : Word)
  | packetNop (q : Nat)
  | packetLaunch (q : Nat)
  | packetWaitmem (q : Nat)
  | waitmemRetest (q : Nat)
  | teamPlace (ctx : Nat) (grid : Nat)
  | gridRetire (ctx : Nat) (grid : Nat)
  | placementRegisterWrite (die : Nat) (v : Word)
  | preemptRequest (ctx : Nat)
  | timeSliceExpiry (ctx : Nat)
  | contextSave (ctx : Nat)
  | contextRestore (ctx : Nat)
  | barrierArrivalCounted (uid : Nat) (b : Nat)
  | combinerArrival (team : Nat) (b : Nat)
  | barrierRelease (team : Nat) (b : Nat)
  | barrierWatchdog (team : Nat) (b : Nat)
  | epochEnd (die : Nat)
  | slmodeWrite (die : Nat) (v : Word)
  | obsctlWrite (ctx : Asked Nat) (v : Word)
  | pcSample (core : Nat) (ctx : Nat)
  | breakpointStop (uid : Nat)
  | debugStop (ctx : Nat)
  | debugResume (ctx : Nat)
  | debugSingleStep (ctx : Nat) (grid : Nat) (team : Nat) (thread : Nat)
  | setBreakpoint (ctx : Nat) (n : Nat) (pc : Addr) (grid : Word) (filter : Word)
  | dump (ctx : Nat) (region : Nat)
  | recordRegionFull (core : Nat)
  | digestLog (core : Nat)
  | replayStart (core : Nat) (seg : ReplayOf)
  | contextCreate (words : Asked (List Word))
  | allotmentSet (ctx : Nat) (a : Allot)
  | prqheadWrite (ctx : Nat) (v : Word)
  | pageReplay (ctx : Nat) (r : Word)
  | hostAccess (acc : HostAcc)
  | worldChange (block : Asked Word)
  | tlbinvComplete (id : Nat)
  | haltResume (uid : Nat)
  | firmwareUpdate (kind : Nat) (die : Nat) (ok : Bool)
  | lpddrRetrain (channel : Nat) (target : Nat)
  | coreRetire (core : Nat)
  | checkpoint
  | checkpointRestore
  | eccError (rec : EccRec)
  | powerOn
  | clockThrottle (up : Bool)
  | thermalShutdown (die : Nat)
  | getVersion (m : SpdmReq)
  | getCapabilities (m : SpdmReq)
  | negotiateAlgorithms (m : SpdmReq)
  | getDigests (m : SpdmReq)
  | getCertificate (m : SpdmReq)
  | challenge (m : SpdmReq)
  | getMeasurements (m : SpdmReq)
  | keyExchange (m : SpdmReq)
  | finish (m : SpdmReq)
  | registerWrite (w : MgmtWrite)
  | contextEnd (ctx : Nat)
  | homePartialEviction (line : Nat)
  | rowClose (channel : Nat) (bank : Nat)
  | bankRefresh (channel : Nat) (bank : Nat)
  | droopEvent (core : Nat)
  | debuggerHold (ctx : Nat) (take : Bool)
  | chunkWrite (core : Nat)
  deriving DecidableEq, Repr

end Sys2Proof
end

