-- ==== Sys2Proof/WellFormed.lean ====
section
/-! DEFINITION. Which instruction words are well formed: the checks of R33, R55 and R56 step 4 that the word alone
decides. A word that fails one raises ILL, or UNIMPL for a CVT pair that is not listed. -/

namespace Sys2Proof

/-- An S-space field holds 0 to 63 (R33). -/
def sNum (x : BitVec 7) : Bool := x.toNat < 64

/-- A field that names a pair or group is a multiple of its size (R33, R140). -/
def align {w : Nat} (n : Nat) (x : BitVec w) : Bool := x.toNat % n = 0

/-- An assigned control-register number (R44). -/
def ctlNum (n : BitVec 7) : Bool := n.toNat ≤ 24

/-- A control register kept per lane: LSTAT, SRNG, LANEID, TIDX (R44). -/
def laneCtl (n : BitVec 7) : Bool := n.toNat = 2 || n.toNat = 3 || n.toNat = 7 || n.toNat = 9

/-- A number that MFC may read: assigned and not per lane (R44). -/
def mfcNum (n : BitVec 7) : Bool := ctlNum n && !laneCtl n

/-- A number that MTC may write: PART, FMODE, LSTAT, SRNG, KDEF, EPC.LO and EPC.HI (R44). -/
def mtcNum (n : BitVec 7) : Bool := n.toNat ≤ 4 || n.toNat = 16 || n.toNat = 17

/-- Privileged control registers that MTCP may write (R419). -/
def privWr (n : BitVec 7) : Bool := n.toNat ≤ 3

/-- Privileged control registers that MFCP may read; PRQREPLAY is write only (R419). -/
def privRd (n : BitVec 7) : Bool := n.toNat ≤ 5 && n.toNat ≠ 1

/-- Whether a type code names a 64-bit integer (R55). -/
def isI64 (t : Nat) : Bool := t = 6 || t = 7

/-- For a CVT from source type `u` to destination type `t`: how many bits of sel select a part of vA, and how many a
part of vD, or none when the pair is not listed (R149). -/
def cvtPair (u t : Nat) : Option (Nat × Nat) :=
  if u = 8 then
    if t = 9 || t = 10 || t = 2 || t = 3 then some (0, 1)
    else if t = 11 || t = 12 || t = 0 || t = 1 then some (0, 2)
    else if t = 13 then some (0, 3)
    else if t = 4 || t = 5 || isI64 t then some (0, 0)
    else none
  else if u = 9 || u = 10 then
    if t = 8 || t = 4 || t = 5 then some (1, 0)
    else if (u = 9 && t = 10) || (u = 10 && t = 9) then some (1, 1)
    else none
  else if u = 11 || u = 12 then if t = 8 then some (2, 0) else none
  else if u = 13 then if t = 8 then some (3, 0) else none
  else if u = 0 || u = 1 then if t = 8 || t = 4 || t = 5 then some (2, 0) else none
  else if u = 2 || u = 3 then if t = 8 || t = 4 || t = 5 then some (1, 0) else none
  else if u = 4 || u = 5 then
    if t = 8 then some (0, 0)
    else if t = 9 || t = 10 || t = 2 || t = 3 then some (0, 1)
    else if t = 0 || t = 1 then some (0, 2)
    else if (t = 4 || t = 5) && t ≠ u then some (0, 0)
    else if isI64 t then some (0, 0)
    else none
  else if isI64 u then
    if t = 8 || t = 4 || t = 5 || (isI64 t && t ≠ u) then some (0, 0) else none
  else none

/-- CVT names a listed pair (R55, R149). -/
def cvtListed (o : FCvt) : Bool := (cvtPair o.u.toNat o.t.toNat).isSome

/-- CVT's fields for a listed pair: sel bits that the row does not use are zero, and a 64-bit operand is a pair. -/
def cvtWf (o : FCvt) : Bool :=
  match cvtPair o.u.toNat o.t.toNat with
  | none => false
  | some (a, d) =>
    o.e.toNat < 2 ^ (a + d) && (!isI64 o.t.toNat || align 2 o.d) && (!isI64 o.u.toNat || align 2 o.a)

/-- An instruction is well formed. Events carry no encoding and always are. -/
def Instr.wf : Instr → Bool
  | .hnop o => o.minor = 0 || 8 ≤ o.minor
  | .himmLo _ => true
  | .himmHi _ => true
  | .hofs _ => true
  | .hcache _ => true
  | .hreuse _ => true
  | .hstall _ => true
  | .hprio _ => true
  | .xp o => o.r ≠ 7
  | .brT _ => true
  | .brF _ => true
  | .brAny _ => true
  | .brAll _ => true
  | .call _ => true
  | .loopb _ => true
  | .jmpi o => align 2 o.a
  | .calli o => align 2 o.a
  | .ret _ => true
  | .exit _ => true
  | .trap _ => true
  | .sysc _ => true
  | .brk _ => true
  | .yield _ => true
  | .nop _ => true
  | .enrol _ => true
  | .join _ => true
  | .strike _ => true
  | .lset o => sNum o.a
  | .drain _ => true
  | .eret _ => true
  | .iadd _ => true
  | .isub _ => true
  | .imul _ => true
  | .imulhI _ => true
  | .imulhN _ => true
  | .imad _ => true
  | .andV _ => true
  | .orV _ => true
  | .xorV _ => true
  | .shl _ => true
  | .shr _ => true
  | .sar _ => true
  | .minI _ => true
  | .minN _ => true
  | .maxI _ => true
  | .maxN _ => true
  | .iaddS o => sNum o.b
  | .isubS o => sNum o.b
  | .imulS o => sNum o.b
  | .imulhIS o => sNum o.b
  | .imulhNS o => sNum o.b
  | .imadS o => sNum o.b
  | .andS o => sNum o.b
  | .orS o => sNum o.b
  | .xorS o => sNum o.b
  | .shlS o => sNum o.b
  | .shrS o => sNum o.b
  | .sarS o => sNum o.b
  | .minIS o => sNum o.b
  | .minNS o => sNum o.b
  | .maxIS o => sNum o.b
  | .maxNS o => sNum o.b
  | .popc _ => true
  | .clz _ => true
  | .brev _ => true
  | .bfeI _ => true
  | .bfeN _ => true
  | .bfi _ => true
  | .sel _ => true
  | .prmt _ => true
  | .andn _ => true
  | .absdI _ => true
  | .iaddD o => align 2 o.d && align 2 o.a && align 2 o.b
  | .isubD o => align 2 o.d && align 2 o.a && align 2 o.b
  | .shlD o => align 2 o.d && align 2 o.a
  | .shrD o => align 2 o.d && align 2 o.a
  | .imulwI o => align 2 o.d
  | .imulwN o => align 2 o.d
  | .iaddi _ => true
  | .andi _ => true
  | .xori _ => true
  | .movi _ => true
  | .fadd _ => true
  | .fsub _ => true
  | .fmul _ => true
  | .ffma _ => true
  | .fmin _ => true
  | .fmax _ => true
  | .fminm _ => true
  | .fmaxm _ => true
  | .fabs _ => true
  | .fneg _ => true
  | .frcp _ => true
  | .frsq _ => true
  | .fsqrt _ => true
  | .fex2 _ => true
  | .flg2 _ => true
  | .fdiv _ => true
  | .faddS o => sNum o.b
  | .fsubS o => sNum o.b
  | .fmulS o => sNum o.b
  | .ffmaS o => sNum o.b
  | .fminS o => sNum o.b
  | .fmaxS o => sNum o.b
  | .fminmS o => sNum o.b
  | .fmaxmS o => sNum o.b
  | .fsinS _ => true
  | .fcosS _ => true
  | .ftanhS _ => true
  | .fsigmS _ => true
  | .ferfS _ => true
  | .hadd _ => true
  | .hsub _ => true
  | .hmul _ => true
  | .hfma _ => true
  | .hmin _ => true
  | .hmax _ => true
  | .badd _ => true
  | .bsub _ => true
  | .bmul _ => true
  | .bfma _ => true
  | .bmin _ => true
  | .bmax _ => true
  | .hdot2 _ => true
  | .bdot2 _ => true
  | .qaddE4m3 _ => true
  | .qsubE4m3 _ => true
  | .qmulE4m3 _ => true
  | .qaddE5m2 _ => true
  | .qsubE5m2 _ => true
  | .qmulE5m2 _ => true
  | .qdot4E4m3 _ => true
  | .qdot4E5m2 _ => true
  | .qdot4I8 _ => true
  | .qdot4N8 _ => true
  | .xdot8E2m1 _ => true
  | .qmaxE4m3 _ => true
  | .qminE4m3 _ => true
  | .qaddI8 _ => true
  | .qaddN8 _ => true
  | .qmaxI8 _ => true
  | .cvt o => cvtWf o
  | .scvtUpE4m3 o => align 2 o.d
  | .scvtUpE5m2 o => align 2 o.d
  | .scvtUpE2m1 o => align 4 o.d
  | .scvtUpLq2 o => align 8 o.d
  | .scvtDnE4m3 o => align 4 o.a
  | .scvtDnE5m2 o => align 4 o.a
  | .scvtDnE2m1 o => align 8 o.a
  | .cmpEq _ => true
  | .cmpNe _ => true
  | .cmpLtI _ => true
  | .cmpLeI _ => true
  | .cmpLtN _ => true
  | .cmpLeN _ => true
  | .cmpFeq _ => true
  | .cmpFne _ => true
  | .cmpFlt _ => true
  | .cmpFle _ => true
  | .cmpFuno _ => true
  | .cmpFord _ => true
  | .cmpTstz _ => true
  | .cmpTstnz _ => true
  | .cmpEqS o => sNum o.b
  | .cmpNeS o => sNum o.b
  | .cmpLtIS o => sNum o.b
  | .cmpLeIS o => sNum o.b
  | .cmpLtNS o => sNum o.b
  | .cmpLeNS o => sNum o.b
  | .cmpFeqS o => sNum o.b
  | .cmpFneS o => sNum o.b
  | .cmpFltS o => sNum o.b
  | .cmpFleS o => sNum o.b
  | .cmpFunoS o => sNum o.b
  | .cmpFordS o => sNum o.b
  | .cmpTstzS o => sNum o.b
  | .cmpTstnzS o => sNum o.b
  | .mand _ => true
  | .mor _ => true
  | .mxor _ => true
  | .mandn _ => true
  | .mnot _ => true
  | .mpopc _ => true
  | .mffs _ => true
  | .mfroms _ => true
  | .mtos _ => true
  | .shflIdx _ => true
  | .shflUp _ => true
  | .shflDn _ => true
  | .shflXor _ => true
  | .voteAny _ => true
  | .voteAll _ => true
  | .ballot _ => true
  | .matchV _ => true
  | .redxAddI _ => true
  | .redxAddF _ => true
  | .redxMinI _ => true
  | .redxMaxI _ => true
  | .scanAddI _ => true
  | .scanAddF _ => true
  | .bcast _ => true
  | .sadd o => sNum o.d && sNum o.a && sNum o.b
  | .ssub o => sNum o.d && sNum o.a && sNum o.b
  | .smul o => sNum o.d && sNum o.a && sNum o.b
  | .sand o => sNum o.d && sNum o.a && sNum o.b
  | .sor o => sNum o.d && sNum o.a && sNum o.b
  | .sxor o => sNum o.d && sNum o.a && sNum o.b
  | .sshl o => sNum o.d && sNum o.a && sNum o.b
  | .sshr o => sNum o.d && sNum o.a && sNum o.b
  | .ssar o => sNum o.d && sNum o.a && sNum o.b
  | .sminI o => sNum o.d && sNum o.a && sNum o.b
  | .smaxI o => sNum o.d && sNum o.a && sNum o.b
  | .sminN o => sNum o.d && sNum o.a && sNum o.b
  | .smaxN o => sNum o.d && sNum o.a && sNum o.b
  | .saddD o => sNum o.d && sNum o.a && sNum o.b && align 2 o.d && align 2 o.a && align 2 o.b
  | .scmp o => sNum o.d && sNum o.a && sNum o.b
  | .ssel o => sNum o.d && sNum o.a && sNum o.b
  | .saddi o => sNum o.d && sNum o.a
  | .smovi o => sNum o.d
  | .sandi o => sNum o.d && sNum o.a
  | .sshli o => sNum o.d && sNum o.a
  | .movv _ => true
  | .movVs o => sNum o.a
  | .movSv o => sNum o.d
  | .mfc o => sNum o.d && mfcNum o.n
  | .mtc o => mtcNum o.n && (laneCtl o.n || sNum o.a)
  | .mfcv o => ctlNum o.n
  | .vrdi _ => true
  | .vwri _ => true
  | .xset o => sNum o.a
  | .ldB8 o => align 2 o.a
  | .ldB16 o => align 2 o.a
  | .ldB32 o => align 2 o.a
  | .ldB64 o => align 2 o.a && align 2 o.d
  | .ldB128 o => align 2 o.a && align 4 o.d
  | .ldI8 o => align 2 o.a
  | .ldI16 o => align 2 o.a
  | .pref o => align 2 o.a
  | .stB8 o => align 2 o.a
  | .stB16 o => align 2 o.a
  | .stB32 o => align 2 o.a
  | .stB64 o => align 2 o.a && align 2 o.d
  | .stB128 o => align 2 o.a && align 4 o.d
  | .ldnB8 _ => true
  | .ldnB16 _ => true
  | .ldnB32 _ => true
  | .ldnB64 o => align 2 o.d
  | .ldnB128 o => align 4 o.d
  | .ldnI8 _ => true
  | .ldnI16 _ => true
  | .ldnPres _ => true
  | .stnB8 _ => true
  | .stnB16 _ => true
  | .stnB32 _ => true
  | .stnB64 o => align 2 o.d
  | .stnB128 o => align 4 o.d
  | .atomAddI32 o => align 2 o.a
  | .atomMinI32 o => align 2 o.a
  | .atomMaxI32 o => align 2 o.a
  | .atomMinN32 o => align 2 o.a
  | .atomMaxN32 o => align 2 o.a
  | .atomAnd o => align 2 o.a
  | .atomOr o => align 2 o.a
  | .atomXor o => align 2 o.a
  | .atomXchg o => align 2 o.a
  | .atomCas o => align 2 o.a && align 2 o.b
  | .atomAddF32 o => align 2 o.a
  | .atomAddBf16x2 o => align 2 o.a
  | .atomIncw o => align 2 o.a
  | .atomAddI64 o => align 2 o.a && align 2 o.d && align 2 o.b
  | .atomCas64 o => align 2 o.a && align 2 o.d && align 4 o.b
  | .atomXchg64 o => align 2 o.a && align 2 o.d && align 2 o.b
  | .atomnAddI32 _ => true
  | .atomnMinI32 _ => true
  | .atomnMaxI32 _ => true
  | .atomnMinN32 _ => true
  | .atomnMaxN32 _ => true
  | .atomnAnd _ => true
  | .atomnOr _ => true
  | .atomnXor _ => true
  | .atomnXchg _ => true
  | .atomnCas o => align 2 o.b
  | .atomnAddF32 _ => true
  | .atomnAddBf16x2 _ => true
  | .atomnIncw _ => true
  | .atomnAddI64 o => align 2 o.d && align 2 o.b
  | .atomnCas64 o => align 2 o.d && align 4 o.b
  | .atomnXchg64 o => align 2 o.d && align 2 o.b
  | .sliceLdl o => align 2 o.a
  | .sliceCstm _ => true
  | .sliceRedlI32 o => align 2 o.a
  | .sliceRedlAln o => align 2 o.a
  | .kscope o => o.d ≠ 0 && o.d ≠ 15
  | .kdef _ => true
  | .kfork _ => true
  | .kjoin _ => true
  | .kwait _ => true
  | .ksend o => o.s ≤ 61
  | .krecv o => align 2 o.s
  | .kpoll _ => true
  | .pbind o => 2 ≤ o.p && sNum o.s
  | .push _ => true
  | .pop _ => true
  | .ppeek _ => true
  | .pstat _ => true
  | .punbind o => 2 ≤ o.p
  | .tcopy _ => true
  | .tcopyt _ => true
  | .tcancel _ => true
  | .rcarm o => align 2 o.n
  | .rcwait _ => true
  | .rcread _ => true
  | .cpoll _ => true
  | .mxpost _ => true
  | .mxrd o => align 2 o.v
  | .mxwr o => align 2 o.v
  | .mxzero _ => true
  | .mxhbind _ => true
  | .mxhgen _ => true
  | .scbind o => align 2 o.v
  | .scload _ => true
  | .scinv _ => true
  | .crcfg o => align 2 o.n
  | .cralloc _ => true
  | .crallocW _ => true
  | .crgate o => align 4 o.v
  | .crwait o => align 2 o.n
  | .crstat _ => true
  | .crfree _ => true
  | .binit o => align 2 o.s
  | .barv _ => true
  | .bwait _ => true
  | .bsync _ => true
  | .bstat _ => true
  | .glaunch _ => true
  | .gwait _ => true
  | .gstat _ => true
  | .lqdec _ => true
  | .lqdot o => align 8 o.b
  | .lqtbl _ => true
  | .mtcp o => sNum o.a && privWr o.n
  | .mfcp o => sNum o.d && privRd o.n
  | .tlbinv o => align 2 o.a && o.a ≤ 60
  | .wswitch o => sNum o.d && sNum o.a
  | .halt _ => true
  | .arbStarveLimit _ => true
  | .registerResultReturn _ _ => true
  | .lqtblComplete _ _ => true
  | .warpRetire _ => true
  | .trapEntry _ => true
  | .memberLeave _ => true
  | .releaseNotice _ => true
  | .chimeLeave _ => true
  | .chimeInboxArrival _ => true
  | .chimeDiscard _ => true
  | .tlbWalkComplete _ => true
  | .loadReturn _ _ => true
  | .storeAtHome _ _ => true
  | .atomicAtHome _ _ => true
  | .partialFlush _ _ => true
  | .windowAccess _ _ => true
  | .remoteRefusal _ _ _ => true
  | .portValueVisible _ => true
  | .portWatchdogExpiry _ => true
  | .copyBegin _ => true
  | .copyChunkRead _ => true
  | .copyLanding _ _ => true
  | .holdingSlotDrain _ _ _ => true
  | .copyEnd _ => true
  | .rcStateW1c _ _ _ => true
  | .mxGrant _ => true
  | .mxStarvationLimit _ => true
  | .mxCaptureComplete _ => true
  | .scaleFetchReturn _ _ _ _ => true
  | .mxPassBoundary _ => true
  | .fabricRequestArrival _ => true
  | .fabricResponse _ => true
  | .fabricRetryTimeout _ _ => true
  | .fabricPortDown _ _ => true
  | .channelCreate _ _ => true
  | .channelClose _ => true
  | .channelFetchComplete _ => true
  | .chimeMsg _ => true
  | .signalMsg _ => true
  | .atomicMsg _ => true
  | .entryMsg _ => true
  | .expMsg _ => true
  | .goMsg _ => true
  | .contribMsg _ => true
  | .resultMsg _ => true
  | .doneMsg _ => true
  | .mismatchMsg _ => true
  | .collectiveTimeout _ _ _ => true
  | .creelArrival _ => true
  | .creelDeadline _ _ => true
  | .creelRelease _ => true
  | .creelQuietEnd _ _ => true
  | .doorbell _ _ => true
  | .packetNop _ => true
  | .packetLaunch _ => true
  | .packetWaitmem _ => true
  | .waitmemRetest _ => true
  | .teamPlace _ _ => true
  | .gridRetire _ _ => true
  | .placementRegisterWrite _ _ => true
  | .preemptRequest _ => true
  | .timeSliceExpiry _ => true
  | .contextSave _ => true
  | .contextRestore _ => true
  | .barrierArrivalCounted _ _ => true
  | .combinerArrival _ _ => true
  | .barrierRelease _ _ => true
  | .barrierWatchdog _ _ => true
  | .epochEnd _ => true
  | .slmodeWrite _ _ => true
  | .obsctlWrite _ _ => true
  | .pcSample _ _ => true
  | .breakpointStop _ => true
  | .debugStop _ => true
  | .debugResume _ => true
  | .debugSingleStep _ _ _ _ => true
  | .setBreakpoint _ _ _ _ _ => true
  | .dump _ _ => true
  | .recordRegionFull _ => true
  | .digestLog _ => true
  | .replayStart _ _ => true
  | .contextCreate _ => true
  | .allotmentSet _ _ => true
  | .prqheadWrite _ _ => true
  | .pageReplay _ _ => true
  | .hostAccess _ => true
  | .worldChange _ => true
  | .tlbinvComplete _ => true
  | .haltResume _ => true
  | .firmwareUpdate _ _ _ => true
  | .lpddrRetrain _ _ => true
  | .coreRetire _ => true
  | .checkpoint => true
  | .checkpointRestore => true
  | .eccError _ => true
  | .powerOn => true
  | .clockThrottle _ => true
  | .thermalShutdown _ => true
  | .getVersion _ => true
  | .getCapabilities _ => true
  | .negotiateAlgorithms _ => true
  | .getDigests _ => true
  | .getCertificate _ => true
  | .challenge _ => true
  | .getMeasurements _ => true
  | .keyExchange _ => true
  | .finish _ => true
  | .registerWrite _ => true
  | .contextEnd _ => true
  | .homePartialEviction _ => true
  | .rowClose _ _ => true
  | .bankRefresh _ _ => true
  | .droopEvent _ => true
  | .debuggerHold _ _ => true
  | .chunkWrite _ => true

end Sys2Proof
end

