-- ==== Sys2Proof/Decode.lean ====
section
/-! DEFINITION. Decoding, total on any 32-bit word and on any bytes, in the order of R56; and the encoder, from the
same tables of R34 and R54. -/

namespace Sys2Proof

/-- Why a word is no instruction (R56). -/
inductive DecErr where
  /-- ILL: major 0x00, a zero field that is not zero, an S number of 64 to 127, an odd pair base, ROUND = 7. -/
  | ill
  /-- UNIMPL: an unlisted major or minor, or a CVT pair that is not listed. -/
  | unimpl
  deriving DecidableEq, Repr

/-- Bits hi:lo of a word, as a field of that width. -/
abbrev fld (w : Word) (lo n : Nat) : BitVec n := w.extractLsb' lo n

/-- Bit i of a word, as a flag. -/
abbrev flag (w : Word) (i : Nat) : Bool := w.getLsbD i

/-- The row of the opcode table: the word meets the row's mask, or a zero field is not zero. -/
def row (mask val : Word) (w : Word) (i : Instr) : Except DecErr Instr :=
  if w &&& mask = val then .ok i else .error .ill

/-- Major 0x01, HINT (R54). -/
def decMajor01 (w : Word) : Except DecErr Instr :=
  match (fld w 21 4).toNat with
  | 1 => row 0x7FFF0000#32 0x02200000#32 w (.himmLo ⟨flag w 31, fld w 0 16⟩)
  | 2 => row 0x7FFF0000#32 0x02400000#32 w (.himmHi ⟨flag w 31, fld w 0 16⟩)
  | 3 => row 0x7FE00000#32 0x02600000#32 w (.hofs ⟨flag w 31, fld w 0 21⟩)
  | 4 => row 0x7FFFFFF8#32 0x02800000#32 w (.hcache ⟨flag w 31, fld w 0 3⟩)
  | 5 => row 0x7FFFFFF8#32 0x02A00000#32 w (.hreuse ⟨flag w 31, fld w 0 3⟩)
  | 6 => row 0x7FFFFFF0#32 0x02C00000#32 w (.hstall ⟨flag w 31, fld w 0 4⟩)
  | 7 => row 0x7FFFFFFC#32 0x02E00000#32 w (.hprio ⟨flag w 31, fld w 0 2⟩)
  | _ => .ok (.hnop ⟨flag w 31, fld w 21 4, fld w 0 21⟩)

/-- Major 0x02, XP (R54). -/
def decMajor02 (w : Word) : Except DecErr Instr :=
  row 0x7E000003#32 0x04000000#32 w (.xp ⟨flag w 31, fld w 22 3, flag w 21, fld w 18 3, fld w 11 7, flag w 10, flag w 9, fld w 7 2, flag w 6, flag w 5, flag w 4, flag w 3, flag w 2⟩)

/-- Major 0x03, BR (R54). -/
def decMajor03 (w : Word) : Except DecErr Instr :=
  match (fld w 20 2).toNat with
  | 0 => row 0x7E300000#32 0x06000000#32 w (.brT ⟨flag w 31, fld w 22 3, fld w 17 3, fld w 0 17⟩)
  | 1 => row 0x7E300000#32 0x06100000#32 w (.brF ⟨flag w 31, fld w 22 3, fld w 17 3, fld w 0 17⟩)
  | 2 => row 0x7E300000#32 0x06200000#32 w (.brAny ⟨flag w 31, fld w 22 3, fld w 17 3, fld w 0 17⟩)
  | 3 => row 0x7E300000#32 0x06300000#32 w (.brAll ⟨flag w 31, fld w 22 3, fld w 17 3, fld w 0 17⟩)
  | _ => .error .unimpl

/-- Major 0x04, CALL (R54). -/
def decMajor04 (w : Word) : Except DecErr Instr :=
  row 0x7E000000#32 0x08000000#32 w (.call ⟨flag w 31, fld w 0 25⟩)

/-- Major 0x05, LOOP (R54). -/
def decMajor05 (w : Word) : Except DecErr Instr :=
  row 0x7E000000#32 0x0A000000#32 w (.loopb ⟨flag w 31, fld w 23 2, fld w 20 3, fld w 0 20⟩)

/-- Major 0x06, CTL (R54). -/
def decMajor06 (w : Word) : Except DecErr Instr :=
  match (fld w 21 4).toNat with
  | 0 => row 0x7FFFC07F#32 0x0C000000#32 w (.jmpi ⟨flag w 31, fld w 7 7⟩)
  | 1 => row 0x7FFFC07F#32 0x0C200000#32 w (.calli ⟨flag w 31, fld w 7 7⟩)
  | 2 => row 0x7FFFFFFF#32 0x0C400000#32 w (.ret ⟨flag w 31⟩)
  | 3 => row 0x7FFFFFFF#32 0x0C600000#32 w (.exit ⟨flag w 31⟩)
  | 4 => row 0x7FFFFF80#32 0x0C800000#32 w (.trap ⟨flag w 31, fld w 0 7⟩)
  | 5 => row 0x7FFFFF80#32 0x0CA00000#32 w (.sysc ⟨flag w 31, fld w 0 7⟩)
  | 6 => row 0x7FFFFF80#32 0x0CC00000#32 w (.brk ⟨flag w 31, fld w 0 7⟩)
  | 7 => row 0x7FFFFFFF#32 0x0CE00000#32 w (.yield ⟨flag w 31⟩)
  | 8 => row 0x7FFFFFFF#32 0x0D000000#32 w (.nop ⟨flag w 31⟩)
  | 9 => row 0x7FFE3FFF#32 0x0D200000#32 w (.enrol ⟨flag w 31, fld w 14 3⟩)
  | 10 => row 0x7FFE3FFF#32 0x0D400000#32 w (.join ⟨flag w 31, fld w 14 3⟩)
  | 11 => row 0x7FFE3FFF#32 0x0D600000#32 w (.strike ⟨flag w 31, fld w 14 3⟩)
  | 12 => row 0x7FFF007F#32 0x0D800000#32 w (.lset ⟨flag w 31, fld w 14 2, fld w 7 7⟩)
  | 13 => row 0x7FFFFFFF#32 0x0DA00000#32 w (.drain ⟨flag w 31⟩)
  | 14 => row 0x7FFFFFFF#32 0x0DC00000#32 w (.eret ⟨flag w 31⟩)
  | _ => .error .unimpl

/-- Major 0x08, VINT (R54). -/
def decMajor08 (w : Word) : Except DecErr Instr :=
  match (fld w 21 4).toNat with
  | 0 => row 0x7FE00000#32 0x10000000#32 w (.iadd ⟨flag w 31, fld w 14 7, fld w 7 7, fld w 0 7⟩)
  | 1 => row 0x7FE00000#32 0x10200000#32 w (.isub ⟨flag w 31, fld w 14 7, fld w 7 7, fld w 0 7⟩)
  | 2 => row 0x7FE00000#32 0x10400000#32 w (.imul ⟨flag w 31, fld w 14 7, fld w 7 7, fld w 0 7⟩)
  | 3 => row 0x7FE00000#32 0x10600000#32 w (.imulhI ⟨flag w 31, fld w 14 7, fld w 7 7, fld w 0 7⟩)
  | 4 => row 0x7FE00000#32 0x10800000#32 w (.imulhN ⟨flag w 31, fld w 14 7, fld w 7 7, fld w 0 7⟩)
  | 5 => row 0x7FE00000#32 0x10A00000#32 w (.imad ⟨flag w 31, fld w 14 7, fld w 7 7, fld w 0 7⟩)
  | 6 => row 0x7FE00000#32 0x10C00000#32 w (.andV ⟨flag w 31, fld w 14 7, fld w 7 7, fld w 0 7⟩)
  | 7 => row 0x7FE00000#32 0x10E00000#32 w (.orV ⟨flag w 31, fld w 14 7, fld w 7 7, fld w 0 7⟩)
  | 8 => row 0x7FE00000#32 0x11000000#32 w (.xorV ⟨flag w 31, fld w 14 7, fld w 7 7, fld w 0 7⟩)
  | 9 => row 0x7FE00000#32 0x11200000#32 w (.shl ⟨flag w 31, fld w 14 7, fld w 7 7, fld w 0 7⟩)
  | 10 => row 0x7FE00000#32 0x11400000#32 w (.shr ⟨flag w 31, fld w 14 7, fld w 7 7, fld w 0 7⟩)
  | 11 => row 0x7FE00000#32 0x11600000#32 w (.sar ⟨flag w 31, fld w 14 7, fld w 7 7, fld w 0 7⟩)
  | 12 => row 0x7FE00000#32 0x11800000#32 w (.minI ⟨flag w 31, fld w 14 7, fld w 7 7, fld w 0 7⟩)
  | 13 => row 0x7FE00000#32 0x11A00000#32 w (.minN ⟨flag w 31, fld w 14 7, fld w 7 7, fld w 0 7⟩)
  | 14 => row 0x7FE00000#32 0x11C00000#32 w (.maxI ⟨flag w 31, fld w 14 7, fld w 7 7, fld w 0 7⟩)
  | 15 => row 0x7FE00000#32 0x11E00000#32 w (.maxN ⟨flag w 31, fld w 14 7, fld w 7 7, fld w 0 7⟩)
  | _ => .error .unimpl

/-- Major 0x09, VINT.S (R54). -/
def decMajor09 (w : Word) : Except DecErr Instr :=
  match (fld w 21 4).toNat with
  | 0 => row 0x7FE00000#32 0x12000000#32 w (.iaddS ⟨flag w 31, fld w 14 7, fld w 7 7, fld w 0 7⟩)
  | 1 => row 0x7FE00000#32 0x12200000#32 w (.isubS ⟨flag w 31, fld w 14 7, fld w 7 7, fld w 0 7⟩)
  | 2 => row 0x7FE00000#32 0x12400000#32 w (.imulS ⟨flag w 31, fld w 14 7, fld w 7 7, fld w 0 7⟩)
  | 3 => row 0x7FE00000#32 0x12600000#32 w (.imulhIS ⟨flag w 31, fld w 14 7, fld w 7 7, fld w 0 7⟩)
  | 4 => row 0x7FE00000#32 0x12800000#32 w (.imulhNS ⟨flag w 31, fld w 14 7, fld w 7 7, fld w 0 7⟩)
  | 5 => row 0x7FE00000#32 0x12A00000#32 w (.imadS ⟨flag w 31, fld w 14 7, fld w 7 7, fld w 0 7⟩)
  | 6 => row 0x7FE00000#32 0x12C00000#32 w (.andS ⟨flag w 31, fld w 14 7, fld w 7 7, fld w 0 7⟩)
  | 7 => row 0x7FE00000#32 0x12E00000#32 w (.orS ⟨flag w 31, fld w 14 7, fld w 7 7, fld w 0 7⟩)
  | 8 => row 0x7FE00000#32 0x13000000#32 w (.xorS ⟨flag w 31, fld w 14 7, fld w 7 7, fld w 0 7⟩)
  | 9 => row 0x7FE00000#32 0x13200000#32 w (.shlS ⟨flag w 31, fld w 14 7, fld w 7 7, fld w 0 7⟩)
  | 10 => row 0x7FE00000#32 0x13400000#32 w (.shrS ⟨flag w 31, fld w 14 7, fld w 7 7, fld w 0 7⟩)
  | 11 => row 0x7FE00000#32 0x13600000#32 w (.sarS ⟨flag w 31, fld w 14 7, fld w 7 7, fld w 0 7⟩)
  | 12 => row 0x7FE00000#32 0x13800000#32 w (.minIS ⟨flag w 31, fld w 14 7, fld w 7 7, fld w 0 7⟩)
  | 13 => row 0x7FE00000#32 0x13A00000#32 w (.minNS ⟨flag w 31, fld w 14 7, fld w 7 7, fld w 0 7⟩)
  | 14 => row 0x7FE00000#32 0x13C00000#32 w (.maxIS ⟨flag w 31, fld w 14 7, fld w 7 7, fld w 0 7⟩)
  | 15 => row 0x7FE00000#32 0x13E00000#32 w (.maxNS ⟨flag w 31, fld w 14 7, fld w 7 7, fld w 0 7⟩)
  | _ => .error .unimpl

/-- Major 0x0A, VBIT (R54). -/
def decMajor0a (w : Word) : Except DecErr Instr :=
  match (fld w 21 4).toNat with
  | 0 => row 0x7FE0007F#32 0x14000000#32 w (.popc ⟨flag w 31, fld w 14 7, fld w 7 7⟩)
  | 1 => row 0x7FE0007F#32 0x14200000#32 w (.clz ⟨flag w 31, fld w 14 7, fld w 7 7⟩)
  | 2 => row 0x7FE0007F#32 0x14400000#32 w (.brev ⟨flag w 31, fld w 14 7, fld w 7 7⟩)
  | 3 => row 0x7FE00000#32 0x14600000#32 w (.bfeI ⟨flag w 31, fld w 14 7, fld w 7 7, fld w 0 7⟩)
  | 4 => row 0x7FE00000#32 0x14800000#32 w (.bfeN ⟨flag w 31, fld w 14 7, fld w 7 7, fld w 0 7⟩)
  | 5 => row 0x7FE00000#32 0x14A00000#32 w (.bfi ⟨flag w 31, fld w 14 7, fld w 7 7, fld w 0 7⟩)
  | 6 => row 0x7FE00000#32 0x14C00000#32 w (.sel ⟨flag w 31, fld w 14 7, fld w 7 7, fld w 0 7⟩)
  | 7 => row 0x7FE00000#32 0x14E00000#32 w (.prmt ⟨flag w 31, fld w 14 7, fld w 7 7, fld w 0 7⟩)
  | 8 => row 0x7FE00000#32 0x15000000#32 w (.andn ⟨flag w 31, fld w 14 7, fld w 7 7, fld w 0 7⟩)
  | 9 => row 0x7FE00000#32 0x15200000#32 w (.absdI ⟨flag w 31, fld w 14 7, fld w 7 7, fld w 0 7⟩)
  | 10 => row 0x7FE00000#32 0x15400000#32 w (.iaddD ⟨flag w 31, fld w 14 7, fld w 7 7, fld w 0 7⟩)
  | 11 => row 0x7FE00000#32 0x15600000#32 w (.isubD ⟨flag w 31, fld w 14 7, fld w 7 7, fld w 0 7⟩)
  | 12 => row 0x7FE00000#32 0x15800000#32 w (.shlD ⟨flag w 31, fld w 14 7, fld w 7 7, fld w 0 7⟩)
  | 13 => row 0x7FE00000#32 0x15A00000#32 w (.shrD ⟨flag w 31, fld w 14 7, fld w 7 7, fld w 0 7⟩)
  | 14 => row 0x7FE00000#32 0x15C00000#32 w (.imulwI ⟨flag w 31, fld w 14 7, fld w 7 7, fld w 0 7⟩)
  | 15 => row 0x7FE00000#32 0x15E00000#32 w (.imulwN ⟨flag w 31, fld w 14 7, fld w 7 7, fld w 0 7⟩)
  | _ => .error .unimpl

/-- Major 0x0B, VINT.I (R54). -/
def decMajor0b (w : Word) : Except DecErr Instr :=
  match (fld w 23 2).toNat with
  | 0 => row 0x7F800000#32 0x16000000#32 w (.iaddi ⟨flag w 31, fld w 16 7, fld w 9 7, fld w 0 9⟩)
  | 1 => row 0x7F800000#32 0x16800000#32 w (.andi ⟨flag w 31, fld w 16 7, fld w 9 7, fld w 0 9⟩)
  | 2 => row 0x7F800000#32 0x17000000#32 w (.xori ⟨flag w 31, fld w 16 7, fld w 9 7, fld w 0 9⟩)
  | 3 => row 0x7F80FE00#32 0x17800000#32 w (.movi ⟨flag w 31, fld w 16 7, fld w 0 9⟩)
  | _ => .error .unimpl

/-- Major 0x0C, VF32 (R54). -/
def decMajor0c (w : Word) : Except DecErr Instr :=
  match (fld w 21 4).toNat with
  | 0 => row 0x7FE00000#32 0x18000000#32 w (.fadd ⟨flag w 31, fld w 14 7, fld w 7 7, fld w 0 7⟩)
  | 1 => row 0x7FE00000#32 0x18200000#32 w (.fsub ⟨flag w 31, fld w 14 7, fld w 7 7, fld w 0 7⟩)
  | 2 => row 0x7FE00000#32 0x18400000#32 w (.fmul ⟨flag w 31, fld w 14 7, fld w 7 7, fld w 0 7⟩)
  | 3 => row 0x7FE00000#32 0x18600000#32 w (.ffma ⟨flag w 31, fld w 14 7, fld w 7 7, fld w 0 7⟩)
  | 4 => row 0x7FE00000#32 0x18800000#32 w (.fmin ⟨flag w 31, fld w 14 7, fld w 7 7, fld w 0 7⟩)
  | 5 => row 0x7FE00000#32 0x18A00000#32 w (.fmax ⟨flag w 31, fld w 14 7, fld w 7 7, fld w 0 7⟩)
  | 6 => row 0x7FE00000#32 0x18C00000#32 w (.fminm ⟨flag w 31, fld w 14 7, fld w 7 7, fld w 0 7⟩)
  | 7 => row 0x7FE00000#32 0x18E00000#32 w (.fmaxm ⟨flag w 31, fld w 14 7, fld w 7 7, fld w 0 7⟩)
  | 8 => row 0x7FE0007F#32 0x19000000#32 w (.fabs ⟨flag w 31, fld w 14 7, fld w 7 7⟩)
  | 9 => row 0x7FE0007F#32 0x19200000#32 w (.fneg ⟨flag w 31, fld w 14 7, fld w 7 7⟩)
  | 10 => row 0x7FE0007F#32 0x19400000#32 w (.frcp ⟨flag w 31, fld w 14 7, fld w 7 7⟩)
  | 11 => row 0x7FE0007F#32 0x19600000#32 w (.frsq ⟨flag w 31, fld w 14 7, fld w 7 7⟩)
  | 12 => row 0x7FE0007F#32 0x19800000#32 w (.fsqrt ⟨flag w 31, fld w 14 7, fld w 7 7⟩)
  | 13 => row 0x7FE0007F#32 0x19A00000#32 w (.fex2 ⟨flag w 31, fld w 14 7, fld w 7 7⟩)
  | 14 => row 0x7FE0007F#32 0x19C00000#32 w (.flg2 ⟨flag w 31, fld w 14 7, fld w 7 7⟩)
  | 15 => row 0x7FE00000#32 0x19E00000#32 w (.fdiv ⟨flag w 31, fld w 14 7, fld w 7 7, fld w 0 7⟩)
  | _ => .error .unimpl

/-- Major 0x0D, VF32.S (R54). -/
def decMajor0d (w : Word) : Except DecErr Instr :=
  match (fld w 21 4).toNat with
  | 0 => row 0x7FE00000#32 0x1A000000#32 w (.faddS ⟨flag w 31, fld w 14 7, fld w 7 7, fld w 0 7⟩)
  | 1 => row 0x7FE00000#32 0x1A200000#32 w (.fsubS ⟨flag w 31, fld w 14 7, fld w 7 7, fld w 0 7⟩)
  | 2 => row 0x7FE00000#32 0x1A400000#32 w (.fmulS ⟨flag w 31, fld w 14 7, fld w 7 7, fld w 0 7⟩)
  | 3 => row 0x7FE00000#32 0x1A600000#32 w (.ffmaS ⟨flag w 31, fld w 14 7, fld w 7 7, fld w 0 7⟩)
  | 4 => row 0x7FE00000#32 0x1A800000#32 w (.fminS ⟨flag w 31, fld w 14 7, fld w 7 7, fld w 0 7⟩)
  | 5 => row 0x7FE00000#32 0x1AA00000#32 w (.fmaxS ⟨flag w 31, fld w 14 7, fld w 7 7, fld w 0 7⟩)
  | 6 => row 0x7FE00000#32 0x1AC00000#32 w (.fminmS ⟨flag w 31, fld w 14 7, fld w 7 7, fld w 0 7⟩)
  | 7 => row 0x7FE00000#32 0x1AE00000#32 w (.fmaxmS ⟨flag w 31, fld w 14 7, fld w 7 7, fld w 0 7⟩)
  | 8 => row 0x7FE0007F#32 0x1B000000#32 w (.fsinS ⟨flag w 31, fld w 14 7, fld w 7 7⟩)
  | 9 => row 0x7FE0007F#32 0x1B200000#32 w (.fcosS ⟨flag w 31, fld w 14 7, fld w 7 7⟩)
  | 10 => row 0x7FE0007F#32 0x1B400000#32 w (.ftanhS ⟨flag w 31, fld w 14 7, fld w 7 7⟩)
  | 11 => row 0x7FE0007F#32 0x1B600000#32 w (.fsigmS ⟨flag w 31, fld w 14 7, fld w 7 7⟩)
  | 12 => row 0x7FE0007F#32 0x1B800000#32 w (.ferfS ⟨flag w 31, fld w 14 7, fld w 7 7⟩)
  | _ => .error .unimpl

/-- Major 0x0E, VH2 (R54). -/
def decMajor0e (w : Word) : Except DecErr Instr :=
  match (fld w 21 4).toNat with
  | 0 => row 0x7FE00000#32 0x1C000000#32 w (.hadd ⟨flag w 31, fld w 14 7, fld w 7 7, fld w 0 7⟩)
  | 1 => row 0x7FE00000#32 0x1C200000#32 w (.hsub ⟨flag w 31, fld w 14 7, fld w 7 7, fld w 0 7⟩)
  | 2 => row 0x7FE00000#32 0x1C400000#32 w (.hmul ⟨flag w 31, fld w 14 7, fld w 7 7, fld w 0 7⟩)
  | 3 => row 0x7FE00000#32 0x1C600000#32 w (.hfma ⟨flag w 31, fld w 14 7, fld w 7 7, fld w 0 7⟩)
  | 4 => row 0x7FE00000#32 0x1C800000#32 w (.hmin ⟨flag w 31, fld w 14 7, fld w 7 7, fld w 0 7⟩)
  | 5 => row 0x7FE00000#32 0x1CA00000#32 w (.hmax ⟨flag w 31, fld w 14 7, fld w 7 7, fld w 0 7⟩)
  | 6 => row 0x7FE00000#32 0x1CC00000#32 w (.badd ⟨flag w 31, fld w 14 7, fld w 7 7, fld w 0 7⟩)
  | 7 => row 0x7FE00000#32 0x1CE00000#32 w (.bsub ⟨flag w 31, fld w 14 7, fld w 7 7, fld w 0 7⟩)
  | 8 => row 0x7FE00000#32 0x1D000000#32 w (.bmul ⟨flag w 31, fld w 14 7, fld w 7 7, fld w 0 7⟩)
  | 9 => row 0x7FE00000#32 0x1D200000#32 w (.bfma ⟨flag w 31, fld w 14 7, fld w 7 7, fld w 0 7⟩)
  | 10 => row 0x7FE00000#32 0x1D400000#32 w (.bmin ⟨flag w 31, fld w 14 7, fld w 7 7, fld w 0 7⟩)
  | 11 => row 0x7FE00000#32 0x1D600000#32 w (.bmax ⟨flag w 31, fld w 14 7, fld w 7 7, fld w 0 7⟩)
  | 12 => row 0x7FE00000#32 0x1D800000#32 w (.hdot2 ⟨flag w 31, fld w 14 7, fld w 7 7, fld w 0 7⟩)
  | 13 => row 0x7FE00000#32 0x1DA00000#32 w (.bdot2 ⟨flag w 31, fld w 14 7, fld w 7 7, fld w 0 7⟩)
  | _ => .error .unimpl

/-- Major 0x0F, VQ (R54). -/
def decMajor0f (w : Word) : Except DecErr Instr :=
  match (fld w 21 4).toNat with
  | 0 => row 0x7FE00000#32 0x1E000000#32 w (.qaddE4m3 ⟨flag w 31, fld w 14 7, fld w 7 7, fld w 0 7⟩)
  | 1 => row 0x7FE00000#32 0x1E200000#32 w (.qsubE4m3 ⟨flag w 31, fld w 14 7, fld w 7 7, fld w 0 7⟩)
  | 2 => row 0x7FE00000#32 0x1E400000#32 w (.qmulE4m3 ⟨flag w 31, fld w 14 7, fld w 7 7, fld w 0 7⟩)
  | 3 => row 0x7FE00000#32 0x1E600000#32 w (.qaddE5m2 ⟨flag w 31, fld w 14 7, fld w 7 7, fld w 0 7⟩)
  | 4 => row 0x7FE00000#32 0x1E800000#32 w (.qsubE5m2 ⟨flag w 31, fld w 14 7, fld w 7 7, fld w 0 7⟩)
  | 5 => row 0x7FE00000#32 0x1EA00000#32 w (.qmulE5m2 ⟨flag w 31, fld w 14 7, fld w 7 7, fld w 0 7⟩)
  | 6 => row 0x7FE00000#32 0x1EC00000#32 w (.qdot4E4m3 ⟨flag w 31, fld w 14 7, fld w 7 7, fld w 0 7⟩)
  | 7 => row 0x7FE00000#32 0x1EE00000#32 w (.qdot4E5m2 ⟨flag w 31, fld w 14 7, fld w 7 7, fld w 0 7⟩)
  | 8 => row 0x7FE00000#32 0x1F000000#32 w (.qdot4I8 ⟨flag w 31, fld w 14 7, fld w 7 7, fld w 0 7⟩)
  | 9 => row 0x7FE00000#32 0x1F200000#32 w (.qdot4N8 ⟨flag w 31, fld w 14 7, fld w 7 7, fld w 0 7⟩)
  | 10 => row 0x7FE00000#32 0x1F400000#32 w (.xdot8E2m1 ⟨flag w 31, fld w 14 7, fld w 7 7, fld w 0 7⟩)
  | 11 => row 0x7FE00000#32 0x1F600000#32 w (.qmaxE4m3 ⟨flag w 31, fld w 14 7, fld w 7 7, fld w 0 7⟩)
  | 12 => row 0x7FE00000#32 0x1F800000#32 w (.qminE4m3 ⟨flag w 31, fld w 14 7, fld w 7 7, fld w 0 7⟩)
  | 13 => row 0x7FE00000#32 0x1FA00000#32 w (.qaddI8 ⟨flag w 31, fld w 14 7, fld w 7 7, fld w 0 7⟩)
  | 14 => row 0x7FE00000#32 0x1FC00000#32 w (.qaddN8 ⟨flag w 31, fld w 14 7, fld w 7 7, fld w 0 7⟩)
  | 15 => row 0x7FE00000#32 0x1FE00000#32 w (.qmaxI8 ⟨flag w 31, fld w 14 7, fld w 7 7, fld w 0 7⟩)
  | _ => .error .unimpl

/-- Major 0x10, VCVT (R54). -/
def decMajor10 (w : Word) : Except DecErr Instr :=
  row 0x7E000000#32 0x20000000#32 w (.cvt ⟨flag w 31, fld w 21 4, fld w 17 4, fld w 10 7, fld w 3 7, fld w 0 3⟩)

/-- Major 0x11, SCVT.UP (R54). -/
def decMajor11 (w : Word) : Except DecErr Instr :=
  match (fld w 21 2).toNat with
  | 0 => row 0x7E600000#32 0x22000000#32 w (.scvtUpE4m3 ⟨flag w 31, fld w 23 2, fld w 14 7, fld w 7 7, fld w 0 7⟩)
  | 1 => row 0x7E600000#32 0x22200000#32 w (.scvtUpE5m2 ⟨flag w 31, fld w 23 2, fld w 14 7, fld w 7 7, fld w 0 7⟩)
  | 2 => row 0x7E600000#32 0x22400000#32 w (.scvtUpE2m1 ⟨flag w 31, fld w 23 2, fld w 14 7, fld w 7 7, fld w 0 7⟩)
  | 3 => row 0x7E600000#32 0x22600000#32 w (.scvtUpLq2 ⟨flag w 31, fld w 23 2, fld w 14 7, fld w 7 7, fld w 0 7⟩)
  | _ => .error .unimpl

/-- Major 0x12, SCVT.DN (R54). -/
def decMajor12 (w : Word) : Except DecErr Instr :=
  match (fld w 21 2).toNat with
  | 0 => row 0x7E600000#32 0x24000000#32 w (.scvtDnE4m3 ⟨flag w 31, fld w 23 2, fld w 14 7, fld w 7 7, fld w 0 7⟩)
  | 1 => row 0x7E600000#32 0x24200000#32 w (.scvtDnE5m2 ⟨flag w 31, fld w 23 2, fld w 14 7, fld w 7 7, fld w 0 7⟩)
  | 2 => row 0x7E600000#32 0x24400000#32 w (.scvtDnE2m1 ⟨flag w 31, fld w 23 2, fld w 14 7, fld w 7 7, fld w 0 7⟩)
  | _ => .error .unimpl

/-- Major 0x13, VCMP (R54). -/
def decMajor13 (w : Word) : Except DecErr Instr :=
  match (fld w 21 4).toNat with
  | 0 => row 0x7FE3C000#32 0x26000000#32 w (.cmpEq ⟨flag w 31, fld w 18 3, fld w 7 7, fld w 0 7⟩)
  | 1 => row 0x7FE3C000#32 0x26200000#32 w (.cmpNe ⟨flag w 31, fld w 18 3, fld w 7 7, fld w 0 7⟩)
  | 2 => row 0x7FE3C000#32 0x26400000#32 w (.cmpLtI ⟨flag w 31, fld w 18 3, fld w 7 7, fld w 0 7⟩)
  | 3 => row 0x7FE3C000#32 0x26600000#32 w (.cmpLeI ⟨flag w 31, fld w 18 3, fld w 7 7, fld w 0 7⟩)
  | 4 => row 0x7FE3C000#32 0x26800000#32 w (.cmpLtN ⟨flag w 31, fld w 18 3, fld w 7 7, fld w 0 7⟩)
  | 5 => row 0x7FE3C000#32 0x26A00000#32 w (.cmpLeN ⟨flag w 31, fld w 18 3, fld w 7 7, fld w 0 7⟩)
  | 6 => row 0x7FE3C000#32 0x26C00000#32 w (.cmpFeq ⟨flag w 31, fld w 18 3, fld w 7 7, fld w 0 7⟩)
  | 7 => row 0x7FE3C000#32 0x26E00000#32 w (.cmpFne ⟨flag w 31, fld w 18 3, fld w 7 7, fld w 0 7⟩)
  | 8 => row 0x7FE3C000#32 0x27000000#32 w (.cmpFlt ⟨flag w 31, fld w 18 3, fld w 7 7, fld w 0 7⟩)
  | 9 => row 0x7FE3C000#32 0x27200000#32 w (.cmpFle ⟨flag w 31, fld w 18 3, fld w 7 7, fld w 0 7⟩)
  | 10 => row 0x7FE3C000#32 0x27400000#32 w (.cmpFuno ⟨flag w 31, fld w 18 3, fld w 7 7, fld w 0 7⟩)
  | 11 => row 0x7FE3C000#32 0x27600000#32 w (.cmpFord ⟨flag w 31, fld w 18 3, fld w 7 7, fld w 0 7⟩)
  | 12 => row 0x7FE3C000#32 0x27800000#32 w (.cmpTstz ⟨flag w 31, fld w 18 3, fld w 7 7, fld w 0 7⟩)
  | 13 => row 0x7FE3C000#32 0x27A00000#32 w (.cmpTstnz ⟨flag w 31, fld w 18 3, fld w 7 7, fld w 0 7⟩)
  | _ => .error .unimpl

/-- Major 0x14, VCMP.S (R54). -/
def decMajor14 (w : Word) : Except DecErr Instr :=
  match (fld w 21 4).toNat with
  | 0 => row 0x7FE3C000#32 0x28000000#32 w (.cmpEqS ⟨flag w 31, fld w 18 3, fld w 7 7, fld w 0 7⟩)
  | 1 => row 0x7FE3C000#32 0x28200000#32 w (.cmpNeS ⟨flag w 31, fld w 18 3, fld w 7 7, fld w 0 7⟩)
  | 2 => row 0x7FE3C000#32 0x28400000#32 w (.cmpLtIS ⟨flag w 31, fld w 18 3, fld w 7 7, fld w 0 7⟩)
  | 3 => row 0x7FE3C000#32 0x28600000#32 w (.cmpLeIS ⟨flag w 31, fld w 18 3, fld w 7 7, fld w 0 7⟩)
  | 4 => row 0x7FE3C000#32 0x28800000#32 w (.cmpLtNS ⟨flag w 31, fld w 18 3, fld w 7 7, fld w 0 7⟩)
  | 5 => row 0x7FE3C000#32 0x28A00000#32 w (.cmpLeNS ⟨flag w 31, fld w 18 3, fld w 7 7, fld w 0 7⟩)
  | 6 => row 0x7FE3C000#32 0x28C00000#32 w (.cmpFeqS ⟨flag w 31, fld w 18 3, fld w 7 7, fld w 0 7⟩)
  | 7 => row 0x7FE3C000#32 0x28E00000#32 w (.cmpFneS ⟨flag w 31, fld w 18 3, fld w 7 7, fld w 0 7⟩)
  | 8 => row 0x7FE3C000#32 0x29000000#32 w (.cmpFltS ⟨flag w 31, fld w 18 3, fld w 7 7, fld w 0 7⟩)
  | 9 => row 0x7FE3C000#32 0x29200000#32 w (.cmpFleS ⟨flag w 31, fld w 18 3, fld w 7 7, fld w 0 7⟩)
  | 10 => row 0x7FE3C000#32 0x29400000#32 w (.cmpFunoS ⟨flag w 31, fld w 18 3, fld w 7 7, fld w 0 7⟩)
  | 11 => row 0x7FE3C000#32 0x29600000#32 w (.cmpFordS ⟨flag w 31, fld w 18 3, fld w 7 7, fld w 0 7⟩)
  | 12 => row 0x7FE3C000#32 0x29800000#32 w (.cmpTstzS ⟨flag w 31, fld w 18 3, fld w 7 7, fld w 0 7⟩)
  | 13 => row 0x7FE3C000#32 0x29A00000#32 w (.cmpTstnzS ⟨flag w 31, fld w 18 3, fld w 7 7, fld w 0 7⟩)
  | _ => .error .unimpl

/-- Major 0x15, MASK (R54). -/
def decMajor15 (w : Word) : Except DecErr Instr :=
  match (fld w 21 4).toNat with
  | 0 => row 0x7FE00FFF#32 0x2A000000#32 w (.mand ⟨flag w 31, fld w 18 3, fld w 15 3, fld w 12 3⟩)
  | 1 => row 0x7FE00FFF#32 0x2A200000#32 w (.mor ⟨flag w 31, fld w 18 3, fld w 15 3, fld w 12 3⟩)
  | 2 => row 0x7FE00FFF#32 0x2A400000#32 w (.mxor ⟨flag w 31, fld w 18 3, fld w 15 3, fld w 12 3⟩)
  | 3 => row 0x7FE00FFF#32 0x2A600000#32 w (.mandn ⟨flag w 31, fld w 18 3, fld w 15 3, fld w 12 3⟩)
  | 4 => row 0x7FE07FFF#32 0x2A800000#32 w (.mnot ⟨flag w 31, fld w 18 3, fld w 15 3⟩)
  | 5 => row 0x7FFC703F#32 0x2AA00000#32 w (.mpopc ⟨flag w 31, fld w 15 3, fld w 6 6⟩)
  | 6 => row 0x7FFC703F#32 0x2AC00000#32 w (.mffs ⟨flag w 31, fld w 15 3, fld w 6 6⟩)
  | 7 => row 0x7FE3F03F#32 0x2AE00000#32 w (.mfroms ⟨flag w 31, fld w 18 3, fld w 6 6⟩)
  | 8 => row 0x7FFC703F#32 0x2B000000#32 w (.mtos ⟨flag w 31, fld w 15 3, fld w 6 6⟩)
  | _ => .error .unimpl

/-- Major 0x16, XLANE (R54). -/
def decMajor16 (w : Word) : Except DecErr Instr :=
  match (fld w 21 4).toNat with
  | 0 => row 0x7FE00000#32 0x2C000000#32 w (.shflIdx ⟨flag w 31, fld w 14 7, fld w 7 7, fld w 0 7⟩)
  | 1 => row 0x7FE00000#32 0x2C200000#32 w (.shflUp ⟨flag w 31, fld w 14 7, fld w 7 7, fld w 0 7⟩)
  | 2 => row 0x7FE00000#32 0x2C400000#32 w (.shflDn ⟨flag w 31, fld w 14 7, fld w 7 7, fld w 0 7⟩)
  | 3 => row 0x7FE00000#32 0x2C600000#32 w (.shflXor ⟨flag w 31, fld w 14 7, fld w 7 7, fld w 0 7⟩)
  | 4 => row 0x7FE0007F#32 0x2C800000#32 w (.voteAny ⟨flag w 31, fld w 14 7, fld w 7 7⟩)
  | 5 => row 0x7FE0007F#32 0x2CA00000#32 w (.voteAll ⟨flag w 31, fld w 14 7, fld w 7 7⟩)
  | 6 => row 0x7FE0007F#32 0x2CC00000#32 w (.ballot ⟨flag w 31, fld w 14 7, fld w 7 7⟩)
  | 7 => row 0x7FE0007F#32 0x2CE00000#32 w (.matchV ⟨flag w 31, fld w 14 7, fld w 7 7⟩)
  | 8 => row 0x7FE0007F#32 0x2D000000#32 w (.redxAddI ⟨flag w 31, fld w 14 7, fld w 7 7⟩)
  | 9 => row 0x7FE0007F#32 0x2D200000#32 w (.redxAddF ⟨flag w 31, fld w 14 7, fld w 7 7⟩)
  | 10 => row 0x7FE0007F#32 0x2D400000#32 w (.redxMinI ⟨flag w 31, fld w 14 7, fld w 7 7⟩)
  | 11 => row 0x7FE0007F#32 0x2D600000#32 w (.redxMaxI ⟨flag w 31, fld w 14 7, fld w 7 7⟩)
  | 12 => row 0x7FE0007F#32 0x2D800000#32 w (.scanAddI ⟨flag w 31, fld w 14 7, fld w 7 7⟩)
  | 13 => row 0x7FE0007F#32 0x2DA00000#32 w (.scanAddF ⟨flag w 31, fld w 14 7, fld w 7 7⟩)
  | 14 => row 0x7FE0007F#32 0x2DC00000#32 w (.bcast ⟨flag w 31, fld w 14 7, fld w 7 7⟩)
  | _ => .error .unimpl

/-- Major 0x17, SALU (R54). -/
def decMajor17 (w : Word) : Except DecErr Instr :=
  match (fld w 21 4).toNat with
  | 0 => row 0x7FE00000#32 0x2E000000#32 w (.sadd ⟨flag w 31, fld w 14 7, fld w 7 7, fld w 0 7⟩)
  | 1 => row 0x7FE00000#32 0x2E200000#32 w (.ssub ⟨flag w 31, fld w 14 7, fld w 7 7, fld w 0 7⟩)
  | 2 => row 0x7FE00000#32 0x2E400000#32 w (.smul ⟨flag w 31, fld w 14 7, fld w 7 7, fld w 0 7⟩)
  | 3 => row 0x7FE00000#32 0x2E600000#32 w (.sand ⟨flag w 31, fld w 14 7, fld w 7 7, fld w 0 7⟩)
  | 4 => row 0x7FE00000#32 0x2E800000#32 w (.sor ⟨flag w 31, fld w 14 7, fld w 7 7, fld w 0 7⟩)
  | 5 => row 0x7FE00000#32 0x2EA00000#32 w (.sxor ⟨flag w 31, fld w 14 7, fld w 7 7, fld w 0 7⟩)
  | 6 => row 0x7FE00000#32 0x2EC00000#32 w (.sshl ⟨flag w 31, fld w 14 7, fld w 7 7, fld w 0 7⟩)
  | 7 => row 0x7FE00000#32 0x2EE00000#32 w (.sshr ⟨flag w 31, fld w 14 7, fld w 7 7, fld w 0 7⟩)
  | 8 => row 0x7FE00000#32 0x2F000000#32 w (.ssar ⟨flag w 31, fld w 14 7, fld w 7 7, fld w 0 7⟩)
  | 9 => row 0x7FE00000#32 0x2F200000#32 w (.sminI ⟨flag w 31, fld w 14 7, fld w 7 7, fld w 0 7⟩)
  | 10 => row 0x7FE00000#32 0x2F400000#32 w (.smaxI ⟨flag w 31, fld w 14 7, fld w 7 7, fld w 0 7⟩)
  | 11 => row 0x7FE00000#32 0x2F600000#32 w (.sminN ⟨flag w 31, fld w 14 7, fld w 7 7, fld w 0 7⟩)
  | 12 => row 0x7FE00000#32 0x2F800000#32 w (.smaxN ⟨flag w 31, fld w 14 7, fld w 7 7, fld w 0 7⟩)
  | 13 => row 0x7FE00000#32 0x2FA00000#32 w (.saddD ⟨flag w 31, fld w 14 7, fld w 7 7, fld w 0 7⟩)
  | 14 => row 0x7FE00000#32 0x2FC00000#32 w (.scmp ⟨flag w 31, fld w 14 7, fld w 7 7, fld w 0 7⟩)
  | 15 => row 0x7FE00000#32 0x2FE00000#32 w (.ssel ⟨flag w 31, fld w 14 7, fld w 7 7, fld w 0 7⟩)
  | _ => .error .unimpl

/-- Major 0x18, SALU.I (R54). -/
def decMajor18 (w : Word) : Except DecErr Instr :=
  match (fld w 23 2).toNat with
  | 0 => row 0x7F800000#32 0x30000000#32 w (.saddi ⟨flag w 31, fld w 16 7, fld w 9 7, fld w 0 9⟩)
  | 1 => row 0x7F80FE00#32 0x30800000#32 w (.smovi ⟨flag w 31, fld w 16 7, fld w 0 9⟩)
  | 2 => row 0x7F800000#32 0x31000000#32 w (.sandi ⟨flag w 31, fld w 16 7, fld w 9 7, fld w 0 9⟩)
  | 3 => row 0x7F800000#32 0x31800000#32 w (.sshli ⟨flag w 31, fld w 16 7, fld w 9 7, fld w 0 9⟩)
  | _ => .error .unimpl

/-- Major 0x19, MOV (R54). DESIGN CHOICE (log 17): an XSET with RING = 0 may have any Ln, which means nothing there. -/
def decMajor19 (w : Word) : Except DecErr Instr :=
  match (fld w 21 4).toNat with
  | 0 => row 0x7FE0007F#32 0x32000000#32 w (.movv ⟨flag w 31, fld w 14 7, fld w 7 7⟩)
  | 1 => row 0x7FE0007F#32 0x32200000#32 w (.movVs ⟨flag w 31, fld w 14 7, fld w 7 7⟩)
  | 2 => row 0x7FE00000#32 0x32400000#32 w (.movSv ⟨flag w 31, fld w 14 7, fld w 7 7, fld w 0 7⟩)
  | 3 => row 0x7FE03F80#32 0x32600000#32 w (.mfc ⟨flag w 31, fld w 14 7, fld w 0 7⟩)
  | 4 => row 0x7FFFC000#32 0x32800000#32 w (.mtc ⟨flag w 31, fld w 7 7, fld w 0 7⟩)
  | 5 => row 0x7FE03F80#32 0x32A00000#32 w (.mfcv ⟨flag w 31, fld w 14 7, fld w 0 7⟩)
  | 6 => row 0x7FE0007F#32 0x32C00000#32 w (.vrdi ⟨flag w 31, fld w 14 7, fld w 7 7⟩)
  | 7 => row 0x7FFFC000#32 0x32E00000#32 w (.vwri ⟨flag w 31, fld w 7 7, fld w 0 7⟩)
  | 8 => row 0x7FFF0078#32 0x33000000#32 w (.xset ⟨flag w 31, fld w 14 2, fld w 7 7, flag w 2, fld w 0 2⟩)
  | _ => .error .unimpl

/-- Major 0x1A, LD (R54). -/
def decMajor1a (w : Word) : Except DecErr Instr :=
  match (fld w 22 3).toNat with
  | 0 => row 0x7FC00000#32 0x34000000#32 w (.ldB8 ⟨flag w 31, fld w 15 7, fld w 8 7, fld w 4 4, fld w 0 4⟩)
  | 1 => row 0x7FC00000#32 0x34400000#32 w (.ldB16 ⟨flag w 31, fld w 15 7, fld w 8 7, fld w 4 4, fld w 0 4⟩)
  | 2 => row 0x7FC00000#32 0x34800000#32 w (.ldB32 ⟨flag w 31, fld w 15 7, fld w 8 7, fld w 4 4, fld w 0 4⟩)
  | 3 => row 0x7FC00000#32 0x34C00000#32 w (.ldB64 ⟨flag w 31, fld w 15 7, fld w 8 7, fld w 4 4, fld w 0 4⟩)
  | 4 => row 0x7FC00000#32 0x35000000#32 w (.ldB128 ⟨flag w 31, fld w 15 7, fld w 8 7, fld w 4 4, fld w 0 4⟩)
  | 5 => row 0x7FC00000#32 0x35400000#32 w (.ldI8 ⟨flag w 31, fld w 15 7, fld w 8 7, fld w 4 4, fld w 0 4⟩)
  | 6 => row 0x7FC00000#32 0x35800000#32 w (.ldI16 ⟨flag w 31, fld w 15 7, fld w 8 7, fld w 4 4, fld w 0 4⟩)
  | 7 => row 0x7FFF80FF#32 0x35C00000#32 w (.pref ⟨flag w 31, fld w 8 7⟩)
  | _ => .error .unimpl

/-- Major 0x1B, ST (R54). -/
def decMajor1b (w : Word) : Except DecErr Instr :=
  match (fld w 22 3).toNat with
  | 0 => row 0x7FC00000#32 0x36000000#32 w (.stB8 ⟨flag w 31, fld w 15 7, fld w 8 7, fld w 4 4, fld w 0 4⟩)
  | 1 => row 0x7FC00000#32 0x36400000#32 w (.stB16 ⟨flag w 31, fld w 15 7, fld w 8 7, fld w 4 4, fld w 0 4⟩)
  | 2 => row 0x7FC00000#32 0x36800000#32 w (.stB32 ⟨flag w 31, fld w 15 7, fld w 8 7, fld w 4 4, fld w 0 4⟩)
  | 3 => row 0x7FC00000#32 0x36C00000#32 w (.stB64 ⟨flag w 31, fld w 15 7, fld w 8 7, fld w 4 4, fld w 0 4⟩)
  | 4 => row 0x7FC00000#32 0x37000000#32 w (.stB128 ⟨flag w 31, fld w 15 7, fld w 8 7, fld w 4 4, fld w 0 4⟩)
  | _ => .error .unimpl

/-- Major 0x1C, LDN (R54). -/
noncomputable def decMajor1c (w : Word) : Except DecErr Instr :=
  match (fld w 22 3).toNat with
  | 0 => row 0x7FC00000#32 0x38000000#32 w (.ldnB8 ⟨flag w 31, fld w 15 7, fld w 8 7, fld w 4 4, fld w 0 4⟩)
  | 1 => row 0x7FC00000#32 0x38400000#32 w (.ldnB16 ⟨flag w 31, fld w 15 7, fld w 8 7, fld w 4 4, fld w 0 4⟩)
  | 2 => row 0x7FC00000#32 0x38800000#32 w (.ldnB32 ⟨flag w 31, fld w 15 7, fld w 8 7, fld w 4 4, fld w 0 4⟩)
  | 3 => row 0x7FC00000#32 0x38C00000#32 w (.ldnB64 ⟨flag w 31, fld w 15 7, fld w 8 7, fld w 4 4, fld w 0 4⟩)
  | 4 => row 0x7FC00000#32 0x39000000#32 w (.ldnB128 ⟨flag w 31, fld w 15 7, fld w 8 7, fld w 4 4, fld w 0 4⟩)
  | 5 => row 0x7FC00000#32 0x39400000#32 w (.ldnI8 ⟨flag w 31, fld w 15 7, fld w 8 7, fld w 4 4, fld w 0 4⟩)
  | 6 => row 0x7FC00000#32 0x39800000#32 w (.ldnI16 ⟨flag w 31, fld w 15 7, fld w 8 7, fld w 4 4, fld w 0 4⟩)
  | 7 => row 0x7FC00000#32 0x39C00000#32 w (.ldnPres ⟨flag w 31, fld w 15 7, fld w 8 7, fld w 4 4, fld w 0 4⟩)
  | _ => .error .unimpl

/-- Major 0x1D, STN (R54). -/
noncomputable def decMajor1d (w : Word) : Except DecErr Instr :=
  match (fld w 22 3).toNat with
  | 0 => row 0x7FC00000#32 0x3A000000#32 w (.stnB8 ⟨flag w 31, fld w 15 7, fld w 8 7, fld w 4 4, fld w 0 4⟩)
  | 1 => row 0x7FC00000#32 0x3A400000#32 w (.stnB16 ⟨flag w 31, fld w 15 7, fld w 8 7, fld w 4 4, fld w 0 4⟩)
  | 2 => row 0x7FC00000#32 0x3A800000#32 w (.stnB32 ⟨flag w 31, fld w 15 7, fld w 8 7, fld w 4 4, fld w 0 4⟩)
  | 3 => row 0x7FC00000#32 0x3AC00000#32 w (.stnB64 ⟨flag w 31, fld w 15 7, fld w 8 7, fld w 4 4, fld w 0 4⟩)
  | 4 => row 0x7FC00000#32 0x3B000000#32 w (.stnB128 ⟨flag w 31, fld w 15 7, fld w 8 7, fld w 4 4, fld w 0 4⟩)
  | _ => .error .unimpl

/-- Major 0x1E, ATOM (R54). -/
noncomputable def decMajor1e (w : Word) : Except DecErr Instr :=
  match (fld w 21 4).toNat with
  | 0 => row 0x7FE00000#32 0x3C000000#32 w (.atomAddI32 ⟨flag w 31, fld w 14 7, fld w 7 7, fld w 0 7⟩)
  | 1 => row 0x7FE00000#32 0x3C200000#32 w (.atomMinI32 ⟨flag w 31, fld w 14 7, fld w 7 7, fld w 0 7⟩)
  | 2 => row 0x7FE00000#32 0x3C400000#32 w (.atomMaxI32 ⟨flag w 31, fld w 14 7, fld w 7 7, fld w 0 7⟩)
  | 3 => row 0x7FE00000#32 0x3C600000#32 w (.atomMinN32 ⟨flag w 31, fld w 14 7, fld w 7 7, fld w 0 7⟩)
  | 4 => row 0x7FE00000#32 0x3C800000#32 w (.atomMaxN32 ⟨flag w 31, fld w 14 7, fld w 7 7, fld w 0 7⟩)
  | 5 => row 0x7FE00000#32 0x3CA00000#32 w (.atomAnd ⟨flag w 31, fld w 14 7, fld w 7 7, fld w 0 7⟩)
  | 6 => row 0x7FE00000#32 0x3CC00000#32 w (.atomOr ⟨flag w 31, fld w 14 7, fld w 7 7, fld w 0 7⟩)
  | 7 => row 0x7FE00000#32 0x3CE00000#32 w (.atomXor ⟨flag w 31, fld w 14 7, fld w 7 7, fld w 0 7⟩)
  | 8 => row 0x7FE00000#32 0x3D000000#32 w (.atomXchg ⟨flag w 31, fld w 14 7, fld w 7 7, fld w 0 7⟩)
  | 9 => row 0x7FE00000#32 0x3D200000#32 w (.atomCas ⟨flag w 31, fld w 14 7, fld w 7 7, fld w 0 7⟩)
  | 10 => row 0x7FE00000#32 0x3D400000#32 w (.atomAddF32 ⟨flag w 31, fld w 14 7, fld w 7 7, fld w 0 7⟩)
  | 11 => row 0x7FE00000#32 0x3D600000#32 w (.atomAddBf16x2 ⟨flag w 31, fld w 14 7, fld w 7 7, fld w 0 7⟩)
  | 12 => row 0x7FE00000#32 0x3D800000#32 w (.atomIncw ⟨flag w 31, fld w 14 7, fld w 7 7, fld w 0 7⟩)
  | 13 => row 0x7FE00000#32 0x3DA00000#32 w (.atomAddI64 ⟨flag w 31, fld w 14 7, fld w 7 7, fld w 0 7⟩)
  | 14 => row 0x7FE00000#32 0x3DC00000#32 w (.atomCas64 ⟨flag w 31, fld w 14 7, fld w 7 7, fld w 0 7⟩)
  | 15 => row 0x7FE00000#32 0x3DE00000#32 w (.atomXchg64 ⟨flag w 31, fld w 14 7, fld w 7 7, fld w 0 7⟩)
  | _ => .error .unimpl

/-- Major 0x1F, ATOMN (R54). -/
noncomputable def decMajor1f (w : Word) : Except DecErr Instr :=
  match (fld w 21 4).toNat with
  | 0 => row 0x7FE00000#32 0x3E000000#32 w (.atomnAddI32 ⟨flag w 31, fld w 14 7, fld w 7 7, fld w 0 7⟩)
  | 1 => row 0x7FE00000#32 0x3E200000#32 w (.atomnMinI32 ⟨flag w 31, fld w 14 7, fld w 7 7, fld w 0 7⟩)
  | 2 => row 0x7FE00000#32 0x3E400000#32 w (.atomnMaxI32 ⟨flag w 31, fld w 14 7, fld w 7 7, fld w 0 7⟩)
  | 3 => row 0x7FE00000#32 0x3E600000#32 w (.atomnMinN32 ⟨flag w 31, fld w 14 7, fld w 7 7, fld w 0 7⟩)
  | 4 => row 0x7FE00000#32 0x3E800000#32 w (.atomnMaxN32 ⟨flag w 31, fld w 14 7, fld w 7 7, fld w 0 7⟩)
  | 5 => row 0x7FE00000#32 0x3EA00000#32 w (.atomnAnd ⟨flag w 31, fld w 14 7, fld w 7 7, fld w 0 7⟩)
  | 6 => row 0x7FE00000#32 0x3EC00000#32 w (.atomnOr ⟨flag w 31, fld w 14 7, fld w 7 7, fld w 0 7⟩)
  | 7 => row 0x7FE00000#32 0x3EE00000#32 w (.atomnXor ⟨flag w 31, fld w 14 7, fld w 7 7, fld w 0 7⟩)
  | 8 => row 0x7FE00000#32 0x3F000000#32 w (.atomnXchg ⟨flag w 31, fld w 14 7, fld w 7 7, fld w 0 7⟩)
  | 9 => row 0x7FE00000#32 0x3F200000#32 w (.atomnCas ⟨flag w 31, fld w 14 7, fld w 7 7, fld w 0 7⟩)
  | 10 => row 0x7FE00000#32 0x3F400000#32 w (.atomnAddF32 ⟨flag w 31, fld w 14 7, fld w 7 7, fld w 0 7⟩)
  | 11 => row 0x7FE00000#32 0x3F600000#32 w (.atomnAddBf16x2 ⟨flag w 31, fld w 14 7, fld w 7 7, fld w 0 7⟩)
  | 12 => row 0x7FE00000#32 0x3F800000#32 w (.atomnIncw ⟨flag w 31, fld w 14 7, fld w 7 7, fld w 0 7⟩)
  | 13 => row 0x7FE00000#32 0x3FA00000#32 w (.atomnAddI64 ⟨flag w 31, fld w 14 7, fld w 7 7, fld w 0 7⟩)
  | 14 => row 0x7FE00000#32 0x3FC00000#32 w (.atomnCas64 ⟨flag w 31, fld w 14 7, fld w 7 7, fld w 0 7⟩)
  | 15 => row 0x7FE00000#32 0x3FE00000#32 w (.atomnXchg64 ⟨flag w 31, fld w 14 7, fld w 7 7, fld w 0 7⟩)
  | _ => .error .unimpl

/-- Major 0x20, SLICE (R54). -/
noncomputable def decMajor20 (w : Word) : Except DecErr Instr :=
  match (fld w 21 4).toNat with
  | 0 => row 0x7FE0007C#32 0x40000000#32 w (.sliceLdl ⟨flag w 31, fld w 14 7, fld w 7 7, fld w 0 2⟩)
  | 1 => row 0x7FE00070#32 0x40200000#32 w (.sliceCstm ⟨flag w 31, fld w 14 7, fld w 7 7, fld w 0 4⟩)
  | 2 => row 0x7FFFC000#32 0x40400000#32 w (.sliceRedlI32 ⟨flag w 31, fld w 7 7, fld w 0 7⟩)
  | 3 => row 0x7FE00000#32 0x40600000#32 w (.sliceRedlAln ⟨flag w 31, fld w 14 7, fld w 7 7, fld w 0 7⟩)
  | _ => .error .unimpl

/-- Major 0x21, KEY (R54). -/
noncomputable def decMajor21 (w : Word) : Except DecErr Instr :=
  match (fld w 21 4).toNat with
  | 0 => row 0x7FE1FE00#32 0x42000000#32 w (.kscope ⟨flag w 31, fld w 17 4, fld w 0 9⟩)
  | 1 => row 0x7FE01FFF#32 0x42200000#32 w (.kdef ⟨flag w 31, fld w 17 4, fld w 13 4⟩)
  | 2 => row 0x7FE01FFF#32 0x42400000#32 w (.kfork ⟨flag w 31, fld w 17 4, fld w 13 4⟩)
  | 3 => row 0x7FE001FF#32 0x42600000#32 w (.kjoin ⟨flag w 31, fld w 17 4, fld w 13 4, fld w 9 4⟩)
  | 4 => row 0x7FFE1FFF#32 0x42800000#32 w (.kwait ⟨flag w 31, fld w 13 4⟩)
  | 5 => row 0x7FE01FC0#32 0x42A00000#32 w (.ksend ⟨flag w 31, fld w 17 4, fld w 13 4, fld w 0 6⟩)
  | 6 => row 0x7FE1FFC0#32 0x42C00000#32 w (.krecv ⟨flag w 31, fld w 17 4, fld w 0 6⟩)
  | 7 => row 0x7FFE1FC0#32 0x42E00000#32 w (.kpoll ⟨flag w 31, fld w 13 4, fld w 0 6⟩)
  | _ => .error .unimpl

/-- Major 0x22, PORT (R54). -/
noncomputable def decMajor22 (w : Word) : Except DecErr Instr :=
  match (fld w 21 4).toNat with
  | 0 => row 0x7FE3F80F#32 0x44000000#32 w (.pbind ⟨flag w 31, fld w 18 3, fld w 4 7⟩)
  | 1 => row 0x7FE007F0#32 0x44200000#32 w (.push ⟨flag w 31, fld w 18 3, fld w 11 7, fld w 0 4⟩)
  | 2 => row 0x7FE007FF#32 0x44400000#32 w (.pop ⟨flag w 31, fld w 18 3, fld w 11 7⟩)
  | 3 => row 0x7FE007FF#32 0x44600000#32 w (.ppeek ⟨flag w 31, fld w 18 3, fld w 11 7⟩)
  | 4 => row 0x7FE007FF#32 0x44800000#32 w (.pstat ⟨flag w 31, fld w 18 3, fld w 11 7⟩)
  | 5 => row 0x7FE3FFFF#32 0x44A00000#32 w (.punbind ⟨flag w 31, fld w 18 3⟩)
  | _ => .error .unimpl

/-- Major 0x23, COPY (R54). -/
noncomputable def decMajor23 (w : Word) : Except DecErr Instr :=
  match (fld w 21 4).toNat with
  | 0 => row 0x7FE00000#32 0x46000000#32 w (.tcopy ⟨flag w 31, fld w 14 7, fld w 8 6, fld w 4 4, fld w 0 4⟩)
  | 1 => row 0x7FE00000#32 0x46200000#32 w (.tcopyt ⟨flag w 31, fld w 14 7, fld w 8 6, fld w 4 4, fld w 0 4⟩)
  | 2 => row 0x7FE03FFF#32 0x46400000#32 w (.tcancel ⟨flag w 31, fld w 14 7⟩)
  | 3 => row 0x7FE00000#32 0x46600000#32 w (.rcarm ⟨flag w 31, fld w 14 7, fld w 8 6, fld w 4 4, fld w 0 4⟩)
  | 4 => row 0x7FE00000#32 0x46800000#32 w (.rcwait ⟨flag w 31, fld w 14 7, fld w 8 6, fld w 4 4, fld w 0 4⟩)
  | 5 => row 0x7FE000FF#32 0x46A00000#32 w (.rcread ⟨flag w 31, fld w 14 7, fld w 8 6⟩)
  | 6 => row 0x7FE000FF#32 0x46C00000#32 w (.cpoll ⟨flag w 31, fld w 14 7, fld w 8 6⟩)
  | _ => .error .unimpl

/-- Major 0x24, MX (R54). -/
noncomputable def decMajor24 (w : Word) : Except DecErr Instr :=
  match (fld w 21 4).toNat with
  | 0 => row 0x7FE03F00#32 0x48000000#32 w (.mxpost ⟨flag w 31, fld w 14 7, fld w 4 4, fld w 0 4⟩)
  | 1 => row 0x7FE03F00#32 0x48200000#32 w (.mxrd ⟨flag w 31, fld w 14 7, fld w 4 4, fld w 0 4⟩)
  | 2 => row 0x7FE03F00#32 0x48400000#32 w (.mxwr ⟨flag w 31, fld w 14 7, fld w 4 4, fld w 0 4⟩)
  | 3 => row 0x7FE03F00#32 0x48600000#32 w (.mxzero ⟨flag w 31, fld w 14 7, fld w 4 4, fld w 0 4⟩)
  | 4 => row 0x7FE03FFF#32 0x48800000#32 w (.mxhbind ⟨flag w 31, fld w 14 7⟩)
  | 5 => row 0x7FE03FFF#32 0x48A00000#32 w (.mxhgen ⟨flag w 31, fld w 14 7⟩)
  | 6 => row 0x7FE03FFF#32 0x48C00000#32 w (.scbind ⟨flag w 31, fld w 14 7⟩)
  | 7 => row 0x7FE03F00#32 0x48E00000#32 w (.scload ⟨flag w 31, fld w 14 7, fld w 4 4, fld w 0 4⟩)
  | 8 => row 0x7FE03FFF#32 0x49000000#32 w (.scinv ⟨flag w 31, fld w 14 7⟩)
  | _ => .error .unimpl

/-- Major 0x25, CREEL (R54). -/
noncomputable def decMajor25 (w : Word) : Except DecErr Instr :=
  match (fld w 21 4).toNat with
  | 0 => row 0x7FE00000#32 0x4A000000#32 w (.crcfg ⟨flag w 31, fld w 14 7, fld w 8 6, fld w 4 4, fld w 0 4⟩)
  | 1 => if flag w 8 then row 0x7FE001FF#32 0x4A200100#32 w (.crallocW ⟨flag w 31, fld w 14 7, fld w 9 5⟩)
    else row 0x7FE001FF#32 0x4A200000#32 w (.cralloc ⟨flag w 31, fld w 14 7, fld w 9 5⟩)
  | 2 => row 0x7FE00000#32 0x4A400000#32 w (.crgate ⟨flag w 31, fld w 14 7, fld w 8 6, fld w 4 4, fld w 0 4⟩)
  | 3 => row 0x7FE00000#32 0x4A600000#32 w (.crwait ⟨flag w 31, fld w 14 7, fld w 8 6, fld w 4 4, fld w 0 4⟩)
  | 4 => row 0x7FE000FF#32 0x4A800000#32 w (.crstat ⟨flag w 31, fld w 14 7, fld w 8 6⟩)
  | 5 => row 0x7FE00000#32 0x4AA00000#32 w (.crfree ⟨flag w 31, fld w 14 7, fld w 8 6, fld w 4 4, fld w 0 4⟩)
  | _ => .error .unimpl

/-- Major 0x26, BAR (R54). -/
noncomputable def decMajor26 (w : Word) : Except DecErr Instr :=
  match (fld w 21 4).toNat with
  | 0 => row 0x7FE1C0FF#32 0x4C000000#32 w (.binit ⟨flag w 31, fld w 17 4, fld w 8 6⟩)
  | 1 => row 0x7FE1FF00#32 0x4C200000#32 w (.barv ⟨flag w 31, fld w 17 4, fld w 4 4, fld w 0 4⟩)
  | 2 => row 0x7FE1FFFF#32 0x4C400000#32 w (.bwait ⟨flag w 31, fld w 17 4⟩)
  | 3 => row 0x7FE1FF00#32 0x4C600000#32 w (.bsync ⟨flag w 31, fld w 17 4, fld w 4 4, fld w 0 4⟩)
  | 4 => row 0x7FE1C0FF#32 0x4C800000#32 w (.bstat ⟨flag w 31, fld w 17 4, fld w 8 6⟩)
  | _ => .error .unimpl

/-- Major 0x27, GRID (R54). -/
noncomputable def decMajor27 (w : Word) : Except DecErr Instr :=
  match (fld w 21 4).toNat with
  | 0 => row 0x7FE03F00#32 0x4E000000#32 w (.glaunch ⟨flag w 31, fld w 14 7, fld w 4 4, fld w 0 4⟩)
  | 1 => row 0x7FE00000#32 0x4E200000#32 w (.gwait ⟨flag w 31, fld w 14 7, fld w 8 6, fld w 4 4, fld w 0 4⟩)
  | 2 => row 0x7FF000FF#32 0x4E400000#32 w (.gstat ⟨flag w 31, fld w 14 6, fld w 8 6⟩)
  | _ => .error .unimpl

/-- Major 0x28, LQ (R54). -/
noncomputable def decMajor28 (w : Word) : Except DecErr Instr :=
  match (fld w 21 4).toNat with
  | 0 => row 0x7FE00000#32 0x50000000#32 w (.lqdec ⟨flag w 31, fld w 14 7, fld w 7 7, fld w 0 7⟩)
  | 1 => row 0x7FE00000#32 0x50200000#32 w (.lqdot ⟨flag w 31, fld w 14 7, fld w 7 7, fld w 0 7⟩)
  | 2 => row 0x7FFFC000#32 0x50400000#32 w (.lqtbl ⟨flag w 31, fld w 7 7, fld w 0 7⟩)
  | _ => .error .unimpl

/-- Major 0x3F, SYS (R54). -/
noncomputable def decMajor3f (w : Word) : Except DecErr Instr :=
  match (fld w 21 4).toNat with
  | 0 => row 0x7FE03F80#32 0x7E000000#32 w (.mtcp ⟨flag w 31, fld w 14 7, fld w 0 7⟩)
  | 1 => row 0x7FE03F80#32 0x7E200000#32 w (.mfcp ⟨flag w 31, fld w 14 7, fld w 0 7⟩)
  | 2 => row 0x7FFFC07F#32 0x7E400000#32 w (.tlbinv ⟨flag w 31, fld w 7 7⟩)
  | 3 => row 0x7FE0007F#32 0x7E600000#32 w (.wswitch ⟨flag w 31, fld w 14 7, fld w 7 7⟩)
  | 4 => row 0x7FFFFFFF#32 0x7E800000#32 w (.halt ⟨flag w 31⟩)
  | _ => .error .unimpl

/-- The instruction a word stands for by its major and minor, before the checks of WellFormed (R54, R56). -/
noncomputable def decodeRow (w : Word) : Except DecErr Instr :=
  match (fld w 25 6).toNat with
  | 0 => .error .ill
  | 1 => decMajor01 w
  | 2 => decMajor02 w
  | 3 => decMajor03 w
  | 4 => decMajor04 w
  | 5 => decMajor05 w
  | 6 => decMajor06 w
  | 8 => decMajor08 w
  | 9 => decMajor09 w
  | 10 => decMajor0a w
  | 11 => decMajor0b w
  | 12 => decMajor0c w
  | 13 => decMajor0d w
  | 14 => decMajor0e w
  | 15 => decMajor0f w
  | 16 => decMajor10 w
  | 17 => decMajor11 w
  | 18 => decMajor12 w
  | 19 => decMajor13 w
  | 20 => decMajor14 w
  | 21 => decMajor15 w
  | 22 => decMajor16 w
  | 23 => decMajor17 w
  | 24 => decMajor18 w
  | 25 => decMajor19 w
  | 26 => decMajor1a w
  | 27 => decMajor1b w
  | 28 => decMajor1c w
  | 29 => decMajor1d w
  | 30 => decMajor1e w
  | 31 => decMajor1f w
  | 32 => decMajor20 w
  | 33 => decMajor21 w
  | 34 => decMajor22 w
  | 35 => decMajor23 w
  | 36 => decMajor24 w
  | 37 => decMajor25 w
  | 38 => decMajor26 w
  | 39 => decMajor27 w
  | 40 => decMajor28 w
  | 63 => decMajor3f w
  | _ => .error .unimpl

/-- R56, but for PRIV and what needs the warp's state: ILL for major 0, UNIMPL for what is not listed, then ILL. -/
noncomputable def decode (w : Word) : Except DecErr Instr :=
  match decodeRow w with
  | .error e => .error e
  | .ok (.cvt o) => if cvtListed o then (if cvtWf o then .ok (.cvt o) else .error .ill) else .error .unimpl
  | .ok i => if i.wf then .ok i else .error .ill

/-- The word at the head of a list of bytes, little-endian (R4, R31). -/
def wordOf : List Byte → Option Word
  | a :: b :: c :: d :: _ => some (d ++ c ++ b ++ a)
  | _ => none

/-- Decoding of bytes: the instruction in the first four, with the rest. -/
noncomputable def decodeBytes (l : List Byte) : Option (Instr × List Byte) :=
  match wordOf l with
  | none => none
  | some w =>
    match decode w with
    | .ok i => some (i, l.drop 4)
    | .error _ => none

/-- The four bytes of a word, as memory holds them (R4). -/
def bytesOf (w : Word) : List Byte := [fld w 0 8, fld w 8 8, fld w 16 8, fld w 24 8]

/-- The decoder on a row of the opcode table: the word's bits laid out as the hardware stores them, then decoded. -/
noncomputable def decodeTableWord (nbits w : Nat) : Option Instr :=
  if nbits = 0 then none
  else
    match decodeBytes (bytesOf (BitVec.ofNat 32 w)) with
    | some (i, _) => some i
    | none => none

/-- One bit as a vector. -/
abbrev bit1 (b : Bool) : BitVec 1 := BitVec.ofBool b

/-- The word of an instruction, field by field from bit 31 down, as R34 and each entry's encoding row lay it out. Events
have no word. -/
def encode : Instr → Option Word
  | .hnop o => some (bit1 o.sw ++ 1#6 ++ o.minor ++ o.p)
  | .himmLo o => some (bit1 o.sw ++ 544#15 ++ o.v)
  | .himmHi o => some (bit1 o.sw ++ 576#15 ++ o.v)
  | .hofs o => some (bit1 o.sw ++ 19#10 ++ o.o)
  | .hcache o => some (bit1 o.sw ++ 5242880#28 ++ o.p)
  | .hreuse o => some (bit1 o.sw ++ 5505024#28 ++ o.p)
  | .hstall o => some (bit1 o.sw ++ 2883584#27 ++ o.n)
  | .hprio o => some (bit1 o.sw ++ 12058624#29 ++ o.p)
  | .xp o => some (bit1 o.sw ++ 2#6 ++ o.m ++ bit1 o.z ++ o.r ++ o.c ++ bit1 o.e ++ bit1 o.t ++ o.x ++ bit1 o.i ++ bit1 o.j ++ bit1 o.k ++ bit1 o.n ++ bit1 o.o ++ 0#2)
  | .brT o => some (bit1 o.sw ++ 3#6 ++ o.m ++ 0#2 ++ o.p ++ o.o)
  | .brF o => some (bit1 o.sw ++ 3#6 ++ o.m ++ 1#2 ++ o.p ++ o.o)
  | .brAny o => some (bit1 o.sw ++ 3#6 ++ o.m ++ 2#2 ++ o.p ++ o.o)
  | .brAll o => some (bit1 o.sw ++ 3#6 ++ o.m ++ 3#2 ++ o.p ++ o.o)
  | .call o => some (bit1 o.sw ++ 4#6 ++ o.o)
  | .loopb o => some (bit1 o.sw ++ 5#6 ++ o.l ++ o.p ++ o.o)
  | .jmpi o => some (bit1 o.sw ++ 12288#17 ++ o.a ++ 0#7)
  | .calli o => some (bit1 o.sw ++ 12416#17 ++ o.a ++ 0#7)
  | .ret o => some (bit1 o.sw ++ 205520896#31)
  | .exit o => some (bit1 o.sw ++ 207618048#31)
  | .trap o => some (bit1 o.sw ++ 1638400#24 ++ o.c)
  | .sysc o => some (bit1 o.sw ++ 1654784#24 ++ o.c)
  | .brk o => some (bit1 o.sw ++ 1671168#24 ++ o.c)
  | .yield o => some (bit1 o.sw ++ 216006656#31)
  | .nop o => some (bit1 o.sw ++ 218103808#31)
  | .enrol o => some (bit1 o.sw ++ 1680#14 ++ o.j ++ 0#14)
  | .join o => some (bit1 o.sw ++ 1696#14 ++ o.j ++ 0#14)
  | .strike o => some (bit1 o.sw ++ 1712#14 ++ o.j ++ 0#14)
  | .lset o => some (bit1 o.sw ++ 3456#15 ++ o.l ++ o.a ++ 0#7)
  | .drain o => some (bit1 o.sw ++ 228589568#31)
  | .eret o => some (bit1 o.sw ++ 230686720#31)
  | .iadd o => some (bit1 o.sw ++ 128#10 ++ o.d ++ o.a ++ o.b)
  | .isub o => some (bit1 o.sw ++ 129#10 ++ o.d ++ o.a ++ o.b)
  | .imul o => some (bit1 o.sw ++ 130#10 ++ o.d ++ o.a ++ o.b)
  | .imulhI o => some (bit1 o.sw ++ 131#10 ++ o.d ++ o.a ++ o.b)
  | .imulhN o => some (bit1 o.sw ++ 132#10 ++ o.d ++ o.a ++ o.b)
  | .imad o => some (bit1 o.sw ++ 133#10 ++ o.d ++ o.a ++ o.b)
  | .andV o => some (bit1 o.sw ++ 134#10 ++ o.d ++ o.a ++ o.b)
  | .orV o => some (bit1 o.sw ++ 135#10 ++ o.d ++ o.a ++ o.b)
  | .xorV o => some (bit1 o.sw ++ 136#10 ++ o.d ++ o.a ++ o.b)
  | .shl o => some (bit1 o.sw ++ 137#10 ++ o.d ++ o.a ++ o.b)
  | .shr o => some (bit1 o.sw ++ 138#10 ++ o.d ++ o.a ++ o.b)
  | .sar o => some (bit1 o.sw ++ 139#10 ++ o.d ++ o.a ++ o.b)
  | .minI o => some (bit1 o.sw ++ 140#10 ++ o.d ++ o.a ++ o.b)
  | .minN o => some (bit1 o.sw ++ 141#10 ++ o.d ++ o.a ++ o.b)
  | .maxI o => some (bit1 o.sw ++ 142#10 ++ o.d ++ o.a ++ o.b)
  | .maxN o => some (bit1 o.sw ++ 143#10 ++ o.d ++ o.a ++ o.b)
  | .iaddS o => some (bit1 o.sw ++ 144#10 ++ o.d ++ o.a ++ o.b)
  | .isubS o => some (bit1 o.sw ++ 145#10 ++ o.d ++ o.a ++ o.b)
  | .imulS o => some (bit1 o.sw ++ 146#10 ++ o.d ++ o.a ++ o.b)
  | .imulhIS o => some (bit1 o.sw ++ 147#10 ++ o.d ++ o.a ++ o.b)
  | .imulhNS o => some (bit1 o.sw ++ 148#10 ++ o.d ++ o.a ++ o.b)
  | .imadS o => some (bit1 o.sw ++ 149#10 ++ o.d ++ o.a ++ o.b)
  | .andS o => some (bit1 o.sw ++ 150#10 ++ o.d ++ o.a ++ o.b)
  | .orS o => some (bit1 o.sw ++ 151#10 ++ o.d ++ o.a ++ o.b)
  | .xorS o => some (bit1 o.sw ++ 152#10 ++ o.d ++ o.a ++ o.b)
  | .shlS o => some (bit1 o.sw ++ 153#10 ++ o.d ++ o.a ++ o.b)
  | .shrS o => some (bit1 o.sw ++ 154#10 ++ o.d ++ o.a ++ o.b)
  | .sarS o => some (bit1 o.sw ++ 155#10 ++ o.d ++ o.a ++ o.b)
  | .minIS o => some (bit1 o.sw ++ 156#10 ++ o.d ++ o.a ++ o.b)
  | .minNS o => some (bit1 o.sw ++ 157#10 ++ o.d ++ o.a ++ o.b)
  | .maxIS o => some (bit1 o.sw ++ 158#10 ++ o.d ++ o.a ++ o.b)
  | .maxNS o => some (bit1 o.sw ++ 159#10 ++ o.d ++ o.a ++ o.b)
  | .popc o => some (bit1 o.sw ++ 160#10 ++ o.d ++ o.a ++ 0#7)
  | .clz o => some (bit1 o.sw ++ 161#10 ++ o.d ++ o.a ++ 0#7)
  | .brev o => some (bit1 o.sw ++ 162#10 ++ o.d ++ o.a ++ 0#7)
  | .bfeI o => some (bit1 o.sw ++ 163#10 ++ o.d ++ o.a ++ o.b)
  | .bfeN o => some (bit1 o.sw ++ 164#10 ++ o.d ++ o.a ++ o.b)
  | .bfi o => some (bit1 o.sw ++ 165#10 ++ o.d ++ o.a ++ o.b)
  | .sel o => some (bit1 o.sw ++ 166#10 ++ o.d ++ o.a ++ o.b)
  | .prmt o => some (bit1 o.sw ++ 167#10 ++ o.d ++ o.a ++ o.b)
  | .andn o => some (bit1 o.sw ++ 168#10 ++ o.d ++ o.a ++ o.b)
  | .absdI o => some (bit1 o.sw ++ 169#10 ++ o.d ++ o.a ++ o.b)
  | .iaddD o => some (bit1 o.sw ++ 170#10 ++ o.d ++ o.a ++ o.b)
  | .isubD o => some (bit1 o.sw ++ 171#10 ++ o.d ++ o.a ++ o.b)
  | .shlD o => some (bit1 o.sw ++ 172#10 ++ o.d ++ o.a ++ o.b)
  | .shrD o => some (bit1 o.sw ++ 173#10 ++ o.d ++ o.a ++ o.b)
  | .imulwI o => some (bit1 o.sw ++ 174#10 ++ o.d ++ o.a ++ o.b)
  | .imulwN o => some (bit1 o.sw ++ 175#10 ++ o.d ++ o.a ++ o.b)
  | .iaddi o => some (bit1 o.sw ++ 44#8 ++ o.d ++ o.a ++ o.i)
  | .andi o => some (bit1 o.sw ++ 45#8 ++ o.d ++ o.a ++ o.i)
  | .xori o => some (bit1 o.sw ++ 46#8 ++ o.d ++ o.a ++ o.i)
  | .movi o => some (bit1 o.sw ++ 47#8 ++ o.d ++ 0#7 ++ o.i)
  | .fadd o => some (bit1 o.sw ++ 192#10 ++ o.d ++ o.a ++ o.b)
  | .fsub o => some (bit1 o.sw ++ 193#10 ++ o.d ++ o.a ++ o.b)
  | .fmul o => some (bit1 o.sw ++ 194#10 ++ o.d ++ o.a ++ o.b)
  | .ffma o => some (bit1 o.sw ++ 195#10 ++ o.d ++ o.a ++ o.b)
  | .fmin o => some (bit1 o.sw ++ 196#10 ++ o.d ++ o.a ++ o.b)
  | .fmax o => some (bit1 o.sw ++ 197#10 ++ o.d ++ o.a ++ o.b)
  | .fminm o => some (bit1 o.sw ++ 198#10 ++ o.d ++ o.a ++ o.b)
  | .fmaxm o => some (bit1 o.sw ++ 199#10 ++ o.d ++ o.a ++ o.b)
  | .fabs o => some (bit1 o.sw ++ 200#10 ++ o.d ++ o.a ++ 0#7)
  | .fneg o => some (bit1 o.sw ++ 201#10 ++ o.d ++ o.a ++ 0#7)
  | .frcp o => some (bit1 o.sw ++ 202#10 ++ o.d ++ o.a ++ 0#7)
  | .frsq o => some (bit1 o.sw ++ 203#10 ++ o.d ++ o.a ++ 0#7)
  | .fsqrt o => some (bit1 o.sw ++ 204#10 ++ o.d ++ o.a ++ 0#7)
  | .fex2 o => some (bit1 o.sw ++ 205#10 ++ o.d ++ o.a ++ 0#7)
  | .flg2 o => some (bit1 o.sw ++ 206#10 ++ o.d ++ o.a ++ 0#7)
  | .fdiv o => some (bit1 o.sw ++ 207#10 ++ o.d ++ o.a ++ o.b)
  | .faddS o => some (bit1 o.sw ++ 208#10 ++ o.d ++ o.a ++ o.b)
  | .fsubS o => some (bit1 o.sw ++ 209#10 ++ o.d ++ o.a ++ o.b)
  | .fmulS o => some (bit1 o.sw ++ 210#10 ++ o.d ++ o.a ++ o.b)
  | .ffmaS o => some (bit1 o.sw ++ 211#10 ++ o.d ++ o.a ++ o.b)
  | .fminS o => some (bit1 o.sw ++ 212#10 ++ o.d ++ o.a ++ o.b)
  | .fmaxS o => some (bit1 o.sw ++ 213#10 ++ o.d ++ o.a ++ o.b)
  | .fminmS o => some (bit1 o.sw ++ 214#10 ++ o.d ++ o.a ++ o.b)
  | .fmaxmS o => some (bit1 o.sw ++ 215#10 ++ o.d ++ o.a ++ o.b)
  | .fsinS o => some (bit1 o.sw ++ 216#10 ++ o.d ++ o.a ++ 0#7)
  | .fcosS o => some (bit1 o.sw ++ 217#10 ++ o.d ++ o.a ++ 0#7)
  | .ftanhS o => some (bit1 o.sw ++ 218#10 ++ o.d ++ o.a ++ 0#7)
  | .fsigmS o => some (bit1 o.sw ++ 219#10 ++ o.d ++ o.a ++ 0#7)
  | .ferfS o => some (bit1 o.sw ++ 220#10 ++ o.d ++ o.a ++ 0#7)
  | .hadd o => some (bit1 o.sw ++ 224#10 ++ o.d ++ o.a ++ o.b)
  | .hsub o => some (bit1 o.sw ++ 225#10 ++ o.d ++ o.a ++ o.b)
  | .hmul o => some (bit1 o.sw ++ 226#10 ++ o.d ++ o.a ++ o.b)
  | .hfma o => some (bit1 o.sw ++ 227#10 ++ o.d ++ o.a ++ o.b)
  | .hmin o => some (bit1 o.sw ++ 228#10 ++ o.d ++ o.a ++ o.b)
  | .hmax o => some (bit1 o.sw ++ 229#10 ++ o.d ++ o.a ++ o.b)
  | .badd o => some (bit1 o.sw ++ 230#10 ++ o.d ++ o.a ++ o.b)
  | .bsub o => some (bit1 o.sw ++ 231#10 ++ o.d ++ o.a ++ o.b)
  | .bmul o => some (bit1 o.sw ++ 232#10 ++ o.d ++ o.a ++ o.b)
  | .bfma o => some (bit1 o.sw ++ 233#10 ++ o.d ++ o.a ++ o.b)
  | .bmin o => some (bit1 o.sw ++ 234#10 ++ o.d ++ o.a ++ o.b)
  | .bmax o => some (bit1 o.sw ++ 235#10 ++ o.d ++ o.a ++ o.b)
  | .hdot2 o => some (bit1 o.sw ++ 236#10 ++ o.d ++ o.a ++ o.b)
  | .bdot2 o => some (bit1 o.sw ++ 237#10 ++ o.d ++ o.a ++ o.b)
  | .qaddE4m3 o => some (bit1 o.sw ++ 240#10 ++ o.d ++ o.a ++ o.b)
  | .qsubE4m3 o => some (bit1 o.sw ++ 241#10 ++ o.d ++ o.a ++ o.b)
  | .qmulE4m3 o => some (bit1 o.sw ++ 242#10 ++ o.d ++ o.a ++ o.b)
  | .qaddE5m2 o => some (bit1 o.sw ++ 243#10 ++ o.d ++ o.a ++ o.b)
  | .qsubE5m2 o => some (bit1 o.sw ++ 244#10 ++ o.d ++ o.a ++ o.b)
  | .qmulE5m2 o => some (bit1 o.sw ++ 245#10 ++ o.d ++ o.a ++ o.b)
  | .qdot4E4m3 o => some (bit1 o.sw ++ 246#10 ++ o.d ++ o.a ++ o.b)
  | .qdot4E5m2 o => some (bit1 o.sw ++ 247#10 ++ o.d ++ o.a ++ o.b)
  | .qdot4I8 o => some (bit1 o.sw ++ 248#10 ++ o.d ++ o.a ++ o.b)
  | .qdot4N8 o => some (bit1 o.sw ++ 249#10 ++ o.d ++ o.a ++ o.b)
  | .xdot8E2m1 o => some (bit1 o.sw ++ 250#10 ++ o.d ++ o.a ++ o.b)
  | .qmaxE4m3 o => some (bit1 o.sw ++ 251#10 ++ o.d ++ o.a ++ o.b)
  | .qminE4m3 o => some (bit1 o.sw ++ 252#10 ++ o.d ++ o.a ++ o.b)
  | .qaddI8 o => some (bit1 o.sw ++ 253#10 ++ o.d ++ o.a ++ o.b)
  | .qaddN8 o => some (bit1 o.sw ++ 254#10 ++ o.d ++ o.a ++ o.b)
  | .qmaxI8 o => some (bit1 o.sw ++ 255#10 ++ o.d ++ o.a ++ o.b)
  | .cvt o => some (bit1 o.sw ++ 16#6 ++ o.t ++ o.u ++ o.d ++ o.a ++ o.e)
  | .scvtUpE4m3 o => some (bit1 o.sw ++ 17#6 ++ o.e ++ 0#2 ++ o.d ++ o.a ++ o.b)
  | .scvtUpE5m2 o => some (bit1 o.sw ++ 17#6 ++ o.e ++ 1#2 ++ o.d ++ o.a ++ o.b)
  | .scvtUpE2m1 o => some (bit1 o.sw ++ 17#6 ++ o.e ++ 2#2 ++ o.d ++ o.a ++ o.b)
  | .scvtUpLq2 o => some (bit1 o.sw ++ 17#6 ++ o.e ++ 3#2 ++ o.d ++ o.a ++ o.b)
  | .scvtDnE4m3 o => some (bit1 o.sw ++ 18#6 ++ o.e ++ 0#2 ++ o.d ++ o.a ++ o.b)
  | .scvtDnE5m2 o => some (bit1 o.sw ++ 18#6 ++ o.e ++ 1#2 ++ o.d ++ o.a ++ o.b)
  | .scvtDnE2m1 o => some (bit1 o.sw ++ 18#6 ++ o.e ++ 2#2 ++ o.d ++ o.a ++ o.b)
  | .cmpEq o => some (bit1 o.sw ++ 304#10 ++ o.m ++ 0#4 ++ o.a ++ o.b)
  | .cmpNe o => some (bit1 o.sw ++ 305#10 ++ o.m ++ 0#4 ++ o.a ++ o.b)
  | .cmpLtI o => some (bit1 o.sw ++ 306#10 ++ o.m ++ 0#4 ++ o.a ++ o.b)
  | .cmpLeI o => some (bit1 o.sw ++ 307#10 ++ o.m ++ 0#4 ++ o.a ++ o.b)
  | .cmpLtN o => some (bit1 o.sw ++ 308#10 ++ o.m ++ 0#4 ++ o.a ++ o.b)
  | .cmpLeN o => some (bit1 o.sw ++ 309#10 ++ o.m ++ 0#4 ++ o.a ++ o.b)
  | .cmpFeq o => some (bit1 o.sw ++ 310#10 ++ o.m ++ 0#4 ++ o.a ++ o.b)
  | .cmpFne o => some (bit1 o.sw ++ 311#10 ++ o.m ++ 0#4 ++ o.a ++ o.b)
  | .cmpFlt o => some (bit1 o.sw ++ 312#10 ++ o.m ++ 0#4 ++ o.a ++ o.b)
  | .cmpFle o => some (bit1 o.sw ++ 313#10 ++ o.m ++ 0#4 ++ o.a ++ o.b)
  | .cmpFuno o => some (bit1 o.sw ++ 314#10 ++ o.m ++ 0#4 ++ o.a ++ o.b)
  | .cmpFord o => some (bit1 o.sw ++ 315#10 ++ o.m ++ 0#4 ++ o.a ++ o.b)
  | .cmpTstz o => some (bit1 o.sw ++ 316#10 ++ o.m ++ 0#4 ++ o.a ++ o.b)
  | .cmpTstnz o => some (bit1 o.sw ++ 317#10 ++ o.m ++ 0#4 ++ o.a ++ o.b)
  | .cmpEqS o => some (bit1 o.sw ++ 320#10 ++ o.m ++ 0#4 ++ o.a ++ o.b)
  | .cmpNeS o => some (bit1 o.sw ++ 321#10 ++ o.m ++ 0#4 ++ o.a ++ o.b)
  | .cmpLtIS o => some (bit1 o.sw ++ 322#10 ++ o.m ++ 0#4 ++ o.a ++ o.b)
  | .cmpLeIS o => some (bit1 o.sw ++ 323#10 ++ o.m ++ 0#4 ++ o.a ++ o.b)
  | .cmpLtNS o => some (bit1 o.sw ++ 324#10 ++ o.m ++ 0#4 ++ o.a ++ o.b)
  | .cmpLeNS o => some (bit1 o.sw ++ 325#10 ++ o.m ++ 0#4 ++ o.a ++ o.b)
  | .cmpFeqS o => some (bit1 o.sw ++ 326#10 ++ o.m ++ 0#4 ++ o.a ++ o.b)
  | .cmpFneS o => some (bit1 o.sw ++ 327#10 ++ o.m ++ 0#4 ++ o.a ++ o.b)
  | .cmpFltS o => some (bit1 o.sw ++ 328#10 ++ o.m ++ 0#4 ++ o.a ++ o.b)
  | .cmpFleS o => some (bit1 o.sw ++ 329#10 ++ o.m ++ 0#4 ++ o.a ++ o.b)
  | .cmpFunoS o => some (bit1 o.sw ++ 330#10 ++ o.m ++ 0#4 ++ o.a ++ o.b)
  | .cmpFordS o => some (bit1 o.sw ++ 331#10 ++ o.m ++ 0#4 ++ o.a ++ o.b)
  | .cmpTstzS o => some (bit1 o.sw ++ 332#10 ++ o.m ++ 0#4 ++ o.a ++ o.b)
  | .cmpTstnzS o => some (bit1 o.sw ++ 333#10 ++ o.m ++ 0#4 ++ o.a ++ o.b)
  | .mand o => some (bit1 o.sw ++ 336#10 ++ o.d ++ o.a ++ o.b ++ 0#12)
  | .mor o => some (bit1 o.sw ++ 337#10 ++ o.d ++ o.a ++ o.b ++ 0#12)
  | .mxor o => some (bit1 o.sw ++ 338#10 ++ o.d ++ o.a ++ o.b ++ 0#12)
  | .mandn o => some (bit1 o.sw ++ 339#10 ++ o.d ++ o.a ++ o.b ++ 0#12)
  | .mnot o => some (bit1 o.sw ++ 340#10 ++ o.d ++ o.a ++ 0#15)
  | .mpopc o => some (bit1 o.sw ++ 2728#13 ++ o.a ++ 0#3 ++ o.n ++ 0#6)
  | .mffs o => some (bit1 o.sw ++ 2736#13 ++ o.a ++ 0#3 ++ o.n ++ 0#6)
  | .mfroms o => some (bit1 o.sw ++ 343#10 ++ o.d ++ 0#6 ++ o.n ++ 0#6)
  | .mtos o => some (bit1 o.sw ++ 2752#13 ++ o.a ++ 0#3 ++ o.n ++ 0#6)
  | .shflIdx o => some (bit1 o.sw ++ 352#10 ++ o.d ++ o.a ++ o.b)
  | .shflUp o => some (bit1 o.sw ++ 353#10 ++ o.d ++ o.a ++ o.b)
  | .shflDn o => some (bit1 o.sw ++ 354#10 ++ o.d ++ o.a ++ o.b)
  | .shflXor o => some (bit1 o.sw ++ 355#10 ++ o.d ++ o.a ++ o.b)
  | .voteAny o => some (bit1 o.sw ++ 356#10 ++ o.d ++ o.a ++ 0#7)
  | .voteAll o => some (bit1 o.sw ++ 357#10 ++ o.d ++ o.a ++ 0#7)
  | .ballot o => some (bit1 o.sw ++ 358#10 ++ o.d ++ o.a ++ 0#7)
  | .matchV o => some (bit1 o.sw ++ 359#10 ++ o.d ++ o.a ++ 0#7)
  | .redxAddI o => some (bit1 o.sw ++ 360#10 ++ o.d ++ o.a ++ 0#7)
  | .redxAddF o => some (bit1 o.sw ++ 361#10 ++ o.d ++ o.a ++ 0#7)
  | .redxMinI o => some (bit1 o.sw ++ 362#10 ++ o.d ++ o.a ++ 0#7)
  | .redxMaxI o => some (bit1 o.sw ++ 363#10 ++ o.d ++ o.a ++ 0#7)
  | .scanAddI o => some (bit1 o.sw ++ 364#10 ++ o.d ++ o.a ++ 0#7)
  | .scanAddF o => some (bit1 o.sw ++ 365#10 ++ o.d ++ o.a ++ 0#7)
  | .bcast o => some (bit1 o.sw ++ 366#10 ++ o.d ++ o.a ++ 0#7)
  | .sadd o => some (bit1 o.sw ++ 368#10 ++ o.d ++ o.a ++ o.b)
  | .ssub o => some (bit1 o.sw ++ 369#10 ++ o.d ++ o.a ++ o.b)
  | .smul o => some (bit1 o.sw ++ 370#10 ++ o.d ++ o.a ++ o.b)
  | .sand o => some (bit1 o.sw ++ 371#10 ++ o.d ++ o.a ++ o.b)
  | .sor o => some (bit1 o.sw ++ 372#10 ++ o.d ++ o.a ++ o.b)
  | .sxor o => some (bit1 o.sw ++ 373#10 ++ o.d ++ o.a ++ o.b)
  | .sshl o => some (bit1 o.sw ++ 374#10 ++ o.d ++ o.a ++ o.b)
  | .sshr o => some (bit1 o.sw ++ 375#10 ++ o.d ++ o.a ++ o.b)
  | .ssar o => some (bit1 o.sw ++ 376#10 ++ o.d ++ o.a ++ o.b)
  | .sminI o => some (bit1 o.sw ++ 377#10 ++ o.d ++ o.a ++ o.b)
  | .smaxI o => some (bit1 o.sw ++ 378#10 ++ o.d ++ o.a ++ o.b)
  | .sminN o => some (bit1 o.sw ++ 379#10 ++ o.d ++ o.a ++ o.b)
  | .smaxN o => some (bit1 o.sw ++ 380#10 ++ o.d ++ o.a ++ o.b)
  | .saddD o => some (bit1 o.sw ++ 381#10 ++ o.d ++ o.a ++ o.b)
  | .scmp o => some (bit1 o.sw ++ 382#10 ++ o.d ++ o.a ++ o.b)
  | .ssel o => some (bit1 o.sw ++ 383#10 ++ o.d ++ o.a ++ o.b)
  | .saddi o => some (bit1 o.sw ++ 96#8 ++ o.d ++ o.a ++ o.i)
  | .smovi o => some (bit1 o.sw ++ 97#8 ++ o.d ++ 0#7 ++ o.i)
  | .sandi o => some (bit1 o.sw ++ 98#8 ++ o.d ++ o.a ++ o.i)
  | .sshli o => some (bit1 o.sw ++ 99#8 ++ o.d ++ o.a ++ o.i)
  | .movv o => some (bit1 o.sw ++ 400#10 ++ o.d ++ o.a ++ 0#7)
  | .movVs o => some (bit1 o.sw ++ 401#10 ++ o.d ++ o.a ++ 0#7)
  | .movSv o => some (bit1 o.sw ++ 402#10 ++ o.d ++ o.a ++ o.b)
  | .mfc o => some (bit1 o.sw ++ 403#10 ++ o.d ++ 0#7 ++ o.n)
  | .mtc o => some (bit1 o.sw ++ 51712#17 ++ o.a ++ o.n)
  | .mfcv o => some (bit1 o.sw ++ 405#10 ++ o.d ++ 0#7 ++ o.n)
  | .vrdi o => some (bit1 o.sw ++ 406#10 ++ o.d ++ o.a ++ 0#7)
  | .vwri o => some (bit1 o.sw ++ 52096#17 ++ o.a ++ o.b)
  | .xset o => some (bit1 o.sw ++ 13056#15 ++ o.x ++ o.a ++ 0#4 ++ bit1 o.g ++ o.l)
  | .ldB8 o => some (bit1 o.sw ++ 208#9 ++ o.d ++ o.a ++ o.p ++ o.c)
  | .ldB16 o => some (bit1 o.sw ++ 209#9 ++ o.d ++ o.a ++ o.p ++ o.c)
  | .ldB32 o => some (bit1 o.sw ++ 210#9 ++ o.d ++ o.a ++ o.p ++ o.c)
  | .ldB64 o => some (bit1 o.sw ++ 211#9 ++ o.d ++ o.a ++ o.p ++ o.c)
  | .ldB128 o => some (bit1 o.sw ++ 212#9 ++ o.d ++ o.a ++ o.p ++ o.c)
  | .ldI8 o => some (bit1 o.sw ++ 213#9 ++ o.d ++ o.a ++ o.p ++ o.c)
  | .ldI16 o => some (bit1 o.sw ++ 214#9 ++ o.d ++ o.a ++ o.p ++ o.c)
  | .pref o => some (bit1 o.sw ++ 27520#16 ++ o.a ++ 0#8)
  | .stB8 o => some (bit1 o.sw ++ 216#9 ++ o.d ++ o.a ++ o.p ++ o.c)
  | .stB16 o => some (bit1 o.sw ++ 217#9 ++ o.d ++ o.a ++ o.p ++ o.c)
  | .stB32 o => some (bit1 o.sw ++ 218#9 ++ o.d ++ o.a ++ o.p ++ o.c)
  | .stB64 o => some (bit1 o.sw ++ 219#9 ++ o.d ++ o.a ++ o.p ++ o.c)
  | .stB128 o => some (bit1 o.sw ++ 220#9 ++ o.d ++ o.a ++ o.p ++ o.c)
  | .ldnB8 o => some (bit1 o.sw ++ 224#9 ++ o.d ++ o.a ++ o.p ++ o.c)
  | .ldnB16 o => some (bit1 o.sw ++ 225#9 ++ o.d ++ o.a ++ o.p ++ o.c)
  | .ldnB32 o => some (bit1 o.sw ++ 226#9 ++ o.d ++ o.a ++ o.p ++ o.c)
  | .ldnB64 o => some (bit1 o.sw ++ 227#9 ++ o.d ++ o.a ++ o.p ++ o.c)
  | .ldnB128 o => some (bit1 o.sw ++ 228#9 ++ o.d ++ o.a ++ o.p ++ o.c)
  | .ldnI8 o => some (bit1 o.sw ++ 229#9 ++ o.d ++ o.a ++ o.p ++ o.c)
  | .ldnI16 o => some (bit1 o.sw ++ 230#9 ++ o.d ++ o.a ++ o.p ++ o.c)
  | .ldnPres o => some (bit1 o.sw ++ 231#9 ++ o.d ++ o.a ++ o.p ++ o.c)
  | .stnB8 o => some (bit1 o.sw ++ 232#9 ++ o.d ++ o.a ++ o.p ++ o.c)
  | .stnB16 o => some (bit1 o.sw ++ 233#9 ++ o.d ++ o.a ++ o.p ++ o.c)
  | .stnB32 o => some (bit1 o.sw ++ 234#9 ++ o.d ++ o.a ++ o.p ++ o.c)
  | .stnB64 o => some (bit1 o.sw ++ 235#9 ++ o.d ++ o.a ++ o.p ++ o.c)
  | .stnB128 o => some (bit1 o.sw ++ 236#9 ++ o.d ++ o.a ++ o.p ++ o.c)
  | .atomAddI32 o => some (bit1 o.sw ++ 480#10 ++ o.d ++ o.a ++ o.b)
  | .atomMinI32 o => some (bit1 o.sw ++ 481#10 ++ o.d ++ o.a ++ o.b)
  | .atomMaxI32 o => some (bit1 o.sw ++ 482#10 ++ o.d ++ o.a ++ o.b)
  | .atomMinN32 o => some (bit1 o.sw ++ 483#10 ++ o.d ++ o.a ++ o.b)
  | .atomMaxN32 o => some (bit1 o.sw ++ 484#10 ++ o.d ++ o.a ++ o.b)
  | .atomAnd o => some (bit1 o.sw ++ 485#10 ++ o.d ++ o.a ++ o.b)
  | .atomOr o => some (bit1 o.sw ++ 486#10 ++ o.d ++ o.a ++ o.b)
  | .atomXor o => some (bit1 o.sw ++ 487#10 ++ o.d ++ o.a ++ o.b)
  | .atomXchg o => some (bit1 o.sw ++ 488#10 ++ o.d ++ o.a ++ o.b)
  | .atomCas o => some (bit1 o.sw ++ 489#10 ++ o.d ++ o.a ++ o.b)
  | .atomAddF32 o => some (bit1 o.sw ++ 490#10 ++ o.d ++ o.a ++ o.b)
  | .atomAddBf16x2 o => some (bit1 o.sw ++ 491#10 ++ o.d ++ o.a ++ o.b)
  | .atomIncw o => some (bit1 o.sw ++ 492#10 ++ o.d ++ o.a ++ o.b)
  | .atomAddI64 o => some (bit1 o.sw ++ 493#10 ++ o.d ++ o.a ++ o.b)
  | .atomCas64 o => some (bit1 o.sw ++ 494#10 ++ o.d ++ o.a ++ o.b)
  | .atomXchg64 o => some (bit1 o.sw ++ 495#10 ++ o.d ++ o.a ++ o.b)
  | .atomnAddI32 o => some (bit1 o.sw ++ 496#10 ++ o.d ++ o.a ++ o.b)
  | .atomnMinI32 o => some (bit1 o.sw ++ 497#10 ++ o.d ++ o.a ++ o.b)
  | .atomnMaxI32 o => some (bit1 o.sw ++ 498#10 ++ o.d ++ o.a ++ o.b)
  | .atomnMinN32 o => some (bit1 o.sw ++ 499#10 ++ o.d ++ o.a ++ o.b)
  | .atomnMaxN32 o => some (bit1 o.sw ++ 500#10 ++ o.d ++ o.a ++ o.b)
  | .atomnAnd o => some (bit1 o.sw ++ 501#10 ++ o.d ++ o.a ++ o.b)
  | .atomnOr o => some (bit1 o.sw ++ 502#10 ++ o.d ++ o.a ++ o.b)
  | .atomnXor o => some (bit1 o.sw ++ 503#10 ++ o.d ++ o.a ++ o.b)
  | .atomnXchg o => some (bit1 o.sw ++ 504#10 ++ o.d ++ o.a ++ o.b)
  | .atomnCas o => some (bit1 o.sw ++ 505#10 ++ o.d ++ o.a ++ o.b)
  | .atomnAddF32 o => some (bit1 o.sw ++ 506#10 ++ o.d ++ o.a ++ o.b)
  | .atomnAddBf16x2 o => some (bit1 o.sw ++ 507#10 ++ o.d ++ o.a ++ o.b)
  | .atomnIncw o => some (bit1 o.sw ++ 508#10 ++ o.d ++ o.a ++ o.b)
  | .atomnAddI64 o => some (bit1 o.sw ++ 509#10 ++ o.d ++ o.a ++ o.b)
  | .atomnCas64 o => some (bit1 o.sw ++ 510#10 ++ o.d ++ o.a ++ o.b)
  | .atomnXchg64 o => some (bit1 o.sw ++ 511#10 ++ o.d ++ o.a ++ o.b)
  | .sliceLdl o => some (bit1 o.sw ++ 512#10 ++ o.d ++ o.a ++ 0#5 ++ o.l)
  | .sliceCstm o => some (bit1 o.sw ++ 513#10 ++ o.d ++ o.a ++ 0#3 ++ o.m)
  | .sliceRedlI32 o => some (bit1 o.sw ++ 65792#17 ++ o.a ++ o.b)
  | .sliceRedlAln o => some (bit1 o.sw ++ 515#10 ++ o.d ++ o.a ++ o.b)
  | .kscope o => some (bit1 o.sw ++ 528#10 ++ o.d ++ 0#8 ++ o.o)
  | .kdef o => some (bit1 o.sw ++ 529#10 ++ o.p ++ o.c ++ 0#13)
  | .kfork o => some (bit1 o.sw ++ 530#10 ++ o.p ++ o.c ++ 0#13)
  | .kjoin o => some (bit1 o.sw ++ 531#10 ++ o.d ++ o.a ++ o.b ++ 0#9)
  | .kwait o => some (bit1 o.sw ++ 8512#14 ++ o.c ++ 0#13)
  | .ksend o => some (bit1 o.sw ++ 533#10 ++ o.p ++ o.c ++ 0#7 ++ o.s)
  | .krecv o => some (bit1 o.sw ++ 534#10 ++ o.k ++ 0#11 ++ o.s)
  | .kpoll o => some (bit1 o.sw ++ 8560#14 ++ o.k ++ 0#7 ++ o.s)
  | .pbind o => some (bit1 o.sw ++ 544#10 ++ o.p ++ 0#7 ++ o.s ++ 0#4)
  | .push o => some (bit1 o.sw ++ 545#10 ++ o.p ++ o.v ++ 0#7 ++ o.c)
  | .pop o => some (bit1 o.sw ++ 546#10 ++ o.p ++ o.d ++ 0#11)
  | .ppeek o => some (bit1 o.sw ++ 547#10 ++ o.p ++ o.d ++ 0#11)
  | .pstat o => some (bit1 o.sw ++ 548#10 ++ o.p ++ o.d ++ 0#11)
  | .punbind o => some (bit1 o.sw ++ 549#10 ++ o.p ++ 0#18)
  | .tcopy o => some (bit1 o.sw ++ 560#10 ++ o.v ++ o.n ++ o.p ++ o.c)
  | .tcopyt o => some (bit1 o.sw ++ 561#10 ++ o.v ++ o.n ++ o.p ++ o.c)
  | .tcancel o => some (bit1 o.sw ++ 562#10 ++ o.v ++ 0#14)
  | .rcarm o => some (bit1 o.sw ++ 563#10 ++ o.v ++ o.n ++ o.p ++ o.c)
  | .rcwait o => some (bit1 o.sw ++ 564#10 ++ o.v ++ o.n ++ o.p ++ o.c)
  | .rcread o => some (bit1 o.sw ++ 565#10 ++ o.v ++ o.n ++ 0#8)
  | .cpoll o => some (bit1 o.sw ++ 566#10 ++ o.v ++ o.n ++ 0#8)
  | .mxpost o => some (bit1 o.sw ++ 576#10 ++ o.v ++ 0#6 ++ o.p ++ o.c)
  | .mxrd o => some (bit1 o.sw ++ 577#10 ++ o.v ++ 0#6 ++ o.p ++ o.c)
  | .mxwr o => some (bit1 o.sw ++ 578#10 ++ o.v ++ 0#6 ++ o.p ++ o.c)
  | .mxzero o => some (bit1 o.sw ++ 579#10 ++ o.v ++ 0#6 ++ o.p ++ o.c)
  | .mxhbind o => some (bit1 o.sw ++ 580#10 ++ o.v ++ 0#14)
  | .mxhgen o => some (bit1 o.sw ++ 581#10 ++ o.v ++ 0#14)
  | .scbind o => some (bit1 o.sw ++ 582#10 ++ o.v ++ 0#14)
  | .scload o => some (bit1 o.sw ++ 583#10 ++ o.v ++ 0#6 ++ o.p ++ o.c)
  | .scinv o => some (bit1 o.sw ++ 584#10 ++ o.v ++ 0#14)
  | .crcfg o => some (bit1 o.sw ++ 592#10 ++ o.v ++ o.n ++ o.p ++ o.c)
  | .cralloc o => some (bit1 o.sw ++ 593#10 ++ o.d ++ o.n ++ 0#9)
  | .crallocW o => some (bit1 o.sw ++ 593#10 ++ o.d ++ o.n ++ 256#9)
  | .crgate o => some (bit1 o.sw ++ 594#10 ++ o.v ++ o.n ++ o.p ++ o.c)
  | .crwait o => some (bit1 o.sw ++ 595#10 ++ o.v ++ o.n ++ o.p ++ o.c)
  | .crstat o => some (bit1 o.sw ++ 596#10 ++ o.v ++ o.n ++ 0#8)
  | .crfree o => some (bit1 o.sw ++ 597#10 ++ o.v ++ o.n ++ o.p ++ o.c)
  | .binit o => some (bit1 o.sw ++ 608#10 ++ o.b ++ 0#3 ++ o.s ++ 0#8)
  | .barv o => some (bit1 o.sw ++ 609#10 ++ o.b ++ 0#9 ++ o.p ++ o.c)
  | .bwait o => some (bit1 o.sw ++ 610#10 ++ o.b ++ 0#17)
  | .bsync o => some (bit1 o.sw ++ 611#10 ++ o.b ++ 0#9 ++ o.p ++ o.c)
  | .bstat o => some (bit1 o.sw ++ 612#10 ++ o.b ++ 0#3 ++ o.s ++ 0#8)
  | .glaunch o => some (bit1 o.sw ++ 624#10 ++ o.v ++ 0#6 ++ o.p ++ o.c)
  | .gwait o => some (bit1 o.sw ++ 625#10 ++ o.v ++ o.n ++ o.p ++ o.c)
  | .gstat o => some (bit1 o.sw ++ 1252#11 ++ o.d ++ o.n ++ 0#8)
  | .lqdec o => some (bit1 o.sw ++ 640#10 ++ o.d ++ o.a ++ o.b)
  | .lqdot o => some (bit1 o.sw ++ 641#10 ++ o.d ++ o.a ++ o.b)
  | .lqtbl o => some (bit1 o.sw ++ 82176#17 ++ o.a ++ o.b)
  | .mtcp o => some (bit1 o.sw ++ 1008#10 ++ o.a ++ 0#7 ++ o.n)
  | .mfcp o => some (bit1 o.sw ++ 1009#10 ++ o.d ++ 0#7 ++ o.n)
  | .tlbinv o => some (bit1 o.sw ++ 129280#17 ++ o.a ++ 0#7)
  | .wswitch o => some (bit1 o.sw ++ 1011#10 ++ o.d ++ o.a ++ 0#7)
  | .halt o => some (bit1 o.sw ++ 2122317824#31)
  | .arbStarveLimit _ => none
  | .registerResultReturn _ _ => none
  | .lqtblComplete _ _ => none
  | .warpRetire _ => none
  | .trapEntry _ => none
  | .memberLeave _ => none
  | .releaseNotice _ => none
  | .chimeLeave _ => none
  | .chimeInboxArrival _ => none
  | .chimeDiscard _ => none
  | .tlbWalkComplete _ => none
  | .loadReturn _ _ => none
  | .storeAtHome _ _ => none
  | .atomicAtHome _ _ => none
  | .partialFlush _ _ => none
  | .windowAccess _ _ => none
  | .remoteRefusal _ _ _ => none
  | .portValueVisible _ => none
  | .portWatchdogExpiry _ => none
  | .copyBegin _ => none
  | .copyChunkRead _ => none
  | .copyLanding _ _ => none
  | .holdingSlotDrain _ _ _ => none
  | .copyEnd _ => none
  | .rcStateW1c _ _ _ => none
  | .mxGrant _ => none
  | .mxStarvationLimit _ => none
  | .mxCaptureComplete _ => none
  | .scaleFetchReturn _ _ _ _ => none
  | .mxPassBoundary _ => none
  | .fabricRequestArrival _ => none
  | .fabricResponse _ => none
  | .fabricRetryTimeout _ _ => none
  | .fabricPortDown _ _ => none
  | .channelCreate _ _ => none
  | .channelClose _ => none
  | .channelFetchComplete _ => none
  | .chimeMsg _ => none
  | .signalMsg _ => none
  | .atomicMsg _ => none
  | .entryMsg _ => none
  | .expMsg _ => none
  | .goMsg _ => none
  | .contribMsg _ => none
  | .resultMsg _ => none
  | .doneMsg _ => none
  | .mismatchMsg _ => none
  | .collectiveTimeout _ _ _ => none
  | .creelArrival _ => none
  | .creelDeadline _ _ => none
  | .creelRelease _ => none
  | .creelQuietEnd _ _ => none
  | .doorbell _ _ => none
  | .packetNop _ => none
  | .packetLaunch _ => none
  | .packetWaitmem _ => none
  | .waitmemRetest _ => none
  | .teamPlace _ _ => none
  | .gridRetire _ _ => none
  | .placementRegisterWrite _ _ => none
  | .preemptRequest _ => none
  | .timeSliceExpiry _ => none
  | .contextSave _ => none
  | .contextRestore _ => none
  | .barrierArrivalCounted _ _ => none
  | .combinerArrival _ _ => none
  | .barrierRelease _ _ => none
  | .barrierWatchdog _ _ => none
  | .epochEnd _ => none
  | .slmodeWrite _ _ => none
  | .obsctlWrite _ _ => none
  | .pcSample _ _ => none
  | .breakpointStop _ => none
  | .debugStop _ => none
  | .debugResume _ => none
  | .debugSingleStep _ _ _ _ => none
  | .setBreakpoint _ _ _ _ _ => none
  | .dump _ _ => none
  | .recordRegionFull _ => none
  | .digestLog _ => none
  | .replayStart _ _ => none
  | .contextCreate _ => none
  | .allotmentSet _ _ => none
  | .prqheadWrite _ _ => none
  | .pageReplay _ _ => none
  | .hostAccess _ => none
  | .worldChange _ => none
  | .tlbinvComplete _ => none
  | .haltResume _ => none
  | .firmwareUpdate _ _ _ => none
  | .lpddrRetrain _ _ => none
  | .coreRetire _ => none
  | .checkpoint => none
  | .checkpointRestore => none
  | .eccError _ => none
  | .powerOn => none
  | .clockThrottle _ => none
  | .thermalShutdown _ => none
  | .getVersion _ => none
  | .getCapabilities _ => none
  | .negotiateAlgorithms _ => none
  | .getDigests _ => none
  | .getCertificate _ => none
  | .challenge _ => none
  | .getMeasurements _ => none
  | .keyExchange _ => none
  | .finish _ => none
  | .registerWrite _ => none
  | .contextEnd _ => none
  | .homePartialEviction _ => none
  | .rowClose _ _ => none
  | .bankRefresh _ _ => none
  | .droopEvent _ => none
  | .debuggerHold _ _ => none
  | .chunkWrite _ => none

end Sys2Proof
end

