-- ==== Sys2Proof/Event.lean ====
section
/-! DEFINITION. The events of the opcode table as the state holds them: those the device has set going and those that
come from outside. `toInstr` gives the row each stands for. -/

namespace Sys2Proof

/-- An event with what it acts on. -/
inductive Ev where
  | arbStarveLimit (uid : Nat)
  | registerResultReturn (uid : Nat) (id : Nat)
  | lqtblComplete (core : Nat) (id : Nat)
  | warpRetire (uid : Nat)
  | trapEntry (uid : Nat)
  | memberLeave (id : Nat)
  | releaseNotice (id : Nat)
  | chimeLeave (uid : Nat)
  | chimeInboxArrival (id : Nat)
  | chimeDiscard (id : Nat)
  | tlbWalkComplete (req : WalkReq)
  | loadReturn (id : Nat) (unit : Nat)
  | storeAtHome (id : Nat) (unit : Nat)
  | atomicAtHome (id : Nat) (unit : Nat)
  | partialFlush (line : Nat) (slice : Nat)
  | windowAccess (id : Nat) (unit : Nat)
  | remoteRefusal (id : Nat) (unit : Nat) (reason : Nat)
  | portValueVisible (id : Nat)
  | portWatchdogExpiry (uid : Nat)
  | copyBegin (id : Nat)
  | copyChunkRead (id : Nat)
  | copyLanding (id : Nat) (line : Nat)
  | holdingSlotDrain (id : Nat) (line : Nat) (member : Nat)
  | copyEnd (id : Nat)
  | rcStateW1c (core : Nat) (n : Nat) (bits : Nat)
  | mxGrant (quad : Nat)
  | mxStarvationLimit (id : Nat)
  | mxCaptureComplete (id : Nat)
  | scaleFetchReturn (quad : Nat) (ctx : Nat) (tensor : Nat) (block : Nat)
  | mxPassBoundary (id : Nat)
  | fabricRequestArrival (req : FabReq)
  | fabricResponse (rsp : FabResp)
  | fabricRetryTimeout (ch : Nat) (seq : Nat)
  | fabricPortDown (port : Nat) (moves : List (Nat × Nat × Nat))
  | channelCreate (ch : Nat) (words : List Word)
  | channelClose (ch : Nat)
  | channelFetchComplete (ch : Nat)
  | chimeMsg (msg : Msg)
  | signalMsg (msg : Msg)
  | atomicMsg (msg : Msg)
  | entryMsg (msg : Msg)
  | expMsg (msg : Msg)
  | goMsg (msg : Msg)
  | contribMsg (msg : Msg)
  | resultMsg (msg : Msg)
  | doneMsg (msg : Msg)
  | mismatchMsg (msg : Msg)
  | collectiveTimeout (ctx : Nat) (group : Nat) (n : Nat)
  | creelArrival (arr : Arrival)
  | creelDeadline (buf : Nat) (slot : Nat)
  | creelRelease (buf : Nat)
  | creelQuietEnd (buf : Nat) (slot : Nat)
  | doorbell (q : Nat) (tail : Word)
  | packetNop (q : Nat)
  | packetLaunch (q : Nat)
  | packetWaitmem (q : Nat)
  | waitmemRetest (q : Nat)
  | teamPlace (ctx : Nat) (grid : Nat)
  | gridRetire (ctx : Nat) (grid : Nat)
  | placementRegisterWrite (die : Nat) (v : Word)
  | preemptRequest (ctx : Nat)
  | timeSliceExpiry (ctx : Nat)
  | contextSave (ctx : Nat)
  | contextRestore (ctx : Nat)
  | barrierArrivalCounted (uid : Nat) (b : Nat)
  | combinerArrival (team : Nat) (b : Nat)
  | barrierRelease (team : Nat) (b : Nat)
  | barrierWatchdog (team : Nat) (b : Nat)
  | epochEnd (die : Nat)
  | slmodeWrite (die : Nat) (v : Word)
  | obsctlWrite (ctx : Asked Nat) (v : Word)
  | pcSample (core : Nat) (ctx : Nat)
  | breakpointStop (uid : Nat)
  | debugStop (ctx : Nat)
  | debugResume (ctx : Nat)
  | debugSingleStep (ctx : Nat) (grid : Nat) (team : Nat) (thread : Nat)
  | setBreakpoint (ctx : Nat) (n : Nat) (pc : Addr) (grid : Word) (filter : Word)
  | dump (ctx : Nat) (region : Nat)
  | recordRegionFull (core : Nat)
  | digestLog (core : Nat)
  | replayStart (core : Nat) (seg : ReplayOf)
  | contextCreate (words : Asked (List Word))
  | allotmentSet (ctx : Nat) (a : Allot)
  | prqheadWrite (ctx : Nat) (v : Word)
  | pageReplay (ctx : Nat) (r : Word)
  | hostAccess (acc : HostAcc)
  | worldChange (block : Asked Word)
  | tlbinvComplete (id : Nat)
  | haltResume (uid : Nat)
  | firmwareUpdate (kind : Nat) (die : Nat) (ok : Bool)
  | lpddrRetrain (channel : Nat) (target : Nat)
  | coreRetire (core : Nat)
  | checkpoint
  | checkpointRestore
  | eccError (rec : EccRec)
  | powerOn
  | clockThrottle (up : Bool)
  | thermalShutdown (die : Nat)
  | getVersion (m : SpdmReq)
  | getCapabilities (m : SpdmReq)
  | negotiateAlgorithms (m : SpdmReq)
  | getDigests (m : SpdmReq)
  | getCertificate (m : SpdmReq)
  | challenge (m : SpdmReq)
  | getMeasurements (m : SpdmReq)
  | keyExchange (m : SpdmReq)
  | finish (m : SpdmReq)
  | registerWrite (w : MgmtWrite)
  | contextEnd (ctx : Nat)
  | homePartialEviction (line : Nat)
  | rowClose (channel : Nat) (bank : Nat)
  | bankRefresh (channel : Nat) (bank : Nat)
  | droopEvent (core : Nat)
  | debuggerHold (ctx : Nat) (take : Bool)
  | chunkWrite (core : Nat)
  deriving DecidableEq, Repr

/-- The instruction an event is: its row of the opcode table. -/
noncomputable def Ev.toInstr : Ev → Instr
  | .arbStarveLimit uid => .arbStarveLimit uid
  | .registerResultReturn uid id => .registerResultReturn uid id
  | .lqtblComplete core id => .lqtblComplete core id
  | .warpRetire uid => .warpRetire uid
  | .trapEntry uid => .trapEntry uid
  | .memberLeave id => .memberLeave id
  | .releaseNotice id => .releaseNotice id
  | .chimeLeave uid => .chimeLeave uid
  | .chimeInboxArrival id => .chimeInboxArrival id
  | .chimeDiscard id => .chimeDiscard id
  | .tlbWalkComplete req => .tlbWalkComplete req
  | .loadReturn id unit => .loadReturn id unit
  | .storeAtHome id unit => .storeAtHome id unit
  | .atomicAtHome id unit => .atomicAtHome id unit
  | .partialFlush line slice => .partialFlush line slice
  | .windowAccess id unit => .windowAccess id unit
  | .remoteRefusal id unit reason => .remoteRefusal id unit reason
  | .portValueVisible id => .portValueVisible id
  | .portWatchdogExpiry uid => .portWatchdogExpiry uid
  | .copyBegin id => .copyBegin id
  | .copyChunkRead id => .copyChunkRead id
  | .copyLanding id line => .copyLanding id line
  | .holdingSlotDrain id line member => .holdingSlotDrain id line member
  | .copyEnd id => .copyEnd id
  | .rcStateW1c core n bits => .rcStateW1c core n bits
  | .mxGrant quad => .mxGrant quad
  | .mxStarvationLimit id => .mxStarvationLimit id
  | .mxCaptureComplete id => .mxCaptureComplete id
  | .scaleFetchReturn quad ctx tensor block => .scaleFetchReturn quad ctx tensor block
  | .mxPassBoundary id => .mxPassBoundary id
  | .fabricRequestArrival req => .fabricRequestArrival req
  | .fabricResponse rsp => .fabricResponse rsp
  | .fabricRetryTimeout ch seq => .fabricRetryTimeout ch seq
  | .fabricPortDown port moves => .fabricPortDown port moves
  | .channelCreate ch words => .channelCreate ch words
  | .channelClose ch => .channelClose ch
  | .channelFetchComplete ch => .channelFetchComplete ch
  | .chimeMsg msg => .chimeMsg msg
  | .signalMsg msg => .signalMsg msg
  | .atomicMsg msg => .atomicMsg msg
  | .entryMsg msg => .entryMsg msg
  | .expMsg msg => .expMsg msg
  | .goMsg msg => .goMsg msg
  | .contribMsg msg => .contribMsg msg
  | .resultMsg msg => .resultMsg msg
  | .doneMsg msg => .doneMsg msg
  | .mismatchMsg msg => .mismatchMsg msg
  | .collectiveTimeout ctx group n => .collectiveTimeout ctx group n
  | .creelArrival arr => .creelArrival arr
  | .creelDeadline buf slot => .creelDeadline buf slot
  | .creelRelease buf => .creelRelease buf
  | .creelQuietEnd buf slot => .creelQuietEnd buf slot
  | .doorbell q tail => .doorbell q tail
  | .packetNop q => .packetNop q
  | .packetLaunch q => .packetLaunch q
  | .packetWaitmem q => .packetWaitmem q
  | .waitmemRetest q => .waitmemRetest q
  | .teamPlace ctx grid => .teamPlace ctx grid
  | .gridRetire ctx grid => .gridRetire ctx grid
  | .placementRegisterWrite die v => .placementRegisterWrite die v
  | .preemptRequest ctx => .preemptRequest ctx
  | .timeSliceExpiry ctx => .timeSliceExpiry ctx
  | .contextSave ctx => .contextSave ctx
  | .contextRestore ctx => .contextRestore ctx
  | .barrierArrivalCounted uid b => .barrierArrivalCounted uid b
  | .combinerArrival team b => .combinerArrival team b
  | .barrierRelease team b => .barrierRelease team b
  | .barrierWatchdog team b => .barrierWatchdog team b
  | .epochEnd die => .epochEnd die
  | .slmodeWrite die v => .slmodeWrite die v
  | .obsctlWrite ctx v => .obsctlWrite ctx v
  | .pcSample core ctx => .pcSample core ctx
  | .breakpointStop uid => .breakpointStop uid
  | .debugStop ctx => .debugStop ctx
  | .debugResume ctx => .debugResume ctx
  | .debugSingleStep ctx grid team thread => .debugSingleStep ctx grid team thread
  | .setBreakpoint ctx n pc grid filter => .setBreakpoint ctx n pc grid filter
  | .dump ctx region => .dump ctx region
  | .recordRegionFull core => .recordRegionFull core
  | .digestLog core => .digestLog core
  | .replayStart core seg => .replayStart core seg
  | .contextCreate words => .contextCreate words
  | .allotmentSet ctx a => .allotmentSet ctx a
  | .prqheadWrite ctx v => .prqheadWrite ctx v
  | .pageReplay ctx r => .pageReplay ctx r
  | .hostAccess acc => .hostAccess acc
  | .worldChange block => .worldChange block
  | .tlbinvComplete id => .tlbinvComplete id
  | .haltResume uid => .haltResume uid
  | .firmwareUpdate kind die ok => .firmwareUpdate kind die ok
  | .lpddrRetrain channel target => .lpddrRetrain channel target
  | .coreRetire core => .coreRetire core
  | .checkpoint => .checkpoint
  | .checkpointRestore => .checkpointRestore
  | .eccError rec => .eccError rec
  | .powerOn => .powerOn
  | .clockThrottle up => .clockThrottle up
  | .thermalShutdown die => .thermalShutdown die
  | .getVersion m => .getVersion m
  | .getCapabilities m => .getCapabilities m
  | .negotiateAlgorithms m => .negotiateAlgorithms m
  | .getDigests m => .getDigests m
  | .getCertificate m => .getCertificate m
  | .challenge m => .challenge m
  | .getMeasurements m => .getMeasurements m
  | .keyExchange m => .keyExchange m
  | .finish m => .finish m
  | .registerWrite w => .registerWrite w
  | .contextEnd ctx => .contextEnd ctx
  | .homePartialEviction line => .homePartialEviction line
  | .rowClose channel bank => .rowClose channel bank
  | .bankRefresh channel bank => .bankRefresh channel bank
  | .droopEvent core => .droopEvent core
  | .debuggerHold ctx take => .debuggerHold ctx take
  | .chunkWrite core => .chunkWrite core

end Sys2Proof
end

