-- ==== Sys2Proof/Machine/Map.lean ====
section
/-! DEFINITION. Keyed maps held as plain data: lists of (key, value) pairs with keys strictly rising. -/

namespace Sys2Proof

/-- A finite map from numbers, as a list of pairs with keys strictly rising. -/
abbrev KMap (α : Type) := List (Nat × α)

namespace KMap

/-- The value at a key, if the key is listed. -/
def get? {α : Type} : KMap α → Nat → Option α
  | [], _ => none
  | (k, v) :: t, i => if k = i then some v else get? t i

/-- The value at a key, or `d` when the key is not listed. -/
def getD {α : Type} (m : KMap α) (i : Nat) (d : α) : α :=
  match get? m i with
  | some v => v
  | none => d

/-- Writes a key, keeping keys rising. -/
def set {α : Type} : KMap α → Nat → α → KMap α
  | [], i, x => [(i, x)]
  | (k, v) :: t, i, x =>
    if i < k then (i, x) :: (k, v) :: t
    else if i = k then (i, x) :: t
    else (k, v) :: set t i x

/-- Removes a key. -/
def erase {α : Type} : KMap α → Nat → KMap α
  | [], _ => []
  | (k, v) :: t, i => if k = i then t else (k, v) :: erase t i

/-- Applies a function to the value at a key, when it is listed. -/
def modify {α : Type} (m : KMap α) (i : Nat) (f : α → α) : KMap α :=
  match get? m i with
  | some v => set m i (f v)
  | none => m

/-- The pairs whose value passes a test. -/
def keep {α : Type} (m : KMap α) (p : Nat → α → Bool) : KMap α :=
  List.filter (fun kv => p kv.1 kv.2) m

/-- Every value rewritten. -/
def mapv {α β : Type} (m : KMap α) (f : Nat → α → β) : KMap β :=
  List.map (fun kv => (kv.1, f kv.1 kv.2)) m

/-- The keys, rising. -/
def keys {α : Type} (m : KMap α) : List Nat := List.map Prod.fst m

/-- The values, in key order. -/
def vals {α : Type} (m : KMap α) : List α := List.map Prod.snd m

/-- Keys strictly rise. -/
def sorted {α : Type} : KMap α → Bool
  | [] => true
  | [_] => true
  | (a, _) :: (b, y) :: t => a < b && sorted ((b, y) :: t)

end KMap

/-- The first element that passes a test, with its position. -/
def findIx {α : Type} (p : α → Bool) : List α → Nat → Option (Nat × α)
  | [], _ => none
  | x :: t, i => if p x then some (i, x) else findIx p t (i + 1)

/-- A list with the element at a position removed. -/
def dropAt {α : Type} : List α → Nat → List α
  | [], _ => []
  | _ :: t, 0 => t
  | x :: t, i + 1 => x :: dropAt t i

/-- A list with the element at a position replaced. -/
def setAt {α : Type} : List α → Nat → α → List α
  | [], _, _ => []
  | _ :: t, 0, y => y :: t
  | x :: t, i + 1, y => x :: setAt t i y

/-- The element at a position, or a default. -/
def nth {α : Type} (l : List α) (i : Nat) (d : α) : α :=
  match l, i with
  | [], _ => d
  | x :: _, 0 => x
  | _ :: t, i + 1 => nth t i d

end Sys2Proof
end

