-- ==== Sys2Proof/Machine/State.lean ====
section
/-! DEFINITION. The state of one N8 module (R2, R11), all of it plain data, and the state after reset.
A warp, a team, a grid or a context is kept in the same record while it is resident and while it is saved; only its
place changes, so that a restore returns it exactly (R102, R363, R364). Every default below is the value at reset or at
the moment the thing is created. -/

namespace Sys2Proof.Machine

/-- Stall reasons, in counter order (R394). -/
inductive Stall where
  | arb | switch | operand | keyWait | keyRing | portFull | portEmpty | join
  | barrier | absent | memq | status | fetch | bank | engine | hold
  deriving DecidableEq, Repr

/-- Scopes, narrowest first (R167). -/
inductive Scope where
  | team | gang | die | dev | net | sys
  deriving DecidableEq, Repr

/-- Issue modes (R77). -/
inductive IssueMode where
  | native | interlocked | debugCheck
  deriving DecidableEq, Repr

/-- A register as the scoreboards name it (R17, R78). -/
inductive RegName where
  | v (n : Nat) (lanes : Lanes) | s (n : Nat) | m (n : Nat) | x (n : Nat) | l (n : Nat)
  | lstat (lanes : Lanes) | fmode | part | kdef | table | epc (hi : Bool)
  deriving DecidableEq, Repr

/-- One register write of an instruction's writeback (R84). `m` writes the mask bits of `sel`; `flags` is ORed. -/
inductive RegWrite where
  | v (n : Nat) (vals : KMap Word)
  | s (n : Nat) (w : Word)
  | m (n : Nat) (sel val : Lanes)
  | x (n : Nat) (w : Word)
  | l (n : Nat) (w : Word)
  | flags (vals : KMap Word)
  | lstat (vals : KMap Word)
  | fmode (w : Word)
  | part (w : Word)
  | kdef (w : Word)
  | epc (hi : Bool) (w : Word)
  deriving DecidableEq, Repr

/-- A precise or imprecise trap to be taken: cause and what the trap registers will hold (R103, R105). -/
structure TrapInfo where
  cause : BitVec 6 := 0
  imprecise : Bool := false
  info1 : Word := 0
  info2 : Word := 0
  info3 : Word := 0
  info0 : Option Word := none
  deriving DecidableEq, Repr

/-- A trap waiting for outstanding results before entry (R100): EPC, WIDX, priority and lanes are fixed already. -/
structure PendTrap where
  info : TrapInfo := {}
  epc : Addr := 0
  widx : Nat := 0
  prio : BitVec 3 := 0
  mask : Lanes := 0
  word : Word := 0
  deriving DecidableEq, Repr

/-- A frontier entry (R72). -/
structure Ent where
  pc : Addr
  prio : BitVec 3
  mask : Lanes
  deriving DecidableEq, Repr

/-- A rejoin register: E, A, J.PC and P (R86). -/
structure Rejoin where
  e : Lanes := 0
  a : Lanes := 0
  pc : Addr := 0
  prio : BitVec 3 := 0
  deriving DecidableEq, Repr

/-- The pending state G of a group in progress, with the entry that issues it (R46, R50). `pc` is the group's first
word and `at` the next word to issue. -/
structure Group where
  pc : Addr := 0
  here : Addr := 0
  prio : BitVec 3 := 0
  mask : Lanes := 0
  pimm : Option Word := none
  ofs : Addr := 0
  cache : BitVec 3 := 0
  reuse : BitVec 3 := 0
  stall : BitVec 4 := 0
  xp : Option FXp := none
  count : Nat := 0
  s : Bool := false
  deriving DecidableEq, Repr

/-- What a progress word reads, which may be sampled at any moment until it is written: a port, a receive counter, the copy of a
status register and lane, the selectors of a Creel buffer by lane, or a barrier (R246, R275, R276, R348, R376). -/
inductive Sample where
  | port (p : Nat)
  | counter (core n : Nat)
  | copy (v lane : Nat)
  | creel (buf : Nat) (sels : List (Nat × Nat))
  | barrier (team b : Nat)
  deriving DecidableEq, Repr

/-- A register result outstanding (R78): the registers it writes, the writes once they are known, the core clock at
which it is due, the word that set it going, its refusals (R216), and what it samples, if it does. -/
structure Result where
  id : Nat
  due : Nat := 0
  names : List RegName := []
  writes : List RegWrite := []
  ready : Bool := true
  word : Word := 0
  refused : List (Nat × Addr) := []
  sample : Option Sample := none
  deriving DecidableEq, Repr

/-- What will write a pending status register (R17). -/
inductive Owner where
  | copy (id : Nat) | post (id : Nat) | req (id : Nat) | claim (id : Nat)
  deriving DecidableEq, Repr

/-- A status write pending on a register (R17). -/
structure StatusPend where
  reg : RegName
  owner : Owner
  deriving DecidableEq, Repr

/-- A dependence: components (key, generation), and whether it is ALL, which leaves claims out (R171). `late` are operations
of the covered generations that left them, performed at their key's scope, and are still to be performed at a wider one; they
count for a chime, a push or a barrier arrival that asks a wider scope alone (R181). -/
structure Dep where
  all : Bool := false
  comps : List (Nat × BitVec 16) := []
  late : List Nat := []
  deriving DecidableEq, Repr

/-- State of a generation slot (R170). -/
inductive SlotSt where
  | free | opened | sealed
  deriving DecidableEq, Repr

/-- A generation slot: state, sequence number, members that are not claims, and unsatisfied claims (R166, R171). -/
structure GenSlot where
  st : SlotSt := .free
  seq : BitVec 16 := 0
  members : Nat := 0
  claims : Nat := 0
  deriving DecidableEq, Repr

/-- One key of a warp (R166): scope, ring, inherited dependence, violation flag. -/
structure Key where
  scope : Scope := .dev
  ring : List GenSlot := [{ st := .opened }, {}, {}, {}]
  inh : Dep := {}
  viol : Bool := false
  deriving DecidableEq, Repr

/-- A member of a generation of a warp's key, wherever it is in flight (R168, R169). -/
structure Member where
  uid : Nat
  key : Nat
  seq : BitVec 16
  claim : Bool := false
  deriving DecidableEq, Repr

/-- A chime (R181, R192): the sender, the target, tag, dependence, and its member of the produce key. `out` says that the
message of a remote one is on its way. -/
structure Chime where
  uid : Nat
  ctx : Nat
  target : Word
  grid : Nat
  tag : Word
  sender : Word
  dep : Dep := {}
  mem : Option Nat := none
  remote : Bool := false
  out : Bool := false
  deriving DecidableEq, Repr

/-- A KRECV claim: the S pair, and its member (R182, R193). -/
structure Claim where
  id : Nat
  sd : Nat
  mem : Option Nat := none
  deriving DecidableEq, Repr

/-- An arrived chime in an inbox: the two words a claim writes (R193). -/
structure Inbound where
  tag : Word
  sender : Word
  deriving DecidableEq, Repr

/-- Port states (R233). -/
inductive PortSt where
  | unbound | waiting | connected | orphaned
  deriving DecidableEq, Repr

/-- A value in a port queue: its PUSH, whether it is visible (R234) and whether it is poison (R427). -/
structure PortVal where
  tx : Nat
  val : Word
  vis : Bool := false
  bad : Bool := false
  deriving DecidableEq, Repr

/-- A port of a warp with its own receive queue per lane (R227, R233). -/
structure Port where
  st : PortSt := .unbound
  target : Word := 0
  gone : Bool := false
  queue : KMap (List PortVal) := []
  deriving DecidableEq, Repr

/-- A link-table entry (R387). -/
structure Link where
  valid : Bool := false
  line : Nat := 0
  ver : Nat := 0
  deriving DecidableEq, Repr

/-- An imprecise report due to a warp, with its record's address and, for a refused store, its produce key; 16 for none
(R106, R184, R208). -/
structure Report where
  cause : BitVec 6
  addr : Addr
  key : Nat := 16
  deriving DecidableEq, Repr

/-- Handler state and the trap registers (R99 to R105). `held` keeps the warp's other entries. -/
structure Handler where
  on : Bool := false
  epc : Addr := 0
  ecause : Word := 0
  emask : Lanes := 0
  info0 : Word := 0
  info1 : Word := 0
  info2 : Word := 0
  info3 : Word := 0
  shadowS : List Word := []
  shadowPart : Word := 0
  held : List Ent := []
  deriving DecidableEq, Repr

/-- Who and what a warp is: its context, grid, team and number, the kernel's registers and width, its issue mode, which is that of
the object it was launched from whatever text it executes (DESIGN CHOICE, log 87), and its place: core × 64 + warp slot while
resident (R67, R77, R231); `was` is the place it last had. -/
structure WarpId where
  ctx : Nat := 0
  grid : Nat := 0
  team : Nat := 0
  w : Nat := 0
  wide : Bool := false
  nregs : Nat := 128
  obj : Nat := 0
  mode : IssueMode := .native
  lanePorts : Bool := false
  weave : Option Nat := none
  place : Option Nat := none
  was : Option Nat := none
  deriving DecidableEq, Repr

/-- The register spaces of a warp (R38). V registers are keyed register × 64 + lane; an unlisted one holds its launch
value, 0x7FBE_0000 | n when `fill` is set and zero otherwise. Unlisted S, M, X and L registers are zero. -/
structure Regs where
  v : KMap Word := []
  fill : Bool := true
  s : KMap Word := []
  m : KMap Lanes := []
  j : KMap Rejoin := []
  x : KMap Word := []
  l : KMap Word := []
  deriving DecidableEq, Repr

/-- The control registers a warp keeps (R44). LSTAT and SRNG are per lane. -/
structure Ctl where
  part : Word := 5
  fmode : Word := 0x81
  lstat : KMap Word := []
  srng : KMap Word := []
  kdef : Word := 0
  cycHi : Word := 0
  deriving DecidableEq, Repr

/-- A second phase of an instruction that parks after its effect began (R286, R345, R374, R420, R422). -/
inductive Resume where
  | none
  | capture (post : Nat)
  | alloc (req : Nat)
  | barrier (b : Nat)
  | tlbinv (id : Nat)
  | halt
  | resumed
  deriving DecidableEq, Repr

/-- A page that somebody waits for, and its request's number once written (R201). `missed` says that its walk has found it absent and
its request waits for room in the queue (R410). -/
structure PageWait where
  who : WalkFor
  ctx : Nat
  page : Nat
  seq : Option (BitVec 32) := none
  missed : Bool := false
  deriving DecidableEq, Repr

/-- The issue engine's state for a warp (R72 to R78, R394). `parkAt` is the core clock at which it parked with `stall`, on
`parkWord` and, for a barrier, on `parkBar`. `skipBp` and `skipBrk` say that the head entry has stopped at a breakpoint, or
at its BRK, and does not stop there again (R401). `seen` is what the last core clock was for the warp: the counter it was
charged with, or 16 for an issue, and the address of its head group and the lowest lane of its head entry on that clock
(R398). -/
structure Issue where
  frontier : List Ent := []
  grp : Option Group := none
  prio : BitVec 2 := 1
  last : Nat := 0
  unchosen : Nat := 0
  starved : Bool := false
  yield : Nat := 0
  switchWait : Bool := false
  stallTo : Nat := 0
  stall : Option Stall := none
  parkAt : Int := 0
  parkBar : Nat := 0
  parkWord : Word := 0
  outstanding : List Result := []
  status : List StatusPend := []
  resume : Resume := .none
  pendTrap : Option PendTrap := none
  skipBp : Bool := false
  skipBrk : Bool := false
  seen : Nat × Addr × Nat := (12, 0, 0)
  groups : Nat := 0
  words : Nat := 0
  counters : List Nat := [0, 0, 0, 0, 0, 0, 0, 0, 0, 0, 0, 0, 0, 0, 0, 0]
  deriving DecidableEq, Repr

/-- The key unit's state for a warp (R166, R180 to R182). -/
structure KeyFile where
  keys : List Key := [{}, {}, {}, {}, {}, {}, {}, {}, {}, {}, {}, {}, {}, {}, {}, {}]
  sendq : List Chime := []
  inbox : List Inbound := []
  claims : List Claim := []
  deriving DecidableEq, Repr

/-- A warp, resident or saved. `live` are the lanes that have not exited (R68, R71). -/
structure Warp where
  id : WarpId := {}
  live : Lanes := 0
  regs : Regs := {}
  ctl : Ctl := {}
  iss : Issue := {}
  kf : KeyFile := {}
  ports : List Port := [{}, {}, {}, {}, {}, {}, {}, {}]
  links : List Link := [{}, {}, {}, {}]
  hnd : Handler := {}
  reports : List Report := []
  moved : Int := 0
  retired : Bool := false
  bad : List (Nat × Nat) := []
  deriving DecidableEq, Repr

/-- Barrier states (R367). -/
inductive BarSt where
  | unconf | idle | filling | met
  deriving DecidableEq, Repr

/-- One warp's arrival at a barrier (R366). -/
structure Arrive where
  uid : Nat
  w : Nat
  dep : Dep := {}
  mem : Option Nat := none
  counted : Bool := false
  deriving DecidableEq, Repr

/-- A team's copy of a barrier (R365 to R367). -/
structure Barrier where
  st : BarSt := .unconf
  level : Nat := 0
  expect : Nat := 0
  limit : Nat := 0
  phase : BitVec 32 := 0
  arrivals : List Arrive := []
  start : Int := 0
  deriving DecidableEq, Repr

/-- An operand handle (R281). -/
structure Handle where
  bound : Bool := false
  base : Nat := 0
  size : Nat := 0
  gen : BitVec 16 := 0
  deriving DecidableEq, Repr

/-- A team. The near space holds bytes by offset, with the lines that are absent (and how many accepted copies still
land there) and the lines that are poisoned (R206, R209, R259). `nbase` is where the near space lies in the core's scratchpad window. -/
structure Team where
  ctx : Nat := 0
  grid : Nat := 0
  index : Nat := 0
  core : Option Nat := none
  was : Nat := 0
  warps : List Nat := []
  threads : Nat := 0
  wide : Bool := false
  size : Nat := 0
  nbase : Nat := 0
  near : List Host.Cell := []
  absent : KMap Nat := []
  short : List Nat := []
  poison : List Nat := []
  bad : List Nat := []
  gang : Nat := 0
  barriers : KMap Barrier := []
  handles : KMap Handle := []
  gangPosts : Nat := 0
  exited : List Nat := []
  retired : Bool := false
  restores : Nat := 0
  groups : Nat := 0
  counters : List Nat := [0, 0, 0, 0, 0, 0, 0, 0, 0, 0, 0, 0, 0, 0, 0, 0]
  deriving DecidableEq, Repr

/-- A launch descriptor, words d0 to d12 (R354), with the grid or the host queue that launched it. -/
structure Launch where
  words : List Word := []
  parent : Option Nat := none
  queue : Option Nat := none
  deriving DecidableEq, Repr

/-- A grid in the grid table (R356 to R358). -/
structure Grid where
  ctx : Nat := 0
  id : Nat := 0
  desc : Launch := {}
  kern : Option Kernel := none
  depth : Nat := 0
  prio : Nat := 0
  placed : Nat := 0
  exited : Nat := 0
  retired : Bool := false
  die : Nat := 0
  origin : Option (Nat × Nat × Nat) := none
  dieSets : List (List Nat) := []
  deriving DecidableEq, Repr

/-- A completion word of a refused grid that waits for its page (R358). -/
structure WordWait where
  ctx : Nat
  die : Nat
  addr : Addr
  word : Word
  deriving DecidableEq, Repr

/-- Whether a context runs on the device (R361 to R364, R401). -/
inductive RunSt where
  | running | halting | saved
  deriving DecidableEq, Repr

/-- A breakpoint (R400). -/
structure Bp where
  pc : Addr := 0
  grid : Word := 0
  filter : Word := 0
  deriving DecidableEq, Repr

/-- The fields of a context descriptor (R409). -/
structure Desc where
  secure : Bool := false
  priv : Bool := false
  debug : Bool := false
  root : Nat := 0
  nextRoot : Option Nat := none
  faultBase : Nat := 0
  faultN : Nat := 1
  diagN : Nat := 1
  prqLog : Nat := 4
  diagBase : Nat := 0
  prqBase : Nat := 0
  prqTail : BitVec 32 := 0
  prqHead : BitVec 32 := 0
  trapSave : Addr := 0
  trapObj : Nat := 0
  portWd : Word := 0x1000000
  slice : Nat := 0
  lost : Word := 0
  saveBase : Nat := 0
  obsHdr : Nat := 0
  deriving DecidableEq, Repr

/-- A receive counter (R263, R264). -/
structure Rc where
  count : Nat := 0
  target : Nat := 0
  st : Nat := 0
  arrivedIdle : Bool := false
  ovf : Bool := false
  deriving DecidableEq, Repr

/-- What a context saved of one core: its tiles, its counters and the magnitude table (R363). -/
structure CoreSave where
  core : Nat
  tiles : KMap Word := []
  rcs : KMap Rc := []
  mag : KMap Word := []
  bad : List Nat := []
  deriving DecidableEq, Repr

/-- Clocks at which the watchdogs of a context stopped counting: of its cores, and the mesh clocks of the dies. -/
structure Pause where
  cores : KMap Nat := []
  dies : KMap Nat := []
  deriving DecidableEq, Repr

/-- A context (R409). `stopOn` is the core and the core clock of its last precise stop (R401). -/
structure Ctx where
  d : Desc := {}
  tileMask : KMap (BitVec 16) := []
  rcMask : KMap (BitVec 64) := []
  creelMask : KMap (BitVec 8) := []
  share : List Nat := []
  objs : List CodeObj := []
  unloaded : List Nat := []
  obsctl : Word := 0x10000000
  tgt : Option Nat := none
  run : RunSt := .running
  sliceAt : Nat := 0
  placedAt : Nat := 0
  cores : List Nat := []
  saves : List CoreSave := []
  held : Bool := false
  stopped : Bool := false
  stopOn : Option (Nat × Nat) := none
  step : Option (Nat × Nat) := none
  bps : List Bp := [{}, {}, {}, {}]
  terminated : Bool := false
  nextGrid : Nat := 1
  dumpTo : Option Nat := none
  paused : Option Pause := none
  diags : Nat := 0
  deriving DecidableEq, Repr

/-- Where one lane's access of a memory instruction lands (R195, R214, R215). -/
inductive Target where
  | dev (pa : Nat) | sys (pa : Nat) | net (device pa : Nat) | win (pa : Nat) | creel (pa : Nat)
  | near (team ofs : Nat) | guard (team ofs : Nat)
  deriving DecidableEq, Repr

/-- One lane's access (R218, R220, R225). -/
structure MUnit where
  lane : Nat
  tgt : Target
  size : Nat
  va : Addr := 0
  data : List Byte := []
  data2 : List Byte := []
  sent : Bool := false
  done : Bool := false
  bad : Bool := false
  val : List Byte := []
  deriving DecidableEq, Repr

/-- What a memory operation does (R218 to R225, R302, R389 to R391). -/
inductive OpKind where
  | load (signed : Bool) | pres | pref | store | atomic (op : Nat) | redI | redA | ldl (entry : Nat) | cstm (mask : BitVec 4)
  deriving DecidableEq, Repr

/-- A memory operation in flight (R168 to R173). `entry` orders the operations that have entered their core's path to
memory, or a scratchpad port's queue (R213); 0 before. `near` marks the scratchpad instructions; `key` and
`kc` are the produce and the consume key. -/
structure Op where
  uid : Nat
  ctx : Nat
  core : Nat
  team : Nat
  kind : OpKind
  d : Nat := 0
  lanes : Lanes := 0
  word : Word := 0
  mem : Option Nat := none
  key : Nat := 0
  seq : BitVec 16 := 0
  dep : Dep := {}
  bypass : Bool := false
  cache : BitVec 3 := 0
  units : List MUnit := []
  res : Option Nat := none
  released : Bool := false
  entry : Nat := 0
  near : Bool := false
  kc : Nat := 0
  deriving DecidableEq, Repr

/-- An engine request whose dependence is awaited (R180), by kind. -/
inductive ReqKind where
  | rcArm | rcWait | crCfg | crAlloc (w : Bool) | crGate | crWait | crFree | mxZero | scLoad | gLaunch | gWait
  deriving DecidableEq, Repr

/-- An engine request: who posted it, from which lane, into which status register, with what operands. -/
structure Req where
  kind : ReqKind
  uid : Nat
  ctx : Nat
  core : Nat
  lane : Nat := 0
  v : Nat := 0
  lanes : Lanes := 0
  args : List Word := []
  rows : List (Nat × List Word) := []
  dep : Dep := {}
  mem : Option Nat := none
  begun : Bool := false
  deriving DecidableEq, Repr

/-- A PUSH whose values are not yet visible in some lanes (R234); `due` is the sender's core clock at which the latency of R227
has passed. -/
structure PortTx where
  uid : Nat
  port : Nat
  tgt : Nat
  tport : Nat
  lanes : List Nat
  due : Nat := 0
  dep : Dep := {}
  scope : Scope := .dev
  deriving DecidableEq, Repr

/-- A cached translation (R200): the table entry of a page of a context. -/
structure Tlb where
  ctx : Nat
  page : Nat
  shift : Nat
  leaf : BitVec 64
  deriving DecidableEq, Repr

/-- A magnitude-table write under way (R165). -/
structure LqWrite where
  id : Nat
  uid : Nat
  due : Nat
  writes : List (Nat × Word)
  deriving DecidableEq, Repr

/-- A team as a segment keeps it (R403, R408): the core clock at which it came, and the team with its warps, their key members and
its grid. -/
structure SegTeam where
  clk : Nat
  id : Nat
  team : Team
  warps : List (Nat × Warp)
  members : List (Nat × Member)
  grid : Grid
  deriving DecidableEq, Repr

/-- A recorded segment of a core (R403 to R406): the teams it began with and those that came later; the open run of
each partition, its mask and clocks, and the finished entries of the issue logs as (partition, mask, count); the input log as (clock, words); the log words not yet
in memory, the chunks taken and how many of them are written; the clock at which it ends for want of a chunk; the digest so
far with the clock of the last one logged. -/
structure Seg where
  ctx : Nat
  start : Nat := 0
  teams : List SegTeam := []
  mag : KMap Word := []
  lq : List LqWrite := []
  runs : KMap (Nat × Nat) := []
  issue : List (Nat × Nat × Nat) := []
  input : List (Nat × List Word) := []
  fill : List Word := []
  chunks : List Nat := []
  written : Nat := 0
  fullAt : Option Nat := none
  digest : BitVec 64 := 0
  digestAt : Nat := 0
  waiting : Bool := false
  opened : Bool := true
  deriving DecidableEq, Repr

/-- An issue that a partition spends its clocks on (R74, R83): how many are left, and the context, the mask of the issue log
and the warp, with the head group and the lowest lane it issued from. A partition that ended a clock in a precise stop names no
warp. -/
structure Issued where
  left : Nat
  ctx : Nat
  mask : Nat
  uid : Option Nat
  pc : Addr := 0
  lane : Nat := 0
  deriving DecidableEq, Repr

/-- A core (R11, R23, R116, R203, R261, R360). `busy` is what its partitions issue on the present clock. `badL1` are the 8-byte units
of L1 and `badAcc` the accumulator words (tile × 2^14 + word) marked poison (R427). -/
structure Core where
  cyc : Nat := 0
  busy : KMap Issued := []
  mag : KMap Word := []
  lq : List LqWrite := []
  rcs : KMap Rc := []
  l1 : KMap (List Byte) := []
  badL1 : List Nat := []
  badAcc : List Nat := []
  tlb : List Tlb := []
  retired : Bool := false
  avoid : Bool := false
  calm : Nat := 0
  temp : Nat := 0
  droops : List Nat := []
  sampleAt : KMap Nat := []
  sampleSlot : KMap Nat := []
  segs : List Seg := []
  replay : Option Seg := none
  deriving DecidableEq, Repr

/-- A bound scale tensor (R290). -/
structure Tensor where
  base : Addr := 0
  len : Nat := 0
  bound : Bool := false
  gen : Nat := 0
  deriving DecidableEq, Repr

/-- A line of the operand cache (R282) or a byte of the scale cache (R291), by its tag. -/
structure Cached where
  tag : List Nat
  bytes : List Byte
  deriving DecidableEq, Repr

/-- A quad (R11, R248, R277). `cyc` is its matrix engine's own count of core clocks (R5). Tensors are keyed
context × 256 + id. -/
structure Quad where
  cyc : Nat := 0
  tlb : List Tlb := []
  tensors : KMap Tensor := []
  opCache : List Cached := []
  scales : List Cached := []
  slots : Nat := 0
  deriving DecidableEq, Repr

/-- A region entry (R414). -/
structure Region where
  base : Nat := 0
  limit : Nat := 0
  secure : Bool := false
  deriving DecidableEq, Repr

/-- A compute die (R360, R384, R414). -/
structure Die where
  mesh : Nat := 0
  slmode : Word := 0x401008A1
  placement : Word := 0x0000205F
  placements : Nat := 0
  epochAt : Nat := 0
  regions : KMap Region := []
  off : Bool := false
  creelDrops : Nat := 0
  deriving DecidableEq, Repr

/-- Bytes read by a copy and not yet landed, all in one destination line of one chunk, for one gang member or none (R260,
R261). Each element has its position. `sent` says the write left for another device, `answer` what it answered: 0, or a
reason of R217. -/
structure Landing where
  ix : Nat
  elems : List (Nat × Target × List Byte)
  member : Option Nat := none
  chunk : Nat := 0
  poison : Bool := false
  sent : Bool := false
  answer : Option Nat := none
  deriving DecidableEq, Repr

/-- A copy's progress: an unfired trigger, a fired one without a copy context, one whose dependence is awaited, one moving
data (R256, R266). -/
inductive CopySt where
  | armed | queued | waiting | moving
  deriving DecidableEq, Repr

/-- A copy (R249 to R269). `unread` holds the positions of chunks not yet read, `lost` those of elements that will not
land; `lines` the near-space lines that its bytes are still to land in, each with how many, and `made` all that
it made absent; `cores` the counter cores, with their device, that received bytes; `sigs` the signals sent and not acknowledged; `mism` the reason and number of a
COLL_MISMATCH that ends it (R326); `slots` the holding slots, by chunk, with the
members that have not drained them; `asked` and `got` the source elements asked of another device and answered;
`atExit` says that the warp came to its last EXIT before the trigger fired (R256). -/
structure Copy where
  uid : Nat
  ctx : Nat
  core : Nat
  team : Nat
  lane : Nat
  v : Nat
  rc : List Word
  trig : Bool := false
  atExit : Bool := false
  st : CopySt := .waiting
  order : Nat := 0
  dep : Dep := {}
  mem : Option Nat := none
  unread : List Nat := []
  pend : List Landing := []
  next : Nat := 0
  lost : List Nat := []
  high : Nat := 0
  lines : List (Nat × Nat × Nat) := []
  made : List (Nat × Nat) := []
  cores : List (Nat × Nat) := []
  signalled : Bool := false
  sigs : Nat := 0
  fail : Option (Nat × Bool × Addr) := none
  cancel : Bool := false
  mism : Option (Nat × Nat) := none
  coll : Option Nat := none
  slots : List (Nat × List Nat) := []
  asked : List Nat := []
  got : KMap (List Byte) := []
  deriving DecidableEq, Repr

/-- A matrix post in the reservation table (R292, R294): who posted it, its parameters, tile, handle and tensors, its place
among its team's GANG posts, whether it is eligible and since when (while it is saved, for how long), its grant,
and the core clock of its next step. `buid` is the B warp, `bregs` the registers to capture, `waits` the results it waits for first, `hazard` the words that instructions
have overwritten since (R286). Captured words are keyed register × 32 + lane. -/
structure Post where
  uid : Nat
  ctx : Nat
  core : Nat
  team : Nat
  lane : Nat
  v : Nat
  p : List Word
  tile : Nat
  handle : Handle
  ta : Tensor := {}
  tb : Tensor := {}
  dep : Dep := {}
  mem : Option Nat := none
  fmode : Word := 0
  nth : Nat := 0
  eligible : Option Int := none
  starved : Bool := false
  granted : Bool := false
  due : Nat := 0
  captured : Bool := false
  buid : Nat := 0
  bregs : List Nat := []
  waits : List Nat := []
  capture : KMap Word := []
  hazard : List (Nat × Word) := []
  mag : KMap Word := []
  committed : Nat := 0
  deriving DecidableEq, Repr

/-- Creel slot states (R333). -/
inductive CrSt where
  | free | allocated | gated | due | quiet | kept
  deriving DecidableEq, Repr

/-- A Creel slot (R333). Entry bytes are keyed position × 0x10000 + offset. `start` is the mesh clock of its last change of
state; `uid`, `lane` and `who` name the warp that gated it (grid, team index, thread, core and slot, R340); `dropped` are
the log entries written since that change, (position × 8 + kind, number). -/
structure CrSlot where
  st : CrSt := .free
  token : Word := 0
  order : Option (BitVec 32) := none
  experts : List (BitVec 8) := []
  weights : List Word := []
  arrived : BitVec 8 := 0
  counts : List Nat := [0, 0, 0, 0, 0, 0, 0, 0]
  data : KMap Byte := []
  start : Nat := 0
  subst : BitVec 8 := 0
  timedOut : Bool := false
  keep : Bool := false
  uid : Nat := 0
  lane : Nat := 0
  who : List Nat := []
  dropped : List (Nat × Nat) := []
  deriving DecidableEq, Repr

/-- A release under way (R338): its slot, whether its record has been written too, and the writes to other devices that are not
acknowledged, with the address of one that was refused. -/
structure CrRel where
  id : Nat
  slot : Nat
  second : Bool := false
  owed : Nat := 0
  bad : Option Nat := none
  deriving DecidableEq, Repr

/-- A combine buffer (R329 to R349), with the warp that configured it; `allocs` are the CRALLOC.W requests that wait, in
arrival order; `back` are the spans of device memory of its backing region, and `spoiled` says that a program wrote there
(R331); `rel` is the release under way, and `logBad` the slot and address of a log entry that another device refused. -/
structure CrBuf where
  ctx : Option Nat := none
  cfg : List Word := []
  faulted : Bool := false
  slots : KMap CrSlot := []
  next : BitVec 32 := 0
  cursor : BitVec 32 := 0
  unexpected : Nat := 0
  overs : Nat := 0
  late : Nat := 0
  logged : Nat := 0
  uid : Nat := 0
  lane : Nat := 0
  who : List Nat := []
  allocs : List Nat := []
  back : List (Nat × Nat) := []
  spoiled : Bool := false
  rel : Option CrRel := none
  logBad : Option (Nat × Nat) := none
  deriving DecidableEq, Repr

/-- A host queue (R350). `testAt` is the distributor clock at which its WAITMEM was last found unmet, and `met` says that it
was found met (R353). -/
structure Queue where
  base : Addr := 0
  log : Nat := 4
  level : Nat := 0
  enable : Bool := false
  error : Bool := false
  ctx : Nat := 0
  head : BitVec 32 := 0
  tail : BitVec 32 := 0
  testAt : Nat := 0
  met : Bool := false
  served : Nat := 0
  deriving DecidableEq, Repr

/-- Channel states (R312). -/
inductive ChanSt where
  | evicted | fetching | cached | closing
  deriving DecidableEq, Repr

/-- A request sent on a channel and not answered (R315, R318). `own` names what it belongs to. -/
inductive SentFor where
  | unit (op unit : Nat) | member (copy : Nat) | word (ctx die grid : Nat) (addr : Addr) | landing (copy ix : Nat) | fetch (copy pos : Nat)
  | chime (id : Nat) | signal (copy : Nat) | result (ctx group n : Nat) | far (who : WalkFor) (va : Nat) | creel (buf rel slot va : Nat)
  | message
  deriving DecidableEq, Repr

/-- A request sent or to be sent, with the attempts made and the mesh clock of the last (R318). -/
structure Sent where
  req : FabReq
  own : List SentFor
  tries : Nat := 1
  at0 : Nat := 0
  deriving DecidableEq, Repr

/-- A channel (R311 to R316). `late` are sequences whose requests ended after their last attempt and were never answered: an
answer that still comes returns the credit (R313, R318). -/
structure Chan where
  peer : Nat := 0
  secure : Bool := false
  ctx : Nat := 0
  peerCh : Nat := 0
  initCred : Nat := 1
  exports : Nat := 0
  nexport : Nat := 0
  st : ChanSt := .evicted
  snext : BitVec 16 := 0
  sold : BitVec 16 := 0
  credits : Nat := 1
  rbase : BitVec 16 := 0
  dups : Nat := 0
  errs : Nat := 0
  rbitmap : BitVec 256 := 0
  laneSeq : KMap (BitVec 16) := []
  ring : KMap (Nat × List Byte) := []
  sent : List Sent := []
  unsent : List Sent := []
  late : List (BitVec 16) := []
  holding : List FabReq := []
  used : Nat := 0
  deriving DecidableEq, Repr

/-- A device-group entry (R321). -/
structure GroupEnt where
  size : Nat := 0
  swred : Bool := false
  st : Nat := 0
  rank : Nat := 0
  epoch : Nat := 0
  map : Nat := 0
  seq : BitVec 32 := 0
  timeout : Nat := 0
  deriving DecidableEq, Repr

/-- A reduction collective on this device (R324, R325). The member's part: its copy, signature, what it has sent, the
exponents of GO, and the result elements written here. The coordinator's part: entries, exponents and partial sums, how many
members the EXP and CONTRIB messages of each index cover (R327), and RESULT messages not acknowledged. -/
structure Coll where
  ctx : Nat
  group : Nat
  n : BitVec 32
  copy : Option Nat := none
  sig : List Word := []
  started : Bool := false
  expSent : Bool := false
  contributed : Bool := false
  go : KMap (Nat × Bool) := []
  goAll : Bool := false
  applied : Nat := 0
  entries : List (Nat × List Word) := []
  exps : KMap (Nat × Bool) := []
  expFrom : KMap Nat := []
  goSent : Bool := false
  sums : KMap Int := []
  got : KMap Nat := []
  resultSent : Bool := false
  acks : Nat := 0
  doneSent : Bool := false
  at0 : Nat := 0
  deriving DecidableEq, Repr

/-- Page mode of a frame with its counters and replicas (R382, R383). -/
structure Frame where
  replicated : Bool := false
  reads : Nat := 0
  writes : Nat := 0
  replicas : List (Nat × Nat) := []
  deriving DecidableEq, Repr

/-- A partial of a RED line at one slice (R385). Words are keyed 0 to 31. -/
structure Partial where
  line : Nat
  slice : Nat
  aln : Bool := false
  exp : Nat := 0
  sums : KMap Int := []
  special : List Nat := []
  deriving DecidableEq, Repr

/-- A combiner's count of participants that have met (R367). -/
structure Comb where
  ctx : Nat
  grid : Nat
  b : Nat
  level : Nat
  inst : Nat
  teams : List Nat := []
  deriving DecidableEq, Repr

/-- An LPDDR bank: its open row (R29). -/
structure Bank where
  row : Option Nat := none
  deriving DecidableEq, Repr

/-- What the device sends out of the module: a fabric request, a response, a notice to management firmware, or an answer
on the management channel (R217, R315, R351, R416). -/
inductive Out where
  | request (ch : Nat) (r : FabReq)
  | response (ch : Nat) (r : FabResp)
  | notice (code a : Nat)
  | answer (code : Nat) (words : List Word)
  | image (cells : List Host.Cell)
  deriving DecidableEq, Repr

/-- An error record in the device's error log (R427). -/
structure ErrEnt where
  err : EccRec
  cycles : Nat
  seq : Nat
  count : Nat
  deriving DecidableEq, Repr

/-- The fabric engine apart from its channels (R306, R311, R317, R318). -/
structure Fabric where
  device : Nat := 0
  fretry : Word := 65536
  down : List Nat := []
  lanes : KMap Nat := []
  holding : Nat := 263168
  vlog : List (List Word) := []
  overflow : Nat := 0
  deriving DecidableEq, Repr

/-- The key pair of a world (R415). -/
structure WorldKey where
  data : BitVec 256
  tweak : BitVec 256
  deriving DecidableEq, Repr

/-- What the host sees of memory (R412, R413): the device lines that it caches, and by host address the older values, oldest first,
of bytes that the device has written and that have not been performed at SYS. -/
structure Avtos where
  copies : KMap (List Byte) := []
  late : KMap (List Byte) := []
  deriving DecidableEq, Repr

/-- What a checkpoint holds (R426): the lines that stand as ciphertext in host memory, the world keys as they travel, wrapped for
the device that restores, when there was a session, and what the contexts saved in their save regions, as data. -/
structure Image where
  lines : List Nat := []
  keys : Option (List WorldKey) := none
  regions : KMap (KMap Region) := []
  versions : KMap Nat := []
  bad : List Nat := []
  ctxs : KMap Ctx := []
  grids : KMap Grid := []
  teams : KMap Team := []
  warps : KMap Warp := []
  members : KMap Member := []
  ops : KMap Op := []
  reqs : KMap Req := []
  chimes : KMap Chime := []
  txs : KMap PortTx := []
  copies : KMap Copy := []
  posts : KMap Post := []
  bufs : KMap CrBuf := []
  queues : KMap Queue := []
  groups : KMap Nat := []
  colls : List Coll := []
  combs : List Comb := []
  tensors : KMap (KMap Tensor) := []
  pages : List PageWait := []
  words : KMap WordWait := []
  bag : List Ev := []
  deriving DecidableEq, Repr

/-- What a terminated context still had in flight, kept until its dump is written (R402); `held` when it was on the device, so
that it keeps its places in the tables. -/
structure Grave where
  held : Bool := true
  ops : KMap Op := []
  reqs : KMap Req := []
  copies : KMap Copy := []
  posts : KMap Post := []
  chimes : KMap Chime := []
  txs : KMap PortTx := []
  members : KMap Member := []
  grids : KMap Grid := []
  colls : List Coll := []
  deriving DecidableEq, Repr

/-- Service, attestation and power (R414 to R429). `resets` counts the resets and `keys` are the worlds' key pairs, the non-secure
world's first; `firmware` counts the images of an engine part taken (kind × 4 + die) and
`stops` has the mesh clock at which a part stopped for one, `spdm` are the requests of the session so far, `cap` is the power cap and `drawn` the last sample of what the module draws, in watts. -/
structure Service where
  ready : Bool := false
  resets : Nat := 0
  keys : List WorldKey := []
  errSeq : Nat := 0
  errLog : List ErrEnt := []
  clock : Nat := 700
  cap : Nat := 2400
  drawn : Nat := 0
  firmware : KMap Nat := []
  stops : KMap Nat := []
  image : Option Image := none
  session : Bool := false
  spdm : List Nat := []
  deriving DecidableEq, Repr

/-- A read that an engine makes of another device: who for, the virtual address, the bytes once answered, none of them when
it was refused (R291, R337). -/
structure FarRead where
  who : WalkFor
  va : Nat
  data : Option (List Byte) := none
  deriving DecidableEq, Repr

/-- A TLBINV under way (R420). -/
structure Inval where
  id : Nat
  ctx : Nat
  page : Nat
  pages : Nat
  done : Bool := false
  deriving DecidableEq, Repr

/-- Why the machine stops with a fault. -/
inductive Fault where
  /-- Raised by `exec` of an instruction word when no resident warp is issuing: the state names no warp in `cur`.
  Safe: `step` never does this, since it names the warp before it issues a word. -/
  | noIssuer
  deriving DecidableEq, Repr

/-- Why an instruction has no meaning here. -/
inductive Refusal where
  /-- Raised by `exec` for an instruction that has no meaning yet, with the mnemonic of the opcode table. Safe. -/
  | notModelled (mnemonic : String)
  deriving DecidableEq, Repr

/-- The state of the module. Maps are keyed: cores by core index, quads by die × 24 + quad, dies by die, buffers by
die × 8 + buffer, tiles by core × 2^18 + tile × 2^14 + word, grids by context × 2^24 + grid id, the bases of
group tables (R321) by context, worlds by kind × 2^16 + index. `cur` is the warp that issues and `word` the word it issues.
`bad` are the 8-byte units of device memory marked poison (R427). `bag` holds the events the device
has set going, in the order they were, and `inputs` those of the world outside, first first. `tick` counts steps and
feeds the free values of Config. -/
structure State where
  cur : Option Nat := none
  word : Word := 0
  bag : List Ev := []
  inputs : List Ev := []
  outbox : List Out := []
  tick : Nat := 0
  fresh : Nat := 1
  mem : List Host.Cell := []
  host : List Host.Cell := []
  bad : List Nat := []
  ctxs : KMap Ctx := []
  grids : KMap Grid := []
  teams : KMap Team := []
  warps : KMap Warp := []
  members : KMap Member := []
  ops : KMap Op := []
  reqs : KMap Req := []
  chimes : KMap Chime := []
  txs : KMap PortTx := []
  cores : KMap Core := []
  quads : KMap Quad := []
  dies : KMap Die := []
  tiles : KMap Word := []
  copies : KMap Copy := []
  posts : KMap Post := []
  bufs : KMap CrBuf := []
  queues : KMap Queue := []
  chans : KMap Chan := []
  groups : KMap Nat := []
  colls : List Coll := []
  combs : List Comb := []
  frames : KMap Frame := []
  partials : List Partial := []
  versions : KMap Nat := []
  banks : KMap Bank := []
  lpddr : KMap Nat := []
  worlds : KMap Bool := []
  invals : List Inval := []
  pages : List PageWait := []
  fars : List FarRead := []
  words : KMap WordWait := []
  graves : KMap Grave := []
  avtos : Avtos := {}
  fab : Fabric := {}
  svc : Service := {}
  deriving DecidableEq, Repr

/-- The module right after reset: nothing is resident, no memory byte is written, and every register has the reset value
its chapter gives (R43 to R45, R116, R360, R384, R392, R419, R428). Registers without one are named in the log. -/
def State.reset : State := {}

end Sys2Proof.Machine
end

