-- ==== Sys2Proof/Machine/Tables.lean ====
section
/-! DEFINITION. Memory as a list of cells, lane masks, and the tables of the state: warps, teams, grids, contexts, cores,
quads and dies, with the reads and writes of one entry of each. -/

namespace Sys2Proof.Machine

open Sys2Proof

/-! Memory: a list of cells with addresses strictly rising, none equal to what an unlisted address reads as. -/

/-- What a byte of device or host memory that nothing has written reads as (R428 step 4; log 1 and 2). -/
def Memory.blank : Byte := 0

/-- One byte of a memory. -/
def Memory.read : List Host.Cell → Nat → Byte
  | [], _ => Memory.blank
  | (k, v) :: t, a => if k = a then v else Memory.read t a

/-- Writes one byte, keeping the canonical form. -/
def Memory.write : List Host.Cell → Nat → Byte → List Host.Cell
  | [], a, b => if b = Memory.blank then [] else [(a, b)]
  | (k, v) :: t, a, b =>
    if a < k then (if b = Memory.blank then (k, v) :: t else (a, b) :: (k, v) :: t)
    else if a = k then (if b = Memory.blank then t else (a, b) :: t)
    else (k, v) :: Memory.write t a b

/-- The canonical form of a memory. -/
def Memory.wf : List Host.Cell → Bool
  | [] => true
  | [(_, v)] => v != Memory.blank
  | (a, v) :: (b, u) :: t => v != Memory.blank && decide (a < b) && Memory.wf ((b, u) :: t)

/-- `n` bytes from an address up. -/
def Memory.readN (m : List Host.Cell) (a : Nat) : Nat → List Byte
  | 0 => []
  | n + 1 => Memory.read m a :: Memory.readN m (a + 1) n

/-- Writes bytes from an address up. -/
def Memory.writeN (m : List Host.Cell) (a : Nat) : List Byte → List Host.Cell
  | [] => m
  | b :: t => Memory.writeN (Memory.write m a b) (a + 1) t

/-- A little-endian value (R4). -/
def leNat : List Byte → Nat
  | [] => 0
  | b :: t => b.toNat + 256 * leNat t

/-- The `n` little-endian bytes of a value (R4). -/
def leBytes (v : Nat) : Nat → List Byte
  | 0 => []
  | n + 1 => BitVec.ofNat 8 v :: leBytes (v / 256) n

/-- Bytes as words. -/
def wordsOf : List Byte → List Word
  | a :: b :: c :: d :: t => BitVec.ofNat 32 (leNat [a, b, c, d]) :: wordsOf t
  | _ => []

/-- Words as bytes. -/
def bytesOfWords (l : List Word) : List Byte := l.flatMap bytesOf

/-- Two words as a 64-bit value, low word first (R4). -/
def pair (lo hi : Word) : BitVec 64 := hi ++ lo

/-! Lanes. -/

/-- The lanes of a mask, ascending. -/
def lanesOf (m : Lanes) : List Nat := (List.range 64).filter (fun i => m.getLsbD i)

/-- The mask of one lane. -/
def laneBit (i : Nat) : Lanes := 1#64 <<< i

/-- All lanes of a width. -/
def allLanes (wide : Bool) : Lanes := if wide then BitVec.allOnes 64 else 0xFFFFFFFF#64

/-- The lowest lane of a mask; 0 when it is empty. -/
def lowest (m : Lanes) : Nat :=
  match lanesOf m with
  | [] => 0
  | i :: _ => i

/-- The mask of a list of lanes. -/
def maskOf : List Nat → Lanes
  | [] => 0
  | i :: t => laneBit i ||| maskOf t

/-! Tables of the state. -/

/-- A warp of the state. -/
def State.warp (s : State) (u : Nat) : Warp := s.warps.getD u {}

/-- The state with a warp replaced. -/
def State.putWarp (s : State) (u : Nat) (w : Warp) : State := { s with warps := s.warps.set u w }

/-- The state with a warp changed. -/
def State.modWarp (s : State) (u : Nat) (f : Warp → Warp) : State := s.putWarp u (f (s.warp u))

/-- A core; one that is not listed is as at reset. -/
def State.core (s : State) (c : Nat) : Core := s.cores.getD c {}

/-- The state with a core changed. -/
def State.modCore (s : State) (c : Nat) (f : Core → Core) : State := { s with cores := s.cores.set c (f (s.core c)) }

/-- A core whose tiles and magnitude table go over to a context: the tiles' poison is gone, and an LQTBL that is still under way there
writes nothing any more (R116, R287, R427). -/
def Core.handOver (k : Core) (tiles : BitVec 16) : Core :=
  { k with badAcc := k.badAcc.filter (fun b => !tiles.getLsbD (b / 2 ^ 14)), lq := k.lq.map (fun q => { q with writes := [] }) }

/-- A quad. -/
def State.quad (s : State) (q : Nat) : Quad := s.quads.getD q {}

/-- The state with a quad changed. -/
def State.modQuad (s : State) (q : Nat) (f : Quad → Quad) : State := { s with quads := s.quads.set q (f (s.quad q)) }

/-- A die. -/
def State.die (s : State) (d : Nat) : Die := s.dies.getD d {}

/-- The state with a die changed. -/
def State.modDie (s : State) (d : Nat) (f : Die → Die) : State := { s with dies := s.dies.set d (f (s.die d)) }

/-- A context. -/
def State.ctx (s : State) (c : Nat) : Ctx := s.ctxs.getD c {}

/-- The state with a context changed, when it exists. -/
def State.modCtx (s : State) (c : Nat) (f : Ctx → Ctx) : State := { s with ctxs := s.ctxs.modify c f }

/-- A team. -/
def State.team (s : State) (t : Nat) : Team := s.teams.getD t {}

/-- The state with a team changed, when it exists. -/
def State.modTeam (s : State) (t : Nat) (f : Team → Team) : State := { s with teams := s.teams.modify t f }

/-- The key of a grid in the grid table. -/
def gridKey (ctx g : Nat) : Nat := ctx * 2 ^ 24 + g

/-- Grid shape and gang size of a launch descriptor (R354). -/
def Grid.gx (g : Grid) : Nat := max 1 ((nth g.desc.words 2 0).toNat % 2 ^ 16)
def Grid.gy (g : Grid) : Nat := max 1 ((nth g.desc.words 2 0).toNat / 2 ^ 16)
def Grid.gz (g : Grid) : Nat := max 1 ((nth g.desc.words 3 0).toNat % 2 ^ 16)
def Grid.gang (g : Grid) : Nat := (nth g.desc.words 5 0).toNat % 8

/-- A grid of a context. -/
def State.grid (s : State) (ctx g : Nat) : Grid := s.grids.getD (gridKey ctx g) {}

/-- Sets an event going. -/
def State.post (s : State) (e : Ev) : State := { s with bag := s.bag ++ [e] }

/-- Sets several events going. -/
def State.postAll (s : State) (l : List Ev) : State := { s with bag := s.bag ++ l }

/-- Sends something out of the module. -/
def State.emit (s : State) (o : Out) : State := { s with outbox := s.outbox ++ [o] }

/-- A new identifier. -/
def State.newId (s : State) : Nat × State := (s.fresh, { s with fresh := s.fresh + 1 })

/-- A free choice among `n`, the `salt`-th of this step; with one option there is no choice. -/
def State.choose (s : State) (salt n : Nat) : Nat := if n ≤ 1 then 0 else Config.pick s.tick salt % n

/-- Die, quad of the die and quad of the device of a core (R12). -/
def dieOf (core : Nat) : Nat := core / 96
def quadOf (core : Nat) : Nat := core / 4
def posOf (core : Nat) : Nat := core % 4

/-- The place of an engine that no core asks: it has no TLB. -/
def noCore : Nat := 384

/-- The core and slot where a warp is resident. -/
def Warp.core (w : Warp) : Nat := w.id.place.getD 0 / 64
def Warp.slot (w : Warp) : Nat := w.id.place.getD 0 % 64

/-- The warp's width in lanes. -/
def Warp.width (w : Warp) : Nat := if w.id.wide then 64 else 32

/-- The resident warp of a slot, if any. A warp of width 64 holds two slots (R24). -/
def State.warpAt (s : State) (core slot : Nat) : Option (Nat × Warp) :=
  s.warps.find? (fun kv => !kv.2.retired && (kv.2.id.place == some (core * 64 + slot) ||
    (kv.2.id.wide && kv.2.id.place == some (core * 64 + slot / 2 * 2))))

/-- The warps of a context. -/
def State.warpsOf (s : State) (ctx : Nat) : KMap Warp := s.warps.keep (fun _ w => w.id.ctx == ctx && !w.retired)

/-- Device memory bytes. -/
def State.rd (s : State) (a n : Nat) : List Byte := Memory.readN s.mem a n

/-- A word of device memory. -/
def State.rdWord (s : State) (a : Nat) : Word := BitVec.ofNat 32 (leNat (s.rd a 4))

/-- Puts bytes into device memory, past its homes. -/
def State.poke (s : State) (a : Nat) (l : List Byte) : State := { s with mem := Memory.writeN s.mem a l }

/-- The linear team index of a warp. -/
def State.teamIndex (s : State) (w : Warp) : Nat := (s.team w.id.team).index

/-- A warp that is resident: on a slot, and not retired. -/
def Warp.here (w : Warp) : Bool := w.id.place.isSome && !w.retired

/-- A channel; absent ones are CLOSED (R312). -/
def State.chan (s : State) (ch : Nat) : Chan := s.chans.getD ch {}

/-- The state with a channel replaced. -/
def State.putChan (s : State) (ch : Nat) (c : Chan) : State := { s with chans := s.chans.set ch c }

/-- The channel of a context to a peer device. -/
def State.channelTo (s : State) (ctx dev : Nat) : Option (Nat × Chan) :=
  s.chans.find? (fun kv => kv.2.ctx == ctx && kv.2.peer == dev)

/-- The lowest of some numbers, or a bound. -/
def lowestNat (b : Nat) (l : List Nat) : Nat := l.foldl min b

/-- Adds the elements of one list to another that has not got them. -/
def addNew (a b : List Nat) : List Nat := a ++ b.filter (fun x => !a.contains x)

/-- An event ran: the machine goes on. -/
def ran (s : State) : Host.Outcome State Fault Refusal := .next s

end Sys2Proof.Machine
end

