-- ==== Sys2Proof/Machine/Home.lean ====
section
/-! DEFINITION. Home slices: where a line lives, page modes, commutative-update lines and their merging, and the reads and
writes a home performs (R380 to R387, R29's banks, R427's poison). -/

namespace Sys2Proof.Machine

open Sys2Proof

/-- Home die of a physical address (R380). -/
def homeDie (p : Nat) : Nat := bits p 8 7 ^^^ bits p 18 17 ^^^ bits p 28 27

/-- Home slice of a physical address on its die (R380). -/
def homeSlice (p : Nat) : Nat := (bits p 11 9 ^^^ bits p 21 19) + 8 * (bits p 47 12 % 3)

/-- The line of an address: its bytes 6:0 cleared. -/
def lineOf (p : Nat) : Nat := p / 128 * 128

/-- The LPDDR channel of a line: die × 8 + slice div 3 (R380). -/
def channelOf (p : Nat) : Nat := homeDie p * 8 + homeSlice p / 3

/-! The backing regions of combine buffers (R331). -/

/-- Whether a byte of device memory lies in the backing region of a configured buffer. -/
def CrBuf.backs (b : CrBuf) (pa : Nat) : Bool := b.back.any (fun r => decide (r.1 ≤ pa) && decide (pa < r.2))

/-- Bytes of device memory as a program sees them: those of a backing region have free values (R331). -/
def State.seen (s : State) (pa n : Nat) : List Byte :=
  if s.bufs.isEmpty then s.rd pa n
  else (List.range n).map (fun i =>
    if s.bufs.any (fun b => b.2.backs (pa + i)) then BitVec.ofNat 8 (Config.pick s.tick (50000000 + pa + i))
    else Memory.read s.mem (pa + i))

/-- A write into a backing region spoils its buffer (R331). -/
def State.spoil (s : State) (pa n : Nat) : State :=
  if s.bufs.isEmpty then s
  else { s with bufs := s.bufs.mapv (fun _ b =>
    if b.back.any (fun r => decide (r.1 < pa + n) && decide (pa < r.2)) then { b with spoiled := true } else b) }

/-! Page modes (R382, R383). -/

/-- The page mode after a counted access (R383), by SLMODE of the die that keeps the frame. -/
def Frame.counted (f : Frame) (m : Word) : Frame :=
  let rup := bits m.toNat 31 24
  let wmax := bits m.toNat 15 8
  if f.replicated then (if wmax ≤ f.writes then { f with replicated := false, replicas := [] } else f)
  else if m.getLsbD 0 && decide (rup ≤ f.reads) && decide (f.writes < wmax) then { f with replicated := true }
  else f

/-- The frame of a physical address. The slices may have evicted its counters, which then restart at zero; how many they
hold the spec does not say (R383). -/
def State.frame (s : State) (pa : Nat) : Frame :=
  let f := s.frames.getD (pa / 4096) {}
  if s.choose (9500 + pa / 4096) 2 = 0 then f else { f with reads := 0, writes := 0 }

/-- SLMODE of the die whose slice keeps a frame: the home of its first line (R382, R384). -/
def State.slmodeOf (s : State) (pa : Nat) : Word := (s.die (homeDie (pa / 4096 * 4096))).slmode

/-- A read from a die: READS counts those from dies other than the line's home; in REPLICATED mode the reading die keeps a
replica (R382), which the read that brings the mode about does not yet form (R383). -/
def State.countRead (s : State) (die pa : Nat) : State :=
  if die = homeDie pa then s
  else
    let f := s.frame pa
    let f1 := { f with reads := min 255 (f.reads + 1) }
    let f2 := f1.counted (s.slmodeOf pa)
    let f3 := if f.replicated && f2.replicated && !f2.replicas.contains (die, lineOf pa) then
      { f2 with replicas := (die, lineOf pa) :: f2.replicas } else f2
    { s with frames := s.frames.set (pa / 4096) f3 }

/-- A write to a line: its replicas are invalidated and WRITES counts it (R382). -/
def State.countWrite (s : State) (pa : Nat) : State :=
  let f := s.frame pa
  let f1 := { f with writes := min 255 (f.writes + 1), replicas := f.replicas.filter (fun r => r.2 != lineOf pa) }
  { s with frames := s.frames.set (pa / 4096) (f1.counted (s.slmodeOf pa)) }

/-- The state with the cores of a die changed. -/
def State.overCores (s : State) (die : Nat) (f : Core → Core) : State :=
  { s with cores := s.cores.mapv (fun c k => if dieOf c = die then f k else k) }

/-! RED lines (R385, R386). -/

/-- A partial added into another of the same line and kind: an exact addition; words whose block exponents differ become
special (R386). -/
def Partial.join (a b : Partial) : Partial :=
  let differ := if a.aln && a.exp != b.exp then b.sums.keys else []
  { a with
    sums := b.sums.foldl (fun m p => m.set p.1 (wrap48 (m.getD p.1 0 + p.2))) a.sums
    special := addNew (addNew a.special b.special) differ }

/-- Whether an F32 value lies outside a block exponent: NaN, infinite, or |x| ≥ 2^(E + 1) (R386). -/
def alnSpecial (ebyte : Nat) (x : Nat) : Bool :=
  match unpack .f32 x with
  | .fin _ m e => m != 0 && decide ((ebyte : Int) - 127 + 1 ≤ (Nat.log2 m : Int) + e)
  | _ => true

/-- The word a merge writes (R386). -/
def Partial.word (p : Partial) (i : Nat) (old : Word) : Word :=
  let sum := p.sums.getD i 0
  if p.aln then
    BitVec.ofNat 32 (alnResult .f32 p.exp (p.special.contains i || alnSpecial p.exp old.toNat)
      (sum + alnQ .f32 p.exp old.toNat))
  else BitVec.ofInt 32 (old.toNat + sum)

/-- All partials of a line, collected into one (R386). -/
def State.collected (s : State) (line : Nat) : Option Partial :=
  match s.partials.filter (fun p => p.line == line) with
  | [] => none
  | p :: t => some (t.foldl Partial.join p)

/-- A version step of a line (R387). -/
def State.bumpVersion (s : State) (line : Nat) : State :=
  { s with versions := s.versions.set line (s.versions.getD line 0 + 1) }

/-- The home merges a RED line: every word with contributions is written, as one write (R386). -/
def State.mergeLine (s : State) (line : Nat) : State :=
  match s.collected line with
  | none => s
  | some p =>
    let s1 := p.sums.keys.foldl (fun s i => s.poke (line + 4 * i) (bytesOf (p.word i (s.rdWord (line + 4 * i))))) s
    (({ s1 with partials := s1.partials.filter (fun q => q.line != line) }.bumpVersion line).countWrite line).spoil line 128

/-- The state with every RED line merged. -/
def State.mergeAll (s : State) : State := (s.partials.map (fun p => p.line)).foldl State.mergeLine s

/-- The state with every RED line merged that some addresses lie in. -/
def State.mergeAt (s : State) (pas : List Nat) : State :=
  if s.partials.isEmpty then s else pas.foldl (fun s p => s.mergeLine (lineOf p)) s

/-! Reads and writes at the home. -/

/-- The bank and row of a line: a fixed mapping the spec does not give (log 12). -/
def bankOf (line : Nat) : Nat × Nat := (Config.pick line 0 % 4096, Config.pick line 1)

/-- An LPDDR access opens the row of its bank (R29). Whether a line is in L2 is open; here each home read may go to LPDDR. -/
def State.openRow (s : State) (pa : Nat) : State :=
  let b := bankOf (lineOf pa)
  { s with banks := if s.choose 9 2 = 0 then s.banks else s.banks.set (channelOf pa * 4096 + b.1) { row := some b.2 } }

/-- A read of device memory served at the home, or at a replica, for a unit of some die: its line merges first. -/
def State.homeRead (s : State) (die pa n : Nat) : List Byte × State :=
  let s1 := ((s.mergeAt [pa]).countRead die pa).openRow pa
  (s1.seen pa n, s1)

/-- An engine of a die reads a span: each line merges first and counts the read (R382, R386). -/
def State.scan (s : State) (die pa n : Nat) : State :=
  (List.range ((pa % 128 + n + 127) / 128)).foldl (fun s i => (s.homeRead die (lineOf pa + 128 * i) 0).2) s

/-- Bytes of device memory as their home would serve them, with nothing counted. -/
def State.peek (s : State) (pa n : Nat) : List Byte := (s.mergeAt [pa, pa + n - 1]).seen pa n

/-- A word of device memory as its home would serve it. -/
def State.peekWord (s : State) (pa : Nat) : Word := BitVec.ofNat 32 (leNat (s.peek pa 4))

/-- The 8-byte units of an access that are marked poison (R427). -/
def State.badAt (s : State) (pa n : Nat) : Bool := s.bad.any (fun b => decide (b < pa + n) && decide (pa < b + 8))

/-- Poison marks after a write: a unit written whole is clean; poisoned data mark the units they reach. -/
def State.setBad (s : State) (pa n : Nat) (poison : Bool) : State :=
  let units := (List.range ((pa % 8 + n + 7) / 8)).map (fun i => pa / 8 * 8 + 8 * i)
  if poison then { s with bad := addNew s.bad units }
  else if s.bad.isEmpty then s
  else { s with bad := s.bad.filter (fun b => !(decide (pa ≤ b) && decide (b + 8 ≤ pa + n))) }

/-- A write of device memory performed at the home (R173): the line merges, its replicas go, its version steps. -/
def State.homeWrite (s : State) (pa : Nat) (l : List Byte) (poison : Bool := false) : State :=
  (((((s.mergeAt [pa]).countWrite pa).bumpVersion (lineOf pa)).poke pa l).setBad pa l.length poison).spoil pa l.length

/-- A write of several pieces of one line, as one write. -/
def State.homeWriteMany (s : State) (line : Nat) (l : List (Nat × Byte)) : State :=
  let s1 := ((s.mergeAt [line]).countWrite line).bumpVersion line
  (l.foldl (fun s p => s.poke p.1 [p.2]) s1).spoil line 128

/-! What the host sees (R412, R413). -/

/-- Bytes of host memory. -/
def State.hostRd (s : State) (a n : Nat) : List Byte := Memory.readN s.host a n

/-- Writes host memory. -/
def State.hostWr (s : State) (a : Nat) (l : List Byte) : State := { s with host := Memory.writeN s.host a l }

/-- A write to host memory for a scope that does not cover the host: the host may see the older value for a while (R413; log 82). -/
def State.hostLate (s : State) (pa : Nat) (l : List Byte) : State :=
  let old := (s.hostRd pa l.length).zipIdx
  let late := old.foldl (fun (m : KMap (List Byte)) p => m.set (pa + p.2) (m.getD (pa + p.2) [] ++ [p.1])) s.avtos.late
  { s.hostWr pa l with avtos := { s.avtos with late := late } }

/-- What is performed at SYS: the host holds no copy of the line and sees no older value of the bytes (R173, R412). -/
def State.toHost (s : State) : Target → Nat → State
  | .dev pa, _ => { s with avtos := { s.avtos with copies := s.avtos.copies.erase (lineOf pa) } }
  | .sys pa, n => { s with avtos := { s.avtos with late := s.avtos.late.keep (fun a _ => !(decide (pa ≤ a) && decide (a < pa + n))) } }
  | _, _ => s

/-- A host's read of its own memory: each byte is its value or an older one that it may still see, one choice for each aligned 8 bytes,
and none older is seen afterwards (R413). -/
def State.hostSees (s : State) (a n : Nat) : List Byte × State :=
  let pick (i : Nat) : Nat := s.choose (50000 + (a + i) / 8) (1 + (s.avtos.late.getD (a + i) []).length)
  let vals := (s.hostRd a n).zipIdx.map (fun (p : Byte × Nat) => nth (s.avtos.late.getD (a + p.2) []) (pick p.2) p.1)
  let late := (List.range n).foldl (fun (m : KMap (List Byte)) i => m.modify (a + i) (fun l => l.drop (pick i))) s.avtos.late
  (vals, { s with avtos := { s.avtos with late := late.keep (fun _ l => !l.isEmpty) } })

/-- A host's read within a line of device memory: from a copy that it holds, or at the home, after which it may hold one (R412). -/
def State.hostLine (s : State) (pa n : Nat) : List Byte × State :=
  let line := lineOf pa
  match (if s.choose (51000 + line / 128) 2 = 0 then s.avtos.copies.get? line else none) with
  | some b => ((b.drop (pa - line)).take n, s)
  | none =>
    let s1 := s.mergeAt [pa]
    let b := s1.seen line 128
    let keep := s1.choose (52000 + line / 128) 2 = 0
    ((b.drop (pa - line)).take n,
      { s1 with avtos := { s1.avtos with copies := if keep then s1.avtos.copies.set line b else s1.avtos.copies.erase line } })

/-- A host's read of a span of device memory, line by line; `fuel` bounds the lines. -/
def State.hostSpan (s : State) (pa n : Nat) : Nat → List Byte × State
  | 0 => ([], s)
  | fuel + 1 =>
    let k := min n (128 - pa % 128)
    if n = 0 then ([], s)
    else
      let q := s.hostLine pa k
      let r := q.2.hostSpan (pa + k) (n - k) fuel
      (q.1 ++ r.1, r.2)

/-- An engine's write of device memory, line by line at their homes; `fuel` bounds the lines. -/
def State.wrLines (s : State) (a : Nat) (l : List Byte) : Nat → State
  | 0 => s
  | fuel + 1 =>
    let k := 128 - a % 128
    if l.length ≤ k then (if l.isEmpty then s else s.homeWrite a l)
    else (s.homeWrite a (l.take k)).wrLines (a + k) (l.drop k) fuel

/-- An engine's write of device memory: of every line one write at its home (R173, R382, R386). -/
def State.wr (s : State) (a : Nat) (l : List Byte) : State := s.wrLines a l (l.length / 128 + 2)

/-- An engine's write of words of device memory. -/
def State.wrWords (s : State) (a : Nat) (l : List Word) : State := s.wr a (bytesOfWords l)

/-- A contribution to a word's partial (R385, R386, R391): kind, block exponent, word, amount and whether it is special.
A line whose partials have the other kind merges first. -/
def State.contribute (s : State) (slice line : Nat) (aln : Bool) (exp word : Nat) (q : Int) (special : Bool) : State :=
  let s1 := if s.partials.any (fun p => p.line == line && p.aln != aln) then s.mergeLine line else s
  let b : Partial := { line := line, slice := slice, aln := aln, exp := exp, sums := [(word, wrap48 q)],
                       special := if special then [word] else [] }
  match findIx (fun p => p.line == line && p.slice == slice) s1.partials 0 with
  | some (i, p) => { s1 with partials := setAt s1.partials i (p.join b) }
  | none => { s1 with partials := s1.partials ++ [b] }

/-- The slice key of a die's slice with the line's index; 2^16 and above is the home's own partial. -/
def partialAt (die line : Nat) : Nat := if die = homeDie line then 2 ^ 16 + homeSlice line else die * 24 + homeSlice line

/-! Host memory (SYS pages, R412). -/

end Sys2Proof.Machine
end

