-- ==== Sys2Proof/Machine/Translate.lean ====
section
/-! DEFINITION. Translation: the page walk, cached translations, permissions and worlds (R196 to R201, R414), the window map
(R23 to R26), and page requests (R201, R410). -/

namespace Sys2Proof.Machine

open Sys2Proof

/-- Access kinds of R199. -/
inductive Access where
  | load | store | atomic | fetch
  deriving DecidableEq, Repr

/-- What a walk ends at: a leaf with the logarithm of its page's size, a fatal cause, or a replayable miss. -/
inductive Walk where
  | leaf (shift : Nat) (e : BitVec 64)
  | fatal
  | replay
  deriving DecidableEq, Repr

/-- Whether an address is canonical: bits 63:57 equal bit 56 (R196). -/
def canonical (a : Addr) : Bool := a.extractLsb' 57 7 == (if a.getLsbD 56 then BitVec.allOnes 7 else 0)

/-- TARGET, DEVICE and PA of an entry (R198). -/
def leafTarget (e : BitVec 64) : Nat := bits e.toNat 9 8
def leafDevice (e : BitVec 64) : Nat := bits e.toNat 57 48
def leafPa (e : BitVec 64) : Nat := bits e.toNat 47 12 * 4096

/-- The malformed leaves of R198. -/
def badLeaf (level : Nat) (e : BitVec 64) : Bool :=
  let shift := if level = 1 && e.getLsbD 5 then 16 else 3 + 9 * level
  let pa := leafPa e
  decide (4 ≤ level) || leafTarget e == 3 || pa % 2 ^ shift != 0 || (e.getLsbD 5 && level != 1) ||
  ((leafTarget e == 0 || leafTarget e == 2) && decide (0xFF0000000000 < pa + 2 ^ shift))

/-- A table entry, as its home serves it to a walker. -/
def State.entry (s : State) (table i : Nat) : BitVec 64 := BitVec.ofNat 64 (leNat (s.rd (table + 8 * i) 8))

/-- What one entry gives; none for the next table. -/
def entryWalk (level : Nat) (e : BitVec 64) : Option Walk :=
  if !e.getLsbD 0 then some (if e.getLsbD 6 then .replay else .fatal)
  else if e.getLsbD 1 then
    some (if badLeaf level e then .fatal else .leaf (if level = 1 && e.getLsbD 5 then 16 else 3 + 9 * level) e)
  else if level = 1 || bits e.toNat 63 48 != 0 || bits e.toNat 11 2 != 0 then some .fatal
  else none

/-- The walk of an address from a table of a level (R197, R198). At level 1 it answers every entry that may translate the
address, its own first: entries of an inconsistent CONTIG page may stand in for each other (R198). -/
def State.walkFrom (s : State) (va : Nat) (table : Nat) : Nat → List Walk
  | 0 => [.fatal]
  | l + 1 =>
    let i := va / 2 ^ (12 + 9 * l) % 512
    let e := s.entry table i
    match entryWalk (l + 1) e with
    | none => s.walkFrom va (leafPa e) l
    | some w =>
      if l = 0 then
        w :: ((List.range 16).map (fun k => s.entry table (i / 16 * 16 + k))).filterMap (fun x =>
          if x.getLsbD 0 && x.getLsbD 1 && x.getLsbD 5 && x != e then
            (entryWalk 1 x).bind (fun y => match y with | .fatal => none | _ => some y)
          else none)
      else [w]

/-- The walks possible for an address of a context. -/
def State.walks (s : State) (ctx : Nat) (va : Addr) : List Walk :=
  s.mergeAll.walkFrom (va.toNat % 2 ^ 57) (s.ctx ctx).d.root 5

/-- Cached translations of an address (R200). -/
def State.cachedTlb (s : State) (core ctx : Nat) (va : Addr) : List Walk :=
  let hit (t : Tlb) : Bool := t.ctx == ctx && t.page == va.toNat % 2 ^ 57 / 2 ^ t.shift
  (((s.core core).tlb ++ (s.quad (quadOf core)).tlb).filter hit).map (fun t => .leaf t.shift t.leaf)

/-- The addresses of the table entries that a walk reads. -/
def State.walkAddrs (s : State) (va : Nat) (table : Nat) : Nat → List Nat
  | 0 => []
  | l + 1 =>
    let a := table + 8 * (va / 2 ^ (12 + 9 * l) % 512)
    match entryWalk (l + 1) (s.entry table (va / 2 ^ (12 + 9 * l) % 512)) with
    | none => a :: s.walkAddrs va (leafPa (s.entry table (va / 2 ^ (12 + 9 * l) % 512))) l
    | some _ => [a]

/-- The die that reads for a unit: a core's own, a Creel's own, and die 0 for what no core drives (log 4). -/
def readerDie (core : Nat) : WalkFor → Nat
  | .creel b => b / 8
  | _ => if core < noCore then dieOf core else 0

/-- A walk from a die reads its table entries at their home slices (R200, R382, R386). -/
def State.walked (s : State) (die ctx : Nat) (va : Addr) : State :=
  (s.mergeAll.walkAddrs (va.toNat % 2 ^ 57) (s.ctx ctx).d.root 5).foldl (fun s a => s.scan die a 8) s

/-- The translation an access uses: any cached one or a walk's, freely (R198, R200). -/
def State.translate (s : State) (core ctx : Nat) (va : Addr) : Walk :=
  let l := (s.walks ctx va ++ s.cachedTlb core ctx va).eraseDups
  nth l (s.choose (7000 + va.toNat / 4096) l.length) .fatal

/-- Fills the L1 and L2 TLBs of a core with a translation (R200); the oldest entry goes when one is full. -/
def State.fillTlb (s : State) (core ctx : Nat) (va : Addr) : Walk → State
  | .leaf shift e =>
    let t : Tlb := { ctx := ctx, page := va.toNat % 2 ^ 57 / 2 ^ shift, shift := shift, leaf := e }
    if noCore ≤ core then s else
    let s1 := if (s.core core).tlb.contains t then s
      else s.modCore core (fun k => { k with tlb := (t :: k.tlb).take 64 })
    if (s1.quad (quadOf core)).tlb.contains t then s1
    else s1.modQuad (quadOf core) (fun q => { q with tlb := (t :: q.tlb).take 1024 })
  | _ => s

/-- Whether an entry gives an access its permission (R199). -/
def permits (e : BitVec 64) : Access → Bool
  | .load => e.getLsbD 2
  | .store => e.getLsbD 3
  | .atomic => e.getLsbD 2 && e.getLsbD 3
  | .fetch => e.getLsbD 4

/-- The physical address of an access. -/
def physical (shift : Nat) (e : BitVec 64) (va : Addr) : Nat := leafPa e + va.toNat % 2 ^ shift

/-- Whether a physical address lies in the window region of R23. -/
def inWindow (pa : Nat) : Bool := decide (0x200000000000 ≤ pa) && decide (pa < 0x200600000000)

/-- Whether a physical address lies in the Creel windows of R26. -/
def inCreel (pa : Nat) : Bool := decide (0x280000000000 ≤ pa) && decide (pa < 0x290000000000)

/-- The world of the region of a physical address homed on this device (R414): the first entry that covers it. -/
def State.regionSecure (s : State) (pa : Nat) : Bool :=
  match ((s.die (homeDie pa)).regions.vals).find? (fun r => decide (r.base ≤ pa) && decide (pa < r.limit)) with
  | some r => r.secure
  | none => false

/-- The world of a block (R414): kind × 2^16 + index. A Creel buffer has its context's world (R329), and so have the
observation records of a context, which are kind 9 here: for both it is the context that is tested. -/
def State.world (s : State) (kind ix : Nat) : Bool := kind == 5 || kind == 9 || s.worlds.getD (kind * 2 ^ 16 + ix) false

/-- The world of what an address of this device names (R329, R414): a core for its window, the context that has the buffer for a
Creel window, else the region. -/
def State.placeSecure (s : State) (pa : Nat) : Bool :=
  if inWindow pa then s.world 0 ((pa - 0x200000000000) / 0x4000000)
  else if inCreel pa then
    let b := (pa - 0x280000000000) / 0x800000000
    s.ctxs.any (fun kv => kv.2.d.secure && (kv.2.creelMask.getD (b / 8) 0).getLsbD (b % 8))
  else s.regionSecure pa

/-- WORLD for a page (R199, R414): a non-secure context or unit at a secure page, or a page of this device whose world is not that
of what it names. So no window of a secure core or buffer is mapped into a non-secure context. -/
def State.wrongWorld (s : State) (ctx kind ix : Nat) (e : BitVec 64) (pa : Nat) : Bool :=
  let sec := e.getLsbD 7
  (sec && !((s.ctx ctx).d.secure && s.world kind ix)) ||
  ((leafTarget e == 0 || (leafTarget e == 2 && leafDevice e == s.fab.device)) && sec != s.placeSecure pa)

/-- What a global access translates to. -/
inductive Trans where
  | ok (e : BitVec 64) (pa : Nat)
  | prot | world | replay
  deriving DecidableEq, Repr

/-- Step 4 of R202 for one address: canonical form, the walk, permission, then worlds. `kind` and `ix` name the block that
makes the access (R414). -/
def State.reach (s : State) (core ctx kind ix : Nat) (va : Addr) (a : Access) : Trans :=
  if !canonical va then .prot
  else
    match s.translate core ctx va with
    | .fatal => .prot
    | .replay => .replay
    | .leaf shift e =>
      if !permits e a then .prot
      else if s.wrongWorld ctx kind ix e (physical shift e va) then .world
      else .ok e (physical shift e va)

/-- Fills the TLBs for an address that translated; without a cached translation a walk went before. -/
def State.learn (s : State) (core ctx : Nat) (va : Addr) : State :=
  if (s.cachedTlb core ctx va).isEmpty then (s.walked (dieOf core) ctx va).fillTlb core ctx va (s.translate core ctx va)
  else s.fillTlb core ctx va (s.translate core ctx va)

/-! The window map (R23, R24, R241, R263). -/

/-- A place in a core's window. -/
inductive Place where
  | scratch (core ofs : Nat)
  | register (core slot reg lane byte : Nat)
  | tile (core tile word byte : Nat)
  | port (core frame entry lane byte : Nat)
  | counter (core ofs : Nat)
  | hole
  deriving DecidableEq, Repr

/-- Where a window address lies. -/
def placeOf (pa : Nat) : Place :=
  let r := pa - 0x200000000000
  let c := r / 0x4000000
  let o := r % 0x4000000
  if o < 0x800000 then .scratch c o
  else if o < 0x900000 then
    let b := o - 0x800000
    .register c (b / 128 / 128) (b / 128 % 128) (b % 128 / 4) (b % 4)
  else if o < 0xA00000 then
    let b := o - 0x900000
    .tile c (b / 0x10000) (b % 0x10000 / 4) (b % 4)
  else if o < 0xA40000 then
    let b := o - 0xA00000
    .port c (b / 0x800) (b % 0x800 / 0x80) (b % 0x80 / 4) (b % 4)
  else if decide (0xB00000 ≤ o) && decide (o < 0xB10000) then .counter c (o - 0xB00000)
  else .hole

/-! Page requests (R201, R410). -/

/-- The 32 bytes of a page request. -/
def requestWords (r : WalkReq) (grid team core slot : Nat) : List Word :=
  let w (n : Nat) : Word := BitVec.ofNat 32 n
  [r.va.setWidth 32, r.va.extractLsb' 32 32, w grid, w team, w (core + slot * 2 ^ 9 + r.kind.toNat * 2 ^ 15),
    r.lanes.setWidth 32, r.lanes.extractLsb' 32 32, 0]

/-- Somebody waits for a page: the walk that will find it, or its request, is set going once. -/
def State.await (s : State) (r : WalkReq) : State :=
  if s.pages.any (fun p => p.who == r.who && p.page == r.page) then s
  else
    let p : PageWait := { who := r.who, ctx := r.ctx, page := r.page }
    State.post { s with pages := s.pages ++ [p] } (.tlbWalkComplete r)

/-- A group of a warp that meets a page to be mapped issues anew from its first word, with nothing of it pending (R85, R201). -/
def State.reissue (s : State) (u : Nat) : State :=
  s.modWarp u (fun w => { w with iss := { w.iss with grp := none, stallTo := 0 } })

/-- Whether somebody waits for a page. -/
def State.awaits (s : State) (w : WalkFor) : Bool := s.pages.any (fun p => p.who == w)

/-- Writes a page request unless the queue is full (R410): the state and the request's number. -/
def State.pageRequest (s : State) (r : WalkReq) : Option (State × BitVec 32) :=
  let d := (s.ctx r.ctx).d
  if (d.prqTail - d.prqHead).toNat = 2 ^ d.prqLog then none
  else
    let w := s.warp r.uid
    let known := (s.warps.get? r.uid).isSome
    let words := if known then requestWords r w.id.grid (s.teamIndex w) w.core w.slot else requestWords r 0 0 r.core 0
    some ((s.wrWords (d.prqBase + 32 * (d.prqTail.toNat % 2 ^ d.prqLog)) words).modCtx r.ctx
      (fun c => { c with d := { c.d with prqTail := c.d.prqTail + 1 } }), d.prqTail)

/-- A replayable miss has its request written, or waits for room in the queue (R201, R410). -/
def State.missPage (s : State) (r : WalkReq) : State :=
  let mark (s : State) (f : PageWait → PageWait) : State :=
    { s with pages := s.pages.map (fun p => if p.who == r.who && p.page == r.page then f p else p) }
  match s.pageRequest r with
  | none => (mark s (fun p => { p with missed := true })).post (.tlbWalkComplete r)
  | some (s1, q) => mark s1 (fun p => { p with seq := some q })

/-- TLB_WALK_COMPLETE (R200, R201, R410): a translation fills the TLBs and ends the wait for its page; a fatal entry ends every
wait of the waiter, which finds the cause when it tries again; a replayable miss writes a page request. One that finds the queue
full waits for room, whatever becomes of the page meanwhile. -/
def execTlbWalkComplete (r : WalkReq) (s : State) : Host.Outcome State Fault Refusal :=
  if !s.pages.any (fun p => p.who == r.who && p.page == r.page && p.seq == none) then ran s
  else
    if s.pages.any (fun p => p.who == r.who && p.page == r.page && p.missed) then ran (s.missPage r) else
    let s := s.walked (readerDie r.core r.who) r.ctx r.va
    match s.translate r.core r.ctx r.va with
    | .leaf shift e =>
      ran { s.fillTlb r.core r.ctx r.va (.leaf shift e) with
        pages := s.pages.filter (fun p => !(p.who == r.who && p.page == r.page)) }
    | .fatal => ran { s with pages := s.pages.filter (fun p => p.who != r.who) }
    | .replay => ran (s.missPage r)

end Sys2Proof.Machine
end

