-- ==== Sys2Proof/Machine/Ops.lean ====
section
/-! DEFINITION. The named operations of the machine: time, fault records, observation records and logs, the frontier,
the flow of a word through the issue engine, and taking a trap with the return from it. -/

namespace Sys2Proof.Machine

open Sys2Proof

/-! Time (R5, R394). -/

/-- Adds to a warp's stall counter. -/
def Warp.count (w : Warp) (r : Stall) (n : Nat) : Warp :=
  let i := r.ctorIdx
  { w with iss := { w.iss with counters := setAt w.iss.counters i ((nth w.iss.counters i 0 + n) % 2 ^ 64) } }

/-- Sets a core's clock forward to a time. In a run it has come there: only an event by itself puts it there. -/
def State.reachCore (s : State) (c t : Nat) : State := s.modCore c (fun k => { k with cyc := max k.cyc t })

/-- Sets the clock of a quad's matrix engine forward to a time. -/
def State.reachQuad (s : State) (q t : Nat) : State := s.modQuad q (fun k => { k with cyc := max k.cyc t })

/-- Sets a die's mesh clock forward to a time. -/
def State.reachMesh (s : State) (d t : Nat) : State := s.modDie d (fun k => { k with mesh := max k.mesh t })

/-! Status words and fault records (R16 to R20). -/

/-- A status word: DONE, ERR, CAUSE and a saturating DETAIL (R16). -/
def statusWord (done err : Bool) (cause : Nat) (detail : Nat) : Word :=
  BitVec.ofBool done ++ BitVec.ofBool err ++ BitVec.ofNat 6 cause ++ BitVec.ofNat 24 (min detail 0xFFFFFF)

/-- The fields of a fault record that an engine fills (R19). -/
structure FaultRec where
  cause : Nat := 0
  engine : Nat := 0
  inst : Nat := 0
  grid : Nat := 0
  team : Nat := 0
  thread : Nat := 0
  key : Nat := 0
  ring : Nat := 0
  gen : Nat := 0
  addr : Nat := 0
  committed : Nat := 0
  spec : Nat := 0
  cycles : Nat := 0
  detail : Nat := 0
  core : Nat := 0
  slot : Nat := 0
  deriving DecidableEq, Repr

/-- The sixteen words of a fault record, with VALID set (R19). -/
def FaultRec.words (r : FaultRec) (secure : Bool) : List Word :=
  let w (n : Nat) : Word := BitVec.ofNat 32 n
  [w (r.cause + r.engine * 2 ^ 8 + r.inst * 2 ^ 16), w (1 + (if secure then 2 else 0)), w r.grid, w r.team, w r.thread,
    w (r.key + r.ring * 2 ^ 4 + r.gen % 65536 * 2 ^ 16), w r.addr, w (r.addr / 2 ^ 32), w r.committed,
    w (r.committed / 2 ^ 32), w r.spec, w (r.spec / 2 ^ 32), w r.cycles, w (r.cycles / 2 ^ 32), w r.detail,
    w (r.core + r.slot * 2 ^ 9)]

/-- The lowest free record of a fault area: its VALID bit is 0 (R410). -/
def State.freeRecord (s : State) (base : Nat) : Nat → Nat → Option Nat
  | 0, _ => none
  | n + 1, i => if (s.peekWord (base + 64 * i + 4)).getLsbD 0 then State.freeRecord s base n (i + 1) else some (base + 64 * i)

/-- Writes a fault record into the owning context's fault area and gives its address, or counts it lost and gives 0
(R20). -/
def State.record (s : State) (ctx : Nat) (r : FaultRec) : State × Nat :=
  let c := s.ctx ctx
  match s.freeRecord c.d.faultBase c.d.faultN 0 with
  | some a => (s.wrWords a (r.words c.d.secure), a)
  | none => (s.modCtx ctx (fun k => { k with d := { k.d with lost := if k.d.lost = 0xFFFFFFFF then k.d.lost else k.d.lost + 1 } }), 0)

/-- The thread index of a lane of a warp (R67). -/
def Warp.thread (w : Warp) (lane : Nat) : Nat := w.id.w * w.width + lane

/-- A record carrying the logical identity of a lane of a warp (R19). -/
def State.identify (s : State) (w : Warp) (lane : Nat) (r : FaultRec) : FaultRec :=
  { r with grid := w.id.grid, team := s.teamIndex w, thread := w.thread lane, core := w.core, slot := w.slot }

/-! Observation records (R392, R393, R399). -/

/-- The physical address of a place in a context's observation areas, which are named by virtual addresses (R393): what does
not translate to device memory, or lacks the permission, gives none. -/
def State.obsPa (s : State) (ctx va : Nat) (a : Access) : Option Nat :=
  match s.reach noCore ctx 9 0 (BitVec.ofNat 64 va) a with
  | .ok e pa => if (leafTarget e == 0 || (leafTarget e == 2 && leafDevice e == s.fab.device)) && !inWindow pa && !inCreel pa
      then some pa else none
  | _ => none

/-- A record of a context that could not be written is dropped, and management firmware is notified (R393). -/
def State.obsDrop (s : State) (ctx : Nat) : State := s.emit (.notice 4 ctx)

/-- A word of a context's observation header. -/
def State.hdrWord (s : State) (ctx ofs : Nat) : Option Word :=
  if (s.ctx ctx).d.obsHdr = 0 then none else (s.obsPa ctx ((s.ctx ctx).d.obsHdr + ofs) .load).map s.peekWord

/-- RECSIZE of a context's observation header (R393). -/
def State.regionChunks (s : State) (ctx : Nat) : Nat := ((s.hdrWord ctx 36).getD 0).toNat

/-- Adds to an engine field of a context's observation header, which saturates; a context without a header keeps none (R393). -/
def State.bumpHdr (s : State) (ctx ofs n : Nat) : State :=
  let h := (s.ctx ctx).d.obsHdr
  if h = 0 then s
  else
    match s.obsPa ctx (h + ofs) .atomic with
    | some pa => s.wrWords pa [BitVec.ofNat 32 (min 0xFFFFFFFF ((s.peekWord pa).toNat + n))]
    | none => s.obsDrop ctx

/-- Writes a record at a place of a context's observation areas, across a page if it must; none when a page of it cannot be written,
so that a dropped record leaves nothing (R393). -/
def State.obsPut (s : State) (ctx va : Nat) (rec : List Word) : Option State :=
  let k := (4096 - va % 4096) / 4
  match s.obsPa ctx va .store, (if rec.length ≤ k then some 0 else s.obsPa ctx (va + 4 * k) .store) with
  | some p, some q => some ((s.wrWords p (rec.take k)).wrWords q (rec.drop k))
  | _, _ => none

/-- Writes a record into a ring of the observation header and counts it: base offset, log offset, count offset, record words
(R393). A record takes its number as it enters; a dropped one takes none. -/
def State.ring (s : State) (ctx baseOfs logShift seqOfs : Nat) (rec : List Word) : State :=
  if (s.ctx ctx).d.obsHdr = 0 then s
  else
    match s.hdrWord ctx baseOfs, s.hdrWord ctx (baseOfs + 4), s.hdrWord ctx 32, s.hdrWord ctx seqOfs with
    | some lo, some hi, some logs, some q =>
      let lg := bits logs.toNat (logShift + 4) logShift
      (match s.obsPut ctx ((pair lo hi).toNat + 4 * rec.length * (q.toNat % 2 ^ lg)) rec with
        | some t => t.bumpHdr ctx seqOfs 1
        | none => s.obsDrop ctx)
    | _, _, _, _ => s.obsDrop ctx

/-- Writes a trace record when TRACE is set: event, core, names, ARG and clock (R399). -/
def State.trace (s : State) (ctx ev core grid team thread arg clk : Nat) : State :=
  if (s.ctx ctx).obsctl.getLsbD 29 then
    let w (n : Nat) : Word := BitVec.ofNat 32 n
    s.ring ctx 8 8 60 [w (ev + core * 2 ^ 8), w grid, w team, w thread, w arg, w (arg / 2 ^ 32), w clk, w (clk / 2 ^ 32)]
  else s

/-! Record mode (R403 to R406). -/

/-- The open segment of a context on a core, with its place. -/
def State.segOn (s : State) (core ctx : Nat) : Option (Nat × Seg) :=
  findIx (fun g => g.ctx == ctx && g.opened) (s.core core).segs 0

/-- 64 KiB chunks that a context's segments have taken. -/
def State.chunksOf (s : State) (ctx : Nat) : Nat :=
  (s.cores.map (fun kv => ((kv.2.segs.filter (fun g => g.ctx == ctx)).map (fun g => g.chunks.length)).sum)).sum

/-- Log words of a segment that no chunk it has taken can hold need another chunk, and the core is held until the full one
is written; when the region holds none, the segment ends at the next clock (R405). -/
def State.roomFor (s : State) (core ctx : Nat) : State :=
  match s.segOn core ctx with
  | none => s
  | some (i, g) =>
    let put (g : Seg) : State := s.modCore core (fun k => { k with segs := setAt k.segs i g })
    if g.fill.length ≤ 16384 || g.waiting || g.fullAt.isSome then s
    else if s.chunksOf ctx < s.regionChunks ctx then
      (put { g with chunks := g.chunks ++ [s.chunksOf ctx], waiting := true }).post (.chunkWrite core)
    else (put { g with fullAt := some ((s.core core).cyc + 1) }).post (.recordRegionFull core)

/-- Changes the open segment of a context on a core, which takes log words. -/
def State.extend (s : State) (core ctx : Nat) (l : List Word) (f : Seg → Seg) : State :=
  match s.segOn core ctx with
  | none => s
  | some (i, g) =>
    (s.modCore core (fun k => { k with segs := setAt k.segs i { f g with fill := (f g).fill ++ l } })).roomFor core ctx

/-- An entry of the input log: its header and payload (R404). -/
def State.logInput (s : State) (core ctx kind slot : Nat) (payload : List Word) : State :=
  match s.segOn core ctx with
  | none => s
  | some _ =>
    let cyc := (s.core core).cyc
    let w (n : Nat) : Word := BitVec.ofNat 32 n
    let e := [w cyc, w (cyc / 2 ^ 32), w (kind + slot * 2 ^ 8 + 4 * payload.length * 2 ^ 14), 0] ++ payload
    s.extend core ctx e (fun g => { g with input := g.input ++ [(cyc, e)] })

/-- An entry of the input log for a warp, where it is resident. -/
def State.logWarp (s : State) (uid kind : Nat) (payload : List Word) : State :=
  match s.warps.get? uid with
  | none => s
  | some w => if w.id.place.isSome then s.logInput w.core w.id.ctx kind w.slot payload else s

/-- A stall reason by its index (R394). -/
def Stall.ofIdx (n : Nat) : Option Stall :=
  [Stall.arb, .switch, .operand, .keyWait, .keyRing, .portFull, .portEmpty, .join, .barrier, .absent, .memq, .status, .fetch,
    .bank, .engine, .hold][n]?

/-- Whether what ends a park for a reason comes from outside the warp's partition (R404). -/
def Stall.outside (r : Stall) : Bool := [3, 4, 5, 6, 8, 9, 10, 12, 13, 14, 15].contains r.ctorIdx

/-- A warp that goes on from a park for a reason from outside its partition logs the wake (R404, KIND 6). -/
def State.wake (s : State) (u : Nat) (r : Option Stall) : State :=
  match r.filter Stall.outside with
  | some r => s.logWarp u 6 [BitVec.ofNat 32 r.ctorIdx, 0, 0]
  | none => s

/-- An imprecise report reaches its warp (R106), and the input log: its cause, its key above it, and its fault record (R404; log 83). -/
def State.addReport (s : State) (u : Nat) (r : Report) : State :=
  (s.logWarp u 6 [BitVec.ofNat 32 (r.cause.toNat + (r.key + 1) * 2 ^ 8), r.addr.setWidth 32, r.addr.extractLsb' 32 32]).modWarp u
    (fun w => { w with reports := w.reports ++ [r] })

/-- Whether a context's warps are those of a replay (R407). -/
def State.replaying (s : State) (ctx : Nat) : Bool := s.cores.any (fun kv => kv.2.replay.any (fun g => g.ctx == ctx))

/-- A lane mask as two words of a payload. -/
def maskWords (m : Lanes) : List Word := [m.setWidth 32, m.extractLsb' 32 32]

/-- A request that a core sends outward enters its segment's digest, or that of its replay (R406, R407). -/
def State.outward (s : State) (core ctx : Nat) (l : List Nat) : State :=
  match (s.core core).replay with
  | some g => s.modCore core (fun k => { k with replay := some { g with digest := Config.digest g.digest l } })
  | none =>
    match s.segOn core ctx with
    | none => s
    | some _ => s.extend core ctx [] (fun g => { g with digest := Config.digest g.digest l })

/-- An entry of an issue log: MASK and COUNT (R403). -/
def issueWord (mask n : Nat) : Word := BitVec.ofNat 32 (mask % 256 * 2 ^ 24 + n)

/-- A partition spends `n` clocks on a mask (R403): they join its open run, or that run is finished and a new one opens. An
entry counts at most 2^24 − 1 clocks. -/
def Seg.addRun (g : Seg) (p mask n : Nat) : Seg :=
  let done (g : Seg) (m k : Nat) : Seg := { g with issue := g.issue ++ [(p, m, k)], fill := g.fill ++ [issueWord m k] }
  let open1 (g : Seg) (k : Nat) : Seg :=
    let full := (k - 1) / 0xFFFFFF
    let g1 := (List.range full).foldl (fun g _ => done g mask 0xFFFFFF) g
    { g1 with runs := g1.runs.set p (mask, k - full * 0xFFFFFF) }
  match g.runs.get? p with
  | some (m, k) => if m = mask then open1 g (k + n) else open1 (done g m k) n
  | none => open1 g n

/-- The open runs of a segment are finished (R403). -/
def Seg.flush (g : Seg) : Seg :=
  { g with
    runs := []
    issue := g.issue ++ g.runs.map (fun r => (r.1, r.2.1, r.2.2))
    fill := g.fill ++ g.runs.map (fun r => issueWord r.2.1 r.2.2) }

/-- The issue logs of a core's open segments take `n` clocks (R403), by what its partitions issue on them. -/
def State.logClocks (s : State) (core n : Nat) : State :=
  ((s.core core).segs.filter (fun g => g.opened)).foldl (fun s g =>
    s.extend core g.ctx [] (fun g => (List.range 8).foldl (fun (g : Seg) p =>
      g.addRun p (match (s.core core).busy.get? p with | some b => if b.ctx = g.ctx then b.mask else 0 | none => 0) n) g)) s

/-- Whether an engine part is stopped for a switch of its firmware (R423): kind 0 a distributor, 1 a fabric-engine part, 2 a Creel. -/
def State.switching (s : State) (kind die : Nat) : Bool := (s.svc.stops.get? (kind * 4 + die)).isSome

/-! Ending a context (R101, R369, R427): its warps, teams, grids and engine work are gone, its memory stays. -/

/-- Whether a context is on the device: what it has in the engines counts there only while it is not saved (R264, R269). -/
def State.onDevice (s : State) (ctx : Nat) : Bool := (s.ctx ctx).run != .saved && (s.ctxs.get? ctx).isSome

/-- What a context has in flight in the engines. -/
def State.graveOf (s : State) (ctx : Nat) : Grave :=
  let own (u : Nat) : Bool := (s.warp u).id.ctx == ctx
  { held := s.onDevice ctx, ops := s.ops.keep (fun _ o => o.ctx == ctx), reqs := s.reqs.keep (fun _ r => r.ctx == ctx),
    copies := s.copies.keep (fun _ c => c.ctx == ctx), posts := s.posts.keep (fun _ p => p.ctx == ctx),
    chimes := s.chimes.keep (fun _ c => c.ctx == ctx), txs := s.txs.keep (fun _ t => own t.uid),
    members := s.members.keep (fun _ m => own m.uid), grids := s.grids.keep (fun _ g => g.ctx == ctx),
    colls := s.colls.filter (fun c => c.ctx == ctx) }

/-- A context gives up its resources: warps, teams, its Creel buffers, which become unconfigured (R341), and a core on which it
replays (R407). -/
def State.giveUp (s : State) (ctx : Nat) : State :=
  { s with
    graves := s.graves.erase ctx
    warps := s.warps.keep (fun _ w => w.id.ctx != ctx)
    teams := s.teams.keep (fun _ t => t.ctx != ctx)
    bufs := s.bufs.mapv (fun _ b => if b.ctx == some ctx then { ctx := none } else b)
    cores := s.cores.mapv (fun _ k => { k with replay := k.replay.filter (fun g => g.ctx != ctx) }) }

/-- Terminates a context: nothing of it runs any more. With DUMP set its resources, and what it had in flight, are kept until
its dump is written (R402). -/
def State.terminate (s : State) (ctx : Nat) : State :=
  let own (u : Nat) : Bool := (s.warp u).id.ctx == ctx
  let s1 : State := { s.modCtx ctx (fun k => { k with terminated := true, run := .saved }) with
    graves := if (s.ctx ctx).obsctl.getLsbD 27 && (s.graves.get? ctx).isNone then s.graves.set ctx (s.graveOf ctx) else s.graves
    ops := s.ops.keep (fun _ o => o.ctx != ctx)
    reqs := s.reqs.keep (fun _ r => r.ctx != ctx)
    copies := s.copies.keep (fun _ c => c.ctx != ctx)
    posts := s.posts.keep (fun _ p => p.ctx != ctx)
    chimes := s.chimes.keep (fun _ c => c.ctx != ctx)
    txs := s.txs.keep (fun _ t => !own t.uid)
    members := s.members.keep (fun _ m => !own m.uid)
    cores := s.cores.mapv (fun _ k => { k with lq := k.lq.filter (fun q => !own q.uid) })
    colls := s.colls.filter (fun c => c.ctx != ctx)
    grids := s.grids.keep (fun _ g => g.ctx != ctx) }
  if (s.ctx ctx).obsctl.getLsbD 27 then s1 else s1.giveUp ctx

/-- What terminated contexts keep in the engines' tables until their dumps are written (R402). -/
def State.kept (s : State) : List Grave := s.graves.vals.filter (fun g => g.held)

/-! The frontier (R72, R73). -/

/-- Whether an entry sorts before another: priority, highest first, then PC, lowest first. -/
def Ent.before (a b : Ent) : Bool := b.prio < a.prio || (a.prio == b.prio && a.pc < b.pc)

/-- AddEntry (R73). -/
def addEntry (f : List Ent) (e : Ent) : List Ent :=
  if e.mask = 0 then f
  else
    match f with
    | [] => [e]
    | x :: t =>
      if x.pc = e.pc ∧ x.prio = e.prio then { x with mask := x.mask ||| e.mask } :: t
      else if e.before x then e :: x :: t
      else x :: addEntry t e

/-- AddEntry for several entries in turn. -/
def addEntries (f : List Ent) : List Ent → List Ent
  | [] => f
  | e :: t => addEntries (addEntry f e) t

/-- The frontier without the entry that issues. -/
def dropEntry (pc : Addr) (prio : BitVec 3) : List Ent → List Ent
  | [] => []
  | e :: t => if e.pc = pc ∧ e.prio = prio then t else e :: dropEntry pc prio t

/-! A word on its way through the issue engine. -/

/-- Why an attempt to issue a word does not complete: the warp parks with a stall reason, in a state that may have set
events going; or the word traps; or poison at a place of an SRAM array meets a register, which ends the context (R427); or the
machine stops. -/
inductive Stop where
  | park (r : Stall) (s : State)
  | trap (t : TrapInfo)
  | poison (place : Nat)
  | halt (f : Fault)

/-- What becomes of the entry that issued: it continues at NextPC, or the word adds the entries it names (R73). -/
inductive Flow where
  | next
  | goto (es : List Ent)

/-- What a word sees: the warp that issues it, the pending state of its group, its own address, the active mask and the
entry's priority. -/
structure Cx where
  uid : Nat
  w : Warp
  g : Group
  deriving DecidableEq, Repr

/-- The address of the word. -/
def Cx.pc (c : Cx) : Addr := c.g.here

/-- The active mask: the entry's lanes. -/
def Cx.mask (c : Cx) : Lanes := c.g.mask

/-- The core the word issues on. -/
def Cx.core (c : Cx) : Nat := c.w.core

/-- The context of the warp. -/
def Cx.ctx (c : Cx) : Nat := c.w.id.ctx

/-- Poison that has met a register of a warp ends its context, with a record that names the warp and the place (R427). -/
def State.endTainted (s : State) (w : Warp) (place : Nat) : State :=
  ((s.record w.id.ctx (s.identify w 0
    { cause := 0x08, inst := w.core, addr := place, cycles := (s.core w.core).cyc, detail := 0x80000000 })).1).terminate w.id.ctx

/-- Poison that a word has met ends its context (R427). -/
def State.endPoisoned (s : State) (c : Cx) (place : Nat) : State := s.endTainted c.w place

/-- The group a warp issues next: the one in progress, or a new one from the head entry (R46). -/
def Warp.group (w : Warp) : Option Group :=
  match w.iss.grp with
  | some g => some g
  | none =>
    match w.iss.frontier with
    | [] => none
    | e :: _ => some { pc := e.pc, here := e.pc, prio := e.prio, mask := e.mask }

/-- What the warp named by `cur` sees at its next word. -/
def State.cx (s : State) : Option Cx :=
  match s.cur with
  | none => none
  | some u =>
    match s.warps.get? u with
    | none => none
    | some w =>
      match w.group with
      | none => none
      | some g => some { uid := u, w := w, g := g }

/-- The lowest active lane (the posting lane, R256). -/
def Cx.lane (c : Cx) : Nat := lowest c.mask

/-- A command to an engine that leaves the core: its word and what it carries (R406). -/
def Cx.command (c : Cx) (s : State) (l : List Nat) : State := s.outward c.core c.ctx (s.word.toNat :: l)

/-! Traps (R100 to R106). -/

/-- ECAUSE: WIDX, PRIO, IMPRECISE and CAUSE in their places (R103). -/
def ecauseWord (widx : Nat) (prio : BitVec 3) (imp : Bool) (cause : BitVec 6) : Word :=
  0#16 ++ BitVec.ofNat 4 widx ++ prio ++ 0#1 ++ BitVec.ofBool imp ++ 0#1 ++ cause

/-- An S register as written. -/
def Warp.sreg (w : Warp) (n : Nat) : Word := w.regs.s.getD n 0

/-- The context's trap handler: the entry address of the `.trap` kernel of its trap code object (R100). -/
def State.handlerPc (s : State) (ctx : Nat) : Option Addr :=
  let c := s.ctx ctx
  if c.d.trapObj = 0 then none
  else
    match c.objs.find? (fun o => o.handle == c.d.trapObj) with
    | none => none
    | some o =>
      match o.kernels.find? (fun k => k.trap) with
      | none => none
      | some k => some (BitVec.ofNat 64 (o.text + k.entry))

/-- The warp's save-area address (R100). -/
def State.saveArea (s : State) (w : Warp) : Addr :=
  (s.ctx w.id.ctx).d.trapSave + BitVec.ofNat 64 ((w.core * 64 + w.slot) * 0x8000)

/-- The fault record of a context that ends on a precise trap (R101). -/
def State.fatalRecord (s : State) (w : Warp) (p : PendTrap) : FaultRec :=
  s.identify w (lowest p.mask)
    { cause := p.info.cause.toNat, engine := 0, inst := w.core, addr := (pair p.info.info2 p.info.info3).toNat,
      committed := p.epc.toNat, spec := p.word.toNat, cycles := (s.core w.core).cyc, detail := p.info.info1.toNat }

/-- Trap entry (R100, R101, R103 to R105): the trap registers are written, the warp's other entries are held, S56 to S63
and PART are copied to the shadow, and one entry at the handler with priority 7 holds the trapping lanes. In handler
state, or without a trap code object, the context terminates. An imprecise report never falls due in handler state. The warp keeps the
issue mode of the code object it was launched from while it executes another's text (DESIGN CHOICE, log 87). -/
def State.enterTrap (s : State) (u : Nat) (p : PendTrap) : State :=
  let w := s.warp u
  match w.hnd.on, s.handlerPc w.id.ctx with
  | false, some h =>
    let save := s.saveArea w
    let s' := s.modWarp u (fun w =>
      { w with
        hnd := { on := true, epc := p.epc, ecause := ecauseWord p.widx p.prio p.info.imprecise p.info.cause,
                 emask := p.mask, info0 := p.word, info1 := p.info.info1, info2 := p.info.info2, info3 := p.info.info3,
                 shadowS := [56, 57, 58, 59, 60, 61, 62, 63].map w.sreg, shadowPart := w.ctl.part,
                 held := dropEntry p.epc p.prio w.iss.frontier }
        regs := { w.regs with s :=
          (((((((w.regs.s.set 56 (save.setWidth 32)).set 57 (save.extractLsb' 32 32)).set 58 0).set 59 0).set 60 0).set
            61 0).set 62 0).set 63 0 }
        ctl := { w.ctl with part := if w.id.wide then 6 else 5 }
        iss := { w.iss with grp := none, stallTo := 0, pendTrap := none, stall := none, resume := .none, skipBp := false,
                            skipBrk := false, frontier := [{ pc := h, prio := 7, mask := p.mask }] } })
    if p.info.imprecise then
      s'.trace w.id.ctx 8 w.core w.id.grid (s.teamIndex w) (w.thread (lowest p.mask)) p.info.cause.toNat (s.core w.core).cyc
    else s'
  | _, _ => ((s.record w.id.ctx (s.fatalRecord w p)).1).terminate w.id.ctx

/-- Whether a register result of the warp has not returned; one that was answered with refused lanes has (R216). -/
def Warp.busy (w : Warp) : Bool := w.iss.outstanding.any (fun r => !(r.ready && !r.refused.isEmpty))

/-- A list without the first element that passes a test. -/
def dropFirst {α : Type} (p : α → Bool) : List α → List α
  | [] => []
  | x :: t => if p x then t else x :: dropFirst p t

/-- Raises a trap at the word that `c` sees: EPC is the group's first word and WIDX the word's place in it (R48, R103).
With register results outstanding, entry waits for them (R100). A NET_ACCESS for a refused load takes that
load's word and clears its result (R216). -/
def State.raise (s0 : State) (c : Cx) (t : TrapInfo) : State :=
  let s := if t.info0.isSome then s0.modWarp c.uid (fun w => { w with iss := { w.iss with
    outstanding := dropFirst (fun r => !r.refused.isEmpty) w.iss.outstanding } }) else s0
  let p : PendTrap := { info := t, epc := c.g.pc, widx := c.g.count, prio := c.g.prio, mask := c.g.mask, word := t.info0.getD s.word }
  let w := s.warp c.uid
  if !w.busy then s.enterTrap c.uid p
  else
    (s.modWarp c.uid (fun w => { w with iss := { w.iss with pendTrap := some p, grp := none, stallTo := 0, stall := some .switch } })).post
      (.trapEntry c.uid)

/-- A trap with a cause alone (ILL, PRIV, KEY_ALL_PRODUCE). -/
def trapOf (cause : BitVec 6) : Stop := .trap { cause := cause }

/-- ILL (R21). -/
def ill : Stop := trapOf 0x01

/-- A trap that reports the lowest failing lane and its address (R105). -/
def trapLane (cause : BitVec 6) (lane : Nat) (a : Addr) : Stop :=
  .trap { cause := cause, info1 := BitVec.ofNat 32 lane, info2 := a.setWidth 32, info3 := a.extractLsb' 32 32 }

/-- A trap that reports a lane mask (R105). -/
def trapMask (cause : BitVec 6) (info1 : Nat) (m : Lanes) : Stop :=
  .trap { cause := cause, info1 := BitVec.ofNat 32 info1, info2 := m.setWidth 32, info3 := m.extractLsb' 32 32 }

/-- The warp parks, keeping its group, with the reason charged from now (R394). -/
def State.parkWarp (s : State) (u : Nat) (r : Stall) : State :=
  s.modWarp u (fun w => { w with iss := { w.iss with
    stall := some r
    parkWord := s.word
    parkAt := if w.iss.stall == some r then w.iss.parkAt else (s.core w.core).cyc } })

/-- The end of a group (R46, R73, R78): its entry leaves the frontier and the entries of its flow come in; S, when the
mode obeys it, makes the warp wait for its results; HSTALL holds the warp (R52); the group's state is cleared. -/
def State.closeGroup (s : State) (c : Cx) (sw : Bool) (fl : Flow) : State :=
  s.modWarp c.uid (fun w =>
    let base := dropEntry c.g.pc c.g.prio w.iss.frontier
    let ents := match fl with
      | .next => [{ pc := c.g.here + 4, prio := c.g.prio, mask := c.g.mask &&& w.live }]
      | .goto es => es
    let obey := w.id.mode != .interlocked
    { w with iss := { w.iss with
        frontier := addEntries base ents
        grp := none
        stall := none
        resume := .none
        skipBp := false
        skipBrk := false
        switchWait := obey && (c.g.s || sw)
        stallTo := 0
        groups := w.iss.groups + 1
        words := w.iss.words + 1 } })

/-- Turns what a word did into an outcome of the machine. -/
def State.settle (s : State) (c : Cx) (sw : Bool) (r : Except Stop (State × Flow)) : Host.Outcome State Fault Refusal :=
  match r with
  | .ok (s', fl) => .next (s'.closeGroup c sw fl)
  | .error (.park r s') => .next (s'.parkWarp c.uid r)
  | .error (.trap t) => .next (s.raise c t)
  | .error (.poison p) => .next (s.endPoisoned c p)
  | .error (.halt f) => .fault f

/-- Runs the body of a target word for the warp that issues. -/
def State.runTarget (s : State) (sw : Bool) (body : Cx → State → Except Stop (State × Flow)) :
    Host.Outcome State Fault Refusal :=
  match s.cx with
  | none => .fault .noIssuer
  | some c => s.settle c sw (body c s)

/-! Watchdogs that do not count (R238, R363, R367, R401). -/

/-- A start of a count after a pause that began at `p` and ends at `now`: clocks of the pause are not counted. -/
def afterPause (start : Int) (p now : Nat) : Int := if start < p then start + ((now : Int) - p) else now

/-- The watchdogs of a context stop counting: the clocks of its cores and of the dies are noted. -/
def State.pauseWatch (s : State) (ctx : Nat) : State :=
  if (s.ctx ctx).paused.isSome || (s.ctx ctx).run == .saved then s
  else s.modCtx ctx (fun c => { c with paused := some { cores := s.cores.mapv (fun _ k => k.cyc), dies := s.dies.mapv (fun _ d => d.mesh) } })

/-- The watchdogs of a context count on. -/
def State.resumeWatch (s : State) (ctx : Nat) : State :=
  match (s.ctx ctx).paused with
  | none => s
  | some p =>
    State.modCtx { s with
      teams := s.teams.mapv (fun _ t =>
        match t.core with
        | some c => if t.ctx == ctx then { t with barriers := t.barriers.mapv (fun _ b =>
            { b with start := afterPause b.start (p.dies.getD (dieOf c) 0) (s.die (dieOf c)).mesh }) } else t
        | none => t)
      warps := s.warps.mapv (fun _ w =>
        if w.id.ctx == ctx && w.here then
          let at0 (x : Int) : Int := afterPause x (p.cores.getD w.core 0) (s.core w.core).cyc
          { w with moved := at0 w.moved, iss := { w.iss with parkAt := at0 w.iss.parkAt } }
        else w) } ctx (fun c => { c with paused := none })

/-- At a save the barrier watchdogs of a context become elapsed counts (R363, R367). -/
def State.freezeWatch (s0 : State) (ctx : Nat) : State :=
  let s := s0.resumeWatch ctx
  { s with teams := s.teams.mapv (fun _ t =>
      match t.core with
      | some c => if t.ctx == ctx then { t with barriers := t.barriers.mapv (fun _ b =>
          { b with start := ((s.die (dieOf c)).mesh : Int) - b.start }) } else t
      | none => t) }

/-- At a restore they count on from there, and the port watchdogs from zero (R238, R367); of a stopped context none counts. -/
def State.thawWatch (s : State) (ctx : Nat) : State :=
  let s1 := { s with
    teams := s.teams.mapv (fun _ t =>
      match t.core with
      | some c => if t.ctx == ctx then { t with barriers := t.barriers.mapv (fun _ b =>
          { b with start := ((s.die (dieOf c)).mesh : Int) - b.start }) } else t
      | none => t)
    warps := s.warps.mapv (fun _ w =>
      if w.id.ctx == ctx && w.here then
        { w with moved := (s.core w.core).cyc, iss := { w.iss with parkAt := (s.core w.core).cyc } }
      else w) }
  if (s1.ctx ctx).stopped then s1.pauseWatch ctx else s1

/-- A partition spends its core clocks on a warp's issue, or on none (R74, R83). -/
def State.spend (s : State) (core part : Nat) (b : Issued) : State :=
  s.modCore core (fun k => { k with busy := k.busy.set part b })

/-- A precise stop at a group boundary of a warp (R401): the context stops, the group is not issued, and a trace record of
EVENT 7 names the thread. On resume the first issue of the entry does not stop again. Other warps may stop on the same clock. -/
def State.preciseStop (s : State) (uid lane : Nat) : State :=
  let w := s.warp uid
  let clk := (s.core w.core).cyc
  let s1 := (s.modWarp uid (fun w => { w with iss := { w.iss with grp := none, skipBp := true, stall := some .hold } })).spend w.core
    (w.slot / 8) { left := 1, ctx := w.id.ctx, mask := 0, uid := none }
  ((s1.modCtx w.id.ctx (fun k => { k with stopped := true, stopOn := some (w.core, clk), step := none })).pauseWatch w.id.ctx).trace
    w.id.ctx 7 w.core w.id.grid (s.teamIndex w) (w.thread lane) ((w.group.map (fun g => g.pc.toNat)).getD 0) clk

/-- A precise stop at a BRK, which on resume does not stop again (R95, R401). -/
def State.brkStop (s : State) (uid lane : Nat) : State :=
  (s.preciseStop uid lane).modWarp uid (fun w => { w with iss := { w.iss with skipBrk := true } })

end Sys2Proof.Machine
end

