-- ==== Sys2Proof/Machine/Flags.lean ====
section
/-! DEFINITION. FMODE and LSTAT: what a mode word selects, which values MTC may write, and the traps of R125. -/

namespace Sys2Proof.Machine

open Sys2Proof

/-- The environment a mode word and a prefix give (R121, R138): ROUND 0 selects FMODE.RND. -/
def fenv (fmode : Word) (round : Nat) (sat : Bool) : FEnv :=
  { mode := if round = 0 then bits fmode.toNat 2 0 else round
    sat := sat
    ftzi := fmode.getLsbD 3
    ftzo := fmode.getLsbD 4
    nanp := fmode.getLsbD 5
    mmode := fmode.getLsbD 6 }

/-- POISON (R121). -/
def poison (fmode : Word) : Bool := fmode.getLsbD 7

/-- Whether MTC may write a value to FMODE (R121). -/
def fmodeOk (v : Word) : Bool := v >>> 11 == 0 && bits v.toNat 2 0 != 0 && bits v.toNat 2 0 != 7

/-- Whether MTC may write a value to PART (R45). -/
def partOk (wide : Bool) (v : Word) : Bool := v >>> 3 == 0 && v != 0 && v != 7 && (wide || v != 6)

/-- Whether MTC may write a value to LSTAT (R123). -/
def lstatOk (v : Word) : Bool := v >>> 7 == 0

/-- The code of the trap that a set of flags raises under the enables of a mode word, lowest first (R125). -/
def flagTrap (fmode fl : Word) : Option Nat :=
  if fmode.getLsbD 8 && fl.getLsbD 4 then some 124
  else if fmode.getLsbD 9 && fl.getLsbD 3 then some 125
  else if fmode.getLsbD 10 && fl.getLsbD 2 then some 126
  else none

/-- The OR of flags. -/
def orFlags : List Word → Word
  | [] => 0
  | f :: t => f ||| orFlags t

/-- The lanes that raise a flag, with the flags. -/
def flagVals : List (Nat × Word) → KMap Word
  | [] => []
  | (i, f) :: t => if f = 0 then flagVals t else (i, f) :: flagVals t

end Sys2Proof.Machine
end

