-- ==== Sys2Proof/Machine/Operands.lean ====
section
/-! DEFINITION. Register operands in every form: validity and indexing (R39, R42, R140), reads inside a run (R78), the
checks of the three issue modes (R17, R77 to R81), the results an instruction leaves outstanding and their writeback
(R84), the prefix (R53, R138, R139), and the common model of the vector engine (R138). -/

namespace Sys2Proof.Machine

open Sys2Proof

/-! Registers as held. -/

/-- Whether a V number is valid for a warp (R39). -/
def Warp.validV (w : Warp) (n : Nat) : Bool := decide (n < w.id.nregs) || n == 126 || n == 127

/-- A V register of a lane as held; one never written holds its launch value (R38). -/
def Warp.vreg (w : Warp) (n lane : Nat) : Word :=
  w.regs.v.getD (n * 64 + lane) (if w.regs.fill then 0x7FBE0000#32 ||| BitVec.ofNat 32 n else 0)

/-- A mask as held; M0 reads as all ones (R38). -/
def Warp.mreg (w : Warp) (n : Nat) : Lanes := if n = 0 then allLanes w.id.wide else w.regs.m.getD n 0

/-- An index register as held. -/
def Warp.xreg (w : Warp) (n : Nat) : Word := w.regs.x.getD n 0

/-- A loop counter as held. -/
def Warp.lreg (w : Warp) (n : Nat) : Word := w.regs.l.getD n 0

/-- A rejoin register. -/
def Warp.jreg (w : Warp) (n : Nat) : Rejoin := w.regs.j.getD n {}

/-! Reads inside a run. -/

/-- The values that outstanding results would give: each outstanding write that `f` reads, oldest first. -/
def Warp.coming {α : Type} (w : Warp) (f : RegWrite → Option α) : List α :=
  w.iss.outstanding.flatMap (fun r => if r.ready then r.writes.filterMap f else [])

/-- A read: the held value, or with results outstanding for it any of the values, freely (R78). -/
def Cx.pick {α : Type} (c : Cx) (s : State) (salt : Nat) (held : α) (f : RegWrite → Option α) : α :=
  match c.w.coming f with
  | [] => held
  | vs => nth (held :: vs) (s.choose salt (vs.length + 1)) held

/-- Reads a V register of a lane. -/
def Cx.readV (c : Cx) (s : State) (n lane : Nat) : Word :=
  c.pick s (1000 + n * 64 + lane) (c.w.vreg n lane) (fun x => match x with
    | .v k vals => if k = n then vals.get? lane else none
    | _ => none)

/-- Reads an S register. -/
def Cx.readS (c : Cx) (s : State) (n : Nat) : Word :=
  c.pick s (100 + n) (c.w.sreg n) (fun x => match x with
    | .s k v => if k = n then some v else none
    | _ => none)

/-- Reads a mask. -/
def Cx.readM (c : Cx) (s : State) (n : Nat) : Lanes :=
  if n = 0 then allLanes c.w.id.wide
  else
    c.pick s (200 + n) (c.w.mreg n) (fun x => match x with
      | .m k sel val => if k = n then some ((c.w.mreg n &&& ~~~sel) ||| (val &&& sel)) else none
      | _ => none)

/-- Reads an index register. -/
def Cx.readX (c : Cx) (s : State) (n : Nat) : Word :=
  c.pick s (220 + n) (c.w.xreg n) (fun x => match x with
    | .x k v => if k = n then some v else none
    | _ => none)

/-- Reads a loop counter. -/
def Cx.readL (c : Cx) (s : State) (n : Nat) : Word :=
  c.pick s (230 + n) (c.w.lreg n) (fun x => match x with
    | .l k v => if k = n then some v else none
    | _ => none)

/-- Reads FMODE (R121). -/
def Cx.readFmode (c : Cx) (s : State) : Word :=
  c.pick s 240 c.w.ctl.fmode (fun x => match x with
    | .fmode v => some v
    | _ => none)

/-- Reads PART (R154). -/
def Cx.readPart (c : Cx) (s : State) : Word :=
  c.pick s 241 c.w.ctl.part (fun x => match x with
    | .part v => some v
    | _ => none)

/-- Reads KDEF (R186). -/
def Cx.readKdef (c : Cx) (s : State) : Word :=
  c.pick s 242 c.w.ctl.kdef (fun x => match x with
    | .kdef v => some v
    | _ => none)

/-- Reads a half of EPC, which is zero outside handler state (R44, R160). -/
def Cx.readEpc (c : Cx) (s : State) (hi : Bool) : Word :=
  if !c.w.hnd.on then 0
  else
    c.pick s (if hi then 244 else 243) (if hi then c.w.hnd.epc.extractLsb' 32 32 else c.w.hnd.epc.setWidth 32) (fun x => match x with
      | .epc h v => if h = hi then some v else none
      | _ => none)

/-- Reads LSTAT of a lane: as held or as an outstanding MTC would write it, with or without the flags of each outstanding
instruction (R123). -/
def Cx.readLstat (c : Cx) (s : State) (lane : Nat) : Word :=
  let base := c.pick s (300 + lane) (c.w.ctl.lstat.getD lane 0) (fun x => match x with
    | .lstat vals => vals.get? lane
    | _ => none)
  ((c.w.coming (fun x => match x with
    | .flags vals => vals.get? lane
    | _ => none)).zipIdx).foldl (fun v f => if s.choose (60000 + 64 * f.2 + lane) 2 = 0 then v else v ||| f.1) base

/-! Hazards. -/

/-- Whether two names share a register word. -/
def RegName.meets : RegName → RegName → Bool
  | .v a p, .v b q => a == b && p &&& q != 0
  | .s a, .s b => a == b
  | .m a, .m b => a == b
  | .x a, .x b => a == b
  | .l a, .l b => a == b
  | .lstat p, .lstat q => p &&& q != 0
  | .fmode, .fmode => true
  | .part, .part => true
  | .kdef, .kdef => true
  | .table, .table => true
  | .epc a, .epc b => a == b
  | _, _ => false

/-- Whether two names are of one register, whatever the lanes (R17). -/
def RegName.same : RegName → RegName → Bool
  | .v a _, .v b _ => a == b
  | .s a, .s b => a == b
  | _, _ => false

/-- Whether an outstanding result writes a register. Flags meet a read or write of LSTAT, not other flags (R123). -/
def Result.hits (r : Result) (n : RegName) : Bool :=
  r.names.any (fun k => k.meets n) ||
  (match n with
    | .lstat l => r.writes.any (fun x => match x with
        | .flags vals => vals.any (fun p => l.getLsbD p.1)
        | _ => false)
    | _ => false)

/-- Those of some registers that an outstanding result writes. -/
def Warp.hazards (w : Warp) (names : List RegName) : List RegName :=
  names.filter (fun n => w.iss.outstanding.any (fun r => r.hits n))

/-- The lanes of a V register that outstanding results write. -/
def Warp.hazardLanes (w : Warp) (n : Nat) (l : Lanes) : Lanes :=
  (w.iss.outstanding.flatMap (fun r => r.names)).foldl
    (fun a k => match k with
      | .v m lanes => if m = n then a ||| (lanes &&& l) else a
      | _ => a) 0

/-- SWITCH_VIOL names the register (R80, R105); only V, S, M, X and L registers make a dependence (R78). -/
def switchViol (w : Warp) : RegName → Option Stop
  | .v n l => some (trapMask 0x15 n (w.hazardLanes n l))
  | .s n => some (trapMask 0x15 (0x100 + n) 0)
  | .m n => some (trapMask 0x15 (0x200 + n) 0)
  | .x n => some (trapMask 0x15 (0x300 + n) 0)
  | .l n => some (trapMask 0x15 (0x400 + n) 0)
  | _ => none

/-- NET_ACCESS for a result that was refused in some lanes (R216): its word, lowest refused lane and address. -/
def refusedTrap (r : Result) : Stop :=
  let q := r.refused.headD (0, 0)
  .trap { cause := 0x16, info1 := BitVec.ofNat 32 q.1, info2 := q.2.setWidth 32, info3 := q.2.extractLsb' 32 32,
          info0 := some r.word }

/-- The first answered result with refused lanes that a wait would be for (R216). -/
def Warp.refusal (w : Warp) (p : Result → Bool) : Option Result :=
  w.iss.outstanding.find? (fun r => r.ready && !r.refused.isEmpty && p r)

/-- Whether a register holds poison in some of the lanes that a word names (R427). -/
def Warp.poisoned (w : Warp) : RegName → Bool
  | .v r lanes => w.bad.any (fun b => b.1 == r && lanes.getLsbD b.2)
  | _ => false

/-- Registers a word reads or writes: poison in one of them ends the context (R427; log 79); a pending status write parks (R17); a
dependence parks in interlocked mode (R81) and raises SWITCH_VIOL in debug-check mode (R80). -/
def Cx.touch (c : Cx) (s : State) (names : List RegName) : Except Stop Unit :=
  let stop : Except Stop Unit :=
    if names.any (fun n => c.w.iss.status.any (fun p => p.reg.same n)) then .error (.park .status s) else .ok ()
  if names.any c.w.poisoned then .error (.poison (c.w.slot * 2 ^ 14)) else
  match c.w.hazards names with
  | [] => stop
  | ns =>
    let refused := c.w.refusal (fun r => ns.any r.hits)
    match c.w.id.mode, refused, ns.findSome? (switchViol c.w) with
    | .native, _, _ => stop
    | _, some r, _ => .error (refusedTrap r)
    | .interlocked, none, _ => .error (.park .operand s)
    | .debugCheck, none, some t => .error t
    | .debugCheck, none, none => stop

/-- Whether a register of the warp is a matrix B operand that is not captured yet (R286). -/
def State.bPending (s : State) (uid n : Nat) : Bool :=
  s.posts.any (fun kv => kv.2.buid == uid && !kv.2.captured && kv.2.bregs.contains n)

/-- Writing V registers, in some lanes, before their capture: OPERAND in interlocked mode, MX_HAZARD in debug-check mode
(R286). -/
def Cx.bWrites (c : Cx) (s : State) (regs : List Nat) (lanes : Lanes) : Except Stop Unit :=
  if lanes = 0 then .ok () else
  match c.w.id.mode, regs.find? (s.bPending c.uid) with
  | .interlocked, some _ => .error (.park .operand s)
  | .debugCheck, some n => .error (trapMask 0x0F n lanes)
  | _, _ => .ok ()

/-! Results and writeback. -/

/-- The clocks of a figure for what a warp issues: a path of width 64 adds one for its second half (R27, R83). -/
def Cx.clocks (c : Cx) (lat : Nat) : Nat := if c.w.id.wide then lat + 1 else lat

/-- A register result left outstanding: it returns when the clocks of its figure have passed (R27, R28, R78). -/
def State.result (s : State) (c : Cx) (lat : Nat) (names : List RegName) (writes : List RegWrite) : State :=
  if writes.isEmpty then s
  else
    let r := s.newId
    (r.2.modWarp c.uid (fun w => { w with iss := { w.iss with outstanding := w.iss.outstanding ++
      [{ id := r.1, due := (s.core c.core).cyc + c.clocks lat, names := names, writes := writes, word := s.word }] } })).post
      (.registerResultReturn c.uid r.1)

/-- The warp's last result set going samples something until it is written. -/
def State.sampling (s : State) (uid : Nat) (k : Sample) : State :=
  s.modWarp uid (fun w => { w with iss := { w.iss with outstanding := w.iss.outstanding.dropLast ++
    (w.iss.outstanding.getLast?.map (fun r => { r with sample := some k })).toList } })

/-- Words of V register `n` by lane written into the register file. -/
def Regs.setV (g : Regs) (n : Nat) (vals : KMap Word) : Regs :=
  { g with v := vals.foldl (fun m p => m.set (n * 64 + p.1) p.2) g.v }

/-- One register write of a writeback (R84). Flags are ORed and never lost (R123). -/
def Warp.apply (w : Warp) : RegWrite → Warp
  | .v n vals => { w with regs := w.regs.setV n vals }
  | .s n x => { w with regs := { w.regs with s := w.regs.s.set n x } }
  | .m n sel val => { w with regs := { w.regs with m := w.regs.m.set n ((w.mreg n &&& ~~~sel) ||| (val &&& sel)) } }
  | .x n x => { w with regs := { w.regs with x := w.regs.x.set n x } }
  | .l n x => { w with regs := { w.regs with l := w.regs.l.set n x } }
  | .flags vals =>
    { w with ctl := { w.ctl with lstat := vals.foldl (fun m p => m.set p.1 (m.getD p.1 0 ||| p.2)) w.ctl.lstat } }
  | .lstat vals => { w with ctl := { w.ctl with lstat := vals.foldl (fun m p => m.set p.1 p.2) w.ctl.lstat } }
  | .fmode x => { w with ctl := { w.ctl with fmode := x } }
  | .part x => { w with ctl := { w.ctl with part := x } }
  | .kdef x => { w with ctl := { w.ctl with kdef := x } }
  | .epc false x => { w with hnd := { w.hnd with epc := w.hnd.epc.extractLsb' 32 32 ++ x } }
  | .epc true x => { w with hnd := { w.hnd with epc := x ++ w.hnd.epc.setWidth 32 } }

/-- A whole writeback. -/
def Warp.applyAll (w : Warp) : List RegWrite → Warp
  | [] => w
  | x :: t => (w.apply x).applyAll t

/-- The words of matrix B registers, not yet captured, that a writeback changes: capture may still take the old ones
(R286). -/
def Warp.oldWords (w : Warp) (regs : List Nat) : RegWrite → List (Nat × Word)
  | .v n vals => if regs.contains n then vals.map (fun p => (n * 64 + p.1, w.vreg n p.1)) else []
  | _ => []

/-- A writeback on the warp of the state, with what it means for matrix posts that wait for capture: those that `unsure` picks
may still capture the old words. -/
def State.writeback (s : State) (uid : Nat) (writes : List RegWrite) (unsure : Post → Bool) : State :=
  let w := s.warp uid
  let posts := s.posts.mapv (fun _ p =>
    if p.buid == uid && !p.captured && unsure p then { p with hazard := p.hazard ++ writes.flatMap (w.oldWords p.bregs) } else p)
  { s.putWarp uid (w.applyAll writes) with posts := posts }

/-! Immediates and the prefix. -/

/-- The immediate of a target: the pending one, else the field's value (R36, R50). -/
def Cx.imm (c : Cx) (field : Word) : Word := c.g.pimm.getD field

/-- The prefix word, or one of neutral values (R138). -/
def Cx.xp (c : Cx) : FXp :=
  c.g.xp.getD { sw := false, m := 0, z := false, r := 0, c := 0, e := false, t := false, x := 0, i := false, j := false,
                k := false, n := false, o := false }

/-- Which prefix fields an instruction uses (R139). -/
structure XpUse where
  m : Bool := true
  z : Bool := true
  ixd : Bool := false
  ixa : Bool := false
  ixb : Bool := false
  xsel : Bool := false
  rnd : Bool := false
  c : Bool := false
  sat : Bool := false
  na : Bool := false
  nb : Bool := false
  deriving DecidableEq, Repr

/-- Whether every field that is not used is neutral (R53). -/
def XpUse.ok (u : XpUse) (x : FXp) : Bool :=
  (u.m || x.m == 0) && (u.z || !x.z) && (u.ixd || !x.i) && (u.ixa || !x.j) && (u.ixb || !x.k) &&
  (u.ixd || u.ixa || u.ixb || u.xsel || x.x == 0) && (u.rnd || x.r == 0) && (u.c || (x.c == 0 && !x.e)) &&
  (u.sat || !x.t) && (u.na || !x.n) && (u.nb || !x.o)

/-- A target that accepts no prefix raises ILL after one (R53). -/
def Cx.noXp (c : Cx) : Except Stop Unit := if c.g.xp.isSome then .error ill else .ok ()

/-! Register fields. -/

/-- The first register of `k` from n' on that is outside the allocation or the window of an enabled index register; an
odd or misaligned indexed base fails at the base (R42, R140). The twelve registers of CRGATE are no aligned group: its own
encoding rule asks for a base in steps of four (R347). -/
def Warp.badReg (w : Warp) (x : Option Word) (n k : Nat) : Option Nat :=
  let inWin (r : Nat) : Bool :=
    match x with
    | some v => if v.getLsbD 31 then decide (bits v.toNat 15 8 ≤ r) && decide (r < bits v.toNat 23 16) else true
    | none => true
  if k ≤ 8 && n % k != 0 then some n
  else (List.range' n k).find? (fun r => !(inWin r && w.validV r))

/-- REG_BOUND: operand, register and the lanes (R105). -/
def regBound (operand n : Nat) (m : Lanes) : Stop := trapMask 0x05 (operand * 256 + n % 256) m

/-- A V operand: the field, an index register when the prefix names one, and how many registers it holds. -/
def Cx.resolve (c : Cx) (operand : Nat) (act : Lanes) (x : Option Word) (field k : Nat) : Except Stop Nat :=
  let n := match x with
    | some v => if v.getLsbD 31 then field + bits v.toNat 7 0 else field
    | none => field
  match c.w.badReg x n k with
  | some r => .error (regBound operand r act)
  | none => .ok n

/-! The common model (R138). -/

/-- What a vector instruction's encoding says: the prefix fields it uses, its register fields with how many registers
each holds, B in S, whether it takes C or keeps part of D, the floating formats of its sources, whether a cross-lane
form names the lanes of A itself, and when its result is due. `partA` names the one sub-element of A that is a source, when it is not all. -/
structure VOp where
  use : XpUse := {}
  d : Option (Nat × Nat) := none
  a : Option (Nat × Nat) := none
  b : Option (Nat × Nat) := none
  bs : Option Nat := none
  c : Bool := false
  keepD : Bool := false
  fa : Option Fmt := none
  fb : Option Fmt := none
  fc : Option Fmt := none
  partA : Option Nat := none
  float : Bool := false
  crossA : Bool := false
  crossB : Bool := false
  extra : List RegName := []
  lat : Nat := 4

/-- A vector instruction whose checks up to register bounds and hazards have passed. -/
structure Prep where
  act : Lanes
  d : Nat
  a : Nat
  b : Nat
  c : Nat
  fmode : Word
  env : FEnv

/-- Registers from a base on, as names. -/
def vNames (n k : Nat) (l : Lanes) : List RegName := (List.range' n k).map (fun r => RegName.v r l)

/-- The checks of a vector word before its sources are read: prefix (R53), hazards of the mask and the index register that
say what it names (R80, R81), register bounds (R42), the other hazards. -/
def Cx.prep (c : Cx) (s : State) (o : VOp) : Except Stop Prep :=
  let x := c.xp
  if !o.use.ok x then .error ill
  else
    let act := c.mask &&& c.readM s x.m.toNat
    let xv := c.readX s x.x.toNat
    let ix (b : Bool) : Option Word := if b then some xv else none
    let vc := x.c.toNat
    do
      c.touch s ((if x.m = 0 then [] else [RegName.m x.m.toNat]) ++
        (if x.i || x.j || x.k then [RegName.x x.x.toNat] else []))
      let d ← match o.d with | some (n, k) => c.resolve 0 act (ix x.i) n k | none => .ok 0
      let a ← match o.a with | some (n, k) => c.resolve 1 act (ix x.j) n k | none => .ok 0
      let b ← match o.b with | some (n, k) => c.resolve 2 act (ix x.k) n k | none => .ok 0
      let cc ← if o.c && x.e then c.resolve 3 act none vc 1 else .ok d
      let all := allLanes c.w.id.wide
      let dk := (o.d.map Prod.snd).getD 0
      let ak := (o.a.map Prod.snd).getD 0
      let bk := (o.b.map Prod.snd).getD 0
      let dl := if x.z then c.mask else act
      c.touch s ((if o.float then [RegName.fmode] else []) ++
        (if o.crossA then [] else vNames a ak act) ++ vNames b bk (if o.crossB then all else act) ++
        (match o.bs with | some n => [RegName.s n] | none => []) ++
        (if o.c then [RegName.v cc act] else []) ++ vNames d dk dl ++ o.extra)
      c.bWrites s (List.range' d dk) dl
      let fm := c.readFmode s
      .ok { act := act, d := d, a := a, b := b, c := cc, fmode := fm, env := fenv fm x.r.toNat x.t }

/-- One lane's sources (R138): A, B and C after negation, the old D, and the lane's generator. -/
structure LaneIn where
  lane : Nat
  a : List Word
  b : List Word
  c : Word
  d : List Word
  rng : Word
  deriving Repr

/-- One lane's outcome: destination words, flags, and the generator after it. -/
structure LaneOut where
  ws : List Word
  fl : Word := 0
  rng : Word := 0
  deriving Repr

/-- Registers of a lane from a base on. -/
def Cx.readVs (c : Cx) (s : State) (n k lane : Nat) : List Word := (List.range' n k).map (fun r => c.readV s r lane)

/-- Flips the signs of a packed source when the prefix says so (R138). -/
def negW (on : Bool) (f : Option Fmt) (w : Word) : Word :=
  if on then (match f with | some g => w ^^^ g.signMask | none => w) else w

/-- The sources of one lane. -/
def Cx.sources (c : Cx) (s : State) (o : VOp) (p : Prep) (lane : Nat) : LaneIn :=
  let x := c.xp
  { lane := lane
    a := ((o.a.map (fun q => c.readVs s p.a q.2 lane)).getD []).map (negW x.n o.fa)
    b := (match o.bs, o.b with
      | some n, _ => [c.readS s n]
      | none, some (_, k) => c.readVs s p.b k lane
      | none, none => []).map (negW x.o o.fb)
    c := if o.c then c.readV s p.c lane else 0
    d := if o.keepD then c.readVs s p.d ((o.d.map Prod.snd).getD 0) lane else []
    rng := c.w.ctl.srng.getD lane 0 }

/-- Sub-element i of a register in a format (R115). -/
def sub (f : Fmt) (w : Word) (i : Nat) : Nat := w.toNat / 2 ^ (f.width * i) % 2 ^ f.width

/-- Every sub-element of a register. -/
def subs (f : Fmt) (w : Word) : List Nat := (List.range f.per).map (sub f w)

/-- Packs sub-elements into a register. -/
def packSubs (f : Fmt) : List Nat → Nat
  | [] => 0
  | x :: t => x + 2 ^ f.width * packSubs f t

/-- The first register of an operand that holds a signalling NaN in a lane (R70). -/
def snanReg (f : Option Fmt) (part : Option Nat) (base : Nat) : List Word → Option Nat
  | [] => none
  | w :: t =>
    let bad := match f, part with
      | some g, some i => isSnan g (sub g w i)
      | some g, none => (subs g w).any (isSnan g)
      | none, _ => false
    if bad then some base else snanReg f part (base + 1) t

/-- The lowest of optional numbers. -/
def lowestOf : List (Option Nat) → Option Nat
  | [] => none
  | none :: t => lowestOf t
  | some a :: t =>
    match lowestOf t with
    | some b => some (min a b)
    | none => some a

/-- SNAN_USE of one operand over the lanes: the lowest register that holds one, and the failing lanes (R70, R105). -/
def snanOp (operand : Nat) (found : List (Nat × Option Nat)) : Option Stop :=
  match lowestOf (found.map Prod.snd) with
  | none => none
  | some r => some (trapMask 0x04 (operand * 256 + r % 256)
      (maskOf ((found.filter (fun p => p.2.isSome)).map Prod.fst)))

/-- SNAN_USE of a vector instruction, operands in the order A, B, C (R70; log 15). -/
def Cx.snan (_c : Cx) (o : VOp) (p : Prep) (ins : List LaneIn) : Except Stop Unit :=
  if !poison p.fmode then .ok ()
  else
    let bn := o.bs.getD p.b
    match snanOp 1 (ins.map (fun i => (i.lane, snanReg o.fa o.partA p.a i.a))),
          snanOp 2 (ins.map (fun i => (i.lane, snanReg o.fb none bn i.b))),
          snanOp 3 (ins.map (fun i => (i.lane, if o.c then snanReg o.fc none p.c [i.c] else none))) with
    | some t, _, _ => .error t
    | none, some t, _ => .error t
    | none, none, some t => .error t
    | none, none, none => .ok ()

/-- The trap of R125 for flags some lane raises. -/
def Cx.flagCheck (c : Cx) (fmode : Word) (fl : Word) : Except Stop Unit :=
  match flagTrap fmode fl with
  | some code => .error (.trap { cause := 0x19, info1 := BitVec.ofNat 32 code, info2 := c.pc.setWidth 32,
                                 info3 := c.pc.extractLsb' 32 32 })
  | none => .ok ()

/-- Destination words by lane: results in active lanes, zero in excluded lanes of the entry under ZERO (R138; log 16 for a
result that is a part of its register). -/
def Cx.destVals (c : Cx) (p : Prep) (outs : List (Nat × LaneOut)) (k : Nat) : KMap Word :=
  (lanesOf c.mask).filterMap (fun i =>
    if p.act.getLsbD i then (outs.find? (fun q => q.1 == i)).map (fun q => (i, nth q.2.ws k 0))
    else if c.xp.z then some (i, 0) else none)

/-- The generators after an instruction: they advance at issue (R120). -/
def State.setRngs (s : State) (uid : Nat) (outs : List (Nat × LaneOut)) : State :=
  let l := outs.filter (fun q => (s.warp uid).ctl.srng.getD q.1 0 != q.2.rng)
  if l.isEmpty then s
  else s.modWarp uid (fun w => { w with ctl := { w.ctl with srng := l.foldl (fun m q => m.set q.1 q.2.rng) w.ctl.srng } })

/-- A parked write of LSTAT by MTC that flags must not overtake in interlocked mode (R81, R123). -/
def Cx.lstatBusy (c : Cx) (act : Lanes) : Bool :=
  c.w.id.mode == .interlocked && c.w.iss.outstanding.any (fun r => r.names.any (fun n => n.meets (.lstat act)))

/-- The end of a vector instruction: the traps of R125, the generators, and one result with every destination. -/
def Cx.finish (c : Cx) (s : State) (o : VOp) (p : Prep) (outs : List (Nat × LaneOut)) : Except Stop (State × Flow) := do
  c.flagCheck p.fmode (orFlags (outs.map (fun q => q.2.fl)))
  let k := (o.d.map Prod.snd).getD 0
  let dl := if c.xp.z then c.mask else p.act
  let fv := flagVals (outs.map (fun q => (q.1, q.2.fl)))
  if !fv.isEmpty && c.lstatBusy p.act then .error (.park .operand s)
  else
    let writes := (List.range k).filterMap (fun i =>
      let vals := c.destVals p outs i
      if vals.isEmpty then none else some (RegWrite.v (p.d + i) vals))
    let fw := if fv.isEmpty then [] else [RegWrite.flags fv]
    .ok ((s.setRngs c.uid outs).result c o.lat (vNames p.d k dl) (writes ++ fw), .next)

/-- A vector instruction that computes each lane by itself (R138). -/
def Cx.vop (c : Cx) (s : State) (o : VOp) (f : FEnv → LaneIn → LaneOut) : Except Stop (State × Flow) := do
  let p ← c.prep s o
  let ins := (lanesOf p.act).map (c.sources s o p)
  c.snan o p ins
  c.finish s o p (ins.map (fun i => (i.lane, f p.env i)))

/-- A vector instruction whose lanes see one another (R154): `f` gets PART.TILE, the active lanes and every lane's A.
`reads` names the lanes whose A is read. -/
def Cx.xop (c : Cx) (s : State) (o : VOp) (reads : Nat → Lanes → List LaneIn → Lanes)
    (f : FEnv → Nat → Lanes → (Nat → Word) → LaneIn → LaneOut) : Except Stop (State × Flow) := do
  let p ← c.prep s { o with extra := [RegName.part], crossA := true }
  let ins := (lanesOf p.act).map (c.sources s o p)
  let tile := bits (c.readPart s).toNat 2 0
  c.touch s [RegName.v p.a (reads tile p.act ins)]
  c.snan o p ins
  c.finish s o p (ins.map (fun i => (i.lane, f p.env tile p.act (fun l => c.readV s p.a l) i)))

/-- The magnitude code of weight patterns after reset: k_i is bit i of the entry's number (R116). -/
def magReset (m : Nat) : Word :=
  BitVec.ofNat 32 ((List.range 8).foldl (fun n i => n + (if bitAt m i then 16 ^ i else 0)) 0)

/-- An entry of the core's magnitude table: with an LQTBL in progress that writes it, any of its values; one whose 32 clocks
are over has completed (R116, R165). -/
def Cx.magEntry (c : Cx) (s : State) (m : Nat) : Word :=
  let k := s.core c.core
  let mine (q : LqWrite) : List Word := (q.writes.filter (fun p => p.1 == m)).map Prod.snd
  let held := ((k.lq.filter (fun q => decide (q.due ≤ k.cyc))).flatMap mine).getLastD (k.mag.getD m (magReset m))
  match (k.lq.filter (fun q => decide (k.cyc < q.due))).flatMap mine with
  | [] => held
  | vs => nth (held :: vs) (s.choose (5000 + m) (vs.length + 1)) held

/-- A vector instruction whose lanes read B of other lanes, or the magnitude table (R130, R150, R163). -/
def Cx.bop (c : Cx) (s : State) (o : VOp) (f : FEnv → (Nat → Word) → (Nat → Word) → LaneIn → LaneOut) :
    Except Stop (State × Flow) := do
  let p ← c.prep s o
  let ins := (lanesOf p.act).map (c.sources s o p)
  c.snan o p ins
  c.finish s o p (ins.map (fun i => (i.lane, f p.env (fun l => c.readV s p.b l) (c.magEntry s) i)))

/-- A compare: one bit of a mask for each active lane (R152). -/
def Cx.cmpop (c : Cx) (s : State) (o : VOp) (md : Nat) (f : FEnv → LaneIn → Bool × Word) : Except Stop (State × Flow) := do
  let p ← c.prep s { o with extra := if md = 0 then [] else [RegName.m md] }
  let ins := (lanesOf p.act).map (c.sources s o p)
  c.snan o p ins
  let outs := ins.map (fun i => (i.lane, f p.env i))
  c.flagCheck p.fmode (orFlags (outs.map (fun q => q.2.2)))
  let fv := flagVals (outs.map (fun q => (q.1, q.2.2)))
  if !fv.isEmpty && c.lstatBusy p.act then .error (.park .operand s)
  else
    let sel := if c.xp.z then c.mask else p.act
    let val := maskOf ((outs.filter (fun q => q.2.1)).map Prod.fst)
    let mw := if md = 0 || sel = 0 then [] else [RegWrite.m md sel val]
    let fw := if fv.isEmpty then [] else [RegWrite.flags fv]
    .ok (s.result c o.lat (if md = 0 then [] else [RegName.m md]) (mw ++ fw), .next)

/-- A scalar instruction: S sources and S destinations, no prefix (R158). -/
def Cx.sop (c : Cx) (s : State) (lat : Nat) (srcs : List Nat) (outs : List (Nat × Word)) : Except Stop (State × Flow) := do
  c.noXp
  c.touch s ((srcs ++ outs.map Prod.fst).map RegName.s)
  .ok (s.result c lat (outs.map (fun p => RegName.s p.1)) (outs.map (fun p => RegWrite.s p.1 p.2)), .next)

/-! The input log (R404). -/

/-- The input-log kind of a word's register result: 1 for memory instructions, 5 for sampled ones, 0 for what is computed
inside the core (R404). -/
def logKind (word : Word) : Nat :=
  let minor := bits word.toNat 24 21
  match bits word.toNat 30 25 with
  | 0x1A => 1
  | 0x1C => if minor / 2 = 7 then 5 else 1
  | 0x1E => 1
  | 0x1F => 1
  | 0x20 => 1
  | 0x24 => if minor = 1 then 1 else 0
  | 0x21 => if minor = 7 then 5 else 0
  | 0x22 => if minor = 4 then 5 else 0
  | 0x23 => if minor = 5 || minor = 6 then 5 else 0
  | 0x25 => if minor = 4 then 5 else 0
  | 0x26 => if minor = 4 then 5 else 0
  | 0x27 => if minor = 2 then 5 else 0
  | _ => 0

/-- The payload of a logged register write (R404). -/
def logWords : RegWrite → List Word
  | .v n vals => maskWords (maskOf vals.keys) ++ BitVec.ofNat 32 n :: vals.vals
  | .s n w => [BitVec.ofNat 32 n, w]
  | _ => []

/-- Logs a returning result (R404). -/
def State.logResult (s : State) (uid : Nat) (r : Result) : State :=
  if logKind r.word = 0 then s
  else r.writes.foldl (fun s w => s.logWarp uid (logKind r.word) (logWords w)) s

end Sys2Proof.Machine
end

