-- ==== Sys2Proof/Machine/Keys.lean ====
section
/-! DEFINITION. The key engine's operations: members and generations (R166 to R171), dependences and when they are
satisfied (R171, R173), tickets (R180), claims and chimes (R181 to R183). -/

namespace Sys2Proof.Machine

open Sys2Proof

/-- A key of a warp. -/
def Warp.key (w : Warp) (k : Nat) : Key := nth w.kf.keys k {}

/-- The warp with a key replaced. -/
def Warp.setKey (w : Warp) (k : Nat) (x : Key) : Warp := { w with kf := { w.kf with keys := setAt w.kf.keys k x } }

/-- The OPEN slot of a ring, with its place. -/
def Key.open1 (x : Key) : Nat × GenSlot := (findIx (fun g => g.st == .opened) x.ring 0).getD (0, { st := .opened })

/-- Sequence number of the OPEN slot. -/
def Key.seq (x : Key) : BitVec 16 := x.open1.2.seq

/-- Whether a slot holds a member; claims count unless they are left out (R171). -/
def GenSlot.holds (g : GenSlot) (claims : Bool) : Bool := g.st != .free && (g.members != 0 || (claims && g.claims != 0))

/-- Whether no generation of the key holds a member (R170). -/
def Key.drained (x : Key) : Bool := x.ring.all (fun g => !g.holds true)

/-- How far a generation of a key lies below its OPEN one, modulo 65,536 (R171). -/
def Key.below (x : Key) (g : BitVec 16) : Nat := (x.seq - g).toNat

/-- Whether a component is satisfied: no slot at or below its generation holds a member. Four generations are live, so one
further below than three has none (R170, R171). -/
def Warp.compOk (w : Warp) (claims : Bool) (c : Nat × BitVec 16) : Bool :=
  let x := w.key c.1
  decide (3 < x.below c.2) || x.ring.all (fun g => !(g.holds claims && decide (x.below c.2 ≤ x.below g.seq)))

/-- Whether a dependence of a warp is satisfied (R171). -/
def Warp.depOk (w : Warp) (d : Dep) : Bool := d.comps.all (w.compOk (!d.all))

/-- Whether two dependences are the same: their components are, in any order (R180). -/
def Dep.same (a b : Dep) : Bool := a.all == b.all && a.comps.all b.comps.contains && b.comps.all a.comps.contains

/-- Seal of one key (R170, R171); none when the next slot is not FREE. -/
def Key.seal (x : Key) : Option Key :=
  let (i, g) := x.open1
  if !g.holds true then some x
  else
    let j := (i + 1) % 4
    if (nth x.ring j {}).st == .free then
      some { x with ring := setAt (setAt x.ring i { g with st := .sealed }) j { st := .opened, seq := g.seq + 1 } }
    else none

/-- Seals K0 to K14, from a number on. -/
def Warp.sealFrom (w : Warp) : Nat → Nat → Option Warp
  | 0, _ => some w
  | n + 1, k =>
    match (w.key k).seal with
    | some x => (w.setKey k x).sealFrom n (k + 1)
    | none => none

/-- Operations that have left their generation and are not performed everywhere: the key they produced, the operation and its
generation. -/
abbrev Lates := List (Nat × Nat × BitVec 16)

/-- The late operations of some key. -/
def Lates.of (l : Lates) (k : Nat) : List Nat := (l.filter (fun p => p.1 == k)).map (fun p => p.2.1)

/-- ALL, with every component at this instant (R171). -/
def Warp.consumeAll (w : Warp) (l : Lates) : Option (Dep × Warp) :=
  match w.sealFrom 15 0 with
  | some v => some ({ all := true, comps := (List.range 15).map (fun k => (k, (v.key k).seq - 1)), late := l.map (fun p => p.2.1) }, v)
  | none => none

/-- The union of component lists, the highest generation for each key (R171). -/
def Warp.unionComps (w : Warp) : List (Nat × BitVec 16) → List (Nat × BitVec 16) → List (Nat × BitVec 16)
  | a, [] => a
  | a, (k, g) :: t =>
    match a.find? (fun p => p.1 == k) with
    | some p => w.unionComps (if (w.key k).below g ≤ (w.key k).below p.2 then (k, g) :: a.filter (fun q => q.1 != k) else a) t
    | none => w.unionComps (a ++ [(k, g)]) t

/-- The late operations of the generations that a component covers. -/
def Warp.lateIn (w : Warp) (l : Lates) (c : Nat × BitVec 16) : List Nat :=
  (l.filter (fun p => p.1 == c.1 && decide ((w.key c.1).below c.2 ≤ (w.key c.1).below p.2.2))).map (fun p => p.2.1)

/-- Merge (R171): satisfied components are dropped, and more than four, or ALL, give ALL at this instant. Operations of a component
that are not performed everywhere stay late when it is dropped; those performed everywhere are late no more (R181). -/
def Warp.merge (w : Warp) (l : Lates) (a b : Dep) : Option (Dep × Warp) :=
  if a.all || b.all then w.consumeAll l
  else
    let all := w.unionComps a.comps b.comps
    let cs := all.filter (fun c => !w.compOk true c)
    let dropped := (all.filter (w.compOk true)).flatMap (w.lateIn l)
    if 4 < cs.length then w.consumeAll l
    else some ({ comps := cs, late := (l.map (fun p => p.2.1)).filter (fun i =>
      a.late.contains i || b.late.contains i || dropped.contains i) }, w)

/-- Consume of a key (R171); none while a ring has no free slot. -/
def Warp.consume (w : Warp) (l : Lates) (k : Nat) : Option (Dep × Warp) :=
  if k = 0 then some ({}, w)
  else if k = 15 then w.consumeAll l
  else
    match (w.key k).seal with
    | none => none
    | some x =>
      let v := w.setKey k x
      v.merge l { comps := [(k, x.seq - 1)], late := l.of k } x.inh

/-- Whether an operation is still to be performed at some scope. -/
def Op.unfinished (o : Op) : Bool := o.units.any (fun u => !u.done)

/-- Whether every operation of the covered generations has been performed at DEV and beyond, those that left them at a
narrower scope included (R173, R181). -/
def State.coverOk (s : State) (uid : Nat) (d : Dep) : Bool :=
  let w := s.warp uid
  s.ops.all (fun kv => !(kv.2.uid == uid && kv.2.unfinished && (d.late.contains kv.1 ||
    d.comps.any (fun c => kv.2.key == c.1 && decide ((w.key c.1).below c.2 ≤ (w.key c.1).below kv.2.seq)))))

/-- The late operations of a warp. -/
def State.lates (s : State) (uid : Nat) : Lates :=
  (s.ops.filter (fun kv => kv.2.uid == uid && kv.2.mem.isNone && kv.2.unfinished)).map (fun kv => (kv.2.key, kv.1, kv.2.seq))

/-- Consume for the warp that issues: KEY_RING while the ring is full. -/
def Cx.consume (c : Cx) (s : State) (k : Nat) : Except Stop (Dep × State) :=
  match (s.warp c.uid).consume (s.lates c.uid) k with
  | some (d, w) => .ok (d, s.putWarp c.uid w)
  | none => .error (.park .keyRing s)

/-- A new member of the OPEN generation of a key (R168): its identifier; K15 is KEY_ALL_PRODUCE, a full count KEY_RING. -/
def Cx.produce (c : Cx) (s : State) (k : Nat) (claim : Bool) : Except Stop (Nat × State) :=
  if k = 15 then .error (trapOf 0x0B)
  else
    let w := s.warp c.uid
    let x := w.key k
    let (i, g) := x.open1
    if 65535 ≤ g.members + g.claims then .error (.park .keyRing s)
    else
      let g' := if claim then { g with claims := g.claims + 1 } else { g with members := g.members + 1 }
      let r := s.newId
      .ok (r.1, { r.2.putWarp c.uid (w.setKey k { x with ring := setAt x.ring i g' }) with
        members := r.2.members.set r.1 { uid := c.uid, key := k, seq := g.seq, claim := claim } })

/-- The keys of an operation: consumed first, then produced into (R171). K15 as produce key is found before anything. -/
def Cx.keys (c : Cx) (s : State) (kc kp : Nat) : Except Stop (Dep × Nat × State) :=
  if kp = 15 then .error (trapOf 0x0B)
  else do
    let (d, s1) ← c.consume s kc
    match c.produce s1 kp false with
    | .ok (m, s2) => .ok (d, m, s2)
    | .error (.park r _) => .error (.park r s)
    | .error e => .error e

/-- A slot one member down; a SEALED slot without members becomes FREE (R170). -/
def GenSlot.less (g : GenSlot) (claim : Bool) : GenSlot :=
  let h := if claim then { g with claims := g.claims - 1 } else { g with members := g.members - 1 }
  if h.st == .sealed && h.members == 0 && h.claims == 0 then { h with st := .free } else h

/-- A member leaves its generation (R169, R170). -/
def State.leave (s : State) (id : Nat) : State :=
  match s.members.get? id with
  | none => s
  | some m =>
    let s1 := { s with members := s.members.erase id }
    if (s.warps.get? m.uid).isNone then s1
    else s1.modWarp m.uid (fun w =>
      let x := w.key m.key
      w.setKey m.key { x with ring := x.ring.map (fun g => if g.st != .free && g.seq == m.seq then g.less m.claim else g) })

/-- An optional member leaves. -/
def State.leaveO (s : State) : Option Nat → State
  | some id => s.leave id
  | none => s

/-- Whether a dependence of a resident or saved warp is satisfied; of a warp that is gone it is. -/
def State.depOk (s : State) (uid : Nat) (d : Dep) : Bool :=
  match s.warps.get? uid with
  | some w => w.depOk d
  | none => true

/-- The scope of a warp's key; K0 has DEV (R166). -/
def Warp.scopeOf (w : Warp) (k : Nat) : Scope := if k = 0 then .dev else (w.key k).scope

/-- The distinct dependences a warp's unreleased stores and atomics hold (R180). -/
def State.tickets (s : State) (uid : Nat) : List Dep :=
  (s.ops.vals.filter (fun o => o.uid == uid && !o.released && !s.depOk uid o.dep && o.kind != .pres &&
    (match o.kind with | .load _ => false | .ldl _ => false | _ => true))).foldl
    (fun l o => if l.any o.dep.same then l else l ++ [o.dep]) []

/-! Claims (R182, R193). -/

/-- Satisfies claims in issue order by chimes in inbox order: the S pair is written under R17's rules. -/
def State.serveClaims (s : State) (uid : Nat) : Nat → State
  | 0 => s
  | n + 1 =>
    let w := s.warp uid
    match w.kf.claims, w.kf.inbox with
    | cl :: ct, ib :: it =>
      let w1 := { w with
        kf := { w.kf with claims := ct, inbox := it }
        regs := { w.regs with s := (w.regs.s.set cl.sd ib.tag).set (cl.sd + 1) ib.sender }
        iss := { w.iss with status := w.iss.status.filter (fun p => p.owner != .claim cl.id) } }
      (((s.putWarp uid w1).logWarp uid 3 [ib.tag, ib.sender]).leaveO cl.mem).serveClaims uid n
    | _, _ => s

/-- Cancels the claims and chimes of a warp whose last lanes have exited (R182), and discards its status writes (R17). -/
def State.cancelClaims (s : State) (uid : Nat) : State :=
  let w := s.warp uid
  let s1 := s.putWarp uid { w with kf := { w.kf with claims := [], inbox := [] }, iss := { w.iss with status := [] } }
  w.kf.claims.foldl (fun s cl => s.leaveO cl.mem) s1

/-! Status writes (R16, R17). -/

/-- Status words of a V register: written for the lanes that still live, the pending mark cleared. A matrix post that waits for
capture may still take the old words (R286). -/
def State.statusLanes (s : State) (uid : Nat) (own : Owner) (n : Nat) (vals : KMap Word) : State :=
  if (s.warps.get? uid).isNone then s
  else
    ((s.logWarp uid 4 (maskWords (maskOf vals.keys) ++ BitVec.ofNat 32 n :: vals.vals)).modWarp uid (fun w =>
      { w with iss := { w.iss with status := w.iss.status.filter (fun p => p.owner != own) } })).writeback uid
      [.v n (vals.filter (fun v => (s.warp uid).live.getLsbD v.1))] (fun _ => true)

/-- The status word of a V register of one lane. -/
def State.statusV (s : State) (uid : Nat) (own : Owner) (n lane : Nat) (v : Word) : State := s.statusLanes uid own n [(lane, v)]

/-- The status word of an S register. -/
def State.statusS (s : State) (uid : Nat) (own : Owner) (n : Nat) (v : Word) : State :=
  if (s.warps.get? uid).isNone then s
  else (s.logWarp uid 4 [BitVec.ofNat 32 n, v]).modWarp uid (fun w =>
    { w with iss := { w.iss with status := w.iss.status.filter (fun p => p.owner != own) }
             regs := { w.regs with s := w.regs.s.set n v } })

/-- Marks a status write pending. -/
def State.statusPend (s : State) (uid : Nat) (own : Owner) (n : RegName) : State :=
  s.modWarp uid (fun w => { w with iss := { w.iss with status := w.iss.status ++ [{ reg := n, owner := own }] } })

end Sys2Proof.Machine
end

