-- ==== Sys2Proof/Machine/Control.lean ====
section
/-! DEFINITION. Attached words (R46 to R53) and the control-flow instructions (R86 to R99). -/

namespace Sys2Proof.Machine

open Sys2Proof

/-! Attached words. -/

/-- An attached word issues: it is counted, a ninth is ILL, and the group's pending state takes its effect (R47, R50).
In a mode that obeys HSTALL the target waits from here on (R52). -/
def State.attach (s : State) (sw : Bool) (f : Group → Except Stop Group) : Host.Outcome State Fault Refusal :=
  match s.cx with
  | none => .fault .noIssuer
  | some c =>
    if 8 ≤ c.g.count then .next (s.raise c { cause := 0x01 })
    else
      match f c.g with
      | .ok g =>
        .next (s.modWarp c.uid (fun w => { w with iss := { w.iss with
          grp := some { g with count := g.count + 1, here := g.here + 4, s := g.s || sw }
          stall := none
          stallTo := if w.id.mode != .interlocked then (s.core c.core).cyc + g.stall.toNat else 0
          words := w.iss.words + 1 } }))
      | .error (.trap t) => .next (s.raise c t)
      | .error (.park r s') => .next (s'.parkWarp c.uid r)
      | .error (.poison p) => .next (s.endPoisoned c p)
      | .error (.halt e) => .fault e

/-- HNOP and minors 8 to 15: nothing (R49). -/
def execHnop (o : FHnop) (s : State) : Host.Outcome State Fault Refusal := s.attach o.sw .ok

/-- HIMM.LO (R50). -/
def execHimmLo (o : FHimm) (s : State) : Host.Outcome State Fault Refusal :=
  s.attach o.sw (fun g => .ok { g with pimm := some (o.v.signExtend 32) })

/-- HIMM.HI (R50). -/
def execHimmHi (o : FHimm) (s : State) : Host.Outcome State Fault Refusal :=
  s.attach o.sw (fun g => .ok { g with pimm := some (o.v ++ (g.pimm.getD 0).setWidth 16) })

/-- HOFS (R50). -/
def execHofs (o : FHofs) (s : State) : Host.Outcome State Fault Refusal :=
  s.attach o.sw (fun g => .ok { g with ofs := o.o.signExtend 64 })

/-- HCACHE: a policy that changes no result; 5 to 7 act as 0 (R49, R52). -/
def execHcache (o : FH3) (s : State) : Host.Outcome State Fault Refusal :=
  s.attach o.sw (fun g => .ok { g with cache := o.p })

/-- HREUSE (R50). -/
def execHreuse (o : FH3) (s : State) : Host.Outcome State Fault Refusal :=
  s.attach o.sw (fun g => .ok { g with reuse := o.p })

/-- HSTALL (R50). -/
def execHstall (o : FHstall) (s : State) : Host.Outcome State Fault Refusal :=
  s.attach o.sw (fun g => .ok { g with stall := o.n })

/-- HPRIO acts at once on the warp (R52). -/
def execHprio (o : FHprio) (s : State) : Host.Outcome State Fault Refusal :=
  match s.cx with
  | none => .fault .noIssuer
  | some c =>
    if 8 ≤ c.g.count then s.attach o.sw .ok
    else (s.modWarp c.uid (fun w => { w with iss := { w.iss with prio := o.p } })).attach o.sw .ok

/-- XP: a second one in a group is ILL (R47, R50). -/
def execXp (o : FXp) (s : State) : Host.Outcome State Fault Refusal :=
  s.attach o.sw (fun g => if g.xp.isSome then .error ill else .ok { g with xp := some o })

/-! Branches and calls. -/

/-- The target of a word offset (R35). -/
def Cx.target (c : Cx) (ofs : BitVec 64) : Addr := c.pc + 4 * ofs

/-- The address after a word. -/
def Cx.nextPc (c : Cx) : Addr := c.pc + 4

/-- An entry of the active word's priority. -/
def Cx.ent (c : Cx) (pc : Addr) (m : Lanes) : Ent := { pc := pc, prio := c.g.prio, mask := m }

/-- A conditional branch (R89): `taken` from the mask register and the active lanes. -/
def State.branch (s : State) (o : FBr) (taken : Lanes → Lanes → Lanes) : Host.Outcome State Fault Refusal :=
  s.runTarget o.sw (fun c s => do
    c.noXp
    c.touch s (if o.m = 0 then [] else [RegName.m o.m.toNat])
    let t := taken (c.readM s o.m.toNat) c.mask
    .ok (s, .goto [{ pc := c.target (o.o.signExtend 64), prio := o.p, mask := t }, c.ent c.nextPc (c.mask &&& ~~~t)]))

/-- BR.T (R89). -/
def execBrT (o : FBr) (s : State) : Host.Outcome State Fault Refusal := s.branch o (fun m a => m &&& a)

/-- BR.F (R89). -/
def execBrF (o : FBr) (s : State) : Host.Outcome State Fault Refusal := s.branch o (fun m a => a &&& ~~~m)

/-- BR.ANY (R89). -/
def execBrAny (o : FBr) (s : State) : Host.Outcome State Fault Refusal :=
  s.branch o (fun m a => if m &&& a != 0 then a else 0)

/-- BR.ALL (R89). -/
def execBrAll (o : FBr) (s : State) : Host.Outcome State Fault Refusal :=
  s.branch o (fun m a => if m &&& a == a then a else 0)

/-- The link pair of the active lanes, written as a register result (R28, R90). -/
def Cx.link (c : Cx) (s : State) : State :=
  let ls := lanesOf c.mask
  let r := c.nextPc
  s.result c 2 [.v 126 c.mask, .v 127 c.mask]
    [.v 126 (ls.map (fun i => (i, r.setWidth 32))), .v 127 (ls.map (fun i => (i, r.extractLsb' 32 32)))]

/-- The names of the link pair. -/
def Cx.linkNames (c : Cx) : List RegName := [.v 126 c.mask, .v 127 c.mask]

/-- CALL (R90). -/
def execCall (o : FCall) (s : State) : Host.Outcome State Fault Refusal :=
  s.runTarget o.sw (fun c s => do
    c.noXp
    c.touch s c.linkNames
    c.bWrites s [126, 127] c.mask
    .ok (c.link s, .goto [c.ent (c.target (o.o.signExtend 64)) c.mask]))

/-- The write rule of an L register (R43). -/
def lnorm (x : Word) : Word :=
  let size := bits x.toNat 31 24
  let ring := bits x.toNat 23 16
  BitVec.ofNat 32 (size * 2 ^ 24 + (if 2 ≤ size then ring % size else 0) * 2 ^ 16 + x.toNat % 2 ^ 16)

/-- One count-down of an L register (R91). -/
def ldown (x : Word) : Word :=
  let n := x.toNat % 2 ^ 16
  let size := bits x.toNat 31 24
  let ring := bits x.toNat 23 16
  if n = 0 then x
  else BitVec.ofNat 32 (size * 2 ^ 24 + (if 2 ≤ size then (ring + 1) % size else ring) * 2 ^ 16 + (n - 1))

/-- LOOPB writes a counter that an LSET of its run may still write: of the two values the counter ends with either, freely (R78),
so the LSET's may be lost. -/
def State.loopRace (s : State) (c : Cx) (n : Nat) : State :=
  if c.w.hazards [.l n] = [] || s.choose (230 + n + 10) 2 = 0 then s
  else s.modWarp c.uid (fun w => { w with iss := { w.iss with outstanding := w.iss.outstanding.map (fun r =>
    { r with writes := r.writes.filter (fun x => match x with | .l k _ => k != n | _ => true) }) } })

/-- LOOPB (R91). -/
def execLoopb (o : FLoop) (s : State) : Host.Outcome State Fault Refusal :=
  s.runTarget o.sw (fun c s => do
    c.noXp
    c.touch s [RegName.l o.l.toNat]
    let x := c.readL s o.l.toNat
    let s' := (s.loopRace c o.l.toNat).modWarp c.uid (fun w => { w with regs := { w.regs with l := w.regs.l.set o.l.toNat (ldown x) } })
    if 1 < x.toNat % 2 ^ 16 then
      .ok (s', .goto [{ pc := c.target (o.o.signExtend 64), prio := o.p, mask := c.mask }])
    else .ok (s', .goto [c.ent c.nextPc c.mask]))

/-- An indirect transfer through a pair of V registers (R93): every active lane to its own target. -/
def Cx.indirect (c : Cx) (s : State) (n : Nat) (call : Bool) : Except Stop (State × Flow) := do
  c.noXp
  let a ← c.resolve 1 c.mask none n 2
  c.touch s (vNames a 2 c.mask ++ (if call then c.linkNames else []))
  if call then c.bWrites s [126, 127] c.mask else .ok ()
  let ts := (lanesOf c.mask).map (fun i => (i, pair (c.readV s a i) (c.readV s (a + 1) i)))
  match ts.find? (fun p => p.2.toNat % 4 != 0) with
  | some (i, t) => .error (trapLane 0x06 i t)
  | none => .ok (if call then c.link s else s, .goto (ts.map (fun p => c.ent p.2 (laneBit p.1))))

/-- JMPI (R93). -/
def execJmpi (o : FA) (s : State) : Host.Outcome State Fault Refusal :=
  s.runTarget o.sw (fun c s => c.indirect s o.a.toNat false)

/-- CALLI: the pair is read before the link is written (R93). -/
def execCalli (o : FA) (s : State) : Host.Outcome State Fault Refusal :=
  s.runTarget o.sw (fun c s => c.indirect s o.a.toNat true)

/-- RET (R93). -/
def execRet (o : FNone) (s : State) : Host.Outcome State Fault Refusal :=
  s.runTarget o.sw (fun c s => c.indirect s 126 false)

/-! Rejoin registers (R86). -/

/-- A strike of lanes from a rejoin register: its next state and the entry a release adds. -/
def Rejoin.strike (j : Rejoin) (a : Lanes) : Rejoin × List Ent :=
  let e := j.e &&& ~~~a
  if j.a = 0 then (if e = 0 then {} else { j with e := e }, [])
  else if e = j.a then ({}, [{ pc := j.pc + 4, prio := j.prio, mask := j.a }])
  else ({ j with e := e }, [])

/-- ENROL of lanes. -/
def Rejoin.enrol (j : Rejoin) (a : Lanes) (prio : BitVec 3) : Rejoin :=
  if j.a = 0 then { e := a, a := 0, pc := 0, prio := prio } else { j with e := j.e ||| a }

/-- JOIN of lanes at an address: the lanes that continue, the register after it and the entry a release adds; none for
a second address in WAIT. -/
def Rejoin.join (j : Rejoin) (a : Lanes) (pc : Addr) : Option (Lanes × Rejoin × List Ent) :=
  if j.e = 0 then some (a, j, [])
  else if j.a = 0 then
    if a &&& j.e = 0 then some (a, j, [])
    else if a &&& j.e = j.e then some (a &&& ~~~j.e, {}, [{ pc := pc + 4, prio := j.prio, mask := j.e }])
    else some (a &&& ~~~j.e, { j with a := a &&& j.e, pc := pc }, [])
  else if pc ≠ j.pc then none
  else
    let n := j.a ||| (a &&& j.e)
    if n = j.e then some (a &&& ~~~j.e, {}, [{ pc := j.pc + 4, prio := j.prio, mask := n }])
    else some (a &&& ~~~j.e, { j with a := n }, [])

/-- The state with a rejoin register written. -/
def State.putJ (s : State) (uid n : Nat) (j : Rejoin) : State :=
  s.modWarp uid (fun w => { w with regs := { w.regs with j := w.regs.j.set n j } })

/-- Entries of a release while a handler runs: lanes of the handler issue, others stay held (R100). -/
def Warp.letIn (w : Warp) (es : List Ent) : Warp × List Ent :=
  if w.hnd.on then
    let out := es.map (fun e => { e with mask := e.mask &&& ~~~w.hnd.emask })
    ({ w with hnd := { w.hnd with held := addEntries w.hnd.held out } },
      es.map (fun e => { e with mask := e.mask &&& w.hnd.emask }))
  else (w, es)

/-- ENROL (R86, R97). -/
def execEnrol (o : FJ) (s : State) : Host.Outcome State Fault Refusal :=
  s.runTarget o.sw (fun c s => do
    c.noXp
    .ok (s.putJ c.uid o.j.toNat ((c.w.jreg o.j.toNat).enrol c.mask c.g.prio), .next))

/-- JOIN (R86, R97). -/
def execJoin (o : FJ) (s : State) : Host.Outcome State Fault Refusal :=
  s.runTarget o.sw (fun c s => do
    c.noXp
    match (c.w.jreg o.j.toNat).join c.mask c.pc with
    | none => .error ill
    | some (go, j, es) =>
      let a := (s.warp c.uid).letIn es
      .ok ((s.putWarp c.uid a.1).putJ c.uid o.j.toNat j, .goto (c.ent c.nextPc go :: a.2)))

/-- STRIKE (R86, R97). -/
def execStrike (o : FJ) (s : State) : Host.Outcome State Fault Refusal :=
  s.runTarget o.sw (fun c s => do
    c.noXp
    let r := (c.w.jreg o.j.toNat).strike c.mask
    let a := (s.warp c.uid).letIn r.2
    .ok ((s.putWarp c.uid a.1).putJ c.uid o.j.toNat r.1, .goto (c.ent c.nextPc c.mask :: a.2)))

/-! Exit, software traps and the rest of CTL. -/

/-- The strikes of an EXIT, J0 first (R86). -/
def strikeAll (a : Lanes) : KMap Rejoin → KMap Rejoin × List Ent
  | [] => ([], [])
  | (n, j) :: t =>
    let r := j.strike a
    let u := strikeAll a t
    ((n, r.1) :: u.1, r.2 ++ u.2)

/-- The warp at the end of handler state: S56 to S63 and PART come back from the shadow (R99). -/
def Warp.leaveHandler (w : Warp) : Warp :=
  { w with
    hnd := { w.hnd with on := false, held := [] }
    regs := { w.regs with s := ([56, 57, 58, 59, 60, 61, 62, 63].zip w.hnd.shadowS).foldl (fun m p => m.set p.1 p.2) w.regs.s }
    ctl := { w.ctl with part := w.hnd.shadowPart } }

/-- The frontier reduced to the entry that issues, so that closing the group leaves what the flow adds. -/
def Warp.onlyHead (w : Warp) (c : Cx) : Warp :=
  { w with iss := { w.iss with frontier := [{ pc := c.g.pc, prio := c.g.prio, mask := c.mask }] } }

/-- The report a warp takes at an instruction: lowest cause first, then in order of arrival (R106). -/
def lowestReport : List Report → Option Report
  | [] => none
  | r :: t =>
    match lowestReport t with
    | some q => if q.cause < r.cause then some q else some r
    | none => some r

/-- The report due among those a test lets through, outside handler state, with the warp's other reports (R101, R106). -/
def Warp.due (w : Warp) (p : Report → Bool) : Option (Report × List Report) :=
  if w.hnd.on then none
  else
    match lowestReport (w.reports.filter p) with
    | some r => some (r, w.reports.erase r)
    | none => none

/-- Clears the violation flags of keys that no report names any more (R184). -/
def Warp.clearViol (w : Warp) : Warp :=
  { w with kf := { w.kf with keys := (w.kf.keys.zipIdx).map (fun p =>
      if w.reports.any (fun r => r.key == p.2) then p.1 else { p.1 with viol := false }) } }

/-- Delivers a due report as an imprecise trap (R106): the state without it, and the trap. -/
def State.deliver (s : State) (c : Cx) (r : Report) (rest : List Report) : State × TrapInfo :=
  (s.modWarp c.uid (fun w => ({ w with reports := rest }).clearViol),
    { cause := r.cause, imprecise := true, info2 := r.addr.setWidth 32, info3 := r.addr.extractLsb' 32 32 })

/-- Runs a target that first delivers the reports due at it (R106). -/
def State.runReporting (s : State) (sw : Bool) (p : Cx → Report → Bool) (body : Cx → State → Except Stop (State × Flow)) :
    Host.Outcome State Fault Refusal :=
  match s.cx with
  | none => .fault .noIssuer
  | some c =>
    match c.noXp, c.w.due (p c) with
    | .ok _, some (r, rest) => .next ((s.deliver c r rest).1.raise c (s.deliver c r rest).2)
    | _, _ => s.settle c sw (body c s)

/-- Whether the active lanes are the warp's last (R94). -/
def Cx.last (c : Cx) : Bool := c.w.live &&& ~~~c.mask == 0

/-- What the last EXIT of a warp waits for (R71, R216, R239, R256, R286), the lower index first (R395): register results,
members of its keys but claims and GWAITs (R379), values not yet visible, and triggered copies that had not fired when it came
to its EXIT or captures of its registers. -/
def State.exitWait (s : State) (u : Nat) : Option Stall :=
  let late := (s.copies.filter (fun kv => kv.2.uid == u && (kv.2.st == .armed || kv.2.atExit))).filterMap (fun kv => kv.2.mem)
  let gwaits := (s.reqs.filter (fun kv => kv.2.uid == u && kv.2.kind == .gWait)).filterMap (fun kv => kv.2.mem)
  let mine := (s.members.filter (fun kv => kv.2.uid == u && !kv.2.claim && !gwaits.contains kv.1)).map Prod.fst
  if !(s.warp u).iss.outstanding.isEmpty then some .switch
  else if mine.any (fun m => !late.contains m) then some .keyWait
  else if s.txs.any (fun kv => kv.2.uid == u) then some .portFull
  else if !mine.isEmpty || s.posts.any (fun kv => kv.2.buid == u && !kv.2.captured) then some .engine
  else none

/-- Triggered copies of a warp that have not fired when it comes to its last EXIT are marked so (R256). -/
def State.markExit (s : State) (u : Nat) : State :=
  { s with copies := s.copies.mapv (fun _ k => if k.uid == u && k.st == .armed then { k with atExit := true } else k) }

/-- Whether an EXIT of the active lanes ends handler state: it leaves no lane of the trap (R99). -/
def Cx.endsHandler (c : Cx) : Bool := c.w.hnd.on && c.w.hnd.emask &&& c.w.live &&& ~~~c.mask == 0

/-- EXIT (R71, R86, R94): the lanes leave the rejoin registers and the warp. The last EXIT waits for what retirement waits
for, and takes a refused result that it would wait for as NET_ACCESS (R216). When the last lane of a handler exits, handler
state ends as by ERET with an empty mask, once the register results outstanding have returned (R99); a report still pending
when that lane is also the warp's last is delivered first, from the state after the handler (log 21). -/
def execExit (o : FNone) (s : State) : Host.Outcome State Fault Refusal :=
  match s.cx with
  | none => .fault .noIssuer
  | some c0 =>
    if c0.g.xp.isNone && c0.endsHandler && c0.last && !c0.w.reports.isEmpty && !c0.w.busy then
      let s1 := s.putWarp c0.uid (c0.w.leaveHandler)
      match (s1.warp c0.uid).due (fun _ => true) with
      | some (r, rest) => .next ((s1.deliver c0 r rest).1.raise c0 (s1.deliver c0 r rest).2)
      | none => .next s
    else
      s.runReporting o.sw (fun c _ => c.last) (fun c s => do
        c.noXp
        match (if c.last then c.w.refusal (fun _ => true) else none), (if c.last then s.exitWait c.uid else none) with
        | some r, _ => .error (refusedTrap r)
        | none, some r => .error (.park r (s.markExit c.uid))
        | none, none => .ok ()
        if c.endsHandler && c.w.busy then .error (.park .switch s) else .ok ()
        let w := s.warp c.uid
        let r := strikeAll c.mask w.regs.j
        let w1 := { w with live := w.live &&& ~~~c.mask, regs := { w.regs with j := r.1 } }
        let a := w1.letIn r.2
        let w2 := a.1
        let w3 := if c.endsHandler then w2.leaveHandler.onlyHead c else w2
        let es := if c.endsHandler then w2.hnd.held ++ a.2 else a.2
        let s1 := s.putWarp c.uid w3
        .ok (if w1.live == 0#64 then (s1.cancelClaims c.uid).post (.warpRetire c.uid) else s1, .goto es))

/-- A software trap: its cause with the code and the word's address (R95). -/
def Cx.software (c : Cx) (cause : BitVec 6) (code : BitVec 7) : Except Stop (State × Flow) := do
  c.noXp
  .error (.trap { cause := cause, info1 := code.setWidth 32, info2 := c.pc.setWidth 32, info3 := c.pc.extractLsb' 32 32 })

/-- TRAP (R95). -/
def execTrap (o : FCode) (s : State) : Host.Outcome State Fault Refusal := s.runTarget o.sw (fun c _ => c.software 0x19 o.c)

/-- SYSC (R95). -/
def execSysc (o : FCode) (s : State) : Host.Outcome State Fault Refusal := s.runTarget o.sw (fun c _ => c.software 0x1A o.c)

/-- BRK (R95): its trap, or, while a debugger holds the context, a precise stop (R401). On resume the BRK that stopped does not
stop again, and then has no other effect (log 28). -/
def execBrk (o : FCode) (s : State) : Host.Outcome State Fault Refusal :=
  match s.cx with
  | none => .fault .noIssuer
  | some c =>
    if !(s.ctx c.ctx).held || c.g.xp.isSome then s.settle c o.sw (c.software 0x18 o.c)
    else if c.w.iss.skipBrk then s.settle c o.sw (.ok (s, .next))
    else .next (s.brkStop c.uid c.lane)

/-- YIELD: the warp counts as the most recently issued for the next 8 core clocks (R96). -/
def execYield (o : FNone) (s : State) : Host.Outcome State Fault Refusal :=
  s.runTarget o.sw (fun c s => do
    c.noXp
    .ok (s.modWarp c.uid (fun w => { w with iss := { w.iss with yield := (s.core c.core).cyc + 9 } }), .next))

/-- NOP (R96). -/
def execNop (o : FNone) (s : State) : Host.Outcome State Fault Refusal :=
  s.runTarget o.sw (fun c s => do
    c.noXp
    .ok (s, .next))

/-- LSET (R92). -/
def execLset (o : FLset) (s : State) : Host.Outcome State Fault Refusal :=
  s.runTarget o.sw (fun c s => do
    c.noXp
    c.touch s [RegName.s o.a.toNat, RegName.l o.l.toNat]
    .ok (s.result c 3 [.l o.l.toNat] [.l o.l.toNat (lnorm (c.readS s o.a.toNat))], .next))

/-- DRAIN (R98). -/
def execDrain (o : FNone) (s : State) : Host.Outcome State Fault Refusal :=
  s.runTarget o.sw (fun c s => do
    c.noXp
    if !c.w.iss.outstanding.isEmpty then
      match c.w.refusal (fun _ => true) with
      | some r => .error (refusedTrap r)
      | none => .error (.park .switch s)
    else if !c.w.iss.status.isEmpty then .error (.park .status s)
    else .ok (s, .next))

/-- ERET (R99): ILL outside handler state; waits for outstanding results; the trapped lanes that still live resume at EPC,
and the entries held since trap entry are eligible again. -/
def execEret (o : FNone) (s : State) : Host.Outcome State Fault Refusal :=
  s.runTarget o.sw (fun c s => do
    c.noXp
    if !c.w.hnd.on then .error ill
    else if c.w.busy then .error (.park .switch s)
    else
      let w := s.warp c.uid
      let e : Ent := { pc := w.hnd.epc, prio := w.hnd.ecause.extractLsb' 9 3, mask := w.hnd.emask &&& w.live }
      .ok (s.putWarp c.uid (w.leaveHandler.onlyHead c), .goto (w.hnd.held ++ [e])))

end Sys2Proof.Machine
end

