-- ==== Sys2Proof/Machine/Key.lean ====
section
/-! DEFINITION. The key instructions (R187 to R194). -/

namespace Sys2Proof.Machine

open Sys2Proof

/-- The scope of a code (R167). -/
def scopeOfCode : Nat → Option Scope
  | 0 => some .team | 1 => some .gang | 2 => some .die | 3 => some .dev | 4 => some .net | 5 => some .sys
  | _ => none

/-- KSCOPE: ILL for K0, K15 and codes above 5; parks until the key has drained (R188). -/
def execKscope (o : FKscope) (s : State) : Host.Outcome State Fault Refusal :=
  s.runTarget o.sw (fun c s => do
    c.noXp
    let k := o.d.toNat
    match scopeOfCode (c.imm (o.o.setWidth 32)).toNat with
    | none => .error ill
    | some sc =>
      if k = 0 || k = 15 then .error ill
      else if !(c.w.key k).drained then .error (.park .keyWait s)
      else .ok (s.modWarp c.uid (fun w => w.setKey k { w.key k with scope := sc }), .next))

/-- An outstanding result without its write of KDEF: what the KDEF instruction writes at issue is what every later word sees
(R172). -/
def Result.noKdef (r : Result) : Result :=
  { r with writes := r.writes.filter (fun x => match x with | .kdef _ => false | _ => true) }

/-- KDEF, at issue (R172, R189). -/
def execKdef (o : FKdef) (s : State) : Host.Outcome State Fault Refusal :=
  s.runTarget o.sw (fun c s => do
    c.noXp
    if o.p = 15 then .error (trapOf 0x0B)
    else
      c.touch s (if c.w.id.mode == .interlocked then [RegName.kdef] else [])
      .ok (s.modWarp c.uid (fun w => { w with
        ctl := { w.ctl with kdef := (o.p ++ o.c).setWidth 32 }
        iss := { w.iss with outstanding := w.iss.outstanding.map Result.noKdef } }), .next))

/-- KFORK: only the inherited dependence of Kd changes (R172, R190). -/
def execKfork (o : FKdef) (s : State) : Host.Outcome State Fault Refusal :=
  s.runTarget o.sw (fun c s => do
    c.noXp
    if o.p = 15 then .error (trapOf 0x0B)
    else
      let (d, s1) ← c.consume s o.c.toNat
      .ok (if o.p = 0 then s1
        else s1.modWarp c.uid (fun w => w.setKey o.p.toNat { w.key o.p.toNat with inh := d }), .next))

/-- KJOIN (R172, R190). -/
def execKjoin (o : FKjoin) (s : State) : Host.Outcome State Fault Refusal :=
  s.runTarget o.sw (fun c s => do
    c.noXp
    if o.d = 15 then .error (trapOf 0x0B)
    else
      let l := s.lates c.uid
      match (s.warp c.uid).consume l o.a.toNat with
      | none => .error (.park .keyRing s)
      | some (da, w1) =>
        match w1.consume l o.b.toNat with
        | none => .error (.park .keyRing s)
        | some (db, w2) =>
          match w2.merge l da db with
          | none => .error (.park .keyRing s)
          | some (d, w3) =>
            .ok (s.putWarp c.uid
              (if o.d = 0 then w3 else w3.setKey o.d.toNat { w3.key o.d.toNat with inh := d }), .next))

/-- Whether a key covers another: it is that key, or K15, or its inherited dependence is ALL or has a component of that key
(R171, R184, R191). -/
def Warp.coversKey (w : Warp) (k j : Nat) : Bool :=
  j == k || k == 15 || (w.key k).inh.all || (w.key k).inh.comps.any (fun c => c.1 == j)

/-- The NET_ACCESS reports that a KWAIT or KPOLL of a key delivers (R184). -/
def Warp.covers (w : Warp) (k : Nat) (r : Report) : Bool := r.cause == 0x16 && w.coversKey k r.key

/-- KWAIT: parks until its dependence is satisfied, then delivers refused stores of the key (R184, R191). -/
def execKwait (o : FKwait) (s : State) : Host.Outcome State Fault Refusal :=
  match s.cx with
  | none => .fault .noIssuer
  | some c =>
    match c.noXp with
    | .error _ => .next (s.raise c { cause := 0x01 })
    | .ok _ =>
      match c.consume s o.c.toNat with
      | .error e => s.settle c o.sw (.error e)
      | .ok (d, s1) =>
        if !s1.depOk c.uid d then s.settle c o.sw (.error (.park .keyWait s1))
        else
          match (s1.warp c.uid).due (c.w.covers o.c.toNat) with
          | some (r, rest) => .next ((s1.deliver c r rest).1.raise c (s1.deliver c r rest).2)
          | none => s.settle c o.sw (.ok (s1, .next))

/-- The word that names a warp for a chime (R192): LOCAL set, the device's number, team and warp. -/
def State.chimeName (s : State) (w : Warp) : Word :=
  BitVec.ofNat 32 (s.fab.device % 1024 * 2 ^ 22 + 2 ^ 21 + s.teamIndex w % 65536 * 32 + w.id.w % 32)

/-- KSEND: reads the three words at issue and queues a chime (R181, R192). -/
def execKsend (o : FKsend) (s : State) : Host.Outcome State Fault Refusal :=
  s.runTarget o.sw (fun c s => do
    c.noXp
    let a := o.s.toNat
    if 61 < a then .error ill
    else if o.p = 15 then .error (trapOf 0x0B)
    else
      c.touch s [RegName.s a, RegName.s (a + 1), RegName.s (a + 2)]
      if 4 ≤ c.w.kf.sendq.length then .error (.park .keyWait s)
      else
        let (d, m, s1) ← c.keys s o.c.toNat o.p.toNat
        let g := (c.readS s (a + 1)).toNat
        let t := c.readS s a
        let ch : Chime := { uid := c.uid, ctx := c.ctx, target := t, grid := if g = 0 then c.w.id.grid else g,
                            tag := c.readS s (a + 2), sender := s.chimeName c.w, dep := d, mem := some m,
                            remote := !t.getLsbD 21 && t.toNat / 2 ^ 22 != s.fab.device }
        let s2 := s1.outward c.core c.ctx [o.c.toNat, o.p.toNat, t.toNat, g, ch.tag.toNat]
        .ok ((s2.modWarp c.uid (fun w => { w with kf := { w.kf with sendq := w.kf.sendq ++ [ch] } })).post (.chimeLeave c.uid),
          .next))

/-- KRECV: places a claim, a member of Kd tracked apart; a ninth claim parks (R182, R193). -/
def execKrecv (o : FKs) (s : State) : Host.Outcome State Fault Refusal :=
  s.runTarget o.sw (fun c s => do
    c.noXp
    let d := o.s.toNat
    if o.k = 15 then .error (trapOf 0x0B)
    else
      c.touch s [RegName.s d, RegName.s (d + 1)]
      if 8 ≤ c.w.kf.claims.length then .error (.park .keyWait s)
      else
        let (m, s1) ← c.produce s o.k.toNat true
        let s2 := s1.modWarp c.uid (fun w => { w with kf := { w.kf with claims := w.kf.claims ++ [{ id := m, sd := d, mem := some m }] } })
        let s3 := (s2.statusPend c.uid (.claim m) (.s d)).statusPend c.uid (.claim m) (.s (d + 1))
        .ok (s3.serveClaims c.uid 8, .next))

/-- Whether KPOLL of a key reads 1 (R194). -/
def Warp.pollOk (w : Warp) (k : Nat) : Bool :=
  if k = 0 then true
  else if k = 15 then (List.range 15).all (fun j => (w.key j).drained && w.depOk (w.key j).inh)
  else (w.key k).drained && w.depOk (w.key k).inh

/-- KPOLL: seals nothing and never parks for a key (R194). -/
def execKpoll (o : FKs) (s : State) : Host.Outcome State Fault Refusal :=
  s.runReporting o.sw (fun c r => c.w.covers o.k.toNat r) (fun c s => do
    c.noXp
    c.touch s [RegName.s o.s.toNat]
    .ok (s.result c 4 [.s o.s.toNat] [.s o.s.toNat (if c.w.pollOk o.k.toNat then 1 else 0)], .next))

end Sys2Proof.Machine
end

