-- ==== Sys2Proof/Machine/Port.lean ====
section
/-! DEFINITION. The Weave: ports, binding, queues, and the port instructions (R227 to R247). -/

namespace Sys2Proof.Machine

open Sys2Proof

/-- The opposite port (R227). -/
def oppPort (p : Nat) : Nat := if p % 2 = 0 then p + 1 else p - 1

/-- Entries per lane of a port's queue (R227). -/
def portCap (p : Nat) : Nat := if p < 2 then 4 else if p < 6 then 16 else 32

/-- Core clocks from a PUSH to its value's being available (R227). -/
def portLat (p : Nat) : Nat := if p < 2 then 2 else if p < 6 then 12 else 160

/-- Covering scope of a port (R227). -/
def portScope (p : Nat) : Scope := if p < 2 then .team else if p < 6 then .die else .dev

/-- A port of a warp. -/
def Warp.port (w : Warp) (p : Nat) : Port := nth w.ports p {}

/-- The warp with a port replaced. -/
def Warp.setPort (w : Warp) (p : Nat) (x : Port) : Warp := { w with ports := setAt w.ports p x }

/-- A lane's queue in a port. -/
def Port.lane (x : Port) (l : Nat) : List PortVal := x.queue.getD l []

/-- Visible entries at the head of a lane's queue. -/
def Port.ready (x : Port) (l : Nat) : Nat := ((x.lane l).takeWhile (fun v => v.vis)).length

/-- The state of a port as R233 gives it; lane ports behave as CONNECTED when the kernel has them (R228). -/
def Warp.portSt (w : Warp) (p : Nat) : PortSt :=
  if p < 2 then (if w.id.lanePorts then .connected else .unbound) else (w.port p).st

/-- PORT_UNBOUND with the port code and the lanes (R105). -/
def portUnbound (p : Nat) (m : Lanes) : Stop := trapMask 0x0C p m

/-- The cause an ORPHANED port recorded (R233, R245). The failing lanes of a POP or PPEEK are those without a visible entry
(DEDUCED, log 85). -/
def orphaned (x : Port) (p : Nat) (c : Cx) (fails : Lanes) : Stop :=
  if x.gone then trapLane 0x0A (lowest fails) (x.target.setWidth 64) else portUnbound p c.mask

/-- The team of a grid with a linear index, placed or retired. -/
def State.teamOf (s : State) (ctx grid index : Nat) : Option (Nat × Team) :=
  s.teams.find? (fun kv => kv.2.ctx == ctx && kv.2.grid == grid && kv.2.index == index)

/-- The warp of a team with a number. -/
def State.warpIn (s : State) (t : Team) (n : Nat) : Option (Nat × Warp) :=
  s.warps.find? (fun kv => t.warps.contains kv.1 && kv.2.id.w == n)

/-- The word a port uses to name a warp (R232). -/
def State.portName (s : State) (w : Warp) : Word := BitVec.ofNat 32 (s.teamIndex w * 32 + w.id.w)

/-- How many warps on a core, other than those of a context, have a die port bound (R231). -/
def State.holders (s : State) (core p : Nat) (skip : Nat → Warp → Bool) : Nat :=
  (s.warps.filter (fun kv => !skip kv.1 kv.2 && !kv.2.retired && kv.2.id.place.isSome && kv.2.core == core &&
    (kv.2.port p).st != .unbound)).length

/-- The team index a core or die port reaches from a team (R229, R230); none at an edge or an open ring end. -/
def Grid.reach (g : Grid) (ix p : Nat) : Option Nat :=
  let x := ix % g.gx
  let y := ix / g.gx % g.gy
  let z := ix / (g.gx * g.gy)
  let at1 (x y z : Nat) : Option Nat := some (x + g.gx * (y + g.gy * z))
  match p with
  | 2 => if y = 0 then none else at1 x (y - 1) z
  | 3 => if y + 1 < g.gy then at1 x (y + 1) z else none
  | 4 => if x + 1 < g.gx then at1 (x + 1) y z else none
  | 5 => if x = 0 then none else at1 (x - 1) y z
  | 6 => if z + 1 < g.gz then at1 x y (z + 1) else if g.gz = 4 then at1 x y 0 else none
  | 7 => if 0 < z then at1 x y (z - 1) else if g.gz = 4 then at1 x y 3 else none
  | _ => none

/-- Discards a warp's own queue for a port and counts the values (R233). -/
def State.dropQueue (s : State) (uid p : Nat) : State :=
  let w := s.warp uid
  let n := ((w.port p).queue.map (fun q => q.2.length)).sum
  (s.putWarp uid (w.setPort p { w.port p with queue := [] })).bumpHdr w.id.ctx 48 n

/-- The peer a port names. -/
def State.peerOf (s : State) (w : Warp) (x : Port) : Option (Nat × Warp) :=
  match s.teamOf w.id.ctx w.id.grid (bits x.target.toNat 20 5) with
  | some (_, t) => s.warpIn t (x.target.toNat % 32)
  | none => none

/-- A port goes ORPHANED (R233); the input log tells it as a KIND 2 entry with bit 7 of the port code, and bit 6 when the peer retired
(R404; log 83). -/
def State.orphan (s : State) (v p : Nat) (gone : Bool) : State :=
  (s.logWarp v 2 [0, 0, BitVec.ofNat 32 (p + 2 ^ 7 + (if gone then 2 ^ 6 else 0))]).modWarp v (fun w =>
    w.setPort p { w.port p with st := .orphaned, gone := gone })

/-- A peer's opposite port goes ORPHANED when it is connected to this warp, or waits for it and this warp retires (R233). -/
def State.orphanPeer (s : State) (uid p : Nat) (gone : Bool) : State :=
  let w := s.warp uid
  match s.peerOf w (w.port p) with
  | none => s
  | some (v, q) =>
    let y := q.port (oppPort p)
    if y.target = s.portName w && y.st == .connected then s.orphan v (oppPort p) gone else s

/-- Whether a warp's pushes on a port are all visible. -/
def State.pushesDone (s : State) (uid p : Nat) : Bool := s.txs.all (fun kv => !(kv.2.uid == uid && kv.2.port == p))

/-- PBIND from UNBOUND to a warp (R233). -/
def State.bindTo (s : State) (uid p : Nat) (t : Word) : State :=
  let w := s.warp uid
  let x : Port := { st := .waiting, target := t }
  match s.peerOf w x with
  | none => s.putWarp uid (w.setPort p x)
  | some (v, q) =>
    let y := q.port (oppPort p)
    if q.retired then (s.putWarp uid (w.setPort p x)).orphan uid p true
    else if y.st == .waiting && y.target == s.portName w then
      (s.putWarp uid (w.setPort p { x with st := .connected })).putWarp v
        (q.setPort (oppPort p) { y with st := .connected, queue := [] })
    else s.putWarp uid (w.setPort p x)

/-- Leaves a port UNBOUND: its queue is discarded and a connected peer is orphaned (R233). -/
def State.unbind (s : State) (uid p : Nat) : State :=
  let w := s.warp uid
  let s1 := if (w.port p).st == .connected then s.orphanPeer uid p false else s
  let s2 := s1.dropQueue uid p
  s2.putWarp uid ((s2.warp uid).setPort p {})


/-- PBIND (R243). -/
def execPbind (o : FPbind) (s : State) : Host.Outcome State Fault Refusal :=
  s.runTarget o.sw (fun c s => do
    c.noXp
    let p := o.p.toNat
    c.touch s [RegName.s o.s.toNat]
    let t := c.readS s o.s.toNat
    let g := s.grid c.ctx c.w.id.grid
    let ix := bits t.toNat 20 5
    let ok := c.w.id.weave.isSome && t >>> 21 == 0 && g.reach (s.teamIndex c.w) p == some ix &&
      (match s.teamOf c.ctx c.w.id.grid ix with
        | some (_, tm) => (s.warpIn tm (t.toNat % 32)).isSome
        | none => false)
    if !ok || (6 ≤ p && 2 ≤ s.holders c.core p (fun u _ => u == c.uid)) then .error (portUnbound p c.mask)
    else
      let x := c.w.port p
      match x.st with
      | .connected =>
        if !s.pushesDone c.uid p then .error (.park .portFull s)
        else .ok ((s.unbind c.uid p).bindTo c.uid p t, .next)
      | .waiting => .ok (s.bindTo c.uid p t, .next)
      | _ => .ok ((s.dropQueue c.uid p).bindTo c.uid p t, .next))

/-- PUNBIND (R247). -/
def execPunbind (o : FPort) (s : State) : Host.Outcome State Fault Refusal :=
  s.runTarget o.sw (fun c s => do
    c.noXp
    let p := o.p.toNat
    match (c.w.port p).st with
    | .connected =>
      if !s.pushesDone c.uid p then .error (.park .portFull s) else .ok (s.unbind c.uid p, .next)
    | .unbound => .ok (s, .next)
    | _ => .ok (s.unbind c.uid p, .next))

/-- Where a lane's push on a lane port goes (R228). -/
def laneDest (tile p i : Nat) : Nat :=
  let n := 2 ^ tile
  let b := i / n * n
  if p = 1 then b + (i - b + 1) % n else b + (i - b + n - 1) % n

/-- The receiving warp, its port and the receiving lane of each active lane of a PUSH (R244). -/
def Cx.pushTo (c : Cx) (s : State) (p : Nat) : Option (Nat × List (Nat × Nat)) :=
  if p < 2 then
    let tile := bits (c.readPart s).toNat 2 0
    some (c.uid, (lanesOf c.mask).map (fun i => (i, laneDest tile p i)))
  else
    match s.peerOf c.w (c.w.port p) with
    | some (v, _) => some (v, (lanesOf c.mask).map (fun i => (i, i)))
    | none => none

/-- Whether a lane port's value for a lane is discarded on arrival: the lane has exited (R236). -/
def gone (p : Nat) (w : Warp) (l : Nat) : Bool := p < 2 && !w.live.getLsbD l

/-- The state with a push set going. -/
def State.withTx (s : State) (id : Nat) (t : PortTx) : State := { s with txs := s.txs.set id t }

/-- A PUSH that leaves the core enters its digest: port, consume key and values (R406). -/
def Cx.pushOut (c : Cx) (s : State) (p kc : Nat) (vals : List Word) : State :=
  if p < 2 then s else s.outward c.core c.ctx ([p, kc] ++ vals.map BitVec.toNat)

/-- PUSH (R234, R244): a tail entry is reserved in every active lane's target queue, or in none. On a core that replays, a
push outside the core is not performed; the issue log says that it found room (R407). -/
def execPush (o : FPush) (s : State) : Host.Outcome State Fault Refusal :=
  s.runTarget o.sw (fun c s => do
    c.noXp
    let p := o.p.toNat
    let a ← c.resolve 1 c.mask none o.v.toNat 1
    c.touch s ([RegName.v a c.mask] ++ (if p < 2 then [RegName.part] else []))
    let inside := decide (2 ≤ p) && (s.core c.core).replay.isSome
    match c.w.portSt p with
    | .unbound => .error (portUnbound p c.mask)
    | .orphaned => .error (orphaned (c.w.port p) p c c.mask)
    | st =>
      if inside then
        let (_, s0) ← c.consume s o.c.toNat
        let s1 := s0.modWarp c.uid (fun w => { w with moved := (s.core c.core).cyc })
        .ok (c.pushOut s1 p o.c.toNat ((lanesOf c.mask).map (c.readV s a)), .next)
      else if st == .waiting then .error (.park .portFull s)
      else
      match c.pushTo s p with
      | none => .error (portUnbound p c.mask)
      | some (v, dest) =>
        let q := oppPort p
        let tw := s.warp v
        if dest.any (fun d => !gone p tw d.2 && portCap p ≤ ((tw.port q).lane d.2).length) then
          .error (.park .portFull s)
        else
          let (d, s1) ← c.consume s o.c.toNat
          let r := s1.newId
          let vals := dest.map (fun x => (x.2, c.readV s a x.1))
          let tw1 := r.2.warp v
          let y := tw1.port q
          let y' := { y with queue := vals.foldl (fun m x =>
            if gone p tw1 x.1 then m else m.set x.1 (m.getD x.1 [] ++ [{ tx := r.1, val := x.2 }])) y.queue }
          let s2 := r.2.putWarp v (tw1.setPort q y')
          let s3 := s2.modWarp c.uid (fun w => { w with moved := (s.core c.core).cyc })
          let tx : PortTx := { uid := c.uid, port := p, tgt := v, tport := q, lanes := vals.map Prod.fst, dep := d,
                               due := (s.core c.core).cyc + portLat p, scope := portScope p }
          if dest.isEmpty then .ok (s1, .next)
          else .ok (((c.pushOut s3 p o.c.toNat (vals.map Prod.snd)).withTx r.1 tx).post (.portValueVisible r.1), .next))

/-- POP and PPEEK (R245): every active lane's own queue holds a visible entry, or none pops. -/
def Cx.popOp (c : Cx) (s : State) (p d : Nat) (take : Bool) : Except Stop (State × Flow) := do
  c.noXp
  let dn ← c.resolve 0 c.mask none d 1
  c.touch s [RegName.v dn c.mask]
  c.bWrites s [dn] c.mask
  let x := c.w.port p
  let ls := lanesOf c.mask
  let all := ls.all (fun l => 0 < x.ready l)
  if ls.any (fun l => ((x.lane l).takeWhile (fun v => v.vis)).head?.any (fun v => v.bad)) && c.w.portSt p != .unbound then
    .error (.poison (2 ^ 18 + p)) else
  let go : State × Flow :=
    let vals := ls.map (fun l => (l, ((x.lane l).head?.map (fun v => v.val)).getD 0))
    let x' := if take then { x with queue := ls.foldl (fun m l => m.set l (m.getD l []).tail) x.queue } else x
    let s1 := s.modWarp c.uid (fun w => { w.setPort p x' with moved := if take then (s.core c.core).cyc else w.moved })
    (if vals.isEmpty then s1 else s1.result c 2 [.v dn c.mask] [.v dn vals], .next)
  match c.w.portSt p with
  | .unbound => .error (portUnbound p c.mask)
  | .waiting => .error (.park .portEmpty s)
  | .orphaned => if all then .ok go else .error (orphaned x p c (maskOf (ls.filter (fun l => x.ready l = 0))))
  | .connected => if all then .ok go else .error (.park .portEmpty s)

/-- POP (R245). -/
def execPop (o : FPop) (s : State) : Host.Outcome State Fault Refusal :=
  s.runTarget o.sw (fun c s => c.popOp s o.p.toNat o.d.toNat true)

/-- PPEEK (R245). -/
def execPpeek (o : FPop) (s : State) : Host.Outcome State Fault Refusal :=
  s.runTarget o.sw (fun c s => c.popOp s o.p.toNat o.d.toNat false)

/-- The frame of a core port for lanes 0 to 31 (R231). -/
def Warp.frame (w : Warp) (p : Nat) : Nat :=
  match w.id.weave with
  | some k => if 2 ≤ p && p < 6 then 4 * k + (if w.id.wide then 2 * (p - 2) else p - 2) else 0
  | none => 0

/-- The status word PSTAT gives a lane (R246). -/
def Cx.pstatWord (c : Cx) (s : State) (p l : Nat) : Word :=
  let x := c.w.port p
  let st := c.w.portSt p
  let free :=
    if st != .connected then 0
    else
      match c.pushTo s p with
      | some (v, dest) =>
        let tl := ((dest.find? (fun d => d.1 == l)).map Prod.snd).getD l
        portCap p - (((s.warp v).port (oppPort p)).lane tl).length
      | none => 0
  BitVec.ofNat 32 (st.ctorIdx * 2 ^ 30 + c.w.frame p * 2 ^ 23 +
    (if st == .orphaned && x.gone then 2 ^ 16 else 0) + min 255 (x.ready l) * 256 + free)

/-- PSTAT (R246). -/
def execPstat (o : FPop) (s : State) : Host.Outcome State Fault Refusal :=
  s.runTarget o.sw (fun c s => do
    c.noXp
    let dn ← c.resolve 0 c.mask none o.d.toNat 1
    c.touch s [RegName.v dn c.mask]
    c.bWrites s [dn] c.mask
    let vals := (lanesOf c.mask).map (fun l => (l, c.pstatWord s o.p.toNat l))
    .ok (if vals.isEmpty then s else (s.result c 2 [.v dn c.mask] [.v dn vals]).sampling c.uid (.port o.p.toNat), .next))

/-- Whether a push's dependence is satisfied at its port's covering scope (R234). -/
def State.txOk (s : State) (t : PortTx) : Bool := s.depOk t.uid t.dep && (t.scope == .team || s.coverOk t.uid t.dep)

/-- The lanes of a push in whose queues every earlier entry is visible (R234). -/
def PortTx.clear (t : PortTx) (id : Nat) (x : Port) : List Nat :=
  t.lanes.filter (fun l => ((x.lane l).takeWhile (fun v => v.tx != id)).all (fun v => v.vis))

/-- PORT_VALUE_VISIBLE (R234): when the dependence is satisfied at the covering scope, the values become poppable in every
queue whose earlier entries are all visible, and wait in the others; those for lanes that have exited are discarded. Only a
value that becomes visible is a movement (R238). Those of a saved warp wait for its restore (R240). -/
def execPortValueVisible (id : Nat) (s : State) : Host.Outcome State Fault Refusal :=
  match s.txs.get? id with
  | none => ran s
  | some t =>
    let w := s.warp t.tgt
    let x := w.port t.tport
    let ls := t.clear id x
    if (s.warps.get? t.tgt).isNone then ran { s with txs := s.txs.erase id }
    else if !s.txOk t || ls.isEmpty || (w.id.place.isNone && !w.retired) then ran (s.post (.portValueVisible id))
    else
      let dead := ls.filter (fun l => gone t.port w l)
      let q := ls.foldl (fun m l =>
        m.set l (if gone t.port w l then (m.getD l []).filter (fun v => v.tx != id)
          else (m.getD l []).map (fun v => if v.tx = id then { v with vis := true } else v))) x.queue
      let live : List Nat := ls.filter (fun l => !gone t.port w l)
      let shown : KMap Word := live.filterMap (fun l => ((x.lane l).find? (fun v => v.tx == id)).map (fun v => (l, v.val)))
      let s0 := if t.port < 2 || shown.isEmpty then s
        else s.logWarp t.tgt 2 (maskWords (maskOf shown.keys) ++ BitVec.ofNat 32 t.tport :: shown.vals)
      let rest := t.lanes.filter (fun l => !ls.contains l)
      let s1 := if rest.isEmpty then { s0 with txs := s0.txs.erase id }
        else (s0.withTx id { t with lanes := rest }).post (.portValueVisible id)
      let s2 := s1.modWarp t.tgt (fun w => { w.setPort t.tport { x with queue := q } with
        moved := if shown.isEmpty then w.moved else (s.core w.core).cyc })
      ran (s2.bumpHdr w.id.ctx 48 dead.length)

/-- Whether a word is of the PORT major (R242). -/
def portWord (x : Word) : Bool := fld x 25 6 == 0x22

/-- When the port watchdog of a warp parked on a port instruction falls due (R238); none while it is disabled or does not
count. -/
def State.portDue (s : State) (uid : Nat) : Option Nat :=
  let w := s.warp uid
  let c := s.ctx w.id.ctx
  if (w.iss.stall == some .portFull || w.iss.stall == some .portEmpty) && portWord w.iss.parkWord && c.d.portWd != 0xFFFFFFFF &&
      c.paused.isNone && w.here && c.run == .running then
    some (max w.iss.parkAt w.moved + c.d.portWd.toNat).toNat
  else none

end Sys2Proof.Machine
end

