-- ==== Sys2Proof/Machine/Scratch.lean ====
section
/-! DEFINITION. The scratchpad: near addresses, zones, presence and poison, guards (R205 to R210). -/

namespace Sys2Proof.Machine

open Sys2Proof

/-- G: the scratchpad size rounded up to 64 KiB (R206). -/
def Team.g (t : Team) : Nat := (t.size + 0xFFFF) / 0x10000 * 0x10000

/-- Gang position of a team; 0 without a gang (R205, R210). -/
def Team.pos (t : Team) : Nat := if t.gang = 0 then 0 else t.index % t.gang

/-- Where an access lies in a near space (R206). -/
inductive Zone where
  | guard | alloc | beyond
  deriving DecidableEq, Repr

/-- The zone of `n` bytes at an offset: a guard when it touches one, beyond when it reaches past both. -/
def Team.zone (t : Team) (o n : Nat) : Zone :=
  if 0x2000 + t.g < o + n then .beyond
  else if o < 0x1000 || 0x1000 + t.g < o + n then .guard
  else .alloc

/-- What a near address names (R205, R210). -/
inductive Near where
  | prot
  | gone (team ofs : Nat)
  | at (team ofs : Nat)
  deriving DecidableEq, Repr

/-- The team of a gang position in a team's gang. -/
def State.member (s : State) (team m : Nat) : Option Nat :=
  let t := s.team team
  if t.gang = 0 then (if m = 0 then some team else none)
  else if m < t.gang then (s.teamOf t.ctx t.grid (t.index - t.pos + m)).map Prod.fst
  else none

/-- A near address of a team (R205). -/
def State.nearAt (s : State) (team : Nat) (a : Word) : Near :=
  let o := bits a.toNat 22 0
  if bits a.toNat 31 25 != 0 then .prot
  else
    match s.member team (bits a.toNat 24 23) with
    | none => .prot
    | some t => if (s.team t).retired then .gone t o else .at t o

/-- Lines that an access touches. -/
def linesAt (o n : Nat) : List Nat := (List.range ((o % 128 + n + 127) / 128)).map (fun i => o / 128 * 128 + 128 * i)

/-- Whether a line of an access is absent (R209). -/
def Team.absentAt (t : Team) (o n : Nat) : Bool := (linesAt o n).any (fun l => 0 < t.absent.getD l 0)

/-- Whether a line of an access is present and poisoned (R209). -/
def Team.poisonAt (t : Team) (o n : Nat) : Bool :=
  (linesAt o n).any (fun l => t.poison.contains l && t.absent.getD l 0 == 0)

/-- Reads bytes of a near space. -/
def State.nearRead (s : State) (team o n : Nat) : List Byte := Memory.readN (s.team team).near o n

/-- Writes bytes of a near space. -/
def State.nearWrite (s : State) (team o : Nat) (l : List Byte) : State :=
  s.modTeam team (fun t => { t with
    near := Memory.writeN t.near o l
    bad := t.bad.filter (fun b => !(decide (o ≤ b) && decide (b + 8 ≤ o + l.length))) })

/-- Whether bytes of a near space lie in units that are marked poison (R427). -/
def Team.badAt (t : Team) (o n : Nat) : Bool := t.bad.any (fun b => decide (b < o + n) && decide (o < b + 8))

/-- The near address of an offset in a team. -/
def State.nearAddr (s : State) (team o : Nat) : Nat := (s.team team).pos * 2 ^ 23 + o

/-- A GUARD report for the lowest guard lane of an instruction (R208): one is pending at a time, a further one is counted.
A replay takes its reports from the input log (R408). -/
def State.guardReport (s : State) (uid lane addr : Nat) : State :=
  let w := s.warp uid
  if (s.core w.core).replay.isSome then s
  else if w.reports.any (fun r => r.cause == 0x09) then s.bumpHdr w.id.ctx 44 1
  else
    let r := s.identify w lane { cause := 0x09, engine := 3, inst := w.core, addr := addr, cycles := (s.core w.core).cyc,
                                 detail := addr / 4 % 32 * 2 ^ 27 + bits addr 24 23 * 2 ^ 25 + bits addr 22 0 }
    let q := s.record w.id.ctx r
    q.1.addReport uid { cause := 0x09, addr := BitVec.ofNat 64 q.2 }

/-- The team whose near space holds an offset of a core's scratchpad window (R23; log 13). -/
def State.windowTeam (s : State) (core o : Nat) : Option (Nat × Nat) :=
  match s.teams.find? (fun kv => kv.2.core == some core && !kv.2.retired && decide (kv.2.nbase ≤ o) &&
      decide (o < kv.2.nbase + 0x2000 + kv.2.g)) with
  | some (t, x) => some (t, o - x.nbase)
  | none => none

/-- What a check of one lane's address finds (R202). -/
inductive LaneR where
  | prot | world | window | gone | replay
  | ok (t : Target)
  deriving DecidableEq, Repr

/-- A place in a near space as an access of `n` bytes finds it. -/
def State.nearTarget (s : State) (team o n : Nat) : LaneR :=
  match (s.team team).zone o n with
  | .beyond => .prot
  | .guard => .ok (.guard team o)
  | .alloc => .ok (.near team o)

/-- Step 5 and 6 of R202 for a near address. -/
def State.nearLane (s : State) (team : Nat) (a : Word) (n : Nat) : LaneR :=
  match s.nearAt team a with
  | .prot => .prot
  | .gone t o => if (s.team t).zone o n == .beyond then .prot else .gone
  | .at t o => s.nearTarget t o n

/-- The checks of R25 and R214 for an address in the window region. An offset in the 8 MiB of a scratchpad that lies in no resident
team's near space gives PROT (DESIGN CHOICE, log 13). -/
def State.windowLane (s : State) (ctx pa n : Nat) (atomic : Bool) : LaneR :=
  let ok (b : Bool) : LaneR := if b && !atomic then .ok (.win pa) else .window
  let live (c : Nat) : Bool := !(s.core c).retired
  match placeOf pa with
  | .scratch c o =>
    match (if live c then s.windowTeam c o else none) with
    | some (t, k) => (match s.nearTarget t k n with | .prot => .window | r => r)
    | none => .window
  | .register c slot r _ _ =>
    (match s.warpAt c slot with | some (_, w) => ok (live c && w.validV r) | none => .window)
  | .tile c t _ _ => ok (live c && ((s.ctx ctx).tileMask.getD c 0).getLsbD t)
  | .port c _ _ _ _ => ok (live c)
  | .counter c o => ok (live c && (decide (0x400 ≤ o) || ((s.ctx ctx).rcMask.getD c 0).getLsbD (o / 16)))
  | .hole => .window

/-- The target of a physical address of this device. -/
def State.localLane (s : State) (ctx pa n : Nat) (atomic : Bool) : LaneR :=
  if inWindow pa then s.windowLane ctx pa n atomic
  else if inCreel pa then (if atomic then .window else .ok (.creel pa))
  else .ok (.dev pa)

/-- Step 4 of R202 for a global address, with what follows for windows. A NET page of this device itself is local
(R308). -/
def State.globalLane (s : State) (core ctx kind ix : Nat) (va : Addr) (a : Access) (n : Nat) : LaneR :=
  match s.reach core ctx kind ix va a with
  | .prot => .prot
  | .world => .world
  | .replay => .replay
  | .ok e pa =>
    if leafTarget e = 1 then .ok (.sys pa)
    else if leafTarget e = 2 && leafDevice e != s.fab.device then .ok (.net (leafDevice e) pa)
    else s.localLane ctx pa n (a == .atomic)

end Sys2Proof.Machine
end

