-- ==== Sys2Proof/Machine/Memory.lean ====
section
/-! DEFINITION. Memory operations: the checks of an instruction (R202), the operations it leaves in flight, what orders them
(R173, R176, R180), L1 (R203), and how a load, store or atomic ends. -/

namespace Sys2Proof.Machine

open Sys2Proof

/-! Checks (R202). -/

/-- The lowest lane that a check finds in a state. -/
def firstLane (l : List (Nat × Addr × LaneR)) (r : LaneR) : Option (Nat × Addr) :=
  (l.find? (fun p => p.2.2 == r)).map (fun p => (p.1, p.2.1))

/-- The lanes that resolved, with their targets. -/
def okLanes (l : List (Nat × Addr × LaneR)) : List (Nat × Addr × Target) :=
  l.filterMap (fun p => match p.2.2 with | .ok t => some (p.1, p.2.1, t) | _ => none)

/-- R201's KIND of an access. -/
def Access.code : Access → BitVec 2
  | .load => 0
  | .store => 1
  | .atomic => 2
  | .fetch => 3

/-- Waits of a warp for the pages of its lanes' replayable misses, one for each page (R201). -/
def Cx.awaitPages (c : Cx) (s : State) (a : Access) (ls : List (Nat × Addr)) : State :=
  ls.foldl (fun s p =>
    let page := p.2.toNat / 4096
    s.await { who := .warp c.uid, core := c.core, ctx := c.ctx, uid := c.uid, va := p.2, kind := a.code, page := page,
              lanes := maskOf ((ls.filter (fun q => q.2.toNat / 4096 == page)).map Prod.fst) }) (s.reissue c.uid)

/-- Whether a target is a poisoned, or an absent, part of a near space. -/
def State.poisoned (s : State) (n : Nat) : Target → Bool
  | .near t o => (s.team t).poisonAt o n
  | _ => false

def State.absent (s : State) (n : Nat) : Target → Bool
  | .near t o => (s.team t).absentAt o n
  | _ => false

/-- Steps 2 to 9 of R202 for resolved lanes of `n` bytes. -/
def Cx.check (c : Cx) (s : State) (a : Access) (kp n : Nat) (ls : List (Nat × Addr × LaneR)) :
    Except Stop (List (Nat × Addr × Target)) :=
  let oks := okLanes ls
  if kp = 15 then .error (trapOf 0x0B)
  else
    match ls.find? (fun p => p.2.1.toNat % n != 0) with
    | some p => .error (trapLane 0x06 p.1 p.2.1)
    | none =>
      match firstLane ls .prot, firstLane ls .world, firstLane ls .window, firstLane ls .gone with
      | some p, _, _, _ => .error (trapLane 0x08 p.1 p.2)
      | none, some p, _, _ => .error (trapLane 0x17 p.1 p.2)
      | none, none, some p, _ => .error (trapLane 0x08 p.1 p.2)
      | none, none, none, some p => .error (trapLane 0x0A p.1 p.2)
      | none, none, none, none =>
        match (if a == .store then none else oks.find? (fun p => s.poisoned n p.2.2)) with
        | some p => .error (trapLane 0x11 p.1 p.2.1)
        | none =>
          match (ls.filter (fun p => p.2.2 == .replay)).map (fun p => (p.1, p.2.1)) with
          | [] => if oks.any (fun p => s.absent n p.2.2) then .error (.park .absent s) else .ok oks
          | rs => .error (.park .memq (c.awaitPages s a rs))

/-- The lanes of a global instruction. -/
def Cx.globalLanes (c : Cx) (s : State) (a : Access) (n : Nat) (ls : List (Nat × Addr)) : List (Nat × Addr × LaneR) :=
  ls.map (fun p => (p.1, p.2, s.globalLane c.core c.ctx 0 c.core p.2 a n))

/-- The lanes of a near instruction. -/
def Cx.nearLanes (c : Cx) (s : State) (n : Nat) (ls : List (Nat × Addr)) : List (Nat × Addr × LaneR) :=
  ls.map (fun p => (p.1, p.2, s.nearLane c.w.id.team (p.2.setWidth 32) n))

/-- TLB fills of the lanes that translated (R200), and the GUARD report of step 10 (R208). -/
def Cx.settleLanes (c : Cx) (s : State) (global : Bool) (oks : List (Nat × Addr × Target)) : State :=
  let s1 := if global then oks.foldl (fun s p => s.learn c.core c.ctx p.2.1) s else s
  match oks.find? (fun p => match p.2.2 with | .guard _ _ => true | _ => false) with
  | some (lane, a, .guard t o) => s1.guardReport c.uid lane (if global then s1.nearAddr t o else a.toNat)
  | _ => s1

/-! Where accesses meet. -/

/-- Space, instance and address of a target. -/
def Target.span : Target → Nat × Nat × Nat
  | .dev pa => (0, 0, pa)
  | .sys pa => (1, 0, pa)
  | .net d pa => (2, d, pa)
  | .win pa => (3, 0, pa)
  | .creel pa => (4, 0, pa)
  | .near t o => (5, t, o)
  | .guard t o => (6, t, o)

/-- The same space, some bytes further on. -/
def Target.plus (k : Nat) : Target → Target
  | .dev pa => .dev (pa + k)
  | .sys pa => .sys (pa + k)
  | .net d pa => .net d (pa + k)
  | .win pa => .win (pa + k)
  | .creel pa => .creel (pa + k)
  | .near t o => .near t (o + k)
  | .guard t o => .guard t (o + k)

/-- Whether two accesses share a byte. -/
def MUnit.meets (u v : MUnit) : Bool :=
  let a := u.tgt.span
  let b := v.tgt.span
  a.1 == b.1 && a.2.1 == b.2.1 && decide (a.2.2 < b.2.2 + v.size) && decide (b.2.2 < a.2.2 + u.size)

/-- Whether an operation only reads. -/
def OpKind.reads : OpKind → Bool
  | .load _ => true
  | .pres => true
  | .pref => true
  | .ldl _ => true
  | _ => false

/-- Whether a unit must wait for an earlier access of the same lane to the same byte (R176). For a store that enters its
core's path, and a load that may look into it, an entered store is early enough; otherwise all must be performed. -/
def State.behind (s : State) (id : Nat) (o : Op) (u : MUnit) (path : Bool) : Bool :=
  s.ops.any (fun kv => decide (kv.1 < id) && kv.2.uid == o.uid && kv.2.units.any (fun v =>
    v.lane == u.lane && !v.done && u.meets v &&
    !(path && kv.2.kind == .store && kv.2.entry != 0 && (match v.tgt with | .dev _ => true | _ => false))))

/-- Whether two places of device memory have one home slice (R380, R381). -/
def Target.sameSlice : Target → Target → Bool
  | .dev a, .dev b => homeDie a == homeDie b && homeSlice a == homeSlice b
  | _, _ => false

/-- Whether an earlier store or atomic of the same core to one of the unit's bytes, or on the route to its home slice, is
still on its way: a home slice takes a core's requests in the order sent (R381). -/
def State.following (s : State) (id : Nat) (o : Op) (u : MUnit) : Bool :=
  s.ops.any (fun kv => kv.1 != id && kv.2.core == o.core && kv.2.entry != 0 && !kv.2.kind.reads &&
    (o.kind.reads || o.entry == 0 || decide (kv.2.entry < o.entry)) &&
    kv.2.units.any (fun v => !v.done && (u.meets v || u.tgt.sameSlice v.tgt)))

/-! Scratchpad ports (R213). A port's queue holds the scratchpad instructions that have entered it and are not served whole, in
order of entry; log 32 has what the model leaves out of its timing. -/

/-- The scratchpad and port that serve an access of a core: port 0 for its own scratchpad, port 1 for a peer's. -/
def State.portOf (s : State) (core : Nat) : Target → Option (Nat × Nat)
  | .near t _ => (s.team t).core.map (fun c => (c, if c = core then 0 else 1))
  | _ => none

/-- Whether an operation stands in a port's queue. -/
def State.queued (s : State) (o : Op) (q : Nat × Nat) : Bool :=
  o.near && o.entry != 0 && o.units.any (fun u => !u.done && s.portOf o.core u.tgt == some q)

/-- The ports that serve an operation. -/
def State.portsOf (s : State) (o : Op) : List (Nat × Nat) := (o.units.filterMap (fun u => s.portOf o.core u.tgt)).eraseDups

/-- Whether the queues of an operation's ports have room for it: each holds 8 instructions. -/
def State.portRoom (s : State) (o : Op) : Bool :=
  (s.portsOf o).all (fun q => decide ((s.ops.filter (fun kv => s.queued kv.2 q)).length < 8))

/-- Whether a unit's port serves its instruction now: no earlier one is in the queue. -/
def State.portTurn (s : State) (id : Nat) (o : Op) (u : MUnit) : Bool :=
  match (if o.near then s.portOf o.core u.tgt else none) with
  | none => true
  | some q => o.entry != 0 && s.ops.all (fun kv => !(kv.1 != id && s.queued kv.2 q && decide (kv.2.entry < o.entry)))

/-- Whether a port serves what comes to it from elsewhere, a copy, a matrix read or a window access: nothing is in its
queue. -/
def State.portIdle (s : State) (q : Nat × Nat) : Bool := s.ops.all (fun kv => !s.queued kv.2 q)

/-- Whether port 1 of a near space's scratchpad is idle. -/
def State.nearIdle (s : State) (team : Nat) : Bool :=
  match (s.team team).core with
  | some c => s.portIdle (c, 1)
  | none => true

/-! L1 (R203). -/

/-- Bytes laid over a base from an offset. -/
def overlay (base : List Byte) (at0 : Nat) (l : List Byte) : List Byte :=
  base.take at0 ++ l ++ base.drop (at0 + l.length)

/-- Puts a line into L1, which holds 1,024 lines: of a full one some other line goes, which the spec leaves open (R2, R203). -/
def State.fillL1 (s : State) (core line : Nat) (bytes : List Byte) : State :=
  s.modCore core (fun k =>
    let l1 : KMap (List Byte) := if 1024 ≤ k.l1.length && (k.l1.get? line).isNone then dropAt k.l1 (s.choose (8900 + line) k.l1.length) else k.l1
    { k with l1 := l1.set line bytes, badL1 := k.badL1.filter (fun b => lineOf b != line) })

/-- The bytes of a line in L1 that a load may use: its policy and its key allow it, and the line has not been replaced, which
the spec leaves open (R180, R203). The choice is one for all lanes that read together (R204). -/
def State.l1Hit (s : State) (o : Op) (salt pa : Nat) : Option (List Byte) :=
  if o.bypass || o.cache == 3 || s.choose (8000 + salt) 2 = 1 then none else (s.core o.core).l1.get? (lineOf pa)

/-- Reads device memory for a unit of a load: from L1, else at the home, filling L1 by its policy (R180, R203). -/
def State.devLoad (s : State) (o : Op) (salt pa n : Nat) : List Byte × State :=
  let line := lineOf pa
  match s.l1Hit o salt pa with
  | some b => ((b.drop (pa - line)).take n, s)
  | none =>
    let r := s.homeRead (dieOf o.core) line 128
    let fill := if o.bypass then ((s.core o.core).l1.get? line).isSome else o.cache != 1 && o.cache != 3
    let s1 := if fill then r.2.fillL1 o.core line r.1
      else r.2.modCore o.core (fun k => { k with l1 := k.l1.erase line })
    ((r.1.drop (pa - line)).take n, s1)

/-! Operations in flight. -/

/-- An operation of the state, replaced. -/
def State.putOp (s : State) (id : Nat) (o : Op) : State := { s with ops := s.ops.set id o }

/-- The event that performs a unit. -/
def unitEvent (id i : Nat) (k : OpKind) : Target → Ev
  | .win _ => .windowAccess id i
  | .creel _ => .windowAccess id i
  | _ =>
    match k with
    | .load _ => .loadReturn id i
    | .pres => .loadReturn id i
    | .pref => .loadReturn id i
    | .ldl _ => .loadReturn id i
    | .store => .storeAtHome id i
    | .redI => .storeAtHome id i
    | .redA => .storeAtHome id i
    | .atomic _ => .atomicAtHome id i
    | .cstm _ => .atomicAtHome id i

/-- The store's bytes reach L1 lines that are present (R203). -/
def State.storeThrough (s : State) (o : Op) : State :=
  if o.kind != .store then s
  else o.units.foldl (fun s u => match u.tgt with
    | .dev pa => s.modCore o.core (fun k => { k with l1 := k.l1.modify (lineOf pa) (fun b => overlay b (pa % 128) u.data) })
    | _ => s) s

/-- A store or atomic may enter its core's path to memory, or a scratchpad instruction its ports' queues: its dependence is
satisfied and no earlier access of its lanes to its bytes is still to be performed (R176, R180, R213). -/
def State.canEnter (s : State) (id : Nat) (o : Op) : Bool :=
  s.depOk o.uid o.dep && !o.units.any (fun u => s.behind id o u (o.kind == .store))

/-- Entry of an operation. -/
def State.enterOp (s : State) (id : Nat) : State :=
  match s.ops.get? id with
  | none => s
  | some o =>
    let r := s.newId
    (r.2.putOp id { o with released := true, entry := r.1 }).storeThrough o

/-- Whether a unit is performed at a scope (R173). -/
def MUnit.performed (u : MUnit) (o : Op) (sc : Scope) : Bool :=
  u.done || (sc == .team && o.kind == .store && o.entry != 0 && (match u.tgt with | .dev _ => true | _ => false))

/-- The member of an operation leaves once every unit is performed at its key's scope; at SYS, the host's copies go first (R173). -/
def State.tryMember (s : State) (id : Nat) : State :=
  match s.ops.get? id with
  | none => s
  | some o =>
    match o.mem with
    | none => s
    | some m =>
      let sc := (s.warp o.uid).scopeOf o.key
      if o.units.all (fun u => u.performed o sc) then
        let t := if sc == .sys && !o.kind.reads then o.units.foldl (fun s u => s.toHost u.tgt u.size) s else s
        (t.putOp id { o with mem := none }).post (.memberLeave m)
      else s

/-- RELEASE_NOTICE for an operation (R180). -/
def State.releaseOp (s : State) (id : Nat) : Option State :=
  match s.ops.get? id with
  | none => some s
  | some o =>
    if o.released then some s
    else if s.canEnter id o && (!o.near || s.portRoom o) then some ((s.enterOp id).tryMember id) else none

/-- A scratchpad load that has not entered its ports' queues enters them when it may (R213). -/
def State.enterNear (s : State) (id : Nat) : State :=
  match s.ops.get? id with
  | none => s
  | some o => if o.near && o.entry == 0 && o.kind.reads && s.canEnter id o && s.portRoom o then s.enterOp id else s

/-! The end of an operation. -/

/-- A load's value in its destination registers: words of each lane from its units in order (R218). -/
def laneValue (signed : Bool) (us : List MUnit) : List Word :=
  let b := us.flatMap (fun u => u.val)
  if b.length < 4 then
    let v := BitVec.ofNat 32 (leNat b)
    [if signed then (if b.length = 1 then (v.setWidth 8).signExtend 32 else (v.setWidth 16).signExtend 32) else v]
  else wordsOf b

/-- The register writes of a finished load or atomic: served lanes only (R216). -/
def Op.writes (o : Op) : List RegWrite :=
  let refused := o.units.any (fun u => u.bad)
  let lanes := (lanesOf o.lanes).filter (fun l => !(refused && o.units.any (fun u => u.lane == l && u.bad)))
  let signed := match o.kind with | .load b => b | _ => false
  let vals := lanes.map (fun l =>
    (l, match o.kind with
      | .ldl _ => [nth (wordsOf (o.units.flatMap (fun u => u.val))) (l % 32) 0]
      | .cstm _ => wordsOf ((o.units.take 1).flatMap (fun u => u.val))
      | _ => laneValue signed (o.units.filter (fun u => u.lane == l))))
  let k := ((vals.map (fun p => p.2.length)).foldl max 0)
  (List.range k).filterMap (fun i =>
    if vals.isEmpty then none else some (.v (o.d + i) (vals.map (fun p => (p.1, nth p.2 i 0)))))

/-- The input log's entry for lanes of a memory instruction that were refused: KIND 1 as for values, bit 31 of the register's word
set, and each lane's address as two words (R404; log 83). -/
def State.logRefused (s : State) (o : Op) (refused : List (Nat × Addr)) : State :=
  s.logWarp o.uid 1 (maskWords (maskOf (refused.map Prod.fst)) ++ BitVec.ofNat 32 (2 ^ 31 + o.d) ::
    refused.flatMap (fun q => [q.2.setWidth 32, q.2.extractLsb' 32 32]))

/-- An answered result: what was served is written, at once when lanes were refused (R216), else by the return event. -/
def State.answer (s : State) (o : Op) (rid : Nat) : State :=
  let refused := (o.units.filter (fun u => u.bad)).map (fun u => (u.lane, u.va))
  let ws := o.writes
  let set (f : Result → Result) (s : State) : State :=
    s.modWarp o.uid (fun w => { w with iss := { w.iss with outstanding := w.iss.outstanding.map (fun r =>
      if r.id = rid then f r else r) } })
  if (s.warps.get? o.uid).isNone then s
  else if refused.isEmpty then
    (set (fun r => { r with ready := true, writes := ws }) s).post (.registerResultReturn o.uid rid)
  else set (fun r => { r with ready := true, refused := refused })
    (((s.logRefused o refused).logResult o.uid { id := rid, writes := ws, word := o.word }).writeback o.uid ws (fun p => !p.waits.contains rid))

/-- A store that was refused sets its key's violation flag (R184, R216). A flag newly set has its fault record, of the lowest
lane refused, and one report that names it (R19, R20, R106). -/
def State.refuseStore (s : State) (o : Op) (u : MUnit) : State :=
  if (s.warps.get? o.uid).isNone || ((s.warp o.uid).key o.key).viol then s
  else
    let w := s.warp o.uid
    let q := s.record o.ctx (s.identify w u.lane
      { cause := 0x16, engine := 3, inst := o.core, key := o.key, ring := o.seq.toNat % 4, gen := o.seq.toNat,
        addr := u.va.toNat, cycles := (s.core o.core).cyc })
    (q.1.modWarp o.uid (fun w => w.setKey o.key { w.key o.key with viol := true })).addReport o.uid
      { cause := 0x16, addr := BitVec.ofNat 64 q.2, key := o.key }

/-- A finished operation: every unit is performed or refused. Poisoned data in a register end the context (R427). -/
def State.tryEnd (s : State) (id : Nat) : State :=
  match s.ops.get? id with
  | none => s
  | some o =>
    if !o.units.all (fun u => u.done) then s.tryMember id
    else
      let s1 := s.tryMember id
      let s2 := { s1 with ops := s1.ops.erase id }
      match o.res with
      | some rid => s2.answer o rid
      | none =>
        match o.units.find? (fun u => u.bad) with
        | some u => s2.refuseStore o u
        | none => s2

/-- A unit of an operation done with a value, or refused. -/
def State.doneUnit (s : State) (id i : Nat) (val : List Byte) (bad : Bool) : State :=
  match s.ops.get? id with
  | none => s
  | some o =>
    let u := nth o.units i { lane := 0, tgt := .dev 0, size := 0 }
    s.putOp id { o with units := setAt o.units i { u with done := true, bad := bad, val := val } }

/-- What a store or atomic adds to its core's digest: its keys, and of every access that leaves the core its address, size and
data (R406). -/
def State.sends (s : State) (o : Op) : State :=
  let out := o.units.filter (fun u => match u.tgt with
    | .guard _ _ => false
    | t => s.portOf o.core t != some (o.core, 0))
  if o.kind.reads || out.isEmpty then s
  else s.outward o.core o.ctx (o.key :: o.kc :: out.flatMap (fun u => u.tgt.span.2.2 :: u.size :: (u.data ++ u.data2).map BitVec.toNat))

/-- Whether requests to a target wait for credits (R313). How many of them the load-store queue holds before a warp parks the
spec does not say: any number (log 44). -/
def State.creditless (s : State) (ctx : Nat) : Target → Bool
  | .net d _ => (match s.channelTo ctx d with | some (_, c) => c.credits == 0 && !c.unsent.isEmpty | none => false)
  | _ => false

/-- Sets an operation going, after its keys: a scratchpad instruction enters at once when it may, and a store or an atomic at once
or after later ones, freely, since accesses of different lanes or bytes are unordered (R176); else it waits for its notice. A warp parks where its requests
wait for credits (R313), with a seventeenth ticket (R180), and so does a scratchpad instruction that a full queue of a port keeps
from issuing (R213). -/
def Cx.launchOp (c : Cx) (s : State) (o : Op) (names : List RegName) : Except Stop State :=
  let held := s.tickets c.uid
  if o.units.any (fun u => s.creditless o.ctx u.tgt) && s.choose 8950 2 = 1 then .error (.park .memq s)
  else if o.near && s.canEnter s.fresh o && !s.portRoom o then .error (.park .bank s)
  else if !o.kind.reads && !s.depOk c.uid o.dep && !held.any o.dep.same && decide (16 ≤ held.length) then
    .error (.park .keyWait s)
  else if o.units.isEmpty then
    .ok (match o.mem with | some m => s.post (.memberLeave m) | none => s)
  else
    let r := s.newId
    let q := r.2.newId
    let s1 := if names.isEmpty then r.2
      else q.2.modWarp c.uid (fun w => { w with iss := { w.iss with outstanding := w.iss.outstanding ++
        [{ id := q.1, names := names, ready := false, word := s.word }] } })
    let o1 := if names.isEmpty then o else { o with res := some q.1 }
    let s2 := (s1.sends o).putOp r.1 o1
    let s3 := if o.kind.reads then s2.enterNear r.1
      else
        match (if o.near || s.choose 8960 2 = 0 then s2.releaseOp r.1 else none) with
        | some t => t
        | none => s2.post (.releaseNotice r.1)
    .ok (s3.postAll (o.units.zipIdx.map (fun p => unitEvent r.1 p.2 o.kind p.1.tgt)))

/-- The units of one lane: a 16-byte access is two of 8 (R177). -/
def unitsOf (lane n : Nat) (va : Addr) (t : Target) (data : List Byte) : List MUnit :=
  if n = 16 then
    [{ lane := lane, tgt := t, size := 8, va := va, data := data.take 8 },
     { lane := lane, tgt := t.plus 8, size := 8, va := va, data := data.drop 8 }]
  else [{ lane := lane, tgt := t, size := n, va := va, data := data }]

/-- Bytes that several lanes of one store write take the value of the highest lane (R204). -/
def highestWins (us : List MUnit) : List MUnit :=
  us.map (fun u => { u with data := u.data.zipIdx.map (fun p =>
    us.foldl (fun b v =>
      let a := u.tgt.span
      let d := v.tgt.span
      if a.1 == d.1 && a.2.1 == d.2.1 && decide (u.lane < v.lane) && decide (d.2.2 ≤ a.2.2 + p.2) &&
        decide (a.2.2 + p.2 < d.2.2 + v.size) then nth v.data (a.2.2 + p.2 - d.2.2) b else b) p.1) })

end Sys2Proof.Machine
end

