-- ==== Sys2Proof/Machine/Window.lean ====
section
/-! DEFINITION. What stands behind a window address: registers, accumulator words, port-buffer entries and receive counters
(R23, R24, R214, R241, R263). -/

namespace Sys2Proof.Machine

open Sys2Proof

/-- Key of an accumulator word. -/
def tileKey (core tile word : Nat) : Nat := core * 2 ^ 18 + tile * 2 ^ 14 + word

/-- The lane a register-window slot and lane name (R24). -/
def slotLane (w : Warp) (slot lane : Nat) : Nat := if w.id.wide && slot % 2 = 1 then lane + 32 else lane

/-- The warp, port and lane behind a frame of a core's port buffer (R231, R241). -/
def State.frameOwner (s : State) (core f l : Nat) : Option (Nat × Nat × Nat) :=
  match s.warps.find? (fun kv => !kv.2.retired && kv.2.id.place.isSome && kv.2.core == core &&
      (match kv.2.id.weave with
        | some k => decide (4 * k ≤ f) && decide (f < 4 * k + (if kv.2.id.wide then 8 else 4))
        | none => false)) with
  | some (u, w) =>
    let d := f - 4 * w.id.weave.getD 0
    if w.id.wide then some (u, 2 + d / 2, l + 32 * (d % 2)) else some (u, 2 + d, l)
  | none => none

/-- A receive counter of a core. -/
def State.rc (s : State) (core n : Nat) : Rc := (s.core core).rcs.getD n {}

/-- The state with a receive counter replaced. -/
def State.putRc (s : State) (core n : Nat) (r : Rc) : State := s.modCore core (fun k => { k with rcs := k.rcs.set n r })

/-- The state word of a receive counter (R263). -/
def Rc.word (r : Rc) : Word :=
  BitVec.ofNat 32 (r.st * 2 ^ 30 + (if r.arrivedIdle then 2 else 0) + (if r.ovf then 1 else 0))

/-- The word at an aligned window address. -/
def State.winWord (s : State) (pa : Nat) : Word :=
  match placeOf pa with
  | .register c slot r lane _ => (match s.warpAt c slot with | some (_, w) => w.vreg r (slotLane w slot lane) | none => 0)
  | .tile c t i _ => s.tiles.getD (tileKey c t i) 0
  | .port c f e l _ =>
    (match s.frameOwner c f l with
      | some (u, p, lane) =>
        let x := (s.warp u).port p
        if x.st == .unbound then 0
        else ((((x.lane lane).takeWhile (fun v => v.vis))[e]?).map (fun v => v.val)).getD 0
      | none => 0)
  | .counter c o =>
    if 0x400 ≤ o then 0
    else
      let r := s.rc c (o / 16)
      match o / 4 % 4 with
      | 0 => BitVec.ofNat 32 r.count
      | 1 => BitVec.ofNat 32 r.target
      | 2 => r.word
      | _ => 0
  | _ => 0

/-- Bytes at a window address. -/
def State.winRead (s : State) (pa n : Nat) : List Byte :=
  let first := pa / 4 * 4
  let words := (List.range ((pa % 4 + n + 3) / 4)).map (fun i => s.winWord (first + 4 * i))
  ((bytesOfWords words).drop (pa % 4)).take n

/-- Whether what stands behind a word of a window is marked poison (R427). -/
def State.winWordBad (s : State) (pa : Nat) : Bool :=
  match placeOf pa with
  | .register c slot r lane _ => (match s.warpAt c slot with | some (_, w) => w.bad.contains (r, slotLane w slot lane) | none => false)
  | .tile c t i _ => (s.core c).badAcc.contains (t * 2 ^ 14 + i)
  | .port c f e l _ =>
    (match s.frameOwner c f l with
      | some (u, p, lane) => ((((s.warp u).port p).lane lane)[e]?).any (fun v => v.bad)
      | none => false)
  | _ => false

/-- Whether bytes at a window address are marked poison. -/
def State.winBad (s : State) (pa n : Nat) : Bool :=
  (List.range ((pa % 4 + n + 3) / 4)).any (fun i => s.winWordBad (pa / 4 * 4 + 4 * i))

/-- ARRIVED_IDLE and OVF are cleared by ones (R263, R264). -/
def Rc.clear (r : Rc) (b : Nat) : Rc :=
  { r with arrivedIdle := r.arrivedIdle && !bitAt b 1, ovf := r.ovf && !bitAt b 0 }

/-- Whether a dependence of a warp covers a member: the member's generation is at or below that of the component of its key
(R171). -/
def State.covers (s : State) (uid : Nat) (d : Dep) (m : Nat) : Bool :=
  match s.members.get? m with
  | some x =>
    let w := s.warp uid
    x.uid == uid && d.comps.any (fun c => c.1 == x.key && decide ((w.key x.key).below c.2 ≤ (w.key x.key).below x.seq))
  | none => false

/-- Writes one word at an aligned window address. Matrix posts that wait for capture take the old word or the new (R286), but
for a post whose dependence covers the member `writer` of the writer: that one is performed before the grant, so the post captures
the new word (R174; log 77). `ones` is what a write-one-to-clear field sees. -/
def State.winPut (s : State) (writer : Option Nat) (pa : Nat) (v : Word) (ones : Nat) : State :=
  match placeOf pa with
  | .register c slot r lane _ =>
    (match s.warpAt c slot with
      | some (u, w) =>
        (s.logWarp u 7 (maskWords (laneBit (slotLane w slot lane)) ++ [BitVec.ofNat 32 r, v])).writeback u
          [.v r [(slotLane w slot lane, v)]] (fun p => !writer.any (s.covers p.uid p.dep))
      | none => s)
  | .tile c t i _ => { s with tiles := if v = 0 then s.tiles.erase (tileKey c t i) else s.tiles.set (tileKey c t i) v }
  | .port c f e l _ =>
    (match s.frameOwner c f l with
      | some (u, p, lane) =>
        let w := s.warp u
        let x := w.port p
        if e < x.ready lane && x.st != .unbound then
          let q := x.lane lane
          let q' := q.zipIdx.map (fun y => if y.2 = e then { y.1 with val := v } else y.1)
          (s.logWarp u 2 (maskWords (laneBit lane) ++ [BitVec.ofNat 32 (p + (e + 1) * 2 ^ 8), v])).putWarp u
            (w.setPort p { x with queue := x.queue.set lane q' })
        else s
      | none => s)
  | .counter c o => if o < 0x400 && o / 4 % 4 = 2 then s.putRc c (o / 16) ((s.rc c (o / 16)).clear ones) else s
  | _ => s

/-- Marks one word behind a window, or takes its mark off (R427). Poisoned data that would reach a register ends the context of its warp. -/
def State.winMark (s : State) (on : Bool) (pa : Nat) : State :=
  match placeOf pa with
  | .register c slot r lane _ =>
    (match s.warpAt c slot with
      | some (u, w) =>
        if on then s.endTainted w pa
        else s.modWarp u (fun w => { w with bad := w.bad.filter (fun b => b != (r, slotLane w slot lane)) })
      | none => s)
  | .tile c t i _ =>
    let a := t * 2 ^ 14 + i
    s.modCore c (fun k => { k with badAcc := if on then addNew k.badAcc [a] else k.badAcc.filter (fun b => b != a) })
  | .port c f e l _ =>
    (match s.frameOwner c f l with
      | some (u, p, lane) => s.modWarp u (fun w =>
          let x := w.port p
          w.setPort p { x with queue := x.queue.set lane ((x.lane lane).zipIdx.map (fun y => if y.2 = e then { y.1 with bad := on } else y.1)) })
      | none => s)
  | _ => s

/-- Poisoned data written at a window address: every word that they touch (R259, R427). -/
def State.winTaint (s : State) (pa n : Nat) : State :=
  ((List.range ((pa % 4 + n + 3) / 4)).map (fun i => pa / 4 * 4 + 4 * i)).foldl (State.winMark · true) s

/-- Takes the marks off the 8-byte units behind a window that a span covers whole; there are none to take where nothing is marked. -/
def State.winCleanAll (s : State) (pa n : Nat) : State :=
  (((List.range ((n + 3) / 4)).map (fun i => pa / 4 * 4 + 4 * i)).filter (fun a =>
    decide (pa ≤ a / 8 * 8) && decide (a / 8 * 8 + 8 ≤ pa + n) && s.winWordBad a)).foldl (State.winMark · false) s

/-- Writes bytes at a window address, word by word, for the member `writer` if the write has one. -/
def State.winWrite (s : State) (writer : Option Nat) (pa : Nat) (l : List Byte) : State :=
  let first := pa / 4 * 4
  (List.range ((pa % 4 + l.length + 3) / 4)).foldl (fun s i =>
    let at0 := first + 4 * i
    let old := bytesOfWords [s.winWord at0]
    let new := old.zipIdx.map (fun p => if decide (pa ≤ at0 + p.2) then (l[at0 + p.2 - pa]?).getD p.1 else p.1)
    let ones := old.zipIdx.map (fun p => if decide (pa ≤ at0 + p.2) then (l[at0 + p.2 - pa]?).getD 0 else 0)
    s.winPut writer at0 (BitVec.ofNat 32 (leNat new)) (leNat ones)) (s.winCleanAll pa l.length)

/-- Writes bytes into a near space under R209: presence does not matter to a store that got here; poison goes where one
instruction wrote a whole line. -/
def State.unpoison (s : State) (team line : Nat) : State :=
  s.modTeam team (fun t => { t with poison := t.poison.filter (fun l => l != line) })

end Sys2Proof.Machine
end

