-- ==== Sys2Proof/Machine/Fabric.lean ====
section
/-! DEFINITION. The fabric engine as a sender: channels, credits, sequences and retry (R306 to R318), the violation log
(R217), and the events of channels and responses. -/

namespace Sys2Proof.Machine

open Sys2Proof

/-- The fabric engine's mesh-clock count; the engine's parts share the count of die 0 (log 4). -/
def State.fabClock (s : State) : Nat := (s.die 0).mesh

/-- The hash lane of a target physical address (R317). -/
def hashLane (p : Nat) : Nat :=
  ((List.range 10).foldl (fun h i => h ^^^ bits p (10 + 4 * i) (7 + 4 * i)) 0) ^^^ bits p 47 47

/-- Adds an entry to the remote-violation log and notifies management firmware (R217). The log keeps 256 entries. -/
def State.violate (s : State) (kind source ch addr reason : Nat) : State :=
  let w (n : Nat) : Word := BitVec.ofNat 32 n
  let e := [w (kind + source * 2 ^ 8), w ch, w addr, w (addr / 2 ^ 32), w s.fabClock, w (s.fabClock / 2 ^ 32), w reason, 0]
  let full := decide (256 ≤ s.fab.vlog.length)
  let f := { s.fab with
    vlog := (if full then s.fab.vlog.drop 1 else s.fab.vlog) ++ [e]
    overflow := if full then s.fab.overflow + 1 else s.fab.overflow }
  { s with fab := f }.emit (.notice 1 reason)

/-- SOLD: the oldest sequence sent and not answered, or the next one (R311). One that ended after its last attempt is not
answered. -/
def Chan.oldest (c : Chan) : BitVec 16 :=
  match c.sent.map (fun x => x.req.seq) ++ c.late with
  | [] => c.snext
  | x :: t => t.foldl (fun a y => if (c.snext - a).toNat < (c.snext - y).toNat then y else a) x

/-- Whether a channel has a credit and a sequence for one more request, with nothing waiting (R312, R313, R315). -/
def State.canSend (s : State) (ch : Nat) : Bool :=
  let c := s.chan ch
  c.unsent.isEmpty && c.credits != 0 && (c.st == .cached || c.st == .closing) && decide ((c.snext - c.oldest).toNat < 256)

/-- Sends the head of a channel's waiting requests when a credit and a sequence are free (R313, R315). The hash lane of a write
that its target translates is that of the address as sent (log 41). -/
def State.sendHead (s : State) (ch : Nat) : Option State :=
  let c := s.chan ch
  match c.unsent with
  | [] => none
  | x :: t =>
    if c.credits = 0 || (c.st != .cached && c.st != .closing) || decide (256 ≤ (c.snext - c.oldest).toNat) then none
    else
      let h := hashLane x.req.addr
      let seq := c.snext
      let r := { x.req with ch := c.peerCh, seq := seq, pred := c.laneSeq.getD h seq,
                            sold := if c.sent.isEmpty then seq else c.oldest, valid := true, std := false, src := s.fab.device }
      let c1 := { c with unsent := t, snext := seq + 1, credits := c.credits - 1, laneSeq := c.laneSeq.set h seq,
                         sent := c.sent ++ [{ x with req := r, at0 := s.fabClock }], used := s.tick }
      some (((s.putChan ch { c1 with sold := c1.oldest }).emit (.request ch r)).post (.fabricRetryTimeout ch seq.toNat))

/-- Sends what can be sent on a channel. -/
def State.pump (s : State) (ch : Nat) : Nat → State
  | 0 => s
  | n + 1 =>
    match s.sendHead ch with
    | some t => t.pump ch n
    | none => s

/-- A channel is wanted: an evicted one starts its fetch (R312). -/
def State.wantChan (s : State) (ch : Nat) : State :=
  let c := s.chan ch
  if c.st = .evicted then (s.putChan ch { c with st := .fetching }).post (.channelFetchComplete ch)
  else s.pump ch c.unsent.length

/-- Queues a request on a channel and sends what can be sent. -/
def State.enqueue (s : State) (ch : Nat) (x : Sent) : State :=
  let c := s.chan ch
  (s.putChan ch { c with unsent := c.unsent ++ [x] }).wantChan ch

/-- A request before the channel numbers it. -/
def bareReq (ch addr : Nat) (write : Bool) (data : List (Nat × Byte)) (len : Nat) : FabReq :=
  { ch := ch, seq := 0, pred := 0, sold := 0, valid := true, std := false, write := write, addr := addr, data := data, len := len }

/-- Sends a request to a device for a context; none without a channel, which the initiator takes as a refusal (R308). -/
def State.requestOf (s : State) (ctx dev : Nat) (own : List SentFor) (r : FabReq) : Option State :=
  match s.channelTo ctx dev with
  | none => none
  | some (ch, _) => some (s.enqueue ch { own := own, req := { r with ch := ch } })

/-- A plain read or write of another device. -/
def State.request (s : State) (ctx dev : Nat) (own : List SentFor) (addr : Nat) (write : Bool) (data : List (Nat × Byte))
    (len : Nat) : Option State := s.requestOf ctx dev own (bareReq 0 addr write data len)

/-- What an engine's read of another device comes to (R215, R308). -/
inductive FarR where
  | wait (s : State)
  | refused
  | ok (l : List Byte)

/-- An engine's read of `n` bytes of another device: asked for once, and kept until the engine is done. -/
def State.farRead (s : State) (who : WalkFor) (ctx dev va pa n : Nat) : FarR :=
  match s.fars.find? (fun f => f.who == who && f.va == va) with
  | some f =>
    (match f.data with
      | none => .wait s
      | some [] => .refused
      | some l => .ok l)
  | none =>
    match State.request { s with fars := { who := who, va := va } :: s.fars } ctx dev [.far who va] pa false [] n with
    | none => .refused
    | some t => .wait t

/-- An engine is done with what it read of other devices. -/
def State.dropFars (s : State) (who : WalkFor) : State := { s with fars := s.fars.filter (fun f => f.who != who) }

/-- Base address of the message window (R309). -/
def msgBase : Nat := 0xFF0000000000

/-- A message of a kind on a channel: a 64-byte write to the peer's window (R309). -/
def State.message (s : State) (ch kind : Nat) (own : List SentFor) (words : List Word) : State :=
  let c := s.chan ch
  let data := (bytesOfWords (words ++ List.replicate (16 - words.length) 0)).zipIdx.map (fun p => (p.2, p.1))
  s.enqueue ch { own := own, req := bareReq ch (msgBase + kind * 2 ^ 36 + c.peerCh * 2 ^ 16) true data 64 }

/-! Device groups (R321). -/

/-- The fields of a group entry's words. -/
def groupEntry (l : List Word) : GroupEnt :=
  let w (i : Nat) : Nat := (nth l i 0).toNat
  { size := bits (w 0) 10 0, swred := bitAt (w 0) 29, st := bits (w 0) 31 30, rank := bits (w 1) 9 0, epoch := bits (w 1) 23 16,
    map := w 2 + w 3 * 2 ^ 32, seq := nth l 4 0, timeout := w 5 }

/-- Where an entry of a context's group table lies: at the base that system software has set. -/
def State.groupAt (s : State) (ctx g : Nat) : Option Nat := (s.groups.get? ctx).map (fun b => b + 32 * g)

/-- A group entry of a context; without a table every entry is FREE. -/
def State.groupOf (s : State) (ctx g : Nat) : GroupEnt :=
  match s.groupAt ctx g with
  | some a => groupEntry (wordsOf (s.peek a 32))
  | none => {}

/-- The engine reads a group entry (R321, R382); how often it does the spec does not say: once for each message, each acceptance
and each device number that it looks up (log 78). -/
def State.groupRead (s : State) (ctx g : Nat) : State :=
  match s.groupAt ctx g with
  | some a => s.scan 0 a 32
  | none => s

/-- The state with the fields changed that the engine keeps in a group entry: STATE and SEQ. -/
def State.modGroup (s : State) (ctx g : Nat) (f : GroupEnt → GroupEnt) : State :=
  match s.groupAt ctx g with
  | some a =>
    let x := f (s.groupOf ctx g)
    let w0 := (s.peekWord a).toNat % 2 ^ 30 + x.st % 4 * 2 ^ 30
    (s.wrWords a [BitVec.ofNat 32 w0]).wrWords (a + 16) [x.seq]
  | none => s

/-- The device number of a rank: half-word `rank` of MAP, bits 9:0 (R321). -/
def State.rankDevice (s : State) (g : GroupEnt) (rank : Nat) : Nat := leNat (s.peek (g.map + 2 * rank) 2) % 1024

/-- The channel number by which a context's messages to this device itself are known. -/
def selfChan (ctx : Nat) : Nat := 2 ^ 20 + ctx

/-- The collective header of a message: kind, group, epoch, the sender's rank, number and index (R310). -/
def collHeader (g : GroupEnt) (group kind n index : Nat) : List Word :=
  let w (n : Nat) : Word := BitVec.ofNat 32 n
  [w (kind + 2 ^ 8 + group * 2 ^ 16 + g.epoch * 2 ^ 24), w g.rank, w n, w index]

/-- The event of a collective message. -/
def collEvent (kind : Nat) (m : Msg) : Ev :=
  match kind with
  | 4 => .entryMsg m
  | 5 => .expMsg m
  | 6 => .goMsg m
  | 7 => .contribMsg m
  | 8 => .resultMsg m
  | 9 => .doneMsg m
  | _ => .mismatchMsg m

/-- Sends a collective message to a rank: over a channel, or to this device itself. -/
def State.collSend (s : State) (ctx group kind n index rank : Nat) (own : List SentFor) (body : List Word) : State :=
  let g := s.groupOf ctx group
  let s := s.scan 0 (g.map + 2 * rank) 2
  let words := collHeader g group kind n index ++ body
  let full := words ++ List.replicate (16 - words.length) 0
  if s.rankDevice g rank = s.fab.device then s.post (collEvent kind { ch := selfChan ctx, words := full })
  else
    match s.channelTo ctx (s.rankDevice g rank) with
    | some (ch, _) => s.message ch kind own full
    | none => s

/-- Sends a collective message to every rank. -/
def State.collAll (s : State) (ctx group kind n index : Nat) (body : List Word) : State :=
  (List.range (s.groupOf ctx group).size).foldl (fun s r => s.collSend ctx group kind n index r [] body) s

/-- A collective of this device. -/
def State.coll (s : State) (ctx group n : Nat) : Option Coll :=
  s.colls.find? (fun k => k.ctx == ctx && k.group == group && k.n.toNat == n)

/-- The state with a collective replaced, or added. -/
def State.putColl (s : State) (k : Coll) : State :=
  let same (x : Coll) : Bool := x.ctx == k.ctx && x.group == k.group && x.n == k.n
  if s.colls.any same then { s with colls := s.colls.map (fun x => if same x then k else x) }
  else { s with colls := s.colls ++ [k] }

/-- DONE goes to every member once every root has acknowledged its results (R325 step 5). -/
def State.tryDone (s : State) (ctx group n : Nat) : State :=
  match s.coll ctx group n with
  | none => s
  | some k =>
    if k.resultSent && k.acks == 0 && !k.doneSent then (s.putColl { k with doneSent := true }).collAll ctx group 9 n 0 []
    else s

/-- A root's acknowledgement of a RESULT message. -/
def State.ackResult (s : State) (ctx group n : Nat) : State :=
  match s.coll ctx group n with
  | none => s
  | some k => (s.putColl { k with acks := k.acks - 1 }).tryDone ctx group n

/-! Exports (R311). -/

/-- An export entry. -/
structure Export where
  base : Nat
  size : Nat
  r : Bool
  w : Bool
  secure : Bool

/-- The export list of a channel. -/
def State.exports (s : State) (c : Chan) : List Export :=
  (List.range c.nexport).map (fun i =>
    let w := wordsOf (s.peek (c.exports + 16 * i) 16)
    let f := (nth w 3 0).toNat
    { base := (pair (nth w 0 0) (nth w 1 0)).toNat, size := (nth w 2 0).toNat, r := bitAt f 0, w := bitAt f 1, secure := bitAt f 2 })

/-- The reason an access of `n` bytes is not served (R311, R414): 1 no export, 2 permission, 3 world; none when it is. No
export covers the message window. -/
def State.exportBad (s : State) (c : Chan) (pa n : Nat) (rd wr : Bool) : Option Nat :=
  let es := (s.exports c).filter (fun e => decide (e.base ≤ pa) && decide (pa + n ≤ e.base + e.size))
  let perm := es.filter (fun e => (!rd || e.r) && (!wr || e.w))
  if es.isEmpty || decide (msgBase < pa + n) then some 1
  else if perm.isEmpty then some 2
  else if perm.all (fun e => e.secure != c.secure) then some 3
  else if s.placeSecure pa != c.secure then some 3
  else none

/-- The answer to a landing of a copy reaches it; `core` is a counter core that the answer names. -/
def State.landingAnswer (s : State) (id ix reason : Nat) (core : Option (Nat × Nat)) : State :=
  match s.copies.get? id with
  | none => s
  | some c =>
    let pend := c.pend.map (fun l => if l.ix = ix then { l with answer := some reason } else l)
    let cores := match core with
      | some k => if c.cores.contains k then c.cores else c.cores ++ [k]
      | none => c.cores
    { s with copies := s.copies.set id { c with pend := pend, cores := cores } }.post (.copyLanding id ix)

/-- The answer to a read of a copy's source element; a refusal is kept as an empty value. -/
def State.fetchAnswer (s : State) (id pos reason : Nat) (data : List Byte) : State :=
  { s with copies := s.copies.modify id (fun c => { c with got := c.got.set pos (if reason = 0 then data else []) }) }

/-- The reason of R267 for a refused write or signal of a copy: 8 and 9 are answered as such (log 40), all others are 7. -/
def endReason (reason : Nat) : Nat := if reason = 8 || reason = 9 then reason else 7

/-- An answer to a Creel's write of another device: its release goes on when all have come, and a refused one faults the
buffer (R338, R340). -/
def State.creelAnswer (s : State) (b id slot va reason : Nat) : State :=
  match s.bufs.get? b with
  | none => s
  | some x =>
    if id = 0 then
      if reason = 0 then s
      else { s with bufs := s.bufs.set b { x with logBad := some (x.logBad.getD (slot, va)) } }.post (.creelRelease b)
    else
      match x.rel with
      | none => s
      | some r =>
        if r.id != id then s
        else
          let r1 := { r with owed := r.owed - 1, bad := if reason = 0 then r.bad else some (r.bad.getD va) }
          let s1 : State := { s with bufs := s.bufs.set b { x with rel := some r1 } }
          if r1.owed = 0 then s1.post (.creelRelease b) else s1

/-- The bytes of a load's unit: those that another lane has read already are what it read, so that lanes reading one word of
another device receive one value whichever response binds it (R204, R308). -/
def Op.shared (o : Op) (u : MUnit) (val : List Byte) : List Byte :=
  val.zipIdx.map (fun p =>
    let a := u.tgt.span.2.2 + p.2
    match o.units.find? (fun v => v.done && !v.bad && v.tgt.span.1 == u.tgt.span.1 && v.tgt.span.2.1 == u.tgt.span.2.1 &&
        decide (v.tgt.span.2.2 ≤ a) && decide (a < v.tgt.span.2.2 + v.size)) with
    | some v => nth v.val (a - v.tgt.span.2.2) p.1
    | none => p.1)

/-- A completion word that cannot be written is dropped, and the distributor leaves a fault record (R358). -/
def State.dropWord (s : State) (ctx die grid : Nat) (a : Addr) : State :=
  (s.record ctx { cause := 0x08, engine := 10, inst := die, grid := grid, addr := a.toNat, cycles := (s.die die).mesh }).1

/-- DST of a copy's record: the destination of its first element (R249). -/
def Copy.first (c : Copy) : Nat := (nth c.rc 2 0).toNat + (nth c.rc 3 0).toNat * 2 ^ 32

/-- The outcome of a request reaches what it belongs to (R216, R256, R183). A member of a reduction whose message is refused fails
as any copy refused by a remote target, and a RESULT that a root refuses ends the collective (R325, R326). -/
def State.outcome (s : State) (peer : Nat) (x : Sent) (reason : Nat) (data : List Byte) : SentFor → State
  | .unit op i =>
    if reason != 0 then s.post (.remoteRefusal op i reason)
    else
      match s.ops.get? op with
      | none => s
      | some o =>
        let u := nth o.units i { lane := 0, tgt := .dev 0, size := 0 }
        let val := match o.kind with
          | .store => []
          | .atomic _ => data.take u.size
          | _ => o.shared u ((data.drop (u.tgt.span.2.2 - x.req.addr)).take u.size)
        (s.doneUnit op i val false).tryEnd op
  | .landing c ix =>
    s.landingAnswer c ix reason (if x.req.virt && data.length == 2 then some (peer, leNat data) else none)
  | .fetch c pos => s.fetchAnswer c pos reason data
  | .chime id =>
    match s.chimes.get? id with
    | none => s
    | some k =>
      let s1 := if (s.warps.get? k.uid).isNone then s
        else s.modWarp k.uid (fun w => { w with kf := { w.kf with sendq := dropFirst (fun q => q.out) w.kf.sendq } })
      if reason != 0 then s1.post (.chimeDiscard id)
      else
        match k.mem with
        | some m => { s1 with chimes := s1.chimes.erase id }.post (.memberLeave m)
        | none => { s1 with chimes := s1.chimes.erase id }
  | .signal c =>
    { s with copies := s.copies.modify c (fun k =>
        { k with sigs := k.sigs - 1, fail := if reason != 0 && k.fail.isNone && !k.cancel then some (endReason reason, true, 0) else k.fail }) }
  | .member c =>
    if reason = 0 then s
    else { s with copies := s.copies.modify c (fun k =>
        { k with fail := if k.fail.isNone && !k.cancel then some (7, true, BitVec.ofNat 64 k.first) else k.fail }) }.post (.copyChunkRead c)
  | .word ctx die grid a => if reason = 0 then s else s.dropWord ctx die grid a
  | .result ctx g n =>
    if reason = 0 then s.ackResult ctx g n
    else s.post (collEvent 10 { ch := selfChan ctx, words := collHeader (s.groupOf ctx g) g 10 n 0 ++ 4 :: List.replicate 11 0 })
  | .far who va =>
    { s with fars := s.fars.map (fun f => if f.who == who && f.va == va then { f with data := some (if reason = 0 then data else []) } else f) }
  | .creel b id slot va => s.creelAnswer b id slot va reason
  | .message => s

/-- A request of a channel that ends: it leaves the sender's list, and what it belongs to hears of it. -/
def State.endSent (s : State) (ch : Nat) (x : Sent) (reason : Nat) (data : List Byte) : State :=
  let c := s.chan ch
  let c1 := { c with sent := c.sent.filter (fun y => y.req.seq != x.req.seq) }
  x.own.foldl (fun s o => s.outcome c.peer x reason data o) (s.putChan ch { c1 with sold := c1.oldest })

/-- FABRIC_RESPONSE (R315): outcome, data and one credit. An answer to a request that has ended returns the credit alone (R313,
R318). -/
def execFabricResponse (r : FabResp) (s : State) : Host.Outcome State Fault Refusal :=
  match s.chans.get? r.ch with
  | none => ran s
  | some c =>
    match c.sent.find? (fun x => x.req.seq == r.seq) with
    | none =>
      if c.late.contains r.seq then
        let c1 := { c with credits := c.credits + 1, late := c.late.filter (fun q => q != r.seq) }
        ran ((s.putChan r.ch { c1 with sold := c1.oldest }).pump r.ch c.unsent.length)
      else ran s
    | some x =>
      let s1 := s.putChan r.ch { c with credits := c.credits + 1 }
      let s2 := s1.endSent r.ch x r.reason r.data
      ran (s2.pump r.ch (s2.chan r.ch).unsent.length)

/-- REMOTE_REFUSAL (R216): a lane's access was refused; nothing of it was applied. -/
def execRemoteRefusal (id unit _reason : Nat) (s : State) : Host.Outcome State Fault Refusal :=
  match s.ops.get? id with
  | none => ran s
  | some o =>
    if (nth o.units unit { lane := 0, tgt := .dev 0, size := 0, done := true }).done then ran s
    else ran ((s.doneUnit id unit [] true).tryEnd id)

/-- When a sent request's retry falls due (R318). -/
def State.retryDue (s : State) (ch seq : Nat) : Option Nat :=
  ((s.chan ch).sent.find? (fun x => x.req.seq.toNat == seq)).map (fun x => x.at0 + s.fab.fretry.toNat)

/-- FABRIC_RETRY_TIMEOUT (R318): the request is sent again; after the eighth attempt it ends as refused. -/
def execFabricRetryTimeout (ch seq : Nat) (s : State) : Host.Outcome State Fault Refusal :=
  match (s.chan ch).sent.find? (fun x => x.req.seq.toNat == seq) with
  | none => ran s
  | some x =>
    let s0 := s.reachMesh 0 (x.at0 + s.fab.fretry.toNat)
    let c := s0.chan ch
    if x.tries < 8 then
      let y := { x with tries := x.tries + 1, at0 := s0.fabClock }
      ran (((s0.putChan ch { c with sent := c.sent.map (fun z => if z.req.seq == x.req.seq then y else z) }).emit
        (.request ch x.req)).post (.fabricRetryTimeout ch seq))
    else
      let s1 := ((s0.putChan ch { c with errs := min 0xFFFFFFFF (c.errs + 1), late := c.late ++ [x.req.seq] }).endSent ch x 7 []).emit
        (.notice 2 ch)
      ran (s1.pump ch (s1.chan ch).unsent.length)

/-- FABRIC_PORT_DOWN (R318): hash lanes of the port move to the ports named, and requests in flight are sent again. Moves
are (peer, hash lane, port). -/
def execFabricPortDown (port : Nat) (moves : List (Nat × Nat × Nat)) (s : State) : Host.Outcome State Fault Refusal :=
  let key (m : Nat × Nat × Nat) : Nat := m.1 * 16 + m.2.1
  let on (peer addr : Nat) : Bool := s.fab.lanes.get? (peer * 16 + hashLane addr) == some port
  let again := s.chans.flatMap (fun kv => (kv.2.sent.filter (fun x => on kv.2.peer x.req.addr)).map (fun x => Out.request kv.1 x.req))
  let fab := { s.fab with down := addNew s.fab.down [port],
                          lanes := moves.foldl (fun m p => m.set (key p) p.2.2) s.fab.lanes }
  ran (again.foldl State.emit { s with fab := fab })

/-- The fields of a channel entry (R311); none when a zero field is not zero or a field is out of range. The word after the
entry is the credit count of the peer's entry (R313). -/
def chanOf (l : List Word) : Option Chan :=
  let w (i : Nat) : Nat := (nth l i 0).toNat
  let zero := [7, 8, 9, 10, 11, 12, 13, 14, 15] ++ List.range' 16 16
  if !(nth l 0 0).getLsbD 31 || bits (w 0) 29 10 != 0 || bits (w 2) 31 20 != 0 || bits (w 3) 31 16 != 0 ||
      decide (w 3 = 0) || decide (256 < w 3) || decide (16 < w 6) || zero.any (fun i => w i != 0) then none
  else some { peer := bits (w 0) 9 0, secure := (nth l 0 0).getLsbD 30, ctx := w 1, peerCh := w 2, initCred := w 3,
              exports := w 4 + w 5 * 2 ^ 32, nexport := w 6, credits := w 32 }

/-- CHANNEL_CREATE (R312, R314): reserves INITCRED holding entries, or fails. -/
def execChannelCreate (ch : Nat) (words : List Word) (s : State) : Host.Outcome State Fault Refusal :=
  match chanOf words with
  | none => ran (s.emit (.answer 1 [BitVec.ofNat 32 ch]))
  | some c =>
    if (s.chans.get? ch).isSome || decide (1048576 ≤ ch) || decide (s.fab.holding < c.initCred) then
      ran (s.emit (.answer 1 [BitVec.ofNat 32 ch]))
    else
      let s1 := s.putChan ch c
      ran ({ s1 with fab := { s1.fab with holding := s1.fab.holding - c.initCred } }.emit (.answer 0 [BitVec.ofNat 32 ch]))

/-- CHANNEL_CLOSE (R312): CLOSED once nothing is outstanding or held. -/
def execChannelClose (ch : Nat) (s : State) : Host.Outcome State Fault Refusal :=
  match s.chans.get? ch with
  | none => ran s
  | some c =>
    if c.sent.isEmpty && c.unsent.isEmpty && c.holding.isEmpty then
      ran { s with chans := s.chans.erase ch, fab := { s.fab with holding := s.fab.holding + c.initCred } }
    else if c.st = .cached then ran ((s.putChan ch { c with st := .closing }).post (.channelClose ch))
    else ran (s.post (.channelClose ch))

/-- The least recently used cached channel with nothing outstanding, held or waiting (R312). -/
def State.idleChan (s : State) : Option Nat :=
  let l := s.chans.filter (fun kv => kv.2.st == .cached && kv.2.sent.isEmpty && kv.2.unsent.isEmpty && kv.2.holding.isEmpty)
  match l with
  | [] => none
  | x :: t => some (t.foldl (fun a b => if b.2.used < a.2.used then b else a) x).1

end Sys2Proof.Machine
end

