-- ==== Sys2Proof/Machine/Chimes.lean ====
section
/-! DEFINITION. Chimes on their way: out of the send queue, into an inbox, or discarded, and the CHIME message (R181 to R183,
R192, R193, R310). -/

namespace Sys2Proof.Machine

open Sys2Proof

/-- The warp a chime names on this device; none when its grid, team or warp does not exist or has retired (R183, R192). -/
def State.chimeTarget (s : State) (ctx grid : Nat) (target tag : Word) : Option (Nat × Warp) :=
  match s.teamOf ctx grid (bits target.toNat 20 5 + bits tag.toNat 31 16 * 2 ^ 16) with
  | none => none
  | some (_, t) =>
    if t.retired then none
    else
      match s.warpIn t (target.toNat % 32) with
      | some (u, w) => if w.retired then none else some (u, w)
      | none => none

/-- Chimes of this device on their way to a warp. -/
def State.coming (s : State) (uid : Nat) : Nat :=
  (s.chimes.filter (fun kv => !kv.2.remote &&
    (s.chimeTarget kv.2.ctx kv.2.grid kv.2.target kv.2.tag).map Prod.fst == some uid)).length

/-- The words of a CHIME message (R310). -/
def State.chimeWords (s : State) (k : Chime) : List Word :=
  let w := s.warp k.uid
  let hi := s.teamIndex w / 2 ^ 16
  [1, k.target, BitVec.ofNat 32 k.grid, k.sender &&& ~~~0x200000#32, BitVec.ofNat 32 w.id.grid, k.tag, BitVec.ofNat 32 (hi % 2 ^ 16)]

/-- The head of a warp's send queue is on its way as a message: it stays at the head until the other device has answered, so
that a full inbox there keeps it (R181). -/
def State.headOut (s : State) (uid : Nat) : State :=
  s.modWarp uid (fun w => match w.kf.sendq with
    | [] => w
    | k :: rest => { w with kf := { w.kf with sendq := { k with out := true } :: rest } })

/-- CHIME_LEAVE (R181): the head of the send queue of a resident warp leaves once its dependence is satisfied at the covering
scope of its target; a full inbox, or a channel without a credit for it (R313), keeps it there. A chime without a target, or to
a device without a channel, is discarded (R183, R192). A saved target is held for in the room its inbox has left (DESIGN CHOICE,
log 89). -/
def execChimeLeave (uid : Nat) (s : State) : Host.Outcome State Fault Refusal :=
  match s.warps.get? uid with
  | none => ran s
  | some w =>
    match w.kf.sendq with
    | [] => ran s
    | k :: rest =>
      let again (s : State) := ran (s.post (.chimeLeave uid))
      let r := s.newId
      let out := r.2.putWarp uid { w with kf := { w.kf with sendq := rest } }
      let gone : State := { out with chimes := out.chimes.set r.1 k }
      if !w.here || k.out || !s.depOk uid k.dep then again s
      else if k.remote then
        if !s.coverOk uid k.dep then again s
        else
          match s.channelTo k.ctx (k.target.toNat / 2 ^ 22) with
          | none => ran (gone.post (.chimeDiscard r.1))
          | some (ch, _) =>
            if !s.canSend ch then again (s.wantChan ch)
            else
              let s1 : State := { r.2.headOut uid with chimes := r.2.chimes.set r.1 k }
              ran (s1.message ch 1 [.chime r.1] (s.chimeWords k))
      else
        match s.chimeTarget k.ctx k.grid k.target k.tag with
        | none => if s.coverOk uid k.dep then ran (gone.post (.chimeDiscard r.1)) else again s
        | some (v, t) =>
          if t.id.team != w.id.team && !s.coverOk uid k.dep then again s
          else if 8 ≤ t.kf.inbox.length + s.coming v then again s
          else ran (gone.post (.chimeInboxArrival r.1))

/-- Puts a chime into an inbox and serves the warp's claims (R182, R193). -/
def State.inbox (s : State) (uid : Nat) (tag sender : Word) : State :=
  (s.modWarp uid (fun w => { w with kf := { w.kf with inbox := w.kf.inbox ++ [{ tag := tag, sender := sender }] } })).serveClaims uid 8

/-- CHIME_INBOX_ARRIVAL (R181 to R183): chimes of one warp to one target arrive in issue order; one for a saved warp waits
for its restore. -/
def execChimeInboxArrival (id : Nat) (s : State) : Host.Outcome State Fault Refusal :=
  match s.chimes.get? id with
  | none => ran s
  | some k =>
    match s.chimeTarget k.ctx k.grid k.target k.tag with
    | none => ran (s.post (.chimeDiscard id))
    | some (v, t) =>
      let first := s.chimes.all (fun kv => !(decide (kv.1 < id) && kv.2.uid == k.uid && !kv.2.remote &&
        (s.chimeTarget kv.2.ctx kv.2.grid kv.2.target kv.2.tag).map Prod.fst == some v))
      if !first || t.id.place.isNone then ran (s.post (.chimeInboxArrival id))
      else
        let hi := s.teamIndex (s.warp k.uid) / 2 ^ 16
        let s1 := { s with chimes := s.chimes.erase id }
        let s2 := s1.inbox v (BitVec.ofNat 32 (k.tag.toNat % 2 ^ 16 + hi * 2 ^ 16)) k.sender
        match k.mem with
        | some m => ran (s2.post (.memberLeave m))
        | none => ran s2

/-- CHIME_DISCARD (R183): it is counted, and its member leaves. -/
def execChimeDiscard (id : Nat) (s : State) : Host.Outcome State Fault Refusal :=
  match s.chimes.get? id with
  | none => ran s
  | some k =>
    let s1 := { s with chimes := s.chimes.erase id }.bumpHdr k.ctx 40 1
    match k.mem with
    | some m => ran (s1.post (.memberLeave m))
    | none => ran s1

/-- A CHIME message of a channel's context: 0 when it is in its inbox, a refusal when its target does not exist or has
retired, none while it is held (R182, R183). -/
def State.takeChime (s : State) (m : Msg) : State × Option Nat :=
  let ctx := (s.chan m.ch).ctx
  let g := (nth m.words 2 0).toNat
  let tag := nth m.words 5 0
  match s.chimeTarget ctx g (nth m.words 1 0) tag with
  | none => (s, some 1)
  | some (v, t) =>
    if t.id.place.isNone || decide (8 ≤ t.kf.inbox.length + s.coming v) then (s, none)
    else (s.inbox v (BitVec.ofNat 32 (tag.toNat % 2 ^ 16 + (nth m.words 6 0).toNat % 2 ^ 16 * 2 ^ 16)) (nth m.words 3 0), some 0)

/-- CHIME (R310). -/
def execChimeMsg (m : Msg) (s : State) : Host.Outcome State Fault Refusal :=
  let r := s.takeChime m
  match r.2 with
  | none => ran (r.1.post (.chimeMsg m))
  | some _ => ran r.1

end Sys2Proof.Machine
end

