-- ==== Sys2Proof/Machine/Count.lean ====
section
/-! DEFINITION. Receive counters: landings, signals, arming, waits and triggers (R261 to R266, R273 to R275). -/

namespace Sys2Proof.Machine

open Sys2Proof

/-- Whether a context's engines work: it is neither saved nor being saved. -/
def State.runs (s : State) (ctx : Nat) : Bool := (s.ctx ctx).run == .running && (s.ctxs.get? ctx).isSome

/-- The posts in a quad's reservation table: those of saved contexts are not there (R299). -/
def State.postsOn (s : State) (quad : Nat) : List (Nat × Post) :=
  s.posts.filter (fun kv => quadOf kv.2.core == quad && s.onDevice kv.2.ctx)

/-- Posts in a quad's reservation table, those among them that wait for a dump (R402). -/
def State.mxTable (s : State) (quad : Nat) : Nat :=
  (s.postsOn quad).length + ((s.kept.flatMap (fun g => g.posts.vals)).filter (fun p => quadOf p.core == quad)).length

/-- Whether a counter of a core is allotted to a context (R262). -/
def State.rcOk (s : State) (ctx core n : Nat) : Bool := decide (n < 64) && ((s.ctx ctx).rcMask.getD core 0).getLsbD n

/-- Ends a request with a status word in its posting lane's V register; its member then leaves (R17). -/
def State.endReq (s : State) (id : Nat) (v : Word) : State :=
  match s.reqs.get? id with
  | none => s
  | some r =>
    let s1 := { s with reqs := s.reqs.erase id }.statusV r.uid (.req id) r.v r.lane v
    match r.mem with
    | some m => s1.post (.memberLeave m)
    | none => s1

/-- The RCWAITs that wait on a counter complete with its count (R264). -/
def State.endWaits (s : State) (core n : Nat) : State :=
  let ids := (s.reqs.filter (fun kv => kv.2.kind == .rcWait && kv.2.core == core && kv.2.begun &&
    s.onDevice kv.2.ctx && kv.2.args == [BitVec.ofNat 32 n])).map Prod.fst
  ids.foldl (fun s i => s.endReq i (statusWord true false 0 (s.rc core n).count)) s

/-- The threshold and trigger counter of a record (R249). -/
def trigOf (r : List Word) : Nat := bits (nth r 14 0).toNat 13 6
def threshOf (r : List Word) : Nat := (nth r 15 0).toNat

/-- The lowest-ordered unfired trigger of a core's counter that its count reaches. -/
def State.dueTrigger (s : State) (core n count : Nat) : Option (Nat × Copy) :=
  (s.copies.filter (fun kv => kv.2.st == .armed && kv.2.core == core && s.onDevice kv.2.ctx &&
    trigOf kv.2.rc == n && decide (threshOf kv.2.rc ≤ count))).foldl
    (fun a b => match a with
      | none => some b
      | some x => if b.2.order < x.2.order then some b else some x) none

/-- Fires triggers of a counter in the order they were armed (R266). -/
def State.fire (s : State) (core n : Nat) : Nat → State
  | 0 => s
  | k + 1 =>
    match s.dueTrigger core n (s.rc core n).count with
    | none => s
    | some (id, c) =>
      let r := s.newId
      (State.post { r.2 with copies := r.2.copies.set id { c with st := .queued, order := r.1 } } (.copyBegin id)).fire core n k

/-- A landing of `m` bytes, or a signal of 1, at a counter (R264). -/
def State.count (s : State) (core n m : Nat) : State :=
  let r := s.rc core n
  let v := min 0xFFFFFFFF (r.count + m)
  let met := r.st == 1 && decide (r.target ≤ v)
  let r1 := { r with count := v, ovf := r.ovf || v == 0xFFFFFFFF, arrivedIdle := r.arrivedIdle || r.st == 0,
                     st := if met then 2 else r.st }
  let s1 := s.putRc core n r1
  let s2 := if met then s1.endWaits core n else s1
  s2.fire core n s2.copies.length

/-- RCARM's event at a counter (R264): the state, and the discarded count. -/
def State.arm (s : State) (core n t : Nat) : State × Nat :=
  let r := s.rc core n
  let s1 := s.putRc core n { r with count := 0, target := t, st := if t = 0 then 2 else 1 }
  let s2 := if t = 0 then s1.endWaits core n else s1
  (s2.fire core n s2.copies.length, r.count)

/-- RC_STATE_W1C: ones of a store clear ARRIVED_IDLE and OVF (R264). -/
def execRcStateW1c (core n b : Nat) (s : State) : Host.Outcome State Fault Refusal :=
  ran (s.putRc core n ((s.rc core n).clear b))

/-- An engine request of the warp that issues: its keys, its pending status register, and its notice (R17, R180). -/
def Cx.request (c : Cx) (s : State) (kind : ReqKind) (v kc kp : Nat) (args : List Word) : Except Stop (Nat × State) := do
  let (dep, m, s1) ← c.keys s kc kp
  let r := s1.newId
  let q : Req := { kind := kind, uid := c.uid, ctx := c.ctx, core := c.core, lane := c.lane, v := v, lanes := c.mask,
                   args := args, dep := dep, mem := some m }
  .ok (r.1, State.statusPend { r.2.outward c.core c.ctx (kind.ctorIdx :: kc :: kp :: args.map BitVec.toNat) with
    reqs := r.2.reqs.set r.1 q } c.uid (.req r.1) (.v v (laneBit c.lane)))

/-- Applies a counter request whose dependence is satisfied (R273, R274). -/
def State.applyRc (s : State) (id : Nat) : State :=
  match s.reqs.get? id with
  | none => s
  | some r =>
    let n := (nth r.args 0 0).toNat
    match r.kind with
    | .rcArm =>
      let q := s.arm r.core n (nth r.args 1 0).toNat
      q.1.endReq id (statusWord true false 0 q.2)
    | .rcWait =>
      let s1 := { s with reqs := s.reqs.set id { r with begun := true } }
      if (s1.rc r.core n).st = 2 then s1.endReq id (statusWord true false 0 (s1.rc r.core n).count) else s1
    | _ => s

/-- A counter number of an S register: PROT when it is not one of the context's (R270). -/
def Cx.counter (c : Cx) (s : State) (v : Word) : Except Stop Nat :=
  if s.rcOk c.ctx c.core v.toNat then .ok v.toNat else .error (trapLane 0x08 0 (v.setWidth 64))

/-- Takes a request up at once when its dependence is satisfied, else leaves it to its notice. -/
def State.startReq (s : State) (id : Nat) (apply : State → Nat → State) : State :=
  match s.reqs.get? id with
  | none => s
  | some r => if s.depOk r.uid r.dep then apply s id else s.post (.releaseNotice id)

/-- RCARM and RCWAIT (R273, R274). -/
def Cx.rcPost (c : Cx) (s : State) (o : FCp) (wait : Bool) : Except Stop (State × Flow) := do
  c.noXp
  let v ← c.resolve 0 c.mask none o.v.toNat 1
  let n := o.n.toNat
  c.touch s ([.v v (laneBit c.lane), .s n] ++ (if wait then [] else [.s (n + 1)]))
  c.bWrites s [v] (laneBit c.lane)
  if o.p = 15 then .error (trapOf 0x0B)
  else
    let k ← c.counter s (c.readS s n)
    let (id, s1) ← c.request s (if wait then .rcWait else .rcArm) v o.c.toNat o.p.toNat
      (BitVec.ofNat 32 k :: (if wait then [] else [c.readS s (n + 1)]))
    .ok (s1.startReq id State.applyRc, .next)

/-- RCARM (R273). -/
def execRcarm (o : FCp) (s : State) : Host.Outcome State Fault Refusal := s.runTarget o.sw (fun c s => c.rcPost s o false)

/-- RCWAIT (R274). -/
def execRcwait (o : FCp) (s : State) : Host.Outcome State Fault Refusal := s.runTarget o.sw (fun c s => c.rcPost s o true)

/-- RCREAD: the count as a progress word (R275). -/
def execRcread (o : FVn) (s : State) : Host.Outcome State Fault Refusal :=
  s.runTarget o.sw (fun c s => do
    c.noXp
    let v ← c.resolve 0 c.mask none o.v.toNat 1
    c.touch s [.v v c.mask, .s o.n.toNat]
    c.bWrites s [v] c.mask
    let k ← c.counter s (c.readS s o.n.toNat)
    let w := statusWord false false 0 (s.rc c.core k).count
    .ok ((s.result c 4 [.v v c.mask] [.v v ((lanesOf c.mask).map (fun l => (l, w)))]).sampling c.uid (.counter c.core k), .next))

end Sys2Proof.Machine
end

