-- ==== Sys2Proof/Machine/Ldst.lean ====
section
/-! DEFINITION. The memory instructions: LD, ST, LDN, STN, PREF (R218 to R223), ATOM and ATOMN (R224 to R226), and SLICE
(R388 to R391). What they leave in flight is performed by the events of MemEvents. -/

namespace Sys2Proof.Machine

open Sys2Proof

/-- A park keeps nothing of what the word did (R84). -/
def undo {α : Type} (s : State) : Except Stop α → Except Stop α
  | .error (.park r _) => .error (.park r s)
  | x => x

/-- Whether a consume key sends a load to the home slice (R180). -/
def Cx.wide (c : Cx) (k : Nat) : Bool := k == 15 || (k != 0 && c.w.scopeOf k != .team)

/-- The addresses of the active lanes: a near address in one register, a global one in a pair, plus HOFS (R51, R195). -/
def Cx.addresses (c : Cx) (s : State) (near : Bool) (a : Nat) : List (Nat × Addr) :=
  (lanesOf c.mask).map (fun i =>
    (i, if near then (c.readV s a i + c.g.ofs.setWidth 32).setWidth 64
        else pair (c.readV s a i) (c.readV s (a + 1) i) + c.g.ofs))

/-- The registers that a size fills (R218). -/
def regsFor (n : Nat) : Nat := (n + 3) / 4

/-- The lanes of a memory instruction, resolved. -/
def Cx.lanes (c : Cx) (s : State) (near : Bool) (a : Access) (n : Nat) (ls : List (Nat × Addr)) :
    List (Nat × Addr × LaneR) :=
  if near then c.nearLanes s n ls else c.globalLanes s a n ls

/-- An operation of the warp that issues, with its consume and produce keys. -/
def Cx.op (c : Cx) (s : State) (kind : OpKind) (kc kp : Nat) (dep : Dep) (mem : Nat) : Op :=
  { uid := c.uid, ctx := c.ctx, core := c.core, team := c.w.id.team, kind := kind, lanes := c.mask, word := s.word,
    mem := some mem, key := kp, kc := kc, seq := ((s.warp c.uid).key kp).seq, dep := dep, cache := c.g.cache }

/-- A load of `n` bytes a lane (R218, R221). -/
def Cx.load (c : Cx) (s : State) (o : FMem) (near signed : Bool) (n : Nat) : Except Stop (State × Flow) := do
  c.noXp
  let k := regsFor n
  let ka := if near then 1 else 2
  let d ← c.resolve 0 c.mask none o.d.toNat k
  let a ← c.resolve 1 c.mask none o.a.toNat ka
  c.touch s (vNames a ka c.mask ++ vNames d k c.mask)
  c.bWrites s (List.range' d k) c.mask
  let ls := c.addresses s near a
  let oks ← c.check s .load o.p.toNat n (c.lanes s near .load n ls)
  let (dep, m, s1) ← c.keys s o.c.toNat o.p.toNat
  let s2 := c.settleLanes s1 (!near) oks
  let op := { c.op s1 (.load signed) o.c.toNat o.p.toNat dep m with
    d := d, near := near, bypass := c.wide o.c.toNat, units := oks.flatMap (fun p => unitsOf p.1 n p.2.1 p.2.2 []) }
  let s3 ← undo s (c.launchOp s2 op (vNames d k c.mask))
  .ok (s3, .next)

/-- LDN.PRES: reads presence and poison of the line of each lane's byte (R222). A guard granule of a retired peer reads as GONE
(DESIGN CHOICE, log 90). -/
def Cx.presence (c : Cx) (s : State) (o : FMem) : Except Stop (State × Flow) := do
  c.noXp
  let d ← c.resolve 0 c.mask none o.d.toNat 1
  let a ← c.resolve 1 c.mask none o.a.toNat 1
  c.touch s [.v a c.mask, .v d c.mask]
  c.bWrites s [d] c.mask
  let found := (c.addresses s true a).map (fun p =>
    (p.1, p.2, match s.nearAt c.w.id.team (p.2.setWidth 32) with
      | .prot => LaneR.prot
      | .gone t b => if (s.team t).zone b 1 == .beyond then LaneR.prot else LaneR.ok (.near t b)
      | .at t b => s.nearTarget t b 1))
  if o.p = 15 then .error (trapOf 0x0B)
  else
    match firstLane found .prot with
    | some p => .error (trapLane 0x08 p.1 p.2)
    | none =>
      let (dep, m, s1) ← c.keys s o.c.toNat o.p.toNat
      let op := { c.op s1 .pres o.c.toNat o.p.toNat dep m with
        d := d, near := true, units := (okLanes found).flatMap (fun p => unitsOf p.1 1 p.2.1 p.2.2 []) }
      let s2 ← undo s (c.launchOp s1 op [.v d c.mask])
      .ok (s2, .next)

/-- The low bytes of a lane's registers. -/
def Cx.laneBytes (c : Cx) (s : State) (r k n lane : Nat) : List Byte := (bytesOfWords (c.readVs s r k lane)).take n

/-- A store of `n` bytes a lane (R220, R223). -/
def Cx.store (c : Cx) (s : State) (o : FMem) (near : Bool) (n : Nat) : Except Stop (State × Flow) := do
  c.noXp
  let k := regsFor n
  let ka := if near then 1 else 2
  let d ← c.resolve 0 c.mask none o.d.toNat k
  let a ← c.resolve 1 c.mask none o.a.toNat ka
  c.touch s (vNames a ka c.mask ++ vNames d k c.mask)
  let ls := c.addresses s near a
  let oks ← c.check s .store o.p.toNat n (c.lanes s near .store n ls)
  let (dep, m, s1) ← c.keys s o.c.toNat o.p.toNat
  let s2 := c.settleLanes s1 (!near) oks
  let op := { c.op s1 .store o.c.toNat o.p.toNat dep m with
    near := near, units := highestWins (oks.flatMap (fun p => unitsOf p.1 n p.2.1 p.2.2 (c.laneBytes s d k n p.1))) }
  let s3 ← undo s (c.launchOp s2 op [])
  .ok (s3, .next)

/-- An atomic of `n` bytes with `kb` operand registers (R224, R225); its keys come from KDEF (R186). -/
def Cx.atomic (c : Cx) (s : State) (o : FDab) (near : Bool) (code n kb : Nat) : Except Stop (State × Flow) := do
  c.noXp
  let k := regsFor n
  let ka := if near then 1 else 2
  let d ← c.resolve 0 c.mask none o.d.toNat k
  let a ← c.resolve 1 c.mask none o.a.toNat ka
  let b ← c.resolve 2 c.mask none o.b.toNat kb
  c.touch s (vNames a ka c.mask ++ vNames b kb c.mask ++ vNames d k c.mask ++ [.kdef])
  c.bWrites s (List.range' d k) c.mask
  let kd := (c.readKdef s).toNat
  let kp := bits kd 7 4
  let ls := c.addresses s near a
  let oks ← c.check s .atomic kp n (c.lanes s near .atomic n ls)
  let (dep, m, s1) ← c.keys s (bits kd 3 0) kp
  let s2 := c.settleLanes s1 (!near) oks
  let op := { c.op s1 (.atomic code) (bits kd 3 0) kp dep m with
    d := d, near := near
    units := oks.map (fun p =>
      { lane := p.1, tgt := p.2.2, size := n, va := p.2.1, data := bytesOfWords (c.readVs s b kb p.1) }) }
  let s3 ← undo s (c.launchOp s2 op (vNames d k c.mask))
  .ok (s3, .next)

/-- What an atomic leaves at its location (R224): the old bytes and the operand registers' bytes. -/
def atomicNew (code : Nat) (old b : List Byte) : List Byte :=
  let n := old.length
  let x := leNat old
  let y := leNat (b.take n)
  let z := leNat ((b.drop n).take n)
  let i (v : Nat) : Int := (BitVec.ofNat 32 v).toInt
  let half (h : Nat) : Nat := (fAdd .bf16 {} 0 (x / 2 ^ (16 * h) % 2 ^ 16) (y / 2 ^ (16 * h) % 2 ^ 16)).v
  let r : Nat := match code with
    | 0 => x + y
    | 1 => if i y < i x then y else x
    | 2 => if i x < i y then y else x
    | 3 => min x y
    | 4 => max x y
    | 5 => x &&& y
    | 6 => x ||| y
    | 7 => x ^^^ y
    | 8 => y
    | 9 => if x = y then z else x
    | 10 => (fAdd .f32 {} 0 x y).v
    | 11 => half 0 + half 1 * 2 ^ 16
    | 12 => if y ≤ x then 0 else x + 1
    | 13 => x + y
    | 14 => if x = y then z else x
    | _ => y
  leBytes r n

/-! SLICE. -/

/-- A lane of a global SLICE form: only a leaf of TARGET 0 outside the windows will do (R388), so that a NET leaf that names
this device does not. -/
def Cx.sliceLane (c : Cx) (s : State) (a : Access) (va : Addr) : LaneR :=
  match s.reach c.core c.ctx 0 c.core va a with
  | .prot => .prot
  | .world => .world
  | .replay => .replay
  | .ok e pa => if leafTarget e == 0 && !inWindow pa && !inCreel pa then .ok (.dev pa) else .prot

/-- The lanes of a global SLICE form. -/
def Cx.sliceLanes (c : Cx) (s : State) (a : Access) (ls : List (Nat × Addr)) : List (Nat × Addr × LaneR) :=
  ls.map (fun p => (p.1, p.2, c.sliceLane s a p.2))

/-- SLICE.LDL (R389): through the posting lane, at the home. -/
def Cx.linked (c : Cx) (s : State) (o : FLdl) : Except Stop (State × Flow) := do
  c.noXp
  let d ← c.resolve 0 c.mask none o.d.toNat 1
  let a ← c.resolve 1 c.mask none o.a.toNat 2
  let p := c.lane
  c.touch s (vNames a 2 (laneBit p) ++ [.v d c.mask, .kdef])
  c.bWrites s [d] c.mask
  let kd := (c.readKdef s).toNat
  let va := pair (c.readV s a p) (c.readV s (a + 1) p) + c.g.ofs
  let oks ← c.check s .atomic (bits kd 7 4) 128 (c.sliceLanes s .atomic [(p, va)])
  let (dep, m, s1) ← c.keys s (bits kd 3 0) (bits kd 7 4)
  let s2 := c.settleLanes s1 true oks
  let op := { c.op s1 (.ldl o.l.toNat) (bits kd 3 0) (bits kd 7 4) dep m with
    d := d, bypass := true, units := oks.flatMap (fun q => unitsOf q.1 128 q.2.1 q.2.2 []) }
  let s3 ← undo s (c.launchOp s2 op [.v d c.mask])
  .ok (s3, .next)

/-- The lanes of a CSTM's staging blocks: the team's own allocation (R390, R255's form of the check). -/
def Cx.blockLanes (c : Cx) (s : State) (p : Nat) (b : Word) (ks : List Nat) : List (Nat × Addr × LaneR) :=
  let own := bits b.toNat 31 25 == 0 && bits b.toNat 24 23 == (s.team c.w.id.team).pos
  (p, b.setWidth 64, if own then .ok (.guard 0 0) else .prot) ::
  ks.map (fun k =>
    let a := b + BitVec.ofNat 32 (128 * k)
    (p, a.setWidth 64, s.nearLane c.w.id.team a 128))

/-- What the posting lane reads of its team's near space at issue: its earlier stores to those bytes count, though they may
still wait for their port (R176). -/
def State.ownRead (s : State) (uid lane t ofs n : Nat) : List Byte :=
  s.ops.foldl (fun b kv =>
    if kv.2.uid == uid && kv.2.kind == .store then
      kv.2.units.foldl (fun b u => match u.tgt with
        | .near k a => if k == t && u.lane == lane && !u.done then
            b.zipIdx.map (fun p => if decide (a ≤ ofs + p.2) && decide (ofs + p.2 < a + u.size) then nth u.data (ofs + p.2 - a) p.1 else p.1)
          else b
        | _ => b) b
    else b) (s.nearRead t ofs n)

/-- Whether an atomic of the posting lane to some bytes of its team's near space has not been served. -/
def State.ownAtomic (s : State) (uid lane : Nat) (blocks : List MUnit) : Bool :=
  s.ops.any (fun kv => kv.2.uid == uid && kv.2.kind != .store && !kv.2.kind.reads &&
    kv.2.units.any (fun u => u.lane == lane && !u.done && blocks.any u.meets))

/-- The result of a CSTM as far as issue decides it (R390). -/
def Warp.commitBits (w : Warp) (ks : List Nat) : Nat :=
  let ls := ks.map (fun k => (k, nth w.links k {}))
  let lines := (ls.filter (fun p => p.2.valid)).map (fun p => p.2.line)
  let homes := (lines.map (fun l => (homeDie l, homeSlice l))).eraseDups
  ((ls.filter (fun p => !p.2.valid)).map (fun p => 2 ^ p.1)).sum +
    (if lines.eraseDups.length != lines.length then 2 ^ 9 else 0) + (if 1 < homes.length then 2 ^ 8 else 0)

/-- SLICE.CSTM (R390): the blocks and the links are read at issue, and the named links are cleared. A block in a guard reads
as zero and is reported (R208). The blocks are read after the posting lane's earlier accesses to them (R176): an earlier
atomic must have been served, which BANK counts (log 33). -/
def Cx.commit (c : Cx) (s : State) (o : FCstm) : Except Stop (State × Flow) := do
  c.noXp
  let d ← c.resolve 0 c.mask none o.d.toNat 1
  let a ← c.resolve 1 c.mask none o.a.toNat 1
  let p := c.lane
  c.touch s [.v a (laneBit p), .v d c.mask, .kdef]
  c.bWrites s [d] c.mask
  let kd := (c.readKdef s).toNat
  let b := c.readV s a p + c.g.ofs.setWidth 32
  let ks := (List.range 4).filter (fun k => o.m.getLsbD k)
  let oks ← c.check s .atomic (bits kd 7 4) 128 (c.blockLanes s p b ks)
  if s.ownAtomic c.uid p ((oks.drop 1).map (fun q => { lane := p, tgt := q.2.2, size := 128 })) then .error (.park .bank s)
  let (dep, m, s0) ← c.keys s (bits kd 3 0) (bits kd 7 4)
  let s1 := c.settleLanes s0 false (oks.drop 1)
  let r := c.w.commitBits ks
  let s2 := s1.modWarp c.uid (fun w => { w with links := w.links.zipIdx.map (fun q => if ks.contains q.2 then {} else q.1) })
  if r != 0 || ks.isEmpty then
    let vals := (lanesOf c.mask).map (fun l => (l, BitVec.ofNat 32 r))
    .ok ((s2.result c 4 [.v d c.mask] [.v d vals]).post (.memberLeave m), .next)
  else
    let blocks := (ks.zip (oks.drop 1)).map (fun q =>
      ({ lane := p, tgt := .dev (nth c.w.links q.1 {}).line, size := 128, va := q.2.2.1,
         data := (match q.2.2.2 with | .near t ofs => s.ownRead c.uid p t ofs 128 | _ => List.replicate 128 0),
         data2 := leBytes (nth c.w.links q.1 {}).ver 8 } : MUnit))
    let op := { c.op s1 (.cstm o.m) (bits kd 3 0) (bits kd 7 4) dep m with d := d, units := blocks }
    let s3 ← undo s (c.launchOp s2 op [.v d c.mask])
    .ok (s3, .next)

/-- SLICE.REDL (R391): every lane contributes its word. -/
def Cx.redl (c : Cx) (s : State) (aln : Bool) (e a b : Nat) : Except Stop (State × Flow) := do
  c.noXp
  let en ← if aln then c.resolve 0 c.mask none e 1 else .ok 0
  let an ← c.resolve 1 c.mask none a 2
  let bn ← c.resolve 2 c.mask none b 1
  c.touch s ((if aln then [.v en c.mask] else []) ++ vNames an 2 c.mask ++ [.v bn c.mask, .kdef])
  let kd := (c.readKdef s).toNat
  let ls := c.addresses s false an
  let oks ← c.check s .store (bits kd 7 4) 4 (c.sliceLanes s .store ls)
  let (dep, m, s1) ← c.keys s (bits kd 3 0) (bits kd 7 4)
  let s2 := c.settleLanes s1 true oks
  let op := { c.op s1 (if aln then .redA else .redI) (bits kd 3 0) (bits kd 7 4) dep m with
    units := oks.map (fun p => { lane := p.1, tgt := p.2.2, size := 4, va := p.2.1,
                                 data := bytesOfWords [c.readV s bn p.1],
                                 data2 := if aln then bytesOfWords [c.readV s en p.1] else [] }) }
  let s3 ← undo s (c.launchOp s2 op [])
  .ok (s3, .next)

/-- PREF (R219): the lines of lanes that may be loaded are asked for, as a read without a result, so that their home slices take it
in the order the core sends (R381). -/
def Cx.prefetch (c : Cx) (s : State) (o : FPref) : Except Stop (State × Flow) := do
  c.noXp
  let a := o.a.toNat
  let oks := if (c.w.badReg none a 2).isSome then [] else okLanes (c.globalLanes s .load 1 (c.addresses s false a))
  let lines := (oks.filterMap (fun p => match p.2.2 with | .dev pa => some (lineOf pa) | _ => none)).eraseDups
  let op := { c.op s .pref 0 0 {} 0 with mem := none, units := lines.map (fun l => { lane := 0, tgt := .dev l, size := 0 }) }
  let s1 ← c.launchOp s op []
  .ok (s1, .next)

/-! The instructions. -/

/-- LD.B8 (R218). -/
def execLdB8 (o : FMem) (s : State) : Host.Outcome State Fault Refusal := s.runTarget o.sw (fun c s => c.load s o false false 1)

/-- LD.B16 (R218). -/
def execLdB16 (o : FMem) (s : State) : Host.Outcome State Fault Refusal := s.runTarget o.sw (fun c s => c.load s o false false 2)

/-- LD.B32 (R218). -/
def execLdB32 (o : FMem) (s : State) : Host.Outcome State Fault Refusal := s.runTarget o.sw (fun c s => c.load s o false false 4)

/-- LD.B64 (R218). -/
def execLdB64 (o : FMem) (s : State) : Host.Outcome State Fault Refusal := s.runTarget o.sw (fun c s => c.load s o false false 8)

/-- LD.B128 (R218). -/
def execLdB128 (o : FMem) (s : State) : Host.Outcome State Fault Refusal := s.runTarget o.sw (fun c s => c.load s o false false 16)

/-- LD.I8 (R218). -/
def execLdI8 (o : FMem) (s : State) : Host.Outcome State Fault Refusal := s.runTarget o.sw (fun c s => c.load s o false true 1)

/-- LD.I16 (R218). -/
def execLdI16 (o : FMem) (s : State) : Host.Outcome State Fault Refusal := s.runTarget o.sw (fun c s => c.load s o false true 2)

/-- PREF (R219). -/
def execPref (o : FPref) (s : State) : Host.Outcome State Fault Refusal := s.runTarget o.sw (fun c s => c.prefetch s o)

/-- ST.B8 (R220). -/
def execStB8 (o : FMem) (s : State) : Host.Outcome State Fault Refusal := s.runTarget o.sw (fun c s => c.store s o false 1)

/-- ST.B16 (R220). -/
def execStB16 (o : FMem) (s : State) : Host.Outcome State Fault Refusal := s.runTarget o.sw (fun c s => c.store s o false 2)

/-- ST.B32 (R220). -/
def execStB32 (o : FMem) (s : State) : Host.Outcome State Fault Refusal := s.runTarget o.sw (fun c s => c.store s o false 4)

/-- ST.B64 (R220). -/
def execStB64 (o : FMem) (s : State) : Host.Outcome State Fault Refusal := s.runTarget o.sw (fun c s => c.store s o false 8)

/-- ST.B128 (R220). -/
def execStB128 (o : FMem) (s : State) : Host.Outcome State Fault Refusal := s.runTarget o.sw (fun c s => c.store s o false 16)

/-- LDN.B8 (R221). -/
def execLdnB8 (o : FMem) (s : State) : Host.Outcome State Fault Refusal := s.runTarget o.sw (fun c s => c.load s o true false 1)

/-- LDN.B16 (R221). -/
def execLdnB16 (o : FMem) (s : State) : Host.Outcome State Fault Refusal := s.runTarget o.sw (fun c s => c.load s o true false 2)

/-- LDN.B32 (R221). -/
def execLdnB32 (o : FMem) (s : State) : Host.Outcome State Fault Refusal := s.runTarget o.sw (fun c s => c.load s o true false 4)

/-- LDN.B64 (R221). -/
def execLdnB64 (o : FMem) (s : State) : Host.Outcome State Fault Refusal := s.runTarget o.sw (fun c s => c.load s o true false 8)

/-- LDN.B128 (R221). -/
def execLdnB128 (o : FMem) (s : State) : Host.Outcome State Fault Refusal := s.runTarget o.sw (fun c s => c.load s o true false 16)

/-- LDN.I8 (R221). -/
def execLdnI8 (o : FMem) (s : State) : Host.Outcome State Fault Refusal := s.runTarget o.sw (fun c s => c.load s o true true 1)

/-- LDN.I16 (R221). -/
def execLdnI16 (o : FMem) (s : State) : Host.Outcome State Fault Refusal := s.runTarget o.sw (fun c s => c.load s o true true 2)

/-- LDN.PRES (R222). -/
def execLdnPres (o : FMem) (s : State) : Host.Outcome State Fault Refusal := s.runTarget o.sw (fun c s => c.presence s o)

/-- STN.B8 (R223). -/
def execStnB8 (o : FMem) (s : State) : Host.Outcome State Fault Refusal := s.runTarget o.sw (fun c s => c.store s o true 1)

/-- STN.B16 (R223). -/
def execStnB16 (o : FMem) (s : State) : Host.Outcome State Fault Refusal := s.runTarget o.sw (fun c s => c.store s o true 2)

/-- STN.B32 (R223). -/
def execStnB32 (o : FMem) (s : State) : Host.Outcome State Fault Refusal := s.runTarget o.sw (fun c s => c.store s o true 4)

/-- STN.B64 (R223). -/
def execStnB64 (o : FMem) (s : State) : Host.Outcome State Fault Refusal := s.runTarget o.sw (fun c s => c.store s o true 8)

/-- STN.B128 (R223). -/
def execStnB128 (o : FMem) (s : State) : Host.Outcome State Fault Refusal := s.runTarget o.sw (fun c s => c.store s o true 16)

/-- ATOM operation 0, AddI32 (R224, R225). -/
def execAtomAddI32 (o : FDab) (s : State) : Host.Outcome State Fault Refusal := s.runTarget o.sw (fun c s => c.atomic s o false 0 4 1)

/-- ATOM operation 1, MinI32 (R224, R225). -/
def execAtomMinI32 (o : FDab) (s : State) : Host.Outcome State Fault Refusal := s.runTarget o.sw (fun c s => c.atomic s o false 1 4 1)

/-- ATOM operation 2, MaxI32 (R224, R225). -/
def execAtomMaxI32 (o : FDab) (s : State) : Host.Outcome State Fault Refusal := s.runTarget o.sw (fun c s => c.atomic s o false 2 4 1)

/-- ATOM operation 3, MinN32 (R224, R225). -/
def execAtomMinN32 (o : FDab) (s : State) : Host.Outcome State Fault Refusal := s.runTarget o.sw (fun c s => c.atomic s o false 3 4 1)

/-- ATOM operation 4, MaxN32 (R224, R225). -/
def execAtomMaxN32 (o : FDab) (s : State) : Host.Outcome State Fault Refusal := s.runTarget o.sw (fun c s => c.atomic s o false 4 4 1)

/-- ATOM operation 5, And (R224, R225). -/
def execAtomAnd (o : FDab) (s : State) : Host.Outcome State Fault Refusal := s.runTarget o.sw (fun c s => c.atomic s o false 5 4 1)

/-- ATOM operation 6, Or (R224, R225). -/
def execAtomOr (o : FDab) (s : State) : Host.Outcome State Fault Refusal := s.runTarget o.sw (fun c s => c.atomic s o false 6 4 1)

/-- ATOM operation 7, Xor (R224, R225). -/
def execAtomXor (o : FDab) (s : State) : Host.Outcome State Fault Refusal := s.runTarget o.sw (fun c s => c.atomic s o false 7 4 1)

/-- ATOM operation 8, Xchg (R224, R225). -/
def execAtomXchg (o : FDab) (s : State) : Host.Outcome State Fault Refusal := s.runTarget o.sw (fun c s => c.atomic s o false 8 4 1)

/-- ATOM operation 9, Cas (R224, R225). -/
def execAtomCas (o : FDab) (s : State) : Host.Outcome State Fault Refusal := s.runTarget o.sw (fun c s => c.atomic s o false 9 4 2)

/-- ATOM operation 10, AddF32 (R224, R225). -/
def execAtomAddF32 (o : FDab) (s : State) : Host.Outcome State Fault Refusal := s.runTarget o.sw (fun c s => c.atomic s o false 10 4 1)

/-- ATOM operation 11, AddBf16x2 (R224, R225). -/
def execAtomAddBf16x2 (o : FDab) (s : State) : Host.Outcome State Fault Refusal := s.runTarget o.sw (fun c s => c.atomic s o false 11 4 1)

/-- ATOM operation 12, Incw (R224, R225). -/
def execAtomIncw (o : FDab) (s : State) : Host.Outcome State Fault Refusal := s.runTarget o.sw (fun c s => c.atomic s o false 12 4 1)

/-- ATOM operation 13, AddI64 (R224, R225). -/
def execAtomAddI64 (o : FDab) (s : State) : Host.Outcome State Fault Refusal := s.runTarget o.sw (fun c s => c.atomic s o false 13 8 2)

/-- ATOM operation 14, Cas64 (R224, R225). -/
def execAtomCas64 (o : FDab) (s : State) : Host.Outcome State Fault Refusal := s.runTarget o.sw (fun c s => c.atomic s o false 14 8 4)

/-- ATOM operation 15, Xchg64 (R224, R225). -/
def execAtomXchg64 (o : FDab) (s : State) : Host.Outcome State Fault Refusal := s.runTarget o.sw (fun c s => c.atomic s o false 15 8 2)

/-- ATOMN operation 0, AddI32 (R224, R225). -/
def execAtomnAddI32 (o : FDab) (s : State) : Host.Outcome State Fault Refusal := s.runTarget o.sw (fun c s => c.atomic s o true 0 4 1)

/-- ATOMN operation 1, MinI32 (R224, R225). -/
def execAtomnMinI32 (o : FDab) (s : State) : Host.Outcome State Fault Refusal := s.runTarget o.sw (fun c s => c.atomic s o true 1 4 1)

/-- ATOMN operation 2, MaxI32 (R224, R225). -/
def execAtomnMaxI32 (o : FDab) (s : State) : Host.Outcome State Fault Refusal := s.runTarget o.sw (fun c s => c.atomic s o true 2 4 1)

/-- ATOMN operation 3, MinN32 (R224, R225). -/
def execAtomnMinN32 (o : FDab) (s : State) : Host.Outcome State Fault Refusal := s.runTarget o.sw (fun c s => c.atomic s o true 3 4 1)

/-- ATOMN operation 4, MaxN32 (R224, R225). -/
def execAtomnMaxN32 (o : FDab) (s : State) : Host.Outcome State Fault Refusal := s.runTarget o.sw (fun c s => c.atomic s o true 4 4 1)

/-- ATOMN operation 5, And (R224, R225). -/
def execAtomnAnd (o : FDab) (s : State) : Host.Outcome State Fault Refusal := s.runTarget o.sw (fun c s => c.atomic s o true 5 4 1)

/-- ATOMN operation 6, Or (R224, R225). -/
def execAtomnOr (o : FDab) (s : State) : Host.Outcome State Fault Refusal := s.runTarget o.sw (fun c s => c.atomic s o true 6 4 1)

/-- ATOMN operation 7, Xor (R224, R225). -/
def execAtomnXor (o : FDab) (s : State) : Host.Outcome State Fault Refusal := s.runTarget o.sw (fun c s => c.atomic s o true 7 4 1)

/-- ATOMN operation 8, Xchg (R224, R225). -/
def execAtomnXchg (o : FDab) (s : State) : Host.Outcome State Fault Refusal := s.runTarget o.sw (fun c s => c.atomic s o true 8 4 1)

/-- ATOMN operation 9, Cas (R224, R225). -/
def execAtomnCas (o : FDab) (s : State) : Host.Outcome State Fault Refusal := s.runTarget o.sw (fun c s => c.atomic s o true 9 4 2)

/-- ATOMN operation 10, AddF32 (R224, R225). -/
def execAtomnAddF32 (o : FDab) (s : State) : Host.Outcome State Fault Refusal := s.runTarget o.sw (fun c s => c.atomic s o true 10 4 1)

/-- ATOMN operation 11, AddBf16x2 (R224, R225). -/
def execAtomnAddBf16x2 (o : FDab) (s : State) : Host.Outcome State Fault Refusal := s.runTarget o.sw (fun c s => c.atomic s o true 11 4 1)

/-- ATOMN operation 12, Incw (R224, R225). -/
def execAtomnIncw (o : FDab) (s : State) : Host.Outcome State Fault Refusal := s.runTarget o.sw (fun c s => c.atomic s o true 12 4 1)

/-- ATOMN operation 13, AddI64 (R224, R225). -/
def execAtomnAddI64 (o : FDab) (s : State) : Host.Outcome State Fault Refusal := s.runTarget o.sw (fun c s => c.atomic s o true 13 8 2)

/-- ATOMN operation 14, Cas64 (R224, R225). -/
def execAtomnCas64 (o : FDab) (s : State) : Host.Outcome State Fault Refusal := s.runTarget o.sw (fun c s => c.atomic s o true 14 8 4)

/-- ATOMN operation 15, Xchg64 (R224, R225). -/
def execAtomnXchg64 (o : FDab) (s : State) : Host.Outcome State Fault Refusal := s.runTarget o.sw (fun c s => c.atomic s o true 15 8 2)

/-- SLICE.LDL (R389). -/
def execSliceLdl (o : FLdl) (s : State) : Host.Outcome State Fault Refusal := s.runTarget o.sw (fun c s => c.linked s o)

/-- SLICE.CSTM (R390). -/
def execSliceCstm (o : FCstm) (s : State) : Host.Outcome State Fault Refusal := s.runTarget o.sw (fun c s => c.commit s o)

/-- SLICE.REDL.I32 (R391). -/
def execSliceRedlI32 (o : FAb) (s : State) : Host.Outcome State Fault Refusal := s.runTarget o.sw (fun c s => c.redl s false 0 o.a.toNat o.b.toNat)

/-- SLICE.REDL.ALN (R391). -/
def execSliceRedlAln (o : FDab) (s : State) : Host.Outcome State Fault Refusal := s.runTarget o.sw (fun c s => c.redl s true o.d.toNat o.a.toNat o.b.toNat)

end Sys2Proof.Machine
end

