-- ==== Sys2Proof/Machine/Matrix.lean ====
section
/-! DEFINITION. The matrix engine: formats (R279), operands (R281 to R286), tiles (R287 to R289), scales (R290, R291), posts
and their checks (R292, R293), arbitration and passes (R294 to R298), and the matrix instructions (R300 to R305). -/

namespace Sys2Proof.Machine

open Sys2Proof

/-! Parameters (R292). -/

/-- A word of a post's parameters. -/
def mw (p : List Word) (i : Nat) : Nat := (nth p i 0).toNat

def mxGang (p : List Word) : Bool := bitAt (mw p 0) 31
def mxOvw (p : List Word) : Bool := bitAt (mw p 0) 30
def mxAfmt (p : List Word) : Nat := bits (mw p 0) 29 26
def mxBfmt (p : List Word) : Nat := bits (mw p 0) 25 22
def mxN (p : List Word) : Nat := bits (mw p 0) 8 0
def mxAofs (p : List Word) : Nat := bits (mw p 1) 22 0
def mxPstride (p : List Word) : Nat := bits (mw p 2) 31 16 * 32
def mxRstride (p : List Word) : Nat := bits (mw p 2) 15 0
def mxBslot (p : List Word) : Nat := bits (mw p 3) 31 26
def mxBbase (p : List Word) : Nat := bits (mw p 3) 25 19
def mxBstep (p : List Word) : Nat := bits (mw p 3) 18 12
def mxPrio (p : List Word) : Nat := bits (mw p 7) 31 30
def mxCapwait (p : List Word) : Bool := bitAt (mw p 7) 29

/-- K, the block size of scales with 0 for none, and the bits of an element, of a pair of formats (R279, R55). -/
def mxClass (a b : Nat) : Option (Nat × Nat) :=
  if a = 10 && b = 10 then some (32, 0)
  else if (a = 11 || a = 12) && (b = 11 || b = 12) then some (64, 32)
  else if a ≤ 1 && b ≤ 1 then some (64, 0)
  else if (a = 13 || a = 14) && (b = 13 || b = 14) then some (128, 1)
  else none

/-- Bits of an element; an LQ2 code's 16 bits stand for 8 weights. -/
def mxBits (f : Nat) : Nat := if f = 10 then 16 else if f = 13 then 4 else if f = 14 then 2 else 8

/-- Block size of scales along K (R279). -/
def mxBlock (f : Nat) : Nat := if f = 14 then 64 else 32

/-- K of a post. -/
def mxK (p : List Word) : Nat := ((mxClass (mxAfmt p) (mxBfmt p)).map Prod.fst).getD 32

/-- Bytes of a row of A, and registers of a quarter of B (R279). -/
def mxRow (p : List Word) : Nat := mxK p * mxBits (mxAfmt p) / 8
def mxQuarter (p : List Word) : Nat := mxK p * mxBits (mxBfmt p) / 32

/-- The registers of a quarter in a pass (R284, R285). -/
def mxRegs (p : List Word) (pass q : Nat) : List Nat :=
  List.range' (mxBbase p + pass * mxBstep p + (if mxGang p then 0 else q * mxQuarter p)) (mxQuarter p)

/-- Every B register that a post captures. -/
def mxBregs (p : List Word) : List Nat :=
  ((List.range (mxN p)).flatMap (fun i => (if mxGang p then [0] else [0, 1, 2, 3]).flatMap (fun q => mxRegs p i q))).eraseDups

/-- MX_PARAM (R293): reason, word index, the word, and the posting lane. -/
def mxParam (reason ix : Nat) (w : Word) (lane : Nat) : Stop :=
  .trap { cause := 0x0E, info1 := BitVec.ofNat 32 (reason + ix * 2 ^ 8), info2 := w, info3 := BitVec.ofNat 32 lane }

/-- The tile key of a word of a core's tile. -/
def tensorKey (ctx id : Nat) : Nat := ctx * 256 + id

/-- A tensor binding on a quad. -/
def State.tensor (s : State) (quad ctx id : Nat) : Tensor := (s.quad quad).tensors.getD (tensorKey ctx id) {}

/-- The tile of a post (R289); `ring` is the ring index of the loop counter. -/
def mxTile (p : List Word) (ring : Nat) : Nat := bits (mw p 4) 31 28 + (if bitAt (mw p 4) 27 then ring else 0)

/-- Whether a tile of a core is allotted to a context. -/
def State.tileOk (s : State) (ctx core tile : Nat) : Bool :=
  decide (tile < 16) && ((s.ctx ctx).tileMask.getD core 0).getLsbD tile

/-- A handle of a team. -/
def Team.handle (t : Team) (h : Nat) : Handle := t.handles.getD h {}

/-- The first failing check of R293: reason and word index. -/
def Cx.mxCheck (c : Cx) (s : State) (p : List Word) (tile : Nat) : Option (Nat × Nat) :=
  let zero : List (Nat × Bool) := [(0, bits (mw p 0) 21 9 != 0), (1, bits (mw p 1) 27 23 != 0 || mxAofs p % 32 != 0),
    (2, mxRstride p % 32 != 0), (3, bits (mw p 3) 11 0 != 0), (4, bits (mw p 4) 24 0 != 0), (7, bits (mw p 7) 28 0 != 0)]
  let cls := mxClass (mxAfmt p) (mxBfmt p)
  let scaled := bitAt (mw p 5) 31 || bitAt (mw p 6) 31
  let t := s.team c.w.id.team
  let h := t.handle (bits (mw p 1) 31 28)
  let n := mxN p
  let last := mxAofs p + 127 * mxRstride p + (n - 1) * mxPstride p + mxRow p
  let bound (w : Nat) : Bool := (s.tensor (quadOf c.core) c.ctx (bits (mw p w) 30 23)).bound
  match zero.find? (fun z => z.2) with
  | some z => some (1, z.1)
  | none =>
    match cls with
    | none => some (2, 0)
    | some (_, k) =>
      if k = 0 && scaled then some (2, if bitAt (mw p 5) 31 then 5 else 6)
      else if n = 0 || decide (256 < n) then some (3, 0)
      else if !h.bound then some (4, 1)
      else if h.size < last then some (5, 1)
      else if !(match s.warpAt c.core (mxBslot p) with
          | some (_, b) => b.id.team == c.w.id.team && !b.id.wide && (mxBregs p).all (fun r => decide (r < 128) && b.validV r)
          | none => false) then some (6, 3)
      else if !s.tileOk c.ctx c.core tile then some (7, 4)
      else if mxGang p && t.gang != 4 then some (8, 0)
      else if bitAt (mw p 5) 31 && !bound 5 then some (9, 5)
      else if bitAt (mw p 6) 31 && !bound 6 then some (9, 6)
      else none

/-! Ends (R297, R298). -/

/-- A post of the table. -/
def State.putPost (s : State) (id : Nat) (p : Post) : State := { s with posts := s.posts.set id p }

/-- A post ends: its status word, and its member leaves (R17, R297). -/
def State.endPost (s : State) (id : Nat) (word : Word) : State :=
  match s.posts.get? id with
  | none => s
  | some p =>
    let s0 : State := { s with
      posts := s.posts.erase id
      pages := s.pages.filter (fun q => q.who != WalkFor.post id)
      fars := s.fars.filter (fun q => q.who != WalkFor.post id) }
    let s1 := s0.statusV p.uid (Owner.post id) p.v p.lane word
    match p.mem with
    | some m => s1.post (.memberLeave m)
    | none => s1

/-- A chain ends early (R298): each post's fault record and status. -/
def State.failPosts (s : State) (ids : List Nat) (cause reason array : Nat) (addr : Nat) : State :=
  ids.foldl (fun s id =>
    match s.posts.get? id with
    | none => s
    | some p =>
      let w := s.warp p.uid
      let m := (p.mem.bind s.members.get?).getD { uid := p.uid, key := 0, seq := 0 }
      let ring := ((findIx (fun g => g.st != .free && g.seq == m.seq) (w.key m.key).ring 0).map Prod.fst).getD 0
      let q := (s.record p.ctx (s.identify w p.lane
        { cause := cause, engine := 6, inst := quadOf p.core, key := m.key, ring := ring, gen := m.seq.toNat, addr := addr,
          committed := p.committed, spec := p.committed + 1, cycles := (s.quad (quadOf p.core)).cyc, detail := reason + array * 2 ^ 8 })).1
      q.endPost id (statusWord true true cause p.committed)) s

/-! Operations and arbitration (R294, R295). -/

/-- The posts of the operation that a post belongs to: itself, or the posts of its gang with its number, by position. -/
def State.opPosts (s : State) (id : Nat) : List (Nat × Post) :=
  match s.posts.get? id with
  | none => []
  | some p =>
    if !mxGang p.p then [(id, p)]
    else
      let t := s.team p.team
      (List.range 4).filterMap (fun k => s.posts.find? (fun kv =>
        let u := s.team kv.2.team
        mxGang kv.2.p && kv.2.ctx == p.ctx && u.grid == t.grid && u.index / 4 == t.index / 4 && u.index % 4 == k && kv.2.nth == p.nth))

/-- Whether an operation is whole: one post, or four of a gang. -/
def whole (l : List (Nat × Post)) : Bool :=
  match l with
  | [] => false
  | x :: _ => if mxGang x.2.p then l.length == 4 else true

/-- Whether the posts of a GANG operation agree (R294). -/
def agree (l : List (Nat × Post)) : Bool :=
  match l with
  | [] => true
  | x :: t => t.all (fun y => mw x.2.p 0 == mw y.2.p 0 && mxBstep x.2.p == mxBstep y.2.p && mw x.2.p 6 == mw y.2.p 6 &&
      mxPrio x.2.p == mxPrio y.2.p)

/-- The leading posts of a quad's whole operations: the first of each. -/
def State.leads (s : State) (quad : Nat) : List (Nat × Post) :=
  (s.postsOn quad).filter (fun kv => ((s.opPosts kv.1).head?.map Prod.fst) == some kv.1 && whole (s.opPosts kv.1))

/-- The arrays of an operation. -/
def arrays (l : List (Nat × Post)) : List Nat := l.map (fun x => posOf x.2.core)

/-- Whether a request ranks above another (R295) on the quad's clock: starved first, then priority, then age. -/
def outranks (cyc : Nat) (a b : Nat × Post) : Bool :=
  let old (x : Post) : Bool := x.starved || (match x.eligible with | some e => decide (e + 4096 ≤ (cyc : Int)) | none => false)
  if old a.2 != old b.2 then old a.2
  else if !old a.2 && mxPrio a.2.p != mxPrio b.2.p then decide (mxPrio b.2.p < mxPrio a.2.p)
  else decide (a.1 < b.1)

/-- Inserts a request by rank. -/
def rankIn (cyc : Nat) (x : Nat × Post) : List (Nat × Post) → List (Nat × Post)
  | [] => [x]
  | y :: t => if outranks cyc x y then x :: y :: t else y :: rankIn cyc x t

/-- The state with every post of an operation changed. -/
def State.modOp (s : State) (id : Nat) (f : Post → Post) : State :=
  (s.opPosts id).foldl (fun s x => { s with posts := s.posts.modify x.1 f }) s

/-- Marks what has become eligible (R294): every dependence of a whole operation is satisfied. -/
def State.markEligible (s : State) (quad : Nat) : State :=
  (s.leads quad).foldl (fun s x =>
    if x.2.eligible.isSome || x.2.granted || !(s.opPosts x.1).all (fun y => s.depOk y.2.uid y.2.dep) then s
    else (s.modOp x.1 (fun p => { p with eligible := some (s.quad quad).cyc })).post (.mxStarvationLimit x.1)) s

/-- The table of magnitudes as a grant finds it: an entry that an LQTBL is writing is old or new, each of several LQTBLs choosing
for itself (R116, R279). -/
def State.magNow (s : State) (core : Nat) : KMap Word :=
  (s.core core).lq.zipIdx.foldl (fun m q => q.1.writes.foldl (fun m w =>
    if s.choose (1000000 + 256 * q.2 + w.1) 2 = 0 then m else m.set w.1 w.2) m) (s.core core).mag

/-- Grants an operation its arrays (R295, R296): the first time its B is captured next, later it goes on. -/
def State.grantOp (s : State) (id : Nat) : State :=
  let l := s.opPosts id
  match l with
  | [] => s
  | x :: _ =>
    let cyc := (s.quad (quadOf x.2.core)).cyc
    let again := x.2.captured
    let s1 := l.foldl (fun s y => { s with posts := s.posts.modify y.1 (fun p =>
      { p with granted := true, starved := false, eligible := none, due := if again then cyc + 44 else cyc + 4,
               mag := if again then p.mag else s.magNow p.core }) }) s
    s1.post (if again then .mxPassBoundary id else .mxCaptureComplete id)

/-- Grants down a ranked list: `held` are arrays that run or are held for a GANG operation that ranks higher. -/
def State.grantAll (s : State) : List Nat → List (Nat × Post) → State
  | _, [] => s
  | held, x :: t =>
    let need := arrays (s.opPosts x.1)
    if need.all (fun a => !held.contains a) then (s.grantOp x.1).grantAll (held ++ need) t
    else if mxGang x.2.p then s.grantAll (held ++ need) t
    else s.grantAll held t

/-- GANG posts of a quad that can no longer be matched: a peer has retired with fewer (R294). -/
def State.unmatched (s : State) (quad : Nat) : List Nat :=
  ((s.postsOn quad).filter (fun kv => mxGang kv.2.p && !whole (s.opPosts kv.1) &&
    (let t := s.team kv.2.team
     s.teams.any (fun q => q.2.ctx == t.ctx && q.2.grid == t.grid && q.2.index / 4 == t.index / 4 && q.2.retired &&
      decide (q.2.gangPosts ≤ kv.2.nth))))).map Prod.fst

/-- Matched operations whose posts do not agree. -/
def State.disagree (s : State) (quad : Nat) : List Nat :=
  ((s.leads quad).filter (fun x => !agree (s.opPosts x.1))).flatMap (fun x => (s.opPosts x.1).map Prod.fst)

/-- The eligible requests of a quad, by rank; a context that is to be saved has no further chain granted (R299). -/
def State.ranked (s : State) (quad : Nat) : List (Nat × Post) :=
  ((s.leads quad).filter (fun x => x.2.eligible.isSome && !x.2.granted && s.runs x.2.ctx)).foldl
    (fun l x => rankIn (s.quad quad).cyc x l) []

/-- Arrays of a quad on which a chain runs. -/
def State.busyArrays (s : State) (quad : Nat) : List Nat :=
  ((s.postsOn quad).filter (fun kv => kv.2.granted)).map (fun kv => posOf kv.2.core)

/-- MX_GRANT (R294, R295). -/
def execMxGrant (quad : Nat) (s : State) : Host.Outcome State Fault Refusal :=
  let s1 := (s.unmatched quad).foldl (fun s id => s.endPost id (statusWord true true 0x0A 0)) s
  let s2 := (s1.disagree quad).foldl (fun s id => s.endPost id (statusWord true true 0x0E 11)) s1
  let s3 := s2.markEligible quad
  let s4 := s3.grantAll (s3.busyArrays quad) (s3.ranked quad)
  ran (if (s4.postsOn quad).any (fun kv => !kv.2.granted) && !s4.bag.contains (.mxGrant quad) then
    s4.post (.mxGrant quad) else s4)

/-- When a request becomes starved (R295). -/
def State.starveDue (s : State) (id : Nat) : Option Nat :=
  match s.posts.get? id with
  | none => none
  | some p => if p.starved || p.granted || !s.onDevice p.ctx then none else p.eligible.map (fun e => (e + 4096).toNat)

/-- MX_STARVATION_LIMIT (R295). -/
def execMxStarvationLimit (id : Nat) (s : State) : Host.Outcome State Fault Refusal :=
  match s.starveDue id, s.posts.get? id with
  | some due, some p => ran ((s.reachQuad (quadOf p.core) due).modOp id (fun p => { p with starved := true }))
  | _, _ => ran s

/-! Capture (R286). -/

/-- The captured words of a post: a register that was written since the post is old or new, word by word. -/
def State.captureOf (s : State) (p : Post) : KMap Word :=
  let b := s.warp p.buid
  let later (r lane : Nat) : List Word := b.coming (fun x => match x with
    | .v k vals => if k = r then vals.get? lane else none
    | _ => none)
  p.bregs.foldl (fun m r => (List.range 32).foldl (fun m l =>
    let key := r * 64 + l
    let olds := (p.hazard.filter (fun h => h.1 == key)).map Prod.snd
    let all := (b.vreg r l :: olds) ++ later r l
    m.set (r * 32 + l) (nth all (s.choose (10000 + key) all.length) 0)) m) []

/-- MX_CAPTURE_COMPLETE (R286): once the results outstanding at the post have returned. -/
def execMxCaptureComplete (id : Nat) (s : State) : Host.Outcome State Fault Refusal :=
  let l := s.opPosts id
  match l with
  | [] => ran s
  | x :: _ =>
    let out (y : Nat × Post) : Bool := (s.warp y.2.buid).iss.outstanding.any (fun r => y.2.waits.contains r.id && !r.ready) ||
      (s.warp y.2.buid).iss.outstanding.any (fun r => y.2.waits.contains r.id && r.refused.isEmpty)
    if !x.2.granted || x.2.captured then ran s
    else if l.any out || !s.onDevice x.2.ctx then ran (s.post (.mxCaptureComplete id))
    else
      let s1 := s.reachQuad (quadOf x.2.core) x.2.due
      let s2 := l.foldl (fun s y => s.putPost y.1 { y.2 with captured := true, capture := s1.captureOf y.2, hazard := [],
                                                              due := y.2.due + 44 }) s1
      ran (s2.post (.mxPassBoundary id))

/-! Operands of a pass. -/

/-- The near-space offset of a byte of A: pass, row and byte within the row (R281). -/
def Post.aOfs (p : Post) (pass row byte : Nat) : Nat :=
  p.handle.base + mxAofs p.p + row * mxRstride p.p + pass * mxPstride p.p + byte

/-- The lines of A that a pass reads. -/
def Post.aLines (p : Post) (pass : Nat) : List Nat :=
  ((List.range 128).flatMap (fun m => linesAt (p.aOfs pass m 0) (mxRow p.p))).eraseDups

/-- The tag of a line of A in the operand cache (R282). -/
def Post.aTag (p : Post) (line : Nat) : List Nat := [p.team, bits (mw p.p 1) 31 28, p.handle.gen.toNat, line - p.handle.base]

/-- The bytes of a line of A: the scratchpad's, or those of a stale hit (R282). -/
def State.aLine (s : State) (p : Post) (line : Nat) : List Byte :=
  match (s.quad (quadOf p.core)).opCache.find? (fun c => c.tag == posOf p.core :: p.aTag line) with
  | some c => if s.choose (20000 + line / 128) 2 = 1 then c.bytes else s.nearRead p.team line 128
  | none => s.nearRead p.team line 128

/-- What a pass read of A, kept by line. -/
def State.aRead (s : State) (p : Post) (pass : Nat) : KMap (List Byte) :=
  (p.aLines pass).foldl (fun m l => m.set l (s.aLine p l)) []

/-- A row of A from the lines read. -/
def Post.aRow (p : Post) (ls : KMap (List Byte)) (pass m : Nat) : Nat :=
  leNat ((List.range (mxRow p.p)).map (fun i =>
    let o := p.aOfs pass m i
    ((ls.getD (lineOf o) [])[o % 128]?).getD 0))

/-- One element of a format at a place of a packed value (R115, R281, R284). -/
def mxElem (fmt : Nat) (env : FEnv) (mag : KMap Word) (packed k : Nat) : FVal :=
  let f (g : Fmt) : FVal := unpack g (ftziBits g env (packed / 2 ^ (g.width * k) % 2 ^ g.width))
  match fmt with
  | 10 => f .bf16
  | 11 => f .e4m3
  | 12 => f .e5m2
  | 13 => f .e2m1
  | _ =>
    let c := packed / 2 ^ (16 * (k / 8)) % 2 ^ 16
    lq2 (mag.getD (c % 256) (magReset (c % 256))) c (k % 8)

/-- An integer element. -/
def mxInt (fmt packed k : Nat) : Int :=
  let b := packed / 2 ^ (8 * k) % 256
  if fmt = 0 then (BitVec.ofNat 8 b).toInt else b

/-- The words of a column of B in a pass, as one packed value (R284). -/
def Post.bCol (p : Post) (pass q lane : Nat) : Nat :=
  leNat (bytesOfWords ((mxRegs p.p pass q).map (fun r => p.capture.getD (r * 32 + lane) 0)))

/-- The post that supplies a quarter: the own one, or that of a gang position (R285). -/
def supplier (l : List (Nat × Post)) (own : Post) (q : Nat) : Post :=
  if mxGang own.p then ((l[q]?).map Prod.snd).getD own else own

/-- Times a scale: an exponent, or a NaN (R113). -/
def scaleV (v : FVal) : Option Int → FVal
  | none => .nan false
  | some k => match v with
    | .fin s m e => .fin s m (e + k)
    | x => x

/-- The block of a scale (R290): parameter word, format, K, pass, row or column, and element. -/
def mxBlockOf (p : List Word) (w fmt pass i k : Nat) : Nat :=
  let bpp := mxK p / mxBlock fmt
  bits (mw p w) 22 0 + (pass * 128 + i) * bpp + k / mxBlock fmt

/-- The scale blocks that a side of a pass uses. -/
def mxBlocks (p : List Word) (w fmt pass : Nat) : List Nat :=
  if !bitAt (mw p w) 31 then []
  else (List.range 128).flatMap (fun i => (List.range (mxK p / mxBlock fmt)).map (fun j => mxBlockOf p w fmt pass i (j * mxBlock fmt)))

/-- What a read of a scale byte comes to (R291): the byte, with its address when its home serves it. -/
inductive ScaleR where
  | ok (b : Nat) (home : Option Nat)
  | page
  | wait
  | far (dev pa : Nat)
  | bad (cause reason : Nat)
  deriving DecidableEq, Repr

/-- The tag of a scale byte (R291). -/
def scaleTag (ctx id gen block : Nat) : List Nat := [ctx, id, gen, block]

/-- The byte of a scale block in memory, as a load at DEV scope by the quad's engine. -/
def State.scaleMem (s : State) (core ctx : Nat) (t : Tensor) (block : Nat) : ScaleR :=
  if t.len ≤ block then .bad 0x08 2
  else
    match s.reach core ctx 2 (quadOf core) (t.base + BitVec.ofNat 64 block) .load with
    | .replay => .page
    | .world => .bad 0x17 4
    | .prot => .bad 0x08 3
    | .ok e pa =>
      if leafTarget e = 1 then .ok (leNat (s.hostRd pa 1)) none
      else if leafTarget e = 2 && leafDevice e != s.fab.device then .far (leafDevice e) pa
      else
        match s.localLane ctx pa 1 false with
        | .ok (.dev a) => .ok (leNat (s.peek a 1)) (some a)
        | .ok (.win a) => .ok (leNat (s.winRead a 1)) none
        | .ok (.near t o) => if s.nearIdle t then .ok (leNat (s.nearRead t o 1)) none else .wait
        | .ok (.guard _ _) => .ok 0 none
        | .ok (.creel _) => .ok 0 none
        | _ => .bad 0x08 3

/-- A scale byte as a pass uses it: from memory, or cached under the same tag (R291). -/
def State.scale (s : State) (p : Post) (id : Nat) (t : Tensor) (block : Nat) : ScaleR :=
  match (s.quad (quadOf p.core)).scales.find? (fun c => c.tag == scaleTag p.ctx id t.gen block) with
  | some c =>
    if block < t.len ∧ s.choose (30000 + block) 2 = 1 then .ok (leNat c.bytes) none else s.scaleMem p.core p.ctx t block
  | none => s.scaleMem p.core p.ctx t block

/-- A scale of another device as far as it has been read for a post (R291). -/
def State.scaleFar (s : State) (post : Nat) (va : Nat) : ScaleR → ScaleR
  | .far d pa =>
    match s.fars.find? (fun f => f.who == WalkFor.post post && f.va == va) with
    | some f =>
      (match f.data with
        | none => .far d pa
        | some [] => .bad 0x08 3
        | some l => .ok (leNat l) none)
    | none => .far d pa
  | r => r

/-- The scales a side of a pass uses, by block, with the addresses their homes read; or the first that cannot be had, with its
address. -/
def State.scalesOf (s : State) (post : Nat) (p : Post) (w fmt pass : Nat) (t : Tensor) :
    (KMap Nat × List Nat) × Option (ScaleR × Nat) :=
  (mxBlocks p.p w fmt pass).foldl (fun a b =>
    match a.2 with
    | some _ => a
    | none =>
      match s.scaleFar post (t.base + BitVec.ofNat 64 b).toNat (s.scale p (bits (mw p.p w) 30 23) t b) with
      | .ok x h => ((a.1.1.set b x, a.1.2 ++ h.toList), none)
      | r => (a.1, some (r, (t.base + BitVec.ofNat 64 b).toNat))) ((([] : KMap Nat), ([] : List Nat)), none)

/-- What one array of a pass has read. -/
structure ArrayIn where
  id : Nat
  post : Post
  rows : List Nat
  sa : KMap Nat
  sb : KMap Nat
  lines : KMap (List Byte)
  homes : List Nat

/-- Why a pass does not run now: something it waits for, or the chain's end with cause, reason, array and address. -/
inductive PassR where
  | ok (l : List ArrayIn)
  | wait
  | page (p : Post) (addr : Nat)
  | far (id : Nat) (p : Post) (dev addr pa : Nat)
  | bad (cause reason array addr : Nat)

/-- The reads of one array (R282, R283, R290, R291). -/
def State.arrayIn (s : State) (id : Nat) (p : Post) : PassR :=
  let t := s.team p.team
  let lines := p.aLines p.committed
  if lines.any (fun l => t.absentAt l 128) || !s.nearIdle p.team then .wait
  else
    match lines.find? (fun l => t.poisonAt l 128) with
    | some l => .bad 0x11 1 (posOf p.core) (s.nearAddr p.team l)
    | none =>
      let sa := s.scalesOf id p 5 (mxAfmt p.p) p.committed p.ta
      let sb := s.scalesOf id p 6 (mxBfmt p.p) p.committed p.tb
      match sa.2, sb.2 with
      | some (.bad c r, a), _ => .bad c r (posOf p.core) a
      | _, some (.bad c r, a) => .bad c r (posOf p.core) a
      | some (.far d x, a), _ => .far id p d a x
      | none, some (.far d x, a) => .far id p d a x
      | some (.page, a), _ => .page p a
      | none, some (.page, a) => .page p a
      | some _, _ => .wait
      | none, some _ => .wait
      | none, none =>
        let ls := s.aRead p p.committed
        .ok [{ id := id, post := p, rows := (List.range 128).map (p.aRow ls p.committed), sa := sa.1.1,
                sb := sb.1.1, lines := ls, homes := sa.1.2 ++ sb.1.2 }]

/-- The reads of every array of an operation. -/
def State.passIn (s : State) : List (Nat × Post) → PassR
  | [] => .ok []
  | x :: t =>
    match s.arrayIn x.1 x.2, s.passIn t with
    | .ok a, .ok b => .ok (a ++ b)
    | .ok _, r => r
    | r, _ => r

/-- A tile word. -/
def State.tileWord (s : State) (core tile i : Nat) : Word := s.tiles.getD (tileKey core tile i) 0

/-- The word a pass writes at row m and column n of an array (R278, R280, R296). -/
def passWord (l : List (Nat × Post)) (env : FEnv) (a : ArrayIn) (old : Word) (m n : Nat) : Word :=
  let p := a.post
  let sup := supplier l p (n / 32)
  let row := nth a.rows m 0
  let col := sup.bCol p.committed (n / 32) (n % 32)
  let acc : Word := if mxOvw p.p && p.committed = 0 then 0 else old
  let fa := mxAfmt p.p
  let fb := mxBfmt p.p
  if fa ≤ 1 then
    BitVec.ofInt 32 ((List.range (mxK p.p)).foldl (fun x k => x + mxInt fa row k * mxInt fb col k) acc.toInt)
  else
    let sc (w fmt i k : Nat) (m : KMap Nat) : Option Int :=
      if bitAt (mw p.p w) 31 then e8m0 (m.getD (mxBlockOf p.p w fmt p.committed i k) 0) else some 0
    let ts := (List.range (mxK p.p)).map (fun k =>
      mulV (scaleV (mxElem fa env p.mag row k) (sc 5 fa m k a.sa)) (scaleV (mxElem fb env sup.mag col k) (sc 6 fb n k a.sb)))
    BitVec.ofNat 32 (passElement env (unpack .f32 (ftziBits .f32 env acc.toNat) :: ts))

/-- The first elements of a list that pass a test, as many as fit, and all that do not. -/
def keepSome {α : Type} (p : α → Bool) : Nat → List α → List α
  | _, [] => []
  | n, x :: t =>
    if !p x then x :: keepSome p n t
    else match n with
      | 0 => keepSome p 0 t
      | k + 1 => x :: keepSome p k t

/-- Lines of an array's operand cache and bytes of the scale cache (R277). Which entry goes when a cache is full is open; a use
of one that is kept may find it gone (R282, R291). -/
def opCacheLines : Nat := 2048
def scaleCacheBytes : Nat := 65536

/-- A line comes into the operand cache of its array. -/
def Quad.keepLine (q : Quad) (c : Cached) : Quad :=
  { q with opCache := keepSome (fun x => x.tag.head? == c.tag.head?) opCacheLines (c :: q.opCache.filter (fun x => x.tag != c.tag)) }

/-- A byte comes into the scale cache. -/
def Quad.keepScale (q : Quad) (c : Cached) : Quad :=
  { q with scales := (c :: q.scales.filter (fun x => x.tag != c.tag)).take scaleCacheBytes }

/-- Writes a pass of one array: every word of its tile (R288), and what it read into the caches. -/
def State.writePass (s : State) (l : List (Nat × Post)) (env : FEnv) (a : ArrayIn) : State :=
  let p := a.post
  let tiles := (List.range 16384).foldl (fun (t : KMap Word) i =>
    t.set (tileKey p.core p.tile i) (passWord l env a (s.tileWord p.core p.tile i) (i / 128) (i % 128))) s.tiles
  let sc := (a.sa.map (fun e => (bits (mw p.p 5) 30 23, p.ta, e))) ++ (a.sb.map (fun e => (bits (mw p.p 6) 30 23, p.tb, e)))
  let keep (q : Quad) : Quad :=
    sc.foldl (fun q e => q.keepScale { tag := scaleTag p.ctx e.1 e.2.1.gen e.2.2.1, bytes := [BitVec.ofNat 8 e.2.2.2] })
      (a.lines.foldl (fun q e => q.keepLine { tag := posOf p.core :: p.aTag e.1, bytes := e.2 }) q)
  (a.homes.foldl (fun (s : State) h => (s.homeRead (dieOf p.core) h 1).2) { s with tiles := tiles }).modQuad (quadOf p.core) keep

/-- Whether a running chain at its 8-pass boundary is outranked by a request that needs one of its arrays (R295). -/
def State.outranked (s : State) (id : Nat) (p : Post) : Bool :=
  let need := arrays (s.opPosts id)
  let me : Nat × Post := (id, { p with granted := false, eligible := none, starved := false })
  (s.ranked (quadOf p.core)).any (fun x => outranks (s.quad (quadOf p.core)).cyc x me &&
    (arrays (s.opPosts x.1)).any (fun a => need.contains a))

/-- MX_PASS_BOUNDARY (R288, R295 to R298). -/
def execMxPassBoundary (id : Nat) (s : State) : Host.Outcome State Fault Refusal :=
  let l := s.opPosts id
  match l with
  | [] => ran s
  | x :: _ =>
    let again (s : State) : State := s.post (.mxPassBoundary id)
    if !x.2.granted || !x.2.captured then ran s
    else if !s.runs x.2.ctx || s.awaits (.post id) then ran (again s)
    else
      match s.passIn l with
      | .wait => ran (again s)
      | .page p a =>
        ran (again (s.await { who := .post id, core := p.core, ctx := p.ctx, uid := p.uid, va := BitVec.ofNat 64 a, kind := 0,
                              lanes := laneBit p.lane, page := a / 4096 }))
      | .far i p d a pa =>
        (match s.farRead (.post i) p.ctx d a pa 1 with
          | .wait t => ran (again t)
          | .ok _ => ran (again s)
          | .refused =>
            ran (again { s with fars := { who := .post i, va := a, data := some [] } :: s.fars.filter (fun f =>
              !(f.who == WalkFor.post i && f.va == a)) }))
      | .bad c r a addr =>
        let s1 := s.failPosts (l.map Prod.fst) c r a addr
        ran (s1.post (.mxGrant (quadOf x.2.core)))
      | .ok ins =>
        let s0 := s.reachQuad (quadOf x.2.core) x.2.due
        let env : FEnv := { mode := 1, ftzi := x.2.fmode.getLsbD 3, ftzo := x.2.fmode.getLsbD 4 }
        let s1 := ins.foldl (fun s a => s.writePass l env a) s0
        let s2 := s1.modOp id (fun p => { p with committed := p.committed + 1, due := p.due + 32 })
        let done := x.2.committed + 1
        if mxN x.2.p ≤ done then
          let s3 := l.foldl (fun s y => s.endPost y.1 (statusWord true false 0 (mxN x.2.p))) s2
          ran (s3.post (.mxGrant (quadOf x.2.core)))
        else if done % 8 = 0 && (s2.markEligible (quadOf x.2.core)).outranked id x.2 then
          let s3 := s2.modOp id (fun p => { p with granted := false, eligible := some (s2.quad (quadOf x.2.core)).cyc })
          ran ((s3.post (.mxStarvationLimit id)).post (.mxGrant (quadOf x.2.core)))
        else ran (again s2)

/-! The instructions (R300 to R305). -/

/-- What every matrix instruction of the posting lane checks first (R56, R300): form, registers and produce key. -/
def Cx.mxHead (c : Cx) (v n : Nat) (kp : BitVec 4) : Except Stop Unit := do
  c.noXp
  match (List.range' v n).find? (fun r => !c.w.validV r) with
  | some r => .error (regBound 0 r c.mask)
  | none => if kp = 15 then .error (trapOf 0x0B) else .ok ()

/-- The parameters of an instruction in registers of the posting lane. -/
def Cx.params (c : Cx) (s : State) (v n : Nat) : List Word := (List.range' v n).map (fun r => c.readV s r c.lane)

/-- MXPOST statuses of a warp that are pending. -/
def State.mxPending (s : State) (uid : Nat) : Nat := (s.posts.filter (fun kv => kv.2.uid == uid)).length

/-- MXPOST (R301). -/
def execMxpost (o : FMx) (s : State) : Host.Outcome State Fault Refusal :=
  s.runTarget o.sw (fun c s => do
    let v := o.v.toNat
    c.mxHead v 9 o.p
    match c.w.iss.resume with
    | .capture id =>
      if ((s.posts.get? id).map (fun p => p.captured)).getD true then .ok (s, .next) else .error (.park .engine s)
    | _ =>
      if c.mask = 0 then .ok (s, .next)
      else
        let one := laneBit c.lane
        c.touch s (vNames v 8 one ++ [.v (v + 8) one])
        c.bWrites s [v + 8] one
        let p := c.params s v 8
        let ln := bits (mw p 4) 26 25
        c.touch s (if bitAt (mw p 4) 27 then [.l ln] else [])
        let tile := mxTile p (bits (c.readL s ln).toNat 23 16)
        match c.mxCheck s p tile with
        | some (r, i) => .error (mxParam r i (nth p i 0) c.lane)
        | none => .ok ()
        let q := quadOf c.core
        if decide (8 ≤ s.mxPending c.uid) || decide (32 ≤ s.mxTable q) then .error (.park .engine s)
        else
          let (dep, m, s1) ← c.keys s o.c.toNat o.p.toNat
          let r := s1.newId
          let t := s.team c.w.id.team
          let b := ((s.warpAt c.core (mxBslot p)).map Prod.fst).getD 0
          let regs := mxBregs p
          let waits := ((s.warp b).iss.outstanding.filter (fun x => regs.any (fun g => x.hits (.v g (BitVec.allOnes 64))))).map (fun x => x.id)
          let tens (w : Nat) : Tensor := if bitAt (mw p w) 31 then s.tensor q c.ctx (bits (mw p w) 30 23) else {}
          let post : Post := { uid := c.uid, ctx := c.ctx, core := c.core, team := c.w.id.team, lane := c.lane, v := v + 8, p := p,
                               tile := tile, handle := t.handle (bits (mw p 1) 31 28), ta := tens 5, tb := tens 6, dep := dep,
                               mem := some m, fmode := c.readFmode s, nth := t.gangPosts, buid := b, bregs := regs, waits := waits }
          let s2 := (r.2.outward c.core c.ctx (o.c.toNat :: o.p.toNat :: p.map BitVec.toNat)).putPost r.1 post
          let s3 := if mxGang p then s2.modTeam c.w.id.team (fun t => { t with gangPosts := t.gangPosts + 1 }) else s2
          let s4 := (s3.statusPend c.uid (.post r.1) (.v (v + 8) one)).post (.mxGrant q)
          if mxCapwait p then
            .error (.park .engine (s4.modWarp c.uid (fun w => { w with iss := { w.iss with resume := .capture r.1 } })))
          else .ok (s4, .next))

/-- The address of an accumulator word in its core's window (R23, R287). -/
def tileAddr (core tile word : Nat) : Nat := 0x200000000000 + core * 0x4000000 + 0x900000 + tile * 0x10000 + word * 4

/-- The lanes of MXRD and MXWR (R302): the index of each, and PROT at the first that is bad. -/
def Cx.mxLanes (c : Cx) (s : State) (v : Nat) : Except Stop (List (Nat × Target)) :=
  let ls := (lanesOf c.mask).map (fun i => (i, (c.readV s v i).toNat))
  match ls.find? (fun p => decide (2 ^ 18 ≤ p.2) || !s.tileOk c.ctx c.core (p.2 / 2 ^ 14)) with
  | some p => .error (trapLane 0x08 p.1 (BitVec.ofNat 64 p.2))
  | none => .ok (ls.map (fun p => (p.1, .win (tileAddr c.core (p.2 / 2 ^ 14) (p.2 % 2 ^ 14)))))

/-- MXRD (R302). -/
def execMxrd (o : FMx) (s : State) : Host.Outcome State Fault Refusal :=
  s.runTarget o.sw (fun c s => do
    let v := o.v.toNat
    if v % 2 != 0 then .error ill else .ok ()
    c.mxHead v 2 o.p
    c.touch s [.v v c.mask, .v (v + 1) c.mask]
    c.bWrites s [v + 1] c.mask
    let ls ← c.mxLanes s v
    let (dep, m, s1) ← c.keys s o.c.toNat o.p.toNat
    let op := { c.op s1 (.load false) o.c.toNat o.p.toNat dep m with
      d := v + 1, units := ls.map (fun p => { lane := p.1, tgt := p.2, size := 4 }) }
    let s2 ← undo s (c.launchOp s1 op [.v (v + 1) c.mask])
    .ok (s2, .next))

/-- MXWR (R302). -/
def execMxwr (o : FMx) (s : State) : Host.Outcome State Fault Refusal :=
  s.runTarget o.sw (fun c s => do
    let v := o.v.toNat
    if v % 2 != 0 then .error ill else .ok ()
    c.mxHead v 2 o.p
    c.touch s [.v v c.mask, .v (v + 1) c.mask]
    let ls ← c.mxLanes s v
    let (dep, m, s1) ← c.keys s o.c.toNat o.p.toNat
    let op := { c.op s1 .store o.c.toNat o.p.toNat dep m with
      units := highestWins (ls.map (fun p => { lane := p.1, tgt := p.2, size := 4, data := bytesOf (c.readV s (v + 1) p.1) })) }
    let s2 ← undo s (c.launchOp s1 op [])
    .ok (s2, .next))

/-- An engine request without a status register. -/
def Cx.quietReq (c : Cx) (s : State) (kind : ReqKind) (kc kp : Nat) (args : List Word) (rows : List (Nat × List Word)) :
    Except Stop (Nat × State) := do
  let (dep, m, s1) ← c.keys s kc kp
  let r := s1.newId
  let q : Req := { kind := kind, uid := c.uid, ctx := c.ctx, core := c.core, lane := c.lane, lanes := c.mask, args := args,
                   rows := rows, dep := dep, mem := some m }
  .ok (r.1, { r.2.outward c.core c.ctx (kind.ctorIdx :: kc :: kp :: args.map BitVec.toNat) with reqs := r.2.reqs.set r.1 q })

/-- A request without a status register ends. -/
def State.endQuiet (s : State) (id : Nat) : State :=
  match s.reqs.get? id with
  | none => s
  | some r =>
    let s1 : State := { s with reqs := s.reqs.erase id }
    match r.mem with
    | some m => s1.post (.memberLeave m)
    | none => s1

/-- Applies a matrix request whose dependence is satisfied (R303, R305). -/
def State.applyMx (s : State) (id : Nat) : State :=
  match s.reqs.get? id with
  | none => s
  | some r =>
    match r.kind with
    | .mxZero =>
      let mask := nth r.args 0 0
      ({ s with tiles := s.tiles.keep (fun k _ => !(k / 2 ^ 18 == r.core && mask.getLsbD (k / 2 ^ 14 % 16))) }.modCore r.core
        (fun k => { k with badAcc := k.badAcc.filter (fun b => !mask.getLsbD (b / 2 ^ 14)) })).endQuiet id
    | .scLoad =>
      if r.rows.isEmpty then s.endQuiet id
      else
        let s1 := { s with reqs := s.reqs.set id { r with begun := true } }
        s1.postAll (r.rows.map (fun b => Ev.scaleFetchReturn (quadOf r.core) r.ctx (nth r.args 0 0).toNat b.1))
    | _ => s

/-- MXZERO (R303). -/
def execMxzero (o : FMx) (s : State) : Host.Outcome State Fault Refusal :=
  s.runTarget o.sw (fun c s => do
    let v := o.v.toNat
    c.mxHead v 1 o.p
    if c.mask = 0 then .ok (s, .next)
    else
      c.touch s [.v v (laneBit c.lane)]
      let m := c.readV s v c.lane
      if m.toNat / 2 ^ 16 != 0 then .error (mxParam 1 0 m c.lane)
      else if (List.range 16).any (fun t => m.getLsbD t && !s.tileOk c.ctx c.core t) then .error (mxParam 7 0 m c.lane)
      else
        let (id, s1) ← c.quietReq s .mxZero o.c.toNat o.p.toNat [m] []
        .ok (if m = 0 then s1.applyMx id else s1.startReq id State.applyMx, .next))

/-- MXHBIND (R304). -/
def execMxhbind (o : FV) (s : State) : Host.Outcome State Fault Refusal :=
  s.runTarget o.sw (fun c s => do
    let v := o.v.toNat
    c.mxHead v 3 0
    if c.mask = 0 then .ok (s, .next)
    else
      c.touch s (vNames v 3 (laneBit c.lane))
      let p := c.params s v 3
      let t := s.team c.w.id.team
      let bad : List (Nat × Bool) := [(0, mw p 0 / 16 != 0), (1, mw p 1 / 2 ^ 23 != 0 || mw p 1 % 128 != 0),
        (2, mw p 2 % 128 != 0 || mw p 2 == 0)]
      match bad.find? (fun b => b.2) with
      | some (i, _) => .error (mxParam 1 i (nth p i 0) c.lane)
      | none =>
        if t.zone (mw p 1) (mw p 2) != .alloc then .error (trapLane 0x08 c.lane ((nth p 1 0).setWidth 64))
        else
          let h := t.handle (mw p 0)
          .ok ((c.command s (p.map BitVec.toNat)).modTeam c.w.id.team (fun t => { t with
            handles := t.handles.set (mw p 0) { h with bound := true, base := mw p 1, size := mw p 2 } }), .next))

/-- MXHGEN (R282, R304). -/
def execMxhgen (o : FV) (s : State) : Host.Outcome State Fault Refusal :=
  s.runTarget o.sw (fun c s => do
    let v := o.v.toNat
    c.mxHead v 1 0
    if c.mask = 0 then .ok (s, .next)
    else
      c.touch s [.v v (laneBit c.lane)]
      let w := c.readV s v c.lane
      let t := c.w.id.team
      if w.toNat / 16 != 0 then .error (mxParam 1 0 w c.lane)
      else
        let h := (s.team t).handle w.toNat
        if !h.bound then .error (mxParam 4 0 w c.lane)
        else
          let s1 := (c.command s [w.toNat]).modTeam t (fun x => { x with handles := x.handles.set w.toNat { h with gen := h.gen + 1 } })
          let mine (x : Cached) : Bool := (x.tag.drop 1).take 2 == [t, w.toNat]
          .ok (if h.gen = 0xFFFF then
              s1.modQuad (quadOf c.core) (fun q => { q with opCache := q.opCache.filter (fun x => !mine x) })
            else s1, .next))

/-- SCBIND (R305). -/
def execScbind (o : FV) (s : State) : Host.Outcome State Fault Refusal :=
  s.runTarget o.sw (fun c s => do
    let v := o.v.toNat
    if v % 2 != 0 then .error ill else .ok ()
    c.mxHead v 4 0
    if c.mask = 0 then .ok (s, .next)
    else
      c.touch s (vNames v 4 (laneBit c.lane))
      let p := c.params s v 4
      if mw p 2 / 256 != 0 then .error (mxParam 1 2 (nth p 2 0) c.lane)
      else if mw p 3 = 0 || decide (2 ^ 23 < mw p 3) then .error (mxParam 1 3 (nth p 3 0) c.lane)
      else
        let q := quadOf c.core
        let t := s.tensor q c.ctx (mw p 2)
        let n : Tensor := { base := pair (nth p 0 0) (nth p 1 0), len := mw p 3, bound := true, gen := t.gen + 1 }
        .ok ((c.command s (p.map BitVec.toNat)).modQuad q (fun k => { k with
          tensors := k.tensors.set (tensorKey c.ctx (mw p 2)) n }), .next))

/-- SCLOAD (R305). -/
def execScload (o : FMx) (s : State) : Host.Outcome State Fault Refusal :=
  s.runTarget o.sw (fun c s => do
    let v := o.v.toNat
    c.mxHead v 3 o.p
    if c.mask = 0 then .ok (s, .next)
    else
      c.touch s (vNames v 3 (laneBit c.lane))
      let p := c.params s v 3
      if 256 ≤ mw p 0 then .error (mxParam 1 0 (nth p 0 0) c.lane)
      else if mw p 2 = 0 || decide (65536 < mw p 2) then .error (mxParam 1 2 (nth p 2 0) c.lane)
      else if !(s.tensor (quadOf c.core) c.ctx (mw p 0)).bound then .error (mxParam 9 0 (nth p 0 0) c.lane)
      else
        let (id, s1) ← c.quietReq s .scLoad o.c.toNat o.p.toNat [nth p 0 0] ((List.range' (mw p 1) (mw p 2)).map (fun b => (b, [])))
        .ok (s1.startReq id State.applyMx, .next))

/-- SCINV (R305). -/
def execScinv (o : FV) (s : State) : Host.Outcome State Fault Refusal :=
  s.runTarget o.sw (fun c s => do
    let v := o.v.toNat
    c.mxHead v 1 0
    if c.mask = 0 then .ok (s, .next)
    else
      c.touch s [.v v (laneBit c.lane)]
      let w := c.readV s v c.lane
      let q := quadOf c.core
      let next (t : Tensor) : Tensor := { t with gen := t.gen + 1 }
      if w = 0xFFFFFFFF then
        .ok ((c.command s [w.toNat]).modQuad q (fun k => { k with
          tensors := k.tensors.mapv (fun i t => if i / 256 == c.ctx then next t else t) }), .next)
      else if 256 ≤ w.toNat then .error (mxParam 1 0 w c.lane)
      else if !(s.tensor q c.ctx w.toNat).bound then .error (mxParam 9 0 w c.lane)
      else .ok ((c.command s [w.toNat]).modQuad q (fun k => { k with
        tensors := k.tensors.modify (tensorKey c.ctx w.toNat) next }), .next))

/-- SCALE_FETCH_RETURN (R291, R305): a block comes into the scale cache, from another device once it has answered, or is
skipped; an SCLOAD ends with its last. That of a saved context waits for its restore. -/
def execScaleFetchReturn (quad ctx tensor block : Nat) (s : State) : Host.Outcome State Fault Refusal :=
  let mine (r : Req) : Bool := r.kind == .scLoad && r.begun && r.ctx == ctx && quadOf r.core == quad &&
    (nth r.args 0 0).toNat == tensor && r.rows.any (fun b => b.1 == block)
  let again (s : State) : State := s.post (.scaleFetchReturn quad ctx tensor block)
  match s.reqs.find? (fun kv => mine kv.2) with
  | none => ran s
  | some (id, r) =>
    let t := s.tensor quad ctx tensor
    let va := (t.base + BitVec.ofNat 64 block).toNat
    let done (s : State) : State :=
      let r1 : Req := { r with rows := r.rows.filter (fun b => b.1 != block) }
      let s1 : State := { s with reqs := s.reqs.set id r1 }
      if r1.rows.isEmpty then (s1.endQuiet id).dropFars (.post id) else s1
    let keep (s : State) (b : Nat) : State :=
      done (s.modQuad quad (fun q => q.keepScale { tag := scaleTag ctx tensor t.gen block, bytes := [BitVec.ofNat 8 b] }))
    if !s.onDevice ctx then ran (again s)
    else
      match s.scaleMem r.core ctx t block with
      | .ok b (some a) => ran (keep (s.homeRead (dieOf r.core) a 1).2 b)
      | .ok b none => ran (keep s b)
      | .wait => ran (again s)
      | .far dev pa =>
        (match s.farRead (.post id) ctx dev va pa 1 with
          | .wait u => ran (again u)
          | .ok l => ran (keep s (leNat l))
          | .refused => ran (done s))
      | _ => ran (done s)

end Sys2Proof.Machine
end

