-- ==== Sys2Proof/Machine/Copy.lean ====
section
/-! DEFINITION. The copy engine: shape records (R249 to R253), addresses and spaces (R254), acceptance and presence (R259),
landings (R261), endings and failures (R256, R267, R268), and the copy instructions (R271, R272, R276). -/

namespace Sys2Proof.Machine

open Sys2Proof

/-! The shape record (R249, R250). -/

/-- A word of a record as a number. -/
def rw (r : List Word) (i : Nat) : Nat := (nth r i 0).toNat

/-- Element size of a type code (R249). -/
def elemSize (code : Nat) : Nat := nth [1, 1, 2, 2, 4, 4, 8, 8, 4, 2, 2, 1, 1, 1, 2] code 1

def recCode (r : List Word) : Nat := bits (rw r 12) 31 28
def recRop (r : List Word) : Nat := bits (rw r 12) 27 24
def recMask (r : List Word) : Nat := bits (rw r 12) 23 20
def recSspace (r : List Word) : Nat := bits (rw r 12) 19 18
def recDspace (r : List Word) : Nat := bits (rw r 12) 17 16
def recZfill (r : List Word) : Bool := bitAt (rw r 12) 15
def recSignal (r : List Word) : Bool := bitAt (rw r 12) 14
def recRcen (r : List Word) : Bool := bitAt (rw r 12) 13
def recCrel (r : List Word) : Bool := bitAt (rw r 12) 12
def recRc (r : List Word) : Nat := bits (rw r 13) 31 24
def recSig (r : List Word) : Nat := bits (rw r 13) 23 16
def recRepl (r : List Word) : Nat := bits (rw r 13) 15 0
def recGroup (r : List Word) : Nat := bits (rw r 14) 31 24
def recBase (r : List Word) : Nat := bits (rw r 14) 23 14
def recSize (r : List Word) : Nat := elemSize (recCode r)
def recE0 (r : List Word) : Nat := bits (rw r 4) 15 0
def recE1 (r : List Word) : Nat := bits (rw r 4) 31 16
def recE2 (r : List Word) : Nat := bits (rw r 5) 15 0
def recE3 (r : List Word) : Nat := bits (rw r 5) 31 16

/-- Total length in bytes (R252). -/
def recTotal (r : List Word) : Nat := recE0 r * recE1 r * recE2 r * recE3 r * recSize r

/-- Source or destination address of the element at a position (R252). -/
def recAddr (r : List Word) (dst : Bool) (pos : Nat) : Nat :=
  let n := pos / recSize r
  let b := if dst then 2 else 0
  let k := if dst then 9 else 6
  let base : Int := rw r b + rw r (b + 1) * 2 ^ 32
  let str (i : Nat) : Int := (nth r (k + i) 0).toInt
  let i0 := n % recE0 r
  let i1 := n / recE0 r % recE1 r
  let i2 := n / (recE0 r * recE1 r) % recE2 r
  let i3 := n / (recE0 r * recE1 r * recE2 r)
  let a : Int := base + i0 * recSize r + i1 * str 0 + i2 * str 1 + i3 * str 2
  let near := (if dst then recDspace r else recSspace r) == 1
  (a % (if near then 2 ^ 32 else 2 ^ 64)).toNat

/-- The chunks of a walk: rows of dimension 0 in pieces of up to 2 KiB, each by its first position (R260). -/
def recChunks (r : List Word) : List Nat :=
  let row := recE0 r * recSize r
  if recTotal r = 0 then []
  else (List.range (recE1 r * recE2 r * recE3 r)).flatMap (fun i =>
    (List.range ((row + 2047) / 2048)).map (fun k => i * row + 2048 * k))

/-- The positions of a chunk's elements. -/
def recPositions (r : List Word) (start : Nat) : List Nat :=
  let row := recE0 r * recSize r
  let stop := min (start + 2048) ((start / row + 1) * row)
  (List.range ((stop - start) / recSize r)).map (fun i => start + i * recSize r)

/-- Every element's position. -/
def recAll (r : List Word) : List Nat := (recChunks r).flatMap (recPositions r)

/-- The byte offset of the first word of a record that makes it malformed (R253); R322's conditions are apart. -/
def recBad (r : List Word) (trig : Bool) (gang : Nat) : Option Nat :=
  let n := recSize r
  let off (i : Nat) : Bool := rw r i % n != 0
  let code := recCode r
  let rop := recRop r
  let whole := code == 4 || code == 5
  let flt := code == 8 || code == 9 || code == 10
  let mask := recMask r
  let bad12 := code == 15 || (!recZfill r && decide (2 ≤ recSspace r)) || decide (2 ≤ recDspace r) ||
    bits (rw r 12) 11 0 != 0 || decide (4 < rop) || (decide (1 ≤ rop) && decide (rop ≤ 3) && !whole) ||
    (rop == 4 && !(flt && recCrel r)) ||
    (mask != 0 && (gang == 0 || decide (2 ^ gang ≤ mask) || recCrel r || rop != 0))
  let bad13 := (recRcen r && decide (64 ≤ recRc r)) || (recSignal r && decide (64 ≤ recSig r)) ||
    (!recCrel r && recRepl r != 0)
  let bad14 := (!recCrel r && (recGroup r != 0 || recBase r != 0)) || bits (rw r 14) 5 0 != 0 ||
    (if trig then decide (64 ≤ trigOf r) else trigOf r != 0)
  let tests : List (Nat × Bool) :=
    [(0, !recZfill r && off 0), (4, !recZfill r && recSspace r == 1 && rw r 1 != 0), (8, off 2),
     (12, recDspace r == 1 && rw r 3 != 0), (24, off 6), (28, off 7), (32, off 8), (36, off 9), (40, off 10), (44, off 11),
     (48, bad12), (52, bad13), (56, bad14), (60, !trig && threshOf r != 0)]
  (tests.find? (fun t => t.2)).map Prod.fst

/-! Addresses (R254). -/

/-- Why an element cannot be copied now: a page to wait for, something absent, or a failure with its reason (R267). -/
inductive CopyR where
  | ok (t : Target)
  | page
  | busy
  | bad (reason : Nat)
  deriving DecidableEq, Repr

/-- The quad of a copy. -/
def Copy.quad (c : Copy) : Nat := quadOf c.core

/-- A lane's check as a copy sees it; a window whose team or slot is not resident is reason 5, any other 10. -/
def copyLane (s : State) (near : Bool) : LaneR → CopyR
  | .prot => .bad (if near then 4 else 2)
  | .world => .bad 3
  | .window => .bad 10
  | .gone => .bad 5
  | .replay => .page
  | .ok (.guard _ _) => .bad 4
  | .ok (.near t o) => if (s.team t).retired then .bad 5 else .ok (.near t o)
  | .ok t => .ok t

/-- Reason 5 for a register or scratchpad window behind which nobody is resident. -/
def State.windowGone (s : State) (pa : Nat) : Bool :=
  match placeOf pa with
  | .scratch c o => (s.windowTeam c o).isNone && !(s.core c).retired
  | .register c slot _ _ _ => (s.warpAt c slot).isNone && !(s.core c).retired
  | _ => false

/-- A physical address of this device for a copy. -/
def State.copyLocal (s : State) (ctx pa n : Nat) : CopyR :=
  match s.localLane ctx pa n false with
  | .window => .bad (if inWindow pa && s.windowGone pa then 5 else 10)
  | r => copyLane s false r

/-- Whether a multicast may reach a window address: in a register, accumulator, port-buffer or scratchpad window (R260). -/
def castable (pa : Nat) : Bool :=
  inWindow pa && (match placeOf pa with | .counter _ _ => false | .hole => false | _ => true)

/-- A global address of a copy with its permission; `core` replaces the window's core for a multicast member, for which any
other destination is malformed (R253, R260). -/
def State.copyGlobal (s : State) (c : Copy) (va : Nat) (a : Access) (n : Nat) (core : Option Nat) : CopyR :=
  match s.reach c.core c.ctx 1 c.quad (BitVec.ofNat 64 va) a with
  | .prot => .bad 2
  | .world => .bad 3
  | .replay => .page
  | .ok e pa =>
    let far := leafTarget e == 2 && leafDevice e != s.fab.device
    match core with
    | some k => if leafTarget e == 1 || far || !castable pa then .bad 1
      else s.copyLocal c.ctx (0x200000000000 + k * 0x4000000 + pa % 0x4000000) n
    | none => if leafTarget e = 1 then .ok (.sys pa) else if far then .ok (.net (leafDevice e) pa) else s.copyLocal c.ctx pa n

/-- The source of an element (R254, R259): absent lines wait, but for those the copy made absent itself. -/
def State.copySrc (s : State) (c : Copy) (pos : Nat) : CopyR :=
  let n := recSize c.rc
  let a := recAddr c.rc false pos
  let r := if recSspace c.rc = 1 then copyLane s true (s.nearLane c.team (BitVec.ofNat 32 a) n)
    else s.copyGlobal c a .load n none
  match r with
  | .ok (.near t o) =>
    let x := s.team t
    if (linesAt o n).any (fun l => 0 < x.absent.getD l 0 && !c.made.contains (t, l)) then .busy
    else if x.poisonAt o n then .bad 6
    else .ok (.near t o)
  | .ok (.creel pa) => .ok (.creel pa)
  | x => x

/-- Whether an address lies in a register, accumulator or port-buffer window, of this device or a peer, which the reduce operators
do not take (R251). -/
def noRmw (pa : Nat) : Bool :=
  inWindow pa && (match placeOf pa with
    | .register _ _ _ _ _ => true
    | .tile _ _ _ _ => true
    | .port _ _ _ _ _ => true
    | _ => false)

/-- The destination of an element, for a gang member when the copy is a multicast (R254, R260). -/
def State.copyDst (s : State) (c : Copy) (pos : Nat) (member : Option Nat) : CopyR :=
  let n := recSize c.rc
  let a := recAddr c.rc true pos
  let rmw := decide (1 ≤ recRop c.rc) && decide (recRop c.rc ≤ 3)
  let acc : Access := if rmw then .atomic else .store
  if recDspace c.rc = 1 then
    let a1 := match member with
      | some m => a / 2 ^ 25 * 2 ^ 25 + m * 2 ^ 23 + a % 2 ^ 23
      | none => a
    copyLane s true (s.nearLane c.team (BitVec.ofNat 32 a1) n)
  else
    let core := match member with
      | some m => some (((s.member c.team m).bind (fun t => (s.team t).core)).getD 0)
      | none => none
    match s.copyGlobal c a acc n core with
    | .ok (.win pa) => if !rmw then .ok (.win pa) else .bad (1 + 48 * 256)
    | .ok (.net d pa) => if rmw && noRmw pa then .bad (1 + 48 * 256) else .ok (.net d pa)
    | .ok (.creel pa) => if !rmw then .ok (.creel pa) else .bad 10
    | .bad 1 => .bad (1 + 48 * 256)
    | r => r

/-- The counter core of a target with its device (R261). -/
def State.counterCore (s : State) : Target → Option (Nat × Nat)
  | .near t _ => (s.team t).core.map (fun c => (s.fab.device, c))
  | .win pa => some (s.fab.device, (pa - 0x200000000000) / 0x4000000)
  | .net d pa => if inWindow pa then some (d, (pa - 0x200000000000) / 0x4000000) else none
  | _ => none

/-- Whether a target is another device's to translate, as that of a target rank of a collective is: it is there that its counter
core is found (R322, R323). -/
def State.theirs (s : State) (c : Copy) (m : Option Nat) : Target → Bool
  | .net d _ => recCrel c.rc && m == some d && d != s.fab.device
  | _ => false

/-- Reasons 8 and 9 of an element that is to be counted or signalled (R261, R262). -/
def State.countable (s : State) (c : Copy) (m : Option Nat) (t : Target) : Option Nat :=
  if !(recRcen c.rc || recSignal c.rc) || s.theirs c m t then none
  else
    match s.counterCore t with
    | none => some 8
    | some (d, k) =>
      if d = s.fab.device && ((recRcen c.rc && !s.rcOk c.ctx k (recRc c.rc)) ||
          (recSignal c.rc && !s.rcOk c.ctx k (recSig c.rc))) then some 9
      else none

/-- The gang members of a multicast, or none for a plain copy. -/
def recMembers (r : List Word) : List (Option Nat) :=
  if recMask r = 0 then [none] else ((List.range 4).filter (fun m => bitAt (recMask r) m)).map some

/-! Positions and endings. -/

/-- The committed position (R267). -/
def Copy.committed (c : Copy) : Nat :=
  lowestNat (recTotal c.rc) (c.unread ++ c.lost ++ c.pend.flatMap (fun l => l.elems.map Prod.fst))

/-- The state with a copy replaced. -/
def State.putCopy (s : State) (id : Nat) (c : Copy) : State := { s with copies := s.copies.set id c }

/-- Whether a copy writes every byte of a near-space line (R209, R259). -/
def State.coversLine (s : State) (c : Copy) (team line : Nat) : Bool :=
  let spots := (recAll c.rc).flatMap (fun p => (recMembers c.rc).filterMap (fun m => match s.copyDst c p m with
    | .ok (.near t o) => if t = team && lineOf o == line then some (o - line) else none
    | _ => none))
  (List.range 128).all (fun i => spots.any (fun o => decide (o ≤ i) && decide (i < o + recSize c.rc)))

/-- A copy is done with a line: the number of copies landing there falls, and at zero it is present, poisoned when one of
them left bytes unlanded (R259). -/
def State.dropLine (s : State) (team line : Nat) (short : Bool) : State :=
  s.modTeam team (fun t =>
    let n := t.absent.getD line 0 - 1
    let sh := if short then addNew t.short [line] else t.short
    if n = 0 then
      { t with absent := t.absent.erase line, short := sh.filter (fun l => l != line),
               poison := if sh.contains line then addNew t.poison [line] else t.poison }
    else { t with absent := t.absent.set line n, short := sh })

/-- Bytes of a copy landed in a near-space line: with the last of them the copy is done there; one that landed the whole
line clears its poison (R259). -/
def State.lineLanded (s : State) (id team line n : Nat) : State :=
  match s.copies.get? id with
  | none => s
  | some c =>
    match c.lines.find? (fun q => q.1 == team && q.2.1 == line) with
    | none => s
    | some q =>
      if q.2.2 ≤ n then
        let s1 := s.putCopy id { c with lines := c.lines.filter (fun x => x != q) }
        let s2 := if s.coversLine c team line then s1.unpoison team line else s1
        s2.dropLine team line false
      else s.putCopy id { c with lines := c.lines.map (fun x => if x == q then (team, line, q.2.2 - n) else x) }

/-- The fault record of a copy (R267). -/
def State.copyRecord (s : State) (c : Copy) (cause engine inst detail : Nat) (addr : Addr) : State :=
  let w := s.warp c.uid
  let m := (c.mem.bind s.members.get?).getD { uid := c.uid, key := 0, seq := 0 }
  let ring := ((findIx (fun g => g.st != .free && g.seq == m.seq) (w.key m.key).ring 0).map Prod.fst).getD 0
  (s.record c.ctx (s.identify w c.lane
    { cause := cause, engine := engine, inst := inst, key := m.key, ring := ring, gen := m.seq.toNat, addr := addr.toNat,
      committed := c.committed, spec := c.high, cycles := (s.die (dieOf c.core)).mesh, detail := detail })).1

/-- The end of a copy: lines it leaves short, its status word, its record and its member (R256, R259). -/
def State.closeCopy (s : State) (id : Nat) (c : Copy) (word : Word) : State :=
  let s1 := c.lines.foldl (fun s q => s.dropLine q.1 q.2.1 true) s
  let s2 := { s1 with copies := s1.copies.erase id }
  let s3 := s2.statusV c.uid (.copy id) c.v c.lane word
  match c.mem with
  | some m => s3.post (.memberLeave m)
  | none => s3

/-- Sets the end of a copy going when nothing of it is left to do. -/
def State.tryEndCopy (s : State) (id : Nat) : State :=
  match s.copies.get? id with
  | none => s
  | some c =>
    if c.unread.isEmpty && c.pend.isEmpty && ((c.st == .moving && c.coll.isNone) || c.fail.isSome || c.cancel || c.mism.isSome) &&
        !s.bag.contains (.copyEnd id)
      then s.post (.copyEnd id) else s

/-- A member has drained its share of a chunk's holding slot, which frees after the last (R260). -/
def Copy.drain (c : Copy) (chunk : Nat) (m : Option Nat) : Copy :=
  match m with
  | none => c
  | some k =>
    if c.pend.any (fun l => l.chunk == chunk && l.member == some k) then c
    else
      let l := c.slots.map (fun p => if p.1 = chunk then (p.1, p.2.filter (fun x => x != k)) else p)
      { c with slots := l.filter (fun p => !p.2.isEmpty) }

/-- A copy stops (R267, R268). After a failure its reads end, and of what it has read each write has been sent, or is dropped,
freely. When it is cancelled everything read lands, and what lies below it is read as well, so that the committed and the
speculative position come to be equal (log 34). Holding slots stay until they are drained (R260). -/
def State.stopCopy (s : State) (id : Nat) (cancelled : Bool) (f : Copy → Copy) : State :=
  match s.copies.get? id with
  | none => s
  | some c =>
    let all := cancelled && c.coll.isNone
    let keep (l : Landing) : Bool := l.sent || all || s.choose (9000 + l.ix) 2 = 0
    let drop := c.pend.filter (fun l => !keep l)
    let left := if all then c.unread.filter (fun p => decide (p < c.high)) else []
    let c1 := f { c with pend := c.pend.filter keep, unread := left,
                         lost := c.lost ++ c.unread.filter (fun p => !left.contains p) ++ drop.flatMap (fun l => l.elems.map Prod.fst) }
    let c2 := drop.foldl (fun c l => c.drain l.chunk l.member) c1
    let s1 := (s.putCopy id c2).tryEndCopy id
    if left.isEmpty then { s1 with pages := s1.pages.filter (fun p => p.who != .copy id) } else s1

/-- A failure (R267). The first one stands. A copy that is cancelled already reads nothing more for it, lands what it has read, and
ends as cancelled, without a record (R268). -/
def State.failCopy (s : State) (id reason : Nat) (dst : Bool) (a : Nat) : State :=
  match s.copies.get? id with
  | none => s
  | some c =>
    if c.cancel && c.fail.isNone then (s.putCopy id { c with unread := [], lost := c.lost ++ c.unread }).tryEndCopy id
    else s.stopCopy id false (fun c => if c.fail.isSome then c else { c with fail := some (reason, dst, BitVec.ofNat 64 a) })

/-! Landing. -/

/-- A reduce operator on an element (R251): operator, type code, old and source value. -/
def ropNew (rop code old x : Nat) : Nat :=
  let i (v : Nat) : Int := (BitVec.ofNat 32 v).toInt
  match rop with
  | 1 => (old + x) % 2 ^ 32
  | 2 => if code = 4 then (if i x < i old then x else old) else min old x
  | 3 => if code = 4 then (if i old < i x then x else old) else max old x
  | _ => x

/-- Writes an element at its place (R251, R256): stores replace, the others read, combine and write indivisibly. -/
def State.landElem (s : State) (writer : Option Nat) (rop code : Nat) (poison : Bool) (t : Target) (b : List Byte) : State :=
  let n := b.length
  let new (old : List Byte) : List Byte := if rop = 0 then b else leBytes (ropNew rop code (leNat old) (leNat b)) n
  let toHost : Bool := ((writer.bind s.members.get?).map (fun m => (s.warp m.uid).scopeOf m.key == .sys)).getD false
  match t with
  | .dev pa =>
    let s1 := s.mergeAt [pa]
    let s2 := s1.homeWrite pa (new (s1.seen pa n)) poison
    if toHost then s2.toHost t n else s2
  | .sys pa => if toHost then (s.hostWr pa (new (s.hostRd pa n))).toHost t n else s.hostLate pa (new (s.hostRd pa n))
  | .near t o => s.nearWrite t o (new (s.nearRead t o n))
  | .win pa => if poison then (s.winWrite writer pa b).winTaint pa n else s.winWrite writer pa b
  | _ => s

/-- The bytes of a landing by offset from an address. -/
def Landing.bytes (l : Landing) (base : Nat) : List (Nat × Byte) :=
  l.elems.flatMap (fun e => e.2.2.zipIdx.map (fun p => (e.2.1.span.2.2 + p.2 - base, p.1)))

/-- Bytes in a landing. -/
def Landing.size (l : Landing) : Nat := (l.elems.map (fun e => e.2.2.length)).sum

/-- The lowest address of a landing's targets. -/
def Landing.base (l : Landing) : Nat :=
  match l.elems with
  | [] => 0
  | e :: t => t.foldl (fun a x => min a x.2.1.span.2.2) e.2.1.span.2.2

/-- The end of a landing's highest target. -/
def Landing.stop (l : Landing) : Nat := (l.elems.map (fun e => e.2.1.span.2.2 + e.2.2.length)).foldl max 0

/-- A landing is complete: counted at its core (R261), taken off its lines (R259), and off the copy. -/
def State.landed (s : State) (id : Nat) (l : Landing) : State :=
  match s.copies.get? id with
  | none => s
  | some c =>
    let c1 := { c with pend := c.pend.filter (fun x => x.ix != l.ix) }
    let core := match l.elems with | e :: _ => s.counterCore e.2.1 | [] => none
    let c2 := match core with
      | some k => if c1.cores.contains k then c1 else { c1 with cores := c1.cores ++ [k] }
      | none => c1
    let s1 := s.putCopy id (c2.drain l.chunk l.member)
    let s2 := match core with
      | some (d, k) => if recRcen c.rc && d == s.fab.device then s1.count k (recRc c.rc) l.size else s1
      | none => s1
    let s3 := l.elems.foldl (fun s e => match e.2.1 with
      | .near t o => s.lineLanded id t (lineOf o) e.2.2.length
      | _ => s) s2
    let s4 := if l.poison then l.elems.foldl (fun s e => match e.2.1 with
      | .near t o => s.modTeam t (fun x => { x with poison := addNew x.poison [lineOf o] })
      | _ => s) s3 else s3
    s4.tryEndCopy id

/-- Takes a landing off a copy without its bytes. -/
def State.loseLanding (s : State) (id : Nat) (l : Landing) : State :=
  match s.copies.get? id with
  | none => s
  | some c => s.putCopy id { c with pend := c.pend.filter (fun x => x.ix != l.ix), lost := c.lost ++ l.elems.map Prod.fst }

/-- A landing sets out, or lands (R215, R256, R319): in a near space through port 1 of its scratchpad (R213), on another device
by one write request (R308), which carries its operator (R251). -/
def State.land (s : State) (id ix : Nat) : State :=
  match s.copies.get? id with
  | none => s
  | some c =>
    match c.pend.find? (fun l => l.ix == ix) with
    | none => s
    | some l =>
      let first := l.elems.headD (0, .dev 0, [])
      let mark (s : State) : State :=
        let k := s.copies.getD id c
        s.putCopy id { k with pend := k.pend.map (fun x => { x with sent := x.sent || x.ix == ix }) }
      let refuse (reason : Nat) : State := (s.loseLanding id l).failCopy id reason true (recAddr c.rc true first.1)
      match l.answer with
      | some 0 => s.landed id l
      | some r => refuse (endReason r)
      | none =>
        if l.sent then s
        else
          match first.2.1 with
          | .net d _ =>
            let data := l.bytes l.base
            let r := { bareReq 0 l.base true data (l.stop - l.base) with
              virt := recCrel c.rc && l.member == some d, rc := if recRcen c.rc then some (recRc c.rc) else none, owes := recRcen c.rc || recSignal c.rc,
              rop := if recRop c.rc = 4 then 0 else recRop c.rc, code := recCode c.rc }
            match s.requestOf c.ctx d [.landing id ix] r with
            | none => refuse 7
            | some t => mark t
          | .creel pa =>
            let b := (pa - 0x280000000000) / 0x800000000
            let a : Arrival := { buf := b, data := l.bytes (0x280000000000 + b * 0x800000000), src := .copy id ix }
            mark (s.post (.creelArrival a))
          | .near t _ =>
            if (s.team t).retired then refuse 5
            else if !s.nearIdle t then s.post (.copyLanding id ix)
            else (l.elems.foldl (fun s e => s.landElem c.mem (recRop c.rc) (recCode c.rc) l.poison e.2.1 e.2.2) s).landed id l
          | .win pa =>
            if s.windowGone pa then refuse 5
            else (l.elems.foldl (fun s e => s.landElem c.mem (recRop c.rc) (recCode c.rc) l.poison e.2.1 e.2.2) s).landed id l
          | _ => (l.elems.foldl (fun s e => s.landElem c.mem (recRop c.rc) (recCode c.rc) l.poison e.2.1 e.2.2) s).landed id l

/-! Reading chunks. -/

/-- The bytes of a source element, whether they are poisoned, and the state after the read; none while another device is
asked. -/
def State.readElem (s : State) (c : Copy) (pos : Nat) (t : Target) : Option (List Byte × Bool) :=
  let n := recSize c.rc
  match t with
  | .dev pa => some (s.seen pa n, s.badAt pa n)
  | .sys pa => some (s.hostRd pa n, false)
  | .near k o => some (s.nearRead k o n, (s.team k).badAt o n)
  | .win pa => some (s.winRead pa n, s.winBad pa n)
  | .net _ _ => (c.got.get? pos).map (fun b => (b, false))
  | _ => some (List.replicate n 0, false)

/-- What an element's read and its destinations come to. -/
structure ElemR where
  pos : Nat
  src : CopyR
  dst : List (Option Nat × CopyR)
  deriving Repr

/-- The first obstacle of an element: its kind, on which side. -/
def State.obstacle (s : State) (c : Copy) (e : ElemR) : Option (CopyR × Bool) :=
  match e.src with
  | .ok _ =>
    match e.dst.find? (fun d => match d.2 with | .ok _ => false | _ => true) with
    | some d => some (d.2, true)
    | none =>
      match e.dst.findSome? (fun d => match d.2 with | .ok t => s.countable c d.1 t | _ => none) with
      | some r => some (.bad r, true)
      | none => none
  | r => some (r, false)

/-- The destination of a collective at a rank of this device: whatever refuses it there ends the copy with reason 7 (R322). -/
def CopyR.atRank : CopyR → CopyR
  | .bad _ => .bad 7
  | r => r

/-- The targets of one element: gang members, or target devices of a one-sided collective (R260, R323). -/
def State.elemDst (s : State) (c : Copy) (devices : List Nat) (pos : Nat) : List (Option Nat × CopyR) :=
  if recCrel c.rc then
    devices.map (fun d => (some d, if d = s.fab.device then (s.copyDst c pos none).atRank else .ok (.net d (recAddr c.rc true pos))))
  else (recMembers c.rc).map (fun m => (m, s.copyDst c pos m))

/-- The source of an element as the copy reads it; nothing under ZFILL. -/
def State.elemSrc (s : State) (c : Copy) (pos : Nat) : CopyR :=
  if recZfill c.rc then .ok (.guard 0 0) else s.copySrc c pos

/-- Elements up to the first with an obstacle, and that one. -/
def State.clearRun (s : State) (c : Copy) : List ElemR → List ElemR × Option (ElemR × CopyR × Bool)
  | [] => ([], none)
  | e :: t =>
    match s.obstacle c e with
    | some (r, d) => ([], some (e, r, d))
    | none =>
      let q := s.clearRun c t
      (e :: q.1, q.2)

/-- Adds an element to the landing of its line, member and chunk, or opens one (R261). -/
def addElem (chunk : Nat) (m : Option Nat) (pos : Nat) (t : Target) (b : List Byte) (poison : Bool) (next : Nat) :
    List Landing → List Landing × Nat
  | [] => ([{ ix := next, elems := [(pos, t, b)], member := m, chunk := chunk, poison := poison }], next + 1)
  | l :: r =>
    let same := l.chunk == chunk && l.member == m && (match l.elems with
      | (_, u, _) :: _ => u.span.1 == t.span.1 && u.span.2.1 == t.span.2.1 && u.span.2.2 / 128 == t.span.2.2 / 128
      | [] => false)
    if same then ({ l with elems := l.elems ++ [(pos, t, b)], poison := l.poison || poison } :: r, next)
    else
      let q := addElem chunk m pos t b poison next r
      (l :: q.1, q.2)

/-- The landings of a run of elements. -/
def State.landings (s : State) (c : Copy) (chunk : Nat) (es : List ElemR) : List Landing × Nat :=
  es.foldl (fun a e =>
    let v := match e.src with | .ok t => (s.readElem c e.pos t).getD ([], false) | _ => ([], false)
    e.dst.foldl (fun a d => match d.2 with
      | .ok t => addElem chunk d.1 e.pos t v.1 v.2 a.2 a.1
      | _ => a) a) (([] : List Landing), c.next)

/-- Source elements of a run that stand in another device's memory and are not answered. -/
def Copy.missing (c : Copy) (es : List ElemR) : List (Nat × Nat × Nat) :=
  es.filterMap (fun e => match e.src with
    | .ok (.net d pa) => if (c.got.get? e.pos).isSome then none else some (e.pos, d, pa)
    | _ => none)

/-- Asks another device for source elements. -/
def State.askElems (s : State) (id : Nat) : List (Nat × Nat × Nat) → State
  | [] => s
  | (pos, d, pa) :: t =>
    match s.copies.get? id with
    | none => s
    | some c =>
      if c.asked.contains pos then s.askElems id t
      else
        match s.request c.ctx d [.fetch id pos] pa false [] (recSize c.rc) with
        | none => s.failCopy id 7 false (recAddr c.rc false pos)
        | some s1 => State.askElems { s1 with copies := s1.copies.modify id (fun k => { k with asked := pos :: k.asked }) } id t

/-- The copies in a quad's copy engine: those of saved contexts are not there (R264, R402). -/
def State.copiesOn (s : State) (quad : Nat) : List Copy :=
  (s.copies.vals.filter (fun c => s.onDevice c.ctx) ++ s.kept.flatMap (fun g => g.copies.vals)).filter (fun c => c.quad == quad)

/-- Holding slots of a quad that are taken (R248, R260). -/
def State.slotsUsed (s : State) (quad : Nat) : Nat :=
  ((s.copiesOn quad).map (fun c => c.slots.length)).sum

/-- The page request of a copy's element (R267). -/
def Copy.walk (c : Copy) (id pos : Nat) (dst : Bool) : WalkReq :=
  let va := recAddr c.rc dst pos
  { who := .copy id, core := c.core, ctx := c.ctx, uid := c.uid, va := BitVec.ofNat 64 va, kind := if dst then 1 else 0,
    lanes := laneBit c.lane, page := va / 4096 }

/-- The walks that the positions of a copy take, on one side: one for each page without a cached translation (R200, R382). -/
def State.copyWalks (s : State) (c : Copy) (ps : List Nat) (dst : Bool) : State :=
  ((ps.map (fun p => recAddr c.rc dst p / 4096)).eraseDups).foldl (fun s v =>
    let a : Addr := BitVec.ofNat 64 (v * 4096)
    if (s.cachedTlb c.core c.ctx a).isEmpty then s.walked (dieOf c.core) c.ctx a else s) s

/-- What stands in the way of a chunk that a copy would read now. -/
def State.chunkStop (s : State) (c : Copy) (chunk : Nat) (devices : List Nat) : Option CopyR :=
  let es := (recPositions c.rc chunk).map (fun p => ({ pos := p, src := s.elemSrc c p, dst := s.elemDst c devices p } : ElemR))
  ((s.clearRun c es).2).map (fun q => q.2.1)

/-- Whether a chunk that a copy would read now must wait, for a page or an absent line. -/
def State.chunkWaits (s : State) (c : Copy) (devices : List Nat) (chunk : Nat) : Bool :=
  match s.chunkStop c chunk devices with
  | some .busy => true
  | some .page => true
  | _ => false

/-- The chunks that a copy may read: once it is cancelled or its context is to be saved, those below what it has read already
(R268, R269); else any up to the first that must wait, so that nothing is left to wait for below what it has read (log 34). -/
def State.readable (s : State) (c : Copy) (devices : List Nat) : List Nat :=
  if c.cancel || !s.runs c.ctx then c.unread.filter (fun p => decide (p < c.high))
  else
    let go := c.unread.takeWhile (fun p => !s.chunkWaits c devices p)
    go ++ (c.unread.drop go.length).take (if go.isEmpty then 1 else 0)

/-- Whether the engine of a copy whose context is to be saved has come to rest: nothing is in flight, and nothing is left to
read below what it has read (R269), but for a chunk that waits for a line which a later copy has made absent since (log 34). -/
def State.copyRests (s : State) (c : Copy) (devices : List Nat) : Bool :=
  c.pend.isEmpty && (c.coll.isSome || (c.unread.filter (fun p => decide (p < c.high))).all (fun k =>
    match s.chunkStop c k devices with
    | some .busy => true
    | _ => false))

/-- The near spaces that a run of elements reads are free for the copy engine (R213). -/
def State.sourcesIdle (s : State) (es : List ElemR) : Bool :=
  es.all (fun e => match e.src with | .ok (.near t _) => s.nearIdle t | _ => true)

/-- Reads one chunk of a copy (R252, R260, R267): every element before the first obstacle is read and set out; a replayable
miss or an absent line waits; a failure ends the copy. -/
def State.readChunk (s : State) (id : Nat) (devices : List Nat) : State :=
  match s.copies.get? id with
  | none => s
  | some c =>
    let again := s.post (.copyChunkRead id)
    let mcast := recMask c.rc != 0
    if c.st != .moving || c.unread.isEmpty then s
    else if (s.readable c devices).isEmpty then again
    else if s.awaits (.copy id) || (mcast && decide (32 ≤ s.slotsUsed c.quad)) then again
    else
      let free := s.readable c devices
      let chunk := nth free (s.choose 8500 free.length) 0
      let ps := recPositions c.rc chunk
      let es := ps.map (fun p => ({ pos := p, src := s.elemSrc c p, dst := s.elemDst c devices p } : ElemR))
      let q := s.clearRun c es
      match q.2, c.missing q.1, q.1.find? (fun e => c.got.get? e.pos == some []) with
      | _, _, some e => s.failCopy id 7 false (recAddr c.rc false e.pos)
      | _, m :: ms, none => (s.askElems id (m :: ms)).post (.copyChunkRead id)
      | some (_, .busy, _), [], none => again
      | some (e, .page, d), [], none => (s.await (c.walk id e.pos d)).post (.copyChunkRead id)
      | x, [], none =>
        if !s.sourcesIdle q.1 then again else
        let s := s.copyWalks c ps false
        let s := if c.lines.isEmpty && recCrel c.rc then s else s.copyWalks c ps true
        let s0 := s.mergeAt (q.1.filterMap (fun e => match e.src with | .ok (.dev pa) => some pa | _ => none))
        let s0 := (q.1.filterMap (fun e => match e.src with | .ok (.dev pa) => some pa | _ => none)).foldl
          (fun s pa => s.countRead (dieOf c.core) pa) s0
        let ls := s0.landings c chunk q.1
        let top := q.1.foldl (fun h e => max h (e.pos + recSize c.rc)) c.high
        let left := ps.filter (fun p => !q.1.any (fun e => e.pos == p))
        let c1 := { c with unread := c.unread.filter (fun p => p != chunk), pend := c.pend ++ ls.1, next := ls.2, high := top,
                           lost := c.lost ++ left,
                           slots := if mcast then c.slots ++ [(chunk, (recMembers c.rc).filterMap (fun m => m))] else c.slots }
        let s1 := (s0.putCopy id c1).postAll (ls.1.map (fun l => match l.member with
          | some m => if mcast then Ev.holdingSlotDrain id l.ix m else .copyLanding id l.ix
          | none => .copyLanding id l.ix))
        match x with
        | some (e, .bad r, d) => s1.failCopy id r d (recAddr c.rc d e.pos)
        | _ => if c1.unread.isEmpty then s1.tryEndCopy id else s1.post (.copyChunkRead id)

/-! Acceptance. -/

/-- The near-space lines that hold destination bytes, each with how many (R259). -/
def State.destLines (s : State) (c : Copy) : List (Nat × Nat × Nat) :=
  (recAll c.rc).foldl (fun a p => (recMembers c.rc).foldl (fun a m => match s.copyDst c p m with
    | .ok (.near t o) =>
      if a.any (fun q => q.1 == t && q.2.1 == lineOf o) then
        a.map (fun q => if q.1 == t && q.2.1 == lineOf o then (q.1, q.2.1, q.2.2 + recSize c.rc) else q)
      else a ++ [(t, lineOf o, recSize c.rc)]
    | _ => a) a) []

/-- Every destination line becomes absent, or one copy more absent (R259). -/
def State.makeAbsent (s : State) (l : List (Nat × Nat × Nat)) : State :=
  l.foldl (fun s q => s.modTeam q.1 (fun t => { t with absent := t.absent.set q.2.1 (t.absent.getD q.2.1 0 + 1) })) s

/-- Copy contexts of a quad in use: every accepted copy but an unfired or queued trigger (R248, R266). -/
def State.copyContexts (s : State) (quad : Nat) : Nat :=
  ((s.copiesOn quad).filter (fun c => c.st != .armed && c.st != .queued)).length

/-- Trigger slots of a quad in use (R248). DESIGN CHOICE (log 86): a fired copy that waits for a copy context, in the order of
firing (R266), keeps its slot until it has one. -/
def State.triggerSlots (s : State) (quad : Nat) : Nat :=
  ((s.copiesOn quad).filter (fun c => c.st == .armed || c.st == .queued)).length

/-- The record as the issuing warp's earlier stores leave it (R255): bytes of its stores on their way are laid over. -/
def State.ownView (s : State) (uid team o n : Nat) : List Byte :=
  s.ops.foldl (fun b kv =>
    if kv.2.uid == uid && kv.2.kind == .store then
      kv.2.units.foldl (fun b u => match u.tgt with
        | .near t a => if t = team && !u.done then
            b.zipIdx.map (fun p => if decide (a ≤ o + p.2) then (u.data[o + p.2 - a]?).getD p.1 else p.1) else b
        | _ => b) b
    else b) (s.nearRead team o n)

/-- Reads a record of `n` bytes at a near address as an LDN.B128 of the posting lane would (R255). -/
def Cx.nearRecord (c : Cx) (s : State) (a : Word) (n : Nat) : Except Stop (List Word) := do
  let r := match s.nearLane c.w.id.team a n with
    | .ok (.guard _ _) => .prot
    | x => x
  let oks ← c.check s .load 0 n [(c.lane, a.setWidth 64, r)]
  match oks with
  | (_, _, .near t o) :: _ => .ok (wordsOf (s.ownView c.uid t o n))
  | _ => .error (trapLane 0x08 c.lane (a.setWidth 64))

/-- A destination that makes a record malformed as far as it translates at acceptance (R251, R260). That of a collective is
translated at its targets alone, when it is written (R322). -/
def State.destBad (s : State) (c : Copy) : Bool :=
  !recCrel c.rc && (recAll c.rc).any (fun p => (recMembers c.rc).any (fun m => match s.copyDst c p m with
    | .bad r => r == 1 + 48 * 256
    | _ => false))

/-- TCANCEL (R268, R272): copies and armed triggers of the warp whose status is pending in Vs of an active lane. -/
def execTcancel (o : FV) (s : State) : Host.Outcome State Fault Refusal :=
  s.runTarget o.sw (fun c s => do
    c.noXp
    let v ← c.resolve 0 c.mask none o.v.toNat 1
    let ids := (s.copies.filter (fun kv => kv.2.uid == c.uid && kv.2.v == v && c.mask.getLsbD kv.2.lane)).map Prod.fst
    .ok (ids.foldl (fun s id => s.stopCopy id true (fun k => { k with cancel := true })) (c.command s [v, c.mask.toNat]), .next))

/-- The word CPOLL gives for a status register and a lane: the committed position of the copy whose status is pending there, or
that none is (R276). -/
def State.cpollWord (s : State) (uid v lane : Nat) : Word :=
  match s.copies.find? (fun kv => kv.2.uid == uid && kv.2.v == v && kv.2.lane == lane) with
  | some (_, k) => statusWord false false 0 (if k.st = .armed then 0 else k.committed)
  | none => 0x80000000

/-- CPOLL: the committed position of the copy pending in Vs of the lowest active lane (R276). -/
def execCpoll (o : FVn) (s : State) : Host.Outcome State Fault Refusal :=
  s.runTarget o.sw (fun c s => do
    c.noXp
    let v ← c.resolve 0 c.mask none o.v.toNat 1
    c.touch s [.s o.n.toNat]
    .ok ((s.result c 16 [.s o.n.toNat] [.s o.n.toNat (s.cpollWord c.uid v c.lane)]).sampling c.uid (.copy v c.lane), .next))

end Sys2Proof.Machine
end

