-- ==== Sys2Proof/Machine/Collective.lean ====
section
/-! DEFINITION. Device groups and collective copies: targets and signatures (R321, R322), acceptance and numbering (R324),
the member's and the coordinator's parts of a reduction (R325), and the ways one ends (R326). -/

namespace Sys2Proof.Machine

open Sys2Proof

/-! Targets (R322). -/

/-- Target ranks of a record. -/
def collRanks (g : GroupEnt) (r : List Word) : List Nat :=
  ((List.range 16).filter (fun j => bitAt (recRepl r) j)).map (fun j => (g.rank + recBase r + j) % g.size)

/-- Target devices of a record. -/
def State.collDevices (s : State) (ctx : Nat) (r : List Word) : List Nat :=
  let g := s.groupOf ctx (recGroup r)
  (collRanks g r).map (s.rankDevice g)

/-- The coordinator: the lowest root rank (R324). -/
def coordOf (g : GroupEnt) (r : List Word) : Nat := lowestNat 1023 (collRanks g r)

/-- A FREE entry: STATE 0, or 3, which is treated as FREE (R321). -/
def GroupEnt.free (g : GroupEnt) : Bool := g.st == 0 || g.st == 3

/-- The first offending word of a collective record beyond R253 (R322). -/
def State.collBad (s : State) (ctx : Nat) (r : List Word) : Option Nat :=
  if !recCrel r then none
  else
    let g := s.groupOf ctx (recGroup r)
    let rop := recRop r
    let code := recCode r
    let bad12 := recDspace r != 0 || recZfill r || recMask r != 0 ||
      (decide (1 ≤ rop) && decide (rop ≤ 3) && !(code == 4 || code == 5)) ||
      (rop == 4 && !(code == 8 || code == 9 || code == 10))
    let far := (List.range 16).any (fun j => bitAt (recRepl r) j && decide (g.size ≤ recBase r + j))
    let tests : List (Nat × Bool) :=
      [(16, rop != 0 && decide (2 ^ 24 < recTotal r)), (48, bad12), (52, recRepl r == 0 || (!g.free && far)),
       (56, g.free || decide (g.size ≤ recBase r))]
    (tests.find? (fun t => t.2)).map Prod.fst

/-- The first offending word of a record, by R253 or R322. -/
def State.malformed (s : State) (ctx : Nat) (r : List Word) (trig : Bool) (gang : Nat) : Option Nat :=
  match recBad r trig gang, s.collBad ctx r with
  | some a, some b => some (min a b)
  | some a, none => some a
  | none, b => b

/-- The signature words of ENTRY: operator and type, length, coordinator, first root and REPL (R310, R324). -/
def signature (g : GroupEnt) (r : List Word) : List Word :=
  let w (n : Nat) : Word := BitVec.ofNat 32 n
  [w (recRop r + recCode r * 16), w (recTotal r), w (coordOf g r), w ((g.rank + recBase r) % g.size + recRepl r * 2 ^ 16)]

/-! What a signature says. -/

def sigRop (l : List Word) : Nat := bits (rw l 0) 3 0
def sigCode (l : List Word) : Nat := bits (rw l 0) 7 4
def sigCount (l : List Word) : Nat := rw l 1 / elemSize (sigCode l)

/-- The root ranks of a signature. -/
def sigRoots (g : GroupEnt) (l : List Word) : List Nat :=
  ((List.range 16).filter (fun j => bitAt (rw l 3) (16 + j))).map (fun j => (bits (rw l 3) 9 0 + j) % g.size)

/-- How many pieces of a size hold a number of things. -/
def pieces (n k : Nat) : Nat := (n + k - 1) / k

/-- Blocks of 64 walk positions under ALN (R325). -/
def sigBlocks (l : List Word) : Nat := if sigRop l = 4 then pieces (sigCount l) 64 else 0

/-- The format of a type code for ALN. -/
def alnFmt (code : Nat) : Fmt := if code = 9 then .f16 else if code = 10 then .bf16 else .f32

/-! Endings (R326). -/

/-- A member's copies on a group end with COLL_MISMATCH, and the group is POISONED (R326). -/
def State.poisonGroup (s : State) (ctx g reason n : Nat) : State :=
  let ids := (s.copies.filter (fun kv => kv.2.ctx == ctx && recCrel kv.2.rc && recGroup kv.2.rc == g && kv.2.fail.isNone &&
    !kv.2.cancel)).map Prod.fst
  let s1 := (s.modGroup ctx g (fun e => { e with st := 2 }))
  let s2 := { s1 with colls := s1.colls.filter (fun k => !(k.ctx == ctx && k.group == g)) }
  ids.foldl (fun s id => s.stopCopy id false (fun c => if c.mism.isSome then c else { c with mism := some (reason, n), coll := none })) s2

/-- The coordinator gives a collective up: MISMATCH goes to every member, this device's own part included (R326). -/
def State.collFail (s : State) (ctx g n reason : Nat) : State :=
  let e := s.groupOf ctx g
  let others := (List.range e.size).filter (fun r => s.rankDevice e r != s.fab.device)
  (others.foldl (fun s r => s.collSend ctx g 10 n 0 r [] [BitVec.ofNat 32 reason]) s).poisonGroup ctx g reason n

/-- A member's own copy failed: the coordinator hears of it in place of the remaining messages (R326). What the member knows of
the collective stays until its MISMATCH comes back. -/
def State.memberFailed (s : State) (c : Copy) : State :=
  match c.coll with
  | none => s
  | some n =>
    let gi := recGroup c.rc
    let g := s.groupOf c.ctx gi
    let k := coordOf g c.rc
    if g.st = 2 then s
    else if k = g.rank then s.collFail c.ctx gi n 4
    else
      let s1 := match s.coll c.ctx gi n with
        | some x => s.putColl { x with copy := none }
        | none => s
      s1.collSend c.ctx gi 10 n 0 k [] [4]

/-! The coordinator's part (R325). -/

/-- Exponent bytes and special bits of 32 blocks from an index, as the words of EXP and GO. -/
def expWords (m : KMap (Nat × Bool)) (index : Nat) : List Word :=
  let at1 (i : Nat) : Nat × Bool := m.getD (index + i) (0, false)
  let special := (List.range 32).foldl (fun a i => a + (if (at1 i).2 then 2 ^ i else 0)) 0
  wordsOf ((List.range 32).map (fun i => BitVec.ofNat 8 (at1 i).1)) ++ [BitVec.ofNat 32 special]

/-- The exponent bytes and special bits of a message's words. -/
def expOf (l : List Word) : List (Nat × Bool) :=
  let b := bytesOfWords ((l.drop 4).take 8)
  (List.range 32).map (fun i => (((b[i]?).getD 0).toNat, bitAt (rw l 12) i))

/-- Whether a coordinator has all it needs for GO: the entries of all members and, under ALN, every exponent byte. -/
def State.allIn (s : State) (k : Coll) : Bool :=
  let g := s.groupOf k.ctx k.group
  match k.entries with
  | [] => false
  | (_, sig) :: _ => k.entries.length == g.size &&
      (List.range (pieces (sigBlocks sig) 32)).all (fun i => decide (g.size ≤ k.expFrom.getD (32 * i) 0))

/-- The bytes of partial sums that a collective needs at its coordinator (R325). -/
def Coll.sumBytes (k : Coll) : Nat :=
  match k.entries with
  | [] => 0
  | (_, sig) :: _ => 8 * sigCount sig

/-- Whether a collective may take its partial sums now: they fit in the memory reserved beside those of the collectives that
have it, and no collective of the group with a lower number waits for it (R325). One that is alone always fits (log 43). -/
def State.sumsFit (s : State) (k : Coll) : Bool :=
  let used := ((s.colls.filter (fun x => x.goSent)).map Coll.sumBytes).sum
  (used == 0 || decide (used + k.sumBytes ≤ Config.sumRoom)) &&
  s.colls.all (fun x => !(x.ctx == k.ctx && x.group == k.group && !x.goSent && s.allIn x && x.n != k.n && decide ((k.n - x.n).toNat < 2 ^ 31)))

/-- The result of an element (R325 step 4). -/
def Coll.result (k : Coll) (sig : List Word) (i : Nat) : Nat :=
  let x := k.sums.getD i 0
  if sigRop sig = 4 then
    let e := k.exps.getD (i / 64) (0, false)
    alnResult (alnFmt (sigCode sig)) e.1 e.2 x
  else (x % 2 ^ 32).toNat

/-- Sends the results to every root once every member has contributed every element (R325 step 4). -/
def State.tryResult (s : State) (k : Coll) : State :=
  let g := s.groupOf k.ctx k.group
  match k.entries with
  | [] => s
  | (_, sig) :: _ =>
    let cnt := sigCount sig
    if !k.goSent || k.resultSent || !(List.range (pieces cnt 8)).all (fun j => decide (g.size ≤ k.got.getD (8 * j) 0)) then s
    else
      let sz := elemSize (sigCode sig)
      let per := 48 / sz
      let roots := sigRoots g sig
      let s1 := s.putColl { k with resultSent := true, acks := roots.length * pieces cnt per }
      let body (i : Nat) : List Word :=
        wordsOf (((List.range (min per (cnt - per * i))).flatMap (fun j => leBytes (k.result sig (per * i + j)) sz)) ++
          List.replicate (48 - sz * min per (cnt - per * i)) 0)
      ((List.range (pieces cnt per)).foldl (fun s i => roots.foldl (fun s r =>
        s.collSend k.ctx k.group 8 k.n.toNat (per * i) r [.result k.ctx k.group k.n.toNat] (body i)) s) s1).tryDone
          k.ctx k.group k.n.toNat

/-- Sends GO when the entries of all members agree, under ALN every exponent byte is in, and there is room for the partial
sums; a difference is case 1 of R326. -/
def State.tryGo (s : State) (k : Coll) : State :=
  let g := s.groupOf k.ctx k.group
  match k.entries with
  | [] => s
  | (_, sig) :: t =>
    if k.goSent || k.entries.length != g.size then s
    else if t.any (fun e => e.2 != sig) then s.collFail k.ctx k.group k.n.toNat 1
    else if !s.allIn k || !s.sumsFit k then s
    else
      let nb := sigBlocks sig
      let k1 := { k with goSent := true }
      let s1 := s.putColl k1
      let s2 := if nb = 0 then s1.collAll k.ctx k.group 6 k.n.toNat 0 []
        else (List.range (pieces nb 32)).foldl (fun s i => s.collAll k.ctx k.group 6 k.n.toNat (32 * i) (expWords k.exps (32 * i))) s1
      if sigCount sig = 0 then s2.tryResult k1 else s2

/-- Collectives that waited for the memory of partial sums go on when there is room (R325). -/
def State.goWaiting (s : State) : State :=
  s.colls.foldl (fun s k => match s.coll k.ctx k.group k.n.toNat with
    | some x => if x.goSent then s else s.tryGo x
    | none => s) s

/-- The collective a message belongs to, new when it is the first of its number. -/
def State.collOr (s : State) (ctx g n : Nat) : Coll := (s.coll ctx g n).getD { ctx := ctx, group := g, n := BitVec.ofNat 32 n }

/-- ENTRY at the coordinator; at a POISONED group it is answered with MISMATCH, reason 3 (R325, R326). -/
def State.takeEntry (s : State) (ctx g : Nat) (l : List Word) : State :=
  let e := s.groupOf ctx g
  let n := rw l 2
  if e.st = 2 then s.collSend ctx g 10 n 0 (rw l 1) [] [3]
  else
    let k0 := s.collOr ctx g n
    let first := k0.entries.isEmpty
    let k := { k0 with entries := k0.entries ++ [(rw l 1, (l.drop 4).take 4)], at0 := if first then s.fabClock else k0.at0 }
    let s1 := s.putColl k
    (if first && e.timeout != 0 then s1.post (.collectiveTimeout ctx g n) else s1).tryGo k

/-- EXP at the coordinator, for as many members as it covers: bytes by maximum, bits by OR (R325 step 2, R327). -/
def State.takeExp (s : State) (ctx g covers : Nat) (l : List Word) : State :=
  if (s.groupOf ctx g).st = 2 then s
  else
    let k0 := s.collOr ctx g (rw l 2)
    let exps := (expOf l).zipIdx.foldl (fun m p =>
      let o := m.getD (rw l 3 + p.2) (0, false)
      m.set (rw l 3 + p.2) (max o.1 p.1.1, o.2 || p.1.2)) k0.exps
    let k := { k0 with exps := exps, expFrom := k0.expFrom.set (rw l 3) (k0.expFrom.getD (rw l 3) 0 + covers) }
    (s.putColl k).tryGo k

/-- A 48-bit value of a CONTRIB message. -/
def contribVal (l : List Word) (i : Nat) : Int := wrap48 (leNat (((bytesOfWords (l.drop 4)).drop (6 * i)).take 6))

/-- A contribution combined with what is there (R325 step 4). -/
def combine (rop : Nat) (old : Option Int) (x : Int) : Int :=
  match old with
  | none => x
  | some y => if rop = 2 then min y x else if rop = 3 then max y x else wrap48 (y + x)

/-- CONTRIB at the coordinator, for as many members as it covers (R327). -/
def State.takeContrib (s : State) (ctx g covers : Nat) (l : List Word) : State :=
  match s.coll ctx g (rw l 2) with
  | none => s
  | some k =>
    match k.entries with
    | [] => s
    | (_, sig) :: _ =>
      let rop := sigRop sig
      let sums := (List.range (min 8 (sigCount sig - rw l 3))).foldl (fun m i =>
        m.set (rw l 3 + i) (combine rop (m.get? (rw l 3 + i)) (contribVal l i))) k.sums
      let k1 := { k with sums := sums, got := k.got.set (rw l 3) (k.got.getD (rw l 3) 0 + covers) }
      (s.putColl k1).tryResult k1

/-- Whether this device is the coordinator of a collective, as far as it knows: from the entries it holds, or from its own
member's signature. -/
def State.isCoord (s : State) (ctx g n : Nat) : Option Bool :=
  match s.coll ctx g n with
  | none => none
  | some k =>
    if !k.entries.isEmpty || !k.expFrom.isEmpty then some true
    else if !k.sig.isEmpty then some (rw k.sig 2 == (s.groupOf ctx g).rank)
    else none

/-- A MISMATCH (R326): every receiver poisons the group, and the coordinator passes a member's fault on. A device that does not
know yet whether it is the coordinator of that number passes it on as well, which changes nothing for members that hear of it
twice (log 42). -/
def State.takeMismatch (s : State) (ctx g : Nat) (l : List Word) : State :=
  let n := rw l 2
  if (s.groupOf ctx g).st = 2 then s
  else if rw l 4 == 4 && s.isCoord ctx g n != some false then s.collFail ctx g n 4
  else s.poisonGroup ctx g (rw l 4) n

/-- COLLECTIVE_TIMEOUT (R326 case 2): TIMEOUT mesh clocks after the first ENTRY of a number, before all have arrived. -/
def execCollectiveTimeout (ctx group n : Nat) (s : State) : Host.Outcome State Fault Refusal :=
  match s.coll ctx group n with
  | none => ran s
  | some k =>
    let e := s.groupOf ctx group
    if k.entries.isEmpty || k.entries.length == e.size || e.timeout == 0 then ran s
    else ran (((s.reachMesh 0 (k.at0 + e.timeout)).collFail ctx group n 2).goWaiting)

/-- When a rendezvous watchdog falls due. -/
def State.rendezvousDue (s : State) (ctx group n : Nat) : Option Nat :=
  (s.coll ctx group n).map (fun k => k.at0 + (s.groupOf ctx group).timeout)

/-! The member's part (R325). -/

/-- Acceptance of a reduction collective: it takes the group's next number (R324). -/
def State.acceptColl (s : State) (id : Nat) (c : Copy) : State :=
  let gi := recGroup c.rc
  let g := s.groupOf c.ctx gi
  let k := s.collOr c.ctx gi g.seq.toNat
  ((s.modGroup c.ctx gi (fun e => { e with seq := e.seq + 1 })).putColl { k with copy := some id, sig := signature g c.rc }).putCopy
    id { c with coll := some g.seq.toNat, lost := [0] }

/-- Whether a member may send for a collective: fewer than four earlier ones of its group are outstanding (R324). -/
def State.collTurn (s : State) (k : Coll) : Bool :=
  decide ((s.colls.filter (fun x => x.ctx == k.ctx && x.group == k.group && x.copy.isSome && x.n != k.n &&
    decide ((k.n - x.n).toNat < 2 ^ 31))).length < 4)

/-- Reads one chunk of the source of a reduction (R325 step 1). -/
def State.readSource (s : State) (id : Nat) (c : Copy) : State :=
  let again := s.post (.copyChunkRead id)
  if s.awaits (.copy id) then again
  else
    let free := if s.runs c.ctx then c.unread else []
    if free.isEmpty then again else
    let chunk := nth free (s.choose 8500 free.length) 0
    let es := (recPositions c.rc chunk).map (fun p => ({ pos := p, src := s.elemSrc c p, dst := [] } : ElemR))
    let q := s.clearRun c es
    match q.2, c.missing q.1, q.1.find? (fun e => c.got.get? e.pos == some []) with
    | _, _, some e => s.failCopy id 7 false (recAddr c.rc false e.pos)
    | _, m :: ms, none => (s.askElems id (m :: ms)).post (.copyChunkRead id)
    | some (_, .busy, _), [], none => again
    | some (e, .page, d), [], none => (s.await (c.walk id e.pos d)).post (.copyChunkRead id)
    | some (e, .bad r, d), [], none => s.failCopy id r d (recAddr c.rc d e.pos)
    | _, [], none =>
      if !s.sourcesIdle q.1 then again else
      let pas := q.1.filterMap (fun e => match e.src with | .ok (.dev pa) => some pa | _ => none)
      let s0 := pas.foldl (fun s pa => s.countRead (dieOf c.core) pa) ((s.copyWalks c (recPositions c.rc chunk) false).mergeAt pas)
      let got := q.1.foldl (fun m e => match e.src with
        | .ok t => (match s0.readElem c e.pos t with | some (b, _) => m.set e.pos b | none => m)
        | _ => m) c.got
      let top := q.1.foldl (fun h e => max h (e.pos + recSize c.rc)) c.high
      let c1 := { c with unread := c.unread.filter (fun p => p != chunk), got := got, high := top }
      (s0.putCopy id c1).post (.copyChunkRead id)

/-- The code of a copy's element. -/
def Copy.elem (c : Copy) (i : Nat) : Nat := leNat (c.got.getD (i * recSize c.rc) [])

/-- Sends EXP for every 32 blocks (R325 step 1). -/
def State.sendExp (s : State) (c : Copy) (k : Coll) (coord : Nat) : State :=
  let cnt := sigCount k.sig
  let f := alnFmt (sigCode k.sig)
  let block (b : Nat) : Nat × Bool := alnExp f ((List.range (min 64 (cnt - 64 * b))).map (fun i => c.elem (64 * b + i)))
  let m := (List.range (sigBlocks k.sig)).map (fun b => (b, block b))
  (List.range (pieces (sigBlocks k.sig) 32)).foldl
    (fun s i => s.collSend k.ctx k.group 5 k.n.toNat (32 * i) coord (k.copy.map SentFor.member).toList (expWords m (32 * i))) s

/-- The 48-bit contribution of an element (R325 step 3). -/
def Copy.contrib (c : Copy) (k : Coll) (i : Nat) : Int :=
  let v := c.elem i
  if sigRop k.sig = 4 then alnQ (alnFmt (sigCode k.sig)) (k.go.getD (i / 64) (0, false)).1 v
  else if sigCode k.sig = 4 then (BitVec.ofNat 32 v).toInt
  else v

/-- Sends CONTRIB for every eight elements. -/
def State.sendContrib (s : State) (c : Copy) (k : Coll) (coord : Nat) : State :=
  let cnt := sigCount k.sig
  let body (j : Nat) : List Word := wordsOf ((List.range 8).flatMap (fun i =>
    leBytes (if 8 * j + i < cnt then (c.contrib k (8 * j + i) % 2 ^ 48).toNat else 0) 6))
  (List.range (pieces cnt 8)).foldl (fun s j => s.collSend k.ctx k.group 7 k.n.toNat (8 * j) coord (k.copy.map SentFor.member).toList (body j))
    (s.putColl { k with contributed := true })

/-- The next thing a member does for its reduction: ENTRY, a chunk of its source, EXP, CONTRIB (R325). -/
def State.collStep (s : State) (id : Nat) (c : Copy) (k : Coll) : State :=
  let g := s.groupOf c.ctx (recGroup c.rc)
  let coord := coordOf g c.rc
  let dev := s.rankDevice g coord
  if !k.started then
    if !s.collTurn k then s.post (.copyChunkRead id)
    else if dev != s.fab.device && (s.channelTo c.ctx dev).isNone then s.failCopy id 7 true (recAddr c.rc true 0)
    else ((s.putColl { k with started := true }).collSend c.ctx k.group 4 k.n.toNat 0 coord [.member id] k.sig).post (.copyChunkRead id)
  else if !c.unread.isEmpty then s.readSource id c
  else if recRop c.rc = 4 && !k.expSent then
    ((s.putColl { k with expSent := true }).sendExp c k coord).post (.copyChunkRead id)
  else if k.goAll && !k.contributed then s.sendContrib c k coord
  else s

/-- Whether the words of a GO are what the collective's operator allows: without ALN its INDEX and the rest are zero (R310). -/
def State.goOk (s : State) (ctx g : Nat) (l : List Word) : Bool :=
  match s.coll ctx g (rw l 2) with
  | some k => sigRop k.sig == 4 || (l.drop 3).all (fun w => w == 0#32)
  | none => true

/-- GO at a member (R325 step 3). -/
def State.takeGo (s : State) (ctx g : Nat) (l : List Word) : State :=
  match s.coll ctx g (rw l 2) with
  | none => s
  | some k =>
    let go := if sigRop k.sig = 4 then (expOf l).zipIdx.foldl (fun m p =>
      if rw l 3 + p.2 < sigBlocks k.sig then m.set (rw l 3 + p.2) p.1 else m) k.go else k.go
    let s1 := s.putColl { k with go := go, goAll := go.length == sigBlocks k.sig }
    match k.copy with
    | some id => if s1.bag.contains (.copyChunkRead id) then s1 else s1.post (.copyChunkRead id)
    | none => s1

/-- Signals of a copy at the counter cores of this device that received bytes, or at its own core when it moved nothing
(R261). -/
def State.signalHere (s : State) (c : Copy) : State :=
  let cores := if c.cores.isEmpty then [(s.fab.device, c.core)] else c.cores
  cores.foldl (fun s k => if k.1 = s.fab.device then s.count k.2 (recSig c.rc) 1 else s) s

/-- Whether a root's element lies in a window of a context that is saved: it waits for the restore (R314, R328). Else the
refusal of the export list of the channel it came on, reason 7 (R311, R322). -/
def State.rootStop (s : State) (ch : Nat) (c : Copy) (pos : Nat) : Option CopyR :=
  let rmw := decide (1 ≤ recRop c.rc) && decide (recRop c.rc ≤ 3)
  match s.reach c.core c.ctx 1 c.quad (BitVec.ofNat 64 (recAddr c.rc true pos)) (if rmw then .atomic else .store) with
  | .ok _ pa =>
    if inWindow pa && !s.onDevice c.ctx then some .busy
    else if decide (ch < 2 ^ 20) && (s.exportBad (s.chan ch) pa (recSize c.rc) rmw true).isSome then some (.bad 7)
    else none
  | _ => none

/-- Whether a root can write an element that came on a channel: its page, or the reason that ends its copy. -/
def State.rootDst (s : State) (ch : Nat) (c : Copy) (pos : Nat) : CopyR :=
  match s.rootStop ch c pos, s.copyDst c pos none with
  | some r, _ => r
  | none, .ok (.net _ _) => .bad 7
  | none, .ok (.creel _) => .bad 7
  | none, .ok t => (match s.countable c none t with
    | some r => .bad r
    | none => (match t with | .near k _ => if s.nearIdle k then .ok t else .busy | _ => .ok t))
  | none, r => r.atRank

/-- RESULT at a root: its elements are written and counted, and after the last of them its signals are applied (R324,
R325 steps 4 and 5). The answer is 0, or 2 where the root cannot write, whose copy fails, or has no copy any more, so that no DONE
follows; none while a page, a saved team or a port is waited for. -/
def State.takeResult (s : State) (ch ctx g : Nat) (l : List Word) : State × Option Nat :=
  match s.coll ctx g (rw l 2) with
  | none => (s, some 2)
  | some k =>
    match k.copy.bind (fun id => (s.copies.get? id).map (fun c => (id, c))) with
    | none => (s, some 2)
    | some (id, c) =>
      let sz := recSize c.rc
      let num := min (48 / sz) (sigCount k.sig - rw l 3)
      let data := bytesOfWords (l.drop 4)
      let es := (List.range num).map (fun i => ((rw l 3 + i) * sz, (data.drop (i * sz)).take sz))
      let ts := es.map (fun e => (e, s.rootDst ch c e.1))
      match ts.find? (fun t => match t.2 with | .ok _ => false | _ => true) with
      | some (e, .page) => (s.await (c.walk id e.1 true), none)
      | some (_, .busy) => (s, none)
      | some (e, .bad r) => (s.failCopy id r true (recAddr c.rc true e.1), some 2)
      | _ =>
        let ls := (ts.foldl (fun a t => match t.2 with
          | .ok x => (addElem 0 none t.1.1 x t.1.2 false 0 a).1
          | _ => a) ([] : List Landing) : List Landing)
        let rop := if recRop c.rc = 4 then 0 else recRop c.rc
        let s1 := (s.copyWalks c (es.map Prod.fst) true) |> ls.foldl (fun s l =>
          (l.elems.foldl (fun s e => s.landElem c.mem rop (recCode c.rc) false e.2.1 e.2.2) s).landed id l)
        let done := k.applied + num
        let s2 := s1.putColl { k with applied := done }
        let c2 := s2.copies.getD id c
        if done = sigCount k.sig && recSignal c.rc && !c2.signalled then
          ((s2.putCopy id { c2 with signalled := true }).signalHere c2, some 0)
        else (s2, some 0)

/-- DONE at a member: its copy is performed (R324). -/
def State.takeDone (s : State) (ctx g : Nat) (l : List Word) : State :=
  match s.coll ctx g (rw l 2) with
  | none => s
  | some k =>
    let s1 := { s with colls := s.colls.filter (fun x => !(x.ctx == ctx && x.group == g && x.n == k.n)) }
    match k.copy.bind (fun id => (s1.copies.get? id).map (fun c => (id, c))) with
    | none => s1
    | some (id, c) => (s1.putCopy id { c with coll := none, lost := [] }).tryEndCopy id

/-! Messages. -/

/-- The context a message's channel belongs to. -/
def State.msgCtx (s : State) (m : Msg) : Nat := if 2 ^ 20 ≤ m.ch then m.ch - 2 ^ 20 else (s.chan m.ch).ctx

/-- Applies a collective message of a kind: the reason it is refused with, 0 when it is applied; none while it must be held. A
message of another EPOCH is discarded and counted as a duplicate (R321). One that covers several members comes only to a group
with SWRED (R327). -/
def State.takeColl (s : State) (kind : Nat) (m : Msg) : State × Option Nat :=
  let ctx := s.msgCtx m
  let g := bits (rw m.words 0) 23 16
  let s := s.groupRead ctx g
  let e := s.groupOf ctx g
  if bits (rw m.words 0) 31 24 != e.epoch then
    ({ s with chans := s.chans.modify m.ch (fun c => { c with dups := min 0xFFFFFFFF (c.dups + 1) }) }, some 0)
  else if (m.covers != 1 && !(e.swred && (kind == 5 || kind == 7))) || (kind == 6 && !s.goOk ctx g m.words) then (s, some 4)
  else
    match kind with
    | 4 => ((s.takeEntry ctx g m.words).goWaiting, some 0)
    | 5 => ((s.takeExp ctx g m.covers m.words).goWaiting, some 0)
    | 6 => (s.takeGo ctx g m.words, some 0)
    | 7 => (s.takeContrib ctx g m.covers m.words, some 0)
    | 8 =>
      let r := s.takeResult m.ch ctx g m.words
      (if r.2 == some 0 && decide (2 ^ 20 ≤ m.ch) then r.1.ackResult ctx g (rw m.words 2) else r.1, r.2)
    | 9 => ((s.takeDone ctx g m.words).goWaiting, some 0)
    | _ => ((s.takeMismatch ctx g m.words).goWaiting, some 0)

/-- A collective message as an event of its own: held ones come again. -/
def State.collMsg (s : State) (kind : Nat) (m : Msg) : State :=
  let r := s.takeColl kind m
  if r.2.isSome then r.1 else r.1.post (collEvent kind m)

/-- ENTRY (R325). -/
def execEntryMsg (m : Msg) (s : State) : Host.Outcome State Fault Refusal := ran (s.collMsg 4 m)

/-- EXP (R325). -/
def execExpMsg (m : Msg) (s : State) : Host.Outcome State Fault Refusal := ran (s.collMsg 5 m)

/-- GO (R325). -/
def execGoMsg (m : Msg) (s : State) : Host.Outcome State Fault Refusal := ran (s.collMsg 6 m)

/-- CONTRIB (R325). -/
def execContribMsg (m : Msg) (s : State) : Host.Outcome State Fault Refusal := ran (s.collMsg 7 m)

/-- RESULT (R325). -/
def execResultMsg (m : Msg) (s : State) : Host.Outcome State Fault Refusal := ran (s.collMsg 8 m)

/-- DONE (R325). -/
def execDoneMsg (m : Msg) (s : State) : Host.Outcome State Fault Refusal := ran (s.collMsg 9 m)

/-- MISMATCH (R326). -/
def execMismatchMsg (m : Msg) (s : State) : Host.Outcome State Fault Refusal := ran (s.collMsg 10 m)

end Sys2Proof.Machine
end

