-- ==== Sys2Proof/Machine/CopyEvents.lean ====
section
/-! DEFINITION. Posting a copy (R255, R266, R271) and the events of one: its begin, its chunks, its landings, its end (R256,
R257, R260, R261). -/

namespace Sys2Proof.Machine

open Sys2Proof

/-- A copy that ends at its acceptance: it reads and writes nothing (R253, R266, R326). -/
def Copy.stillborn (c : Copy) : Copy := { c with unread := [], lost := [0], st := .waiting }

/-- Acceptance of a copy (R253, R259, R266, R324, R326): its first ending, or its lines, its number and its place. The record of
a malformed copy has no failing access, and its ADDRESS is zero as a field that does not apply (R19). DESIGN CHOICE (log 35):
that of a TRIG not allotted names the copy's first destination address. -/
def State.acceptCopy (s : State) (id : Nat) (c : Copy) : State :=
  let gi := recGroup c.rc
  let s := if recCrel c.rc then s.groupRead c.ctx gi else s
  let g := s.groupOf c.ctx gi
  let gang := (s.team c.team).gang
  let off := match s.malformed c.ctx c.rc c.trig gang with
    | some o => some o
    | none => if s.destBad c then some 48 else none
  match off with
  | some o =>
    (s.putCopy id { c.stillborn with fail := some (1 + 256 * o, false, 0) }).post (.copyEnd id)
  | none =>
    if c.trig && !s.rcOk c.ctx c.core (trigOf c.rc) then
      (s.putCopy id { c.stillborn with fail := some (9, true, BitVec.ofNat 64 (recAddr c.rc true 0)) }).post (.copyEnd id)
    else if recCrel c.rc && g.st == 2 then
      let n := if recRop c.rc = 0 then 0 else g.seq.toNat
      let s1 := if recRop c.rc = 0 then s else s.modGroup c.ctx gi (fun e => { e with seq := e.seq + 1 })
      (s1.putCopy id { c.stillborn with mism := some (3, n) }).post (.copyEnd id)
    else
      let lines := if recCrel c.rc && !(s.collDevices c.ctx c.rc).contains s.fab.device then [] else s.destLines c
      let c1 := { c with lines := lines, made := lines.map (fun q => (q.1, q.2.1)), st := if c.trig then .armed else .waiting }
      let s1 := (s.putCopy id c1).makeAbsent lines
      let s2 := if recCrel c.rc && recRop c.rc != 0 then s1.acceptColl id c1 else s1
      if c.trig then s2.fire c.core (trigOf c.rc) s2.copies.length else s2.post (.copyBegin id)

/-- TCOPY and TCOPYT (R255, R271). -/
def Cx.copyPost (c : Cx) (s : State) (o : FCp) (trig : Bool) : Except Stop (State × Flow) := do
  c.noXp
  let v ← c.resolve 0 c.mask none o.v.toNat 1
  c.touch s [.v v (laneBit c.lane), .s o.n.toNat]
  c.bWrites s [v] (laneBit c.lane)
  let own := (s.copies.filter (fun kv => kv.2.uid == c.uid)).length
  let q := quadOf c.core
  if o.p = 15 then .error (trapOf 0x0B)
  else if decide (16 ≤ own) || (if trig then decide (64 ≤ s.triggerSlots q) else decide (32 ≤ s.copyContexts q)) then
    .error (.park .engine s)
  else
    let words ← c.nearRecord s (c.readS s o.n.toNat) 64
    let (dep, m, s1) ← c.keys s o.c.toNat o.p.toNat
    let r := s1.newId
    let k : Copy := { uid := c.uid, ctx := c.ctx, core := c.core, team := c.w.id.team, lane := c.lane, v := v, rc := words,
                      trig := trig, order := r.1, dep := dep, mem := some m, unread := recChunks words }
    let s1 := r.2.outward c.core c.ctx (o.c.toNat :: o.p.toNat :: words.map BitVec.toNat)
    .ok ((s1.statusPend c.uid (.copy r.1) (.v v (laneBit c.lane))).acceptCopy r.1 k, .next)

/-- TCOPY (R271). -/
def execTcopy (o : FCp) (s : State) : Host.Outcome State Fault Refusal := s.runTarget o.sw (fun c s => c.copyPost s o false)

/-- TCOPYT (R271). -/
def execTcopyt (o : FCp) (s : State) : Host.Outcome State Fault Refusal := s.runTarget o.sw (fun c s => c.copyPost s o true)

/-- Whether a fired copy is the first of its quad's that wait for a copy context (R266). -/
def State.firstFired (s : State) (c : Copy) : Bool :=
  s.copies.all (fun kv => !(kv.2.quad == c.quad && s.onDevice kv.2.ctx && kv.2.st == .queued && decide (kv.2.order < c.order)))

/-- COPY_BEGIN (R257, R266): a fired copy takes a copy context when one is free, in order of firing; a copy moves data once
its dependence is satisfied. -/
def execCopyBegin (id : Nat) (s : State) : Host.Outcome State Fault Refusal :=
  match s.copies.get? id with
  | none => ran s
  | some c =>
    let again := s.post (.copyBegin id)
    match c.st with
    | .queued =>
      if s.runs c.ctx && decide (s.copyContexts c.quad < 32) && s.firstFired c then
        ran ((s.putCopy id { c with st := .waiting }).post (.copyBegin id))
      else ran again
    | .waiting =>
      if c.fail.isSome || c.cancel || c.mism.isSome then ran s
      else if s.depOk c.uid c.dep && s.runs c.ctx then
        let s1 := s.putCopy id { c with st := .moving }
        ran (if c.unread.isEmpty && c.coll.isNone then s1.tryEndCopy id else s1.post (.copyChunkRead id))
      else ran again
    | _ => ran s

/-- COPY_CHUNK_READ (R252, R325). A context that does not run reads nothing beyond what it must for its save (R269). A copy whose
message was refused stops (R326). -/
def execCopyChunkRead (id : Nat) (s : State) : Host.Outcome State Fault Refusal :=
  match s.copies.get? id with
  | none => ran s
  | some c =>
    if c.fail.isSome then ran (s.stopCopy id false (fun c => c))
    else if !(if c.coll.isSome then s.runs c.ctx else s.onDevice c.ctx) then ran (s.post (.copyChunkRead id))
    else
      match c.coll with
      | none => ran (s.readChunk id (if recCrel c.rc then s.collDevices c.ctx c.rc else []))
      | some n =>
        match s.coll c.ctx (recGroup c.rc) n with
        | some k => if c.st = .moving then ran (s.collStep id c k) else ran s
        | none => ran s

/-- COPY_LANDING (R256, R261). -/
def execCopyLanding (id line : Nat) (s : State) : Host.Outcome State Fault Refusal := ran (s.land id line)

/-- HOLDING_SLOT_DRAIN (R260): a multicast member takes its share of a slot. -/
def execHoldingSlotDrain (id line _member : Nat) (s : State) : Host.Outcome State Fault Refusal := ran (s.land id line)

/-- SIGNAL messages to the counter cores of other devices that received bytes (R256, R261, R310). -/
def State.signalFar (s : State) (id : Nat) (c : Copy) : State :=
  c.cores.foldl (fun s k =>
    if k.1 = s.fab.device then s
    else
      match s.channelTo c.ctx k.1 with
      | some (ch, _) =>
        State.message { s with copies := s.copies.modify id (fun x => { x with sigs := x.sigs + 1 }) } ch 2 [.signal id]
          [2, BitVec.ofNat 32 (k.2 + recSig c.rc * 2 ^ 16), 1]
      | none => s) s

/-- Whether a copy still owes its signals: a reduction's are applied with its results. -/
def State.owesSignals (s : State) (c : Copy) : Bool :=
  recSignal c.rc && !c.signalled &&
  (!(recCrel c.rc && recRop c.rc != 0) ||
    (recTotal c.rc == 0 && (s.collDevices c.ctx c.rc).contains s.fab.device))

/-- COPY_END (R256, R267, R268, R326): signals, then the status word and, after a failure, the record; then the member
leaves. -/
def execCopyEnd (id : Nat) (s : State) : Host.Outcome State Fault Refusal :=
  match s.copies.get? id with
  | none => ran s
  | some c =>
    if !c.unread.isEmpty || !c.pend.isEmpty then ran s
    else if !s.onDevice c.ctx then ran (s.post (.copyEnd id))
    else
      match c.mism, c.fail with
      | some (reason, n), _ =>
        let g := s.groupOf c.ctx (recGroup c.rc)
        let dev := s.rankDevice g (coordOf g c.rc)
        ran ((s.copyRecord c 0x13 8 dev (recGroup c.rc + reason * 2 ^ 8 + n % 65536 * 2 ^ 16) 0).closeCopy id c (statusWord true true 0x13 0))
      | none, some (reason, dst, a) =>
        ran (((s.memberFailed c).goWaiting.copyRecord c 0x10 5 c.quad (reason + if dst then 2 ^ 16 else 0) a).closeCopy id c
          (statusWord true true 0x10 c.committed))
      | none, none =>
        if c.cancel then ran ((s.memberFailed c).goWaiting.closeCopy id c (statusWord true true 0x10 c.committed))
        else if s.owesSignals c then
          if c.cores.isEmpty && !s.rcOk c.ctx c.core (recSig c.rc) then ran (s.failCopy id 9 true (recAddr c.rc true 0))
          else
            ran (((((s.putCopy id { c with signalled := true }).signalHere c).signalFar id c)).post (.copyEnd id))
        else if c.sigs != 0 then ran (s.post (.copyEnd id))
        else ran (s.closeCopy id c (statusWord true false 0 (recTotal c.rc)))

end Sys2Proof.Machine
end

