-- ==== Sys2Proof/Machine/Save.lean ====
section
/-! DEFINITION. The image of a context save, word by word (R363). DESIGN CHOICE (log 25): R363 says what it holds and not how it is
laid out; the model writes each part after the other, a list with its length first. -/

namespace Sys2Proof.Machine

open Sys2Proof

/-- A number as a word. -/
def numWord (x : Nat) : List Word := [BitVec.ofNat 32 x]

/-- A number as two words. -/
def numWords (x : Nat) : List Word := [BitVec.ofNat 32 x, BitVec.ofNat 32 (x / 2 ^ 32)]

/-- A list with its length first. -/
def listed {α : Type} (l : List α) (f : α → List Word) : List Word := numWord l.length ++ l.flatMap f

/-- A flag. -/
def flagNum (b : Bool) : Nat := if b then 1 else 0

/-- What may be absent: one more than it is, or 0. -/
def optWord (o : Option Nat) : List Word := numWord ((o.map (fun x => x + 1)).getD 0)

/-- A dependence. -/
def Dep.image (d : Dep) : List Word :=
  numWord (flagNum d.all) ++ listed d.comps (fun c => numWord (c.1 + c.2.toNat * 2 ^ 16)) ++ listed d.late numWord

/-- A register by its space and number. -/
def RegName.image : RegName → List Word
  | .v n ls => numWord n ++ maskWords ls
  | .s n => numWord (2 ^ 8 + n)
  | .m n => numWord (2 ^ 9 + n)
  | .x n => numWord (2 ^ 10 + n)
  | .l n => numWord (2 ^ 11 + n)
  | .lstat ls => numWord (2 ^ 12) ++ maskWords ls
  | .fmode => numWord (2 ^ 13)
  | .part => numWord (2 ^ 13 + 1)
  | .kdef => numWord (2 ^ 13 + 2)
  | .table => numWord (2 ^ 13 + 3)
  | .epc hi => numWord (2 ^ 13 + 4 + flagNum hi)

/-- What will write a pending status register. -/
def Owner.image : Owner → List Word
  | .copy i => numWord 0 ++ numWord i
  | .post i => numWord 1 ++ numWord i
  | .req i => numWord 2 ++ numWord i
  | .claim i => numWord 3 ++ numWord i

/-- A frontier entry. -/
def Ent.image (e : Ent) : List Word := numWords e.pc.toNat ++ numWord e.prio.toNat ++ maskWords e.mask

/-- A key: scope, ring, inherited dependence and violation flag. -/
def Key.image (k : Key) : List Word :=
  numWord (k.scope.ctorIdx + flagNum k.viol * 2 ^ 8) ++
    k.ring.flatMap (fun g => numWord (g.st.ctorIdx + g.seq.toNat * 2 ^ 16) ++ numWord (g.members + g.claims * 2 ^ 16)) ++ k.inh.image

/-- A chime in a send queue or a holding. -/
def Chime.image (c : Chime) : List Word :=
  [c.target, c.tag, c.sender] ++ numWord c.grid ++ c.dep.image ++ optWord c.mem ++ numWord (flagNum c.remote + 2 * flagNum c.out)

/-- A port with its queues. -/
def Port.image (p : Port) : List Word :=
  numWord (p.st.ctorIdx + 4 * flagNum p.gone) ++ [p.target] ++
    listed p.queue (fun q => numWord q.1 ++ listed q.2 (fun v => [v.val] ++ numWord (flagNum v.vis + 2 * flagNum v.bad)))

/-- Handler state (R99 to R105). -/
def Handler.image (h : Handler) : List Word :=
  numWord (flagNum h.on) ++ numWords h.epc.toNat ++ [h.ecause] ++ maskWords h.emask ++ [h.info0, h.info1, h.info2, h.info3, h.shadowPart] ++
    listed h.shadowS (fun w => [w]) ++ listed h.held Ent.image

/-- A warp: its register footprint, S, M, J, X and L registers, control registers, frontier, handler state, pending status writes,
keys with chimes and claims, ports, links and counters. -/
def Warp.image (w : Warp) : List Word :=
  let lanes := List.range w.width
  let id := w.id
  numWord (id.w + id.nregs * 2 ^ 8 + flagNum id.wide * 2 ^ 16 + flagNum id.lanePorts * 2 ^ 17 + id.mode.ctorIdx * 2 ^ 18) ++
    [id.grid, id.team, id.obj].flatMap numWord ++ optWord id.weave ++ optWord id.place ++ maskWords w.live ++
    (List.range id.nregs).flatMap (fun r => lanes.map (w.vreg r)) ++
    (List.range 64).map w.sreg ++ (List.range 8).flatMap (fun i => maskWords (w.mreg i)) ++
    (List.range 16).flatMap (fun i => let j := w.jreg i; maskWords j.e ++ maskWords j.a ++ numWords j.pc.toNat ++ numWord j.prio.toNat) ++
    (List.range 8).map w.xreg ++ (List.range 8).map w.lreg ++
    [w.ctl.part, w.ctl.fmode, w.ctl.kdef, w.ctl.cycHi] ++
    lanes.map (fun l => w.ctl.lstat.getD l 0) ++ lanes.map (fun l => w.ctl.srng.getD l 0) ++
    numWord w.iss.prio.toNat ++ listed w.iss.frontier Ent.image ++ w.hnd.image ++
    listed w.iss.status (fun p => p.reg.image ++ p.owner.image) ++
    w.kf.keys.flatMap Key.image ++ listed w.kf.sendq Chime.image ++ listed w.kf.inbox (fun i => [i.tag, i.sender]) ++
    listed w.kf.claims (fun c => numWord c.sd ++ optWord c.mem) ++
    w.ports.flatMap Port.image ++ w.links.flatMap (fun l => numWord (flagNum l.valid) ++ numWords l.line ++ numWord l.ver) ++
    listed w.reports (fun r => numWord (r.cause.toNat + r.key * 2 ^ 8) ++ numWords r.addr.toNat) ++
    w.iss.counters.flatMap numWords ++ numWords w.iss.groups ++ numWords w.iss.words

/-- A barrier. -/
def Barrier.image (b : Barrier) : List Word :=
  numWord (b.st.ctorIdx + b.level * 2 ^ 4 + b.expect * 2 ^ 8) ++ numWord b.limit ++ [b.phase] ++
    listed b.arrivals (fun a => numWord (a.w + flagNum a.counted * 2 ^ 8) ++ a.dep.image ++ optWord a.mem)

/-- A team: its scratchpad with presence and poison, its barriers and its handles. -/
def Team.image (t : Team) : List Word :=
  [t.grid, t.index, t.size, t.nbase, t.gang, t.restores, t.groups, t.gangPosts].flatMap numWord ++
    wordsOf (Memory.readN t.near 0 t.size) ++
    (List.range ((t.size + 127) / 128)).flatMap (fun i => numWord (t.absent.getD (128 * i) 0 + flagNum (t.poison.contains (128 * i)) * 2 ^ 31)) ++
    listed t.barriers (fun b => numWord b.1 ++ b.2.image) ++
    listed t.handles (fun h => numWord (h.1 + flagNum h.2.bound * 2 ^ 8 + h.2.gen.toNat * 2 ^ 16) ++ [h.2.base, h.2.size].flatMap numWord) ++
    listed t.exited numWord ++ t.counters.flatMap numWords

/-- A matrix post: its parameters, tile, dependence and progress (R299). -/
def Post.image (p : Post) : List Word :=
  [p.uid, p.core, p.lane, p.v, p.tile, p.committed, p.nth].flatMap numWord ++ listed p.p (fun w => [w]) ++ p.dep.image ++ optWord p.mem ++
    numWord (flagNum p.captured + 2 * flagNum p.granted) ++ listed p.capture (fun c => numWord c.1 ++ [c.2])

/-- A copy: its record and how far it is (R269). -/
def Copy.image (c : Copy) : List Word :=
  [c.uid, c.core, c.lane, c.v, c.order, c.high, c.next, c.sigs].flatMap numWord ++ listed c.rc (fun w => [w]) ++ c.dep.image ++
    optWord c.mem ++ numWord (c.st.ctorIdx + flagNum c.trig * 2 ^ 4 + flagNum c.cancel * 2 ^ 5) ++ listed c.unread numWord ++ listed c.lost numWord

/-- An engine request. -/
def Req.image (r : Req) : List Word :=
  [r.kind.ctorIdx, r.uid, r.core, r.lane, r.v, flagNum r.begun].flatMap numWord ++ listed r.args (fun w => [w]) ++ r.dep.image ++ optWord r.mem

/-- A memory operation that has not been performed. -/
def Op.image (o : Op) : List Word :=
  [o.uid, o.core, o.kind.ctorIdx, o.d, o.key, o.entry].flatMap numWord ++ [o.word] ++ maskWords o.lanes ++ o.dep.image ++ optWord o.mem ++
    listed o.units (fun u => [u.lane, u.size, flagNum u.done, u.tgt.ctorIdx].flatMap numWord ++ numWords u.va.toNat ++ wordsOf (u.data ++ u.data2))

/-- A combine buffer of the context (R341). -/
def CrBuf.image (b : CrBuf) : List Word :=
  listed b.cfg (fun w => [w]) ++ [b.next, b.cursor] ++ [b.unexpected, b.overs, b.late, b.logged, flagNum b.faulted].flatMap numWord ++
    listed b.slots (fun s => numWord (s.1 + s.2.st.ctorIdx * 2 ^ 16) ++ [s.2.token] ++ listed s.2.weights (fun w => [w]))

/-- A collective of the context (R328). -/
def Coll.image (k : Coll) : List Word :=
  numWord k.group ++ [k.n] ++ optWord k.copy ++ listed k.sig (fun w => [w]) ++ numWord k.applied ++
    numWord (flagNum k.started + 2 * flagNum k.expSent + 4 * flagNum k.contributed + 8 * flagNum k.goAll) ++
    listed k.sums (fun p => numWord p.1 ++ numWords (p.2 % 2 ^ 64).toNat)

/-- A grid table entry with what is still to be placed of it. -/
def Grid.image (g : Grid) : List Word :=
  [g.id, g.depth, g.prio, g.placed, g.exited, flagNum g.retired, g.die].flatMap numWord ++ listed g.desc.words (fun w => [w])

/-- What a context that was terminated left in the engines joins what the tables hold, for its dump (R402). -/
def State.withGrave (s : State) (ctx : Nat) : State :=
  let g := s.graves.getD ctx {}
  { s with ops := s.ops ++ g.ops, reqs := s.reqs ++ g.reqs, copies := s.copies ++ g.copies, posts := s.posts ++ g.posts,
           chimes := s.chimes ++ g.chimes, txs := s.txs ++ g.txs, grids := s.grids ++ g.grids, colls := s.colls ++ g.colls }

/-- The image of a save of a context (R363): its warps and teams, and per context the allotted tiles, counters and magnitude tables,
matrix posts, copies, requests and operations in flight, chimes, Creel buffers, collectives and grids. -/
def State.saveImage (s0 : State) (ctx : Nat) : List Word :=
  let s := s0.withGrave ctx
  let c := s.ctx ctx
  let own (u : Nat) : Bool := (s.warp u).id.ctx == ctx
  listed (s.warpsOf ctx) (fun kv => numWord kv.1 ++ kv.2.image) ++
    listed (s.teams.filter (fun kv => kv.2.ctx == ctx && !kv.2.retired)) (fun kv => numWord kv.1 ++ kv.2.image) ++
    listed c.tileMask (fun p => numWord p.1 ++ ((List.range 16).filter (fun t => p.2.getLsbD t)).flatMap (fun t =>
      (List.range (2 ^ 14)).map (fun i => s.tiles.getD (tileKey p.1 t i) 0))) ++
    listed c.rcMask (fun p => numWord p.1 ++ (lanesOf p.2).flatMap (fun n => let r := s.rc p.1 n; numWord r.count ++ numWord r.target ++ [r.word])) ++
    listed c.cores (fun k => numWord k ++ listed (s.core k).mag (fun m => numWord m.1 ++ [m.2])) ++
    listed (s.posts.filter (fun kv => kv.2.ctx == ctx)) (fun kv => numWord kv.1 ++ kv.2.image) ++
    listed (s.copies.filter (fun kv => kv.2.ctx == ctx)) (fun kv => numWord kv.1 ++ kv.2.image) ++
    listed (s.reqs.filter (fun kv => kv.2.ctx == ctx)) (fun kv => numWord kv.1 ++ kv.2.image) ++
    listed (s.ops.filter (fun kv => kv.2.ctx == ctx)) (fun kv => numWord kv.1 ++ kv.2.image) ++
    listed (s.chimes.filter (fun kv => kv.2.ctx == ctx)) (fun kv => numWord kv.1 ++ kv.2.image) ++
    listed (s.txs.filter (fun kv => own kv.2.uid)) (fun kv =>
      [kv.1, kv.2.uid, kv.2.port, kv.2.tgt, kv.2.tport].flatMap numWord ++ listed kv.2.lanes numWord) ++
    listed (s.bufs.filter (fun kv => kv.2.ctx == some ctx)) (fun kv => numWord kv.1 ++ kv.2.image) ++
    listed (s.colls.filter (fun k => k.ctx == ctx)) Coll.image ++
    listed (s.grids.filter (fun kv => kv.2.ctx == ctx)) (fun kv => kv.2.image)

end Sys2Proof.Machine
end

