-- ==== Sys2Proof/Machine/Observe.lean ====
section
/-! DEFINITION. Observation: recorded segments, OBSCTL, samples, stops and the debugger, and dumps (R392 to R406). -/

namespace Sys2Proof.Machine

open Sys2Proof

/-! Segments (R403 to R406). -/

/-- Writes words into a context's observation areas, page by page; a page that cannot be written is dropped (R393). -/
def State.obsWrite (s : State) (ctx va : Nat) (l : List Word) : Nat → State
  | 0 => s
  | fuel + 1 =>
    let k := (4096 - va % 4096) / 4
    if l.isEmpty then s
    else
      let s1 := match s.obsPa ctx va .store with
        | some pa => s.wrWords pa (l.take k)
        | none => s.obsDrop ctx
      s1.obsWrite ctx (va + 4 * k) (l.drop k) fuel

/-- The record region's base (R393). -/
def State.recBase (s : State) (ctx : Nat) : Option Nat :=
  match s.hdrWord ctx 24, s.hdrWord ctx 28 with
  | some lo, some hi => some (pair lo hi).toNat
  | _, _ => none

/-- The chunk that a segment fills is written, as much of it as the log words fill (R405; log 26). -/
def State.writeChunk (s : State) (core i : Nat) (g : Seg) : State :=
  let put (s : State) : State := s.modCore core (fun k => { k with segs := setAt k.segs i { g with
    fill := g.fill.drop 16384, written := g.written + 1, waiting := false } })
  match g.chunks[g.written]?, s.recBase g.ctx with
  | some c, some b => put (s.obsWrite g.ctx (b + 65536 * c) (g.fill.take 16384) 17)
  | _, _ => put s

/-- Logs the digest of a segment (R406). -/
def State.logDigest (s : State) (core ctx : Nat) : State :=
  match s.segOn core ctx with
  | none => s
  | some (_, g) =>
    (s.logInput core ctx 8 0 [g.digest.setWidth 32, g.digest.extractLsb' 32 32]).extend core ctx [] (fun g =>
      { g with digest := 0, digestAt := (s.core core).cyc })

/-- The log words of a segment that ends are written chunk by chunk, into new chunks while the record region holds a free one
(R405). -/
def State.writeRest (s : State) (core i : Nat) : Nat → State
  | 0 => s
  | n + 1 =>
    match (s.core core).segs[i]? with
    | none => s
    | some g =>
      if g.fill.isEmpty then s
      else if g.written < g.chunks.length then (s.writeChunk core i g).writeRest core i n
      else if s.chunksOf g.ctx < s.regionChunks g.ctx then
        (s.modCore core (fun k => { k with segs := setAt k.segs i { g with chunks := g.chunks ++ [s.chunksOf g.ctx] } })).writeRest core i n
      else s

/-- Ends the open segment of a context on a core, with its reason (R399, R403, R405): its digest and its open runs are logged,
and its log words are written. -/
def State.endSeg (s : State) (core ctx reason : Nat) : State :=
  let s1 := (s.logDigest core ctx).extend core ctx [] Seg.flush
  match s1.segOn core ctx with
  | none => s
  | some (i, g) =>
    ((s1.modCore core (fun k => { k with segs := setAt k.segs i { g with opened := false } })).writeRest core i
      (2 * (g.fill.length / 16384 + 1))).trace ctx 9 core 0 0 0 reason (s1.core core).cyc

/-- Ends every segment of a context. -/
def State.endSegs (s : State) (ctx : Nat) : State := s.cores.keys.foldl (fun s c => s.endSeg c ctx 0) s

/-- A team that comes to a recording core joins its segment (R403). -/
def State.segTeam (s : State) (core t : Nat) (g : Seg) : Seg :=
  let x := s.team t
  { g with teams := g.teams ++ [{ clk := (s.core core).cyc, id := t, team := x, warps := x.warps.map (fun u => (u, s.warp u)),
                                  members := s.members.filter (fun kv => x.warps.contains kv.2.uid), grid := s.grid x.ctx x.grid }] }

/-- A team has come to a core of a context in record mode: the first one opens a segment, in the state as placed or
restored (R403), which takes its first chunk, or ends at the next clock when the region holds none (R405). -/
def State.openSeg (s : State) (t core : Nat) : State :=
  let ctx := (s.team t).ctx
  if !(s.ctx ctx).obsctl.getLsbD 31 then s
  else
    match s.segOn core ctx with
    | some (i, g) => s.modCore core (fun k => { k with segs := setAt k.segs i (s.segTeam core t g) })
    | none =>
      let first := s.teams.all (fun kv => kv.1 == t || !(kv.2.ctx == ctx && kv.2.core == some core && !kv.2.retired))
      if !first then s
      else
        let room := decide (s.chunksOf ctx < s.regionChunks ctx)
        let k := s.core core
        let g : Seg := { ctx := ctx, start := k.cyc, digestAt := k.cyc, mag := k.mag, lq := k.lq,
                         chunks := if room then [s.chunksOf ctx] else [], fullAt := if room then none else some (k.cyc + 1) }
        let s1 := s.modCore core (fun k => { k with segs := k.segs ++ [s.segTeam core t g] })
        if room then s1.post (.digestLog core) else s1.post (.recordRegionFull core)

/-- Whether a core is held by a chunk write of its record log (R405). -/
def State.logHeld (s : State) (core : Nat) : Bool := (s.core core).segs.any (fun g => g.opened && g.waiting)

/-- CHUNK_WRITE (R405): a full chunk is written, and the core goes on. -/
def execChunkWrite (core : Nat) (s : State) : Host.Outcome State Fault Refusal :=
  ran ((s.core core).segs.zipIdx.foldl (fun s p =>
    if p.1.opened && p.1.waiting then s.writeChunk core p.2 p.1 else s) s)

/-- When a segment of a core ends for want of a chunk (R405). -/
def State.fullDue (s : State) (core : Nat) : Option Nat :=
  match ((s.core core).segs.filter (fun g => g.opened)).filterMap (fun g => g.fullAt) with
  | [] => none
  | a :: t => some (t.foldl min a)

/-- RECORD_REGION_FULL (R405): segments that found no free chunk end at the next clock, with reason 1. -/
def execRecordRegionFull (core : Nat) (s : State) : Host.Outcome State Fault Refusal :=
  match s.fullDue core with
  | none => ran s
  | some due =>
    let s1 := s.reachCore core due
    ran (((s1.core core).segs.filter (fun g => g.opened && (match g.fullAt with
      | some t => decide (t ≤ (s1.core core).cyc)
      | none => false))).foldl (fun s g => s.endSeg core g.ctx 1) s1)

/-- When the next digest of a core falls due (R406). -/
def State.digestDue (s : State) (core : Nat) : Option Nat :=
  match ((s.core core).segs.filter (fun g => g.opened)).map (fun g => g.digestAt + 4096) with
  | [] => none
  | a :: t => some (t.foldl min a)

/-- DIGEST_LOG (R406). -/
def execDigestLog (core : Nat) (s : State) : Host.Outcome State Fault Refusal :=
  match s.digestDue core with
  | none => ran s
  | some due =>
    let s1 := s.reachCore core due
    let now := (s1.core core).cyc
    let ctxs := ((s1.core core).segs.filter (fun g => g.opened && decide (g.digestAt + 4096 ≤ now))).map (fun g => g.ctx)
    ran ((ctxs.foldl (fun s x => s.logDigest core x) s1).post (.digestLog core))

/-! OBSCTL and samples (R392, R398). -/

/-- Cores that hold a warp of a context. -/
def State.coresOf (s : State) (ctx : Nat) : List Nat :=
  ((s.warps.filter (fun kv => kv.2.id.ctx == ctx && kv.2.id.place.isSome && !kv.2.retired)).map (fun kv => kv.2.core)).eraseDups

/-- Sets the samples of a context on a core going, when it samples. -/
def State.startSampling (s : State) (ctx core : Nat) : State :=
  let o := (s.ctx ctx).obsctl
  if o.getLsbD 30 && o.toNat % 2 ^ 24 != 0 && !s.bag.contains (.pcSample core ctx) then
    (s.modCore core (fun k => { k with sampleAt := k.sampleAt.set ctx k.cyc })).post (.pcSample core ctx)
  else s

/-- Whether a requester speaks for a world: system software for its own, the secure world's within an SPDM session, and
management firmware for both (R392, R418; log 66). -/
def State.speaks (s : State) (who : Requester) (secure : Bool) : Bool :=
  match who with
  | .software b => b == secure && (!b || s.svc.session)
  | .firmware => true

/-- Whether a requester manages a context: it exists and is of a world that the requester speaks for (R392). -/
def State.manages (s : State) (who : Requester) (ctx : Nat) : Bool := (s.ctxs.get? ctx).isSome && s.speaks who (s.ctx ctx).d.secure

/-- OBSCTL_WRITE (R392): a value with bits 26:24 set is ignored, and so is a write from the other world; clearing REC ends the
context's segments (R403). -/
def execObsctlWrite (asked : Asked Nat) (v : Word) (s : State) : Host.Outcome State Fault Refusal :=
  let ctx := asked.what
  if !s.manages asked.who ctx || bits v.toNat 26 24 != 0 then ran s
  else
    let s1 := s.modCtx ctx (fun c => { c with obsctl := v })
    let s2 := if (s.ctx ctx).obsctl.getLsbD 31 && !v.getLsbD 31 then s1.endSegs ctx else s1
    ran ((s2.coresOf ctx).foldl (fun s c => s.startSampling ctx c) s2)

/-- When a context's next sample on a core falls due (R398). -/
def State.sampleDue (s : State) (core ctx : Nat) : Option Nat :=
  let o := (s.ctx ctx).obsctl
  if o.getLsbD 30 && o.toNat % 2 ^ 24 != 0 && (s.coresOf ctx).contains core then
    some ((s.core core).sampleAt.getD ctx 0 + 64 * (o.toNat % 2 ^ 24))
  else none

/-- The warps of a context on a core, by ascending slot. -/
def State.slotsOf (s : State) (core ctx : Nat) : List (Nat × Warp) :=
  (List.range 64).filterMap (fun k => s.warps.find? (fun kv =>
    kv.2.id.place == some (core * 64 + k) && kv.2.id.ctx == ctx && !kv.2.retired))

/-- A warp's name in a record: the lowest lane of its head entry, or lane 0 (R397). -/
def Warp.nameLane (w : Warp) : Nat := (w.group.map (fun g => lowest g.mask)).getD 0

/-- PC_SAMPLE (R398): it tells of the core clock on which it fell due, once that clock has passed, and the next period begins
there. -/
def execPcSample (core ctx : Nat) (s : State) : Host.Outcome State Fault Refusal :=
  match s.sampleDue core ctx with
  | none => ran s
  | some due =>
    let s1 := s.reachCore core (due + 1)
    let l := s1.slotsOf core ctx
    let next := match (s1.core core).sampleSlot.get? ctx with
      | some k => match l.find? (fun (q : Nat × Warp) => decide (k < q.2.slot)) with | some p => some p | none => l.head?
      | none => l.head?
    match next with
    | none => ran s1
    | some (_, w) =>
      let n (x : Nat) : Word := BitVec.ofNat 32 x
      let pc := w.iss.seen.2.1.toNat
      let s2 := s1.ring ctx 0 0 56 [n w.id.grid, n (s1.teamIndex w), n (w.thread w.iss.seen.2.2),
        n (core + w.slot * 2 ^ 9 + w.iss.seen.1 * 2 ^ 15), n pc, n (pc / 2 ^ 32), n due, n (due / 2 ^ 32)]
      ran ((s2.modCore core (fun k => { k with sampleAt := k.sampleAt.set ctx due, sampleSlot := k.sampleSlot.set ctx w.slot })).post
        (.pcSample core ctx))

/-! The debugger (R400 to R402). -/

/-- The lowest thread of an entry that a breakpoint names. -/
def State.bpLane (s : State) (w : Warp) (g : Group) (b : Bp) : Option Nat :=
  if !b.pc.getLsbD 0 || b.pc &&& ~~~1 != g.pc then none
  else if b.grid != 0xFFFFFFFF && b.grid.toNat != w.id.grid then none
  else
    (lanesOf g.mask).find? (fun l => b.filter == 0xFFFFFFFF ||
      (bits b.filter.toNat 31 16 == s.teamIndex w && bits b.filter.toNat 15 0 == w.thread l))

/-- The lane at which a warp's head entry matches a breakpoint of its context, unless it has just stopped there. -/
def State.bpMatch (s : State) (w : Warp) : Option Nat :=
  match w.iss.grp, w.group with
  | none, some g => if w.iss.skipBp then none else lowestOf ((s.ctx w.id.ctx).bps.map (s.bpLane w g))
  | _, _ => none

/-- BREAKPOINT_STOP (R401). -/
def execBreakpointStop (uid : Nat) (s : State) : Host.Outcome State Fault Refusal :=
  match s.warps.get? uid with
  | none => ran s
  | some w =>
    match s.bpMatch w with
    | some l => ran (s.preciseStop uid l)
    | none => ran s

/-- DEBUG_STOP (R400, R401): the context's warps halt at group boundaries. -/
def execDebugStop (ctx : Nat) (s : State) : Host.Outcome State Fault Refusal :=
  if (s.ctx ctx).held then ran ((s.modCtx ctx (fun c => { c with stopped := true, stopOn := none, step := none })).pauseWatch ctx) else ran s

/-- DEBUG_RESUME (R400). -/
def execDebugResume (ctx : Nat) (s : State) : Host.Outcome State Fault Refusal :=
  if (s.ctx ctx).held then ran ((s.modCtx ctx (fun c => { c with stopped := false, stopOn := none, step := none })).resumeWatch ctx) else ran s

/-- DEBUG_SINGLE_STEP (R401): the named thread's warp, and no other, may issue one group. -/
def execDebugSingleStep (ctx grid team thread : Nat) (s : State) : Host.Outcome State Fault Refusal :=
  let c := s.ctx ctx
  let hit := s.warps.find? (fun kv => kv.2.id.ctx == ctx && kv.2.id.grid == grid && s.teamIndex kv.2 == team &&
    kv.2.id.w == thread / kv.2.width && kv.2.id.place.isSome && !kv.2.retired)
  match hit with
  | some (u, w) =>
    if c.held && c.stopped then ran (s.modCtx ctx (fun c => { c with step := some (u, thread % w.width) })) else ran s
  | none => ran s

/-- SET_BREAKPOINT (R400). -/
def execSetBreakpoint (ctx n : Nat) (pc : Addr) (grid filter : Word) (s : State) : Host.Outcome State Fault Refusal :=
  if (s.ctx ctx).held && decide (n < 4) then
    ran (s.modCtx ctx (fun c => { c with bps := setAt c.bps n { pc := pc, grid := grid, filter := filter } }))
  else ran s

/-- DEBUGGER_HOLD (R400): a debugger takes hold of a context, or lets it go. -/
def execDebuggerHold (ctx : Nat) (take : Bool) (s : State) : Host.Outcome State Fault Refusal :=
  ran (s.modCtx ctx (fun c => { c with held := take }))

/-- The name map of a dump: four words for each warp (R402). -/
def State.nameMap (s : State) (ctx : Nat) : List Word :=
  (s.warps.filter (fun kv => kv.2.id.ctx == ctx && !kv.2.retired)).flatMap (fun kv =>
    let n (x : Nat) : Word := BitVec.ofNat 32 x
    [n (kv.2.core + kv.2.slot * 2 ^ 9), n kv.2.id.grid, n (s.teamIndex kv.2), n (kv.2.thread 0)])

/-- DUMP (R402): a save's image, and the name map after it. A terminated context then gives up its resources. -/
def execDump (ctx region : Nat) (s : State) : Host.Outcome State Fault Refusal :=
  let c := s.ctx ctx
  if (s.ctxs.get? ctx).isNone || !(c.stopped || (c.terminated && c.obsctl.getLsbD 27)) then ran s
  else
    let s1 := (s.wrWords region (s.saveImage ctx ++ s.nameMap ctx)).modCtx ctx (fun c => { c with dumpTo := some region })
    ran (if c.terminated then s1.giveUp ctx else s1)

end Sys2Proof.Machine
end

