-- ==== Sys2Proof/Machine/Retire.lean ====
section
/-! DEFINITION. Retirement: of a warp (R71, R233), of a team with its record (R396), and of a grid with its completion word
(R357, R358). -/

namespace Sys2Proof.Machine

open Sys2Proof

/-! Completion words (R18, R358). -/

/-- The page request of a completion word (R201, R358). -/
def wordWalk (key ctx : Nat) (a : Addr) : WalkReq :=
  { who := .grid key, core := noCore, ctx := ctx, uid := 0, va := a, kind := 1, lanes := 0, page := a.toNat / 4096 }

/-- Writes a word at a translated address; none when nothing there can take it. -/
def State.putWord (s : State) (ctx die grid : Nat) (a : Addr) (e : BitVec 64) (pa : Nat) (v : Word) : Option State :=
  if leafTarget e = 1 then some (s.hostWr pa (bytesOf v))
  else if leafTarget e = 2 && leafDevice e != s.fab.device then
    s.request ctx (leafDevice e) [.word ctx die grid a] pa true ((bytesOf v).zipIdx.map (fun p => (p.2, p.1))) 4
  else
    match s.localLane ctx pa 4 false with
    | .ok (.dev a) => some (s.homeWrite a (bytesOf v))
    | .ok (.win a) => some (s.winWrite none a (bytesOf v))
    | .ok (.near t o) => some (s.nearWrite t o (bytesOf v))
    | _ => none

/-- Writes a completion word with the launching context's translation and a store's permission; none while its page is
waited for. Any other failure drops the word and leaves a fault record (R358). -/
def State.complete (s : State) (ctx die grid : Nat) (a : Addr) (v : Word) : Option State :=
  let drop : State := s.dropWord ctx die grid a
  if a.toNat % 4 != 0 then some drop
  else
    match s.reach noCore ctx 6 die a .store with
    | .replay => none
    | .ok e pa => some ((s.putWord ctx die grid a e pa v).getD drop)
    | _ => some drop

/-- The completion address of a descriptor (R354). -/
def Launch.completion (l : Launch) : Addr := pair (nth l.words 11 0) (nth l.words 12 0)

/-! Grids (R357, R358). -/

/-- Whether every operation of a grid's warps has been performed, its waits for grids apart (R358). -/
def State.gridIdle (s : State) (ctx g : Nat) : Bool :=
  let own (u : Nat) : Bool := (s.warp u).id.ctx == ctx && (s.warp u).id.grid == g
  s.ops.all (fun kv => !own kv.2.uid) && s.copies.all (fun kv => !own kv.2.uid) && s.posts.all (fun kv => !own kv.2.uid) &&
  s.txs.all (fun kv => !own kv.2.uid) && s.chimes.all (fun kv => !own kv.2.uid) &&
  s.reqs.all (fun kv => !own kv.2.uid || kv.2.kind == .gWait)

/-- Number of teams of a grid. -/
def Grid.teams (g : Grid) : Nat := g.gx * g.gy * g.gz

/-- Whether a grid may retire (R358). -/
def State.gridDone (s : State) (ctx g : Nat) : Bool :=
  let x := s.grid ctx g
  x.exited == x.teams && s.gridIdle ctx g &&
  s.grids.all (fun kv => !(kv.2.ctx == ctx && kv.2.desc.parent == some g && !kv.2.retired))

/-- Frees a grid's entry with what the model kept of its teams and warps; a parent's retirement frees its children's
(R357). -/
def State.freeGrid (s : State) (ctx g : Nat) : State :=
  let own (w : Warp) : Bool := w.id.ctx == ctx && w.id.grid == g
  { s with
    grids := s.grids.erase (gridKey ctx g)
    warps := s.warps.keep (fun _ w => !own w)
    teams := s.teams.keep (fun _ t => !(t.ctx == ctx && t.grid == g))
    reqs := s.reqs.keep (fun _ r => !own (s.warp r.uid))
    members := s.members.keep (fun _ m => !own (s.warp m.uid)) }

/-- A grid retires: its trace record, the waits for it, and the entries it held (R357, R358, R379, R399). -/
def State.retireGrid (s : State) (ctx g : Nat) : State :=
  let x := s.grid ctx g
  let s1 := { s with grids := s.grids.set (gridKey ctx g) { x with retired := true } }.trace ctx 4 0 g 0 0 0 (s.die x.die).mesh
  let waits := (s1.reqs.filter (fun kv => kv.2.kind == .gWait && kv.2.begun && kv.2.ctx == ctx &&
    kv.2.args == [BitVec.ofNat 32 g])).map Prod.fst
  let s2 := waits.foldl (fun s i => s.endReq i (statusWord true false 0 g)) s1
  let kids := (s2.grids.filter (fun kv => kv.2.ctx == ctx && kv.2.desc.parent == some g)).map (fun kv => kv.2.id)
  let s3 := kids.foldl (fun s k => s.freeGrid ctx k) s2
  match x.desc.parent with
  | some p => s3.post (.gridRetire ctx p)
  | none => s3.freeGrid ctx g

/-- GRID_RETIRE (R358). The number of a refused grid's completion word lies above every grid id. -/
def execGridRetire (ctx g : Nat) (s : State) : Host.Outcome State Fault Refusal :=
  if 2 ^ 24 ≤ g then
    match s.words.get? g with
    | none => ran s
    | some w =>
      let out : State := { s with words := s.words.erase g }
      if (s.ctxs.get? ctx).isNone || (s.ctx ctx).terminated then ran out
      else
        match out.complete ctx w.die 0 w.addr w.word with
        | some t => ran t
        | none => ran ((s.await (wordWalk g ctx w.addr)).post (.gridRetire ctx g))
  else
    match s.grids.get? (gridKey ctx g) with
    | none => ran s
    | some x =>
      if x.retired then ran s
      else if x.exited != x.teams then ran s
      else if !s.gridDone ctx g then ran (s.post (.gridRetire ctx g))
      else if x.desc.completion = 0 then ran (s.retireGrid ctx g)
      else
        match s.complete ctx x.die g x.desc.completion (statusWord true false 0 g) with
        | some t => ran (t.retireGrid ctx g)
        | none => ran ((s.await (wordWalk (gridKey ctx g) ctx x.desc.completion)).post (.gridRetire ctx g))

/-! Teams (R71, R396). -/

/-- The words of a team record (R396). -/
def State.teamRecord (s : State) (t : Team) (core : Nat) : List Word :=
  let n (x : Nat) : Word := BitVec.ofNat 32 x
  let two (x : Nat) : List Word := [n x, n (x / 2 ^ 32)]
  [n t.grid, n t.index, n (core + t.warps.length * 2 ^ 9 + min 65535 t.restores * 2 ^ 16), 0] ++ two t.groups ++
    two (s.core core).cyc ++ t.counters.flatMap two

/-- A team exits: its record, its trace record, and the end of its core's segment (R396, R399, R403). -/
def State.exitTeam (s : State) (t core : Nat) : State :=
  let x := s.team t
  let q := ((s.hdrWord x.ctx 52).getD 0).toNat
  let s1 := if (s.ctx x.ctx).obsctl.getLsbD 28 then s.ring x.ctx 16 16 52 (s.teamRecord x core) else s
  let s2 := ((s1.trace x.ctx 3 core x.grid x.index 0 q (s.core core).cyc).modTeam t (fun y => { y with retired := true })).modQuad
    (quadOf core) (fun k => { k with opCache := k.opCache.filter (fun e => (e.tag[1]?).getD 0 != t) })
  let g := s2.grid x.ctx x.grid
  let s3 := { s2 with grids := s2.grids.modify (gridKey x.ctx x.grid) (fun _ => { g with exited := g.exited + 1 }) }
  let last := s3.teams.all (fun kv => !(kv.2.ctx == x.ctx && kv.2.core == some core && !kv.2.retired))
  (if last then s3.endSeg core x.ctx 0 else s3).post (.gridRetire x.ctx x.grid)

/-! Warps (R71, R233, R239). -/

/-- Ports of the grid's warps that name a retiring warp become ORPHANED (R233). -/
def State.orphanAll (s : State) (uid : Nat) : State :=
  let w := s.warp uid
  let names (x : Port) : Bool := x.target == s.portName w && (x.st == .waiting || x.st == .connected)
  let l := s.warps.flatMap (fun kv =>
    if kv.1 != uid && kv.2.id.ctx == w.id.ctx && kv.2.id.grid == w.id.grid && kv.2.id.weave.isSome then
      (kv.2.ports.zipIdx.filter (fun p => names p.1)).map (fun p => (kv.1, p.2))
    else [])
  l.foldl (fun s q => s.orphan q.1 q.2 true) s

/-- WARP_RETIRE (R71). -/
def execWarpRetire (uid : Nat) (s : State) : Host.Outcome State Fault Refusal :=
  match s.warps.get? uid with
  | none => ran s
  | some w =>
    if w.retired || w.live != 0 then ran s
    else if w.id.place.isNone || (s.exitWait uid).isSome then ran (s.post (.warpRetire uid))
    else
      let s0 := if w.iss.seen.1 = 16 then s else s.wake uid (Stall.ofIdx w.iss.seen.1)
      let s1 := (List.range 8).foldl (fun s p => s.dropQueue uid p) (s0.orphanAll uid)
      let s2 := s1.modWarp uid (fun w => { w with
        retired := true, ports := [{}, {}, {}, {}, {}, {}, {}, {}], links := [{}, {}, {}, {}] })
      let s3 := s2.modTeam w.id.team (fun t => { t with
        exited := addNew t.exited [w.id.w]
        groups := t.groups + w.iss.groups
        counters := (t.counters.zip w.iss.counters).map (fun p => (p.1 + p.2) % 2 ^ 64) })
      if (s3.team w.id.team).warps.all (fun u => (s3.warp u).retired) then ran (s3.exitTeam w.id.team w.core) else ran s3

end Sys2Proof.Machine
end

