-- ==== Sys2Proof/Machine/Creel.lean ====
section
/-! DEFINITION. The Creel: buffers and their records (R329 to R331), arrivals (R332 to R335), deadlines (R336), release
(R337 to R340), and the Creel instructions (R343 to R349). -/

namespace Sys2Proof.Machine

open Sys2Proof

/-! The configuration record (R330, R331). -/

/-- A word of a buffer's record. -/
def cw (l : List Word) (i : Nat) : Nat := (nth l i 0).toNat

/-- A 64-bit field of a record. -/
def cw64 (l : List Word) (i : Nat) : Nat := cw l i + 2 ^ 32 * cw l (i + 1)

def crNslots (l : List Word) : Nat := bits (cw l 0) 16 0
def crTopk (l : List Word) : Nat := bits (cw l 1) 3 0
def crInfmt (l : List Word) : Nat := bits (cw l 1) 7 4
def crOutfmt (l : List Word) : Nat := bits (cw l 1) 11 8
def crPolicy (l : List Word) : Nat := bits (cw l 1) 13 12
def crOrder (l : List Word) : Bool := bitAt (cw l 1) 14
def crBacking (l : List Word) : Bool := bitAt (cw l 1) 15
def crNexp (l : List Word) : Nat := bits (cw l 1) 23 16
def crH (l : List Word) : Nat := bits (cw l 2) 14 0
def crRrlog (l : List Word) : Nat := bits (cw l 7) 4 0
def crLoglog (l : List Word) : Nat := bits (cw l 7) 12 8
def crQuiet (l : List Word) : Nat := bits (cw l 7) 31 16 * 1024
def crBacksize (l : List Word) : Nat := cw l 14 * 0x10000

/-- Bytes of an element of an entry and of a row. -/
def crIn (l : List Word) : Nat := if crInfmt l = 8 then 4 else 2
def crOut (l : List Word) : Nat := if crOutfmt l = 8 then 4 else 2

/-- Bytes of an entry: H × in. -/
def crEntry (l : List Word) : Nat := crH l * crIn l

/-- Whether a record is malformed (R331). -/
def crMalformed (l : List Word) : Bool :=
  bits (cw l 0) 31 17 != 0 || bits (cw l 1) 31 24 != 0 || bits (cw l 2) 31 15 != 0 || bits (cw l 7) 7 5 != 0 ||
  bits (cw l 7) 15 13 != 0 || cw l 15 != 0 ||
  crNslots l == 0 || decide (65536 < crNslots l) || crTopk l == 0 || decide (8 < crTopk l) ||
  (crInfmt l != 8 && crInfmt l != 10) || !([8, 9, 10].contains (crOutfmt l)) || crPolicy l == 3 || crNexp l == 0 ||
  crH l % 64 != 0 || crH l == 0 || decide (16384 < crH l) || decide (crRrlog l < 4) || decide (16 < crRrlog l) ||
  decide (crLoglog l < 4) || decide (16 < crLoglog l) ||
  decide (cw l 6 < crH l * crOut l) || cw64 l 4 % crOut l != 0 || cw l 6 % crOut l != 0 ||
  cw64 l 8 % 16 != 0 || cw64 l 12 % 0x10000 != 0 || (crPolicy l == 2 && (cw64 l 10 == 0 || cw64 l 10 % 4 != 0)) ||
  decide (crBacksize l < crNslots l * (64 + crTopk l * crEntry l))

/-! Buffers and slots (R329, R333). -/

/-- A buffer of the device: die × 8 + buffer. -/
def State.buf (s : State) (b : Nat) : CrBuf := s.bufs.getD b {}

/-- The state with a buffer replaced. -/
def State.putBuf (s : State) (b : Nat) (x : CrBuf) : State := { s with bufs := s.bufs.set b x }

/-- The mesh clock of a buffer's Creel. -/
def State.creelClock (s : State) (b : Nat) : Nat := (s.die (b / 8)).mesh

/-- A slot of a buffer. -/
def CrBuf.slot (b : CrBuf) (n : Nat) : CrSlot := b.slots.getD n {}

/-- The buffer with a slot replaced. -/
def CrBuf.putSlot (b : CrBuf) (n : Nat) (x : CrSlot) : CrBuf := { b with slots := b.slots.set n x }

/-- A mask of positions. -/
def posMask (l : List Nat) : BitVec 8 := l.foldl (fun m p => m ||| (1#8 <<< p)) 0

/-- The expected positions of a gated slot (R333). -/
def CrBuf.expected (b : CrBuf) (x : CrSlot) : BitVec 8 :=
  posMask ((List.range (crTopk b.cfg)).filter (fun p => nth x.experts p 0xFF != 0xFF))

/-- Whether a slot is FREE. -/
def CrBuf.isFree (b : CrBuf) (n : Nat) : Bool := (b.slot n).st == .free

/-- The order frontier (R333): the order number of the oldest slot that holds one, or the next to be assigned. -/
def CrBuf.frontier (b : CrBuf) : BitVec 32 :=
  b.slots.foldl (fun f kv => match kv.2.order with
    | some o => if (b.next - f).toNat < (b.next - o).toNat then o else f
    | none => f) b.next

/-- Whether an order number may be assigned: not the one before the frontier. -/
def CrBuf.mayAssign (b : CrBuf) : Bool := b.next + 1 != b.frontier

/-- Where a warp's lane stands, for a later record (R340). -/
def State.standing (s : State) (uid lane : Nat) : List Nat :=
  let w := s.warp uid
  [w.id.grid, s.teamIndex w, w.thread lane, w.core, w.slot]

/-- A CREEL_FAULT record (R340). -/
def State.creelFault (s : State) (b : Nat) (who : List Nat) (ctx reason expert slot addr : Nat) : State :=
  (s.record ctx { cause := 0x12, engine := 7, inst := b, grid := nth who 0 0, team := nth who 1 0, thread := nth who 2 0,
                  core := nth who 3 0, slot := nth who 4 0, addr := addr, cycles := s.creelClock b,
                  detail := reason + expert * 2 ^ 8 + slot % 65536 * 2 ^ 16 }).1

/-- Ends a request on a buffer with a status word; a spoiled buffer gives a free one (R331). -/
def State.endCr (s : State) (b id : Nat) (v : Word) : State :=
  s.endReq id (if (s.buf b).spoiled then BitVec.ofNat 32 (Config.pick s.tick (80000000 + id)) else v)

/-- The CRWAITs that wait on a buffer and pass a test of their count end with a status word. -/
def State.endCrWaits (s : State) (b : Nat) (p : Word → Bool) (v : Word) : State :=
  let ids := (s.reqs.filter (fun kv => kv.2.kind == .crWait && kv.2.begun && (nth kv.2.args 0 0).toNat == b &&
    p (nth kv.2.args 1 0))).map Prod.fst
  ids.foldl (fun s i => s.endCr b i v) s

/-- A buffer becomes faulted (R340). -/
def State.faultBuf (s : State) (b : Nat) (who : List Nat) (reason expert slot addr : Nat) : State :=
  let x := s.buf b
  let s1 := s.creelFault b who (x.ctx.getD 0) reason expert slot addr
  (s1.putBuf b { x with faulted := true, rel := none }).endCrWaits b (fun _ => true) (statusWord true true 0x12 x.cursor.toNat)

/-! Writing virtual memory of a buffer's context. -/

/-- What a Creel access comes to. -/
inductive CrMem (α : Type) where
  | ok (x : α)
  | page (va : Nat)
  | wait (s : State)
  | bad (va : Nat)

/-- The pieces of a span within 128-byte lines, modulo 2^64. -/
def crPieces (va n : Nat) : List (Nat × Nat) :=
  (List.range ((va % 128 + n + 127) / 128)).map (fun i =>
    let lo := if i = 0 then va % 128 else 0
    let hi := min 128 (va % 128 + n - 128 * i)
    ((va / 128 * 128 + 128 * i + lo) % 2 ^ 64, hi - lo))

/-- The target of a Creel's access. -/
def State.creelLane (s : State) (b : Nat) (va n : Nat) (a : Access) : LaneR :=
  s.globalLane noCore ((s.buf b).ctx.getD 0) 5 b (BitVec.ofNat 64 va) a n

/-- Whether a target can take a Creel's write. -/
def State.creelTakes (s : State) (ctx : Nat) : Target → Bool
  | .dev _ => true
  | .sys _ => true
  | .net d _ => (s.channelTo ctx d).isSome
  | .win _ => true
  | .near t _ => !(s.team t).retired
  | _ => false

/-- The targets of a write, all of them before any byte is written. -/
def State.creelPlan (s : State) (b : Nat) : List (Nat × Nat) → CrMem (List Target)
  | [] => .ok []
  | p :: t =>
    match s.creelLane b p.1 p.2 .store with
    | .replay => .page p.1
    | .ok x =>
      if s.creelTakes ((s.buf b).ctx.getD 0) x then
        match s.creelPlan b t with
        | .ok l => .ok (x :: l)
        | r => r
      else .bad p.1
    | _ => .bad p.1

/-- Writes bytes at a target; `own` is what the answer of another device belongs to. -/
def State.creelPut (s : State) (ctx : Nat) (own : SentFor) (t : Target) (l : List Byte) : State :=
  match t with
  | .dev pa => s.homeWrite pa l
  | .sys pa => s.hostWr pa l
  | .net d pa => (s.request ctx d [own] pa true (l.zipIdx.map (fun p => (p.2, p.1))) l.length).getD s
  | .win pa => s.winWrite none pa l
  | .near k o => s.nearWrite k o l
  | _ => s

/-- Writes bytes piece by piece at targets. -/
def State.creelPutAll (s : State) (ctx : Nat) (own : Nat → SentFor) : List (Nat × Nat) → List Target → List Byte → State
  | p :: ps, t :: ts, l => (s.creelPut ctx (own p.1) t (l.take p.2)).creelPutAll ctx own ps ts (l.drop p.2)
  | _, _, _ => s

/-- A write of bytes at a virtual address for a release, or 0 for none, and a slot: the state, and how many answers of other
devices it waits for. What a spoiled buffer writes has free values (R331). -/
def State.creelWrite (s : State) (b rel slot va : Nat) (l : List Byte) : CrMem (State × Nat) :=
  let ps := crPieces va l.length
  let out := if (s.buf b).spoiled then l.zipIdx.map (fun p => BitVec.ofNat 8 (Config.pick s.tick (60000000 + va + p.2))) else l
  match s.creelPlan b ps with
  | .ok ts =>
    let far := ts.filter (fun t => match t with | .net _ _ => true | _ => false)
    .ok (s.creelPutAll ((s.buf b).ctx.getD 0) (fun a => .creel b rel slot a) ps ts out, far.length)
  | .page a => .page a
  | .wait t => .wait t
  | .bad a => .bad a

/-- A DEV-scope read of bytes at a virtual address (R337). -/
def State.creelRead (s : State) (b : Nat) : List (Nat × Nat) → CrMem (List Byte)
  | [] => .ok []
  | p :: t =>
    let here : CrMem (List Byte) := match s.creelLane b p.1 p.2 .load with
      | .replay => .page p.1
      | .ok (.dev pa) => .ok (s.peek pa p.2)
      | .ok (.sys pa) => .ok (s.hostRd pa p.2)
      | .ok (.net d pa) =>
        (match s.farRead (.creel b) ((s.buf b).ctx.getD 0) d p.1 pa p.2 with
          | .ok l => .ok l
          | .wait q => .wait q
          | .refused => .bad p.1)
      | .ok (.win pa) => .ok (s.winRead pa p.2)
      | .ok (.near k o) => .ok (s.nearRead k o p.2)
      | .ok (.creel _) => .ok (List.replicate p.2 0)
      | .ok (.guard _ _) => .ok (List.replicate p.2 0)
      | _ => .bad p.1
    match here with
    | .ok l =>
      (match s.creelRead b t with
        | .ok r => .ok (l ++ r)
        | r => r)
    | r => r

/-- The homes that a read of spans is served at count it (R382). -/
def State.creelReads (s : State) (b : Nat) (l : List (Nat × Nat)) : State :=
  l.foldl (fun t p =>
    match s.creelLane b p.1 p.2 .load with
    | .ok (.dev pa) => (t.homeRead (b / 8) pa p.2).2
    | _ => t) s

/-- The page request of a Creel (R201, R340). -/
def creelWalk (b ctx uid lane va : Nat) (kind : BitVec 2) : WalkReq :=
  { who := .creel b, core := noCore, ctx := ctx, uid := uid, va := BitVec.ofNat 64 va, kind := kind, lanes := laneBit lane,
    page := va / 4096 }

/-! Arrivals (R332 to R335). -/

/-- What an arrival's bytes at one entry do (R333, R334): the buffer after, and the kind and number of bytes dropped. `pick`
decides whether a byte written twice takes the new value. -/
def CrBuf.land (b : CrBuf) (now : Nat) (pick : Nat → Bool) (n p : Nat) (l : List (Nat × Byte)) : CrBuf × Option (Nat × Nat) :=
  let x := b.slot n
  let all (k : Nat) : CrBuf × Option (Nat × Nat) := (b, some (k, l.length))
  let live : CrBuf × Option (Nat × Nat) :=
    if x.subst.getLsbD p && x.st == .due then all 4
    else if !(b.expected x).getLsbD p then all 1
    else if x.arrived.getLsbD p then all 3
    else
      let lim := crEntry b.cfg
      let ok := l.filter (fun q => decide (q.1 < lim))
      let data := ok.foldl (fun m q =>
        let k := p * 0x10000 + q.1
        if (m.get? k).isSome && !pick k then m else m.set k q.2) x.data
      let cnt := nth x.counts p 0 + ok.length
      let arrived := if lim ≤ cnt then x.arrived ||| (1#8 <<< p) else x.arrived
      let y := { x with data := data, counts := setAt x.counts p cnt, arrived := arrived }
      let z := if arrived == b.expected x && x.st == .gated then { y with st := .due, start := now, dropped := [] } else y
      (b.putSlot n z, if ok.length = l.length then none else some (3, l.length - ok.length))
  if crNslots b.cfg ≤ n then all 2
  else
    match x.st with
    | .free => all 2
    | .allocated => all 2
    | .quiet => all 4
    | .kept => all 4
    | .gated => live
    | .due => live

/-- Saturating addition to a counter. -/
def sat32 (a n : Nat) : Nat := min 0xFFFFFFFF (a + n)

/-- Counts dropped bytes (R335). -/
def CrBuf.drop (b : CrBuf) (kind n : Nat) : CrBuf :=
  if kind = 3 then { b with overs := sat32 b.overs n }
  else if kind = 4 then { b with late := sat32 b.late n }
  else { b with unexpected := sat32 b.unexpected n }

/-- Whether the log holds an entry for a slot, position and kind since the slot last changed state (R335). -/
def CrBuf.logs (b : CrBuf) (n p kind : Nat) : Bool :=
  (b.slot n).dropped.any (fun d => d.1 == p * 8 + kind && decide (b.logged ≤ d.2 + 2 ^ crLoglog b.cfg))

/-- The words of a log entry (R335). -/
def CrBuf.entry (b : CrBuf) (n p kind : Nat) : List Word :=
  let x := b.slot n
  let w (k : Nat) : Word := BitVec.ofNat 32 k
  let gone := x.st == .free || decide (crNslots b.cfg ≤ n)
  let expert := if gone || x.st == .allocated then 0xFF else (nth x.experts p 0xFF).toNat
  [w (kind + p * 2 ^ 8 + expert * 2 ^ 16), if gone then 0xFFFFFFFF else x.token, w n, w b.logged]

/-- Where log entry q stands. -/
def CrBuf.logAddr (b : CrBuf) : Nat :=
  (cw64 b.cfg 8 + 16 * 2 ^ crRrlog b.cfg + 16 * (b.logged % 2 ^ crLoglog b.cfg)) % 2 ^ 64

/-- Counts and logs a drop (R335): the state, or the page its entry waits for. A log write that fails faults the buffer
(R340), also when another device refuses it later (log 47). -/
def State.dropped (s : State) (b n p kind len : Nat) : CrMem State :=
  let x := (s.buf b).drop kind len
  let s1 := s.putBuf b x
  if x.logs n p kind then .ok s1
  else
    match s1.creelWrite b 0 n x.logAddr (bytesOfWords (x.entry n p kind)) with
    | .ok (t, _) =>
      let y := t.buf b
      let k := y.slot n
      let held := k.dropped.filter (fun d => d.1 != p * 8 + kind) ++ [(p * 8 + kind, y.logged)]
      .ok (t.putBuf b { y.putSlot n { k with dropped := held } with logged := y.logged + 1 })
    | .page a => .page a
    | .wait t => .wait t
    | .bad a =>
      let k := x.slot n
      .ok (s1.faultBuf b (if k.who.isEmpty then x.who else k.who) 4 0xFF n a)

/-- A slot's timer reaches TIMEOUT at a mesh clock (R333, R336). -/
def State.timeOut (s : State) (b n t : Nat) : State :=
  let x := s.buf b
  let k := x.slot n
  let y := { k with st := .due, start := t, timedOut := true, subst := x.expected k &&& ~~~k.arrived, dropped := [] }
  (s.putBuf b (x.putSlot n y)).post (.creelRelease b)

/-- When a gated slot reaches its deadline. -/
def State.creelDue (s : State) (b n : Nat) : Option Nat :=
  let x := s.buf b
  let k := x.slot n
  if x.cfg.isEmpty || k.st != .gated || cw x.cfg 3 = 0 then none else some (k.start + cw x.cfg 3)

/-- A slot whose deadline has passed on an earlier mesh clock is timed out (R336). -/
def State.overdue (s : State) (b n : Nat) : State :=
  match s.creelDue b n with
  | some t => if t < s.creelClock b then s.timeOut b n t else s
  | none => s

/-- An arrival (R332), a set of bytes, the last of which stands where an address comes twice: the state after it, and whether it
was accepted or waits for a page of the log. -/
def State.arrive (s0 : State) (b : Nat) (bytes : List (Nat × Byte)) : State × Bool :=
  let data := bytes.foldl (fun (m : KMap Byte) q => m.set q.1 q.2) ([] : KMap Byte)
  let s := s0.overdue b ((data.head?.map Prod.fst).getD 0 / 2 ^ 19)
  let x := s.buf b
  match data with
  | [] => (s, true)
  | d :: _ =>
    if x.cfg.isEmpty then (s.modDie (b / 8) (fun k => { k with creelDrops := k.creelDrops + 1 }), true)
    else
      let n := d.1 / 2 ^ 19
      let p := d.1 / 2 ^ 16 % 8
      let l := data.map (fun q => (q.1 % 2 ^ 16, q.2))
      let r := x.land (s.creelClock b) (fun k => s.choose (40000 + k) 2 = 0) n p l
      let s1 := s.putBuf b r.1
      let due := (r.1.slot n).st == .due && (x.slot n).st == .gated
      let go (s : State) : State := if due then s.post (.creelRelease b) else s
      match r.2 with
      | none => (go s1, true)
      | some (kind, len) =>
        match s1.dropped b n p kind len with
        | .ok t => (go t, true)
        | .page a => (s.await (creelWalk b (x.ctx.getD 0) (x.slot n).uid (x.slot n).lane a 1), false)
        | .wait t => (t, false)
        | .bad _ => (go s1, true)

/-! Deadlines (R336). -/

/-- CREEL_DEADLINE (R333, R336). -/
def execCreelDeadline (b n : Nat) (s : State) : Host.Outcome State Fault Refusal :=
  match s.creelDue b n with
  | none => ran s
  | some t => ran ((s.reachMesh (b / 8) t).timeOut b n t)

/-- When a QUIET slot becomes FREE. -/
def State.quietDue (s : State) (b n : Nat) : Option Nat :=
  let x := s.buf b
  let k := x.slot n
  if x.cfg.isEmpty || k.st != .quiet then none else some (k.start + crQuiet x.cfg)

/-- CREEL_QUIET_END (R333). -/
def execCreelQuietEnd (b n : Nat) (s : State) : Host.Outcome State Fault Refusal :=
  match s.quietDue b n with
  | none => ran s
  | some t =>
    let s1 := s.reachMesh (b / 8) t
    let x := s1.buf b
    ran (s1.putBuf b { x with slots := x.slots.erase n })

/-! Combine and release (R337 to R339). -/

/-- Puts an expert before those of greater index. -/
def byExpert (x : Nat × Nat) : List (Nat × Nat) → List (Nat × Nat)
  | [] => [x]
  | y :: t => if x.1 ≤ y.1 then x :: y :: t else y :: byExpert x t

/-- The expected positions with their experts, in ascending order of expert. -/
def CrBuf.inOrder (b : CrBuf) (x : CrSlot) : List (Nat × Nat) :=
  ((List.range 8).filter (fun p => (b.expected x).getLsbD p)).foldr (fun p l => byExpert ((nth x.experts p 0).toNat, p) l) []

/-- The default NaN of a format for any NaN (R111, R337). -/
def plainNan (f : Fmt) (v : Nat) : Nat := if isNan f v then f.defNan else v

/-- The weight of each arrived position (R337). -/
def CrBuf.weight (b : CrBuf) (x : CrSlot) (p : Nat) : Nat :=
  let g (q : Nat) : Nat := (nth x.weights q 0).toNat
  if x.timedOut && crPolicy b.cfg == 1 then
    let sum := (b.inOrder x).foldl (fun a q => if x.arrived.getLsbD q.2 then plainNan .f32 (fAdd .f32 {} 0 a (g q.2)).v else a) 0
    plainNan .f32 (fDivide {} 0 (g p) sum).v
  else g p

/-- An element of an entry, exactly as F32. -/
def CrBuf.element (b : CrBuf) (x : CrSlot) (p n : Nat) : Nat :=
  let at0 := p * 0x10000 + n * crIn b.cfg
  let v := leNat ((List.range (crIn b.cfg)).map (fun i => x.data.getD (at0 + i) 0))
  if crInfmt b.cfg = 10 then v * 65536 else v

/-- An element of the token row (R337): `fb` holds the fallback vectors by expert. -/
def CrBuf.rowElem (b : CrBuf) (x : CrSlot) (ws : List (Nat × Nat × Nat)) (fb : KMap (List Word)) (n : Nat) : Nat :=
  let acc := ws.foldl (fun a q =>
    let e := q.1
    let p := q.2.1
    let w := q.2.2
    let y : Option Nat :=
      if x.arrived.getLsbD p then some (b.element x p n)
      else (fb.get? e).map (fun l => (nth l n 0).toNat)
    match y with
    | some y => plainNan .f32 (fFma .f32 {} 0 w y a).v
    | none => a) 0
  match crOutfmt b.cfg with
  | 9 => plainNan .f16 (fConv .f32 .f16 {} 0 acc 0).v
  | 10 => plainNan .bf16 (fConv .f32 .bf16 {} 0 acc 0).v
  | _ => acc

/-- The bytes of a token row. -/
def CrBuf.row (b : CrBuf) (x : CrSlot) (fb : KMap (List Word)) : List Byte :=
  let ws := (b.inOrder x).map (fun q => (q.1, q.2, if x.arrived.getLsbD q.2 then b.weight x q.2 else (nth x.weights q.2 0).toNat))
  (List.range (crH b.cfg)).flatMap (fun n => leBytes (b.rowElem x ws fb n) (crOut b.cfg))

/-- The experts whose fallback vectors a release reads: none when no entry has arrived. -/
def CrBuf.fallbacks (b : CrBuf) (x : CrSlot) : List Nat :=
  if crPolicy b.cfg = 2 && x.arrived != 0 then
    ((b.inOrder x).filter (fun q => !x.arrived.getLsbD q.2)).map Prod.fst
  else []

/-- Reads fallback vectors; a failure names the expert (R340). -/
def State.readFallbacks (s : State) (b : Nat) : List Nat → CrMem (KMap (List Word)) × Nat
  | [] => (.ok [], 0xFF)
  | e :: t =>
    let c := (s.buf b).cfg
    match s.creelRead b (crPieces ((cw64 c 10 + e * crH c * 4) % 2 ^ 64) (crH c * 4)) with
    | .ok l =>
      (match s.readFallbacks b t with
        | (.ok m, x) => (.ok (m.set e (wordsOf l)), x)
        | r => r)
    | .page a => (.page a, e)
    | .wait q => (.wait q, e)
    | .bad a => (.bad a, e)

/-- The slot that is released next (R338). -/
def State.releasable (s : State) (b : Nat) : Option Nat :=
  let x := s.buf b
  let dues := x.slots.filter (fun kv => kv.2.st == .due)
  if x.cfg.isEmpty || x.faulted || x.rel.isSome then none
  else if crOrder x.cfg then (dues.find? (fun kv => kv.2.order == some x.frontier)).map Prod.fst
  else
    match dues with
    | [] => none
    | d :: t =>
      let first := t.foldl (fun a kv => min a kv.2.start) d.2.start
      let l := dues.filter (fun kv => kv.2.start == first)
      (l[s.choose 9800 l.length]?).map Prod.fst

/-- The words of a release record (R339). -/
def CrBuf.releaseWords (b : CrBuf) (x : CrSlot) (n : Nat) : List Word :=
  let w (k : Nat) : Word := BitVec.ofNat 32 k
  [x.token, w (n + (b.expected x).toNat * 2 ^ 16 + x.subst.toNat * 2 ^ 24), b.cursor,
    w ((if x.timedOut then 1 else 0) + (if x.keep then 2 else 0))]

/-- The cursor rises: the slot becomes QUIET or KEPT, and waits that it meets end (R338, R347). -/
def State.released (s : State) (b n : Nat) : State :=
  let x := s.buf b
  let k := x.slot n
  let y := { k with st := if k.keep then .kept else .quiet, start := s.creelClock b, order := none, dropped := [] }
  let c := x.cursor + 1
  let s1 := (s.putBuf b { x.putSlot n y with cursor := c, rel := none }).endCrWaits b (fun t => decide (t.toNat ≤ c.toNat))
    (statusWord true false 0 c.toNat)
  let s2 := if k.keep then s1 else s1.post (.creelQuietEnd b n)
  if (s2.releasable b).isSome then s2.post (.creelRelease b) else s2

/-- The page request of a release. -/
def State.crWalk (s : State) (b n va : Nat) (kind : BitVec 2) : State :=
  let k := (s.buf b).slot n
  (s.await (creelWalk b ((s.buf b).ctx.getD 0) k.uid k.lane va kind)).post (.creelRelease b)

/-- A release that cannot go on (R340). -/
def State.crFail (s : State) (b n reason expert va : Nat) : State :=
  (s.dropFars (.creel b)).faultBuf b ((s.buf b).slot n).who reason expert n va

/-- The record of a release whose row is performed, and then its end (R338). -/
def State.crRecord (s : State) (b : Nat) (r : CrRel) : State :=
  let x := s.buf b
  let at0 := (cw64 x.cfg 8 + 16 * (x.cursor.toNat % 2 ^ crRrlog x.cfg)) % 2 ^ 64
  match s.creelWrite b r.id r.slot at0 (bytesOfWords (x.releaseWords (x.slot r.slot) r.slot)) with
  | .ok (t, k) =>
    if k = 0 then (t.dropFars (.creel b)).released b r.slot
    else t.putBuf b { t.buf b with rel := some { r with second := true, owed := k } }
  | .page a => s.crWalk b r.slot a 1
  | .bad a => s.crFail b r.slot 4 0xFF a
  | .wait t => t.post (.creelRelease b)

/-- A release begins: its row is combined and written (R337). Where its record stands must be writable too. -/
def State.crBegin (s : State) (b n : Nat) : State :=
  let x := s.buf b
  let k := x.slot n
  let row := (cw64 x.cfg 4 + k.token.toNat * cw x.cfg 6) % 2 ^ 64
  let rec1 := (cw64 x.cfg 8 + 16 * (x.cursor.toNat % 2 ^ crRrlog x.cfg)) % 2 ^ 64
  match s.readFallbacks b (x.fallbacks k) with
  | (.page a, _) => s.crWalk b n a 0
  | (.wait t, _) => t.post (.creelRelease b)
  | (.bad a, e) => s.crFail b n 5 e a
  | (.ok fb, _) =>
    let s1 := s.creelReads b ((x.fallbacks k).flatMap (fun e => crPieces ((cw64 x.cfg 10 + e * crH x.cfg * 4) % 2 ^ 64) (crH x.cfg * 4)))
    match s1.creelPlan b (crPieces rec1 16), s1.creelWrite b s1.fresh n row (x.row k fb) with
    | .page a, _ => s.crWalk b n a 1
    | _, .page a => s.crWalk b n a 1
    | .bad a, _ => s.crFail b n 4 0xFF a
    | _, .bad a => s.crFail b n 4 0xFF a
    | .ok _, .ok (t, owed) =>
      let r : CrRel := { id := s1.fresh, slot := n, owed := owed }
      let t1 := { t with fresh := s1.fresh + 1 }.putBuf b { t.buf b with rel := some r }
      if owed = 0 then t1.crRecord b r else t1
    | _, _ => s.post (.creelRelease b)

/-- CREEL_RELEASE (R337 to R340): the row, then the record, then the cursor, each after the answers of other devices to the one
before. -/
def execCreelRelease (b : Nat) (s : State) : Host.Outcome State Fault Refusal :=
  let x := s.buf b
  if s.awaits (.creel b) || s.switching 2 (b / 8) then ran (s.post (.creelRelease b))
  else
    match x.logBad, x.rel with
    | some (n, a), _ =>
      let who := if (x.slot n).who.isEmpty then x.who else (x.slot n).who
      ran ((s.putBuf b { x with logBad := none }).faultBuf b who 4 0xFF n a)
    | none, some r =>
      if r.owed != 0 then ran s
      else
        match r.bad with
        | some a => ran (s.crFail b r.slot 4 0xFF a)
        | none => if r.second then ran ((s.dropFars (.creel b)).released b r.slot) else ran (s.crRecord b r)
    | none, none =>
      match s.releasable b with
      | some n => ran (s.crBegin b n)
      | none => ran s

/-! Requests (R342 to R349). -/

/-- Ends a request with a word in each of its lanes; a spoiled buffer gives free ones (R331). -/
def State.endLanes (s : State) (id : Nat) (vals : KMap Word) : State :=
  match s.reqs.get? id with
  | none => s
  | some r =>
    let out : KMap Word := if (s.buf (nth r.args 0 0).toNat).spoiled then
      vals.map (fun p => (p.1, BitVec.ofNat 32 (Config.pick s.tick (70000000 + p.1)))) else vals
    let s1 := { s with reqs := s.reqs.erase id }.statusLanes r.uid (.req id) r.v out
    match r.mem with
    | some m => s1.post (.memberLeave m)
    | none => s1

/-- Whether a request is one that the Creel takes in issue order. -/
def ReqKind.inTurn : ReqKind → Bool
  | .crCfg => true
  | .crAlloc _ => true
  | .crGate => true
  | .crFree => true
  | _ => false

/-- Whether every earlier request of the warp on the buffer has been taken (R342). -/
def State.crTurn (s : State) (id : Nat) (r : Req) : Bool :=
  !r.kind.inTurn || s.reqs.all (fun kv => !(decide (kv.1 < id) && kv.2.uid == r.uid && kv.2.kind.inTurn &&
    nth kv.2.args 0 0 == nth r.args 0 0))

/-- The device memory that a span of pages maps, readable and writable (R331), as physical spans; none when it does not. -/
def State.backing (s : State) (b ctx va : Nat) : Nat → Option (List (Nat × Nat))
  | 0 => some []
  | n + 1 =>
    match s.reach noCore ctx 5 b (BitVec.ofNat 64 (va + 4096 * n)) .atomic, s.backing b ctx va n with
    | .ok e pa, some l => if leafTarget e == 0 then some (l ++ [(pa, pa + 4096)]) else none
    | _, _ => none

/-- Bytes that the configured buffers of a die pin, but for one (R331). -/
def State.pinned (s : State) (b : Nat) : Nat :=
  (s.bufs.map (fun kv => if kv.1 / 8 = b / 8 ∧ kv.1 ≠ b ∧ !kv.2.cfg.isEmpty ∧ !crBacking kv.2.cfg then crBacksize kv.2.cfg else 0)).sum

/-- The reason a CRCFG is refused (R331, R344). -/
def State.cfgBad (s : State) (b ctx : Nat) (l : List Word) : Option Nat :=
  let x := s.buf b
  let busy := x.slots.any (fun kv => kv.2.st == .allocated || kv.2.st == .gated || kv.2.st == .due || kv.2.st == .kept)
  if !x.cfg.isEmpty && busy && !x.faulted then some 3
  else if crMalformed l then some 1
  else if (s.backing b ctx (cw64 l 12) (cw l 14 * 16)).isNone then some 2
  else if !crBacking l && decide (96 * 2 ^ 20 < s.pinned b + crBacksize l) then some 2
  else none

/-- Applies a CRCFG (R344). -/
def State.applyCfg (s : State) (id : Nat) (r : Req) : State :=
  let b := (nth r.args 0 0).toNat
  let l := r.args.drop 1
  let x := s.buf b
  match s.cfgBad b r.ctx l with
  | some k => (s.creelFault b (s.standing r.uid r.lane) r.ctx k 0xFF 0 0).endReq id (statusWord true true 0x12 k)
  | none =>
    let y : CrBuf := { ctx := some r.ctx, cfg := l, uid := r.uid, lane := r.lane, who := s.standing r.uid r.lane, allocs := x.allocs,
                       back := (s.backing b r.ctx (cw64 l 12) (cw l 14 * 16)).getD [] }
    let s0 := (s.dropFars (.creel b)).endCrWaits b (fun _ => true) (statusWord true true 0x12 x.cursor.toNat)
    let s1 := s0.putBuf b y
    let s2 : State := { s1 with pages := s1.pages.filter (fun p => p.who != WalkFor.creel b) }
    s2.endReq id (statusWord true false 0 (crNslots l))

/-- The lowest FREE slot of a buffer (R345). -/
def CrBuf.lowestFree (b : CrBuf) : Option Nat := (List.range (crNslots b.cfg)).find? b.isFree

/-- Gives slots to lanes with token ids, while there are any and an order number may be assigned (R345). -/
def CrBuf.allot (b : CrBuf) : List (Nat × Word) → CrBuf × KMap Word
  | [] => (b, [])
  | (lane, tok) :: t =>
    match (if b.mayAssign then b.lowestFree else none) with
    | none => (b, ((lane, tok) :: t).map (fun q => (q.1, 0xFFFFFFFF#32)))
    | some n =>
      let r := ({ b.putSlot n { st := .allocated, token := tok, order := some b.next } with next := b.next + 1 }).allot t
      (r.1, (lane, BitVec.ofNat 32 n) :: r.2)

/-- Applies a CRALLOC (R345); none while a CRALLOC.W waits. -/
def State.applyAlloc (s : State) (id : Nat) (r : Req) (all : Bool) : Option State :=
  let b := (nth r.args 0 0).toNat
  let x := s.buf b
  let toks := r.rows.map (fun p => (p.1, nth p.2 0 0))
  let off := x.cfg.isEmpty || x.faulted
  if !all then
    if off then some (s.endLanes id (toks.map (fun q => (q.1, 0xFFFFFFFF#32))))
    else
      let q := x.allot toks
      some ((s.putBuf b q.1).endLanes id q.2)
  else
    let live := x.allocs.filter (fun i => (s.reqs.get? i).isSome)
    let q := x.allot toks
    if off || (live.headD id != id) || q.2.any (fun v => v.2 == 0xFFFFFFFF) then none
    else some ((s.putBuf b { q.1 with allocs := live.filter (fun i => i != id) }).endLanes id q.2)

/-- Why a lane's gate is refused (R346). -/
def CrBuf.gateBad (b : CrBuf) (l : List Word) : Option Nat :=
  let n := (nth l 0 0).toNat
  let es := (wordBytes l).take 8
  let k := crTopk b.cfg
  let exp := (es.take k).filter (fun e => e != 0xFF)
  let st := (b.slot n).st
  if b.cfg.isEmpty || decide (crNslots b.cfg ≤ n) then some 1
  else if st != .allocated && st != .kept then some 2
  else if (nth l 1 0).toNat / 2 != 0 || (es.drop k).any (fun e => e != 0xFF) || exp.any (fun e => decide (crNexp b.cfg ≤ e.toNat)) ||
      exp.eraseDups.length != exp.length then some 3
  else none
where
  /-- The expert bytes of a gate. -/
  wordBytes (l : List Word) : List Byte := bytesOfWords [nth l 2 0, nth l 3 0]

/-- The status of a refused lane (R346, R349). -/
def crRefused (reason : Nat) (slot : Word) : Word := statusWord true true 0x12 (reason * 2 ^ 16 + slot.toNat % 65536)

/-- Gates a slot (R333). -/
def CrBuf.gate (b : CrBuf) (now uid lane : Nat) (who : List Nat) (l : List Word) : CrBuf :=
  let n := (nth l 0 0).toNat
  let x := b.slot n
  let y : CrSlot := { st := .gated, token := x.token, order := some (x.order.getD b.next), experts := bytesOfWords [nth l 2 0, nth l 3 0],
                      weights := (l.drop 4).take 8, start := now, keep := (nth l 1 0).getLsbD 0, uid := uid, lane := lane, who := who }
  let z := if b.expected y = 0 then { y with st := .due } else y
  { b.putSlot n z with next := if x.order.isSome then b.next else b.next + 1 }

/-- Gates the lanes of a CRGATE in turn (R346): a KEPT slot whose order number is held back stops it there. The request
keeps the lanes still to do in `rows` and the words of those done in `args`. -/
def State.gateLanes (s : State) (id : Nat) (b : Nat) : List (Nat × List Word) → List Word → State
  | [], done =>
    match s.reqs.get? id with
    | none => s
    | some r => s.endLanes id ((lanesOf r.lanes).zip (done.drop 1))
  | (lane, l) :: t, done =>
    match s.reqs.get? id with
    | none => s
    | some r =>
      let x := s.buf b
      let n := (nth l 0 0).toNat
      let who := s.standing r.uid lane
      match x.gateBad l with
      | some k =>
        let first := (done.drop 1).all (fun w => !w.getLsbD 30)
        let s1 := if first then s.creelFault b who r.ctx 6 0xFF n 0 else s
        s1.gateLanes id b t (done ++ [crRefused k (nth l 0 0)])
      | none =>
        if (x.slot n).st == .kept && !x.mayAssign then
          State.post { s with reqs := s.reqs.set id { r with begun := true, rows := (lane, l) :: t, args := done } } (.releaseNotice id)
        else
          let y := x.gate (s.creelClock b) r.uid lane who l
          let s1 := s.putBuf b y
          let s2 := if (y.slot n).st == .due then s1.post (.creelRelease b)
            else if cw y.cfg 3 = 0 then s1 else s1.post (.creelDeadline b n)
          s2.gateLanes id b t (done ++ [statusWord true false 0 n])

/-- One lane's CRFREE (R349): the state, and its status. -/
def State.freeLane (s : State) (b : Nat) (slot : Word) : State × Word :=
  let x := s.buf b
  let n := slot.toNat
  let ok : Word := statusWord true false 0 n
  if x.cfg.isEmpty || decide (crNslots x.cfg ≤ n) then (s, crRefused 2 slot)
  else
    match (x.slot n).st with
    | .allocated => ((s.putBuf b { x with slots := x.slots.erase n }).post (.creelRelease b), ok)
    | .kept =>
      let y := { x.slot n with st := .quiet, start := s.creelClock b, dropped := [] }
      ((s.putBuf b (x.putSlot n y)).post (.creelQuietEnd b n), ok)
    | _ => (s, crRefused 2 slot)

/-- Applies a CRFREE (R349). -/
def State.applyFree (s : State) (id : Nat) (r : Req) : State :=
  let b := (nth r.args 0 0).toNat
  let q := r.rows.foldl (fun (a : State × KMap Word × Bool) p =>
    let slot := nth p.2 0 0
    let f := a.1.freeLane b slot
    let bad := f.2.getLsbD 30
    let s1 := if bad && !a.2.2 then f.1.creelFault b (s.standing r.uid p.1) r.ctx 7 0xFF slot.toNat 0 else f.1
    (s1, a.2.1 ++ [(p.1, f.2)], a.2.2 || bad)) (s, ([] : KMap Word), false)
  q.1.endLanes id q.2.1

/-- Applies a CRWAIT (R347). -/
def State.applyWait (s : State) (id : Nat) (r : Req) : State :=
  let b := (nth r.args 0 0).toNat
  let x := s.buf b
  if x.cfg.isEmpty then s.endCr b id (statusWord true true 0x12 0)
  else if x.faulted then s.endCr b id (statusWord true true 0x12 x.cursor.toNat)
  else if (nth r.args 1 0).toNat ≤ x.cursor.toNat then s.endCr b id (statusWord true false 0 x.cursor.toNat)
  else { s with reqs := s.reqs.set id { r with begun := true } }

/-- Applies a Creel request whose dependence is satisfied, in its warp's issue order on the buffer (R342). -/
def State.applyCreel (s : State) (id : Nat) : State :=
  match s.reqs.get? id with
  | none => s
  | some r =>
    let again (s : State) : State := s.post (.releaseNotice id)
    let b := (nth r.args 0 0).toNat
    if !s.crTurn id r then again s
    else
      match r.kind with
      | .crCfg => s.applyCfg id r
      | .crAlloc all =>
        (match s.applyAlloc id r all with
          | some t => t
          | none =>
            let x := s.buf b
            again (if x.allocs.contains id then s else s.putBuf b { x with allocs := x.allocs ++ [id] }))
      | .crGate => s.gateLanes id b r.rows r.args
      | .crFree => s.applyFree id r
      | .crWait => if r.begun then s else s.applyWait id r
      | _ => s

/-! The instructions (R343). -/

/-- The buffer of a buffer word; PROT when it is malformed or not one of the context's (R329). -/
def Cx.buffer (c : Cx) (s : State) (w : Word) : Except Stop Nat :=
  let die := bits w.toNat 5 4
  let cb := bits w.toNat 2 0
  if bits w.toNat 31 6 != 0 || bitAt w.toNat 3 || !((s.ctx c.ctx).creelMask.getD die 0).getLsbD cb then
    .error (trapLane 0x08 0 (w.setWidth 64))
  else .ok (die * 8 + cb)

/-- A Creel request with results in several lanes. -/
def Cx.laneReq (c : Cx) (s : State) (kind : ReqKind) (v b : Nat) (kc kp : Nat) (dep : Dep) (mem : Option Nat) (rows : List (Nat × List Word)) :
    Nat × State :=
  let r := s.newId
  let q : Req := { kind := kind, uid := c.uid, ctx := c.ctx, core := c.core, lane := c.lane, v := v, lanes := c.mask,
                   args := [BitVec.ofNat 32 b], rows := rows, dep := dep, mem := mem }
  let s1 := r.2.outward c.core c.ctx (kind.ctorIdx :: kc :: kp :: b :: rows.flatMap (fun p => p.2.map BitVec.toNat))
  (r.1, State.statusPend { s1 with reqs := s1.reqs.set r.1 q } c.uid (.req r.1) (.v v c.mask))

/-- The rows of a request: some registers of every active lane. -/
def Cx.rows (c : Cx) (s : State) (v n : Nat) : List (Nat × List Word) :=
  (lanesOf c.mask).map (fun i => (i, (List.range' v n).map (fun r => c.readV s r i)))

/-- CRCFG (R344). -/
def execCrcfg (o : FCp) (s : State) : Host.Outcome State Fault Refusal :=
  s.runTarget o.sw (fun c s => do
    c.noXp
    let n := o.n.toNat
    if n % 2 != 0 then .error ill else .ok ()
    let v ← c.resolve 0 c.mask none o.v.toNat 1
    c.touch s [.v v (laneBit c.lane), .s n, .s (n + 1)]
    c.bWrites s [v] (laneBit c.lane)
    if o.p = 15 then .error (trapOf 0x0B)
    else
      let b ← c.buffer s (c.readS s n)
      let words ← c.nearRecord s (c.readS s (n + 1)) 64
      let (id, s1) ← c.request s .crCfg v o.c.toNat o.p.toNat (BitVec.ofNat 32 b :: words)
      .ok (s1.startReq id State.applyCreel, .next))

/-- CRALLOC and CRALLOC.W (R345). A CRALLOC.W parks until its slots are written. -/
def Cx.allocate (c : Cx) (s : State) (o : FAlloc) (all : Bool) : Except Stop (State × Flow) := do
  c.noXp
  match c.w.iss.resume with
  | .alloc id => if (s.reqs.get? id).isNone then .ok (s, .next) else .error (.park .engine s)
  | _ =>
    let v ← c.resolve 0 c.mask none o.d.toNat 1
    let n := 2 * o.n.toNat
    c.touch s [.v v c.mask, .s n]
    c.bWrites s [v] c.mask
    let b ← c.buffer s (c.readS s n)
    let r := c.laneReq s (.crAlloc all) v b 0 0 {} none (c.rows s v 1)
    let s1 := r.2.applyCreel r.1
    if all && (s1.reqs.get? r.1).isSome then
      .error (.park .engine (s1.modWarp c.uid (fun w => { w with iss := { w.iss with resume := .alloc r.1 } })))
    else .ok (s1, .next)

/-- CRALLOC (R345). -/
def execCralloc (o : FAlloc) (s : State) : Host.Outcome State Fault Refusal := s.runTarget o.sw (fun c s => c.allocate s o false)

/-- CRALLOC.W (R345). -/
def execCrallocW (o : FAlloc) (s : State) : Host.Outcome State Fault Refusal := s.runTarget o.sw (fun c s => c.allocate s o true)

/-- CRGATE (R346). -/
def execCrgate (o : FCp) (s : State) : Host.Outcome State Fault Refusal :=
  s.runTarget o.sw (fun c s => do
    c.noXp
    if o.v.toNat % 4 != 0 then .error ill else .ok ()
    let v ← c.resolve 0 c.mask none o.v.toNat 12
    c.touch s (.s o.n.toNat :: vNames v 12 c.mask)
    c.bWrites s [v] c.mask
    if o.p = 15 then .error (trapOf 0x0B)
    else
      let b ← c.buffer s (c.readS s o.n.toNat)
      let rows := c.rows s v 12
      let (dep, m, s1) ← c.keys s o.c.toNat o.p.toNat
      let r := c.laneReq s1 .crGate v b o.c.toNat o.p.toNat dep (some m) rows
      .ok (r.2.startReq r.1 State.applyCreel, .next))

/-- CRWAIT (R347). -/
def execCrwait (o : FCp) (s : State) : Host.Outcome State Fault Refusal :=
  s.runTarget o.sw (fun c s => do
    c.noXp
    let n := o.n.toNat
    if n % 2 != 0 then .error ill else .ok ()
    let v ← c.resolve 0 c.mask none o.v.toNat 1
    c.touch s [.v v (laneBit c.lane), .s n, .s (n + 1)]
    c.bWrites s [v] (laneBit c.lane)
    if o.p = 15 then .error (trapOf 0x0B)
    else
      let b ← c.buffer s (c.readS s n)
      let (id, s1) ← c.request s .crWait v o.c.toNat o.p.toNat [BitVec.ofNat 32 b, c.readS s (n + 1)]
      .ok (s1.startReq id State.applyCreel, .next))

/-- The state of a slot as CRSTAT reports it (R348). -/
def CrSt.code : CrSt → Nat
  | .free => 0
  | .allocated => 1
  | .gated => 2
  | .due => 3
  | .quiet => 4
  | .kept => 5

/-- What a selector of CRSTAT names; none for PROT (R348). -/
def CrBuf.stat (b : CrBuf) (sel : Nat) : Option Nat :=
  if b.cfg.isEmpty then some 0
  else if sel < crNslots b.cfg then
    let x := b.slot sel
    some (x.st.code * 2 ^ 21 + x.arrived.toNat * 2 ^ 8 + (if x.st == .allocated || x.st == .free then 0 else (b.expected x).toNat))
  else
    match sel with
    | 0x10000 => some b.cursor.toNat
    | 0x10001 => some (crNslots b.cfg - (b.slots.filter (fun kv => decide (kv.1 < crNslots b.cfg) && kv.2.st != .free)).length)
    | 0x10002 => some b.late
    | 0x10003 => some b.unexpected
    | 0x10004 => some b.overs
    | 0x10005 => some b.logged
    | _ => none

/-- The progress word of a selector for a lane (R348), a free one of a buffer that a program wrote into (R331). -/
def State.crstatWord (s : State) (b lane sel : Nat) : Word :=
  let x := s.buf b
  statusWord false false 0 (if x.spoiled then Config.pick s.tick (70000000 + lane) % 2 ^ 24 else (x.stat sel).getD 0)

/-- CRSTAT (R348). -/
def execCrstat (o : FVn) (s : State) : Host.Outcome State Fault Refusal :=
  s.runTarget o.sw (fun c s => do
    c.noXp
    let v ← c.resolve 0 c.mask none o.v.toNat 1
    c.touch s [.v v c.mask, .s o.n.toNat]
    c.bWrites s [v] c.mask
    let b ← c.buffer s (c.readS s o.n.toNat)
    let x := s.buf b
    let sels := (lanesOf c.mask).map (fun i => (i, (c.readV s v i).toNat))
    match sels.find? (fun p => (x.stat p.2).isNone) with
    | some p => .error (trapLane 0x08 p.1 (BitVec.ofNat 64 p.2))
    | none =>
      .ok ((s.result c 4 [.v v c.mask] [.v v (sels.map (fun p => (p.1, s.crstatWord b p.1 p.2)))]).sampling c.uid (.creel b sels), .next))

/-- CRFREE (R349). -/
def execCrfree (o : FCp) (s : State) : Host.Outcome State Fault Refusal :=
  s.runTarget o.sw (fun c s => do
    c.noXp
    let v ← c.resolve 0 c.mask none o.v.toNat 1
    c.touch s [.v v c.mask, .s o.n.toNat]
    c.bWrites s [v] c.mask
    if o.p = 15 then .error (trapOf 0x0B)
    else
      let b ← c.buffer s (c.readS s o.n.toNat)
      let rows := c.rows s v 1
      let (dep, m, s1) ← c.keys s o.c.toNat o.p.toNat
      let r := c.laneReq s1 .crFree v b o.c.toNat o.p.toNat dep (some m) rows
      .ok (r.2.startReq r.1 State.applyCreel, .next))

end Sys2Proof.Machine
end

