-- ==== Sys2Proof/Machine/MemEvents.lean ====
section
/-! DEFINITION. The events of memory operations: loads bind, stores and atomics are performed at their home, window
accesses reach what stands behind them, and partials of RED lines move (R173 to R180, R203 to R225, R308, R385 to R391). -/

namespace Sys2Proof.Machine

open Sys2Proof

/-- A unit of an operation; a missing one counts as done. -/
def Op.unit (o : Op) (i : Nat) : MUnit := nth o.units i { lane := 0, tgt := .dev 0, size := 0, done := true }

/-- The units of an operation still to be performed that a test selects, by position. -/
def Op.select (o : Op) (p : MUnit → Bool) : List Nat :=
  (o.units.zipIdx.filter (fun q => !q.1.done && !q.1.sent && p q.1)).map Prod.snd

/-- Whether two units lie in one aligned block of a size. -/
def MUnit.near (u v : MUnit) (n : Nat) : Bool :=
  let a := u.tgt.span
  let b := v.tgt.span
  a.1 == b.1 && a.2.1 == b.2.1 && a.2.2 / n == b.2.2 / n

/-- Units marked as sent to another device. -/
def State.markSent (s : State) (id : Nat) (js : List Nat) : State :=
  match s.ops.get? id with
  | none => s
  | some o => s.putOp id { o with units := o.units.zipIdx.map (fun q => if js.contains q.2 then { q.1 with sent := true } else q.1) }

/-- Units refused before they left (R308, R216). -/
def State.refuseUnits (s : State) (id : Nat) (js : List Nat) : State :=
  (js.foldl (fun s j => s.doneUnit id j [] true) s).tryEnd id

/-- The lowest address of some units. -/
def Op.base (o : Op) (js : List Nat) : Nat := lowestNat (2 ^ 64) (js.map (fun j => (o.unit j).tgt.span.2.2))

/-- The end of the highest of some units. -/
def Op.stop (o : Op) (js : List Nat) : Nat := (js.map (fun j => (o.unit j).tgt.span.2.2 + (o.unit j).size)).foldl max 0

/-- Poisoned data reach a register: the context ends with its record (R427). -/
def State.poisonRead (s : State) (o : Op) (u : MUnit) (pa : Nat) : State :=
  let w := s.warp o.uid
  ((s.record o.ctx (s.identify w u.lane
    { cause := 0x08, engine := 3, inst := o.core, addr := pa, cycles := (s.core o.core).cyc, detail := 0x80000000 })).1).terminate o.ctx

/-! Loads. -/

/-- The bytes of a status word that LDN.PRES reads (R222). -/
def State.presWord (s : State) (t : Target) : Nat :=
  match t with
  | .guard _ _ => 2 ^ 31
  | .near t o =>
    let x := s.team t
    if x.retired then 2 ^ 30
    else (if x.poison.contains (lineOf o) then 2 else 0) + (if x.absent.getD (lineOf o) 0 = 0 then 1 else 0)
  | _ => 0

/-- Binds one unit of a load on this device: its bytes and the state after. A PREF's line comes from the home, into L1 too unless
its policy is NOL1 or STREAM (R219). `salt` is that of the lanes that read together. -/
def State.bindUnit (s : State) (id : Nat) (o : Op) (salt i : Nat) : State :=
  let u := o.unit i
  match o.kind, u.tgt with
  | .pres, t => s.doneUnit id i (leBytes (s.presWord t) 4) false
  | .pref, .dev pa =>
    let r := s.homeRead (dieOf o.core) pa 128
    (if o.cache == 1 || o.cache == 3 then r.2 else r.2.fillL1 o.core pa r.1).doneUnit id i [] false
  | .ldl e, .dev pa =>
    let r := s.homeRead (dieOf o.core) pa 128
    if r.2.badAt pa 128 then r.2.poisonRead o u pa
    else
      let link : Link := { valid := true, line := pa, ver := r.2.versions.getD pa 0 }
      let s1 := if (r.2.warps.get? o.uid).isNone then r.2
        else r.2.modWarp o.uid (fun w => { w with links := setAt w.links e link })
      s1.doneUnit id i r.1 false
  | _, .dev pa =>
    let r := s.devLoad o salt pa u.size
    let l1Bad := (s.l1Hit o salt pa).isSome && (s.core o.core).badL1.any (fun b => decide (b < pa + u.size) && decide (pa < b + 8))
    if r.2.badAt pa u.size || l1Bad then r.2.poisonRead o u pa else r.2.doneUnit id i r.1 false
  | _, .sys pa => s.doneUnit id i (s.hostRd pa u.size) false
  | _, .near t a => if (s.team t).badAt a u.size then s.poisonRead o u a else s.doneUnit id i (s.nearRead t a u.size) false
  | _, .win pa => if s.winBad pa u.size then s.poisonRead o u pa else s.doneUnit id i (s.winRead pa u.size) false
  | _, _ => s.doneUnit id i (List.replicate u.size 0) false

/-- Whether a scratchpad port serves a unit now (R213): of a scratchpad instruction in the order of its queue, of a window access
when port 1 has nothing else to serve (log 32). -/
def State.portServes (s : State) (id : Nat) (o : Op) (u : MUnit) : Bool :=
  match u.tgt with
  | .near t _ => if o.near then s.portTurn id o u else s.nearIdle t
  | _ => !o.near || o.entry != 0

/-- Whether a load's unit is served in its core's L1, and so asks no home slice (R203). -/
def State.inL1 (s : State) (o : Op) (salt : Nat) : Target → Bool
  | .dev pa => o.kind != .pref && (s.l1Hit o salt pa).isSome
  | _ => false

/-- Whether a unit of a load may bind: its dependence, the earlier accesses of its lane, the order in which a home slice takes
its core's requests, and its port (R176, R180, R213, R381). -/
def State.mayBind (s : State) (id : Nat) (o : Op) (salt i : Nat) : Bool :=
  let u := o.unit i
  let hit := s.inL1 o salt u.tgt
  s.depOk o.uid o.dep && !s.behind id o u hit && (hit || !s.following id o u) && s.portServes id o u

/-- Units of a load on this device that read one aligned word bind together; none while one of them may not (R204). -/
def State.bindWord (s : State) (id unit : Nat) (o : Op) : Option State :=
  let js := o.select (fun v => v.near (o.unit unit) (max (o.unit unit).size 4))
  if js.all (s.mayBind id o unit) then some ((js.foldl (fun s j => s.bindUnit id o unit j) s).tryEnd id) else none

/-- LOAD_RETURN (R177, R204, R218): lanes that read one aligned word bind it together. Each lane of a NET page asks the home
device, once for each line (R308). A scratchpad load enters its port's queue first (R213). -/
def execLoadReturn (id unit : Nat) (s0 : State) : Host.Outcome State Fault Refusal :=
  let s := s0.enterNear id
  match s.ops.get? id with
  | none => ran s
  | some o =>
    let u := o.unit unit
    if u.done || u.sent then ran s
    else
      match u.tgt with
      | .net d _ =>
        let js := o.select (fun v => v.lane == u.lane && v.near u 128)
        if !js.all (s.mayBind id o unit) then ran (s.post (.loadReturn id unit))
        else
          match s.request o.ctx d (js.map (SentFor.unit id)) (o.base js) false [] (o.stop js - o.base js) with
          | none => ran (s.refuseUnits id js)
          | some t => ran (t.markSent id js)
      | _ =>
        match s.bindWord id unit o with
        | some t => ran t
        | none => ran (s.post (.loadReturn id unit))

/-! Stores. -/

/-- Whether a unit of a store or atomic may be performed (R173, R176, R213, R381). -/
def State.mayPerform (s : State) (id : Nat) (o : Op) (i : Nat) : Bool :=
  let u := o.unit i
  o.entry != 0 && !s.behind id o u false && !s.following id o u && s.portServes id o u

/-- A core's L1 line goes: an access of its own was performed at the home past it. -/
def State.dropL1 (s : State) (core pa : Nat) : State :=
  { s with cores := s.cores.modify core (fun k => { k with l1 := k.l1.erase (lineOf pa) }) }

/-- A lane's contribution to a RED line, into a partial of the issuing die or of the home (R385, R386, R391). -/
def State.redLane (s : State) (o : Op) (u : MUnit) (pa : Nat) (aln : Bool) : State :=
  let line := lineOf pa
  let home := 2 ^ 16 + homeSlice line
  let slice := if s.choose 8700 2 = 0 then partialAt (dieOf o.core) line else home
  let x := leNat u.data
  let e := leNat (u.data2.take 1)
  let s1 := if aln then s.contribute slice line true e (pa % 128 / 4) (alnQ .f32 e x) (alnSpecial e x)
    else s.contribute slice line false 0 (pa % 128 / 4) ((BitVec.ofNat 32 x).toInt) false
  let ev : Ev := if slice = home then .homePartialEviction line else .partialFlush line slice
  (if s1.bag.contains ev then s1 else s1.post ev).dropL1 o.core pa

/-- Whether one store writes every byte of a near-space line (R209). -/
def Op.wholeLine (o : Op) (t line : Nat) : Bool :=
  (List.range 128).all (fun k => o.units.any (fun v => match v.tgt with
    | .near q a => q == t && decide (a ≤ line + k) && decide (line + k < a + v.size)
    | _ => false))

/-- Performs a unit of a store on this device. -/
def State.storeUnit (s : State) (o : Op) (u : MUnit) : State :=
  match u.tgt with
  | .dev pa => if o.kind == .redI || o.kind == .redA then s.redLane o u pa (o.kind == .redA) else s.homeWrite pa u.data
  | .sys pa => if o.key != 0 && (s.warp o.uid).scopeOf o.key == .sys then s.hostWr pa u.data else s.hostLate pa u.data
  | .near t a =>
    let s1 := s.nearWrite t a u.data
    if o.wholeLine t (lineOf a) then s1.unpoison t (lineOf a) else s1
  | .win pa => s.winWrite o.mem pa u.data
  | _ => s

/-- STORE_AT_HOME (R173, R220, R223, R391). A line of a NET page takes one request with all its bytes (R308). -/
def execStoreAtHome (id unit : Nat) (s : State) : Host.Outcome State Fault Refusal :=
  match s.ops.get? id with
  | none => ran s
  | some o =>
    let u := o.unit unit
    if u.done || u.sent then ran s
    else
      match u.tgt with
      | .net d _ =>
        let js := o.select (fun v => v.near u 128)
        if !js.all (s.mayPerform id o) then ran (s.post (.storeAtHome id unit))
        else
          let base := o.base js
          let data := js.flatMap (fun j => (o.unit j).data.zipIdx.map (fun p => ((o.unit j).tgt.span.2.2 + p.2 - base, p.1)))
          match s.request o.ctx d (js.map (SentFor.unit id)) base true data (o.stop js - base) with
          | none => ran (s.refuseUnits id js)
          | some t => ran (t.markSent id js)
      | _ =>
        if !s.mayPerform id o unit then ran (s.post (.storeAtHome id unit))
        else ran (((s.storeUnit o u).doneUnit id unit [] false).tryEnd id)

/-! Atomics. -/

/-- Performs one lane's atomic on this device: the old bytes and the state after (R224, R225). -/
def State.atomicUnit (s : State) (core code : Nat) (t : Target) (n : Nat) (data : List Byte) : List Byte × State :=
  match t with
  | .dev pa =>
    let s1 := s.mergeAt [pa]
    let old := s1.seen pa n
    (old, (s1.homeWrite pa (atomicNew code old data)).dropL1 core pa)
  | .sys pa => (s.hostRd pa n, s.hostLate pa (atomicNew code (s.hostRd pa n) data))
  | .near k a => (s.nearRead k a n, s.nearWrite k a (atomicNew code (s.nearRead k a n) data))
  | _ => (List.replicate n 0, s)

/-- Whether the old value that an atomic gives a register is marked poison (R427). -/
def State.targetBad (s : State) (t : Target) (n : Nat) : Bool :=
  match t with
  | .dev pa => s.badAt pa n
  | .near k a => (s.team k).badAt a n
  | _ => false

/-- The commit of a CSTM at its home, indivisibly (R390): the result bits, and the state after. -/
def State.commitUnits (s : State) (o : Op) (m : BitVec 4) : Nat × State :=
  let pas := o.units.map (fun u => u.tgt.span.2.2)
  let s1 := s.mergeAt pas
  let ks := (List.range 4).filter (fun k => m.getLsbD k)
  let changed := (o.units.zip ks).filter (fun q =>
    s1.versions.getD q.1.tgt.span.2.2 0 != leNat q.1.data2 || s1.choose (8800 + q.2) 2 = 1)
  let r := (changed.map (fun q => 2 ^ q.2)).sum
  if r = 0 then
    (0, o.units.foldl (fun s u => (s.homeWrite u.tgt.span.2.2 u.data).dropL1 o.core u.tgt.span.2.2) s1)
  else (r, s1)

/-- The words of an ATOMIC message (R310). -/
def atomicWords (code pa n : Nat) (data : List Byte) : List Word :=
  let w (x : Nat) : Word := BitVec.ofNat 32 x
  let a := leNat (data.take n)
  let b := leNat ((data.drop n).take n)
  [w (3 + code * 2 ^ 8), 0, w pa, w (pa / 2 ^ 32), w a, w (a / 2 ^ 32), w b, w (b / 2 ^ 32)]

/-- ATOMIC_AT_HOME (R225, R390): one lane's atomic, or a whole commit. -/
def execAtomicAtHome (id unit : Nat) (s : State) : Host.Outcome State Fault Refusal :=
  match s.ops.get? id with
  | none => ran s
  | some o =>
    let u := o.unit unit
    let again := s.post (.atomicAtHome id unit)
    if u.done || u.sent then ran s
    else
      match o.kind, u.tgt with
      | .cstm m, _ =>
        let js := o.select (fun _ => true)
        if !js.all (s.mayPerform id o) then ran again
        else
          let r := s.commitUnits o m
          ran ((js.foldl (fun s j => s.doneUnit id j (leBytes r.1 4) false) r.2).tryEnd id)
      | .atomic code, .net d pa =>
        if !s.mayPerform id o unit then ran again
        else
          match s.channelTo o.ctx d with
          | none => ran (s.refuseUnits id [unit])
          | some (ch, _) => ran ((s.message ch 3 [.unit id unit] (atomicWords code pa u.size u.data)).markSent id [unit])
      | .atomic code, t =>
        if !s.mayPerform id o unit then ran again
        else if s.targetBad t u.size then ran (s.poisonRead o u t.span.2.2)
        else
          let r := s.atomicUnit o.core code t u.size u.data
          ran ((r.2.doneUnit id unit r.1 false).tryEnd id)
      | _, _ => ran s

/-! Windows. -/

/-- The buffer of a Creel window address, and its base (R332). -/
def creelBuf (pa : Nat) : Nat := (pa - 0x280000000000) / 0x800000000
def creelBase (b : Nat) : Nat := 0x280000000000 + b * 0x800000000

/-- WINDOW_ACCESS (R214, R332): a load reads what stands behind the address, a store writes it; the bytes of a store in
one line of a Creel window are one arrival, and a load there reads zero. Lanes of a load that read one aligned word bind
together (R204). -/
def execWindowAccess (id unit : Nat) (s : State) : Host.Outcome State Fault Refusal :=
  match s.ops.get? id with
  | none => ran s
  | some o =>
    let u := o.unit unit
    let again := s.post (.windowAccess id unit)
    if u.done || u.sent then ran s
    else if o.kind.reads then
      match s.bindWord id unit o with
      | some t => ran t
      | none => ran again
    else
      match u.tgt with
      | .creel pa =>
        let js := o.select (fun v => v.near u 128)
        if !js.all (s.mayPerform id o) then ran again
        else
          let b := creelBuf pa
          let data := js.flatMap (fun j =>
            (o.unit j).data.zipIdx.map (fun p => ((o.unit j).tgt.span.2.2 + p.2 - creelBase b, p.1)))
          let a : Arrival := { buf := b, data := data, src := .op id unit }
          ran ((s.markSent id js).post (.creelArrival a))
      | _ =>
        if !s.mayPerform id o unit then ran again
        else ran (((s.storeUnit o u).doneUnit id unit [] false).tryEnd id)

/-- A Creel arrival of a store is performed: every unit that was in it (R332). -/
def State.arrivedOp (s : State) (id unit : Nat) : State :=
  match s.ops.get? id with
  | none => s
  | some o =>
    let u := o.unit unit
    let js := (o.units.zipIdx.filter (fun q => q.1.sent && !q.1.done && q.1.near u 128)).map Prod.snd
    (js.foldl (fun s j => s.doneUnit id j [] false) s).tryEnd id

/-! Partials (R385, R386). -/

/-- PARTIAL_FLUSH (R385): a partial of another slice is added into the home's. -/
def execPartialFlush (line slice : Nat) (s : State) : Host.Outcome State Fault Refusal :=
  match s.partials.find? (fun p => p.line == line && p.slice == slice) with
  | none => ran s
  | some p =>
    let rest := s.partials.filter (fun q => q != p)
    let home := 2 ^ 16 + homeSlice line
    match findIx (fun q => q.line == line && q.slice == home) rest 0 with
    | some (i, q) => ran { s with partials := setAt rest i (q.join p) }
    | none => ran { s with partials := rest ++ [{ p with slice := home }] }

/-- HOME_PARTIAL_EVICTION (R386): the home merges the line. -/
def execHomePartialEviction (line : Nat) (s : State) : Host.Outcome State Fault Refusal := ran (s.mergeLine line)

end Sys2Proof.Machine
end

