-- ==== Sys2Proof/Machine/Arrival.lean ====
section
/-! DEFINITION. The fabric engine as a receiver: sequences and duplicates (R316, R317), exports (R311), holding (R314), the
message window (R309, R310), refusals (R217), and arrivals at a Creel (R332). -/

namespace Sys2Proof.Machine

open Sys2Proof

/-- What becomes of a request (R316): it is answered with a reason (0 for applied) and data, or held. -/
inductive FabRes where
  | done (s : State) (reason : Nat) (data : List Byte)
  | hold (s : State)

/-! Refusals (R217). -/

/-- KIND of a request in the violation log. -/
def reqKind (r : FabReq) : Nat := if msgBase ≤ r.addr then 3 else if r.std then 2 else if r.write then 1 else 0

/-- A refused request: logged, answered with its reason. -/
def State.refuseReq (s : State) (r : FabReq) (addr reason : Nat) : FabRes :=
  .done (s.violate (reqKind r) r.src r.ch addr reason) reason []

/-! Windows over the fabric (R314, R319). -/

/-- Whether a saved team of a context stood where a window address points: writes for it wait for its restore. -/
def State.savedAt (s : State) (ctx pa : Nat) : Bool :=
  let slots (w : Warp) : List Nat := match w.id.was with
    | some p => if w.id.wide then [p, p + 1] else [p]
    | none => []
  let warps := (s.warpsOf ctx).vals.filter (fun w => w.id.place.isNone)
  (s.ctx ctx).run == .saved && !(s.ctx ctx).terminated &&
  (match placeOf pa with
    | .scratch c o => s.teams.any (fun kv => kv.2.ctx == ctx && !kv.2.retired && kv.2.core.isNone && kv.2.was == c &&
        decide (kv.2.nbase ≤ o) && decide (o < kv.2.nbase + 0x2000 + kv.2.g))
    | .register c k _ _ _ => warps.any (fun w => (slots w).contains (c * 64 + k))
    | .tile c t _ _ => (s.ctx ctx).saves.any (fun k => k.core == c) && ((s.ctx ctx).tileMask.getD c 0).getLsbD t
    | .counter c o => (s.ctx ctx).saves.any (fun k => k.core == c) && ((s.ctx ctx).rcMask.getD c 0).getLsbD (o / 16)
    | .port c k _ _ _ => warps.any (fun w => w.id.was.map (fun p => p / 64) == some c &&
        (match w.id.weave with
          | some j => decide (4 * j ≤ k) && decide (k < 4 * j + (if w.id.wide then 8 else 4))
          | none => false))
    | .hole => false)

/-- Whether an access of a scratchpad window waits: for an absent line (R209), or for its port (R213). -/
def State.windowWaits (s : State) (n : Nat) : LaneR → Bool
  | .ok (.near t o) => (s.team t).absentAt o n || !s.nearIdle t
  | _ => false

/-- The lowest and the highest byte of a request, as an address and a length. -/
def reqSpan (r : FabReq) : Nat × Nat :=
  if r.write then
    let lo := lowestNat (2 ^ 16) (r.data.map Prod.fst)
    let hi := (r.data.map Prod.fst).foldl max 0
    (r.addr + lo, hi + 1 - lo)
  else (r.addr, r.len)

/-- The counter core of a window address. -/
def windowCore (pa : Nat) : Nat := (pa - 0x200000000000) / 0x4000000

/-- Reads at a physical address for a request; a guard granule reads as zero (R208). -/
def State.fabRead (s : State) (c : Chan) (r : FabReq) (pa n : Nat) : FabRes :=
  if inWindow pa || inCreel pa then
    let l := s.localLane c.ctx pa n false
    if s.windowWaits n l then .hold s
    else
      match l with
      | .ok (.near t o) => if (s.team t).poisonAt o n then s.refuseReq r pa 4 else .done s 0 (s.nearRead t o n)
      | .ok (.win a) => .done s 0 (s.winRead a n)
      | .ok (.creel _) => .done s 0 (List.replicate n 0)
      | .ok (.guard _ _) => .done s 0 (List.replicate n 0)
      | _ => s.refuseReq r pa 4
  else
    let q := s.homeRead 0 pa n
    .done q.2 0 q.1

/-- Bytes by address as runs of adjacent ones. -/
def runsOf (l : KMap Byte) : List (Nat × List Byte) :=
  l.foldr (fun p r => match r with
    | [] => [(p.1, [p.2])]
    | x :: t => if p.1 + 1 = x.1 then (p.1, p.2 :: x.2) :: t else (p.1, [p.2]) :: x :: t) []

/-- The bytes of a request by address, a set. -/
def bytesAt (l : List (Nat × Byte)) : KMap Byte := l.foldl (fun m p => m.set p.1 p.2) ([] : KMap Byte)

/-- What a landing's reduce operator leaves of a run of elements, given the old bytes (R251). -/
def reduced (rop code : Nat) (old new : List Byte) : List Byte :=
  if rop = 0 then new
  else
    let n := elemSize code
    (List.range (new.length / n)).flatMap (fun i =>
      leBytes (ropNew rop code (leNat ((old.drop (n * i)).take n)) (leNat ((new.drop (n * i)).take n))) n)

/-- Counts a landing of a copy at its window's core, and names the core to a one-sided collective (R319, R323). -/
def State.fabCount (s : State) (r : FabReq) (pa : Nat) : State × List Byte :=
  let core := windowCore pa
  let s1 := match r.rc with
    | some n => s.count core n r.data.length
    | none => s
  (s1, if r.virt then leBytes core 2 else [])

/-- What stands against a landing that is to be counted or signalled (R261, R262; log 40): 8 without a counter core, 9 for a
counter that is not the context's. -/
def State.uncountable (s : State) (c : Chan) (r : FabReq) (pa : Nat) : Option Nat :=
  if r.owes && !inWindow pa then some 8
  else
    match r.rc with
    | some n => if s.rcOk c.ctx (windowCore pa) n then none else some 9
    | none => none

/-- Writes the bytes of a request at a physical address, those for a saved team once it is restored (R314). -/
def State.fabWrite (s : State) (c : Chan) (r : FabReq) (pa n : Nat) (data : List (Nat × Byte)) : FabRes :=
  let bytes := bytesAt data
  let runs := runsOf bytes
  if inWindow pa && s.savedAt c.ctx pa then .hold s
  else
    match s.uncountable c r pa with
    | some k => .done s k []
    | none =>
      if inCreel pa then
        let b := creelBuf pa
        if s.switching 2 (b / 8) then .hold s else
        let q := s.arrive b (data.map (fun p => (p.1 - creelBase b, p.2)))
        if q.2 then .done q.1 0 [] else .hold q.1
      else if inWindow pa then
        let l := s.localLane c.ctx pa n false
        if s.windowWaits n l then .hold s
        else
          match l with
          | .ok (.near t o) =>
            let s1 := runs.foldl (fun s p =>
              let at0 := o + (p.1 - pa)
              s.nearWrite t at0 (reduced r.rop r.code (s.nearRead t at0 p.2.length) p.2)) s
            let whole := bytes.length = 128 && o % 128 == 0
            let q := (if whole then s1.unpoison t o else s1).fabCount r pa
            .done q.1 0 q.2
          | .ok (.guard _ _) => .done s 0 []
          | .ok (.win _) =>
            if r.rop != 0 then s.refuseReq r pa 4 else
            let q := (runs.foldl (fun s p => s.winWrite none p.1 p.2) s).fabCount r pa
            .done q.1 0 q.2
          | _ => s.refuseReq r pa 4
      else
        let new := runs.flatMap (fun p => (reduced r.rop r.code (s.peek p.1 p.2.length) p.2).zipIdx.map (fun q => (p.1 + q.2, q.1)))
        .done (s.homeWriteMany (lineOf pa) new) 0 []

/-! Messages (R309, R310). -/

/-- Whether the zero fields of a message are zero: an ATOMIC has an operand 1 for CAS and CAS64 only (R224, R310). -/
def msgOk (kind : Nat) (l : List Word) : Bool :=
  let w (i : Nat) : Nat := (nth l i 0).toNat
  let zero (is : List Nat) : Bool := is.all (fun i => w i == 0)
  let head := w 0 / 2 ^ 8 % 2 ^ 8 == 1 && w 1 / 2 ^ 10 == 0
  w 0 % 256 == kind &&
  (match kind with
    | 1 => w 0 / 2 ^ 8 == 0 && w 6 / 2 ^ 16 == 0 && zero (List.range' 7 9)
    | 2 => w 0 / 2 ^ 8 == 0 && bits (w 1) 15 9 == 0 && bits (w 1) 31 22 == 0 && zero (List.range' 3 13)
    | 3 => w 0 / 2 ^ 16 == 0 && zero [1] && zero (List.range' 8 8) && (zero [6, 7] || bits (w 0) 15 8 == 9 || bits (w 0) 15 8 == 14)
    | 4 => head && w 4 / 2 ^ 8 == 0 && w 6 / 2 ^ 10 == 0 && bits (w 7) 15 10 == 0 && zero (List.range' 8 8)
    | 5 => head && zero [13, 14, 15]
    | 6 => head && zero [13, 14, 15]
    | 7 => head
    | 8 => head
    | 9 => head && zero (List.range' 4 12)
    | 10 => head && zero (List.range' 5 11)
    | _ => false)

/-- Applies a SIGNAL (R264, R310): none while the context is saved; it is refused at a retired core, and answered 9 for a counter
that is not the context's (log 40). -/
def State.takeSignal (s : State) (m : Msg) : Option (State × Nat) :=
  let ctx := s.msgCtx m
  let core := bits (nth m.words 1 0).toNat 8 0
  let n := bits (nth m.words 1 0).toNat 21 16
  if (s.ctx ctx).run == .saved then none
  else if (s.core core).retired then some (s, 4)
  else if !s.rcOk ctx core n then some (s, 9)
  else some (s.count core n (nth m.words 2 0).toNat, 0)

/-- SIGNAL (R310). -/
def execSignalMsg (m : Msg) (s : State) : Host.Outcome State Fault Refusal :=
  match s.takeSignal m with
  | some r => ran r.1
  | none => ran (s.post (.signalMsg m))

/-- Applies an ATOMIC message (R224, R309, R310): what its target address may be is checked as for any atomic. -/
def State.takeAtomic (s : State) (m : Msg) (r : FabReq) (c : Chan) : FabRes :=
  let code := bits (nth m.words 0 0).toNat 15 8
  let pa := (pair (nth m.words 2 0) (nth m.words 3 0)).toNat
  let n := if 13 ≤ code then 8 else 4
  let data := ((bytesOfWords ((m.words.drop 4).take 2)).take n) ++ ((bytesOfWords ((m.words.drop 6).take 2)).take n)
  let r2 := { r with std := true, addr := pa }
  if decide (15 < code) || pa % n != 0 then s.refuseReq r r.addr 4
  else
    match s.exportBad c pa n true true with
    | some k => s.refuseReq r2 pa k
    | none =>
      let l := s.localLane c.ctx pa n true
      if s.windowWaits n l then .hold s
      else
        match l with
        | .ok (.guard _ _) => .done s 0 (List.replicate n 0)
        | .ok (.near t o) =>
          if (s.team t).poisonAt o n then s.refuseReq r2 pa 4
          else
            let q := s.atomicUnit noCore code (.near t o) n data
            .done q.2 0 q.1
        | .ok t =>
          let q := s.atomicUnit noCore code t n data
          .done q.2 0 q.1
        | _ => s.refuseReq r2 pa 4

/-- ATOMIC (R310). -/
def execAtomicMsg (m : Msg) (s : State) : Host.Outcome State Fault Refusal :=
  let r : FabReq := { ch := m.ch, seq := 0, pred := 0, sold := 0, valid := true, std := false, write := true, addr := msgBase + 3 * 2 ^ 36,
                      data := [], len := 64 }
  match s.takeAtomic m r (s.chan m.ch) with
  | .done t _ _ => ran t
  | .hold t => ran (t.post (.atomicMsg m))

/-- Takes a message-window request (R309). -/
def State.takeMessage (s : State) (r : FabReq) (c : Chan) : FabRes :=
  let o := r.addr - msgBase
  let kind := o / 2 ^ 36
  let bytes := (List.range 64).map (fun i => ((r.data.find? (fun p => p.1 == i)).map Prod.snd).getD 0)
  let m : Msg := { ch := r.ch, words := wordsOf bytes, covers := r.covers }
  if !r.write || r.std || r.len != 64 || o % 2 ^ 16 != 0 || o / 2 ^ 16 % 2 ^ 20 != r.ch || !msgOk kind m.words ||
      (r.covers != 1 && decide (kind < 4)) then s.refuseReq r r.addr 4
  else
    match kind with
    | 1 =>
      let q := s.takeChime m
      (match q.2 with
        | some k => .done q.1 k []
        | none => .hold q.1)
    | 2 =>
      (match s.takeSignal m with
        | some (t, k) => if k = 4 then t.refuseReq r r.addr 4 else .done t k []
        | none => .hold s)
    | 3 => s.takeAtomic m r c
    | _ =>
      let q := s.takeColl kind m
      match q.2 with
      | none => .hold q.1
      | some 0 => .done q.1 0 []
      | some k => q.1.refuseReq r r.addr k

/-! Requests (R316). -/

/-- The physical address of a request: its own, or for a one-sided collective the translation of its address under the
context's tables with store permission (R322). -/
def State.fabAddr (s : State) (c : Chan) (r : FabReq) : Trans :=
  if !r.virt then .ok 0 r.addr
  else
    match s.reach noCore c.ctx 7 0 (BitVec.ofNat 64 (reqSpan r).1) .store with
    | .ok e pa => if leafTarget e = 0 || (leafTarget e = 2 && leafDevice e == s.fab.device) then .ok e (pa + r.addr - (reqSpan r).1) else .prot
    | t => t

/-- Whether a request's bytes lie within one line (R306). -/
def lineReq (r : FabReq) : Bool :=
  let q := reqSpan r
  decide (1 ≤ q.2) && decide (q.1 % 128 + q.2 ≤ 128)

/-- Applies or refuses a request, or holds it. One that leaves its line is not served (R306). -/
def State.fabApply (s : State) (c : Chan) (r : FabReq) : FabRes :=
  if !r.virt && decide (msgBase ≤ r.addr) then s.takeMessage r c
  else if r.std || !lineReq r then s.refuseReq r r.addr 4
  else
    match s.fabAddr c r with
    | .replay =>
      .hold (s.await { who := .fabric r.ch r.seq.toNat, core := noCore, ctx := c.ctx, uid := 0, va := BitVec.ofNat 64 (reqSpan r).1, kind := 1,
                       lanes := 0, page := (reqSpan r).1 / 4096 })
    | .prot => s.refuseReq r r.addr 2
    | .world => s.refuseReq r r.addr 3
    | .ok _ base =>
      let lo := (reqSpan r).1 - r.addr
      let n := (reqSpan r).2
      let s := s.scan 0 c.exports (16 * c.nexport)
      match s.exportBad c (base + lo) n (!r.write) r.write with
      | some k => s.refuseReq r (base + lo) k
      | none =>
        if r.write then s.fabWrite c r (base + lo) n (r.data.map (fun p => (base + p.1, p.2))) else s.fabRead c r (base + lo) n

/-- Whether a sequence has been applied on a channel: it lies below RBASE, or its bit is set (R316). -/
def Chan.applied (c : Chan) (q : BitVec 16) : Bool :=
  let d := (q - c.rbase).toNat
  decide (256 ≤ d) || c.rbitmap.getLsbD d

/-- RBITMAP and RBASE move past applied sequences. -/
def Chan.slide (c : Chan) : Nat → Chan
  | 0 => c
  | n + 1 => if c.rbitmap.getLsbD 0 then ({ c with rbitmap := c.rbitmap >>> 1, rbase := c.rbase + 1 }).slide n else c

/-- An answer to a request. -/
def State.respond (s : State) (r : FabReq) (reason : Nat) (data : List Byte) : State :=
  s.emit (.response r.ch { ch := (s.chan r.ch).peerCh, seq := r.seq, reason := reason, data := data })

/-- A request is applied or refused for good: its result is kept, its bit set, and it is answered (R316). -/
def State.fabDone (s : State) (r : FabReq) (reason : Nat) (data : List Byte) : State :=
  let c := s.chan r.ch
  let c1 := { c with ring := c.ring.set (r.seq.toNat % 256) (reason, if r.write then data.take 16 else []),
                     rbitmap := c.rbitmap ||| (1#256 <<< (r.seq - c.rbase).toNat), used := s.tick }
  (s.putChan r.ch (c1.slide 256)).respond r reason data

/-- What becomes of a request on a cached channel (R316): one that was applied before is answered from the result ring, but a
read, which is read again, and counted once; others are applied or refused once the request before them on their hash lane has been. -/
def State.serve (s : State) (r : FabReq) : FabRes :=
  let c := s.chan r.ch
  if c.applied r.seq then
    let s1 := if r.dup then s else s.putChan r.ch { c with dups := min 0xFFFFFFFF (c.dups + 1) }
    let kept := c.ring.getD (r.seq.toNat % 256) (0, [])
    if r.write then .done (s1.respond r kept.1 kept.2) 0 []
    else
      match s1.fabApply c r with
      | .done t reason data => .done (t.respond r reason data) 0 []
      | .hold t => .hold t
  else if !(r.pred == r.seq || c.applied r.pred) then .hold s
  else
    match s.fabApply c r with
    | .done t reason data => .done (t.fabDone r reason data) 0 []
    | .hold t => .hold t

/-- A request that waits takes one of its channel's holding entries (R314). -/
def State.hold (s : State) (r : FabReq) : State :=
  let c := s.chan r.ch
  if r.held then s else s.putChan r.ch { c with holding := c.holding ++ [{ r with held := true }] }

/-- A request that does not wait any more gives its holding entry back. -/
def State.unhold (s : State) (r : FabReq) : State :=
  let c := s.chan r.ch
  if r.held then s.putChan r.ch { c with holding := dropFirst (fun q => q.seq == r.seq) c.holding } else s

/-- A request is served on a cached channel, or held to be served again. -/
def State.take (s : State) (r : FabReq) : State :=
  match s.serve r with
  | .done t _ _ => t.unhold r
  | .hold t => (t.hold r).post (.fabricRequestArrival { r with held := true, dup := (s.chan r.ch).applied r.seq })

/-- FABRIC_REQUEST_ARRIVAL (R307, R312, R314 to R317). -/
def execFabricRequestArrival (r : FabReq) (s : State) : Host.Outcome State Fault Refusal :=
  let refuse : State := (s.violate (reqKind r) r.src r.ch r.addr 1).respond r 1 []
  if (List.range 4).any (s.switching 1) then ran (s.post (.fabricRequestArrival r)) else
  match s.chans.get? r.ch with
  | none => ran refuse
  | some c =>
    if !r.valid then ran refuse
    else if r.held && !c.holding.any (fun q => q.seq == r.seq) then ran s
    else
      match c.st with
      | .evicted => ran (((s.putChan r.ch { c with st := .fetching }).hold r).post (.channelFetchComplete r.ch))
      | .fetching => ran (s.hold r)
      | _ => ran (s.take r)

/-- CHANNEL_FETCH_COMPLETE (R312): the entry is read, and waiting requests proceed in arrival order. With 4,096 entries cached
the least recently used idle channel is evicted first, and without one the fetch waits. -/
def execChannelFetchComplete (ch : Nat) (s : State) : Host.Outcome State Fault Refusal :=
  match s.chans.get? ch with
  | none => ran s
  | some c =>
    if c.st != .fetching then ran s
    else
      let cached := (s.chans.filter (fun kv => kv.2.st == .cached || kv.2.st == .closing)).length
      let free := if cached < 4096 then some s else s.idleChan.map (fun k => s.putChan k { s.chan k with st := .evicted })
      match free with
      | none => ran (s.post (.channelFetchComplete ch))
      | some s1 =>
        let s2 := s1.putChan ch { c with st := .cached, used := s.tick }
        ran ((c.holding.foldl State.take s2).pump ch c.unsent.length)

/-! Arrivals at a Creel (R332). -/

/-- CREEL_ARRIVAL (R332 to R335): what waited for it hears of it once it is stored or dropped. -/
def execCreelArrival (a : Arrival) (s : State) : Host.Outcome State Fault Refusal :=
  if s.switching 2 (a.buf / 8) then ran (s.post (.creelArrival a)) else
  let q := s.arrive a.buf a.data
  if !q.2 then ran (q.1.post (.creelArrival a))
  else
    match a.src with
    | .op id unit => ran (q.1.arrivedOp id unit)
    | .copy id ix => ran (q.1.landingAnswer id ix 0 none)
    | .fabric ch seq =>
      ran (q.1.emit (.response ch { ch := (q.1.chan ch).peerCh, seq := seq, reason := 0, data := [] }))

end Sys2Proof.Machine
end

