-- ==== Sys2Proof/Machine/Place.lean ====
section
/-! DEFINITION. Placement: what a core can hold (R39, R40, R359), where gangs and weave groups go (R210, R230, R231), AVOID
(R360), and a team's start on its core (R67 to R69, R116, R207, R262, R287, R357). -/

namespace Sys2Proof.Machine

open Sys2Proof

/-! What a core can hold. -/

/-- A warp's footprint in its partition's register bank; twice for width 64 (R39, R40). -/
def kernelFoot (k : Kernel) : Nat :=
  let n := (if k.vregs = 128 then 128 else k.vregs + 2) + (if k.lanePorts then 8 else 0)
  (n + 7) / 8 * 8 * (if k.wide then 2 else 1)

/-- What is taken of a core: slots, registers of each partition, weave indices, and spans of the scratchpad. -/
structure Taken where
  slots : List Nat := []
  regs : List Nat := [0, 0, 0, 0, 0, 0, 0, 0]
  weave : List Nat := []
  spans : List (Nat × Nat) := []
  deriving Repr

/-- Slots of a warp that starts at one. -/
def slotsAt (wide : Bool) (k : Nat) : List Nat := if wide then [k, k + 1] else [k]

/-- The footprint of a resident warp. -/
def Warp.foot (w : Warp) : Nat :=
  let n := (if w.id.nregs = 128 then 128 else w.id.nregs + 2) + (if w.id.lanePorts then 8 else 0)
  (n + 7) / 8 * 8 * (if w.id.wide then 2 else 1)

/-- One more warp on a core. -/
def Taken.add (t : Taken) (wide : Bool) (foot slot : Nat) (weave : Option Nat) : Taken :=
  { t with
    slots := t.slots ++ slotsAt wide slot
    regs := setAt t.regs (slot / 8) (nth t.regs (slot / 8) 0 + foot)
    weave := t.weave ++ (match weave with | some k => slotsAt wide k | none => []) }

/-- What the resident warps and teams take of a core. -/
def State.taken (s : State) (core : Nat) : Taken :=
  let ws := s.warps.filter (fun kv => kv.2.id.place.isSome && kv.2.core == core && !kv.2.retired)
  let t := ws.foldl (fun t kv => t.add kv.2.id.wide kv.2.foot kv.2.slot kv.2.id.weave) ({} : Taken)
  let here := s.teams.filter (fun kv => kv.2.core == some core && !kv.2.retired)
  { t with spans := here.map (fun kv => (kv.2.nbase, kv.2.nbase + 0x2000 + kv.2.g)) }

/-- The first number of a list from 0 in steps that fits. -/
def firstFit (n step : Nat) (ok : Nat → Bool) : Option Nat := ((List.range (n / step)).map (fun i => i * step)).find? ok

/-- A slot, and a weave index when one is needed, for one warp (R24, R40, R231). -/
def Taken.slotFor (t : Taken) (wide : Bool) (foot : Nat) (weave : Bool) : Option (Nat × Option Nat) :=
  let step := if wide then 2 else 1
  let free (l : List Nat) (k : Nat) : Bool := (slotsAt wide k).all (fun x => !l.contains x)
  match firstFit 64 step (fun k => free t.slots k && decide (nth t.regs (k / 8) 512 + foot ≤ 512)) with
  | none => none
  | some k =>
    if weave then (firstFit 32 step (free t.weave)).map (fun j => (k, some j)) else some (k, none)

/-- Slots for several like warps. -/
def Taken.slotsFor (t : Taken) (wide : Bool) (foot : Nat) (weave : Bool) : Nat → Option (List (Nat × Option Nat) × Taken)
  | 0 => some ([], t)
  | n + 1 =>
    match t.slotFor wide foot weave with
    | none => none
    | some q =>
      match (t.add wide foot q.1 q.2).slotsFor wide foot weave n with
      | some r => some (q :: r.1, r.2)
      | none => none

/-- A free span of the scratchpad window (R359; log 13): at its start or behind another span. -/
def Taken.spanFor (t : Taken) (len : Nat) : Option Nat :=
  (0 :: t.spans.map Prod.snd).find? (fun b =>
    decide (b + len ≤ 0x800000) && t.spans.all (fun q => decide (q.2 ≤ b) || decide (b + len ≤ q.1)))

/-- G of a scratchpad size with its guards (R206). -/
def spanOf (size : Nat) : Nat := (size + 0xFFFF) / 0x10000 * 0x10000 + 0x2000

/-- Room for a team of a kernel: its warps' slots and its place in the scratchpad. -/
def Taken.teamFor (t : Taken) (k : Kernel) (size : Nat) : Option (List (Nat × Option Nat) × Nat × Taken) :=
  match t.slotsFor k.wide (kernelFoot k) k.weave k.warps, t.spanFor (spanOf size) with
  | some (l, u), some b => some (l, b, { u with spans := u.spans ++ [(b, b + spanOf size)] })
  | _, _ => none

/-- Whether one team can be held at all under R40. -/
def holdable (k : Kernel) : Bool := (({} : Taken).slotsFor k.wide (kernelFoot k) k.weave k.warps).isSome

/-- How many teams an empty core holds. -/
def capacity (k : Kernel) (size : Nat) : Nat → Taken → Nat
  | 0, _ => 0
  | n + 1, t =>
    match t.teamFor k size with
    | some (_, _, u) => capacity k size n u + 1
    | none => 0

/-! Which cores qualify. -/

/-- Whether a core may take work of a context (R359, R407, R423, R425). -/
def State.usable (s : State) (ctx core : Nat) : Bool :=
  !(s.core core).retired && (s.core core).replay.isNone && !s.switching 0 (dieOf core) && !(s.die (dieOf core)).off && (s.ctx ctx).share.contains core

/-- A grid's scratchpad size. -/
def Grid.scratch (g : Grid) : Nat := (nth g.desc.words 8 0).toNat

/-- Whether a core has room for a team of a grid. -/
def State.roomOn (s : State) (g : Grid) (k : Kernel) (core : Nat) : Bool :=
  s.usable g.ctx core && ((s.taken core).teamFor k g.scratch).isSome

/-- How many of some cores are in AVOID. -/
def State.avoided (s : State) (l : List Nat) : Nat := (l.filter (fun c => (s.core c).avoid)).length

/-- The sets of cores with the fewest AVOID cores (R359; log 45): one is chosen only when no other core qualifies. -/
def State.prefer (s : State) (l : List (List Nat)) : List (List Nat) :=
  match l with
  | [] => []
  | x :: t =>
    let least := t.foldl (fun n y => min n (s.avoided y)) (s.avoided x)
    l.filter (fun y => s.avoided y == least)

/-- A free choice from a list. -/
def State.pickFrom (s : State) (salt : Nat) (l : List (List Nat)) : Option (List Nat) := l[s.choose salt l.length]?

/-- Ways to take `n` of a list's elements in order. -/
def chooseN {α : Type} : Nat → List α → List (List α)
  | 0, _ => [[]]
  | _ + 1, [] => []
  | n + 1, x :: t => (chooseN n t).map (fun l => x :: l) ++ chooseN (n + 1) t

/-- Whether a quad holds a team of a gang. -/
def State.quadGang (s : State) (quad : Nat) : Bool :=
  s.teams.any (fun kv => !kv.2.retired && kv.2.gang != 0 && (kv.2.core.map quadOf) == some quad)

/-- The core at a column and row of a die (R12). -/
def coreAt (die col row : Nat) : Nat := die * 96 + ((row / 2) * 6 + col / 2) * 4 + (col % 2 + 2 * (row % 2))

/-- The dies in the order of the ring (R10). -/
def ringDies : List Nat := [0, 1, 3, 2]

/-- The die that lies some steps along the ring from a die (R10). -/
def ringStep (die steps : Nat) : Nat :=
  match findIx (fun d => d == die) ringDies 0 with
  | some (i, _) => nth ringDies ((i + steps) % 4) 0
  | none => die

/-- The cores of a weave grid from an origin, in team order (R230). -/
def weaveCores (g : Grid) (col row die : Nat) : List Nat :=
  (List.range g.gz).flatMap (fun z => (List.range g.gy).flatMap (fun y =>
    (List.range g.gx).map (fun x => coreAt (ringStep die z) (col + x) (row + y))))

/-- Every origin of a weave grid, as its cores. -/
def weavePlaces (g : Grid) : List (List Nat) :=
  (List.range 4).flatMap (fun d => (List.range (9 - g.gy)).flatMap (fun r =>
    (List.range (13 - g.gx)).map (fun c => weaveCores g c r d)))

/-- The cores on which the next teams of a grid may go together: a weave group, a gang on a quad, or one team (R359). -/
def State.places (s : State) (g : Grid) (k : Kernel) : List (List Nat) :=
  if k.weave then (weavePlaces g).filter (fun l => l.all (s.roomOn g k))
  else if g.gang != 0 then
    (List.range 96).flatMap (fun q =>
      if s.quadGang q then [] else chooseN g.gang ((List.range' (4 * q) 4).filter (s.roomOn g k)))
  else ((List.range 384).filter (s.roomOn g k)).map (fun c => [c])

/-! A team's start (R67 to R69). -/

/-- SRNG of a thread at launch (R120). -/
def launchRng (seed : Word) (tidx : Nat) : Word := seed ^^^ (BitVec.ofNat 32 tidx * 0x2C1B3C6D)

/-- A warp at launch (R38, R69, R77). -/
def newWarp (g : Grid) (o : CodeObj) (k : Kernel) (debug : Bool) (team w threads core slot : Nat) (weave : Option Nat) : Warp :=
  let d (i : Nat) : Word := nth g.desc.words i 0
  let width := if k.wide then 64 else 32
  let live := maskOf ((List.range width).filter (fun l => decide (w * width + l < threads)))
  let data : Addr := BitVec.ofNat 64 o.data
  { id := { ctx := g.ctx, grid := g.id, team := team, w := w, wide := k.wide, nregs := k.vregs, obj := o.handle,
            mode := if debug then .debugCheck else if o.interlock then .interlocked else .native,
            lanePorts := k.lanePorts, weave := weave, place := some (core * 64 + slot) }
    live := live
    regs := { fill := (d 9).getLsbD 7, s := [(0, d 6), (1, d 7), (2, data.setWidth 32), (3, data.extractLsb' 32 32)] }
    ctl := { part := if k.wide then 6 else 5, fmode := d 9,
             srng := (List.range width).map (fun l => (l, launchRng (d 10) (w * width + l))) }
    iss := { frontier := addEntry [] { pc := BitVec.ofNat 64 (o.text + k.entry), prio := 0, mask := live } } }

/-- The first team of a context on a core finds its counters idle, its tiles and the magnitude table as R262, R287 and R116
say; what an LQTBL of another context still has to write there is lost. -/
def State.firstOn (s : State) (ctx core : Nat) : State :=
  if (s.ctx ctx).cores.contains core then s
  else
    let tm := (s.ctx ctx).tileMask.getD core 0
    let rm := (s.ctx ctx).rcMask.getD core 0
    let s1 := { s with tiles := s.tiles.keep (fun k _ => !(k / 2 ^ 18 == core && tm.getLsbD (k / 2 ^ 14 % 16))) }
    (s1.modCore core (fun c => { c.handOver tm with mag := [], rcs := c.rcs.keep (fun n _ => !rm.getLsbD n) })).modCtx ctx
      (fun c => { c with cores := c.cores ++ [core] })

/-- Before a placed team issues, its core's L1 is emptied (R357). -/
def State.emptyL1 (s : State) (core : Nat) : State := s.modCore core (fun k => { k with l1 := [] })

/-- Places the next team of a grid on a core with room for it. -/
def State.placeTeam (s : State) (ctx grid : Nat) (o : CodeObj) (k : Kernel) (core : Nat) : State :=
  let g := s.grid ctx grid
  let d (i : Nat) : Nat := (nth g.desc.words i 0).toNat
  let threads := (d 4 % 2 ^ 10) * (d 4 / 2 ^ 10 % 2 ^ 10) * (d 4 / 2 ^ 20 % 2 ^ 10)
  match (s.taken core).teamFor k g.scratch with
  | none => s
  | some (slots, base, _) =>
    let s0 := (s.firstOn ctx core).emptyL1 core
    let t := s0.fresh
    let ids := (List.range k.warps).map (fun w => t + 1 + w)
    let team : Team := { ctx := ctx, grid := grid, index := g.placed, core := some core, was := core, warps := ids,
                         threads := threads, wide := k.wide, size := g.scratch, nbase := base, gang := g.gang }
    let warps := (slots.zipIdx).foldl (fun m q =>
      m.set (t + 1 + q.2) (newWarp g o k (s.ctx ctx).d.debug t q.2 threads core q.1.1 q.1.2)) s0.warps
    let s1 := { s0 with
      fresh := t + 1 + k.warps
      teams := s0.teams.set t team
      warps := warps
      grids := s0.grids.modify (gridKey ctx grid) (fun x => { x with placed := x.placed + 1 }) }
    let first := (slots.head?.map Prod.fst).getD 0
    let s2 := s1.trace ctx 2 core grid team.index 0 first (s1.core core).cyc
    (s2.openSeg t core).startSampling ctx core

/-- Places one team after another on a list of cores. -/
def State.placeTeams (s : State) (ctx grid : Nat) (o : CodeObj) (k : Kernel) : List Nat → State
  | [] => s
  | c :: t => (s.placeTeam ctx grid o k c).placeTeams ctx grid o k t

/-! AVOID (R360). -/

/-- A placement decision of a die looks at the temperature and the droops of each of its cores. -/
def Core.consider (c : Core) (reg : Word) (n : Nat) : Core :=
  let thot := reg.toNat % 256
  let dmax := bits reg.toNat 19 8
  let drops := (c.droops.filter (fun d => decide (n < d + 4096))).length
  let cool := decide (c.temp + 6 ≤ thot) && decide (drops < dmax)
  let calm := if cool then c.calm + 1 else 0
  if decide (thot ≤ c.temp) || decide (dmax ≤ drops) then { c with avoid := true, calm := 0 }
  else if c.avoid && decide (3 ≤ calm) then { c with avoid := false, calm := 0 }
  else { c with calm := calm }

/-- What a placement decision on some dies makes of AVOID on their cores. -/
def State.consider (s : State) (dies : List Nat) : State :=
  { s with cores := s.cores.mapv (fun c k =>
      if dies.contains (dieOf c) then k.consider (s.die (dieOf c)).placement (s.die (dieOf c)).placements else k) }

/-- The placement decision that put teams on some cores: it was one of the dies that took them, and each placement counts
there (R360; log 45). -/
def State.decided (s : State) (cores : List Nat) : State :=
  cores.foldl (fun s c => s.modDie (dieOf c) (fun k => { k with placements := k.placements + 1 })) (s.consider (cores.map dieOf))

/-- PLACEMENT_REGISTER_WRITE (R360): THOT outside 60 to 125 is ignored; bits 31:20 stay zero. -/
def execPlacementRegisterWrite (die : Nat) (v : Word) (s : State) : Host.Outcome State Fault Refusal :=
  let thot := v.toNat % 256
  if decide (thot < 60) || decide (125 < thot) then ran s
  else ran (s.modDie die (fun d => { d with placement := v &&& 0xFFFFF }))

/-- DROOP_EVENT (R360): a core's supply monitor reports; it counts for the die's next 4,096 placements. -/
def execDroopEvent (core : Nat) (s : State) : Host.Outcome State Fault Refusal :=
  ran (s.modCore core (fun k => { k with droops := k.droops ++ [(s.die (dieOf core)).placements] }))

/-! Which context goes first (R356, R361). -/

/-- The reference count of a code object: its loads in every context that are not undone (R417). -/
def State.loads (s : State) (h : Nat) : Nat :=
  (s.ctxs.map (fun kv => if kv.2.unloaded.contains h then 0 else (kv.2.objs.filter (fun o => o.handle == h)).length)).sum

/-- The object and kernel of a descriptor in a context. -/
def State.kernelOf (s : State) (ctx : Nat) (l : Launch) : Option (CodeObj × Kernel) :=
  match (s.ctx ctx).objs.find? (fun o => o.handle == (nth l.words 0 0).toNat) with
  | none => none
  | some o => (o.kernels[(nth l.words 1 0).toNat % 2 ^ 16]?).map (fun k => (o, k))

/-- A context's priority: that of its most urgent live grid. -/
def State.ctxPrio (s : State) (ctx : Nat) : Nat :=
  ((s.grids.filter (fun kv => kv.2.ctx == ctx && !kv.2.retired)).map (fun kv => kv.2.prio)).foldl max 0

/-- Places the next teams of a grid that go together; none when they do not fit. -/
def State.placeSome (s : State) (ctx grid : Nat) (o : CodeObj) (k : Kernel) (salt : Nat) : Option State :=
  match s.pickFrom salt ((s.consider ringDies).prefer (s.places (s.grid ctx grid) k)) with
  | some l => some ((s.decided l).placeTeams ctx grid o k l)
  | none => none

/-- Places all teams of a COSCHED grid; none when they do not all fit. -/
def State.coSched (s : State) (ctx grid : Nat) (o : CodeObj) (k : Kernel) : Nat → Option State
  | 0 => none
  | n + 1 =>
    if (s.grid ctx grid).teams ≤ (s.grid ctx grid).placed then some s
    else
      match s.placeSome ctx grid o k (9200000 + n) with
      | none => none
      | some t => t.coSched ctx grid o k n

/-- Places what a grid may place next; none when nothing fits. -/
def State.placeNext (s : State) (ctx grid : Nat) : Option State :=
  let g := s.grid ctx grid
  match s.kernelOf ctx g.desc with
  | none => none
  | some (o, k) =>
    if (nth g.desc.words 1 0).getLsbD 18 then s.coSched ctx grid o k (g.teams + 1)
    else s.placeSome ctx grid o k 9200000

end Sys2Proof.Machine
end

