-- ==== Sys2Proof/Machine/Launch.lean ====
section
/-! DEFINITION. The launch engine: the checks of a launch (R355), grids (R356), host queues and their packets (R350 to
R353), GLAUNCH, GWAIT and GSTAT (R377 to R379), and pre-emption with restore (R361 to R364). -/

namespace Sys2Proof.Machine

open Sys2Proof

/-! The checks of R355. -/

/-- Words of a descriptor as numbers. -/
def Launch.d (l : Launch) (i : Nat) : Nat := (nth l.words i 0).toNat

/-- Threads of a team (R354). -/
def Launch.threads (l : Launch) : Nat := (l.d 4 % 2 ^ 10) * (l.d 4 / 2 ^ 10 % 2 ^ 10) * (l.d 4 / 2 ^ 20 % 2 ^ 10)

/-- Teams of a grid (R354). -/
def Launch.teams (l : Launch) : Nat := (l.d 2 % 2 ^ 16) * (l.d 2 / 2 ^ 16) * (l.d 3 % 2 ^ 16)

/-- Whether a zero field or a range of R354 is broken. -/
def Launch.badField (l : Launch) : Bool :=
  let gang := l.d 5 % 8
  bits (l.d 1) 31 19 != 0 || l.teams == 0 || l.d 3 / 2 ^ 16 != 0 || l.threads == 0 || bits (l.d 4) 31 30 != 0 ||
  (gang != 0 && gang != 2 && gang != 4) || bits (l.d 5) 31 5 != 0

/-- Teams of a kernel that the share of a context holds at once (R355, R359). -/
def State.holds (s : State) (ctx : Nat) (l : Launch) (k : Kernel) : Nat :=
  let g : Grid := { ctx := ctx, desc := l }
  let size := l.d 8
  if k.weave then (if (weavePlaces g).any (fun p => p.all (s.usable ctx)) then l.teams else 0)
  else if k.gang != 0 then
    k.gang * ((List.range 96).filter (fun q =>
      decide (k.gang ≤ ((List.range' (4 * q) 4).filter (s.usable ctx)).length))).length
  else ((List.range 384).filter (s.usable ctx)).length * capacity k size 64 {}

/-- The first reason to refuse a launch (R355). -/
def State.refusal (s : State) (ctx : Nat) (l : Launch) : Option Nat :=
  if l.badField then some 1
  else
    match (if s.loads (l.d 0) = 0 then none else s.kernelOf ctx l) with
    | none => some 2
    | some (_, k) =>
      let width := if k.wide then 64 else 32
      if k.trap then some 2
      else if l.d 5 % 8 != k.gang || bitAt (l.d 5) 3 != k.weave || bitAt (l.d 5) 4 != k.wide ||
          decide (l.threads < (k.warps - 1) * width + 1) || decide (k.warps * width < l.threads) then some 3
      else if decide (l.d 8 < k.scratch) || decide (0x7F0000 < l.d 8) || !holdable k then some 4
      else if (k.gang != 0 && l.teams % k.gang != 0) ||
          (k.weave && (k.gang != 0 || decide (12 < l.d 2 % 2 ^ 16) || decide (8 < l.d 2 / 2 ^ 16) || decide (4 < l.d 3 % 2 ^ 16))) then
        some 5
      else if !fmodeOk (nth l.words 9 0) then some 6
      else if bitAt (l.d 1) 18 && decide (s.holds ctx l k < l.teams) then some 7
      else if l.queue.isSome && bits (l.d 1) 17 16 != 0 then some 8
      else none

/-! Grids (R356, R357). -/

/-- Whether the grid table is full (R357, R402). -/
def State.tableFull (s : State) : Bool := decide (4096 ≤ s.grids.length + (s.kept.map (fun g => g.grids.length)).sum)

/-- The next grid id that no grid of the context in the table has (R356). -/
def State.freeGridId (s : State) (ctx : Nat) : Nat → Nat → Nat
  | 0, i => i
  | n + 1, i =>
    let j := if i = 0 || 0xFFFFFF < i then 1 else i
    if (s.grids.get? (gridKey ctx j)).isSome then s.freeGridId ctx n (j + 1) else j

/-- Accepts a launch: the grid's id, and the state with it (R356, R399). -/
def State.accept (s : State) (ctx die : Nat) (l : Launch) (level : Nat) : Nat × State :=
  let id := s.freeGridId ctx 4097 (s.ctx ctx).nextGrid
  let parent := l.parent.map (s.grid ctx)
  let prio := match parent with | some p => min (bits (l.d 1) 17 16) p.prio | none => level
  let g : Grid := { ctx := ctx, id := id, desc := l, kern := (s.kernelOf ctx l).map Prod.snd,
                    depth := (parent.map (fun p => p.depth + 1)).getD 0, prio := prio, die := die }
  let arg := match l.parent, l.queue with | some p, _ => p | none, some q => q + 2 ^ 32 | none, none => 0
  let s1 := { s with grids := s.grids.set (gridKey ctx id) g }.modCtx ctx (fun c => { c with nextGrid := id + 1 })
  (id, (s1.trace ctx 1 0 id 0 0 arg (s.die die).mesh).post (.teamPlace ctx id))

/-- The status of a refused launch (R355). -/
def refusedWord (reason : Nat) : Word := statusWord true true 0x08 reason

/-- A refused host launch writes its completion word, at once or when its page has come (R355, R358). -/
def State.refuseWord (s : State) (ctx die : Nat) (l : Launch) (reason : Nat) : State :=
  if l.completion = 0 then s
  else
    match s.complete ctx die 0 l.completion (refusedWord reason) with
    | some t => t
    | none =>
      let id := 2 ^ 24 + s.fresh
      State.post { s with
        fresh := s.fresh + 1
        words := s.words.set id { ctx := ctx, die := die, addr := l.completion, word := refusedWord reason } }
        (.gridRetire ctx id)

/-! GLAUNCH, GWAIT, GSTAT (R377 to R379). -/

/-- Applies a launch request whose dependence is satisfied (R378, R379). -/
def State.applyGrid (s : State) (id : Nat) : State :=
  match s.reqs.get? id with
  | none => s
  | some r =>
    match r.kind with
    | .gLaunch =>
      let l : Launch := { words := r.args, parent := some (s.warp r.uid).id.grid }
      if s.tableFull then s.post (.releaseNotice id)
      else
        match s.refusal r.ctx l with
        | some why => (s.refuseWord r.ctx (dieOf r.core) l why).endReq id (refusedWord why)
        | none =>
          let a := s.accept r.ctx (dieOf r.core) l 0
          a.2.endReq id (statusWord true false 0 a.1)
    | .gWait =>
      let g := (nth r.args 0 0).toNat
      match (if 2 ^ 24 ≤ g then none else s.grids.get? (gridKey r.ctx g)) with
      | none => s.endReq id (statusWord true true 0x08 (g % 2 ^ 24))
      | some x =>
        if x.retired then s.endReq id (statusWord true false 0 g)
        else { s with reqs := s.reqs.set id { r with begun := true } }
    | _ => s

/-- GLAUNCH and GWAIT statuses of a warp that are pending. -/
def State.gridReqs (s : State) (uid : Nat) : Nat :=
  (s.reqs.filter (fun kv => kv.2.uid == uid && (kv.2.kind == .gLaunch || kv.2.kind == .gWait))).length

/-- Whether the team leader is in the active mask: lane 0 of warp 0, or else the lowest active lane of the lowest live warp. It
is the lowest active lane then. -/
def Cx.leads (c : Cx) (s : State) : Bool :=
  let t := s.team c.w.id.team
  if (s.warpIn t 0).any (fun p => p.2.live.getLsbD 0) then c.w.id.w == 0 && c.mask.getLsbD 0
  else (t.warps.map s.warp).all (fun w => w.live == 0 || decide (c.w.id.w ≤ w.id.w))

/-- GLAUNCH (R378). -/
def execGlaunch (o : FMx) (s : State) : Host.Outcome State Fault Refusal :=
  s.runTarget o.sw (fun c s => do
    c.noXp
    let v ← c.resolve 0 c.mask none o.v.toNat 1
    match c.w.badReg none v 1, (List.range' v 14).find? (fun r => !c.w.validV r) with
    | none, some r => .error (regBound 0 r c.mask)
    | _, _ => .ok ()
    let one := laneBit c.lane
    if c.leads s then do
      c.touch s ((List.range' v 13).map (fun r => RegName.v r one) ++ [.v (v + 13) one])
      c.bWrites s [v + 13] one
    else .ok ()
    if (s.grid c.ctx c.w.id.grid).depth = 10 then .error (.trap { cause := 0x14, info1 := 10 })
    else if !c.leads s then .error (trapLane 0x08 c.lane 0)
    else if o.p = 15 then .error (trapOf 0x0B)
    else if decide (8 ≤ s.gridReqs c.uid) || s.tableFull then .error (.park .engine s)
    else
      let d := (List.range' v 13).map (fun r => c.readV s r c.lane)
      let (id, s1) ← c.request s .gLaunch (v + 13) o.c.toNat o.p.toNat d
      .ok (s1.startReq id State.applyGrid, .next))

/-- GWAIT (R379). -/
def execGwait (o : FCp) (s : State) : Host.Outcome State Fault Refusal :=
  s.runTarget o.sw (fun c s => do
    c.noXp
    let v ← c.resolve 0 c.mask none o.v.toNat 1
    c.touch s [.v v (laneBit c.lane), .s o.n.toNat]
    c.bWrites s [v] (laneBit c.lane)
    if o.p = 15 then .error (trapOf 0x0B)
    else if 8 ≤ s.gridReqs c.uid then .error (.park .engine s)
    else
      let (id, s1) ← c.request s .gWait v o.c.toNat o.p.toNat [c.readS s o.n.toNat]
      .ok (s1.startReq id State.applyGrid, .next))

/-- The word of GSTAT (R379). -/
def State.gstatWord (s : State) (ctx g : Nat) : Word :=
  match (if 2 ^ 24 ≤ g then none else s.grids.get? (gridKey ctx g)) with
  | none => statusWord true true 0x08 (g % 2 ^ 24)
  | some x => if x.retired then statusWord true false 0 g else statusWord false false 0 (x.teams - x.exited)

/-- GSTAT (R379). -/
def execGstat (o : FGstat) (s : State) : Host.Outcome State Fault Refusal :=
  s.runTarget o.sw (fun c s => c.sop s 4 [o.n.toNat]
    [(o.d.toNat, s.gstatWord c.ctx (c.readS s o.n.toNat).toNat)])

/-! Host queues (R350 to R353). -/

/-- A queue of the table. -/
def State.queue (s : State) (q : Nat) : Queue := s.queues.getD q {}

/-- The state with a queue changed. -/
def State.modQueue (s : State) (q : Nat) (f : Queue → Queue) : State := { s with queues := s.queues.set q (f (s.queue q)) }

/-- What a distributor finds when it reads an address of a context: words, a page or an answer to come, an address of another
device to be asked for, or nothing it can read. -/
inductive DistRead where
  | ok (l : List Word)
  | page
  | wait
  | ask (dev pa : Nat)
  | bad
  deriving DecidableEq, Repr

/-- Reads words for a queue as a load at DEV scope, at their home (R350, R353). -/
def State.distRead (s : State) (q ctx : Nat) (a : Addr) (n : Nat) : DistRead :=
  match s.reach noCore ctx 6 0 a .load with
  | .replay => .page
  | .ok e pa =>
    if leafTarget e = 1 then .ok (wordsOf (s.hostRd pa (4 * n)))
    else if leafTarget e = 2 && leafDevice e != s.fab.device then
      (match s.fars.find? (fun f => f.who == .queue q && f.va == a.toNat) with
        | none => .ask (leafDevice e) pa
        | some f =>
          (match f.data with
            | none => .wait
            | some [] => .bad
            | some l => .ok (wordsOf l)))
    else
      match s.localLane ctx pa (4 * n) false with
      | .ok (.dev p) => .ok (wordsOf (s.peek p (4 * n)))
      | .ok (.win p) => .ok (wordsOf (s.winRead p (4 * n)))
      | .ok (.near t o) => .ok (wordsOf (s.nearRead t o (4 * n)))
      | _ => .bad
  | _ => .bad

/-- What a distributor's read does at the homes: the walk and the lines are read there (R353, R382, R386). -/
def State.distSeen (s : State) (ctx : Nat) (a : Addr) (n : Nat) : State :=
  match s.reach noCore ctx 6 0 a .load with
  | .ok e pa =>
    let t := s.walked 0 ctx a
    if leafTarget e = 1 || (leafTarget e = 2 && leafDevice e != s.fab.device) then t
    else
      match s.localLane ctx pa (4 * n) false with
      | .ok (.dev p) => t.scan 0 p (4 * n)
      | _ => t
  | _ => s

/-- Sees to what a distributor's read waits for: a page request (R201), or a read of another device. -/
def State.distWait (s : State) (q ctx : Nat) (a : Addr) (n : Nat) : DistRead → State
  | .page => s.await { who := .queue q, core := noCore, ctx := ctx, uid := 0, va := a, kind := 0, lanes := 0, page := a.toNat / 4096 }
  | .ask dev pa =>
    (match s.farRead (.queue q) ctx dev a.toNat pa (4 * n) with
      | .wait t => t
      | _ => { s with fars := { who := .queue q, va := a.toNat, data := some [] } :: s.fars })
  | _ => s

/-- The address of the packet at HEAD (R350). -/
def Queue.at (x : Queue) : Addr := x.base + BitVec.ofNat 64 (64 * (x.head.toNat % 2 ^ x.log))

/-- Whether a queue has a packet to take. -/
def Queue.live (x : Queue) : Bool := x.enable && !x.error && x.head != x.tail

/-- The packet at HEAD (R350). -/
def State.packet (s : State) (q : Nat) : DistRead := s.distRead q (s.queue q).ctx (s.queue q).at 16

/-- The distributor reads the packet at HEAD, at each look that the model gives it (log 78). -/
def State.packetSeen (s : State) (q : Nat) : State :=
  if (s.queue q).live then s.distSeen (s.queue q).ctx (s.queue q).at 16 else s

/-- Whether TAIL lies further beyond HEAD than the ring is long (R350). -/
def Queue.overrun (x : Queue) : Bool := decide (2 ^ x.log < (x.tail - x.head).toNat)

/-- The queue stops at a malformed packet or an overrun doorbell; management firmware is told (R350, R351). -/
def State.queueError (s : State) (q : Nat) : State := (s.modQueue q (fun x => { x with error := true })).emit (.notice 3 q)

/-- A packet by its words: NOP, LAUNCH with AFTER and its descriptor, WAITMEM with its operands; none when malformed
(R351, R353). -/
inductive Packet where
  | nop
  | launch (after : Bool) (l : List Word)
  | waitmem (a : Addr) (value mask : Word) (cond : Nat)
  deriving DecidableEq, Repr

/-- Reads a packet's words. -/
def packetOf (l : List Word) : Option Packet :=
  let w (i : Nat) : Word := nth l i 0
  let zero (n : Nat) : Bool := (List.range' n (16 - n)).all (fun i => w i == 0)
  let t := (w 0).toNat % 256
  if (w 0).toNat / 512 != 0 || w 1 != 0 || ((w 0).getLsbD 8 && t != 1) then none
  else
    match t with
    | 0 => if zero 2 then some .nop else none
    | 1 => if w 15 = 0 then some (.launch ((w 0).getLsbD 8) ((l.drop 2).take 13)) else none
    | 2 =>
      if decide (4 ≤ (w 6).toNat) || !zero 7 || (w 2).toNat % 4 != 0 then none
      else some (.waitmem (pair (w 2) (w 3)) (w 4) (w 5) (w 6).toNat)
    | _ => none

/-- The event of the packet at a queue's head, if it has one to take; a malformed one and an overrun TAIL stop the queue. A
packet that cannot be read yet is tried again. -/
def State.nextPacket (s : State) (q : Nat) : State :=
  let x := s.queue q
  if !x.live then s
  else if x.overrun then s.queueError q
  else
    let s := s.packetSeen q
    match s.packet q with
    | .bad => s.queueError q
    | .ok l =>
      match packetOf l with
      | none => s.queueError q
      | some .nop => s.post (.packetNop q)
      | some (.launch _ _) => s.post (.packetLaunch q)
      | some (.waitmem _ _ _ _) => s.post (.packetWaitmem q)
    | r => (s.distWait q x.ctx x.at 16 r).post (.packetNop q)

/-- A packet has been taken: HEAD goes on (R350). -/
def State.taken1 (s : State) (q : Nat) : State :=
  ((s.dropFars (.queue q)).modQueue q (fun x => { x with head := x.head + 1, met := false, served := s.tick + 1 })).nextPacket q

/-- The condition of a WAITMEM on a word (R353). -/
def waitmet (w value mask : Word) (cond : Nat) : Bool :=
  let x := w &&& mask
  match cond with | 0 => x == value | 1 => x != value | 2 => decide (value ≤ x) | _ => decide (x < value)

/-- Whether packets of a queue's context can be taken. -/
def State.queueRuns (s : State) (q : Nat) : Bool :=
  (s.ctxs.get? (s.queue q).ctx).isSome && !(s.ctx (s.queue q).ctx).terminated

/-- Whether a queue's packet can be taken now (R352). -/
def State.takeable (s : State) (q : Nat) : Bool :=
  (s.queue q).live && s.queueRuns q &&
  (match s.packet q with
    | .ok l =>
      (match packetOf l with
        | some (.launch after _) =>
          !s.tableFull && !(after && s.grids.any (fun kv => kv.2.desc.queue == some q && !kv.2.retired))
        | some (.waitmem _ _ _ _) => (s.queue q).met
        | _ => true)
    | .bad => true
    | _ => false)

/-- Whether another queue is served before this one: a higher LEVEL, or the same and served longer ago (R352). -/
def State.yields (s : State) (q : Nat) : Bool :=
  s.queues.any (fun kv => kv.1 != q && s.takeable kv.1 && (decide ((s.queue q).level < kv.2.level) ||
    (kv.2.level == (s.queue q).level && decide (kv.2.served < (s.queue q).served))))

/-- DOORBELL (R350): a host writes TAIL, which the entry holds though it is overrun. -/
def execDoorbell (q : Nat) (tail : Word) (s : State) : Host.Outcome State Fault Refusal :=
  match s.queues.get? q with
  | none => ran s
  | some x =>
    let s1 := s.modQueue q (fun x => { x with tail := tail })
    ran (if !x.live then s1.nextPacket q
      else if { x with tail := tail }.overrun then s1.queueError q
      else s1)

/-- A packet is looked at: `again` is its event, to be tried later, and `f` what is done with it. -/
def State.look (s : State) (q : Nat) (again : Ev) (f : Packet → State) : State :=
  let x := s.queue q
  if !x.live then s
  else if !s.queueRuns q || s.switching 0 0 then s.post again
  else
    match s.packet q with
    | .bad => s.queueError q
    | .ok l =>
      match packetOf l with
      | none => s.queueError q
      | some p => f p
    | r => (s.distWait q x.ctx x.at 16 r).post again

/-- A packet's turn (R352). -/
def State.turn (s : State) (q : Nat) (again : Ev) (f : Packet → State) : State :=
  s.look q again (fun p => if s.yields q then s.post again else f p)

/-- PACKET_NOP (R351). -/
def execPacketNop (q : Nat) (s0 : State) : Host.Outcome State Fault Refusal :=
  let s := s0.packetSeen q
  ran (s.turn q (.packetNop q) (fun p => match p with
    | .nop => s.taken1 q
    | _ => s.nextPacket q))

/-- PACKET_LAUNCH (R351, R352, R355): taken when its grid is accepted or refused. -/
def execPacketLaunch (q : Nat) (s0 : State) : Host.Outcome State Fault Refusal :=
  let s := s0.packetSeen q
  ran (s.turn q (.packetLaunch q) (fun p => match p with
    | .launch _ d =>
      if !s.takeable q then s.post (.packetLaunch q)
      else
        let ctx := (s.queue q).ctx
        let l : Launch := { words := d, queue := some q }
        let die := s.choose 9400 4
        match s.refusal ctx l with
        | some why => (s.refuseWord ctx die l why).taken1 q
        | none => ((s.accept ctx die l (s.queue q).level).2).taken1 q
    | _ => s.nextPacket q))

/-- A WAITMEM is tested: once its condition has held it is taken in its turn, and it is tested again otherwise; an address
that does not translate makes it malformed, and one whose page is still to come waits (R353; log 46). -/
def State.testMem (s : State) (q : Nat) : State :=
  let again (s : State) : State := s.post (.packetWaitmem q)
  s.look q (.packetWaitmem q) (fun p => match p with
    | .waitmem a v m k =>
      if (s.queue q).met then (if s.yields q then again s else s.taken1 q)
      else
        (match s.distRead q (s.queue q).ctx a 1 with
          | .bad => s.queueError q
          | .ok l =>
            let s1 := (s.distSeen (s.queue q).ctx a 1).dropFars (.queue q)
            if waitmet (nth l 0 0) v m k then again (s1.modQueue q (fun x => { x with met := true }))
            else (s1.modQueue q (fun x => { x with testAt := (s.die 0).mesh })).post (.waitmemRetest q)
          | r => again (s.distWait q (s.queue q).ctx a 1 r))
    | _ => s.nextPacket q)

/-- PACKET_WAITMEM (R353). -/
def execPacketWaitmem (q : Nat) (s : State) : Host.Outcome State Fault Refusal := ran ((s.packetSeen q).testMem q)

/-- WAITMEM_RETEST (R353): at most 4,096 distributor clocks after the failed test. -/
def execWaitmemRetest (q : Nat) (s : State) : Host.Outcome State Fault Refusal := ran (s.testMem q)

/-! Pre-emption (R361 to R363). -/

/-- Asks for a context to be halted and saved. A replay stays on its core (log 84). -/
def State.preempt (s : State) (ctx : Nat) : State :=
  if (s.ctxs.get? ctx).isNone || (s.ctx ctx).run != .running || (s.ctx ctx).terminated || s.replaying ctx then s
  else (s.modCtx ctx (fun c => { c with run := .halting })).post (.contextSave ctx)

/-- PREEMPT_REQUEST (R361). -/
def execPreemptRequest (ctx : Nat) (s : State) : Host.Outcome State Fault Refusal := ran (s.preempt ctx)

/-- Whether a context waits for cores: it is saved, or a grid of it has teams to place. -/
def State.waiting (s : State) (ctx : Nat) : Bool :=
  !(s.ctx ctx).terminated && ((s.ctx ctx).run == .saved ||
    s.grids.any (fun kv => kv.2.ctx == ctx && !kv.2.retired && decide (kv.2.placed < kv.2.teams)))

/-- When a context has run beyond its time slice (R361). -/
def State.sliceDue (s : State) (ctx : Nat) : Option Nat :=
  let c := s.ctx ctx
  if c.d.slice = 0 || c.run != .running then none else some (c.sliceAt + c.d.slice)

/-- TIME_SLICE_EXPIRY (R361): pre-empted while a context of equal priority waits. -/
def execTimeSliceExpiry (ctx : Nat) (s : State) : Host.Outcome State Fault Refusal :=
  match s.sliceDue ctx with
  | none => ran s
  | some due =>
    let s1 := s.reachMesh 0 due
    if s1.ctxs.any (fun kv => kv.1 != ctx && s1.waiting kv.1 && s1.ctxPrio kv.1 == s1.ctxPrio ctx) then ran (s1.preempt ctx)
    else ran (s1.post (.timeSliceExpiry ctx))

/-- The context to pre-empt for a grid of some context and priority that cannot be placed (R361): of lower priority, on cores
of the context's share; the lowest, and then the most recently placed. While one still halts no other is chosen. -/
def State.victim (s : State) (ctx prio : Nat) : Option Nat :=
  let l :=
    if s.ctxs.any (fun kv => kv.1 != ctx && kv.2.run == .halting) then []
    else s.ctxs.filter (fun kv => kv.1 != ctx && kv.2.run == .running && !s.replaying kv.1 && decide (s.ctxPrio kv.1 < prio) &&
      (s.coresOf kv.1).any (fun c => (s.ctx ctx).share.contains c))
  match l with
  | [] => none
  | x :: t => some (t.foldl (fun a b =>
      let pa := s.ctxPrio a.1
      let pb := s.ctxPrio b.1
      if decide (pb < pa) || (pa == pb && decide (a.2.placedAt < b.2.placedAt)) then b else a) x).1

/-- TEAM_PLACE (R357, R359, R361): the next teams of a grid are placed when cores qualify. -/
def execTeamPlace (ctx grid : Nat) (s : State) : Host.Outcome State Fault Refusal :=
  match s.grids.get? (gridKey ctx grid) with
  | none => ran s
  | some g =>
    let again (s : State) : State := s.post (.teamPlace ctx grid)
    if decide (g.teams ≤ g.placed) || g.retired then ran s
    else if (s.ctx ctx).run != .running then ran (again s)
    else
      match s.placeNext ctx grid with
      | none =>
        (match s.victim ctx g.prio with
          | some v => ran (again (s.preempt v))
          | none => ran (again s))
      | some t =>
        let fresh := (s.coresOf ctx).isEmpty
        let t1 := t.modCtx ctx (fun c => { c with placedAt := s.tick, sliceAt := if fresh then (s.die 0).mesh else c.sliceAt })
        let t2 := if (s.ctx ctx).d.slice != 0 && !t1.bag.contains (.timeSliceExpiry ctx) then t1.post (.timeSliceExpiry ctx) else t1
        ran (if decide ((t2.grid ctx grid).placed < (t2.grid ctx grid).teams) then again t2 else t2)

/-- Whether a push has a value in transit: its dependence is satisfied, and a queue whose earlier entries are visible is to
take it (R240). -/
def State.inTransit (s : State) (id : Nat) (t : PortTx) : Bool :=
  s.txOk t && !(t.clear id ((s.warp t.tgt).port t.tport)).isEmpty

/-- Whether a context has come to where it can be saved (R362): every warp at a group boundary or parked; register results
returned and magnitude tables written; copies at a committed position, their signals answered; members in flight drained;
port values in their queues. -/
def State.halted (s : State) (ctx : Nat) : Bool :=
  let own (u : Nat) : Bool := (s.warp u).id.ctx == ctx
  s.warps.all (fun kv => !(kv.2.id.ctx == ctx && kv.2.here) ||
    ((kv.2.iss.grp.isNone || kv.2.iss.stall.isSome) && !kv.2.busy && kv.2.iss.pendTrap.isNone)) &&
  s.cores.all (fun kv => kv.2.lq.all (fun w => !own w.uid)) &&
  s.copies.all (fun kv => kv.2.ctx != ctx ||
    (s.copyRests kv.2 (if recCrel kv.2.rc then s.collDevices ctx kv.2.rc else []) && kv.2.sigs == 0)) &&
  s.ops.all (fun kv => kv.2.ctx != ctx || kv.2.units.all (fun u => u.done || !u.sent)) &&
  s.txs.all (fun kv => !own kv.2.uid || !s.inTransit kv.1 kv.2)

/-- What a core holds of a context (R363). -/
def State.coreSave (s : State) (ctx core : Nat) : CoreSave :=
  let tm := (s.ctx ctx).tileMask.getD core 0
  let rm := (s.ctx ctx).rcMask.getD core 0
  { core := core
    tiles := (s.tiles.filter (fun p => p.1 / 2 ^ 18 == core && tm.getLsbD (p.1 / 2 ^ 14 % 16))).map (fun p => (p.1 % 2 ^ 18, p.2))
    rcs := (s.core core).rcs.keep (fun n _ => rm.getLsbD n)
    mag := (s.core core).mag
    bad := (s.core core).badAcc.filter (fun b => tm.getLsbD (b / 2 ^ 14)) }

/-- A matrix post as it is saved: its chain waits for a grant again, and how long it has been eligible is kept (R299). -/
def Post.saved (p : Post) (cyc : Nat) : Post :=
  { p with granted := false, eligible := if p.granted then some 0 else p.eligible.map (fun e => (cyc : Int) - e) }

/-- A matrix post as it is restored on a quad's clock. -/
def Post.restored (p : Post) (cyc : Nat) : Post := { p with eligible := p.eligible.map (fun e => (cyc : Int) - e), due := 0 }

/-- CONTEXT_SAVE (R362, R363): once the context has halted, the save's image is written and its warps and teams leave
their cores. -/
def execContextSave (ctx : Nat) (s : State) : Host.Outcome State Fault Refusal :=
  match s.ctxs.get? ctx with
  | none => ran s
  | some c =>
    if c.run != .halting then ran s
    else if !s.halted ctx then ran (s.post (.contextSave ctx))
    else
      let saves := c.cores.map (s.coreSave ctx)
      let s1 := ((s.endSegs ctx).freezeWatch ctx).wrWords c.d.saveBase (s.saveImage ctx)
      let s2 := { s1 with
        warps := s1.warps.mapv (fun _ w =>
          if w.id.ctx == ctx && w.here then
            { w with
              id := { w.id with place := none, was := w.id.place }
              iss := { w.iss with grp := none, stallTo := 0, yield := 0, unchosen := 0, starved := false, last := 0 } }
          else w)
        teams := s1.teams.mapv (fun _ t =>
          if t.ctx == ctx && !t.retired then { t with core := none, was := t.core.getD t.was } else t)
        txs := s1.txs.mapv (fun _ t => if (s.warp t.uid).id.ctx == ctx then { t with due := 0 } else t)
        posts := s1.posts.mapv (fun _ p => if p.ctx == ctx then p.saved (s.quad (quadOf p.core)).cyc else p)
        tiles := s1.tiles.keep (fun k _ => !(c.cores.contains (k / 2 ^ 18) &&
          (c.tileMask.getD (k / 2 ^ 18) 0).getLsbD (k / 2 ^ 14 % 16)))
        quads := s1.quads.mapv (fun _ q => { q with
          opCache := q.opCache.filter (fun x => (s1.team ((x.tag[1]?).getD 0)).ctx != ctx)
          scales := q.scales.filter (fun x => x.tag.head? != some ctx) }) }
      let s3 := s2.modCtx ctx (fun c => { c with run := .saved, saves := saves, cores := [] })
      ran ((s3.trace ctx 5 0 0 0 0 0 (s.die 0).mesh).post (.contextRestore ctx))

/-! Restore (R364). -/

/-- The teams of a context that are to be restored, with their kernels' needs: identifier, core before, warps. -/
def State.savedTeams (s : State) (ctx : Nat) : List (Nat × Team) := s.teams.filter (fun kv => kv.2.ctx == ctx && !kv.2.retired)

/-- Room for a saved team in what is left of a core: slots for its warps and a span. -/
def State.refit (s : State) (t : Taken) (team : Team) : Option (List (Nat × Nat × Option Nat) × Nat × Taken) :=
  let ws := (team.warps.map (fun u => (u, s.warp u))).filter (fun p => !p.2.retired)
  let q := ws.foldl (fun a p =>
    match a with
    | none => none
    | some (l, t) =>
      match t.slotFor p.2.id.wide p.2.foot p.2.id.weave.isSome with
      | some r => some (l ++ [(p.1, r.1, r.2)], t.add p.2.id.wide p.2.foot r.1 r.2)
      | none => none) (some (([] : List (Nat × Nat × Option Nat)), t))
  match q, t.spanFor (spanOf team.size) with
  | some (l, u), some b => some (l, b, { u with spans := u.spans ++ [(b, b + spanOf team.size)] })
  | _, _ => none

/-- Room for every team that was on a core. -/
def State.refitAll (s : State) : Taken → List (Nat × Team) → Bool
  | _, [] => true
  | t, x :: r =>
    match s.refit t x.2 with
    | some (_, _, u) => s.refitAll u r
    | none => false

/-- Whether the die ports that saved teams of a core have bound leave a core with at most two warps to each (R231). -/
def State.dieRoom (s : State) (teams : List (Nat × Team)) (new : Nat) : Bool :=
  [6, 7].all (fun p =>
    let mine := (teams.flatMap (fun t => t.2.warps)).filter (fun u => !(s.warp u).retired && ((s.warp u).port p).st != .unbound)
    decide (mine.length = 0 ∨ mine.length + s.holders new p (fun _ _ => false) ≤ 2))

/-- Whether what a context held of one core can go to another (R231, R287, R359): its teams fit there with their die ports, and
its tiles are allotted to nobody else. -/
def State.coreFits (s : State) (ctx : Nat) (saved : List (Nat × Team)) (old new : Nat) : Bool :=
  s.usable ctx new && s.refitAll (s.taken new) (saved.filter (fun t => t.2.was == old)) &&
  s.dieRoom (saved.filter (fun t => t.2.was == old)) new &&
  s.ctxs.all (fun kv => kv.1 == ctx || kv.2.tileMask.getD new 0 &&& (s.ctx ctx).tileMask.getD old 0 == 0)

/-- A core moved by columns, by rows and along the ring (R10, R12). -/
def shiftCore (dc dr dd core : Nat) : Option Nat :=
  let q := core % 96 / 4
  let col := 2 * (q % 6) + core % 2 + dc
  let row := 2 * (q / 6) + core % 4 / 2 + dr
  if 12 ≤ col && col < 24 && 8 ≤ row && row < 16 then some (coreAt (ringStep (core / 96) dd) (col - 12) (row - 8)) else none

/-- Every way to move some cores as one block. -/
def shifts (cores : List Nat) : List (List Nat) :=
  (List.range 4).flatMap (fun dd => (List.range 16).flatMap (fun dr => (List.range 24).filterMap (fun dc =>
    let l := cores.filterMap (shiftCore dc dr dd)
    if l.length = cores.length then some l else none)))

/-- Every way to name `n` different elements of a list in order. -/
def arrangements : Nat → List Nat → List (List Nat)
  | 0, _ => [[]]
  | n + 1, l => l.flatMap (fun x => (arrangements n (l.erase x)).map (fun r => x :: r))

/-- A list turned by a number of places. -/
def rotate {α : Type} (l : List α) (k : Nat) : List α := l.drop k ++ l.take k

/-- Ways to move some cores, in a free order but for AVOID: those with the fewest AVOID cores come first (R359). -/
def State.inOrder (s : State) (salt n : Nat) (l : List (List Nat)) : List (List Nat) :=
  let l1 := rotate l (s.choose salt l.length)
  (List.range (n + 1)).flatMap (fun k => l1.filter (fun x => s.avoided x == k))

/-- Whether a context has tensors bound on the quad of one of its saved cores (R290, R299). -/
def State.hasTensors (s : State) (ctx : Nat) (cores : List Nat) : Bool :=
  cores.any (fun c => (s.quad (quadOf c)).tensors.any (fun t => t.1 / 256 == ctx))

/-- What a restore has to keep together: the cores with a gang; those that go by quads, which are the same or, where tensors are
bound, all of them; the sets of cores of weave grids, which go as blocks; the sets of cores that share a die (R240, R299,
R364). `posts` are the cores of its matrix posts, for which their new quads' tables must have room (R277). -/
structure Bonds where
  posts : List Nat := []
  gangs : List Nat := []
  quads : List Nat := []
  weaves : List (List Nat) := []
  dies : List (List Nat) := []
  deriving Repr

/-- The bonds among the saved cores of a context. -/
def State.bonds (s : State) (ctx : Nat) (saved : List (Nat × Team)) (cores : List Nat) : Bonds :=
  let grids := s.grids.filter (fun kv => kv.2.ctx == ctx)
  let of (g : Nat) (p : Team → Bool) : List Nat := ((saved.filter (fun t => t.2.grid == g && p t.2)).map (fun t => t.2.was)).eraseDups
  let gangs := ((saved.filter (fun t => t.2.gang != 0)).map (fun t => t.2.was)).eraseDups
  { posts := (s.posts.vals.filter (fun p => p.ctx == ctx)).map (fun p => p.core)
    gangs := gangs
    quads := if s.hasTensors ctx cores then cores else gangs
    weaves := (grids.map (fun kv => of kv.2.id (fun t => t.warps.any (fun u => (s.warp u).id.weave.isSome)))).filter (fun l => !l.isEmpty)
    dies := grids.flatMap (fun kv => kv.2.dieSets.map (fun d => of kv.2.id (fun t => d.contains t.index))) }

/-- Whether a map of cores, whole or in part, keeps what a restore has to keep together: cores that go by quads keep their
grouping among themselves, other cores go anywhere. -/
def State.keeps (s : State) (b : Bonds) (m : List (Nat × Nat)) : Bool :=
  m.all (fun p => (!b.gangs.contains p.1 || !s.quadGang (quadOf p.2)) && (!b.quads.contains p.1 ||
    m.all (fun r => !b.quads.contains r.1 || (quadOf p.1 == quadOf r.1) == (quadOf p.2 == quadOf r.2))) &&
    (let mine := (m.filter (fun r => quadOf r.2 == quadOf p.2)).map Prod.fst
     let n := (b.posts.filter mine.contains).length
     decide (n = 0 ∨ n + s.mxTable (quadOf p.2) ≤ 32))) &&
  b.dies.all (fun d => (((m.filter (fun p => d.contains p.1)).map (fun p => dieOf p.2)).eraseDups).length ≤ 1)

/-- Takes more cores into a map: a core goes to one place, and nowhere two. -/
def joinMap (m : List (Nat × Nat)) : List (Nat × Nat) → Option (List (Nat × Nat))
  | [] => some m
  | p :: t =>
    match m.find? (fun r => r.1 == p.1 || r.2 == p.2) with
    | some r => if r = p then joinMap m t else none
    | none => joinMap (m ++ [p]) t

/-- Cores that move together, with the ways they may go. -/
def State.blocks (s : State) (b : Bonds) (cores : List Nat) : List (List Nat × List (List Nat)) :=
  let quads := (b.quads.map quadOf).eraseDups.map (fun q => b.quads.filter (fun c => quadOf c == q))
  let ways (n : Nat) (l : List Nat) (all : List (List Nat)) : List Nat × List (List Nat) :=
    (l, s.inOrder (9600 + n) l.length all)
  (b.weaves.zipIdx.map (fun x => ways x.2 x.1 (shifts x.1))) ++
  (quads.zipIdx.map (fun x => ways (1000 + x.2) x.1
    ((List.range 96).flatMap (fun q => arrangements x.1.length (List.range' (4 * q) 4))))) ++
  (cores.zipIdx.map (fun x => ways (2000 + x.2) [x.1] ((List.range 384).map (fun c => [c]))))

/-- The first map, in the order of the ways, that takes every block. -/
def State.seek (s : State) (fits : Nat → Nat → Bool) (b : Bonds) :
    List (List Nat × List (List Nat)) → List (Nat × Nat) → Option (List (Nat × Nat))
  | [], m => some m
  | x :: t, m =>
    x.2.findSome? (fun dest =>
      let ps := x.1.zip dest
      match (if ps.all (fun p => fits p.1 p.2) then joinMap m ps else none) with
      | some n => if s.keeps b n then s.seek fits b t n else none
      | none => none)

/-- Where the cores of a saved context go (R359, R364). All that a context has of one core goes to one core, since its teams
there share tiles, counters and the magnitude table. -/
def State.restoreMap (s : State) (ctx : Nat) : Option (List (Nat × Nat)) :=
  let saved := s.savedTeams ctx
  let cores := (saved.map (fun t => t.2.was) ++ (s.ctx ctx).saves.map (fun k => k.core)).eraseDups
  let b := s.bonds ctx saved cores
  let v := s.consider ringDies
  v.seek (v.coreFits ctx saved) b (v.blocks b cores) []

/-- Puts a saved team on a core. -/
def State.putTeam (s : State) (tid core : Nat) : State :=
  let t := s.team tid
  match s.refit (s.taken core) t with
  | none => s
  | some (l, base, _) =>
    let ws := l.foldl (fun m p => m.modify p.1 (fun w =>
      { w with id := { w.id with place := some (core * 64 + p.2.1), weave := p.2.2 } })) s.warps
    let s1 := { s with warps := ws }.modTeam tid (fun t => { t with core := some core, nbase := base, restores := t.restores + 1 })
    let s2 := (s1.emptyL1 core).trace t.ctx 6 core t.grid t.index 0 t.was (s1.core core).cyc
    (s2.openSeg tid core).startSampling t.ctx core

/-- The allotments of a context go with its cores (R262, R287). -/
def State.moveMasks (s : State) (ctx : Nat) (m : List (Nat × Nat)) : State :=
  s.modCtx ctx (fun c => { c with
    tileMask := m.foldl (fun (k : KMap (BitVec 16)) p => k.set p.2 (c.tileMask.getD p.1 0)) c.tileMask
    rcMask := m.foldl (fun (k : KMap (BitVec 64)) p => k.set p.2 (c.rcMask.getD p.1 0)) c.rcMask })

/-- Puts back what a context held of a core (R262, R287, R116), under the allotments it has there. -/
def State.putCore (s : State) (ctx old new : Nat) : State :=
  match (s.ctx ctx).saves.find? (fun k => k.core == old) with
  | none => s.firstOn ctx new
  | some k =>
    let tm := (s.ctx ctx).tileMask.getD new 0
    let rm := (s.ctx ctx).rcMask.getD new 0
    let rest := s.tiles.keep (fun i _ => !(i / 2 ^ 18 == new && tm.getLsbD (i / 2 ^ 14 % 16)))
    let tiles : KMap Word := k.tiles.foldl (fun m p => m.set (new * 2 ^ 18 + p.1) p.2) rest
    let kept : KMap Rc := (s.core new).rcs.keep (fun n _ => !rm.getLsbD n)
    let rcs : KMap Rc := k.rcs.foldl (fun m p => m.set p.1 p.2) kept
    let s2 := { s with tiles := tiles }.modCore new (fun (c : Core) =>
      let d := c.handOver tm
      { d with mag := k.mag, badAcc := k.bad ++ d.badAcc, rcs := rcs })
    s2.modCtx ctx (fun c => { c with cores := c.cores ++ [new] })

/-- A context's tensor bindings go with its quads (R299). -/
def State.moveTensors (s : State) (ctx : Nat) (m : List (Nat × Nat)) : State :=
  let mine (t : Nat × Tensor) : Bool := t.1 / 256 == ctx
  let olds := (m.map (fun p => quadOf p.1)).eraseDups
  let cleared : State := { s with quads := s.quads.mapv (fun i q =>
    if olds.contains i then { q with tensors := q.tensors.filter (fun t => !mine t) } else q) }
  (m.map (fun p => (quadOf p.1, quadOf p.2))).eraseDups.foldl (fun t p =>
    t.modQuad p.2 (fun q => { q with
      tensors := ((s.quad p.1).tensors.filter mine).foldl (fun (k : KMap Tensor) x => k.set x.1 x.2) q.tensors })) cleared

/-- An operation that follows its core; MXRD and MXWR name the accumulators of the core they run on (R302). -/
def Op.follow (o : Op) (goes : Nat → Nat) : Op :=
  let mx := bits o.word.toNat 30 25 == 0x24
  { o with
    core := goes o.core
    units := o.units.map (fun u =>
      match u.tgt with
      | .win pa => if mx then { u with tgt := .win (pa + goes o.core * 0x4000000 - o.core * 0x4000000) } else u
      | _ => u) }

/-- A copy that follows its cores, with the counter cores of this device that received its bytes. -/
def Copy.follow (c : Copy) (device : Nat) (goes : Nat → Nat) : Copy :=
  { c with core := goes c.core, cores := c.cores.map (fun k => if k.1 = device then (k.1, goes k.2) else k) }

/-- Engine work of a context follows its cores, and its matrix posts come to their quads' arbiters (R299). -/
def State.moveWork (s : State) (ctx : Nat) (m : List (Nat × Nat)) : State :=
  let goes (c : Nat) : Nat := ((m.find? (fun p => p.1 == c)).map Prod.snd).getD c
  let quad (q : Nat) : Nat := ((m.find? (fun p => quadOf p.1 == q)).map (fun p => quadOf p.2)).getD q
  let s1 : State := { s with
    copies := s.copies.mapv (fun _ c => if c.ctx == ctx then c.follow s.fab.device goes else c)
    posts := s.posts.mapv (fun _ p =>
      if p.ctx == ctx then { p with core := goes p.core }.restored (s.quad (quadOf (goes p.core))).cyc else p)
    reqs := s.reqs.mapv (fun _ r => if r.ctx == ctx then { r with core := goes r.core } else r)
    ops := s.ops.mapv (fun _ o => if o.ctx == ctx then o.follow goes else o)
    bag := s.bag.map (fun e => match e with
      | Ev.scaleFetchReturn q c t b => if c = ctx then Ev.scaleFetchReturn (quad q) c t b else e
      | _ => e) }
  let quads := ((s1.posts.filter (fun kv => kv.2.ctx == ctx)).map (fun kv => quadOf kv.2.core)).eraseDups
  let old := (s1.posts.filter (fun kv => kv.2.ctx == ctx && kv.2.eligible.isSome)).map (fun kv => Ev.mxStarvationLimit kv.1)
  s1.postAll (((quads.map Ev.mxGrant) ++ old).filter (fun e => !s1.bag.contains e))

/-- Whether a running context that goes first could be placed now. -/
def State.betterWaits (s : State) (ctx : Nat) : Bool :=
  s.grids.any (fun kv => kv.2.ctx != ctx && !kv.2.retired && decide (kv.2.placed < kv.2.teams) &&
    (s.ctx kv.2.ctx).run == .running && decide (s.ctxPrio ctx ≤ kv.2.prio) && (s.placeNext kv.2.ctx kv.2.id).isSome)

/-- CONTEXT_RESTORE (R364): everything saved comes back exactly, where it fits. -/
def execContextRestore (ctx : Nat) (s : State) : Host.Outcome State Fault Refusal :=
  match s.ctxs.get? ctx with
  | none => ran s
  | some c =>
    if c.run != .saved || c.terminated then ran s
    else if s.betterWaits ctx || s.bag.contains .checkpoint || s.bag.any (fun e => match e with | .thermalShutdown _ => true | _ => false)
      then ran (s.post (.contextRestore ctx))
    else
      match s.restoreMap ctx with
      | none =>
        (match s.victim ctx (s.ctxPrio ctx) with
          | some v => ran ((s.preempt v).post (.contextRestore ctx))
          | none => ran (s.post (.contextRestore ctx)))
      | some m =>
        let saved := s.savedTeams ctx
        let s1 := m.foldl (fun s p => s.putCore ctx p.1 p.2) ((s.decided (m.map Prod.snd)).moveMasks ctx m)
        let s2 := saved.foldl (fun s t => s.putTeam t.1 (((m.find? (fun p => p.1 == t.2.was)).map Prod.snd).getD t.2.was)) s1
        let s3 := ((s2.moveWork ctx m).moveTensors ctx m).modCtx ctx (fun c => { c with
          run := .running, saves := [], sliceAt := (s.die 0).mesh, placedAt := s.tick })
        let s4 := s3.thawWatch ctx
        ran (if c.d.slice != 0 && !s4.bag.contains (.timeSliceExpiry ctx) then s4.post (.timeSliceExpiry ctx) else s4)

end Sys2Proof.Machine
end

