-- ==== Sys2Proof/Machine/Barrier.lean ====
section
/-! DEFINITION. The barrier engine: the barriers of teams, their combiners, the watchdog, and the barrier instructions (R365
to R376). -/

namespace Sys2Proof.Machine

open Sys2Proof

/-- A team's copy of a barrier. -/
def Team.bar (t : Team) (b : Nat) : Barrier := t.barriers.getD b {}

/-- The state with a team's barrier replaced. -/
def State.putBar (s : State) (team b : Nat) (x : Barrier) : State :=
  s.modTeam team (fun t => { t with barriers := t.barriers.set b x })

/-- The combiner clock of a team: the mesh clock of its die. -/
def State.combClock (s : State) (team : Nat) : Nat := (s.die (dieOf ((s.team team).core.getD 0))).mesh

/-- Whether the arrivals counted have reached E (R367). -/
def Barrier.met (x : Barrier) : Bool := decide (x.expect ≤ (x.arrivals.filter (fun a => a.counted)).length)

/-- A barrier starts to fill: its watchdog count starts at 0 (R367). -/
def State.startFill (s : State) (team b : Nat) (x : Barrier) : State :=
  s.putBar team b { x with st := .filling, start := if (s.team team).core.isNone then 0 else (s.combClock team : Int) }

/-- The teams that take part in a barrier of a level with a team (R365): at DIE those that shared its die when such a
barrier was first configured, which restores keep together (R364). -/
def State.participants (s : State) (team level : Nat) : List Nat :=
  let t := s.team team
  let g := s.grid t.ctx t.grid
  let same (p : Team → Bool) : List Nat := (s.teams.filter (fun kv => kv.2.ctx == t.ctx && kv.2.grid == t.grid && p kv.2)).map Prod.fst
  match level with
  | 0 => [team]
  | 1 => same (fun x => x.index / max 1 t.gang == t.index / max 1 t.gang)
  | 2 =>
    (match g.dieSets.find? (fun l => l.contains t.index) with
      | some l => same (fun x => l.contains x.index)
      | none => same (fun x => x.core.map dieOf == t.core.map dieOf))
  | _ => same (fun _ => true)

/-- The number of the gang or die set a team meets in. -/
def State.instance1 (s : State) (team level : Nat) : Nat :=
  let t := s.team team
  match level with
  | 1 => t.index / max 1 t.gang
  | 2 => ((findIx (fun l => l.contains t.index) (s.grid t.ctx t.grid).dieSets 0).map Prod.fst).getD 0
  | _ => 0

/-- Teams of a grid by die, as DIE barriers first find them (R364). -/
def State.setDies (s : State) (ctx grid : Nat) : State :=
  let ts := s.teams.filter (fun kv => kv.2.ctx == ctx && kv.2.grid == grid)
  let sets := (List.range 4).map (fun d => (ts.filter (fun kv => kv.2.core.map dieOf == some d)).map (fun kv => kv.2.index))
  { s with grids := s.grids.modify (gridKey ctx grid) (fun g =>
      if g.dieSets.isEmpty then { g with dieSets := sets.filter (fun l => !l.isEmpty) } else g) }

/-- The release of a team's phase (R367): counted arrivals are released, their members leave, and the phase goes on. -/
def State.release (s : State) (team b : Nat) : State :=
  let x := (s.team team).bar b
  let out := x.arrivals.filter (fun a => a.counted)
  let left := x.arrivals.filter (fun a => !a.counted)
  let y := { x with phase := x.phase + 1, arrivals := left, st := .idle }
  let s1 := if left.isEmpty then s.putBar team b y else s.startFill team b y
  out.foldl (fun s a => match a.mem with | some m => s.post (.memberLeave m) | none => s) s1

/-- An arrival that has been counted may meet the phase (R367). -/
def State.tryMeet (s : State) (team b : Nat) : State :=
  let x := (s.team team).bar b
  if x.st != .filling || !x.met then s
  else if x.level = 0 then s.release team b
  else (s.putBar team b { x with st := .met }).post (.combinerArrival team b)

/-- Whether an arrival's dependence is satisfied at the level's scope (R366). -/
def State.arrivalOk (s : State) (a : Arrive) (level : Nat) : Bool :=
  s.depOk a.uid a.dep && (level == 0 || s.coverOk a.uid a.dep)

/-- BARRIER_ARRIVAL_COUNTED (R366): in the phase that is current now. -/
def execBarrierArrivalCounted (uid b : Nat) (s : State) : Host.Outcome State Fault Refusal :=
  match s.warps.get? uid with
  | none => ran s
  | some w =>
    let x := (s.team w.id.team).bar b
    match x.arrivals.find? (fun a => a.uid == uid && !a.counted) with
    | none => ran s
    | some a =>
      if x.st = .unconf then ran s
      else if !s.runs w.id.ctx || !s.arrivalOk a x.level then ran (s.post (.barrierArrivalCounted uid b))
      else
        let y := { x with arrivals := x.arrivals.map (fun q => if q.uid = uid then { q with counted := true } else q) }
        ran ((s.putBar w.id.team b y).tryMeet w.id.team b)

/-- COMBINER_ARRIVAL (R367): a team's share has met; with the last of the participants one release goes down each path. -/
def execCombinerArrival (team b : Nat) (s : State) : Host.Outcome State Fault Refusal :=
  match s.teams.get? team with
  | none => ran s
  | some t =>
    let x := t.bar b
    if x.st != .met then ran s
    else
      let i := s.instance1 team x.level
      let same (c : Comb) : Bool := c.ctx == t.ctx && c.grid == t.grid && c.b == b && c.level == x.level && c.inst == i
      let old := ((s.combs.find? same).map (fun c => c.teams)).getD []
      let now := addNew old [team]
      let rest := s.combs.filter (fun c => !same c)
      let all := s.participants team x.level
      if all.all (fun p => now.contains p) then ran (State.postAll { s with combs := rest } (all.map (fun p => Ev.barrierRelease p b)))
      else ran { s with combs := { ctx := t.ctx, grid := t.grid, b := b, level := x.level, inst := i, teams := now } :: rest }

/-- BARRIER_RELEASE (R367). -/
def execBarrierRelease (team b : Nat) (s : State) : Host.Outcome State Fault Refusal :=
  match s.teams.get? team with
  | none => ran s
  | some t => if (t.bar b).st = .met then ran (s.release team b) else ran s

/-! The watchdog (R369, R370). -/

/-- When a barrier's watchdog reaches its limit; none while it does not count. -/
def State.barDue (s : State) (team b : Nat) : Option Nat :=
  let t := s.team team
  let x := t.bar b
  if (x.st = .filling ∨ x.st = .met) ∧ x.limit ≠ 0 ∧ (s.ctx t.ctx).paused.isNone ∧ !(s.ctx t.ctx).terminated ∧
      t.core.isSome ∧ !s.replaying t.ctx then
    some (x.start + x.limit).toNat
  else none

/-- The words of the diagnostic record (R370). -/
def State.diagWords (s : State) (team b : Nat) : List Word :=
  let t := s.team team
  let x := t.bar b
  let g := s.grid t.ctx t.grid
  let n (v : Nat) : Word := BitVec.ofNat 32 v
  let all := s.participants team x.level
  let met := all.filter (fun p => ((s.team p).bar b).st == .met && ((s.team p).bar b).level == x.level)
  let arrived := ((x.arrivals.filter (fun a => a.counted)).map (fun a => 2 ^ a.w)).sum
  let gone := ((t.warps.filter (fun u => (s.warp u).retired)).map (fun u => 2 ^ (s.warp u).id.w)).sum
  let head := [n (b + x.level * 2 ^ 4 + x.expect * 2 ^ 8), n x.phase.toNat, n t.grid, n t.index, n arrived, n gone, n x.limit,
    n (t.core.getD 0), n met.length, n all.length, n (t.index % g.gx), n (t.index / g.gx % g.gy), n (t.index / (g.gx * g.gy)), 0, 0, 0]
  let per := (List.range 32).flatMap (fun k =>
    match s.warpIn t k with
    | none => [0, 0]
    | some (u, w) =>
      if w.retired then [0, 0]
      else
        let pc : Addr := (w.group.map (fun g => g.pc)).getD 0
        let st : Word := if w.iss.stall == some .barrier && w.iss.parkBar == b &&
          (x.arrivals.any (fun a => a.uid == u) || w.iss.resume == .none) then 1 else 2
        [pc.setWidth 32 ||| st, pc.extractLsb' 32 32])
  head ++ per

/-- The warp and the lane of a team's leader: lane 0 of warp 0, or else the lowest live lane of the lowest live warp. -/
def State.leadOf (s : State) (t : Team) : Warp × Nat :=
  match (List.range 32).findSome? (fun k => (s.warpIn t k).bind (fun p => if p.2.live = 0 then none else some p.2)) with
  | some w => (w, lowest w.live)
  | none => (((s.warpIn t 0).map Prod.snd).getD {}, 0)

/-- BARRIER_WATCHDOG (R369): the records, and the end of the owning context alone. -/
def execBarrierWatchdog (team b : Nat) (s : State) : Host.Outcome State Fault Refusal :=
  match s.barDue team b with
  | none => ran s
  | some due =>
    let t := s.team team
    let die := dieOf (t.core.getD 0)
    let s1 := s.reachMesh die due
    let c := s1.ctx t.ctx
    let at0 := c.d.diagBase + 320 * (c.diags % c.d.diagN)
    let s2 := (s1.wrWords at0 (s1.diagWords team b)).modCtx t.ctx (fun c => { c with diags := c.diags + 1 })
    let lead := s2.leadOf t
    let r : FaultRec := { cause := 0x1B, engine := 11, inst := quadOf (t.core.getD 0), grid := t.grid, team := t.index,
                          thread := lead.1.thread lead.2, addr := at0, cycles := (s2.die die).mesh, detail := b + (t.bar b).level * 2 ^ 4,
                          core := t.core.getD 0, slot := lead.1.slot }
    ran (((s2.record t.ctx r).1).terminate t.ctx)

/-! The instructions (R372 to R376). -/

/-- Every barrier operation first takes the warp's due GUARD reports (R106, R371). -/
def State.runBar (s : State) (sw : Bool) (body : Cx → State → Except Stop (State × Flow)) : Host.Outcome State Fault Refusal :=
  s.runReporting sw (fun c r => r.cause == 0x09 && c.w.iss.resume == .none) body

/-- A warp parks on a barrier. -/
def Cx.parkBar (c : Cx) (s : State) (b : Nat) : Stop :=
  .park .barrier (s.modWarp c.uid (fun w => { w with iss := { w.iss with parkBar := b } }))

/-- BINIT (R367, R373). -/
def execBinit (o : FBs) (s : State) : Host.Outcome State Fault Refusal :=
  s.runBar o.sw (fun c s => do
    c.noXp
    let a := o.s.toNat
    c.touch s [.s a, .s (a + 1)]
    let x := (c.readS s a).toNat
    let limit := (c.readS s (a + 1)).toNat
    let t := s.team c.w.id.team
    let level := x % 4
    let e := bits x 13 8
    let g := s.grid c.ctx c.w.id.grid
    if a % 2 != 0 || bits x 7 2 != 0 || bits x 31 14 != 0 || e = 0 || decide (t.warps.length < e) then .error ill
    else if (level = 1 && t.gang = 0) || (decide (2 ≤ level) && !(nth g.desc.words 1 0).getLsbD 18) then
      .error (trapLane 0x08 c.lane 0)
    else
      let b := o.b.toNat
      let y := t.bar b
      let z := { y with level := level, expect := e, limit := limit }
      let s1 := if level = 2 then s.setDies c.ctx c.w.id.grid else s
      match y.st with
      | .unconf =>
        let held := y.arrivals
        let z0 := { z with phase := 0, st := .idle }
        if held.isEmpty then .ok (s1.putBar c.w.id.team b z0, .next)
        else .ok ((s1.startFill c.w.id.team b z0).postAll (held.map (fun q => Ev.barrierArrivalCounted q.uid b)), .next)
      | .idle => .ok (s1.putBar c.w.id.team b z, .next)
      | _ => .error (c.parkBar s b))

/-- Whether a warp has an unreleased arrival on a barrier of its team. -/
def Cx.arrived (c : Cx) (s : State) (b : Nat) : Bool := ((s.team c.w.id.team).bar b).arrivals.any (fun a => a.uid == c.uid)

/-- An arrival (R366, R374): pending, with its dependence and its member of Kp. -/
def Cx.arrive (c : Cx) (s : State) (b kc kp : Nat) : Except Stop State := do
  let (d, m, s1) ← c.keys s kc kp
  let s2 := s1.outward c.core c.ctx [b, c.w.id.w]
  let x := (s2.team c.w.id.team).bar b
  let y := { x with arrivals := x.arrivals ++ [{ uid := c.uid, w := c.w.id.w, dep := d, mem := some m }] }
  match x.st with
  | .unconf => .ok (s2.putBar c.w.id.team b y)
  | .idle => .ok ((s2.startFill c.w.id.team b y).post (.barrierArrivalCounted c.uid b))
  | _ => .ok ((s2.putBar c.w.id.team b y).post (.barrierArrivalCounted c.uid b))

/-- BARV (R374). -/
def execBarv (o : FBar) (s : State) : Host.Outcome State Fault Refusal :=
  s.runBar o.sw (fun c s => do
    c.noXp
    if o.p = 15 then .error (trapOf 0x0B)
    else if c.arrived s o.b.toNat then .error (c.parkBar s o.b.toNat)
    else
      let s1 ← c.arrive s o.b.toNat o.c.toNat o.p.toNat
      .ok (s1, .next))

/-- BSYNC (R374): its second phase holds the entry until the arrival is released. -/
def execBsync (o : FBar) (s : State) : Host.Outcome State Fault Refusal :=
  s.runBar o.sw (fun c s => do
    c.noXp
    let b := o.b.toNat
    if o.p = 15 then .error (trapOf 0x0B)
    else if c.w.iss.resume = .barrier b then
      if c.arrived s b then .error (c.parkBar s b) else .ok (s, .next)
    else if c.arrived s b then .error (c.parkBar s b)
    else
      let s1 ← c.arrive s b o.c.toNat o.p.toNat
      .error (c.parkBar (s1.modWarp c.uid (fun w => { w with iss := { w.iss with resume := .barrier b } })) b))

/-- BWAIT (R375). -/
def execBwait (o : FBwait) (s : State) : Host.Outcome State Fault Refusal :=
  s.runBar o.sw (fun c s => do
    c.noXp
    if c.arrived s o.b.toNat then .error (c.parkBar s o.b.toNat) else .ok (s, .next))

/-- The word of BSTAT (R376). -/
def Barrier.stat (x : Barrier) : Word :=
  if x.st = .unconf then 0
  else
    BitVec.ofNat 32 (x.st.ctorIdx * 2 ^ 30 + x.level * 2 ^ 28 + x.expect * 2 ^ 22 +
      (x.arrivals.filter (fun a => a.counted)).length % 64 * 2 ^ 16 + x.phase.toNat % 2 ^ 16)

/-- BSTAT (R376). -/
def execBstat (o : FBs) (s : State) : Host.Outcome State Fault Refusal :=
  s.runBar o.sw (fun c s => do
    let r ← c.sop s 4 [] [(o.s.toNat, ((s.team c.w.id.team).bar o.b.toNat).stat)]
    .ok (r.1.sampling c.uid (.barrier c.w.id.team o.b.toNat), r.2))

end Sys2Proof.Machine
end

