-- ==== Sys2Proof/Machine/Special.lean ====
section
/-! DEFINITION. The special functions (R136, R137): their exact and special values, and otherwise the free value of
`Config.special` when it lies within the bound of R136, else the nearest value. The exact value is worked out in fixed
point with 200 bits after the point. -/

namespace Sys2Proof.Machine

open Sys2Proof

/-- One, in fixed point. -/
def fxOne : Int := 2 ^ 200

/-- The natural logarithm of 2. -/
def fxLn2 : Int := 0xb17217f7d1cf79abc9e3b39803f2f6af40f343267298b62d8a

/-- Twice pi. -/
def fxTwoPi : Int := 0x6487ed5110b4611a62633145c06e0e68948127044533e63a010

/-- Two over the square root of pi. -/
def fxErf : Int := 0x120dd750429b6d11ae3a914fed7fd8688281341d7587cea2e73

/-- Sum of the series with term t(n+1) = t(n) × x / n, from n on; `x` may be negative. -/
def fxSeries (x : Int) : Nat → Nat → Int → Int
  | 0, _, t => t
  | k + 1, n, t => t + fxSeries x k (n + 1) (t * x / fxOne / (n : Int))

/-- e^x for 0 ≤ x < 64. -/
def fxExp (x : Int) : Int :=
  let n := x / fxLn2
  fxSeries (x - n * fxLn2) 60 1 fxOne * 2 ^ n.toNat

/-- Sum of x^(2i+1)/(2i+1), from the power `t` at i on. -/
def fxAtanh (z2 : Int) : Nat → Nat → Int → Int
  | 0, _, _ => 0
  | k + 1, i, t => t / (2 * (i : Int) + 1) + fxAtanh z2 k (i + 1) (t * z2 / fxOne)

/-- Sum of t(n) for t(n+1) = −t(n) × x² / ((n+1)(n+2)): sine from x and 1, cosine from 1 and 0. -/
def fxTrig (x2 : Int) : Nat → Nat → Int → Int
  | 0, _, t => t
  | k + 1, n, t => t + fxTrig x2 k (n + 2) (-(t * x2 / fxOne) / (((n : Int) + 1) * ((n : Int) + 2)))

/-- Sum of (−s)^n / (n! (2n+1)), from the term (−s)^n / n! on. -/
def fxErfSum (s : Int) : Nat → Nat → Int → Int
  | 0, _, _ => 0
  | k + 1, n, t => t / (2 * (n : Int) + 1) + fxErfSum s k (n + 1) (-(t * s / fxOne) / ((n : Int) + 1))

/-- A fixed-point number as an exact value times 2^k. -/
def fxVal (x : Int) (k : Int) : FVal := .fin (decide (x < 0)) x.natAbs (k - 200)

/-- ± m × 2^e in fixed point; e is at least −149. -/
def fxOf (s : Bool) (m : Nat) (e : Int) : Int :=
  let x : Int := ((m * 2 ^ (e + 200).toNat : Nat) : Int)
  if s then -x else x

/-- The special functions, by number as `Config.special` numbers them. -/
inductive Fn where
  | rcp | rsq | ex2 | lg2 | sin | cos | tanh | sigm | erf
  deriving DecidableEq, Repr

/-- The bound of R136 as k × 2^u around the exact value. -/
def ulps (k : Nat) (y : FVal) : Nat × Int :=
  match termLog y with
  | some l => (k, max l (-126) - 23)
  | none => (k, -149)

/-- Whether a finite value lies within k × 2^u of another. -/
def within (c y : FVal) (b : Nat × Int) : Bool :=
  match c with
  | .fin _ _ _ =>
    let g := minExp [c, y] b.2
    let g := min g b.2
    decide ((sumAt g [c, negV y]).natAbs ≤ scale2 b.1 (b.2 - g))
  | _ => false

/-- The delivered result for an exact value `y` that is no exact case: the free value when the bound allows it, else the
nearest; IX, UF and FTZO as R122 and R136 state. -/
def fnDeliver (fn : Fn) (env : FEnv) (x : Nat) (y : FVal) (b : Nat × Int) (ok : FVal → Bool) : FRes :=
  let c := (Config.special fn.ctorIdx (BitVec.ofNat 32 x)).toNat
  let near : FRes :=
    match y with
    | .fin s m e => if m = 0 then { v := 0, fl := flIX } else roundTo .f32 { mode := 1 } 0 s m 1 e
    | _ => { v := 0, fl := flIX }
  let cv := unpack .f32 c
  let v := if within cv y b && ok cv then c else near.v
  if near.fl &&& flOF != 0 && v = near.v then near
  else if v % 2 ^ 31 < 2 ^ 23 && (v % 2 ^ 31 != 0 || (termLog y).any (fun l => l < -126)) then
    { v := if env.ftzo then v / 2 ^ 31 * 2 ^ 31 else v, fl := flIX ||| flUF }
  else { v := v, fl := flIX }

/-- An exact result ± 2^n, flushed under FTZO when it is tiny. -/
def fnExact (env : FEnv) (s : Bool) (n : Int) : FRes := roundTo .f32 { env with mode := 1, sat := false } 0 s 1 1 n

/-- FRCP of ±2^−128: 1/x is ±2^128, which no finite F32 reaches; the bound of 1 ulp still holds, and ±∞ is the result below
2^−128 alone (R136, R137). The free value when it lies within the bound, else the greatest finite value. -/
def fnEdge (b : Nat) (s : Bool) : FRes :=
  let c := (Config.special Fn.rcp.ctorIdx (BitVec.ofNat 32 b)).toNat
  { v := if within (unpack .f32 c) (.fin s 1 128) (ulps 1 (.fin s 1 128)) then c else signed .f32 s 0x7F7FFFFF, fl := flIX }

/-- ±∞ with flags. -/
def fnInf (s : Bool) (fl : Word) : FRes := { v := signed .f32 s 0x7F800000, fl := fl }

/-- Whether a mantissa is a power of two. -/
def pow2 (m : Nat) : Bool := 2 ^ Nat.log2 m == m

/-- A special function of an F32 operand (R136, R137). -/
def fnRes (fn : Fn) (env : FEnv) (b : Nat) : FRes :=
  let b := ftziBits .f32 env b
  let any (_ : FVal) : Bool := true
  let nan : FRes := { v := Fmt.f32.defNan, fl := flINV }
  let one : FRes := { v := 0x3F800000 }
  match unpack .f32 b with
  | .nan _ => { v := nanOf env .f32 [(.f32, b)], fl := snanFl [(.f32, b)] }
  | .inf s =>
    match fn with
    | .rcp => { v := signed .f32 s 0 }
    | .rsq => if s then nan else { v := 0 }
    | .ex2 => if s then { v := 0 } else fnInf false 0
    | .lg2 => if s then nan else fnInf false 0
    | .sin => nan
    | .cos => nan
    | .tanh => { v := signed .f32 s 0x3F800000 }
    | .sigm => if s then { v := 0 } else one
    | .erf => { v := signed .f32 s 0x3F800000 }
  | .fin s m e =>
    if m = 0 then
      match fn with
      | .rcp => fnInf s flDZ
      | .rsq => fnInf s flDZ
      | .ex2 => one
      | .lg2 => fnInf true flDZ
      | .sin => { v := signed .f32 s 0 }
      | .cos => one
      | .tanh => { v := signed .f32 s 0 }
      | .sigm => { v := 0x3F000000 }
      | .erf => { v := signed .f32 s 0 }
    else
      let l : Int := (Nat.log2 m : Int) + e
      match fn with
      | .rcp =>
        if pow2 m && l = -128 then fnEdge b s
        else if pow2 m then fnExact env s (-l)
        else
          let y : FVal := .fin s (2 ^ 224 / m) (-224 - e)
          fnDeliver fn env b y (ulps 1 y) any
      | .rsq =>
        if s then nan
        else if pow2 m && l % 2 == 0 then fnExact env false (-(l / 2))
        else
          let m1 := if e % 2 = 0 then m else 2 * m
          let e1 := if e % 2 = 0 then e else e - 1
          let y : FVal := .fin false (isqrt (2 ^ 400 / m1) 200 0) (-200 - e1 / 2)
          fnDeliver fn env b y (ulps 1 y) any
      | .ex2 =>
        if !s && 7 ≤ l then fnInf false (flOF ||| flIX)
        else
          let x := if 8 ≤ l then -150 * fxOne else fxOf s m e
          if x ≤ -150 * fxOne then { v := 0, fl := flUF ||| flIX }
          else
            let n := x / fxOne
            let f := x - n * fxOne
            if f = 0 then fnExact env false n
            else
              let y := fxVal (fxExp (f * fxLn2 / fxOne)) n
              fnDeliver fn env b y (ulps 2 y) any
      | .lg2 =>
        if s then nan
        else if pow2 m then fOfInt .f32 { mode := 1 } 0 l
        else
          let t : Int := ((m * 2 ^ 200 / 2 ^ Nat.log2 m : Nat) : Int)
          let z := (t - fxOne) * fxOne / (t + fxOne)
          let ln := 2 * fxAtanh (z * z / fxOne) 70 0 z
          let y := fxVal (l * fxOne + ln * fxOne / fxLn2) 0
          fnDeliver fn env b y (if l = 0 || l = -1 then (1, -22) else ulps 2 y) any
      | .sin =>
        let unit (c : FVal) : Bool := within c (.fin false 0 0) (1, 0)
        if 17 ≤ l && !(pow2 m && l = 17) then fnDeliver fn env b (.fin false 0 0) (1, 0) unit
        else
          let r := fxOf s m e % fxTwoPi
          fnDeliver fn env b (fxVal (fxTrig (r * r / fxOne) 60 1 r) 0) (1, -21) any
      | .cos =>
        let unit (c : FVal) : Bool := within c (.fin false 0 0) (1, 0)
        if 17 ≤ l && !(pow2 m && l = 17) then fnDeliver fn env b (.fin false 0 0) (1, 0) unit
        else
          let r := fxOf s m e % fxTwoPi
          fnDeliver fn env b (fxVal (fxTrig (r * r / fxOne) 60 0 fxOne) 0) (1, -21) any
      | .tanh =>
        let x := if 4 ≤ l then 16 * fxOne else fxOf false m e
        if 91 * fxOne ≤ 10 * x then { v := signed .f32 s 0x3F800000, fl := flIX }
        else
          let y : FVal :=
            if l < -20 then .fin s (m * (fxOne - x * x / fxOne / 3).toNat) (e - 200)
            else
              let ex := fxExp (2 * x)
              .fin s ((ex - fxOne) * fxOne / (ex + fxOne)).toNat (-200)
          fnDeliver fn env b y (ulps 2 y) any
      | .sigm =>
        let x := if 8 ≤ l then 256 * fxOne else fxOf false m e
        if !s && 17 * fxOne ≤ x then { v := 0x3F800000, fl := flIX }
        else
          let ex := fxExp x
          let y : FVal :=
            if s then .fin false ((2 : Int) ^ 1000 / (fxOne + ex)).toNat (-800)
            else .fin false (ex * fxOne / (ex + fxOne)).toNat (-200)
          fnDeliver fn env b y
            (match termLog y with
              | some k => if k < -126 then (1, -149) else ulps 2 y
              | none => (1, -149)) any
      | .erf =>
        let x := if 2 ≤ l then 4 * fxOne else fxOf false m e
        if 4 * fxOne ≤ x then { v := signed .f32 s 0x3F800000, fl := flIX }
        else
          let g := fxErfSum (x * x / fxOne) 140 0 fxOne
          let y : FVal := .fin s (m * (g * fxErf).toNat) (e - 400)
          fnDeliver fn env b y (ulps 2 y) any

end Sys2Proof.Machine
end

