-- ==== Sys2Proof/Machine/Vint.lean ====
section
/-! DEFINITION. The integer and bit instructions: VINT, VINT.S, VBIT and VINT.I (R143 to R145). -/

namespace Sys2Proof.Machine

open Sys2Proof

/-- An integer bounded to I32, with SAT when it is bounded (R139). -/
def clampI32 (x : Int) : Word × Word :=
  if x < -(2 ^ 31) then (0x80000000, flSAT) else if 2 ^ 31 ≤ x then (0x7FFFFFFF, flSAT) else (BitVec.ofInt 32 x, 0)

/-- An exact integer result under SAT, or modulo 2^32. -/
def intRes (sat : Bool) (x : Int) : Word × Word := if sat then clampI32 x else (BitVec.ofInt 32 x, 0)

/-- SHL, SHR and SAR: the count is the whole of B (R143). -/
def shlW (a b : Word) : Word := if 32 ≤ b.toNat then 0 else a <<< b.toNat
def shrW (a b : Word) : Word := if 32 ≤ b.toNat then 0 else a >>> b.toNat
def sarW (a b : Word) : Word := BitVec.sshiftRight a (min b.toNat 31)

/-- The high halves of products (R143). -/
def mulhI (a b : Word) : Word := BitVec.ofInt 32 (a.toInt * b.toInt / 2 ^ 32)
def mulhN (a b : Word) : Word := BitVec.ofNat 32 (a.toNat * b.toNat / 2 ^ 32)

/-- Minima and maxima. -/
def minIW (a b : Word) : Word := if b.slt a then b else a
def minNW (a b : Word) : Word := if b.ult a then b else a
def maxIW (a b : Word) : Word := if a.slt b then b else a
def maxNW (a b : Word) : Word := if a.ult b then b else a

/-- The prefix fields of integer instructions (R139). -/
def useInt (b c sat : Bool) : XpUse := { ixd := true, ixa := true, ixb := b, c := c, sat := sat }

/-- A lane's single result without flags. -/
def one (i : LaneIn) (x : Word) : LaneOut := { ws := [x], rng := i.rng }

/-- A lane's single result with flags. -/
def oneF (i : LaneIn) (x : Word × Word) : LaneOut := { ws := [x.1], fl := x.2, rng := i.rng }

/-- The first register of an operand. -/
def LaneIn.a0 (i : LaneIn) : Word := nth i.a 0 0
def LaneIn.b0 (i : LaneIn) : Word := nth i.b 0 0

/-- A pair as a 64-bit value. -/
def pairOf (l : List Word) : BitVec 64 := pair (nth l 0 0) (nth l 1 0)

/-- A 64-bit value as a pair, low word first. -/
def pairWords (x : BitVec 64) : List Word := [x.setWidth 32, x.extractLsb' 32 32]

/-- VINT in its form with three V registers (R143). -/
def State.vint (s : State) (o : FDab) (c sat : Bool) (lat : Nat) (f : Bool → Word → Word → Word → Word × Word) :
    Host.Outcome State Fault Refusal :=
  s.runTarget o.sw (fun x s => x.vop s
    { use := useInt true c sat, d := some (o.d.toNat, 1), a := some (o.a.toNat, 1), b := some (o.b.toNat, 1), c := c, lat := lat }
    (fun e i => oneF i (f e.sat i.a0 i.b0 i.c)))

/-- VINT.S: B is an S register (R141, R143). -/
def State.vintS (s : State) (o : FDab) (c sat : Bool) (lat : Nat) (f : Bool → Word → Word → Word → Word × Word) :
    Host.Outcome State Fault Refusal :=
  s.runTarget o.sw (fun x s => x.vop s
    { use := useInt false c sat, d := some (o.d.toNat, 1), a := some (o.a.toNat, 1), bs := some o.b.toNat, c := c, lat := lat }
    (fun e i => oneF i (f e.sat i.a0 i.b0 i.c)))

/-- VBIT with two sources and groups of the given sizes (R144). -/
def State.vbit (s : State) (o : FDab) (kd ka kb : Nat) (c : Bool) (lat : Nat) (f : LaneIn → List Word) :
    Host.Outcome State Fault Refusal :=
  s.runTarget o.sw (fun x s => x.vop s
    { use := useInt true c false, d := some (o.d.toNat, kd), a := some (o.a.toNat, ka), b := some (o.b.toNat, kb), c := c,
      lat := lat }
    (fun _ i => { ws := f i, rng := i.rng }))

/-- VBIT with one source (R144). -/
def State.vbit1 (s : State) (o : FDa) (f : Word → Word) : Host.Outcome State Fault Refusal :=
  s.runTarget o.sw (fun x s => x.vop s
    { use := useInt false false false, d := some (o.d.toNat, 1), a := some (o.a.toNat, 1) }
    (fun _ i => one i (f i.a0)))

/-- VINT.I (R145). -/
def State.vinti (s : State) (o : FImm) (sat : Bool) (f : Bool → Word → Word → Word × Word) :
    Host.Outcome State Fault Refusal :=
  s.runTarget o.sw (fun x s => x.vop s
    { use := useInt false false sat, d := some (o.d.toNat, 1), a := some (o.a.toNat, 1) }
    (fun e i => oneF i (f e.sat i.a0 (x.imm (o.i.signExtend 32)))))

/-- Number of ones. -/
def popcW (a : Word) : Word := BitVec.ofNat 32 ((List.range 32).filter (fun i => a.getLsbD i)).length

/-- Leading zeros: 32 for zero. -/
def clzW (a : Word) : Word := if a = 0 then 32 else BitVec.ofNat 32 (31 - Nat.log2 a.toNat)

/-- Bit-reversed. -/
def brevW (a : Word) : Word := a.reverse

/-- pos and len of BFE and BFI (R144). -/
def fieldPos (b : Word) : Nat := bits b.toNat 7 0
def fieldLen (b : Word) : Nat := min (bits b.toNat 15 8) 32

/-- BFE: a bit index of 32 and more reads A[31] for .I and 0 for .N (R144). -/
def bfeW (sg : Bool) (a b : Word) : Word :=
  let pos := fieldPos b
  let len := fieldLen b
  let bit (i : Nat) : Bool := if i < 32 then a.getLsbD i else sg && a.getLsbD 31
  if len = 0 then 0
  else
    let v := (List.range len).foldl (fun n i => n + (if bit (pos + i) then 2 ^ i else 0)) 0
    BitVec.ofNat 32 (if sg && bit (pos + len - 1) then v + (2 ^ 32 - 2 ^ len) else v)

/-- BFI (R144). -/
def bfiW (a b c : Word) : Word :=
  let m : Nat := (2 ^ fieldLen b - 1) * 2 ^ fieldPos b
  let mw := BitVec.ofNat 32 m
  (c &&& ~~~mw) ||| (BitVec.ofNat 32 (a.toNat * 2 ^ fieldPos b) &&& mw)

/-- PRMT: byte i of the result is chosen by nibble i of C (R144). -/
def prmtW (a b c : Word) : Word :=
  let y := bytesOf a ++ bytesOf b
  let pick (i : Nat) : Byte :=
    let n := bits c.toNat (4 * i + 3) (4 * i)
    let v := nth y (n % 8) 0
    if 8 ≤ n then (if v.getLsbD 7 then 0xFF else 0) else v
  BitVec.ofNat 32 (leNat [pick 0, pick 1, pick 2, pick 3])

/-- 64-bit shifts: 0 when the count is 64 or more (R144). -/
def shlD (a : BitVec 64) (b : Word) : BitVec 64 := if 64 ≤ b.toNat then 0 else a <<< b.toNat
def shrD (a : BitVec 64) (b : Word) : BitVec 64 := if 64 ≤ b.toNat then 0 else a >>> b.toNat

/-- IADD: A + B, clamped under SAT (R143). -/
def execIadd (o : FDab) (s : State) : Host.Outcome State Fault Refusal := s.vint o false true 4 (fun sat a b _ => intRes sat (a.toInt + b.toInt))

/-- ISUB: A − B, clamped under SAT (R143). -/
def execIsub (o : FDab) (s : State) : Host.Outcome State Fault Refusal := s.vint o false true 4 (fun sat a b _ => intRes sat (a.toInt - b.toInt))

/-- IMUL: the low half of A × B (R143). -/
def execImul (o : FDab) (s : State) : Host.Outcome State Fault Refusal := s.vint o false false 6 (fun _ a b _ => (a * b, 0))

/-- IMULH.I: the high half of the signed product (R143). -/
def execImulhI (o : FDab) (s : State) : Host.Outcome State Fault Refusal := s.vint o false false 6 (fun _ a b _ => (mulhI a b, 0))

/-- IMULH.N: the high half of the unsigned product (R143). -/
def execImulhN (o : FDab) (s : State) : Host.Outcome State Fault Refusal := s.vint o false false 6 (fun _ a b _ => (mulhN a b, 0))

/-- IMAD: A × B + C, clamped under SAT (R143). -/
def execImad (o : FDab) (s : State) : Host.Outcome State Fault Refusal := s.vint o true true 6 (fun sat a b c => intRes sat (a.toInt * b.toInt + c.toInt))

/-- AND: bitwise (R143). -/
def execAnd (o : FDab) (s : State) : Host.Outcome State Fault Refusal := s.vint o false false 4 (fun _ a b _ => (a &&& b, 0))

/-- OR: bitwise (R143). -/
def execOr (o : FDab) (s : State) : Host.Outcome State Fault Refusal := s.vint o false false 4 (fun _ a b _ => (a ||| b, 0))

/-- XOR: bitwise (R143). -/
def execXor (o : FDab) (s : State) : Host.Outcome State Fault Refusal := s.vint o false false 4 (fun _ a b _ => (a ^^^ b, 0))

/-- SHL: a shift left (R143). -/
def execShl (o : FDab) (s : State) : Host.Outcome State Fault Refusal := s.vint o false false 4 (fun _ a b _ => (shlW a b, 0))

/-- SHR: a logical shift right (R143). -/
def execShr (o : FDab) (s : State) : Host.Outcome State Fault Refusal := s.vint o false false 4 (fun _ a b _ => (shrW a b, 0))

/-- SAR: an arithmetic shift right (R143). -/
def execSar (o : FDab) (s : State) : Host.Outcome State Fault Refusal := s.vint o false false 4 (fun _ a b _ => (sarW a b, 0))

/-- MIN.I: the smaller as I32 (R143). -/
def execMinI (o : FDab) (s : State) : Host.Outcome State Fault Refusal := s.vint o false false 4 (fun _ a b _ => (minIW a b, 0))

/-- MIN.N: the smaller as N32 (R143). -/
def execMinN (o : FDab) (s : State) : Host.Outcome State Fault Refusal := s.vint o false false 4 (fun _ a b _ => (minNW a b, 0))

/-- MAX.I: the larger as I32 (R143). -/
def execMaxI (o : FDab) (s : State) : Host.Outcome State Fault Refusal := s.vint o false false 4 (fun _ a b _ => (maxIW a b, 0))

/-- MAX.N: the larger as N32 (R143). -/
def execMaxN (o : FDab) (s : State) : Host.Outcome State Fault Refusal := s.vint o false false 4 (fun _ a b _ => (maxNW a b, 0))

/-- IADD.S: A + B, clamped under SAT, B from S (R141, R143). -/
def execIaddS (o : FDab) (s : State) : Host.Outcome State Fault Refusal := s.vintS o false true 4 (fun sat a b _ => intRes sat (a.toInt + b.toInt))

/-- ISUB.S: A − B, clamped under SAT, B from S (R141, R143). -/
def execIsubS (o : FDab) (s : State) : Host.Outcome State Fault Refusal := s.vintS o false true 4 (fun sat a b _ => intRes sat (a.toInt - b.toInt))

/-- IMUL.S: the low half of A × B, B from S (R141, R143). -/
def execImulS (o : FDab) (s : State) : Host.Outcome State Fault Refusal := s.vintS o false false 6 (fun _ a b _ => (a * b, 0))

/-- IMULH.I.S: the high half of the signed product, B from S (R141, R143). -/
def execImulhIS (o : FDab) (s : State) : Host.Outcome State Fault Refusal := s.vintS o false false 6 (fun _ a b _ => (mulhI a b, 0))

/-- IMULH.N.S: the high half of the unsigned product, B from S (R141, R143). -/
def execImulhNS (o : FDab) (s : State) : Host.Outcome State Fault Refusal := s.vintS o false false 6 (fun _ a b _ => (mulhN a b, 0))

/-- IMAD.S: A × B + C, clamped under SAT, B from S (R141, R143). -/
def execImadS (o : FDab) (s : State) : Host.Outcome State Fault Refusal := s.vintS o true true 6 (fun sat a b c => intRes sat (a.toInt * b.toInt + c.toInt))

/-- AND.S: bitwise, B from S (R141, R143). -/
def execAndS (o : FDab) (s : State) : Host.Outcome State Fault Refusal := s.vintS o false false 4 (fun _ a b _ => (a &&& b, 0))

/-- OR.S: bitwise, B from S (R141, R143). -/
def execOrS (o : FDab) (s : State) : Host.Outcome State Fault Refusal := s.vintS o false false 4 (fun _ a b _ => (a ||| b, 0))

/-- XOR.S: bitwise, B from S (R141, R143). -/
def execXorS (o : FDab) (s : State) : Host.Outcome State Fault Refusal := s.vintS o false false 4 (fun _ a b _ => (a ^^^ b, 0))

/-- SHL.S: a shift left, B from S (R141, R143). -/
def execShlS (o : FDab) (s : State) : Host.Outcome State Fault Refusal := s.vintS o false false 4 (fun _ a b _ => (shlW a b, 0))

/-- SHR.S: a logical shift right, B from S (R141, R143). -/
def execShrS (o : FDab) (s : State) : Host.Outcome State Fault Refusal := s.vintS o false false 4 (fun _ a b _ => (shrW a b, 0))

/-- SAR.S: an arithmetic shift right, B from S (R141, R143). -/
def execSarS (o : FDab) (s : State) : Host.Outcome State Fault Refusal := s.vintS o false false 4 (fun _ a b _ => (sarW a b, 0))

/-- MIN.I.S: the smaller as I32, B from S (R141, R143). -/
def execMinIS (o : FDab) (s : State) : Host.Outcome State Fault Refusal := s.vintS o false false 4 (fun _ a b _ => (minIW a b, 0))

/-- MIN.N.S: the smaller as N32, B from S (R141, R143). -/
def execMinNS (o : FDab) (s : State) : Host.Outcome State Fault Refusal := s.vintS o false false 4 (fun _ a b _ => (minNW a b, 0))

/-- MAX.I.S: the larger as I32, B from S (R141, R143). -/
def execMaxIS (o : FDab) (s : State) : Host.Outcome State Fault Refusal := s.vintS o false false 4 (fun _ a b _ => (maxIW a b, 0))

/-- MAX.N.S: the larger as N32, B from S (R141, R143). -/
def execMaxNS (o : FDab) (s : State) : Host.Outcome State Fault Refusal := s.vintS o false false 4 (fun _ a b _ => (maxNW a b, 0))

/-- POPC: number of ones (R144). -/
def execPopc (o : FDa) (s : State) : Host.Outcome State Fault Refusal := s.vbit1 o popcW

/-- CLZ: leading zeros (R144). -/
def execClz (o : FDa) (s : State) : Host.Outcome State Fault Refusal := s.vbit1 o clzW

/-- BREV: bits reversed (R144). -/
def execBrev (o : FDa) (s : State) : Host.Outcome State Fault Refusal := s.vbit1 o brevW

/-- BFE.I: a field, sign-extended (R144). -/
def execBfeI (o : FDab) (s : State) : Host.Outcome State Fault Refusal := s.vbit o 1 1 1 false 4 (fun i => [bfeW true i.a0 i.b0])

/-- BFE.N: a field, zero-extended (R144). -/
def execBfeN (o : FDab) (s : State) : Host.Outcome State Fault Refusal := s.vbit o 1 1 1 false 4 (fun i => [bfeW false i.a0 i.b0])

/-- BFI: a field of C replaced (R144). -/
def execBfi (o : FDab) (s : State) : Host.Outcome State Fault Refusal := s.vbit o 1 1 1 true 4 (fun i => [bfiW i.a0 i.b0 i.c])

/-- SEL: bits of A or B by C (R144). -/
def execSel (o : FDab) (s : State) : Host.Outcome State Fault Refusal := s.vbit o 1 1 1 true 4 (fun i => [(i.a0 &&& i.c) ||| (i.b0 &&& ~~~i.c)])

/-- PRMT: bytes permuted by C (R144). -/
def execPrmt (o : FDab) (s : State) : Host.Outcome State Fault Refusal := s.vbit o 1 1 1 true 4 (fun i => [prmtW i.a0 i.b0 i.c])

/-- ANDN: A AND NOT B (R144). -/
def execAndn (o : FDab) (s : State) : Host.Outcome State Fault Refusal := s.vbit o 1 1 1 false 4 (fun i => [i.a0 &&& ~~~i.b0])

/-- ABSD.I: the distance of two I32 (R144). -/
def execAbsdI (o : FDab) (s : State) : Host.Outcome State Fault Refusal := s.vbit o 1 1 1 false 4 (fun i => [BitVec.ofNat 32 (i.a0.toInt - i.b0.toInt).natAbs])

/-- IADD.D: a sum of pairs (R144). -/
def execIaddD (o : FDab) (s : State) : Host.Outcome State Fault Refusal := s.vbit o 2 2 2 false 4 (fun i => pairWords (pairOf i.a + pairOf i.b))

/-- ISUB.D: a difference of pairs (R144). -/
def execIsubD (o : FDab) (s : State) : Host.Outcome State Fault Refusal := s.vbit o 2 2 2 false 4 (fun i => pairWords (pairOf i.a - pairOf i.b))

/-- SHL.D: a pair shifted left (R144). -/
def execShlD (o : FDab) (s : State) : Host.Outcome State Fault Refusal := s.vbit o 2 2 1 false 4 (fun i => pairWords (shlD (pairOf i.a) i.b0))

/-- SHR.D: a pair shifted right (R144). -/
def execShrD (o : FDab) (s : State) : Host.Outcome State Fault Refusal := s.vbit o 2 2 1 false 4 (fun i => pairWords (shrD (pairOf i.a) i.b0))

/-- IMULW.I: the full signed product (R144). -/
def execImulwI (o : FDab) (s : State) : Host.Outcome State Fault Refusal := s.vbit o 2 1 1 false 6 (fun i => pairWords (BitVec.ofInt 64 (i.a0.toInt * i.b0.toInt)))

/-- IMULW.N: the full unsigned product (R144). -/
def execImulwN (o : FDab) (s : State) : Host.Outcome State Fault Refusal := s.vbit o 2 1 1 false 6 (fun i => pairWords (BitVec.ofNat 64 (i.a0.toNat * i.b0.toNat)))

/-- IADDI: A + imm, clamped under SAT (R145). -/
def execIaddi (o : FImm) (s : State) : Host.Outcome State Fault Refusal := s.vinti o true (fun sat a i => intRes sat (a.toInt + i.toInt))

/-- ANDI: A AND imm (R145). -/
def execAndi (o : FImm) (s : State) : Host.Outcome State Fault Refusal := s.vinti o false (fun _ a i => (a &&& i, 0))

/-- XORI: A XOR imm (R145). -/
def execXori (o : FImm) (s : State) : Host.Outcome State Fault Refusal := s.vinti o false (fun _ a i => (a ^^^ i, 0))

/-- MOVI: imm (R145). -/
def execMovi (o : FMovi) (s : State) : Host.Outcome State Fault Refusal :=
  s.runTarget o.sw (fun x s => x.vop s { use := { ixd := true }, d := some (o.d.toNat, 1) }
    (fun _ i => one i (x.imm (o.i.signExtend 32))))

end Sys2Proof.Machine
end

