-- ==== Sys2Proof/Machine/Vfloat.lean ====
section
/-! DEFINITION. The floating instructions: VF32, VF32.S, VH2 and VQ (R146 to R148). -/

namespace Sys2Proof.Machine

open Sys2Proof

/-- The prefix fields of floating instructions with two sources (R139). -/
def useF (b rnd c sat na nb : Bool) : XpUse :=
  { ixd := true, ixa := true, ixb := b, rnd := rnd, c := c, sat := sat, na := na, nb := nb }

/-- A lane's single floating result. -/
def fone (r : FRes) : LaneOut := { ws := [BitVec.ofNat 32 r.v], fl := r.fl, rng := r.rng }

/-- VF32 with two sources (R146). -/
def State.vf (s : State) (o : FDab) (rnd c sat : Bool) (lat : Nat) (f : FEnv → LaneIn → FRes) :
    Host.Outcome State Fault Refusal :=
  s.runTarget o.sw (fun x s => x.vop s
    { use := useF true rnd c sat true true, d := some (o.d.toNat, 1), a := some (o.a.toNat, 1), b := some (o.b.toNat, 1),
      c := c, fa := some .f32, fb := some .f32, fc := if c then some .f32 else none, float := true, lat := lat }
    (fun e i => fone (f e i)))

/-- VF32.S: B is an S register (R141, R146). -/
def State.vfS (s : State) (o : FDab) (rnd c sat : Bool) (f : FEnv → LaneIn → FRes) : Host.Outcome State Fault Refusal :=
  s.runTarget o.sw (fun x s => x.vop s
    { use := useF false rnd c sat true true, d := some (o.d.toNat, 1), a := some (o.a.toNat, 1), bs := some o.b.toNat,
      c := c, fa := some .f32, fb := some .f32, fc := if c then some .f32 else none, float := true, lat := 6 }
    (fun e i => fone (f e i)))

/-- VF32 with one source (R146). -/
def State.vf1 (s : State) (o : FDa) (rnd : Bool) (lat : Nat) (f : FEnv → LaneIn → FRes) : Host.Outcome State Fault Refusal :=
  s.runTarget o.sw (fun x s => x.vop s
    { use := useF false rnd false false true false, d := some (o.d.toNat, 1), a := some (o.a.toNat, 1), fa := some .f32,
      float := true, lat := lat }
    (fun e i => fone (f e i)))

/-- A special function of one lane; the generator stands (R136: the rounding mode is ignored). -/
def fnLane (fn : Fn) (e : FEnv) (i : LaneIn) : FRes := { fnRes fn e i.a0.toNat with rng := i.rng }

/-- Sub-elements computed one by one, the generator passing from each to the next (R120, R129). -/
def packLanes (f : Fmt) (g : Word → Nat → FRes) : Nat → Nat → Word → List Nat × Word × Word
  | 0, _, rng => ([], 0, rng)
  | n + 1, k, rng =>
    let r := g rng k
    let t := packLanes f g n (k + 1) r.rng
    (r.v :: t.1, r.fl ||| t.2.1, t.2.2)

/-- A packed result: every sub-element by itself (R129). -/
def packed (f : Fmt) (i : LaneIn) (g : Word → Nat → Nat → Nat → FRes) : LaneOut :=
  let r := packLanes f (fun rng k => g rng (sub f i.a0 k) (sub f i.b0 k) (sub f i.c k)) f.per 0 i.rng
  { ws := [BitVec.ofNat 32 (packSubs f r.1)], fl := r.2.1, rng := r.2.2 }

/-- A packed instruction of a format (R147, R148). -/
def State.vp (s : State) (o : FDab) (f : Fmt) (rnd c sat : Bool) (lat : Nat)
    (g : FEnv → Word → Nat → Nat → Nat → FRes) : Host.Outcome State Fault Refusal :=
  s.runTarget o.sw (fun x s => x.vop s
    { use := useF true rnd c sat true true, d := some (o.d.toNat, 1), a := some (o.a.toNat, 1), b := some (o.b.toNat, 1),
      c := c, fa := some f, fb := some f, fc := if c then some f else none, float := true, lat := lat }
    (fun e i => packed f i (g e)))

/-- A dot product of packed sources of a format with an F32 addend and result (R147, R148). -/
def State.vdot (s : State) (o : FDab) (f : Fmt) (lat : Nat) : Host.Outcome State Fault Refusal :=
  s.runTarget o.sw (fun x s => x.vop s
    { use := useF true true true true true true, d := some (o.d.toNat, 1), a := some (o.a.toNat, 1),
      b := some (o.b.toNat, 1), c := true, fa := some f, fb := some f, fc := some .f32, float := true, lat := lat }
    (fun e i => fone (fDot f .f32 e i.rng (subs f i.a0) (subs f i.b0) i.c.toNat)))

/-- The bytes of a register as integers. -/
def byteInts (sg : Bool) (w : Word) : List Int :=
  (bytesOf w).map (fun b => if sg then b.toInt else (b.toNat : Int))

/-- An integer packed instruction of VQ (R148). -/
def State.vqi (s : State) (o : FDab) (c sat : Bool) (f : Bool → LaneIn → Word × Word) : Host.Outcome State Fault Refusal :=
  s.runTarget o.sw (fun x s => x.vop s
    { use := useInt true c sat, d := some (o.d.toNat, 1), a := some (o.a.toNat, 1), b := some (o.b.toNat, 1), c := c, lat := 8 }
    (fun e i => oneF i (f e.sat i)))

/-- Σ A_i × B_i over integer bytes (R148). -/
def byteDot (sg : Bool) (a b : Word) : Int :=
  (List.zipWith (fun x y => x * y) (byteInts sg a) (byteInts sg b)).foldl (fun x y => x + y) 0

/-- An integer between bounds under SAT, else modulo 2^w, as w bits, with its flag. -/
def clampTo (sat : Bool) (w : Nat) (lo hi x : Int) : Nat × Word :=
  if sat then
    (if x < lo then ((lo % 2 ^ w).toNat, flSAT) else if hi < x then ((hi % 2 ^ w).toNat, flSAT) else ((x % 2 ^ w).toNat, 0))
  else ((x % 2 ^ w).toNat, 0)

/-- Byte sums, each clamped or wrapped by itself (R148, R129). -/
def byteAdd (sg sat : Bool) (a b : Word) : Word × Word :=
  let l := List.zipWith (fun x y => clampTo sat 8 (if sg then -128 else 0) (if sg then 127 else 255) (x + y))
    (byteInts sg a) (byteInts sg b)
  (BitVec.ofNat 32 (packSubs .e4m3 (l.map Prod.fst)), orFlags (l.map Prod.snd))

/-- The larger of each pair of I8 bytes. -/
def byteMaxI (a b : Word) : Word :=
  BitVec.ofNat 32 (packSubs .e4m3
    (List.zipWith (fun (x y : Byte) => (if x.slt y then y else x).toNat) (bytesOf a) (bytesOf b)))

/-- FADD: Round(A + B) (R146). -/
def execFadd (o : FDab) (s : State) : Host.Outcome State Fault Refusal :=
  s.vf o true false true 6 (fun e i => fAdd .f32 e i.rng i.a0.toNat i.b0.toNat)

/-- FSUB: Round(A − B) (R146). -/
def execFsub (o : FDab) (s : State) : Host.Outcome State Fault Refusal :=
  s.vf o true false true 6 (fun e i => fSub .f32 e i.rng i.a0.toNat i.b0.toNat)

/-- FMUL: Round(A × B) (R146). -/
def execFmul (o : FDab) (s : State) : Host.Outcome State Fault Refusal :=
  s.vf o true false true 6 (fun e i => fMul .f32 e i.rng i.a0.toNat i.b0.toNat)

/-- FFMA: Round(A × B + C) (R146). -/
def execFfma (o : FDab) (s : State) : Host.Outcome State Fault Refusal :=
  s.vf o true true true 6 (fun e i => fFma .f32 e i.rng i.a0.toNat i.b0.toNat i.c.toNat)

/-- FMIN: the smaller (R146). -/
def execFmin (o : FDab) (s : State) : Host.Outcome State Fault Refusal :=
  s.vf o false false false 6 (fun e i => fMinMax .f32 false false e i.rng i.a0.toNat i.b0.toNat)

/-- FMAX: the larger (R146). -/
def execFmax (o : FDab) (s : State) : Host.Outcome State Fault Refusal :=
  s.vf o false false false 6 (fun e i => fMinMax .f32 true false e i.rng i.a0.toNat i.b0.toNat)

/-- FMINM: the smaller in magnitude (R146). -/
def execFminm (o : FDab) (s : State) : Host.Outcome State Fault Refusal :=
  s.vf o false false false 6 (fun e i => fMinMax .f32 false true e i.rng i.a0.toNat i.b0.toNat)

/-- FMAXM: the larger in magnitude (R146). -/
def execFmaxm (o : FDab) (s : State) : Host.Outcome State Fault Refusal :=
  s.vf o false false false 6 (fun e i => fMinMax .f32 true true e i.rng i.a0.toNat i.b0.toNat)

/-- FDIV: A / B, correctly rounded (R146). -/
def execFdiv (o : FDab) (s : State) : Host.Outcome State Fault Refusal :=
  s.vf o true false true 28 (fun e i => fDivide e i.rng i.a0.toNat i.b0.toNat)

/-- FADD.S: Round(A + B), B from S (R141, R146). -/
def execFaddS (o : FDab) (s : State) : Host.Outcome State Fault Refusal :=
  s.vfS o true false true (fun e i => fAdd .f32 e i.rng i.a0.toNat i.b0.toNat)

/-- FSUB.S: Round(A − B), B from S (R141, R146). -/
def execFsubS (o : FDab) (s : State) : Host.Outcome State Fault Refusal :=
  s.vfS o true false true (fun e i => fSub .f32 e i.rng i.a0.toNat i.b0.toNat)

/-- FMUL.S: Round(A × B), B from S (R141, R146). -/
def execFmulS (o : FDab) (s : State) : Host.Outcome State Fault Refusal :=
  s.vfS o true false true (fun e i => fMul .f32 e i.rng i.a0.toNat i.b0.toNat)

/-- FFMA.S: Round(A × B + C), B from S (R141, R146). -/
def execFfmaS (o : FDab) (s : State) : Host.Outcome State Fault Refusal :=
  s.vfS o true true true (fun e i => fFma .f32 e i.rng i.a0.toNat i.b0.toNat i.c.toNat)

/-- FMIN.S: the smaller, B from S (R141, R146). -/
def execFminS (o : FDab) (s : State) : Host.Outcome State Fault Refusal :=
  s.vfS o false false false (fun e i => fMinMax .f32 false false e i.rng i.a0.toNat i.b0.toNat)

/-- FMAX.S: the larger, B from S (R141, R146). -/
def execFmaxS (o : FDab) (s : State) : Host.Outcome State Fault Refusal :=
  s.vfS o false false false (fun e i => fMinMax .f32 true false e i.rng i.a0.toNat i.b0.toNat)

/-- FMINM.S: the smaller in magnitude, B from S (R141, R146). -/
def execFminmS (o : FDab) (s : State) : Host.Outcome State Fault Refusal :=
  s.vfS o false false false (fun e i => fMinMax .f32 false true e i.rng i.a0.toNat i.b0.toNat)

/-- FMAXM.S: the larger in magnitude, B from S (R141, R146). -/
def execFmaxmS (o : FDab) (s : State) : Host.Outcome State Fault Refusal :=
  s.vfS o false false false (fun e i => fMinMax .f32 true true e i.rng i.a0.toNat i.b0.toNat)

/-- FABS: bit 31 cleared (R136, R137, R146). -/
def execFabs (o : FDa) (s : State) : Host.Outcome State Fault Refusal := s.vf1 o false 6 (fun _ i => { v := i.a0.toNat % 2 ^ 31, rng := i.rng })

/-- FNEG: bit 31 flipped (R136, R137, R146). -/
def execFneg (o : FDa) (s : State) : Host.Outcome State Fault Refusal := s.vf1 o false 6 (fun _ i => { v := (i.a0 ^^^ 0x80000000#32).toNat, rng := i.rng })

/-- FSQRT: the square root, correctly rounded (R136, R137, R146). -/
def execFsqrt (o : FDa) (s : State) : Host.Outcome State Fault Refusal := s.vf1 o true 20 (fun e i => fSqrt e i.rng i.a0.toNat)

/-- FRCP: 1 / x (R136, R137, R146). -/
def execFrcp (o : FDa) (s : State) : Host.Outcome State Fault Refusal := s.vf1 o false 20 (fnLane .rcp)

/-- FRSQ: 1 / √x (R136, R137, R146). -/
def execFrsq (o : FDa) (s : State) : Host.Outcome State Fault Refusal := s.vf1 o false 20 (fnLane .rsq)

/-- FEX2: 2^x (R136, R137, R146). -/
def execFex2 (o : FDa) (s : State) : Host.Outcome State Fault Refusal := s.vf1 o false 20 (fnLane .ex2)

/-- FLG2: log2 x (R136, R137, R146). -/
def execFlg2 (o : FDa) (s : State) : Host.Outcome State Fault Refusal := s.vf1 o false 20 (fnLane .lg2)

/-- FSIN: sin x (R136, R137, R146). -/
def execFsinS (o : FDa) (s : State) : Host.Outcome State Fault Refusal := s.vf1 o false 20 (fnLane .sin)

/-- FCOS: cos x (R136, R137, R146). -/
def execFcosS (o : FDa) (s : State) : Host.Outcome State Fault Refusal := s.vf1 o false 20 (fnLane .cos)

/-- FTANH: tanh x (R136, R137, R146). -/
def execFtanhS (o : FDa) (s : State) : Host.Outcome State Fault Refusal := s.vf1 o false 20 (fnLane .tanh)

/-- FSIGM: 1 / (1 + e^−x) (R136, R137, R146). -/
def execFsigmS (o : FDa) (s : State) : Host.Outcome State Fault Refusal := s.vf1 o false 20 (fnLane .sigm)

/-- FERF: erf x (R136, R137, R146). -/
def execFerfS (o : FDa) (s : State) : Host.Outcome State Fault Refusal := s.vf1 o false 20 (fnLane .erf)

/-- HADD: on packed F16 (R147). -/
def execHadd (o : FDab) (s : State) : Host.Outcome State Fault Refusal :=
  s.vp o .f16 true false true 6 (fun e rng a b _ => fAdd .f16 e rng a b)

/-- HSUB: on packed F16 (R147). -/
def execHsub (o : FDab) (s : State) : Host.Outcome State Fault Refusal :=
  s.vp o .f16 true false true 6 (fun e rng a b _ => fSub .f16 e rng a b)

/-- HMUL: on packed F16 (R147). -/
def execHmul (o : FDab) (s : State) : Host.Outcome State Fault Refusal :=
  s.vp o .f16 true false true 6 (fun e rng a b _ => fMul .f16 e rng a b)

/-- HFMA: on packed F16 (R147). -/
def execHfma (o : FDab) (s : State) : Host.Outcome State Fault Refusal :=
  s.vp o .f16 true true true 6 (fun e rng a b c => fFma .f16 e rng a b c)

/-- HMIN: on packed F16 (R147). -/
def execHmin (o : FDab) (s : State) : Host.Outcome State Fault Refusal :=
  s.vp o .f16 false false false 6 (fun e rng a b _ => fMinMax .f16 false false e rng a b)

/-- HMAX: on packed F16 (R147). -/
def execHmax (o : FDab) (s : State) : Host.Outcome State Fault Refusal :=
  s.vp o .f16 false false false 6 (fun e rng a b _ => fMinMax .f16 true false e rng a b)

/-- BADD: on packed BF16 (R147). -/
def execBadd (o : FDab) (s : State) : Host.Outcome State Fault Refusal :=
  s.vp o .bf16 true false true 6 (fun e rng a b _ => fAdd .bf16 e rng a b)

/-- BSUB: on packed BF16 (R147). -/
def execBsub (o : FDab) (s : State) : Host.Outcome State Fault Refusal :=
  s.vp o .bf16 true false true 6 (fun e rng a b _ => fSub .bf16 e rng a b)

/-- BMUL: on packed BF16 (R147). -/
def execBmul (o : FDab) (s : State) : Host.Outcome State Fault Refusal :=
  s.vp o .bf16 true false true 6 (fun e rng a b _ => fMul .bf16 e rng a b)

/-- BFMA: on packed BF16 (R147). -/
def execBfma (o : FDab) (s : State) : Host.Outcome State Fault Refusal :=
  s.vp o .bf16 true true true 6 (fun e rng a b c => fFma .bf16 e rng a b c)

/-- BMIN: on packed BF16 (R147). -/
def execBmin (o : FDab) (s : State) : Host.Outcome State Fault Refusal :=
  s.vp o .bf16 false false false 6 (fun e rng a b _ => fMinMax .bf16 false false e rng a b)

/-- BMAX: on packed BF16 (R147). -/
def execBmax (o : FDab) (s : State) : Host.Outcome State Fault Refusal :=
  s.vp o .bf16 false false false 6 (fun e rng a b _ => fMinMax .bf16 true false e rng a b)

/-- HDOT2: A0 × B0 + A1 × B1 + C to F32 (R147). -/
def execHdot2 (o : FDab) (s : State) : Host.Outcome State Fault Refusal := s.vdot o .f16 6

/-- BDOT2: A0 × B0 + A1 × B1 + C to F32 (R147). -/
def execBdot2 (o : FDab) (s : State) : Host.Outcome State Fault Refusal := s.vdot o .bf16 6

/-- QADD.E4M3: per byte (R148). -/
def execQaddE4m3 (o : FDab) (s : State) : Host.Outcome State Fault Refusal :=
  s.vp o .e4m3 true false true 8 (fun e rng a b _ => fAdd .e4m3 e rng a b)

/-- QSUB.E4M3: per byte (R148). -/
def execQsubE4m3 (o : FDab) (s : State) : Host.Outcome State Fault Refusal :=
  s.vp o .e4m3 true false true 8 (fun e rng a b _ => fSub .e4m3 e rng a b)

/-- QMUL.E4M3: per byte (R148). -/
def execQmulE4m3 (o : FDab) (s : State) : Host.Outcome State Fault Refusal :=
  s.vp o .e4m3 true false true 8 (fun e rng a b _ => fMul .e4m3 e rng a b)

/-- QDOT4.E4M3: Σ Ai × Bi + C to F32 (R148). -/
def execQdot4E4m3 (o : FDab) (s : State) : Host.Outcome State Fault Refusal := s.vdot o .e4m3 8

/-- QADD.E5M2: per byte (R148). -/
def execQaddE5m2 (o : FDab) (s : State) : Host.Outcome State Fault Refusal :=
  s.vp o .e5m2 true false true 8 (fun e rng a b _ => fAdd .e5m2 e rng a b)

/-- QSUB.E5M2: per byte (R148). -/
def execQsubE5m2 (o : FDab) (s : State) : Host.Outcome State Fault Refusal :=
  s.vp o .e5m2 true false true 8 (fun e rng a b _ => fSub .e5m2 e rng a b)

/-- QMUL.E5M2: per byte (R148). -/
def execQmulE5m2 (o : FDab) (s : State) : Host.Outcome State Fault Refusal :=
  s.vp o .e5m2 true false true 8 (fun e rng a b _ => fMul .e5m2 e rng a b)

/-- QDOT4.E5M2: Σ Ai × Bi + C to F32 (R148). -/
def execQdot4E5m2 (o : FDab) (s : State) : Host.Outcome State Fault Refusal := s.vdot o .e5m2 8

/-- XDOT8.E2M1: Σ Ai × Bi + C to F32 over eight nibbles (R148). -/
def execXdot8E2m1 (o : FDab) (s : State) : Host.Outcome State Fault Refusal := s.vdot o .e2m1 8

/-- QMAX.E4M3: per byte (R127, R148). -/
def execQmaxE4m3 (o : FDab) (s : State) : Host.Outcome State Fault Refusal :=
  s.vp o .e4m3 false false false 8 (fun e rng a b _ => fMinMax .e4m3 true false e rng a b)

/-- QMIN.E4M3: per byte (R127, R148). -/
def execQminE4m3 (o : FDab) (s : State) : Host.Outcome State Fault Refusal :=
  s.vp o .e4m3 false false false 8 (fun e rng a b _ => fMinMax .e4m3 false false e rng a b)

/-- QDOT4.I8: Σ Ai × Bi + C as I32 (R148). -/
def execQdot4I8 (o : FDab) (s : State) : Host.Outcome State Fault Refusal :=
  s.vqi o true true (fun sat i => intRes sat (byteDot true i.a0 i.b0 + i.c.toInt))

/-- QDOT4.N8: Σ Ai × Bi + C as N32 (R148). -/
def execQdot4N8 (o : FDab) (s : State) : Host.Outcome State Fault Refusal :=
  s.vqi o true true (fun sat i =>
    let r := clampTo sat 32 0 (2 ^ 32 - 1) (byteDot false i.a0 i.b0 + i.c.toNat)
    (BitVec.ofNat 32 r.1, r.2))

/-- QADD.I8: per byte, clamped under SAT (R148). -/
def execQaddI8 (o : FDab) (s : State) : Host.Outcome State Fault Refusal := s.vqi o false true (fun sat i => byteAdd true sat i.a0 i.b0)

/-- QADD.N8: per byte, clamped under SAT (R148). -/
def execQaddN8 (o : FDab) (s : State) : Host.Outcome State Fault Refusal := s.vqi o false true (fun sat i => byteAdd false sat i.a0 i.b0)

/-- QMAX.I8: per byte, the larger (R148). -/
def execQmaxI8 (o : FDab) (s : State) : Host.Outcome State Fault Refusal := s.vqi o false false (fun _ i => (byteMaxI i.a0 i.b0, 0))

end Sys2Proof.Machine
end

