-- ==== Sys2Proof/Machine/Convert.lean ====
section
/-! DEFINITION. Conversions and compares: CVT, SCVT.UP, SCVT.DN and CMP (R149 to R152). -/

namespace Sys2Proof.Machine

open Sys2Proof

/-- The integer type of a type code: signed and width (R55). -/
def intType : Nat → Option (Bool × Nat)
  | 0 => some (true, 8) | 1 => some (false, 8) | 2 => some (true, 16) | 3 => some (false, 16)
  | 4 => some (true, 32) | 5 => some (false, 32) | 6 => some (true, 64) | 7 => some (false, 64)
  | _ => none

/-- The floating format of a type code (R55). -/
def fmtType : Nat → Option Fmt
  | 8 => some .f32 | 9 => some .f16 | 10 => some .bf16 | 11 => some .e4m3 | 12 => some .e5m2 | 13 => some .e2m1
  | _ => none

/-- The width of a type. -/
def typeWidth (t : Nat) : Nat :=
  match intType t, fmtType t with
  | some (_, n), _ => n
  | none, some f => f.width
  | none, none => 32

/-- The part of vA that CVT reads (R149). -/
def cvtSrc (t u sel : Nat) : Nat :=
  if 32 ≤ typeWidth u then 0 else if typeWidth u = 16 ∧ typeWidth t = 16 then sel % 2 else sel % (32 / typeWidth u)

/-- The part of vD that CVT writes (R149). -/
def cvtDst (t u sel : Nat) : Nat :=
  if 32 ≤ typeWidth t then 0 else if typeWidth u = 16 ∧ typeWidth t = 16 then sel / 2 % 2 else sel % (32 / typeWidth t)

/-- The range of an integer type. -/
def intMin (sg : Bool) (n : Nat) : Int := if sg then -(2 ^ (n - 1)) else 0
def intMax (sg : Bool) (n : Nat) : Int := if sg then 2 ^ (n - 1) - 1 else 2 ^ n - 1

/-- An n-bit pattern as an integer. -/
def intOf (sg : Bool) (n v : Nat) : Int := if sg && bitAt v (n - 1) then (v : Int) - 2 ^ n else v

/-- CVT of one value (R128, R149): destination type, source type, the source's bits. -/
def cvtVal (t u : Nat) (e : FEnv) (rng : Word) (v : Nat) : FRes :=
  match fmtType u, fmtType t, intType u, intType t with
  | some f, some g, _, _ => fConv f g e rng v 0
  | some f, none, _, some (sg, n) =>
    let r := fToInt f e rng v (intMin sg n) (intMax sg n)
    { v := (r.1 % 2 ^ n).toNat, fl := r.2.1, rng := r.2.2 }
  | none, some g, some (sg, n), _ => fOfInt g e rng (intOf sg n v)
  | none, none, some (sg, n), some (tg, m) =>
    let r := clampTo (e.sat && decide (m ≤ n)) m (intMin tg m) (intMax tg m) (intOf sg n v)
    { v := r.1, fl := r.2, rng := rng }
  | _, _, _, _ => { v := v, rng := rng }

/-- CVT: one value per lane, a part of vD written when the destination is narrow (R149). -/
def execCvt (o : FCvt) (s : State) : Host.Outcome State Fault Refusal :=
  let t := o.t.toNat
  let u := o.u.toNat
  let wt := typeWidth t
  let wu := typeWidth u
  let si := cvtSrc t u o.e.toNat
  let di := cvtDst t u o.e.toNat
  s.runTarget o.sw (fun x s => x.vop s
    { use := { ixd := true, ixa := true, rnd := true, sat := true, na := (fmtType u).isSome }
      d := some (o.d.toNat, if wt = 64 then 2 else 1), a := some (o.a.toNat, if wu = 64 then 2 else 1)
      keepD := decide (wt < 32), fa := fmtType u, partA := some si, float := true, lat := 6 }
    (fun e i =>
      let v := if wu = 64 then (pairOf i.a).toNat else i.a0.toNat / 2 ^ (wu * si) % 2 ^ wu
      let r := cvtVal t u e i.rng v
      let old := (nth i.d 0 0).toNat
      let m := (2 ^ wt - 1) * 2 ^ (wt * di)
      { ws := if wt = 64 then pairWords (BitVec.ofNat 64 r.v)
              else if wt = 32 then [BitVec.ofNat 32 r.v]
              else [(BitVec.ofNat 32 old &&& ~~~(BitVec.ofNat 32 m)) ||| BitVec.ofNat 32 (r.v * 2 ^ (wt * di))]
        fl := r.fl, rng := r.rng }))

/-- One scaled element into a format: a NaN scale gives the default NaN (R113, R150, R151). -/
def scaled (src dst : Fmt) (e : FEnv) (rng : Word) (b : Nat) (k : Option Int) : FRes :=
  match k with
  | some n => fConv src dst e rng b n
  | none =>
    let b := ftziBits src e b
    nanRes dst e rng (nanOf e dst [(src, b)]) (snanFl [(src, b)])

/-- The scale byte a lane takes: byte bsel of the scale register in the first lane of its block (R130). -/
def scaleOf (block bsel : Nat) (rd : Nat → Word) (lane : Nat) : Option Int :=
  e8m0 ((rd (lane / block * block)).toNat / 2 ^ (8 * bsel) % 256)

/-- Halves packed into words, ascending. -/
def halfWords : List Nat → List Word
  | a :: b :: t => BitVec.ofNat 32 (a + 65536 * b) :: halfWords t
  | [a] => [BitVec.ofNat 32 a]
  | [] => []

/-- SCVT.UP of elements that are floating (R150). -/
def State.scvtUp (s : State) (o : FScvt) (f : Fmt) (block : Nat) : Host.Outcome State Fault Refusal :=
  s.runTarget o.sw (fun x s => x.bop s
    { use := { ixd := true, ixa := true, ixb := true, rnd := true, sat := true }
      d := some (o.d.toNat, f.per / 2), a := some (o.a.toNat, 1), b := some (o.b.toNat, 1), crossB := true
      fa := some f, float := true, lat := 6 }
    (fun e rd _ i =>
      let k := scaleOf block o.e.toNat rd i.lane
      let r := packLanes .bf16 (fun rng j => scaled f .bf16 e rng (sub f i.a0 j) k) f.per 0 i.rng
      { ws := halfWords r.1, fl := r.2.1, rng := r.2.2 }))

/-- SCVT.UP.E4M3 (R150). -/
def execScvtUpE4m3 (o : FScvt) (s : State) : Host.Outcome State Fault Refusal := s.scvtUp o .e4m3 8

/-- SCVT.UP.E5M2 (R150). -/
def execScvtUpE5m2 (o : FScvt) (s : State) : Host.Outcome State Fault Refusal := s.scvtUp o .e5m2 8

/-- SCVT.UP.E2M1 (R150). -/
def execScvtUpE2m1 (o : FScvt) (s : State) : Host.Outcome State Fault Refusal := s.scvtUp o .e2m1 4

/-- Weight j of a lane that holds two LQ2 codes (R115, R117). -/
def lqWeight (mag : Nat → Word) (a : Word) (j : Nat) : FVal :=
  let c := a.toNat / 65536 ^ (j / 8) % 65536
  lq2 (mag (c % 256)) c (j % 8)

/-- SCVT.UP.LQ2: sixteen weights by the block's scale (R117, R150). -/
def execScvtUpLq2 (o : FScvt) (s : State) : Host.Outcome State Fault Refusal :=
  s.runTarget o.sw (fun x s => x.bop s
    { use := { ixd := true, ixa := true, ixb := true, rnd := true, sat := true }
      d := some (o.d.toNat, 8), a := some (o.a.toNat, 1), b := some (o.b.toNat, 1), crossB := true, float := true
      extra := [.table], lat := 6 }
    (fun e rd mag i =>
      let r := packLanes .bf16 (fun rng j =>
        match scaleOf 4 o.e.toNat rd i.lane with
        | some k => lqRound .bf16 e rng (lqWeight mag i.a0 j) k
        | none => nanRes .bf16 e rng Fmt.bf16.defNan 0) 16 0 i.rng
      { ws := halfWords r.1, fl := r.2.1, rng := r.2.2 }))

/-- SCVT.DN: a group of F32 registers narrowed into one (R151). -/
def State.scvtDn (s : State) (o : FScvt) (f : Fmt) (block : Nat) : Host.Outcome State Fault Refusal :=
  s.runTarget o.sw (fun x s => x.bop s
    { use := { ixd := true, ixa := true, ixb := true, rnd := true, sat := true }
      d := some (o.d.toNat, 1), a := some (o.a.toNat, f.per), b := some (o.b.toNat, 1), crossB := true
      fa := some .f32, float := true, lat := 6 }
    (fun e rd _ i =>
      let k := (scaleOf block o.e.toNat rd i.lane).map (fun n => -n)
      let r := packLanes f (fun rng j => scaled .f32 f e rng (nth i.a j 0).toNat k) f.per 0 i.rng
      { ws := [BitVec.ofNat 32 (packSubs f r.1)], fl := r.2.1, rng := r.2.2 }))

/-- SCVT.DN.E4M3 (R151). -/
def execScvtDnE4m3 (o : FScvt) (s : State) : Host.Outcome State Fault Refusal := s.scvtDn o .e4m3 8

/-- SCVT.DN.E5M2 (R151). -/
def execScvtDnE5m2 (o : FScvt) (s : State) : Host.Outcome State Fault Refusal := s.scvtDn o .e5m2 8

/-- SCVT.DN.E2M1 (R151). -/
def execScvtDnE2m1 (o : FScvt) (s : State) : Host.Outcome State Fault Refusal := s.scvtDn o .e2m1 4

/-- A floating compare (R152): the condition with its flags. `ordered` compares set INV for any NaN. -/
def fcmp (inv : Bool) (p : FVal → FVal → Bool → Bool) (e : FEnv) (a b : Word) : Bool × Word :=
  let x := ftziBits .f32 e a.toNat
  let y := ftziBits .f32 e b.toNat
  let ops := [(Fmt.f32, x), (Fmt.f32, y)]
  let un := anyNan ops
  (p (unpack .f32 x) (unpack .f32 y) un, if inv && un then flINV else snanFl ops)

/-- Whether two values are equal; +0 = −0. -/
def eqV (x y : FVal) : Bool :=
  match x, y with
  | .fin _ 0 _, .fin _ 0 _ => true
  | _, _ => !ltV x y && !ltV y x

/-- Less, with −0 equal to +0. -/
def lessV (x y : FVal) : Bool := ltV x y && !eqV x y

/-- An integer compare of two V registers (R152). -/
def State.vcmp (s : State) (o : FCmp) (f : Word → Word → Bool) : Host.Outcome State Fault Refusal :=
  s.runTarget o.sw (fun x s => x.cmpop s
    { use := { ixa := true, ixb := true }, a := some (o.a.toNat, 1), b := some (o.b.toNat, 1) } o.m.toNat
    (fun _ i => (f i.a0 i.b0, 0)))

/-- An integer compare with B from S. -/
def State.vcmpS (s : State) (o : FCmp) (f : Word → Word → Bool) : Host.Outcome State Fault Refusal :=
  s.runTarget o.sw (fun x s => x.cmpop s
    { use := { ixa := true }, a := some (o.a.toNat, 1), bs := some o.b.toNat } o.m.toNat
    (fun _ i => (f i.a0 i.b0, 0)))

/-- A floating compare of two V registers (R152). -/
def State.vfcmp (s : State) (o : FCmp) (inv : Bool) (p : FVal → FVal → Bool → Bool) : Host.Outcome State Fault Refusal :=
  s.runTarget o.sw (fun x s => x.cmpop s
    { use := { ixa := true, ixb := true, na := true, nb := true }, a := some (o.a.toNat, 1), b := some (o.b.toNat, 1),
      fa := some .f32, fb := some .f32, float := true } o.m.toNat
    (fun e i => fcmp inv p e i.a0 i.b0))

/-- A floating compare with B from S. -/
def State.vfcmpS (s : State) (o : FCmp) (inv : Bool) (p : FVal → FVal → Bool → Bool) : Host.Outcome State Fault Refusal :=
  s.runTarget o.sw (fun x s => x.cmpop s
    { use := { ixa := true, na := true, nb := true }, a := some (o.a.toNat, 1), bs := some o.b.toNat,
      fa := some .f32, fb := some .f32, float := true } o.m.toNat
    (fun e i => fcmp inv p e i.a0 i.b0))

/-- CMP.EQ (R152). -/
def execCmpEq (o : FCmp) (s : State) : Host.Outcome State Fault Refusal := s.vcmp o (fun a b => a == b)

/-- CMP.NE (R152). -/
def execCmpNe (o : FCmp) (s : State) : Host.Outcome State Fault Refusal := s.vcmp o (fun a b => a != b)

/-- CMP.LT.I (R152). -/
def execCmpLtI (o : FCmp) (s : State) : Host.Outcome State Fault Refusal := s.vcmp o (fun a b => a.slt b)

/-- CMP.LE.I (R152). -/
def execCmpLeI (o : FCmp) (s : State) : Host.Outcome State Fault Refusal := s.vcmp o (fun a b => a.sle b)

/-- CMP.LT.N (R152). -/
def execCmpLtN (o : FCmp) (s : State) : Host.Outcome State Fault Refusal := s.vcmp o (fun a b => a.ult b)

/-- CMP.LE.N (R152). -/
def execCmpLeN (o : FCmp) (s : State) : Host.Outcome State Fault Refusal := s.vcmp o (fun a b => a.ule b)

/-- CMP.TSTZ (R152). -/
def execCmpTstz (o : FCmp) (s : State) : Host.Outcome State Fault Refusal := s.vcmp o (fun a b => a &&& b == 0)

/-- CMP.TSTNZ (R152). -/
def execCmpTstnz (o : FCmp) (s : State) : Host.Outcome State Fault Refusal := s.vcmp o (fun a b => a &&& b != 0)

/-- CMP.FEQ (R152). -/
def execCmpFeq (o : FCmp) (s : State) : Host.Outcome State Fault Refusal := s.vfcmp o false (fun x y un => !un && eqV x y)

/-- CMP.FNE (R152). -/
def execCmpFne (o : FCmp) (s : State) : Host.Outcome State Fault Refusal := s.vfcmp o false (fun x y un => un || !eqV x y)

/-- CMP.FLT (R152). -/
def execCmpFlt (o : FCmp) (s : State) : Host.Outcome State Fault Refusal := s.vfcmp o true (fun x y un => !un && lessV x y)

/-- CMP.FLE (R152). -/
def execCmpFle (o : FCmp) (s : State) : Host.Outcome State Fault Refusal := s.vfcmp o true (fun x y un => !un && (lessV x y || eqV x y))

/-- CMP.FUNO (R152). -/
def execCmpFuno (o : FCmp) (s : State) : Host.Outcome State Fault Refusal := s.vfcmp o false (fun _ _ un => un)

/-- CMP.FORD (R152). -/
def execCmpFord (o : FCmp) (s : State) : Host.Outcome State Fault Refusal := s.vfcmp o false (fun _ _ un => !un)

/-- CMP.EQ.S (R152). -/
def execCmpEqS (o : FCmp) (s : State) : Host.Outcome State Fault Refusal := s.vcmpS o (fun a b => a == b)

/-- CMP.NE.S (R152). -/
def execCmpNeS (o : FCmp) (s : State) : Host.Outcome State Fault Refusal := s.vcmpS o (fun a b => a != b)

/-- CMP.LT.I.S (R152). -/
def execCmpLtIS (o : FCmp) (s : State) : Host.Outcome State Fault Refusal := s.vcmpS o (fun a b => a.slt b)

/-- CMP.LE.I.S (R152). -/
def execCmpLeIS (o : FCmp) (s : State) : Host.Outcome State Fault Refusal := s.vcmpS o (fun a b => a.sle b)

/-- CMP.LT.N.S (R152). -/
def execCmpLtNS (o : FCmp) (s : State) : Host.Outcome State Fault Refusal := s.vcmpS o (fun a b => a.ult b)

/-- CMP.LE.N.S (R152). -/
def execCmpLeNS (o : FCmp) (s : State) : Host.Outcome State Fault Refusal := s.vcmpS o (fun a b => a.ule b)

/-- CMP.TSTZ.S (R152). -/
def execCmpTstzS (o : FCmp) (s : State) : Host.Outcome State Fault Refusal := s.vcmpS o (fun a b => a &&& b == 0)

/-- CMP.TSTNZ.S (R152). -/
def execCmpTstnzS (o : FCmp) (s : State) : Host.Outcome State Fault Refusal := s.vcmpS o (fun a b => a &&& b != 0)

/-- CMP.FEQ.S (R152). -/
def execCmpFeqS (o : FCmp) (s : State) : Host.Outcome State Fault Refusal := s.vfcmpS o false (fun x y un => !un && eqV x y)

/-- CMP.FNE.S (R152). -/
def execCmpFneS (o : FCmp) (s : State) : Host.Outcome State Fault Refusal := s.vfcmpS o false (fun x y un => un || !eqV x y)

/-- CMP.FLT.S (R152). -/
def execCmpFltS (o : FCmp) (s : State) : Host.Outcome State Fault Refusal := s.vfcmpS o true (fun x y un => !un && lessV x y)

/-- CMP.FLE.S (R152). -/
def execCmpFleS (o : FCmp) (s : State) : Host.Outcome State Fault Refusal := s.vfcmpS o true (fun x y un => !un && (lessV x y || eqV x y))

/-- CMP.FUNO.S (R152). -/
def execCmpFunoS (o : FCmp) (s : State) : Host.Outcome State Fault Refusal := s.vfcmpS o false (fun _ _ un => un)

/-- CMP.FORD.S (R152). -/
def execCmpFordS (o : FCmp) (s : State) : Host.Outcome State Fault Refusal := s.vfcmpS o false (fun _ _ un => !un)

end Sys2Proof.Machine
end

