-- ==== Sys2Proof/Machine/Notices.lean ====
section
/-! DEFINITION. The release notice of the key unit, and the port watchdog (R180, R238). -/

namespace Sys2Proof.Machine

open Sys2Proof

/-- Applies an engine request whose dependence is satisfied, by its kind (R180). -/
def State.applyReq (s : State) (id : Nat) : State :=
  match s.reqs.get? id with
  | none => s
  | some r =>
    match r.kind with
    | .rcArm => s.applyRc id
    | .rcWait => s.applyRc id
    | .mxZero => s.applyMx id
    | .scLoad => s.applyMx id
    | .gLaunch => s.applyGrid id
    | .gWait => s.applyGrid id
    | .crCfg => s.applyCreel id
    | .crAlloc _ => s.applyCreel id
    | .crGate => s.applyCreel id
    | .crWait => s.applyCreel id
    | .crFree => s.applyCreel id

/-- The context of a deferred request or operation. -/
def State.deferredCtx (s : State) (id : Nat) : Option Nat :=
  match s.reqs.get? id with
  | some r => some r.ctx
  | none => (s.ops.get? id).map (fun o => o.ctx)

/-- Whether an access waits in the store queue of a home outside the cores (R180). -/
def Target.atHome : Target → Bool
  | .dev _ => true
  | .sys _ => true
  | .net _ _ => true
  | _ => false

/-- Whether the distributor sends the notice of a store or atomic of a saved warp on its behalf (R185), or holds it (R363): either,
freely (log 76). Engine requests, and what goes to a core or a Creel, wait for the restore. -/
def State.onBehalf (s : State) (id : Nat) : Bool :=
  match s.reqs.get? id, s.ops.get? id with
  | none, some o => !o.near && o.units.all (fun u => u.tgt.atHome) && s.choose 8970 2 = 1
  | _, _ => false

/-- Whether the notices of a request or operation are held: its context is saved, and the distributor sends none for it (R185,
R363). -/
def State.noticesHeld (s : State) (id : Nat) : Bool :=
  match s.deferredCtx id with
  | some c => (s.ctxs.get? c).isSome && (s.ctx c).run == .saved && !s.onBehalf id
  | none => false

/-- RELEASE_NOTICE (R180): what was deferred proceeds once its dependence is satisfied, unless its notice is held for a saved
context (R185, R363). -/
def execReleaseNotice (id : Nat) (s : State) : Host.Outcome State Fault Refusal :=
  if s.noticesHeld id then ran (s.post (.releaseNotice id)) else
  match s.reqs.get? id with
  | some r => if s.depOk r.uid r.dep then ran (s.applyReq id) else ran (s.post (.releaseNotice id))
  | none =>
    match s.releaseOp id with
    | some t => ran t
    | none => ran (s.post (.releaseNotice id))

/-- PORT_WATCHDOG_EXPIRY (R238, R104): the parked word traps with PORT_WATCHDOG; EINFO1 has its port code, EINFO2 and
EINFO3 the lanes that wait. -/
def execPortWatchdogExpiry (uid : Nat) (s : State) : Host.Outcome State Fault Refusal :=
  match s.portDue uid, (s.warp uid).group with
  | some t, some g =>
    let w := s.warp uid
    let s1 : State := { (s.reachCore w.core t).wake uid w.iss.stall with word := w.iss.parkWord }
    ran (s1.raise { uid := uid, w := s1.warp uid, g := g }
      { cause := 0x0D, info1 := w.iss.parkWord.extractLsb' 18 3 |>.setWidth 32, info2 := g.mask.setWidth 32,
        info3 := g.mask.extractLsb' 32 32 })
  | _, _ => ran s

end Sys2Proof.Machine
end

