-- ==== Sys2Proof/Machine/Replay.lean ====
section
/-! DEFINITION. The replay of a recorded segment (R407, R408): placing its teams, its inputs at their clocks, and what a word does
on a core that exchanges nothing with the rest of the device. -/

namespace Sys2Proof.Machine

open Sys2Proof

/-! Placing (R403, R407). -/

/-- A warp as a replay has it: in the replay's context, at its slot of the replaying core, its claims under new names. Values that had
not become visible in its ports come from the input log. -/
def Warp.placed (w : Warp) (ctx team core : Nat) (name : Nat → Nat) : Warp :=
  { w with
    id := { w.id with ctx := ctx, team := team, place := some (core * 64 + w.slot) }
    kf := { w.kf with sendq := [], claims := w.kf.claims.map (fun q => { q with id := name q.id, mem := q.mem.map name }) }
    iss := { w.iss with status := w.iss.status.map (fun q =>
      { q with owner := match q.owner with | .claim k => .claim (name k) | x => x }) }
    ports := w.ports.map (fun x => { x with queue := x.queue.mapv (fun _ l => l.filter (fun v => v.vis)) }) }

/-- A number's new name: its place in a list after a base. -/
def nameFrom (l : List Nat) (base k : Nat) : Nat := (findIx (fun x => x == k) l 0).elim k (fun p => base + p.1)

/-- Places a recorded team on the replaying core, its warps and their key members under new names, and its grid as one that
retires by itself. Members of what the recorded device still had to perform leave, since a replay performs nothing outside the core; lines
that copies had made absent are present (log 51). -/
def State.placeSegTeam (s : State) (core ctx : Nat) (x : SegTeam) : State :=
  let t := s.fresh
  let warp := nameFrom (x.warps.map Prod.fst) (t + 1)
  let base := t + 1 + x.warps.length
  let mem := nameFrom (x.members.map Prod.fst) base
  let s1 : State := { s with
    fresh := base + x.members.length
    warps := x.warps.foldl (fun m p => m.set (warp p.1) (p.2.placed ctx t core mem)) s.warps
    teams := s.teams.set t { x.team with
      ctx := ctx, core := some core, warps := x.team.warps.map warp, absent := []
      barriers := x.team.barriers.mapv (fun _ b => { b with arrivals := b.arrivals.map (fun a =>
        { a with uid := warp a.uid, mem := a.mem.map mem }) }) }
    grids := if (s.grids.get? (gridKey ctx x.team.grid)).isSome then s.grids
      else s.grids.set (gridKey ctx x.team.grid) { x.grid with ctx := ctx, retired := true }
    members := x.members.foldl (fun m p => m.set (mem p.1) { p.2 with uid := warp p.2.uid }) s.members }
  (x.members.filter (fun p => !p.2.claim)).foldl (fun s p => s.leave (mem p.1)) s1

/-- Changes the replay on a core. -/
def State.modReplay (s : State) (core : Nat) (f : Seg → Seg) : State := s.modCore core (fun k => { k with replay := k.replay.map f })

/-- The teams of a replay that have come by the core's clock are placed (R408). -/
def State.placeDue (s : State) (core : Nat) : State :=
  match (s.core core).replay with
  | none => s
  | some g =>
    let due (x : SegTeam) : Bool := decide (x.clk ≤ (s.core core).cyc)
    (g.teams.filter due).foldl (fun s x => s.placeSegTeam core g.ctx x)
      (s.modReplay core (fun g => { g with teams := g.teams.filter (fun x => !due x) }))

/-- Every recorded segment, in core order. -/
def State.allSegs (s : State) : List Seg := s.cores.vals.flatMap (fun k => k.segs)

/-- Whether a replay may begin on a core in a context: the context has nothing placed, and the core holds no warp (R407). -/
def State.mayReplay (s : State) (core ctx : Nat) : Bool :=
  s.runs ctx && !(s.ctx ctx).terminated && s.usable ctx core && s.warps.all (fun kv =>
    kv.2.retired || (kv.2.id.ctx != ctx && !(kv.2.id.place.isSome && kv.2.core == core)))

/-- REPLAY_START (R407): the initial state of a recorded segment is placed on a core that holds no warp, in a context of its own, whose
observation header takes the records of the replay. -/
def execReplayStart (core : Nat) (seg : ReplayOf) (s : State) : Host.Outcome State Fault Refusal :=
  match s.allSegs[seg.seg]? with
  | none => ran s
  | some g =>
    if g.opened || !s.mayReplay core seg.ctx then ran s
    else
      ran ((s.modCore core (fun k => { k with
        cyc := g.start, busy := [], mag := g.mag, lq := g.lq, replay := some { g with ctx := seg.ctx, digest := 0 } })).placeDue core)

/-! What the logs tell (R403, R404). -/

/-- Takes one clock off every partition's issue log: the partitions with the masks that issue, and the logs after it. -/
def takeClock (l : List (Nat × Nat × Nat)) : List (Nat × Nat) × List (Nat × Nat × Nat) :=
  (List.range 8).foldl (fun a p =>
    match findIx (fun x => x.1 == p) a.2 0 with
    | none => a
    | some (i, x) =>
      let rest := if x.2.2 ≤ 1 then dropAt a.2 i else setAt a.2 i (p, x.2.1, x.2.2 - 1)
      (if x.2.1 != 0 then a.1 ++ [(p, x.2.1)] else a.1, rest)) ([], l)

/-- How many clocks of a partition's issue log pass before one names a bit. -/
def clocksTo (bit : Nat) : List (Nat × Nat × Nat) → Nat → Option Nat
  | [], _ => none
  | (_, m, n) :: t, k => if m.testBit bit then some k else clocksTo bit t (k + n)

/-- What an entry of the input log is of: its KIND, its slot, and its payload. -/
def inputOf (e : List Word) : Nat × Nat × List Word := (bits (nth e 2 0).toNat 7 0, bits (nth e 2 0).toNat 13 8, e.drop 4)

/-- The stall whose end an entry of the input log tells a slot, if it is such an entry (R404). -/
def wakeOf (slot : Nat) (e : List Word) : Option Stall :=
  let q := inputOf e
  if q.1 = 6 ∧ q.2.1 = slot ∧ (nth q.2.2 0 0).toNat < 2 ^ 8 then Stall.ofIdx (nth q.2.2 0 0).toNat else none

/-- What the logs of a replay tell next of the warp at a slot: the end of a park, an issue, or nothing more. -/
inductive Coming where
  | wake (k : Stall)
  | issue
  | nothing
  deriving DecidableEq, Repr

/-- What the logs tell next of the warp at a slot, when the issue log goes on at clock `now`: what comes before another team takes the
slot. -/
def Seg.coming (g : Seg) (slot now : Nat) : Coming :=
  let taken := g.teams.filter (fun t => t.warps.any (fun p => p.2.slot == slot || (p.2.id.wide && p.2.slot + 1 == slot)))
  let mine (t : Nat) : Bool := taken.all (fun x => decide (t ≤ x.clk))
  let issue := (clocksTo (slot % 8) (g.issue.filter (fun x => x.1 == slot / 8)) now).filter mine
  let wake := g.input.findSome? (fun q => (wakeOf slot q.2).map (fun k => (q.1, k)))
  match wake.filter (fun q => mine q.1 && issue.all (fun t => decide (q.1 ≤ t))) with
  | some (_, k) => .wake k
  | none => if issue.isSome then .issue else .nothing

/-! Inputs (R404, R407). -/

/-- A warp's park ends: what it waited for outside the core is taken as come (R407). -/
def State.unpark (s : State) (u : Nat) (k : Stall) : State :=
  let w := s.warp u
  match k with
  | .barrier =>
    let b := w.iss.parkBar
    let x := (s.team w.id.team).bar b
    (x.arrivals.filter (fun a => a.uid == u)).foldl (fun s a => s.leaveO a.mem)
      (s.putBar w.id.team b { x with arrivals := x.arrivals.filter (fun a => a.uid != u), st := if x.st = .unconf then .unconf else .idle })
  | .hold => if w.iss.resume = .halt then s.modWarp u (fun w => { w with iss := { w.iss with resume := .resumed } }) else s
  | _ => s

/-- A port queue as an entry of KIND 2 leaves it: a value joins it, an entry of it changes, or the port is orphaned (R404; log 83). -/
def Port.told (x : Port) (code : Nat) (vals : KMap Word) : Port :=
  if code.testBit 7 then { x with st := .orphaned, gone := code.testBit 6 }
  else
    let put (l : List PortVal) (v : Word) : List PortVal :=
      if bits code 15 8 = 0 then l ++ [{ tx := 0, val := v, vis := true }]
      else l.zipIdx.map (fun q => if q.2 + 1 = bits code 15 8 then { q.1 with val := v } else q.1)
    { x with st := .connected, queue := vals.foldl (fun k v => k.set v.1 (put (k.getD v.1 []) v.2)) x.queue }

/-- The first claim of a warp is satisfied with two words (R182, R404). -/
def State.toldChime (s : State) (u : Nat) (a b : Word) : State :=
  let w := s.warp u
  match w.kf.claims with
  | [] => s
  | cl :: t =>
    (s.putWarp u { w with
      kf := { w.kf with claims := t }
      regs := { w.regs with s := (w.regs.s.set cl.sd a).set (cl.sd + 1) b }
      iss := { w.iss with status := w.iss.status.filter (fun q => q.owner != .claim cl.id) } }).leaveO cl.mem

/-- A report reaches its warp, with the violation flag of its key (R106, R184, R404). -/
def State.toldReport (s : State) (u : Nat) (p : List Word) : State :=
  let x := (nth p 0 0).toNat
  let k := bits x 12 8 - 1
  let s1 := if k < 16 then s.modWarp u (fun w => w.setKey k { w.key k with viol := true }) else s
  s1.addReport u { cause := BitVec.ofNat 6 x, addr := pair (nth p 1 0) (nth p 2 0), key := k }

/-- Results and status writes of a register are not awaited any more: their values have come from the log. What was refused in part
stays (R216). -/
def State.come (s : State) (u : Nat) (n : RegName) : State :=
  s.modWarp u (fun w => { w with iss := { w.iss with
    outstanding := w.iss.outstanding.filter (fun o => logKind o.word == 0 || !o.refused.isEmpty || !o.hits n)
    status := w.iss.status.filter (fun q => !q.reg.same n) } })

/-- The effect of one entry of the input log on the warp of its slot (R404, R407). -/
def State.applyInput (s : State) (core : Nat) (e : List Word) : State :=
  let (kind, slot, p) := inputOf e
  match s.warpAt core slot with
  | none => s
  | some (u, _) =>
    let m : Lanes := pair (nth p 0 0) (nth p 1 0)
    let r := nth p 2 0
    let vals : KMap Word := (lanesOf m).zip (p.drop 3)
    match kind with
    | 2 => s.modWarp u (fun w => { w.setPort (r.toNat % 8) ((w.port (r.toNat % 8)).told r.toNat vals) with moved := (s.core core).cyc })
    | 3 => s.toldChime u (nth p 0 0) (nth p 1 0)
    | 6 =>
      match wakeOf slot e with
      | some k => s.unpark u k
      | none => s.toldReport u p
    | 7 => s.writeback u [.v r.toNat vals] (fun _ => true)
    | _ =>
      if p.length ≤ 2 then
        (s.come u (.s (nth p 0 0).toNat)).modWarp u (fun w => { w with regs := { w.regs with s := w.regs.s.set (nth p 0 0).toNat (nth p 1 0) } })
      else if r.getLsbD 31 then
        let who : List (Nat × Addr) := (lanesOf m).zipIdx.map (fun q => (q.1, pair (nth p (3 + 2 * q.2) 0) (nth p (4 + 2 * q.2) 0)))
        s.modWarp u (fun w => { w with iss := { w.iss with outstanding := w.iss.outstanding.map (fun o =>
          if logKind o.word != 0 && o.hits (.v (r.toNat % 2 ^ 31) (BitVec.allOnes 64)) then { o with ready := true, refused := who } else o) } })
      else (s.come u (.v r.toNat m)).writeback u [.v r.toNat vals] (fun _ => true)

/-- A mismatch of a replay: a precise stop with ARG bit 63 set (R407). The replay goes on from there when it is resumed. -/
def State.replayStop (s : State) (core ctx uid : Nat) : State :=
  let w := s.warp uid
  ((s.modCtx ctx (fun c => { c with stopped := true, stopOn := none, step := none })).pauseWatch ctx).trace
    ctx 7 core w.id.grid (s.teamIndex w) (w.thread w.nameLane)
    (2 ^ 63 + ((w.group.map (fun g => g.pc.toNat)).getD 0) % 2 ^ 63) (s.core core).cyc

/-- The inputs due at a replaying core, first first; a digest is compared, and the next begins (R406, R407). -/
def State.replayInputs (s : State) (core : Nat) : Nat → State
  | 0 => s
  | n + 1 =>
    match (s.core core).replay with
    | none => s
    | some g =>
      match g.input with
      | [] => s
      | (clk, e) :: t =>
        if (s.core core).cyc < clk then s
        else
          let s1 := s.modReplay core (fun g => { g with input := t })
          if bits (nth e 2 0).toNat 7 0 = 8 then
            let s2 := s1.modReplay core (fun g => { g with digest := 0 })
            (if pair (nth e 4 0) (nth e 5 0) == g.digest then s2
              else s2.replayStop core g.ctx (((s.slotsOf core g.ctx).head?.map Prod.fst).getD 0)).replayInputs core n
          else (s1.applyInput core e).replayInputs core n

/-! What a word does (R407). -/

/-- The state in which a word of a replay runs: the tables of the engines hold nothing that could hold it up. -/
def State.alone (s : State) (ctx : Nat) : State :=
  { s with ops := [], reqs := [], copies := [], posts := [], graves := [], grids := s.grids.keep (fun _ g => g.ctx == ctx) }

/-- What a word of a replay leaves, begun in `old`: the core's warps, teams and own tables, the records of its context, and the
returns of what is computed inside the core. What it set going outside is not performed, and its members leave (R407). -/
def State.keepInside (s old : State) (core : Nat) : State :=
  let mine (u : Nat) : Bool := (s.warp u).id.place.isSome && (s.warp u).core == core
  let ev (e : Ev) : Bool := match e with
    | .registerResultReturn u id => mine u &&
      ((s.warp u).iss.outstanding.find? (fun r => r.id == id)).any (fun r => logKind r.word == 0)
    | .lqtblComplete c _ => c == core
    | .trapEntry u => mine u
    | .portValueVisible id => (match s.txs.get? id with | some t => decide (t.port < 2) | none => false)
    | _ => false
  let new := s.members.filter (fun kv => (old.members.get? kv.1).isNone && !kv.2.claim)
  let s1 : State := { old with
    cur := s.cur, word := s.word, fresh := s.fresh, mem := s.mem, outbox := s.outbox, ctxs := s.ctxs
    bag := old.bag ++ (s.bag.drop old.bag.length).filter ev
    warps := s.warps.mapv (fun u w => if mine u then { w with kf := { w.kf with sendq := [] } } else w)
    teams := s.teams.mapv (fun _ t => if t.core == some core then { t with absent := [] } else t)
    members := s.members, txs := s.txs, cores := old.cores.set core (s.core core) }
  new.foldl (fun s m => s.leave m.1) s1

end Sys2Proof.Machine
end

