-- ==== Sys2Proof/Machine/Results.lean ====
section
/-! DEFINITION. What returns to a warp after its words have issued: register results, magnitude-table writes, key members,
traps that waited, and the starvation limit of the partition (R74, R78, R84, R100, R165, R169). -/

namespace Sys2Proof.Machine

open Sys2Proof

/-- What a sampled result reads now, for a lane. -/
def State.sampleNow (s : State) (uid : Nat) (m : Lanes) (lane : Nat) : Sample → Word
  | .port p => Cx.pstatWord { uid := uid, w := s.warp uid, g := { mask := m } } s p lane
  | .counter core n => statusWord false false 0 (s.rc core n).count
  | .copy v lane => s.cpollWord uid v lane
  | .creel b sels => s.crstatWord b lane (((sels.find? (fun p => p.1 == lane)).map Prod.snd).getD 0)
  | .barrier t b => ((s.team t).bar b).stat

/-- A register write with what its sample reads now. -/
def State.writeNow (s : State) (uid : Nat) (k : Sample) : RegWrite → RegWrite
  | .v n vals => .v n (vals.map (fun q => (q.1, s.sampleNow uid (maskOf vals.keys) q.1 k)))
  | .s n _ => .s n (s.sampleNow uid 0 0 k)
  | w => w

/-- A result as it is written: a sampled one holds what it read at issue or what it reads at the write, freely (R246, R275, R276,
R348, R376; log 73). -/
def State.resampled (s : State) (uid : Nat) (r : Result) : Result :=
  match r.sample with
  | none => r
  | some k => if s.choose 80000 2 = 0 then r else { r with writes := r.writes.map (s.writeNow uid k) }

/-- Whether a write is of a mask register. -/
def RegWrite.ofMask (n : Nat) : RegWrite → Bool
  | .m k _ _ => k == n
  | _ => false

/-- Two results that write one mask in a run, each in its own lanes: as the first of them returns, the bits of either may come to
keep their old values, freely (R78, R152). -/
def State.maskRace (s : State) (r : Result) (others : List Result) : Result × List Result :=
  r.writes.foldl (fun (a : Result × List Result) x =>
    match x with
    | .m n _ _ =>
      if a.2.any (fun q => q.writes.any (RegWrite.ofMask n)) then
        let drop (q : Result) : Result := { q with writes := q.writes.filter (fun y => !y.ofMask n) }
        let k := s.choose (81000 + n) 4
        (if k % 2 = 1 then drop a.1 else a.1, if k / 2 = 1 then a.2.map drop else a.2)
      else a
    | _ => a) (r, others)

/-- REGISTER_RESULT_RETURN (R78, R84): the writeback, and the result is no longer outstanding. -/
def execRegisterResultReturn (uid id : Nat) (s : State) : Host.Outcome State Fault Refusal :=
  match s.warps.get? uid with
  | none => ran s
  | some w =>
    match w.iss.outstanding.find? (fun r => r.id == id) with
    | none => ran s
    | some r0 =>
      if !r0.ready then ran s
      else
        let s1 := if w.id.place.isSome then s.reachCore w.core r0.due else s
        let race := s1.maskRace (s1.resampled uid r0) (w.iss.outstanding.filter (fun q => q.id != id))
        let r := race.1
        let s2 := (s1.logResult uid r).modWarp uid (fun w => { w with iss := { w.iss with outstanding := race.2 } })
        ran (s2.writeback uid r.writes (fun p => !p.waits.contains id))

/-- LQTBL_COMPLETE (R165): the entries of a magnitude table take their new words, those written first coming first. -/
def execLqtblComplete (core id : Nat) (s : State) : Host.Outcome State Fault Refusal :=
  match (s.core core).lq.find? (fun q => q.id == id) with
  | none => ran s
  | some q =>
    if (s.core core).lq.any (fun x => decide (x.due < q.due)) then ran (s.post (.lqtblComplete core id)) else
    let s1 := (s.reachCore core q.due).modCore core (fun k =>
      { k with mag := q.writes.foldl (fun m p => m.set p.1 p.2) k.mag, lq := k.lq.filter (fun x => x.id != id) })
    if (s1.warps.get? q.uid).isNone then ran s1
    else ran (s1.modWarp q.uid (fun w =>
      { w with iss := { w.iss with outstanding := w.iss.outstanding.filter (fun r => r.id != id) } }))

/-- MEMBER_LEAVE (R169, R170). -/
def execMemberLeave (id : Nat) (s : State) : Host.Outcome State Fault Refusal := ran (s.leave id)

/-- TRAP_ENTRY (R100): a trap is entered once the register results outstanding have returned. -/
def execTrapEntry (uid : Nat) (s : State) : Host.Outcome State Fault Refusal :=
  match s.warps.get? uid with
  | none => ran s
  | some w =>
    match w.iss.pendTrap with
    | none => ran s
    | some p => if w.busy then ran (s.post (.trapEntry uid)) else ran (s.enterTrap uid p)

/-- ARB_STARVE_LIMIT (R74): a warp whose count has reached 64 goes ahead of warp priority when it is next ready. -/
def execArbStarveLimit (uid : Nat) (s : State) : Host.Outcome State Fault Refusal :=
  match s.warps.get? uid with
  | none => ran s
  | some w =>
    if w.iss.unchosen < 64 then ran s
    else ran (s.putWarp uid { w with iss := { w.iss with starved := true } })

end Sys2Proof.Machine
end

