-- ==== Sys2Proof/Machine/Scalar.lean ====
section
/-! DEFINITION. Whole-mask, cross-lane, scalar, move and codebook instructions (R153 to R165). -/

namespace Sys2Proof.Machine

open Sys2Proof

/-! MASK (R153). -/

/-- A mask operation: masks read, one written. -/
def State.maskOp (s : State) (sw : Bool) (d : Nat) (srcs : List Nat) (f : Cx → State → Lanes) :
    Host.Outcome State Fault Refusal :=
  s.runTarget sw (fun c s => do
    c.noXp
    c.touch s (((d :: srcs).filter (fun n => n != 0)).map RegName.m)
    let v := f c s &&& allLanes c.w.id.wide
    .ok (if d = 0 then s else s.result c 2 [.m d] [.m d (BitVec.allOnes 64) v], .next))

/-- MAND (R153). -/
def execMand (o : FMask3) (s : State) : Host.Outcome State Fault Refusal :=
  s.maskOp o.sw o.d.toNat [o.a.toNat, o.b.toNat] (fun c s => c.readM s o.a.toNat &&& c.readM s o.b.toNat)

/-- MOR (R153). -/
def execMor (o : FMask3) (s : State) : Host.Outcome State Fault Refusal :=
  s.maskOp o.sw o.d.toNat [o.a.toNat, o.b.toNat] (fun c s => c.readM s o.a.toNat ||| c.readM s o.b.toNat)

/-- MXOR (R153). -/
def execMxor (o : FMask3) (s : State) : Host.Outcome State Fault Refusal :=
  s.maskOp o.sw o.d.toNat [o.a.toNat, o.b.toNat] (fun c s => c.readM s o.a.toNat ^^^ c.readM s o.b.toNat)

/-- MANDN (R153). -/
def execMandn (o : FMask3) (s : State) : Host.Outcome State Fault Refusal :=
  s.maskOp o.sw o.d.toNat [o.a.toNat, o.b.toNat] (fun c s => c.readM s o.a.toNat &&& ~~~(c.readM s o.b.toNat))

/-- MNOT, within the width (R153). -/
def execMnot (o : FMask2) (s : State) : Host.Outcome State Fault Refusal :=
  s.maskOp o.sw o.d.toNat [o.a.toNat] (fun c s => ~~~(c.readM s o.a.toNat))

/-- A mask into S registers. -/
def State.maskS (s : State) (sw : Bool) (a : Nat) (f : Bool → Lanes → Except Stop (List (Nat × Word))) :
    Host.Outcome State Fault Refusal :=
  s.runTarget sw (fun c s => do
    c.noXp
    let outs ← f c.w.id.wide (c.readM s a)
    c.touch s ((if a = 0 then [] else [RegName.m a]) ++ outs.map (fun p => RegName.s p.1))
    .ok (s.result c 2 (outs.map (fun p => RegName.s p.1)) (outs.map (fun p => RegWrite.s p.1 p.2)), .next))

/-- MPOPC (R153). -/
def execMpopc (o : FMaskS) (s : State) : Host.Outcome State Fault Refusal :=
  s.maskS o.sw o.a.toNat (fun _ m => .ok [(o.n.toNat, BitVec.ofNat 32 (lanesOf m).length)])

/-- MFFS (R153). -/
def execMffs (o : FMaskS) (s : State) : Host.Outcome State Fault Refusal :=
  s.maskS o.sw o.a.toNat (fun _ m => .ok [(o.n.toNat, if m = 0 then 0xFFFFFFFF else BitVec.ofNat 32 (lowest m))])

/-- MTOS: a pair at width 64, with n even (R153). -/
def execMtos (o : FMaskS) (s : State) : Host.Outcome State Fault Refusal :=
  s.maskS o.sw o.a.toNat (fun wide m =>
    if wide then
      (if o.n.toNat % 2 = 1 then .error ill
       else .ok [(o.n.toNat, m.setWidth 32), (o.n.toNat + 1, m.extractLsb' 32 32)])
    else .ok [(o.n.toNat, m.setWidth 32)])

/-- MFROMS: from a pair at width 64, with n even (R153). -/
def execMfroms (o : FMfroms) (s : State) : Host.Outcome State Fault Refusal :=
  s.runTarget o.sw (fun c s => do
    c.noXp
    if c.w.id.wide && o.n.toNat % 2 == 1 then .error ill
    else
      let n := o.n.toNat
      let d := o.d.toNat
      c.touch s ((if d = 0 then [] else [RegName.m d]) ++ [RegName.s n] ++ (if c.w.id.wide then [RegName.s (n + 1)] else []))
      let v : Lanes := if c.w.id.wide then pair (c.readS s n) (c.readS s (n + 1)) else (c.readS s n).setWidth 64
      .ok (if d = 0 then s else s.result c 2 [.m d] [.m d (BitVec.allOnes 64) v], .next))

/-! XLANE (R154 to R157). -/

/-- Lanes of a partition tile: n lanes from the base of lane i's tile (R154). -/
def tileSize (tile : Nat) : Nat := 2 ^ tile
def tileBase (tile i : Nat) : Nat := i / tileSize tile * tileSize tile
def tileLanes (tile i : Nat) (act : Lanes) : List Nat :=
  (List.range' (tileBase tile i) (tileSize tile)).filter (fun j => act.getLsbD j)

/-- The source lane of a shuffle; none outside the tile or the width (R155). -/
def shflSrc (tile : Nat) (wide : Bool) (i : Nat) (src : Int) : Option Nat :=
  let b : Int := tileBase tile i
  if b ≤ src ∧ src < b + tileSize tile ∧ src < (if wide then 64 else 32) then some src.toNat else none

/-- A shuffle (R155). -/
def State.shfl (s : State) (o : FDab) (src : Nat → Nat → Int) : Host.Outcome State Fault Refusal :=
  s.runTarget o.sw (fun x s =>
    let from1 (tile : Nat) (i : LaneIn) : Option Nat := shflSrc tile x.w.id.wide i.lane (src i.lane i.b0.toNat)
    x.xop s
      { use := { ixd := true, ixa := true, ixb := true }, d := some (o.d.toNat, 1), a := some (o.a.toNat, 1),
        b := some (o.b.toNat, 1), lat := 8 }
      (fun tile _ ins => maskOf (ins.map (fun i => (from1 tile i).getD i.lane)))
      (fun _ tile _ rd i =>
        match from1 tile i with
        | some l => one i (rd l)
        | none => { ws := [i.a0], fl := flXLB, rng := i.rng }))

/-- SHFL.IDX (R155). -/
def execShflIdx (o : FDab) (s : State) : Host.Outcome State Fault Refusal := s.shfl o (fun _ k => (k : Int))

/-- SHFL.UP (R155). -/
def execShflUp (o : FDab) (s : State) : Host.Outcome State Fault Refusal := s.shfl o (fun i k => (i : Int) - k)

/-- SHFL.DN (R155). -/
def execShflDn (o : FDab) (s : State) : Host.Outcome State Fault Refusal := s.shfl o (fun i k => (i : Int) + k)

/-- SHFL.XOR (R155). -/
def execShflXor (o : FDab) (s : State) : Host.Outcome State Fault Refusal := s.shfl o (fun i k => ((i ^^^ k : Nat) : Int))

/-- A tile-wide value of active lanes (R156, R157). -/
def State.tileOp (s : State) (o : FDa) (lat : Nat) (f : Nat → Lanes → (Nat → Word) → LaneIn → Word) :
    Host.Outcome State Fault Refusal :=
  s.runTarget o.sw (fun x s => x.xop s
    { use := { ixd := true, ixa := true }, d := some (o.d.toNat, 1), a := some (o.a.toNat, 1), lat := lat }
    (fun _ act _ => act)
    (fun _ tile act rd i => one i (f tile act rd i)))

/-- A tile-wide lane mask, a pair at width 64 (R156). -/
def State.tileMask (s : State) (o : FDa) (f : Nat → Lanes → (Nat → Word) → LaneIn → Lanes) :
    Host.Outcome State Fault Refusal :=
  s.runTarget o.sw (fun x s =>
    if x.w.id.wide && o.d.toNat % 2 == 1 then .error ill
    else x.xop s
      { use := { ixd := true, ixa := true }, d := some (o.d.toNat, if x.w.id.wide then 2 else 1), a := some (o.a.toNat, 1),
        lat := 8 }
      (fun _ act _ => act)
      (fun _ tile act rd i =>
        { ws := if x.w.id.wide then pairWords (f tile act rd i) else [(f tile act rd i).setWidth 32], rng := i.rng }))

/-- VOTE.ANY (R156). -/
def execVoteAny (o : FDa) (s : State) : Host.Outcome State Fault Refusal :=
  s.tileOp o 8 (fun tile act rd i => if (tileLanes tile i.lane act).any (fun j => rd j != 0) then 1 else 0)

/-- VOTE.ALL (R156). -/
def execVoteAll (o : FDa) (s : State) : Host.Outcome State Fault Refusal :=
  s.tileOp o 8 (fun tile act rd i => if (tileLanes tile i.lane act).all (fun j => rd j != 0) then 1 else 0)

/-- BALLOT (R156). -/
def execBallot (o : FDa) (s : State) : Host.Outcome State Fault Refusal :=
  s.tileMask o (fun tile act rd i => maskOf ((tileLanes tile i.lane act).filter (fun j => rd j != 0)))

/-- MATCH (R156). -/
def execMatch (o : FDa) (s : State) : Host.Outcome State Fault Refusal :=
  s.tileMask o (fun tile act rd i => maskOf ((tileLanes tile i.lane act).filter (fun j => rd j == rd i.lane)))

/-- BCAST (R156). -/
def execBcast (o : FDa) (s : State) : Host.Outcome State Fault Refusal :=
  s.tileOp o 8 (fun tile act rd i => rd ((tileLanes tile i.lane act).headD i.lane))

/-- REDX.ADD.I (R157). -/
def execRedxAddI (o : FDa) (s : State) : Host.Outcome State Fault Refusal :=
  s.tileOp o 14 (fun tile act rd i => (tileLanes tile i.lane act).foldl (fun a j => a + rd j) 0)

/-- REDX.MIN.I (R157). -/
def execRedxMinI (o : FDa) (s : State) : Host.Outcome State Fault Refusal :=
  s.tileOp o 14 (fun tile act rd i => (tileLanes tile i.lane act).foldl (fun a j => minIW a (rd j)) (rd i.lane))

/-- REDX.MAX.I (R157). -/
def execRedxMaxI (o : FDa) (s : State) : Host.Outcome State Fault Refusal :=
  s.tileOp o 14 (fun tile act rd i => (tileLanes tile i.lane act).foldl (fun a j => maxIW a (rd j)) (rd i.lane))

/-- SCAN.ADD.I (R157). -/
def execScanAddI (o : FDa) (s : State) : Host.Outcome State Fault Refusal :=
  s.tileOp o 14 (fun tile act rd i =>
    ((tileLanes tile i.lane act).filter (fun j => j ≤ i.lane)).foldl (fun a j => a + rd j) 0)

/-- One Add of a cross-lane sum: RNE (R131), flags carried along. -/
def laneAdd (e : FEnv) (x y : FRes) : FRes :=
  let r := fAdd .f32 { e with mode := 1, sat := false } 0 x.v y.v
  { r with fl := r.fl ||| x.fl ||| y.fl }

/-- Node (l, b) of the tree of R131 over the tile at `base`. -/
def treeNode (e : FEnv) (val : Nat → Nat) : Nat → Nat → FRes
  | 0, b => { v := val b }
  | l + 1, b => laneAdd e (treeNode e val l (2 * b)) (treeNode e val l (2 * b + 1))

/-- The sum of the first n lanes of a tile by the maximal aligned nodes, highest first (R132). A node of one lane
is formed by no Add and is the lane's raw value (DESIGN CHOICE, log 88). -/
def scanSum (e : FEnv) (val : Nat → Nat) (n : Nat) : Nat → Nat → Option FRes → FRes
  | 0, start, acc =>
    if bitAt n 0 then (match acc with | some a => laneAdd e a (treeNode e val 0 start) | none => treeNode e val 0 start)
    else acc.getD { v := 0 }
  | l + 1, start, acc =>
    if bitAt n (l + 1) then
      let t := treeNode e val (l + 1) (start / 2 ^ (l + 1))
      scanSum e val n l (start + 2 ^ (l + 1)) (some (match acc with | some a => laneAdd e a t | none => t))
    else scanSum e val n l start acc

/-- A lane's value in a cross-lane floating sum; an inactive lane contributes +0.0 (R131). -/
def laneVal (tile i : Nat) (act : Lanes) (rd : Nat → Word) (k : Nat) : Nat :=
  if act.getLsbD (tileBase tile i + k) then (rd (tileBase tile i + k)).toNat else 0

/-- A floating tile reduction (R131, R132). -/
def State.tileSum (s : State) (o : FDa) (f : FEnv → Nat → (Nat → Nat) → Nat → FRes) : Host.Outcome State Fault Refusal :=
  s.runTarget o.sw (fun x s => x.xop s
    { use := { ixd := true, ixa := true }, d := some (o.d.toNat, 1), a := some (o.a.toNat, 1), fa := some .f32,
      float := true, lat := 14 }
    (fun _ act _ => act)
    (fun e tile act rd i =>
      let r := f e tile (laneVal tile i.lane act rd) (i.lane - tileBase tile i.lane)
      { ws := [BitVec.ofNat 32 r.v], fl := r.fl, rng := i.rng }))

/-- REDX.ADD.F (R131, R157). -/
def execRedxAddF (o : FDa) (s : State) : Host.Outcome State Fault Refusal :=
  s.tileSum o (fun e tile val _ => treeNode e val tile 0)

/-- SCAN.ADD.F (R132, R157). -/
def execScanAddF (o : FDa) (s : State) : Host.Outcome State Fault Refusal :=
  s.tileSum o (fun e tile val i => scanSum e val (i + 1) tile 0 none)

/-! SALU (R158, R159). -/

/-- A scalar instruction of three S registers. -/
def State.salu (s : State) (o : FDab) (f : Word → Word → Word) : Host.Outcome State Fault Refusal :=
  s.runTarget o.sw (fun c s =>
    c.sop s 3 [o.a.toNat, o.b.toNat] [(o.d.toNat, f (c.readS s o.a.toNat) (c.readS s o.b.toNat))])

/-- A scalar instruction with an immediate. -/
def State.salui (s : State) (o : FImm) (f : Word → Word → Word) : Host.Outcome State Fault Refusal :=
  s.runTarget o.sw (fun c s =>
    c.sop s 3 [o.a.toNat] [(o.d.toNat, f (c.readS s o.a.toNat) (c.imm (o.i.signExtend 32)))])

/-- SADD (R158). -/
def execSadd (o : FDab) (s : State) : Host.Outcome State Fault Refusal := s.salu o (fun a b => a + b)

/-- SSUB (R158). -/
def execSsub (o : FDab) (s : State) : Host.Outcome State Fault Refusal := s.salu o (fun a b => a - b)

/-- SMUL (R158). -/
def execSmul (o : FDab) (s : State) : Host.Outcome State Fault Refusal := s.salu o (fun a b => a * b)

/-- SAND (R158). -/
def execSand (o : FDab) (s : State) : Host.Outcome State Fault Refusal := s.salu o (fun a b => a &&& b)

/-- SOR (R158). -/
def execSor (o : FDab) (s : State) : Host.Outcome State Fault Refusal := s.salu o (fun a b => a ||| b)

/-- SXOR (R158). -/
def execSxor (o : FDab) (s : State) : Host.Outcome State Fault Refusal := s.salu o (fun a b => a ^^^ b)

/-- SSHL (R158). -/
def execSshl (o : FDab) (s : State) : Host.Outcome State Fault Refusal := s.salu o (shlW)

/-- SSHR (R158). -/
def execSshr (o : FDab) (s : State) : Host.Outcome State Fault Refusal := s.salu o (shrW)

/-- SSAR (R158). -/
def execSsar (o : FDab) (s : State) : Host.Outcome State Fault Refusal := s.salu o (sarW)

/-- SMINI (R158). -/
def execSminI (o : FDab) (s : State) : Host.Outcome State Fault Refusal := s.salu o (minIW)

/-- SMAXI (R158). -/
def execSmaxI (o : FDab) (s : State) : Host.Outcome State Fault Refusal := s.salu o (maxIW)

/-- SMINN (R158). -/
def execSminN (o : FDab) (s : State) : Host.Outcome State Fault Refusal := s.salu o (minNW)

/-- SMAXN (R158). -/
def execSmaxN (o : FDab) (s : State) : Host.Outcome State Fault Refusal := s.salu o (maxNW)

/-- SCMP (R158). -/
def execScmp (o : FDab) (s : State) : Host.Outcome State Fault Refusal := s.salu o (fun a b => if a.slt b then 0xFFFFFFFF else if a = b then 0 else 1)

/-- SADD.D: a sum of pairs (R158). -/
def execSaddD (o : FDab) (s : State) : Host.Outcome State Fault Refusal :=
  s.runTarget o.sw (fun c s =>
    let rd (n : Nat) : BitVec 64 := pair (c.readS s n) (c.readS s (n + 1))
    let r := rd o.a.toNat + rd o.b.toNat
    c.sop s 3 [o.a.toNat, o.a.toNat + 1, o.b.toNat, o.b.toNat + 1]
      [(o.d.toNat, r.setWidth 32), (o.d.toNat + 1, r.extractLsb' 32 32)])

/-- SSEL: by the old sD (R158). -/
def execSsel (o : FDab) (s : State) : Host.Outcome State Fault Refusal :=
  s.runTarget o.sw (fun c s =>
    c.sop s 3 [o.a.toNat, o.b.toNat]
      [(o.d.toNat, if c.readS s o.d.toNat != 0 then c.readS s o.a.toNat else c.readS s o.b.toNat)])

/-- SADDI (R159). -/
def execSaddi (o : FImm) (s : State) : Host.Outcome State Fault Refusal := s.salui o (fun a i => a + i)

/-- SANDI (R159). -/
def execSandi (o : FImm) (s : State) : Host.Outcome State Fault Refusal := s.salui o (fun a i => a &&& i)

/-- SSHLI (R159). -/
def execSshli (o : FImm) (s : State) : Host.Outcome State Fault Refusal := s.salui o shlW

/-- SMOVI (R159). -/
def execSmovi (o : FMovi) (s : State) : Host.Outcome State Fault Refusal :=
  s.runTarget o.sw (fun c s => c.sop s 3 [] [(o.d.toNat, c.imm (o.i.signExtend 32))])

/-! Moves and control registers (R44, R160 to R162). -/

/-- MOVV (R160). -/
def execMovv (o : FDa) (s : State) : Host.Outcome State Fault Refusal :=
  s.runTarget o.sw (fun x s => x.vop s
    { use := { ixd := true, ixa := true }, d := some (o.d.toNat, 1), a := some (o.a.toNat, 1), lat := 2 }
    (fun _ i => one i i.a0))

/-- MOV.VS (R160). -/
def execMovVs (o : FDa) (s : State) : Host.Outcome State Fault Refusal :=
  s.runTarget o.sw (fun x s => x.vop s
    { use := { ixd := true }, d := some (o.d.toNat, 1), bs := some o.a.toNat, lat := 2 }
    (fun _ i => one i i.b0))

/-- MOV.SV: the lane's register whether or not it is active; a lane at or beyond the width is ILL (R160). -/
def execMovSv (o : FDab) (s : State) : Host.Outcome State Fault Refusal :=
  s.runTarget o.sw (fun c s => do
    let x := c.xp
    let lane := (c.imm (o.b.setWidth 32)).toNat
    if !({ m := false, z := false, ixa := true : XpUse }).ok x || c.w.width ≤ lane then .error ill
    else
      c.touch s (if x.j then [RegName.x x.x.toNat] else [])
      let a ← c.resolve 1 c.mask (if x.j then some (c.readX s x.x.toNat) else none) o.a.toNat 1
      c.touch s [RegName.v a (laneBit lane), RegName.s o.d.toNat]
      .ok (s.result c 2 [.s o.d.toNat] [.s o.d.toNat (c.readV s a lane)], .next))


/-- A control register of a warp or core by number (R44). EPC to EINFO3 read as zero outside handler state. -/
def Cx.ctl (c : Cx) (s : State) (n : Nat) : Word :=
  let w := c.w
  let ix := s.teamIndex w
  let g := s.grid w.id.ctx w.id.grid
  let h (x : Word) : Word := if w.hnd.on then x else 0
  match n with
  | 0 => c.readPart s
  | 1 => c.readFmode s
  | 4 => c.readKdef s
  | 5 => BitVec.ofNat 32 (s.core c.core).cyc
  | 6 => w.ctl.cycHi
  | 8 => BitVec.ofNat 32 w.slot
  | 10 => BitVec.ofNat 32 (ix % g.gx)
  | 11 => BitVec.ofNat 32 (ix / g.gx % g.gy)
  | 12 => BitVec.ofNat 32 (ix / (g.gx * g.gy))
  | 13 => BitVec.ofNat 32 w.id.grid
  | 14 => BitVec.ofNat 32 (if g.gang = 0 then 0 else ix % g.gang)
  | 15 => BitVec.ofNat 32 g.depth
  | 16 => c.readEpc s false
  | 17 => c.readEpc s true
  | 18 => h w.hnd.ecause
  | 19 => h (w.hnd.emask.setWidth 32)
  | 20 => h (w.hnd.emask.extractLsb' 32 32)
  | 21 => h w.hnd.info0
  | 22 => h w.hnd.info1
  | 23 => h w.hnd.info2
  | 24 => h w.hnd.info3
  | _ => 0

/-- A read of CYC.LO latches the high half into CYC.HI (R44). -/
def State.latch (s : State) (c : Cx) (n : Nat) : State :=
  if n = 5 then
    s.modWarp c.uid (fun w => { w with ctl := { w.ctl with cycHi := BitVec.ofNat 32 ((s.core c.core).cyc / 2 ^ 32) } })
  else s

/-- The registers a control-register access reads, as names. -/
def ctlNames (n : Nat) (act : Lanes) : List RegName :=
  match n with
  | 0 => [.part]
  | 1 => [.fmode]
  | 2 => [.lstat act]
  | 4 => [.kdef]
  | 16 => [.epc false]
  | 17 => [.epc true]
  | _ => []

/-- MFC (R44, R160). -/
def execMfc (o : FMfc) (s : State) : Host.Outcome State Fault Refusal :=
  s.runTarget o.sw (fun c s => do
    let n := o.n.toNat
    if !({ m := false, z := false : XpUse }).ok c.xp then .error ill
    else
      c.touch s (RegName.s o.d.toNat :: ctlNames n 0)
      .ok ((s.latch c n).result c 4 [.s o.d.toNat] [.s o.d.toNat (c.ctl s n)], .next))

/-- MFCV: the lane's own value of a per-lane register, the warp's or core's otherwise (R44, R160). -/
def execMfcv (o : FMfc) (s : State) : Host.Outcome State Fault Refusal :=
  s.runTarget o.sw (fun c s =>
    let n := o.n.toNat
    c.vop (s.latch c n)
      { use := { ixd := true }, d := some (o.d.toNat, 1), extra := ctlNames n c.mask }
      (fun _ i => one i (match n with
        | 2 => c.readLstat s i.lane
        | 3 => i.rng
        | 7 => BitVec.ofNat 32 i.lane
        | 9 => BitVec.ofNat 32 (c.w.thread i.lane)
        | _ => c.ctl s n)))

/-- MTC of a per-lane register from V: LSTAT as a result, SRNG at issue (R44, R120, R123). -/
def Cx.mtcV (c : Cx) (s : State) (n a : Nat) : Except Stop (State × Flow) := do
  let p ← c.prep s { use := { z := false, ixa := true }, a := some (a, 1), extra := ctlNames n c.mask }
  let vals := (lanesOf p.act).map (fun i => (i, c.readV s p.a i))
  if n = 3 then
    .ok (s.modWarp c.uid (fun w => { w with ctl := { w.ctl with srng := vals.foldl (fun m q => m.set q.1 q.2) w.ctl.srng } }), .next)
  else if vals.all (fun q => lstatOk q.2) then
    .ok (if vals.isEmpty then s else s.result c 4 [.lstat p.act] [.lstat vals], .next)
  else .error ill

/-- MTC of a per-warp register from S (R44, R45, R104, R121, R186). -/
def Cx.mtcS (c : Cx) (s : State) (n a : Nat) : Except Stop (State × Flow) := do
  if !({ m := false, z := false : XpUse }).ok c.xp then .error ill
  else
    c.touch s (RegName.s a :: ctlNames n 0)
    let v := c.readS s a
    match n with
    | 0 => if partOk c.w.id.wide v then .ok (s.result c 4 [.part] [.part v], .next) else .error ill
    | 1 => if fmodeOk v then .ok (s.result c 4 [.fmode] [.fmode v], .next) else .error ill
    | 4 =>
      if v >>> 8 != 0 then .error ill
      else if bits v.toNat 7 4 = 15 then .error (trapOf 0x0B)
      else .ok (s.result c 4 [.kdef] [.kdef v], .next)
    | 16 =>
      if !c.w.hnd.on || v &&& 3 != 0 then .error ill
      else .ok (s.result c 4 [.epc false] [.epc false v], .next)
    | 17 =>
      if !c.w.hnd.on then .error ill
      else .ok (s.result c 4 [.epc true] [.epc true v], .next)
    | _ => .error ill

/-- MTC (R44, R160). -/
def execMtc (o : FMtc) (s : State) : Host.Outcome State Fault Refusal :=
  s.runTarget o.sw (fun c s =>
    if o.n.toNat = 2 ∨ o.n.toNat = 3 then c.mtcV s o.n.toNat o.a.toNat else c.mtcS s o.n.toNat o.a.toNat)

/-- The register a lane's dynamic index names, and whether it fails the test of R161. -/
def Cx.dynReg (c : Cx) (x : Word) (k : Word) : Nat × Bool :=
  let n := if x.getLsbD 31 then k.toNat + bits x.toNat 7 0 else k.toNat
  let inWin := !x.getLsbD 31 || (decide (bits x.toNat 15 8 ≤ n) && decide (n < bits x.toNat 23 16))
  (n, !(inWin && c.w.validV n))

/-- The registers the active lanes index, or REG_BOUND at the lowest lane that fails (R161). -/
def Cx.dynRegs (c : Cx) (s : State) (p : Prep) : Except Stop (List (Nat × Nat)) :=
  let x := c.readX s c.xp.x.toNat
  let l := (lanesOf p.act).map (fun i => (i, c.dynReg x (c.readV s p.a i)))
  match l.filter (fun q => q.2.2) with
  | [] => .ok (l.map (fun q => (q.1, q.2.1)))
  | q :: t => .error (regBound 1 q.2.1 (maskOf (q.1 :: t.map Prod.fst)))

/-- VRDI (R161). -/
def execVrdi (o : FDa) (s : State) : Host.Outcome State Fault Refusal :=
  s.runTarget o.sw (fun c s => do
    let op : VOp := { use := { xsel := true }, d := some (o.d.toNat, 1), a := some (o.a.toNat, 1)
                      extra := [.x c.xp.x.toNat] }
    let p ← c.prep s op
    let l ← c.dynRegs s p
    c.touch s (l.map (fun q => RegName.v q.2 (laneBit q.1)))
    c.finish s op p (l.map (fun q => (q.1, { ws := [c.readV s q.2 q.1], rng := c.w.ctl.srng.getD q.1 0 }))))

/-- VWRI: each lane writes the register it indexes, as one result (R161). -/
def execVwri (o : FAb) (s : State) : Host.Outcome State Fault Refusal :=
  s.runTarget o.sw (fun c s => do
    let p ← c.prep s { use := { z := false, xsel := true }, a := some (o.a.toNat, 1), b := some (o.b.toNat, 1),
                       extra := [.x c.xp.x.toNat] }
    let l ← c.dynRegs s p
    c.touch s (l.map (fun q => RegName.v q.2 (laneBit q.1)))
    c.bWrites s (l.map Prod.snd) p.act
    .ok (s.result c 4 (l.map (fun q => RegName.v q.2 (laneBit q.1)))
      (l.map (fun q => RegWrite.v q.2 [(q.1, c.readV s p.b q.1)])), .next))

/-- XSET, with OFS advanced by a loop counter's ring when RING is set (R41, R162). -/
def execXset (o : FXset) (s : State) : Host.Outcome State Fault Refusal :=
  s.runTarget o.sw (fun c s => do
    if !({ m := false, z := false : XpUse }).ok c.xp then .error ill
    else
      c.touch s ([RegName.s o.a.toNat, RegName.x o.x.toNat] ++ (if o.g then [RegName.l o.l.toNat] else []))
      let v := c.readS s o.a.toNat
      if v &&& 0x7F000000 != 0 then .error ill
      else
        let ofs := if o.g then (v.toNat + bits (c.readL s o.l.toNat).toNat 23 16) % 256 else v.toNat % 256
        .ok (s.result c 2 [.x o.x.toNat] [.x o.x.toNat ((v &&& 0xFFFFFF00) ||| BitVec.ofNat 32 ofs)], .next))

/-! LQ (R163 to R165). -/

/-- LQDEC: weights 2p and 2p + 1 at scale 1, as BF16 (R163). A lane has weight pairs 0 to 7: of p = 8 to 15 the manual
states no result, and the word is a free value (log 10). -/
def execLqdec (o : FDab) (s : State) : Host.Outcome State Fault Refusal :=
  s.runTarget o.sw (fun x s => x.bop s
    { use := { ixd := true, ixa := true, ixb := true }, d := some (o.d.toNat, 1), a := some (o.a.toNat, 1),
      b := some (o.b.toNat, 1), extra := [.table], lat := 8 }
    (fun _ _ mag i =>
      let p := i.b0.toNat % 16
      let h (j : Nat) : Nat := (lqRound .bf16 {} 0 (lqWeight mag i.a0 j) 0).v
      { ws := if p < 8 then halfWords [h (2 * p), h (2 * p + 1)] else [BitVec.ofNat 32 (Config.pick s.tick (6000 + i.lane))]
        rng := i.rng }))

/-- LQDOT: Σ w_j × x_j + C to F32 (R164). -/
def execLqdot (o : FDab) (s : State) : Host.Outcome State Fault Refusal :=
  s.runTarget o.sw (fun x s => x.bop s
    { use := { ixd := true, ixa := true, ixb := true, rnd := true, c := true, sat := true }, d := some (o.d.toNat, 1),
      a := some (o.a.toNat, 1), b := some (o.b.toNat, 8), c := true, fb := some .bf16, fc := some .f32, float := true,
      extra := [.table], lat := 8 }
    (fun e _ mag i =>
      let xs := (i.b.flatMap (subs .bf16)).map (ftziBits .bf16 e)
      let ws := (List.range 16).map (lqWeight mag i.a0)
      let c := ftziBits .f32 e i.c.toNat
      let vs := xs.map (unpack .bf16)
      fone (sumRes .f32 e i.rng (xs.map (fun v => (Fmt.bf16, v)) ++ [(.f32, c)]) (anyInv ws vs)
        (prods ws vs ++ [unpack .f32 c]))))

/-- LQTBL: the entries named by the active lanes, the highest lane winning; in progress for 32 core clocks (R165). -/
def execLqtbl (o : FAb) (s : State) : Host.Outcome State Fault Refusal :=
  s.runTarget o.sw (fun c s => do
    let p ← c.prep s { use := { z := false }, a := some (o.a.toNat, 1), b := some (o.b.toNat, 1), extra := [.table] }
    let ws : KMap Word := (lanesOf p.act).foldl (fun m i => m.set ((c.readV s p.a i).toNat % 256) (c.readV s p.b i)) []
    let r := s.newId
    let due := (s.core c.core).cyc + c.clocks 32
    let s1 := r.2.modWarp c.uid (fun w => { w with iss := { w.iss with outstanding := w.iss.outstanding ++
      [{ id := r.1, due := due, names := [.table] }] } })
    let s2 := s1.modCore c.core (fun k => { k with lq := k.lq ++ [{ id := r.1, uid := c.uid, due := due, writes := ws }] })
    .ok (s2.post (.lqtblComplete c.core r.1), .next))

end Sys2Proof.Machine
end

