-- ==== Sys2Proof/Machine/Slice.lean ====
section
/-! DEFINITION. Page modes over time: epochs and the SLMODE register (R382 to R384), and the banks behind a slice (R29). -/

namespace Sys2Proof.Machine

open Sys2Proof

/-- When the present epoch of a die ends (R384). -/
def State.epochDue (s : State) (die : Nat) : Nat :=
  let d := s.die die
  d.epochAt + 2 ^ (bits d.slmode.toNat 7 4 + 10)

/-- A frame at the end of an epoch (R383): the test, then both counters are halved. -/
def Frame.epoch (f : Frame) (rdown : Nat) : Frame :=
  let g := if f.replicated && decide (f.reads < rdown) then { f with replicated := false, replicas := [] } else f
  { g with reads := g.reads / 2, writes := g.writes / 2 }

/-- The frames that a die keeps, changed. -/
def State.mapFrames (s : State) (die : Nat) (f : Frame → Frame) : State :=
  { s with frames := s.frames.mapv (fun k x => if homeDie (k * 4096) = die then f x else x) }

/-- EPOCH_END (R383). -/
def execEpochEnd (die : Nat) (s : State) : Host.Outcome State Fault Refusal :=
  let due := s.epochDue die
  let s1 := s.reachMesh die due
  ran ((s1.mapFrames die (fun f => f.epoch (bits (s.die die).slmode.toNat 23 16))).modDie die (fun d => { d with epochAt := due }))

/-- SLMODE_WRITE (R383, R384): a write with RDOWN ≥ RUP, WMAX = 0 or bits 3:1 set is ignored; ENABLE = 0 makes every frame
MEMSIDE. -/
def execSlmodeWrite (die : Nat) (v : Word) (s : State) : Host.Outcome State Fault Refusal :=
  if decide (4 ≤ die) || decide (bits v.toNat 31 24 ≤ bits v.toNat 23 16) || bits v.toNat 15 8 == 0 || bits v.toNat 3 1 != 0 then ran s
  else
    let s1 := s.modDie die (fun d => { d with slmode := v })
    ran (if v.getLsbD 0 then s1 else s1.mapFrames die (fun f => { f with replicated := false, replicas := [] }))

/-! Banks (R29). -/

/-- A bank's row closes. -/
def State.closeRow (s : State) (channel bank : Nat) : State :=
  { s with banks := s.banks.modify (channel * 4096 + bank) (fun b => { b with row := none }) }

/-- Sets an LPDDR channel's clock forward by some clocks. -/
def State.passLpddr (s : State) (channel n : Nat) : State :=
  { s with lpddr := s.lpddr.set channel (s.lpddr.getD channel 0 + n) }

/-- ROW_CLOSE (R29): the bank has gone 256 LPDDR clocks without an access. -/
def execRowClose (channel bank : Nat) (s : State) : Host.Outcome State Fault Refusal :=
  ran ((s.passLpddr channel 256).closeRow channel bank)

/-- BANK_REFRESH (R29): a refreshed bank holds no open row. -/
def execBankRefresh (channel bank : Nat) (s : State) : Host.Outcome State Fault Refusal := ran (s.closeRow channel bank)

end Sys2Proof.Machine
end

