-- ==== Sys2Proof/Machine/Cipher.lean ====
section
/-! DEFINITION. The encryption of LPDDR (R415): AES-256 in the XTS mode, which the spec names and does not restate. PRESUMED
(log 80): AES as FIPS 197 and XTS as IEEE 1619 have them, with a key's bytes in little-endian order and P[47:7] as the number of the data unit. -/

namespace Sys2Proof.Machine

open Sys2Proof

/-! AES-256, on blocks of sixteen bytes as numbers, column by column. -/

namespace Aes

/-- Multiplication by x in the field of 256 elements. -/
def double (a : Nat) : Nat := if a < 128 then 2 * a else (2 * a) ^^^ 0x11B

/-- Multiplication in the field: `n` bits of the second factor. -/
def mulBits (a b : Nat) : Nat → Nat
  | 0 => 0
  | n + 1 => (if b % 2 = 1 then a else 0) ^^^ mulBits (double a) (b / 2) n

/-- The product of two bytes. -/
def mul (a b : Nat) : Nat := mulBits a b 8

/-- The product of the first `n` repeated squares of a byte. -/
def squares (p : Nat) : Nat → Nat
  | 0 => 1
  | n + 1 => mul (mul p p) (squares (mul p p) n)

/-- The inverse of a byte, its 254th power, and 0 of 0. -/
def inverse (a : Nat) : Nat := squares a 7

/-- A byte turned left. -/
def turn (a n : Nat) : Nat := (a * 2 ^ n) % 256 + a / 2 ^ (8 - n)

/-- The substitution of a byte. -/
def sub (a : Nat) : Nat :=
  let b := inverse a
  b ^^^ turn b 1 ^^^ turn b 2 ^^^ turn b 3 ^^^ turn b 4 ^^^ 0x63

/-- The substitution undone. -/
def unsub (a : Nat) : Nat := inverse (turn a 1 ^^^ turn a 3 ^^^ turn a 6 ^^^ 5)

/-- Bytes added in the field, place by place. -/
def add (a b : List Nat) : List Nat := a.zipWith (fun x y => x ^^^ y) b

/-- A word of the expanded key. -/
def word (l : List (List Nat)) (i : Nat) : List Nat := (l[i]?).getD []

/-- The expanded key, word by word: `n` words more. -/
def expand (l : List (List Nat)) (rcon : Nat) : Nat → List (List Nat)
  | 0 => l
  | n + 1 =>
    let i := l.length
    let t := word l (i - 1)
    let u := if i % 8 = 0 then add ((t.drop 1 ++ t.take 1).map sub) [rcon, 0, 0, 0] else if i % 8 = 4 then t.map sub else t
    expand (l ++ [add (word l (i - 8)) u]) (if i % 8 = 0 then double rcon else rcon) n

/-- The fifteen round keys of a key of 32 bytes. -/
def roundKeys (key : List Nat) : List (List Nat) :=
  let ws := expand ((List.range 8).map (fun i => (key.drop (4 * i)).take 4)) 1 52
  (List.range 15).map (fun r => ((ws.drop (4 * r)).take 4).flatten)

/-- Rows turned, by 1 in a step for encryption and by 3 for decryption. -/
def rows (by1 : Nat) (b : List Nat) : List Nat := (List.range 16).map (fun i => nth b ((i + 4 * by1 * (i % 4)) % 16) 0)

/-- Columns multiplied by a circulant matrix with a first row. -/
def columns (m b : List Nat) : List Nat :=
  (List.range 16).map (fun i => (List.range 4).foldl (fun a j => a ^^^ mul (nth b (i / 4 * 4 + j) 0) (nth m ((j + 4 - i % 4) % 4) 0)) 0)

/-- The rounds of an encryption, given the round keys that are left. -/
def rounds (b : List Nat) : List (List Nat) → List Nat
  | [] => b
  | [k] => add (rows 1 (b.map sub)) k
  | k :: t => rounds (add (columns [2, 3, 1, 1] (rows 1 (b.map sub))) k) t

/-- A block encrypted under round keys. -/
def encrypt (ks : List (List Nat)) (b : List Nat) : List Nat :=
  match ks with
  | [] => b
  | k :: t => rounds (add b k) t

/-- The rounds of a decryption, given the round keys that are left, from the last. -/
def unrounds (b : List Nat) : List (List Nat) → List Nat
  | [] => b
  | [k] => add ((rows 3 b).map unsub) k
  | k :: t => unrounds (columns [14, 11, 13, 9] (add ((rows 3 b).map unsub) k)) t

/-- A block decrypted under round keys. -/
def decrypt (ks : List (List Nat)) (b : List Nat) : List Nat :=
  match ks.reverse with
  | [] => b
  | k :: t => unrounds (add b k) t

/-- The tweak of the next block of a data unit: the last one doubled in the field of 2^128 elements. -/
def nextTweak (t : List Nat) : List Nat :=
  let n := 2 * (t.foldr (fun b a => b + 256 * a) 0)
  let m := if n < 2 ^ 128 then n else (n - 2 ^ 128) ^^^ 0x87
  (List.range 16).map (fun i => m / 2 ^ (8 * i) % 256)

/-- Blocks of a data unit, from one with a tweak on: `n` of them. -/
def blocks (f : List Nat → List Nat) (t l : List Nat) : Nat → List Nat
  | 0 => []
  | n + 1 => add (f (add (l.take 16) t)) t ++ blocks f (nextTweak t) (l.drop 16) n

end Aes

/-- A line as XTS turns it under a world's key pair, either way; its number is P[47:7] (R415). -/
def WorldKey.xts (k : WorldKey) (back : Bool) (line : Nat) (l : List Byte) : List Byte :=
  let num (b : BitVec 256) : List Nat := (leBytes b.toNat 32).map BitVec.toNat
  let unit := (List.range 16).map (fun i => line / 128 % 2 ^ 41 / 2 ^ (8 * i) % 256)
  let ks := Aes.roundKeys (num k.data)
  (Aes.blocks (if back then Aes.decrypt ks else Aes.encrypt ks) (Aes.encrypt (Aes.roundKeys (num k.tweak)) unit) (l.map BitVec.toNat) 8).map
    (BitVec.ofNat 8)

end Sys2Proof.Machine
end

