-- ==== Sys2Proof/Machine/System.lean ====
section
/-! DEFINITION. System software: contexts and their areas (R409 to R411), host accesses (R412), worlds (R414 to R416), code
objects (R417), the privileged instructions (R418 to R422), and service (R423 to R429). -/

namespace Sys2Proof.Machine

open Sys2Proof

/-- An answer on the management channel: done, or refused. -/
def State.answered (s : State) (ok : Bool) (words : List Word) : State := s.emit (.answer (if ok then 0 else 1) words)

/-! Contexts (R409). -/

/-- A context from the words of its descriptor; none when a zero field is not zero or a field is out of range. The engine
fields start at zero. -/
def ctxOf (l : List Word) : Option Ctx :=
  let w (i : Nat) : Nat := (nth l i 0).toNat
  let two (i : Nat) : Nat := w i + 2 ^ 32 * w (i + 1)
  if w 1 % 2 = 0 || w 1 / 16 != 0 || two 2 % 4096 != 0 || two 4 % 64 != 0 || w 6 % 65536 == 0 || w 6 / 65536 == 0 ||
      decide (w 7 < 4) || decide (16 < w 7) || two 8 % 64 != 0 || two 10 % 32 != 0 ||
      (List.range' 24 8).any (fun i => w i != 0) then none
  else
    some { d := { secure := bitAt (w 1) 1, priv := bitAt (w 1) 2, debug := bitAt (w 1) 3, root := two 2, faultBase := two 4,
                  faultN := w 6 % 65536, diagN := w 6 / 65536, prqLog := w 7, diagBase := two 8, prqBase := two 10,
                  prqHead := nth l 13 0, trapSave := pair (nth l 14 0) (nth l 15 0), trapObj := w 16,
                  portWd := if w 17 = 0 then 0x1000000 else nth l 17 0, slice := w 18, saveBase := two 20, obsHdr := two 22 } }

/-- Whether every 64 KiB block of a physical span is device memory, of which there are 1.5 TiB, and of a world;
region entries are of whole blocks, and a block has lines of each die (R380, R410, R414). -/
def State.inWorld (s : State) (secure : Bool) (pa n : Nat) : Bool :=
  decide (pa + n ≤ 0x18000000000) &&
  (List.range ((pa % 65536 + n + 65535) / 65536)).all (fun i =>
    (List.range 4).all (fun j => s.regionSecure (pa / 65536 * 65536 + 65536 * i + 128 * j) == secure))

/-- Whether the areas that a descriptor names by physical address lie in device memory of the context's world (R410); of the save
region, whose size the spec does not give, its first line. -/
def State.areasOk (s : State) (d : Desc) : Bool :=
  [(d.root, 4096), (d.faultBase, 64 * d.faultN), (d.diagBase, 320 * d.diagN), (d.prqBase, 32 * 2 ^ d.prqLog), (d.saveBase, 128)].all
    (fun p => s.inWorld d.secure p.1 p.2)

/-- Whether a requester may create a context of a world: its own, and a PRIV context of the secure world only management firmware
(R418). -/
def State.creates (s : State) (who : Requester) (d : Desc) : Bool :=
  s.speaks who d.secure && !(d.secure && d.priv && who != .firmware)

/-- CONTEXT_CREATE (R409, R410, R418, R428): refused until the device is ready, to a requester that may not create such a context,
with an area elsewhere, and for an id in use. -/
def execContextCreate (words : Asked (List Word)) (s : State) : Host.Outcome State Fault Refusal :=
  let no := ran (s.answered false [nth words.what 0 0])
  let id := (nth words.what 0 0).toNat
  match ctxOf words.what with
  | none => no
  | some c =>
    if !s.svc.ready || (s.ctxs.get? id).isSome || !s.creates words.who c.d || !s.areasOk c.d then no
    else ran ({ s with ctxs := s.ctxs.set id c }.answered true [nth words.what 0 0])

/-- Whether a mask of another context meets a mask at a key. -/
def taken2 {n : Nat} (s : State) (ctx : Nat) (f : Ctx → KMap (BitVec n)) (k : Nat) (m : BitVec n) : Bool :=
  s.ctxs.any (fun kv => kv.1 != ctx && (f kv.2).getD k 0 &&& m != 0)

/-- ALLOTMENT_SET (R262, R287, R329, R359): a tile or a Creel buffer belongs to at most one context. -/
def execAllotmentSet (ctx : Nat) (a : Allot) (s : State) : Host.Outcome State Fault Refusal :=
  let id : List Word := [BitVec.ofNat 32 ctx]
  if (s.ctxs.get? ctx).isNone then ran (s.answered false id)
  else
    match a with
    | .tiles core mask =>
      if decide (384 ≤ core) || taken2 s ctx (fun c => c.tileMask) core mask then ran (s.answered false id)
      else ran ((s.modCtx ctx (fun c => { c with tileMask := c.tileMask.set core mask })).answered true id)
    | .counters core mask =>
      if 384 ≤ core then ran (s.answered false id)
      else ran ((s.modCtx ctx (fun c => { c with rcMask := c.rcMask.set core mask })).answered true id)
    | .creel die mask =>
      if decide (4 ≤ die) || taken2 s ctx (fun c => c.creelMask) die mask then ran (s.answered false id)
      else ran ((s.modCtx ctx (fun c => { c with creelMask := c.creelMask.set die mask })).answered true id)
    | .share cores =>
      if cores.any (fun c => decide (384 ≤ c)) then ran (s.answered false id)
      else ran ((s.modCtx ctx (fun c => { c with share := cores.eraseDups })).answered true id)

/-- CONTEXT_END (R341, R409): nothing of the context is left but its memory. -/
def execContextEnd (ctx : Nat) (s : State) : Host.Outcome State Fault Refusal :=
  if (s.ctxs.get? ctx).isNone then ran s
  else
    let s1 := (s.terminate ctx).giveUp ctx
    ran { s1 with
      ctxs := s1.ctxs.erase ctx
      groups := s1.groups.erase ctx
      pages := s1.pages.filter (fun p => p.ctx != ctx)
      words := s1.words.keep (fun _ w => w.ctx != ctx)
      invals := s1.invals.filter (fun i => i.ctx != ctx)
      combs := s1.combs.filter (fun k => k.ctx != ctx)
      queues := s1.queues.mapv (fun _ q => if q.ctx = ctx then { q with enable := false } else q)
      cores := s1.cores.mapv (fun _ k => { k with tlb := k.tlb.filter (fun t => t.ctx != ctx), segs := k.segs.filter (fun g => g.ctx != ctx) })
      quads := s1.quads.mapv (fun _ q => { q with
        tlb := q.tlb.filter (fun t => t.ctx != ctx)
        tensors := q.tensors.filter (fun t => t.1 / 256 != ctx)
        scales := q.scales.filter (fun c => c.tag.head? != some ctx) }) }

/-- PRQHEAD_WRITE (R410). -/
def execPrqheadWrite (ctx : Nat) (v : Word) (s : State) : Host.Outcome State Fault Refusal :=
  ran (s.modCtx ctx (fun c => { c with d := { c.d with prqHead := v } }))

/-- Replay up to a request number (R411): whoever waits on a request below it tries again. -/
def State.replayPages (s : State) (ctx : Nat) (r : Word) : State :=
  let hit (p : PageWait) : Bool := p.ctx == ctx &&
    (match p.seq with
      | some q => r != q && decide ((r - q).toNat < 2 ^ 31)
      | none => false)
  let who := (s.pages.filter hit).map (fun p => p.who)
  { s with pages := s.pages.filter (fun p => !(who.contains p.who && p.ctx == ctx)) }

/-- PAGE_REPLAY (R201, R411). -/
def execPageReplay (ctx : Nat) (r : Word) (s : State) : Host.Outcome State Fault Refusal := ran (s.replayPages ctx r)

/-! The host (R412, R413). -/

/-- Bytes with their addresses. -/
def cellsAt (a : Nat) (l : List Byte) : List Host.Cell := l.zipIdx.map (fun p => (a + p.2, p.1))

/-- The context that owns a place of a core's window: the warp of a register or port entry, the tenant of a tile. -/
def State.windowOwner (s : State) (pa : Nat) : Option Nat :=
  match placeOf pa with
  | .register c slot _ _ _ => (s.warpAt c slot).map (fun w => w.2.id.ctx)
  | .tile c t _ _ => (s.ctxs.find? (fun kv => kv.2.cores.contains c && (kv.2.tileMask.getD c 0).getLsbD t)).map Prod.fst
  | .port c f _ l _ => (s.frameOwner c f l).map (fun o => (s.warp o.1).id.ctx)
  | _ => none

/-- The part of a context's state that a debugger finds behind a window address (R23, R401): the team and the offset of a
scratchpad place, or a place of the window map; none where it is not the context's. -/
def State.debugPlace (s : State) (ctx pa : Nat) : Option (Option (Nat × Nat)) :=
  match placeOf pa with
  | .scratch core o =>
    (match s.windowTeam core o with
      | some (t, x) => if (s.team t).ctx = ctx then some (some (t, x)) else none
      | none => none)
  | .counter core o => if ((s.ctx ctx).rcMask.getD core 0).getLsbD (o / 16) then some none else none
  | _ => if s.windowOwner pa = some ctx then some none else none

/-- A debugger's access to a held and stopped context through a window (R401); guards read as zero and drop writes (R208). -/
def State.debugAccess (s : State) (ctx : Nat) (a : HostAcc) : State :=
  if !(s.ctx ctx).held || !(s.ctx ctx).stopped then s
  else
    match s.debugPlace ctx a.addr with
    | none => s
    | some (some (t, o)) =>
      let n := if a.write then a.data.length else a.len
      let inside := (s.team t).zone o n == .alloc
      if a.write then (if inside then s.nearWrite t o a.data else s)
      else s.emit (.image (cellsAt a.addr (if inside then s.nearRead t o n else List.replicate n 0)))
    | some none => if a.write then s.winWrite none a.addr a.data else s.emit (.image (cellsAt a.addr (s.winRead a.addr a.len)))

/-- HOST_ACCESS (R412, R413): device memory at its home slice or in a copy that the host holds, or the host's own memory.
Windows are only a debugger's to reach (R401). -/
def execHostAccess (a : HostAcc) (s : State) : Host.Outcome State Fault Refusal :=
  if a.sys then
    if a.write then ran ((s.hostWr a.addr a.data).toHost (.sys a.addr) a.data.length)
    else
      let q := s.hostSees a.addr a.len
      ran (q.2.emit (.image (cellsAt a.addr q.1)))
  else if inWindow a.addr then
    match a.dbg with
    | some ctx => ran (s.debugAccess ctx a)
    | none => ran s
  else if inCreel a.addr then ran s
  else if a.write then
    ran ((linesAt a.addr a.data.length).foldl (fun s l => s.toHost (.dev l) 128) (s.wr a.addr a.data))
  else
    let q := s.hostSpan a.addr a.len (a.len / 128 + 2)
    ran (q.2.emit (.image (cellsAt a.addr q.1)))

/-! Worlds (R414 to R416, R421). -/

/-- Whether the areas a context's descriptor names lie in a span of the lines homed on a die. -/
def Desc.within (d : Desc) (die lo hi : Nat) : Bool :=
  [d.root, d.faultBase, d.diagBase, d.prqBase, d.saveBase, d.obsHdr].any (fun a => decide (lo ≤ a) && decide (a < hi) && homeDie a == die)

/-- The slice of the device, die × 24 + slice, that a partial lies at (R385). -/
def sliceOf (p : Partial) : Nat := if 2 ^ 16 ≤ p.slice then homeDie p.line * 24 + homeSlice p.line else p.slice

/-- Whether the slice of a number is the home of a line. -/
def homedAt (ix pa : Nat) : Bool := homeDie pa * 24 + homeSlice pa == ix

/-- Whether a block holds any part of a resident or saved context (R416). -/
def State.blockHolds (s : State) (kind ix : Nat) : Bool :=
  match kind with
  | 0 => s.teams.any (fun kv => kv.2.core == some ix && !kv.2.retired) || s.ctxs.any (fun kv => kv.2.cores.contains ix)
  | 1 => s.copies.any (fun kv => quadOf kv.2.core == ix)
  | 2 => s.posts.any (fun kv => quadOf kv.2.core == ix) || !(s.quad ix).tensors.isEmpty
  | 3 => s.partials.any (fun p => sliceOf p == ix) ||
      s.ops.any (fun kv => kv.2.units.any (fun u => match u.tgt with | .dev pa => homeDie pa * 24 + homeSlice pa == ix | _ => false))
  | 4 => s.teams.any (fun kv => (kv.2.core.map quadOf) == some ix && !kv.2.retired && !kv.2.barriers.isEmpty)
  | 5 => !(s.buf ix).cfg.isEmpty
  | 6 => s.grids.any (fun kv => kv.2.die == ix)
  | 7 => !s.chans.isEmpty || !s.colls.isEmpty
  | _ =>
    match (s.die (ix / 64)).regions.get? (ix % 64) with
    | some r => s.ctxs.any (fun kv => kv.2.d.within (ix / 64) r.base r.limit)
    | none => false

/-- How many blocks of a kind there are. -/
def blockCount : Nat → Nat
  | 0 => 384
  | 5 => 32
  | 6 => 4
  | 7 => 4
  | 8 => 256
  | _ => 96

/-- Device memory whose addresses a test names zeroed, with its poison and its partials (R416). -/
def State.zeroMem (s : State) (mine : Nat → Bool) : State :=
  { s with mem := s.mem.filter (fun c => !mine c.1), bad := s.bad.filter (fun b => !mine b),
           partials := s.partials.filter (fun p => !mine p.line) }

/-- The die that carries a fabric port (R11): CD0 ports 0 to 4, CD1 5 to 8, CD2 9 to 12, CD3 13 to 17. -/
def portDie (p : Nat) : Nat := if p ≤ 4 then 0 else if p ≤ 8 then 1 else if p ≤ 12 then 2 else 3

/-- A block's state zeroed (R416): the buffers, tables and caches of an engine instance, the state of a core, the memory of a
region. A copy engine keeps nothing of its own between copies. -/
def State.zeroBlock (s : State) (kind ix : Nat) : State :=
  match kind with
  | 0 =>
    let s1 := { s with tiles := s.tiles.keep (fun k _ => k / 2 ^ 18 != ix) }
    (s1.modCore ix (fun k => { k with rcs := [], l1 := [], tlb := [], mag := [], lq := [] })).modQuad (quadOf ix) (fun q => { q with
      tlb := [], opCache := q.opCache.filter (fun c => c.tag.head? != some (posOf ix)), scales := [] })
  | 2 => s.modQuad ix (fun q => { q with tensors := [], opCache := [], scales := [] })
  | 3 => { s with
      partials := s.partials.filter (fun p => sliceOf p != ix)
      frames := s.frames.keep (fun k _ => !homedAt ix (k * 4096))
      versions := s.versions.keep (fun l _ => !homedAt ix l)
      warps := s.warps.mapv (fun _ w => { w with links := w.links.map (fun l => if homedAt ix l.line then {} else l) }) }
  | 4 => { s with combs := s.combs.filter (fun c => !c.teams.any (fun t => (s.team t).core.map quadOf == some ix)) }
  | 5 => s.putBuf ix {}
  | 6 => (s.modDie ix (fun d => { d with placements := 0, epochAt := d.mesh })).overCores ix (fun k =>
      { k with avoid := false, calm := 0, droops := [] })
  | 7 => { s with fab := { s.fab with lanes := s.fab.lanes.keep (fun _ p => portDie p != ix) } }
  | 8 =>
    match (s.die (ix / 64)).regions.get? (ix % 64) with
    | some r => s.zeroMem (fun a => decide (r.base ≤ a) && decide (a < r.limit) && homeDie a == ix / 64)
    | none => s
  | _ => s

/-- Gives a block its world (R414). -/
def State.setWorld (s : State) (kind ix : Nat) (w : Bool) : State :=
  if kind = 8 then s.modDie (ix / 64) (fun d => { d with regions := d.regions.set (ix % 64) { d.regions.getD (ix % 64) {} with secure := w } })
  else { s with worlds := s.worlds.set (kind * 2 ^ 16 + ix) w }

/-- A world change (R416, R421): 1 for a malformed block word, 2 for a refusal. -/
def State.switchWorld (s : State) (block : Word) : State × Nat :=
  let kind := bits block.toNat 3 0
  let ix := bits block.toNat 19 4
  if block.toNat / 2 ^ 21 != 0 || decide (8 < kind) || decide (blockCount kind ≤ ix) then (s, 1)
  else if s.blockHolds kind ix then (s, 2)
  else ((s.zeroBlock kind ix).setWorld kind ix (block.getLsbD 20), 0)

/-- WORLD_CHANGE (R414, R416): through the management interface, for the secure world. -/
def execWorldChange (block : Asked Word) (s : State) : Host.Outcome State Fault Refusal :=
  if !s.speaks block.who true then ran (s.answered false [block.what])
  else
    let r := s.switchWorld block.what
    ran (r.1.answered (r.2 == 0) [block.what])

/-! Tables that management writes (R317, R318, R321, R350, R360, R392, R409, R414, R417). -/

/-- A queue entry (R350); engine fields are kept, and HEAD and TAIL are taken from a new entry. -/
def queueOf (l : List Word) : Option Queue :=
  let w (i : Nat) : Nat := (nth l i 0).toNat
  let log := w 2 % 32
  if (w 0 + 2 ^ 32 * w 1) % 64 != 0 || decide (log < 4) || decide (16 < log) || w 2 / 512 != 0 || w 6 != 0 || w 7 != 0 then none
  else some { base := pair (nth l 0 0) (nth l 1 0), log := log, level := bits (w 2) 6 5, enable := bitAt (w 2) 7,
              error := bitAt (w 2) 8, ctx := w 3, head := nth l 4 0, tail := nth l 5 0 }

/-- A group entry (R321). -/
def groupEntOf (l : List Word) : Option GroupEnt :=
  let w (i : Nat) : Nat := (nth l i 0).toNat
  let size := w 0 % 2048
  if bits (w 0) 28 11 != 0 || w 1 / 2 ^ 24 != 0 || w 6 != 0 || w 7 != 0 || size == 0 || decide (1024 < size) then none
  else some { size := size, swred := bitAt (w 0) 29, st := bits (w 0) 31 30, rank := w 1 % 1024, epoch := bits (w 1) 23 16,
              map := w 2 + 2 ^ 32 * w 3, seq := nth l 4 0, timeout := w 5 }

/-! Code objects (R63 to R65, R108, R417). -/

/-- The stepping of the device, A0, as R63 codes it (R9). -/
def deviceStepping : Nat := 0xA0

/-- A word of an image. -/
def fileWord (f : ObjFile) (i : Nat) : Nat := leNat ((f.bytes.drop i).take 4)

/-- Whether a header is as the loader takes it (R63): MAGIC, VERSION, the zero fields, a text of whole words, and every part
inside the image (log 49). -/
def headerOk (f : ObjFile) : Bool :=
  let inside (ofs size : Nat) : Bool := decide (fileWord f ofs + size ≤ f.bytes.length)
  decide (64 ≤ f.bytes.length) && fileWord f 0 == 0x38444F4E && bits (fileWord f 4) 15 8 == 1 && bits (fileWord f 4) 31 18 == 0 &&
  [48, 52, 56, 60].all (fun i => fileWord f i == 0) && fileWord f 12 % 4 == 0 &&
  inside 8 (fileWord f 12) && inside 16 (fileWord f 20) && inside 24 (32 * fileWord f 28) && inside 32 (8 * fileWord f 36) && inside 40 (fileWord f 44)

/-- A kernel descriptor (R64); none when a zero field is not zero or a value is outside the limits of R62. -/
def fileKernel (f : ObjFile) (i : Nat) : Option Kernel :=
  let a := fileWord f 24 + 32 * i
  let w := fileWord f (a + 8)
  let k : Kernel := { entry := fileWord f a, name := fileWord f (a + 4), vregs := bits w 7 0, warps := bits w 15 8, wide := bitAt w 16,
                      gang := bits w 19 17, weave := bitAt w 20, lanePorts := bitAt w 21, trap := bitAt w 22,
                      scratch := fileWord f (a + 12) }
  if bits w 31 23 != 0 || [16, 20, 24, 28].any (fun j => fileWord f (a + j) != 0) || k.entry % 4 != 0 || k.vregs % 8 != 0 ||
      k.vregs == 0 || decide (128 < k.vregs) || k.warps == 0 || decide (32 < k.warps) || decide (0x7F0000 < k.scratch) ||
      !([0, 2, 4].contains k.gang) then none
  else some k

/-- The descriptors of an image; none when one of them is not as it must be, or when two are trap entries (R62). -/
def fileKernels (f : ObjFile) : Option (List Kernel) :=
  let l := (List.range (fileWord f 28)).filterMap (fileKernel f)
  if l.length = fileWord f 28 && decide ((l.filter (fun k => k.trap)).length ≤ 1) then some l else none

/-- The code object of an image that the loader does not reject (R63). It runs interlocked when it says so or when its
stepping is not the device's (R9, R65). -/
def parseObj (f : ObjFile) : Option CodeObj :=
  if !headerOk f then none
  else (fileKernels f).map (fun l =>
    { handle := f.handle, text := f.text, data := f.data, kernels := l, image := f.bytes
      interlock := bitAt (fileWord f 4) 16 || bits (fileWord f 4) 7 0 != deviceStepping })

/-- The base of the lazy-binding table: the first 4 KiB boundary at or above the end of the data (R108). -/
def bindTable (f : ObjFile) : Nat := (f.data + fileWord f 20 + 4095) / 4096 * 4096

/-- What the lazy-binding table starts out as: the absolute addresses of the stubs (R108). -/
def stubAddrs (f : ObjFile) : List Byte :=
  (List.range (fileWord f 36)).flatMap (fun i => leBytes (f.text + fileWord f (fileWord f 32 + 8 * i + 4)) 8)

/-- The physical 4 KiB pages of the bytes at a virtual address of a context. -/
def State.physPages (s : State) (ctx va n : Nat) : List Nat :=
  (List.range ((va % 4096 + n + 4095) / 4096)).flatMap (fun i =>
    let a : Addr := BitVec.ofNat 64 ((va / 4096 + i) * 4096)
    match (s.walks ctx a).head? with
    | some (.leaf shift e) => [physical shift e a / 4096]
    | _ => [])

/-- The physical pages that hold the lazy-binding tables of the other contexts (R108). -/
def State.tablesOfOthers (s : State) (ctx : Nat) : List Nat :=
  (s.ctxs.filter (fun kv => kv.1 != ctx)).flatMap (fun kv => kv.2.objs.flatMap (fun o =>
    let f : ObjFile := { handle := o.handle, text := o.text, data := o.data, bytes := o.image }
    s.physPages kv.1 (bindTable f) (8 * fileWord f 36)))

/-- Puts bytes into pages that the runtime has mapped for a context, page by page; none when one of them is not mapped to
device memory of the context's world with the permission asked for, or holds another context's lazy-binding table. -/
def State.putPages (s : State) (ctx va : Nat) (l : List Byte) (ok : BitVec 64 → Bool) : Option State :=
  (List.range ((va % 4096 + l.length + 4095) / 4096)).foldl (fun (o : Option State) i =>
    o.bind (fun s =>
      let a := max va ((va / 4096 + i) * 4096)
      let part := (l.drop (a - va)).take ((va / 4096 + i + 1) * 4096 - a)
      match (s.walks ctx (BitVec.ofNat 64 a)).head? with
      | some (.leaf shift e) =>
        let pa := physical shift e (BitVec.ofNat 64 a)
        if ok e && leafTarget e == 0 && !inWindow pa && !inCreel pa && !s.wrongWorld ctx 9 0 e pa &&
            !(s.tablesOfOthers ctx).contains (pa / 4096) then some (s.wr pa part) else none
      | _ => none)) (some s)

/-- Places an object in a context's address space: the text where it may be fetched and read and not written, the data read-only,
and the lazy-binding table writable, on pages of the context's own (R65, R74, R108). -/
def State.placeObj (s : State) (ctx : Nat) (f : ObjFile) : Option State :=
  ((s.putPages ctx f.text ((f.bytes.drop (fileWord f 8)).take (fileWord f 12)) 
      (fun e => permits e .fetch && permits e .load && !permits e .store)).bind
    (fun s => s.putPages ctx f.data ((f.bytes.drop (fileWord f 16)).take (fileWord f 20)) (fun e => permits e .load && !permits e .store))).bind
    (fun s => s.putPages ctx (bindTable f) (stubAddrs f) (fun e => permits e .load && permits e .store))

/-- Whether a handle is of an object that is loaded, or that a resident or saved warp still executes (R417). -/
def State.objAlive (s : State) (h : Nat) : Bool :=
  decide (0 < s.loads h) || s.warps.any (fun kv => kv.2.id.obj == h && !kv.2.retired)

/-- Loads an image in a context (R417): the handle of the object, a known one when the image is identical to that of an object
that is there; none when the loader rejects it. Handle 0 names no object (R409). -/
def State.load (s : State) (ctx : Nat) (f : ObjFile) : Option (State × Nat) :=
  match parseObj f with
  | none => none
  | some o =>
    let known := (s.ctxs.vals.flatMap (fun c => c.objs)).filter (fun x => s.objAlive x.handle)
    let h := match known.find? (fun x => x.image == o.image) with | some x => x.handle | none => f.handle
    if h = 0 || known.any (fun x => x.handle == h && x.image != o.image) then none
    else
      match (s.ctx ctx).objs.find? (fun x => x.handle == h && s.objAlive h) with
      | some x => some (s.modCtx ctx (fun c => { c with
          objs := if c.unloaded.contains h then c.objs else c.objs ++ [x]
          unloaded := c.unloaded.filter (fun y => y != h) }), h)
      | none =>
        (s.placeObj ctx f).map (fun t => (t.modCtx ctx (fun c => { c with
          objs := c.objs.filter (fun x => x.handle != h) ++ [{ o with handle := h }]
          unloaded := c.unloaded.filter (fun y => y != h) }), h))

/-- Unloads a code object: with its count at zero launches of it are refused, and warps that execute it keep it (R417). -/
def Ctx.unload (c : Ctx) (h : Nat) : Ctx :=
  if decide (1 < (c.objs.filter (fun o => o.handle == h)).length) then
    { c with objs := dropFirst (fun o => o.handle == h) c.objs }
  else if c.objs.any (fun o => o.handle == h) then { c with unloaded := addNew c.unloaded [h] }
  else c

/-- Whether an event belongs to a host queue. -/
def ofQueue (q : Nat) : Ev → Bool
  | .packetNop n => n == q
  | .packetLaunch n => n == q
  | .packetWaitmem n => n == q
  | .waitmemRetest n => n == q
  | _ => false

/-- Firmware sees to a draw above the power cap: it is to lower the core clock (R429). -/
def State.overdrawn (s : State) : State :=
  if s.svc.cap < s.svc.drawn && !s.bag.contains (.clockThrottle false) then s.post (.clockThrottle false) else s

/-- The 32 bytes of an error record (R427). -/
def ErrEnt.words (x : ErrEnt) : List Word :=
  let n (a : Nat) : Word := BitVec.ofNat 32 a
  [n (x.err.unit % 256 + x.err.die % 4 * 2 ^ 8 + (if x.err.uncorr then 2 ^ 10 else 0)), x.err.index, n x.err.addr, n (x.err.addr / 2 ^ 32),
    n x.cycles, n (x.cycles / 2 ^ 32), n x.seq, n x.count]

/-- REGISTER_WRITE: a table or register that system software writes, a sample that management firmware takes, or a part of the
device that system software reads (R317, R321, R350, R360, R392, R414, R417, R427, R429). -/
def execRegisterWrite (w : MgmtWrite) (s : State) : Host.Outcome State Fault Refusal :=
  let no : Host.Outcome State Fault Refusal := ran (s.answered false [])
  let yes (s : State) : Host.Outcome State Fault Refusal := ran (s.answered true [])
  match w with
  | .queue q l =>
    (match queueOf l with
      | some x =>
        if decide (256 ≤ q) || (s.ctxs.get? x.ctx).isNone then no
        else
          let s1 := { s with queues := s.queues.set q x, bag := s.bag.filter (fun e => !ofQueue q e) }
          yes (s1.nextPacket q)
      | none => no)
  | .groupTable ctx base => if (s.ctxs.get? ctx).isNone || base % 32 != 0 then no else yes { s with groups := s.groups.set ctx base }
  | .group ctx g l =>
    (match groupEntOf l, s.groupAt ctx g with
      | some x, some a =>
        let old := s.groupOf ctx g
        let stale := old.st == 2 && (x.epoch == old.epoch || s.colls.any (fun k => k.ctx == ctx && k.group == g))
        if decide (256 ≤ g) || (s.ctxs.get? ctx).isNone || (x.st == 1 && stale) then no
        else yes (s.wrWords a l)
      | _, _ => no)
  | .region die e base limit =>
    if decide (4 ≤ die) || decide (64 ≤ e) || bits base.toNat 15 1 != 0 || bits limit.toNat 15 0 != 0 || s.blockHolds 8 (die * 64 + e) then no
    else
      let r : Region := { base := base.toNat / 65536 * 65536, limit := limit.toNat, secure := base.getLsbD 0 }
      let t := s.modDie die (fun d => { d with regions := d.regions.set e r })
      if s.ctxs.any (fun kv => s.areasOk kv.2.d && !t.areasOk kv.2.d) then no
      else yes (t.zeroMem (fun a => s.regionSecure a != t.regionSecure a))
  | .hashLane peer h port => if decide (1024 ≤ peer) || decide (16 ≤ h) || decide (18 ≤ port) then no
    else yes { s with fab := { s.fab with lanes := s.fab.lanes.set (peer * 16 + h) port } }
  | .load ctx f =>
    (match (if (s.ctxs.get? ctx).isNone then none else s.load ctx f) with
      | some (t, h) => ran (t.answered true [BitVec.ofNat 32 h])
      | none => no)
  | .unload ctx h => if (s.ctxs.get? ctx).isNone then no else yes (s.modCtx ctx (fun c => c.unload h))
  | .fretry v => if decide (v.toNat < 1024) || decide (2 ^ 31 < v.toNat) then no else yes { s with fab := { s.fab with fretry := v } }
  | .deviceNumber n => if 1024 ≤ n then no else yes { s with fab := { s.fab with device := n } }
  | .observe who ctx h => if !s.manages who ctx then no else yes (s.modCtx ctx (fun c => { c with d := { c.d with obsHdr := h } }))
  | .readObs who ctx =>
    if !s.manages who ctx then no
    else
      let h := (s.ctx ctx).d.obsHdr
      ran (s.answered true [(s.ctx ctx).obsctl, BitVec.ofNat 32 h, BitVec.ofNat 32 (h / 2 ^ 32)])
  | .root ctx t =>
    if (s.ctxs.get? ctx).isNone || t % 4096 != 0 then no
    else yes (s.modCtx ctx (fun c => { c with d := { c.d with nextRoot := some t } }))
  | .sample core t =>
    let s1 := s.modCore core (fun k => { k with temp := t })
    let s2 := if 115 ≤ t then { s1 with svc := { s1.svc with clock := 350 } } else s1
    let off := Ev.thermalShutdown (dieOf core)
    yes (if decide (125 ≤ t) && decide (core < 384) && !s2.bag.contains off then s2.post off else s2)
  | .powerCap w =>
    if w = 0 || decide (2400 < w) then no
    else yes (State.overdrawn { s with svc := { s.svc with cap := w } })
  | .power w => yes (State.overdrawn { s with svc := { s.svc with drawn := w } })
  | .readErrors => ran (s.answered true (s.svc.errLog.flatMap ErrEnt.words))

/-! Privileged instructions (R418 to R422). -/

/-- PRIV outside privileged state (R418). -/
def Cx.privileged (c : Cx) (s : State) : Except Stop Unit :=
  if (s.ctx c.ctx).d.priv then c.noXp else .error (trapOf 0x03)

/-- An S register of a privileged word: ILL for numbers 64 to 127 (R418). -/
def sysS (n : Nat) : Except Stop Unit := if 64 ≤ n then .error ill else .ok ()

/-- The target context of a privileged instruction (R419). -/
def Cx.tgt (c : Cx) (s : State) : Nat := (s.ctx c.ctx).tgt.getD c.ctx

/-- PROT when TGTCTX names no context (R419). -/
def Cx.target1 (c : Cx) (s : State) : Except Stop Nat :=
  if (s.ctxs.get? (c.tgt s)).isSome then .ok (c.tgt s) else .error (trapLane 0x08 0 (BitVec.ofNat 64 (c.tgt s)))

/-- MTCP (R419). -/
def execMtcp (o : FMtc) (s : State) : Host.Outcome State Fault Refusal :=
  s.runTarget o.sw (fun c s => do
    c.privileged s
    sysS o.a.toNat
    if decide (3 < o.n.toNat) then .error ill else .ok ()
    c.touch s [.s o.a.toNat]
    let v := c.readS s o.a.toNat
    match o.n.toNat with
    | 0 =>
      let known := match s.ctxs.get? v.toNat with | some k => !k.d.secure | none => false
      if !(s.ctx c.ctx).d.secure && !known then .error (trapLane 0x17 0 (v.setWidth 64))
      else .ok (s.modCtx c.ctx (fun k => { k with tgt := some v.toNat }), .next)
    | 1 =>
      let t ← c.target1 s
      .ok (s.replayPages t v, .next)
    | 2 =>
      let t ← c.target1 s
      .ok (s.modCtx t (fun k => { k with d := { k.d with portWd := if v = 0 then 0x1000000 else v } }), .next)
    | _ =>
      if decide (v.toNat < 1024) || decide (2 ^ 31 < v.toNat) then .ok (s, .next)
      else .ok ({ s with fab := { s.fab with fretry := v } }, .next))

/-- What a privileged register reads as (R419). What the write-only PRQREPLAY reads as is not stated: a free value. -/
def Cx.privReg (c : Cx) (s : State) (t n : Nat) : Word :=
  match n with
  | 0 => BitVec.ofNat 32 (c.tgt s)
  | 1 => BitVec.ofNat 32 (Config.pick s.tick 9900)
  | 2 => (s.ctx t).d.portWd
  | 3 => s.fab.fretry
  | 4 => if s.world 0 c.core then 1 else 0
  | _ => BitVec.ofNat 32 s.svc.errSeq

/-- MFCP (R419). -/
def execMfcp (o : FMfc) (s : State) : Host.Outcome State Fault Refusal :=
  s.runTarget o.sw (fun c s => do
    c.privileged s
    sysS o.d.toNat
    if decide (5 < o.n.toNat) then .error ill else .ok ()
    c.touch s [.s o.d.toNat]
    let t ← if o.n.toNat = 1 || o.n.toNat = 2 then c.target1 s else .ok 0
    .ok (s.result c 4 [.s o.d.toNat] [.s o.d.toNat (c.privReg s t o.n.toNat)], .next))

/-- Whether a cached translation is covered (R420). -/
def Tlb.covered (t : Tlb) (i : Inval) : Bool :=
  t.ctx == i.ctx && (i.pages == 0 ||
    (decide (i.page * 4096 < (t.page + 1) * 2 ^ t.shift) && decide (t.page * 2 ^ t.shift < (i.page + i.pages) * 4096)))

/-- TLBINV (R420). -/
def execTlbinv (o : FA) (s : State) : Host.Outcome State Fault Refusal :=
  s.runTarget o.sw (fun c s => do
    c.privileged s
    let a := o.a.toNat
    match c.w.iss.resume with
    | .tlbinv id =>
      if s.invals.any (fun i => i.id == id && !i.done) then .error (.park .keyWait s)
      else .ok ({ s with invals := s.invals.filter (fun i => i.id != id) }, .next)
    | _ =>
      if decide (61 < a) || a % 2 != 0 then .error ill else .ok ()
      c.touch s [.s a, .s (a + 1), .s (a + 2)]
      let t ← c.target1 s
      let r := s.newId
      let va := (pair (c.readS s a) (c.readS s (a + 1))).toNat % 2 ^ 57
      let i : Inval := { id := r.1, ctx := t, page := va / 4096, pages := (c.readS s (a + 2)).toNat }
      let s1 := (State.post { c.command r.2 [t, i.page, i.pages] with invals := r.2.invals ++ [i] } (.tlbinvComplete r.1)).modWarp c.uid (fun w =>
        { w with iss := { w.iss with resume := .tlbinv r.1 } })
      .error (.park .keyWait s1))

/-- TLBINV_COMPLETE (R200, R420): every TLB has dropped the covered translations; a new ROOT takes effect with the whole
context's (R409). -/
def execTlbinvComplete (id : Nat) (s : State) : Host.Outcome State Fault Refusal :=
  match s.invals.find? (fun i => i.id == id) with
  | none => ran s
  | some i =>
    let keep (l : List Tlb) : List Tlb := l.filter (fun t => !t.covered i)
    let s1 : State := { s with
      cores := s.cores.mapv (fun _ k => { k with tlb := keep k.tlb })
      quads := s.quads.mapv (fun _ q => { q with tlb := keep q.tlb })
      invals := s.invals.map (fun x => if x.id = id then { x with done := true } else x) }
    ran (if i.pages = 0 then s1.modCtx i.ctx (fun c => { c with d := { c.d with root := c.d.nextRoot.getD c.d.root, nextRoot := none } })
      else s1)

/-- WSWITCH (R421). -/
def execWswitch (o : FDa) (s : State) : Host.Outcome State Fault Refusal :=
  s.runTarget o.sw (fun c s => do
    c.privileged s
    sysS o.d.toNat
    sysS o.a.toNat
    c.touch s [.s o.d.toNat, .s o.a.toNat]
    let s := c.command s [(c.readS s o.a.toNat).toNat]
    let r := if (s.ctx c.ctx).d.secure then s.switchWorld (c.readS s o.a.toNat) else (s, 2)
    let w := if r.2 = 0 then statusWord true false 0 0 else statusWord true true 0x17 r.2
    .ok (r.1.result c 4 [.s o.d.toNat] [.s o.d.toNat w], .next))

/-- HALT (R422). -/
def execHalt (o : FNone) (s : State) : Host.Outcome State Fault Refusal :=
  s.runTarget o.sw (fun c s => do
    c.privileged s
    match c.w.iss.resume with
    | .resumed => .ok (s, .next)
    | _ => .error (.park .hold (s.modWarp c.uid (fun w => { w with iss := { w.iss with resume := .halt } }))))

/-- HALT_RESUME (R422). -/
def execHaltResume (uid : Nat) (s : State) : Host.Outcome State Fault Refusal :=
  if (s.warps.get? uid).isNone || (s.warp uid).iss.resume != .halt then ran s
  else ran (s.modWarp uid (fun w => { w with iss := { w.iss with resume := .resumed } }))

/-! Service (R423 to R426). -/

/-- FIRMWARE_UPDATE (R423): 0 distributor, 1 fabric-engine part, 2 Creel. An image that is refused leaves the old one. The engine
stops at a point between two steps, and a second such event, which the first sets going, ends the switch (log 81). -/
def execFirmwareUpdate (kind die : Nat) (ok : Bool) (s : State) : Host.Outcome State Fault Refusal :=
  if !ok || decide (2 < kind) || decide (4 ≤ die) then ran (s.answered false [])
  else
    let k := kind * 4 + die
    if !s.switching kind die then
      ran (State.post { s with svc := { s.svc with stops := s.svc.stops.set k (s.die die).mesh } } (.firmwareUpdate kind die ok))
    else
      ran ({ s with svc := { s.svc with
        firmware := s.svc.firmware.set k (s.svc.firmware.getD k 0 + 1), stops := s.svc.stops.erase k } }.answered true [])

/-- LPDDR_RETRAIN (R424): the channel's lines are copied to the reserve and back; they keep their values, and the reserve is
left with the copies, line by line where P[8:7] moves to the other die. -/
def execLpddrRetrain (channel target : Nat) (s : State) : Host.Outcome State Fault Refusal :=
  if decide (32 ≤ channel) || decide (32 ≤ target) || channel % 8 != target % 8 || channel == target then ran (s.answered false [])
  else
    let m := s.mergeAll
    let flip (a : Nat) : Nat := a ^^^ ((channel / 8 ^^^ target / 8) * 128)
    let rest := m.mem.filter (fun c => channelOf c.1 != target)
    let mine := m.mem.filter (fun c => channelOf c.1 == channel)
    ran ({ m with
      mem := mine.foldl (fun (l : List Host.Cell) (c : Host.Cell) => Memory.write l (flip c.1) c.2) rest
      bad := m.bad.filter (fun b => channelOf b != target) }.answered true [])

/-- CORE_RETIRE (R425): the contexts on the core are pre-empted, and its windows raise PROT from now on. -/
def execCoreRetire (core : Nat) (s : State) : Host.Outcome State Fault Refusal :=
  let on := (s.ctxs.filter (fun kv => kv.2.cores.contains core || (s.coresOf kv.1).contains core)).map Prod.fst
  ran (on.foldl State.preempt (s.modCore core (fun k => { k with retired := true })))

/-- Whether a context still runs. -/
def State.anyRunning (s : State) : Bool := s.ctxs.any (fun kv => kv.2.run != .saved && !kv.2.terminated)

/-- Asks for every context to be saved. -/
def State.preemptAll (s : State) : State := (s.ctxs.keys).foldl State.preempt s

/-- The key pair under which a line is stored: that of the world of its region (R415). -/
def State.lineKey (s : State) (line : Nat) : WorldKey := nth s.svc.keys (if s.regionSecure line then 1 else 0) { data := 0, tweak := 0 }

/-- A line as LPDDR stores it (R415): the ciphertext of its bytes. -/
def State.stored (s : State) (line : Nat) : List Byte := (s.lineKey line).xts false line (s.rd line 128)

/-- The lines of device memory that hold anything, in order. -/
def State.heldLines (s : State) : List Nat := (s.mem.map (fun c => lineOf c.1)).eraseDups

/-- What a checkpoint holds (R426). The keys travel only within a session. -/
def State.image (s : State) : Image :=
  let m := s.mergeAll
  { lines := m.heldLines, keys := if s.svc.session then some s.svc.keys else none,
    regions := m.dies.mapv (fun _ d => d.regions), versions := m.versions, bad := m.bad,
    ctxs := m.ctxs, grids := m.grids, teams := m.teams, warps := m.warps, members := m.members,
    ops := m.ops, reqs := m.reqs, chimes := m.chimes, txs := m.txs, copies := m.copies, posts := m.posts, bufs := m.bufs,
    queues := m.queues, groups := m.groups, colls := m.colls, combs := m.combs, tensors := m.quads.mapv (fun _ q => q.tensors),
    pages := m.pages, words := m.words, bag := m.bag }

/-- CHECKPOINT (R426): every context is pre-empted, then all of LPDDR leaves for the safe tier of host memory, line by line as its
stored ciphertext; lines that hold nothing are left out (log 80). -/
def execCheckpoint (s : State) : Host.Outcome State Fault Refusal :=
  if s.anyRunning then ran ((s.preemptAll).post .checkpoint)
  else
    let m := s.mergeAll
    let t := m.heldLines.foldl (fun t l => t.hostWr (Config.safeTier + l) (m.stored l)) m
    ran ({ t with svc := { t.svc with image := some s.image } }.emit
      (.image (m.heldLines.flatMap (fun l => (m.stored l).zipIdx.map (fun (p : Byte × Nat) => (l + p.2, p.1))))))

/-- Device memory as a restore loads it: each line of the image from host memory, decrypted under the image's keys (R426). -/
def State.loadLines (s : State) (i : Image) (keys : List WorldKey) : List Host.Cell :=
  let t : State := { s with dies := s.dies.mapv (fun k d => { d with regions := i.regions.getD k [] }), svc := { s.svc with keys := keys } }
  i.lines.foldl (fun m l => Memory.writeN m l ((t.lineKey l).xts true l (s.hostRd (Config.safeTier + l) 128))) []

/-- CHECKPOINT_RESTORE (R426): the image and the keys are loaded and each context is restored under R364. Without a session, in the
image or here, no key can be unwrapped, and nothing is restored. -/
def execCheckpointRestore (s : State) : Host.Outcome State Fault Refusal :=
  match s.svc.image, (s.svc.image.bind (fun i => i.keys)).filter (fun _ => s.svc.session) with
  | none, _ => ran (s.answered false [])
  | _, none => ran (s.answered false [])
  | some i, some keys =>
    let quads : KMap Quad := i.tensors.foldl (fun (m : KMap Quad) p => m.set p.1 { m.getD p.1 {} with tensors := p.2 })
      (s.quads.mapv (fun _ q => { q with tensors := [], opCache := [], scales := [], tlb := [] }))
    ran { s with
      mem := s.loadLines i keys, svc := { s.svc with keys := keys }, versions := i.versions
      dies := s.dies.mapv (fun k d => { d with regions := i.regions.getD k [] })
      frames := s.frames.mapv (fun _ f => { f with replicas := [] })
      bad := i.bad, ctxs := i.ctxs, grids := i.grids, teams := i.teams, warps := i.warps, members := i.members,
      ops := i.ops, reqs := i.reqs, chimes := i.chimes, txs := i.txs, copies := i.copies, posts := i.posts, bufs := i.bufs,
      queues := i.queues, groups := i.groups, colls := i.colls, combs := i.combs, pages := i.pages, words := i.words,
      partials := [], tiles := [], invals := [], fars := [], quads := quads
      cores := s.cores.mapv (fun _ k => { k with l1 := [], tlb := [], segs := [], lq := [] })
      bag := i.bag ++ (i.ctxs.keys.filter (fun c => !i.bag.contains (.contextRestore c))).map Ev.contextRestore }

/-! Errors (R427). -/

/-- The clock count of the unit that reports an error. -/
def State.errClock (s : State) (e : EccRec) : Nat :=
  match e.unit with
  | 4 => (s.die e.die).mesh
  | 7 => s.lpddr.getD (e.die * 8 + bits e.index.toNat 15 0 % 8) 0
  | _ => (s.core (bits e.index.toNat 15 0)).cyc

/-- The offset in a core's window of an array of a unit (R23). -/
def arrayBase : Nat → Nat
  | 2 => 0x800000
  | 3 => 0x900000
  | 6 => 0xA00000
  | _ => 0

/-- Uncorrectable data marked poison, in the 8-byte units where the array keeps them (R427): what reads them into a register ends
the context, and a copy carries the mark on. An entry of a TLB is no data: all of the core's are fetched anew (log 79). -/
def State.markPoison (s : State) (e : EccRec) : State :=
  let core := bits e.index.toNat 15 0
  let pa := 0x200000000000 + core * 0x4000000 + arrayBase e.unit + e.addr
  match e.unit with
  | 1 =>
    (match s.windowTeam core e.addr with
      | some (t, o) => s.modTeam t (fun x => { x with bad := addNew x.bad [o / 8 * 8] })
      | none => s)
  | 2 =>
    (match placeOf pa with
      | .register c slot r lane _ =>
        (match s.warpAt c slot with
          | some (u, w) => s.modWarp u (fun v => { v with
              bad := [(r, slotLane w slot (lane / 2 * 2)), (r, slotLane w slot (lane / 2 * 2 + 1))] ++ v.bad })
          | none => s)
      | _ => s)
  | 3 =>
    (match placeOf pa with
      | .tile c t i _ => s.modCore c (fun k => { k with badAcc := addNew k.badAcc [t * 2 ^ 14 + i / 2 * 2, t * 2 ^ 14 + i / 2 * 2 + 1] })
      | _ => s)
  | 4 => { s with bad := addNew s.bad [e.addr / 8 * 8] }
  | 7 => { s with bad := addNew s.bad [e.addr / 8 * 8] }
  | 5 => s.modCore core (fun k =>
      if (k.l1.get? (lineOf e.addr)).isSome then { k with badL1 := addNew k.badL1 [e.addr / 8 * 8] } else { k with tlb := [] })
  | 6 =>
    (match placeOf pa with
      | .port c f i l _ =>
        (match s.frameOwner c f l with
          | some (u, p, lane) => s.modWarp u (fun w =>
              let x := w.port p
              w.setPort p { x with queue := x.queue.set lane ((x.lane lane).zipIdx.map (fun y => if y.2 = i then { y.1 with bad := true } else y.1)) })
          | none => s)
      | _ => s)
  | _ => s

/-- ECC_ERROR (R427): an error record, and poison for uncorrectable data. -/
def execEccError (e : EccRec) (s : State) : Host.Outcome State Fault Refusal :=
  let same (x : ErrEnt) : Bool := x.err.unit == e.unit && x.err.die == e.die && x.err.index == e.index && x.err.addr == e.addr
  let n := (s.svc.errLog.filter same).length
  let ent : ErrEnt := { err := e, cycles := s.errClock e, seq := s.svc.errSeq % 2 ^ 32, count := min 0xFFFFFFFF (n + 1) }
  let s1 := { s with svc := { s.svc with errLog := s.svc.errLog ++ [ent], errSeq := s.svc.errSeq + 1 } }
  ran (if e.uncorr then s1.markPoison e else s1)

/-! Power (R428, R429). -/

/-- The world keys that a reset generates (R415). -/
def newKeys (n : Nat) : List WorldKey :=
  [{ data := Config.worldKey n 0, tweak := Config.worldKey n 1 }, { data := Config.worldKey n 2, tweak := Config.worldKey n 3 }]

/-- POWER_ON (R428): new world keys, every memory of the module zero, every register at its reset value, ready. -/
def execPowerOn (s : State) : Host.Outcome State Fault Refusal :=
  ran { State.reset with
    host := s.host, inputs := s.inputs, outbox := s.outbox, tick := s.tick, fresh := s.fresh
    fab := { State.reset.fab with device := s.fab.device }
    svc := { ready := true, resets := s.svc.resets + 1, keys := newKeys (s.svc.resets + 1), image := s.svc.image } }

/-- CLOCK_THROTTLE (R429): one step of 25 MHz, down to 350 MHz, and up again to the nominal rate while the power cap leaves
headroom; a die at 115 °C holds the clock at 350 MHz. -/
def execClockThrottle (up : Bool) (s : State) : Host.Outcome State Fault Refusal :=
  let hot := s.cores.any (fun kv => decide (115 ≤ kv.2.temp))
  let above := decide (s.svc.cap < s.svc.drawn)
  let c := s.svc.clock
  let n := if hot then 350 else if up && above then c else if up then min 700 (c + 25) else max 350 (c - 25)
  ran { s with svc := { s.svc with clock := n } }

/-- THERMAL_SHUTDOWN (R429): of a die at 125 °C. Every context is pre-empted, then the compute dies power down. -/
def execThermalShutdown (die : Nat) (s : State) : Host.Outcome State Fault Refusal :=
  if !s.cores.any (fun kv => dieOf kv.1 == die && decide (125 ≤ kv.2.temp)) then ran s
  else if s.anyRunning then ran ((s.preemptAll).post (.thermalShutdown die))
  else ran ((List.range 4).foldl (fun s d => s.modDie d (fun k => { k with off := true })) s)

/-! Attestation (R416). -/

/-- An answer to an SPDM request: its bytes are the device's own (log 31). -/
def State.spdmAnswer (s : State) (code : Nat) (m : SpdmReq) : State :=
  { s with svc := { s.svc with spdm := addNew s.svc.spdm [code] } }.emit (.answer code (Config.spdm code m.payload s.tick))

/-- An SPDM request out of its order. -/
def State.spdmError (s : State) : State := s.emit (.answer 0x7F [])

/-- Requests that must have been answered in this session before a request. -/
def State.spdmAfter (s : State) (code : Nat) (need : List Nat) (m : SpdmReq) : State :=
  if need.all (fun c => s.svc.spdm.contains c) then s.spdmAnswer code m else s.spdmError

/-- GET_VERSION: a new exchange begins. -/
def execGetVersion (m : SpdmReq) (s : State) : Host.Outcome State Fault Refusal :=
  ran (State.spdmAnswer { s with svc := { s.svc with spdm := [], session := false } } 0x84 m)

/-- GET_CAPABILITIES. -/
def execGetCapabilities (m : SpdmReq) (s : State) : Host.Outcome State Fault Refusal := ran (s.spdmAfter 0xE1 [0x84] m)

/-- NEGOTIATE_ALGORITHMS: ECDSA over P-384 and SHA-384. -/
def execNegotiateAlgorithms (m : SpdmReq) (s : State) : Host.Outcome State Fault Refusal := ran (s.spdmAfter 0xE3 [0x84, 0xE1] m)

/-- GET_DIGESTS. -/
def execGetDigests (m : SpdmReq) (s : State) : Host.Outcome State Fault Refusal := ran (s.spdmAfter 0x81 [0x84, 0xE1, 0xE3] m)

/-- GET_CERTIFICATE. -/
def execGetCertificate (m : SpdmReq) (s : State) : Host.Outcome State Fault Refusal := ran (s.spdmAfter 0x82 [0x84, 0xE1, 0xE3] m)

/-- CHALLENGE. -/
def execChallenge (m : SpdmReq) (s : State) : Host.Outcome State Fault Refusal := ran (s.spdmAfter 0x83 [0x84, 0xE1, 0xE3] m)

/-- GET_MEASUREMENTS. -/
def execGetMeasurements (m : SpdmReq) (s : State) : Host.Outcome State Fault Refusal := ran (s.spdmAfter 0xE0 [0x84, 0xE1, 0xE3] m)

/-- KEY_EXCHANGE. -/
def execKeyExchange (m : SpdmReq) (s : State) : Host.Outcome State Fault Refusal := ran (s.spdmAfter 0xE4 [0x84, 0xE1, 0xE3] m)

/-- FINISH: the session stands once a key exchange has been made. -/
def execFinish (m : SpdmReq) (s : State) : Host.Outcome State Fault Refusal :=
  if s.svc.spdm.contains 0xE4 then ran (State.spdmAnswer { s with svc := { s.svc with session := true } } 0xE5 m)
  else ran s.spdmError

end Sys2Proof.Machine
end

