-- ==== Sys2Proof/Machine/Dispatch.lean ====
section
/-! DEFINITION. The meaning of every instruction: one arm for each row of the opcode table. -/

namespace Sys2Proof.Machine

open Sys2Proof

def exec (i : Instr) (s : State) : Host.Outcome State Fault Refusal :=
  match i with
  -- major 0x01 HINT
  | .hnop o => Sys2Proof.Machine.execHnop o s
  | .himmLo o => Sys2Proof.Machine.execHimmLo o s
  | .himmHi o => Sys2Proof.Machine.execHimmHi o s
  | .hofs o => Sys2Proof.Machine.execHofs o s
  | .hcache o => Sys2Proof.Machine.execHcache o s
  | .hreuse o => Sys2Proof.Machine.execHreuse o s
  | .hstall o => Sys2Proof.Machine.execHstall o s
  | .hprio o => Sys2Proof.Machine.execHprio o s
  -- major 0x02 XP
  | .xp o => Sys2Proof.Machine.execXp o s
  -- major 0x03 BR
  | .brT o => Sys2Proof.Machine.execBrT o s
  | .brF o => Sys2Proof.Machine.execBrF o s
  | .brAny o => Sys2Proof.Machine.execBrAny o s
  | .brAll o => Sys2Proof.Machine.execBrAll o s
  -- major 0x04 CALL
  | .call o => Sys2Proof.Machine.execCall o s
  -- major 0x05 LOOP
  | .loopb o => Sys2Proof.Machine.execLoopb o s
  -- major 0x06 CTL
  | .jmpi o => Sys2Proof.Machine.execJmpi o s
  | .calli o => Sys2Proof.Machine.execCalli o s
  | .ret o => Sys2Proof.Machine.execRet o s
  | .exit o => Sys2Proof.Machine.execExit o s
  | .trap o => Sys2Proof.Machine.execTrap o s
  | .sysc o => Sys2Proof.Machine.execSysc o s
  | .brk o => Sys2Proof.Machine.execBrk o s
  | .yield o => Sys2Proof.Machine.execYield o s
  | .nop o => Sys2Proof.Machine.execNop o s
  | .enrol o => Sys2Proof.Machine.execEnrol o s
  | .join o => Sys2Proof.Machine.execJoin o s
  | .strike o => Sys2Proof.Machine.execStrike o s
  | .lset o => Sys2Proof.Machine.execLset o s
  | .drain o => Sys2Proof.Machine.execDrain o s
  | .eret o => Sys2Proof.Machine.execEret o s
  -- major 0x08 VINT
  | .iadd o => Sys2Proof.Machine.execIadd o s
  | .isub o => Sys2Proof.Machine.execIsub o s
  | .imul o => Sys2Proof.Machine.execImul o s
  | .imulhI o => Sys2Proof.Machine.execImulhI o s
  | .imulhN o => Sys2Proof.Machine.execImulhN o s
  | .imad o => Sys2Proof.Machine.execImad o s
  | .andV o => Sys2Proof.Machine.execAnd o s
  | .orV o => Sys2Proof.Machine.execOr o s
  | .xorV o => Sys2Proof.Machine.execXor o s
  | .shl o => Sys2Proof.Machine.execShl o s
  | .shr o => Sys2Proof.Machine.execShr o s
  | .sar o => Sys2Proof.Machine.execSar o s
  | .minI o => Sys2Proof.Machine.execMinI o s
  | .minN o => Sys2Proof.Machine.execMinN o s
  | .maxI o => Sys2Proof.Machine.execMaxI o s
  | .maxN o => Sys2Proof.Machine.execMaxN o s
  -- major 0x09 VINT.S
  | .iaddS o => Sys2Proof.Machine.execIaddS o s
  | .isubS o => Sys2Proof.Machine.execIsubS o s
  | .imulS o => Sys2Proof.Machine.execImulS o s
  | .imulhIS o => Sys2Proof.Machine.execImulhIS o s
  | .imulhNS o => Sys2Proof.Machine.execImulhNS o s
  | .imadS o => Sys2Proof.Machine.execImadS o s
  | .andS o => Sys2Proof.Machine.execAndS o s
  | .orS o => Sys2Proof.Machine.execOrS o s
  | .xorS o => Sys2Proof.Machine.execXorS o s
  | .shlS o => Sys2Proof.Machine.execShlS o s
  | .shrS o => Sys2Proof.Machine.execShrS o s
  | .sarS o => Sys2Proof.Machine.execSarS o s
  | .minIS o => Sys2Proof.Machine.execMinIS o s
  | .minNS o => Sys2Proof.Machine.execMinNS o s
  | .maxIS o => Sys2Proof.Machine.execMaxIS o s
  | .maxNS o => Sys2Proof.Machine.execMaxNS o s
  -- major 0x0A VBIT
  | .popc o => Sys2Proof.Machine.execPopc o s
  | .clz o => Sys2Proof.Machine.execClz o s
  | .brev o => Sys2Proof.Machine.execBrev o s
  | .bfeI o => Sys2Proof.Machine.execBfeI o s
  | .bfeN o => Sys2Proof.Machine.execBfeN o s
  | .bfi o => Sys2Proof.Machine.execBfi o s
  | .sel o => Sys2Proof.Machine.execSel o s
  | .prmt o => Sys2Proof.Machine.execPrmt o s
  | .andn o => Sys2Proof.Machine.execAndn o s
  | .absdI o => Sys2Proof.Machine.execAbsdI o s
  | .iaddD o => Sys2Proof.Machine.execIaddD o s
  | .isubD o => Sys2Proof.Machine.execIsubD o s
  | .shlD o => Sys2Proof.Machine.execShlD o s
  | .shrD o => Sys2Proof.Machine.execShrD o s
  | .imulwI o => Sys2Proof.Machine.execImulwI o s
  | .imulwN o => Sys2Proof.Machine.execImulwN o s
  -- major 0x0B VINT.I
  | .iaddi o => Sys2Proof.Machine.execIaddi o s
  | .andi o => Sys2Proof.Machine.execAndi o s
  | .xori o => Sys2Proof.Machine.execXori o s
  | .movi o => Sys2Proof.Machine.execMovi o s
  -- major 0x0C VF32
  | .fadd o => Sys2Proof.Machine.execFadd o s
  | .fsub o => Sys2Proof.Machine.execFsub o s
  | .fmul o => Sys2Proof.Machine.execFmul o s
  | .ffma o => Sys2Proof.Machine.execFfma o s
  | .fmin o => Sys2Proof.Machine.execFmin o s
  | .fmax o => Sys2Proof.Machine.execFmax o s
  | .fminm o => Sys2Proof.Machine.execFminm o s
  | .fmaxm o => Sys2Proof.Machine.execFmaxm o s
  | .fabs o => Sys2Proof.Machine.execFabs o s
  | .fneg o => Sys2Proof.Machine.execFneg o s
  | .frcp o => Sys2Proof.Machine.execFrcp o s
  | .frsq o => Sys2Proof.Machine.execFrsq o s
  | .fsqrt o => Sys2Proof.Machine.execFsqrt o s
  | .fex2 o => Sys2Proof.Machine.execFex2 o s
  | .flg2 o => Sys2Proof.Machine.execFlg2 o s
  | .fdiv o => Sys2Proof.Machine.execFdiv o s
  -- major 0x0D VF32.S
  | .faddS o => Sys2Proof.Machine.execFaddS o s
  | .fsubS o => Sys2Proof.Machine.execFsubS o s
  | .fmulS o => Sys2Proof.Machine.execFmulS o s
  | .ffmaS o => Sys2Proof.Machine.execFfmaS o s
  | .fminS o => Sys2Proof.Machine.execFminS o s
  | .fmaxS o => Sys2Proof.Machine.execFmaxS o s
  | .fminmS o => Sys2Proof.Machine.execFminmS o s
  | .fmaxmS o => Sys2Proof.Machine.execFmaxmS o s
  | .fsinS o => Sys2Proof.Machine.execFsinS o s
  | .fcosS o => Sys2Proof.Machine.execFcosS o s
  | .ftanhS o => Sys2Proof.Machine.execFtanhS o s
  | .fsigmS o => Sys2Proof.Machine.execFsigmS o s
  | .ferfS o => Sys2Proof.Machine.execFerfS o s
  -- major 0x0E VH2
  | .hadd o => Sys2Proof.Machine.execHadd o s
  | .hsub o => Sys2Proof.Machine.execHsub o s
  | .hmul o => Sys2Proof.Machine.execHmul o s
  | .hfma o => Sys2Proof.Machine.execHfma o s
  | .hmin o => Sys2Proof.Machine.execHmin o s
  | .hmax o => Sys2Proof.Machine.execHmax o s
  | .badd o => Sys2Proof.Machine.execBadd o s
  | .bsub o => Sys2Proof.Machine.execBsub o s
  | .bmul o => Sys2Proof.Machine.execBmul o s
  | .bfma o => Sys2Proof.Machine.execBfma o s
  | .bmin o => Sys2Proof.Machine.execBmin o s
  | .bmax o => Sys2Proof.Machine.execBmax o s
  | .hdot2 o => Sys2Proof.Machine.execHdot2 o s
  | .bdot2 o => Sys2Proof.Machine.execBdot2 o s
  -- major 0x0F VQ
  | .qaddE4m3 o => Sys2Proof.Machine.execQaddE4m3 o s
  | .qsubE4m3 o => Sys2Proof.Machine.execQsubE4m3 o s
  | .qmulE4m3 o => Sys2Proof.Machine.execQmulE4m3 o s
  | .qaddE5m2 o => Sys2Proof.Machine.execQaddE5m2 o s
  | .qsubE5m2 o => Sys2Proof.Machine.execQsubE5m2 o s
  | .qmulE5m2 o => Sys2Proof.Machine.execQmulE5m2 o s
  | .qdot4E4m3 o => Sys2Proof.Machine.execQdot4E4m3 o s
  | .qdot4E5m2 o => Sys2Proof.Machine.execQdot4E5m2 o s
  | .qdot4I8 o => Sys2Proof.Machine.execQdot4I8 o s
  | .qdot4N8 o => Sys2Proof.Machine.execQdot4N8 o s
  | .xdot8E2m1 o => Sys2Proof.Machine.execXdot8E2m1 o s
  | .qmaxE4m3 o => Sys2Proof.Machine.execQmaxE4m3 o s
  | .qminE4m3 o => Sys2Proof.Machine.execQminE4m3 o s
  | .qaddI8 o => Sys2Proof.Machine.execQaddI8 o s
  | .qaddN8 o => Sys2Proof.Machine.execQaddN8 o s
  | .qmaxI8 o => Sys2Proof.Machine.execQmaxI8 o s
  -- major 0x10 VCVT
  | .cvt o => Sys2Proof.Machine.execCvt o s
  -- major 0x11 SCVT.UP
  | .scvtUpE4m3 o => Sys2Proof.Machine.execScvtUpE4m3 o s
  | .scvtUpE5m2 o => Sys2Proof.Machine.execScvtUpE5m2 o s
  | .scvtUpE2m1 o => Sys2Proof.Machine.execScvtUpE2m1 o s
  | .scvtUpLq2 o => Sys2Proof.Machine.execScvtUpLq2 o s
  -- major 0x12 SCVT.DN
  | .scvtDnE4m3 o => Sys2Proof.Machine.execScvtDnE4m3 o s
  | .scvtDnE5m2 o => Sys2Proof.Machine.execScvtDnE5m2 o s
  | .scvtDnE2m1 o => Sys2Proof.Machine.execScvtDnE2m1 o s
  -- major 0x13 VCMP
  | .cmpEq o => Sys2Proof.Machine.execCmpEq o s
  | .cmpNe o => Sys2Proof.Machine.execCmpNe o s
  | .cmpLtI o => Sys2Proof.Machine.execCmpLtI o s
  | .cmpLeI o => Sys2Proof.Machine.execCmpLeI o s
  | .cmpLtN o => Sys2Proof.Machine.execCmpLtN o s
  | .cmpLeN o => Sys2Proof.Machine.execCmpLeN o s
  | .cmpFeq o => Sys2Proof.Machine.execCmpFeq o s
  | .cmpFne o => Sys2Proof.Machine.execCmpFne o s
  | .cmpFlt o => Sys2Proof.Machine.execCmpFlt o s
  | .cmpFle o => Sys2Proof.Machine.execCmpFle o s
  | .cmpFuno o => Sys2Proof.Machine.execCmpFuno o s
  | .cmpFord o => Sys2Proof.Machine.execCmpFord o s
  | .cmpTstz o => Sys2Proof.Machine.execCmpTstz o s
  | .cmpTstnz o => Sys2Proof.Machine.execCmpTstnz o s
  -- major 0x14 VCMP.S
  | .cmpEqS o => Sys2Proof.Machine.execCmpEqS o s
  | .cmpNeS o => Sys2Proof.Machine.execCmpNeS o s
  | .cmpLtIS o => Sys2Proof.Machine.execCmpLtIS o s
  | .cmpLeIS o => Sys2Proof.Machine.execCmpLeIS o s
  | .cmpLtNS o => Sys2Proof.Machine.execCmpLtNS o s
  | .cmpLeNS o => Sys2Proof.Machine.execCmpLeNS o s
  | .cmpFeqS o => Sys2Proof.Machine.execCmpFeqS o s
  | .cmpFneS o => Sys2Proof.Machine.execCmpFneS o s
  | .cmpFltS o => Sys2Proof.Machine.execCmpFltS o s
  | .cmpFleS o => Sys2Proof.Machine.execCmpFleS o s
  | .cmpFunoS o => Sys2Proof.Machine.execCmpFunoS o s
  | .cmpFordS o => Sys2Proof.Machine.execCmpFordS o s
  | .cmpTstzS o => Sys2Proof.Machine.execCmpTstzS o s
  | .cmpTstnzS o => Sys2Proof.Machine.execCmpTstnzS o s
  -- major 0x15 MASK
  | .mand o => Sys2Proof.Machine.execMand o s
  | .mor o => Sys2Proof.Machine.execMor o s
  | .mxor o => Sys2Proof.Machine.execMxor o s
  | .mandn o => Sys2Proof.Machine.execMandn o s
  | .mnot o => Sys2Proof.Machine.execMnot o s
  | .mpopc o => Sys2Proof.Machine.execMpopc o s
  | .mffs o => Sys2Proof.Machine.execMffs o s
  | .mfroms o => Sys2Proof.Machine.execMfroms o s
  | .mtos o => Sys2Proof.Machine.execMtos o s
  -- major 0x16 XLANE
  | .shflIdx o => Sys2Proof.Machine.execShflIdx o s
  | .shflUp o => Sys2Proof.Machine.execShflUp o s
  | .shflDn o => Sys2Proof.Machine.execShflDn o s
  | .shflXor o => Sys2Proof.Machine.execShflXor o s
  | .voteAny o => Sys2Proof.Machine.execVoteAny o s
  | .voteAll o => Sys2Proof.Machine.execVoteAll o s
  | .ballot o => Sys2Proof.Machine.execBallot o s
  | .matchV o => Sys2Proof.Machine.execMatch o s
  | .redxAddI o => Sys2Proof.Machine.execRedxAddI o s
  | .redxAddF o => Sys2Proof.Machine.execRedxAddF o s
  | .redxMinI o => Sys2Proof.Machine.execRedxMinI o s
  | .redxMaxI o => Sys2Proof.Machine.execRedxMaxI o s
  | .scanAddI o => Sys2Proof.Machine.execScanAddI o s
  | .scanAddF o => Sys2Proof.Machine.execScanAddF o s
  | .bcast o => Sys2Proof.Machine.execBcast o s
  -- major 0x17 SALU
  | .sadd o => Sys2Proof.Machine.execSadd o s
  | .ssub o => Sys2Proof.Machine.execSsub o s
  | .smul o => Sys2Proof.Machine.execSmul o s
  | .sand o => Sys2Proof.Machine.execSand o s
  | .sor o => Sys2Proof.Machine.execSor o s
  | .sxor o => Sys2Proof.Machine.execSxor o s
  | .sshl o => Sys2Proof.Machine.execSshl o s
  | .sshr o => Sys2Proof.Machine.execSshr o s
  | .ssar o => Sys2Proof.Machine.execSsar o s
  | .sminI o => Sys2Proof.Machine.execSminI o s
  | .smaxI o => Sys2Proof.Machine.execSmaxI o s
  | .sminN o => Sys2Proof.Machine.execSminN o s
  | .smaxN o => Sys2Proof.Machine.execSmaxN o s
  | .saddD o => Sys2Proof.Machine.execSaddD o s
  | .scmp o => Sys2Proof.Machine.execScmp o s
  | .ssel o => Sys2Proof.Machine.execSsel o s
  -- major 0x18 SALU.I
  | .saddi o => Sys2Proof.Machine.execSaddi o s
  | .smovi o => Sys2Proof.Machine.execSmovi o s
  | .sandi o => Sys2Proof.Machine.execSandi o s
  | .sshli o => Sys2Proof.Machine.execSshli o s
  -- major 0x19 MOV
  | .movv o => Sys2Proof.Machine.execMovv o s
  | .movVs o => Sys2Proof.Machine.execMovVs o s
  | .movSv o => Sys2Proof.Machine.execMovSv o s
  | .mfc o => Sys2Proof.Machine.execMfc o s
  | .mtc o => Sys2Proof.Machine.execMtc o s
  | .mfcv o => Sys2Proof.Machine.execMfcv o s
  | .vrdi o => Sys2Proof.Machine.execVrdi o s
  | .vwri o => Sys2Proof.Machine.execVwri o s
  | .xset o => Sys2Proof.Machine.execXset o s
  -- major 0x1A LD
  | .ldB8 o => Sys2Proof.Machine.execLdB8 o s
  | .ldB16 o => Sys2Proof.Machine.execLdB16 o s
  | .ldB32 o => Sys2Proof.Machine.execLdB32 o s
  | .ldB64 o => Sys2Proof.Machine.execLdB64 o s
  | .ldB128 o => Sys2Proof.Machine.execLdB128 o s
  | .ldI8 o => Sys2Proof.Machine.execLdI8 o s
  | .ldI16 o => Sys2Proof.Machine.execLdI16 o s
  | .pref o => Sys2Proof.Machine.execPref o s
  -- major 0x1B ST
  | .stB8 o => Sys2Proof.Machine.execStB8 o s
  | .stB16 o => Sys2Proof.Machine.execStB16 o s
  | .stB32 o => Sys2Proof.Machine.execStB32 o s
  | .stB64 o => Sys2Proof.Machine.execStB64 o s
  | .stB128 o => Sys2Proof.Machine.execStB128 o s
  -- major 0x1C LDN
  | .ldnB8 o => Sys2Proof.Machine.execLdnB8 o s
  | .ldnB16 o => Sys2Proof.Machine.execLdnB16 o s
  | .ldnB32 o => Sys2Proof.Machine.execLdnB32 o s
  | .ldnB64 o => Sys2Proof.Machine.execLdnB64 o s
  | .ldnB128 o => Sys2Proof.Machine.execLdnB128 o s
  | .ldnI8 o => Sys2Proof.Machine.execLdnI8 o s
  | .ldnI16 o => Sys2Proof.Machine.execLdnI16 o s
  | .ldnPres o => Sys2Proof.Machine.execLdnPres o s
  -- major 0x1D STN
  | .stnB8 o => Sys2Proof.Machine.execStnB8 o s
  | .stnB16 o => Sys2Proof.Machine.execStnB16 o s
  | .stnB32 o => Sys2Proof.Machine.execStnB32 o s
  | .stnB64 o => Sys2Proof.Machine.execStnB64 o s
  | .stnB128 o => Sys2Proof.Machine.execStnB128 o s
  -- major 0x1E ATOM
  | .atomAddI32 o => Sys2Proof.Machine.execAtomAddI32 o s
  | .atomMinI32 o => Sys2Proof.Machine.execAtomMinI32 o s
  | .atomMaxI32 o => Sys2Proof.Machine.execAtomMaxI32 o s
  | .atomMinN32 o => Sys2Proof.Machine.execAtomMinN32 o s
  | .atomMaxN32 o => Sys2Proof.Machine.execAtomMaxN32 o s
  | .atomAnd o => Sys2Proof.Machine.execAtomAnd o s
  | .atomOr o => Sys2Proof.Machine.execAtomOr o s
  | .atomXor o => Sys2Proof.Machine.execAtomXor o s
  | .atomXchg o => Sys2Proof.Machine.execAtomXchg o s
  | .atomCas o => Sys2Proof.Machine.execAtomCas o s
  | .atomAddF32 o => Sys2Proof.Machine.execAtomAddF32 o s
  | .atomAddBf16x2 o => Sys2Proof.Machine.execAtomAddBf16x2 o s
  | .atomIncw o => Sys2Proof.Machine.execAtomIncw o s
  | .atomAddI64 o => Sys2Proof.Machine.execAtomAddI64 o s
  | .atomCas64 o => Sys2Proof.Machine.execAtomCas64 o s
  | .atomXchg64 o => Sys2Proof.Machine.execAtomXchg64 o s
  -- major 0x1F ATOMN
  | .atomnAddI32 o => Sys2Proof.Machine.execAtomnAddI32 o s
  | .atomnMinI32 o => Sys2Proof.Machine.execAtomnMinI32 o s
  | .atomnMaxI32 o => Sys2Proof.Machine.execAtomnMaxI32 o s
  | .atomnMinN32 o => Sys2Proof.Machine.execAtomnMinN32 o s
  | .atomnMaxN32 o => Sys2Proof.Machine.execAtomnMaxN32 o s
  | .atomnAnd o => Sys2Proof.Machine.execAtomnAnd o s
  | .atomnOr o => Sys2Proof.Machine.execAtomnOr o s
  | .atomnXor o => Sys2Proof.Machine.execAtomnXor o s
  | .atomnXchg o => Sys2Proof.Machine.execAtomnXchg o s
  | .atomnCas o => Sys2Proof.Machine.execAtomnCas o s
  | .atomnAddF32 o => Sys2Proof.Machine.execAtomnAddF32 o s
  | .atomnAddBf16x2 o => Sys2Proof.Machine.execAtomnAddBf16x2 o s
  | .atomnIncw o => Sys2Proof.Machine.execAtomnIncw o s
  | .atomnAddI64 o => Sys2Proof.Machine.execAtomnAddI64 o s
  | .atomnCas64 o => Sys2Proof.Machine.execAtomnCas64 o s
  | .atomnXchg64 o => Sys2Proof.Machine.execAtomnXchg64 o s
  -- major 0x20 SLICE
  | .sliceLdl o => Sys2Proof.Machine.execSliceLdl o s
  | .sliceCstm o => Sys2Proof.Machine.execSliceCstm o s
  | .sliceRedlI32 o => Sys2Proof.Machine.execSliceRedlI32 o s
  | .sliceRedlAln o => Sys2Proof.Machine.execSliceRedlAln o s
  -- major 0x21 KEY
  | .kscope o => Sys2Proof.Machine.execKscope o s
  | .kdef o => Sys2Proof.Machine.execKdef o s
  | .kfork o => Sys2Proof.Machine.execKfork o s
  | .kjoin o => Sys2Proof.Machine.execKjoin o s
  | .kwait o => Sys2Proof.Machine.execKwait o s
  | .ksend o => Sys2Proof.Machine.execKsend o s
  | .krecv o => Sys2Proof.Machine.execKrecv o s
  | .kpoll o => Sys2Proof.Machine.execKpoll o s
  -- major 0x22 PORT
  | .pbind o => Sys2Proof.Machine.execPbind o s
  | .push o => Sys2Proof.Machine.execPush o s
  | .pop o => Sys2Proof.Machine.execPop o s
  | .ppeek o => Sys2Proof.Machine.execPpeek o s
  | .pstat o => Sys2Proof.Machine.execPstat o s
  | .punbind o => Sys2Proof.Machine.execPunbind o s
  -- major 0x23 COPY
  | .tcopy o => Sys2Proof.Machine.execTcopy o s
  | .tcopyt o => Sys2Proof.Machine.execTcopyt o s
  | .tcancel o => Sys2Proof.Machine.execTcancel o s
  | .rcarm o => Sys2Proof.Machine.execRcarm o s
  | .rcwait o => Sys2Proof.Machine.execRcwait o s
  | .rcread o => Sys2Proof.Machine.execRcread o s
  | .cpoll o => Sys2Proof.Machine.execCpoll o s
  -- major 0x24 MX
  | .mxpost o => Sys2Proof.Machine.execMxpost o s
  | .mxrd o => Sys2Proof.Machine.execMxrd o s
  | .mxwr o => Sys2Proof.Machine.execMxwr o s
  | .mxzero o => Sys2Proof.Machine.execMxzero o s
  | .mxhbind o => Sys2Proof.Machine.execMxhbind o s
  | .mxhgen o => Sys2Proof.Machine.execMxhgen o s
  | .scbind o => Sys2Proof.Machine.execScbind o s
  | .scload o => Sys2Proof.Machine.execScload o s
  | .scinv o => Sys2Proof.Machine.execScinv o s
  -- major 0x25 CREEL
  | .crcfg o => Sys2Proof.Machine.execCrcfg o s
  | .cralloc o => Sys2Proof.Machine.execCralloc o s
  | .crallocW o => Sys2Proof.Machine.execCrallocW o s
  | .crgate o => Sys2Proof.Machine.execCrgate o s
  | .crwait o => Sys2Proof.Machine.execCrwait o s
  | .crstat o => Sys2Proof.Machine.execCrstat o s
  | .crfree o => Sys2Proof.Machine.execCrfree o s
  -- major 0x26 BAR
  | .binit o => Sys2Proof.Machine.execBinit o s
  | .barv o => Sys2Proof.Machine.execBarv o s
  | .bwait o => Sys2Proof.Machine.execBwait o s
  | .bsync o => Sys2Proof.Machine.execBsync o s
  | .bstat o => Sys2Proof.Machine.execBstat o s
  -- major 0x27 GRID
  | .glaunch o => Sys2Proof.Machine.execGlaunch o s
  | .gwait o => Sys2Proof.Machine.execGwait o s
  | .gstat o => Sys2Proof.Machine.execGstat o s
  -- major 0x28 LQ
  | .lqdec o => Sys2Proof.Machine.execLqdec o s
  | .lqdot o => Sys2Proof.Machine.execLqdot o s
  | .lqtbl o => Sys2Proof.Machine.execLqtbl o s
  -- major 0x3F SYS
  | .mtcp o => Sys2Proof.Machine.execMtcp o s
  | .mfcp o => Sys2Proof.Machine.execMfcp o s
  | .tlbinv o => Sys2Proof.Machine.execTlbinv o s
  | .wswitch o => Sys2Proof.Machine.execWswitch o s
  | .halt o => Sys2Proof.Machine.execHalt o s
  -- events
  | .arbStarveLimit uid => Sys2Proof.Machine.execArbStarveLimit uid s
  | .registerResultReturn uid id => Sys2Proof.Machine.execRegisterResultReturn uid id s
  | .lqtblComplete core id => Sys2Proof.Machine.execLqtblComplete core id s
  | .warpRetire uid => Sys2Proof.Machine.execWarpRetire uid s
  | .trapEntry uid => Sys2Proof.Machine.execTrapEntry uid s
  | .memberLeave id => Sys2Proof.Machine.execMemberLeave id s
  | .releaseNotice id => Sys2Proof.Machine.execReleaseNotice id s
  | .chimeLeave uid => Sys2Proof.Machine.execChimeLeave uid s
  | .chimeInboxArrival id => Sys2Proof.Machine.execChimeInboxArrival id s
  | .chimeDiscard id => Sys2Proof.Machine.execChimeDiscard id s
  | .tlbWalkComplete req => Sys2Proof.Machine.execTlbWalkComplete req s
  | .loadReturn id unit => Sys2Proof.Machine.execLoadReturn id unit s
  | .storeAtHome id unit => Sys2Proof.Machine.execStoreAtHome id unit s
  | .atomicAtHome id unit => Sys2Proof.Machine.execAtomicAtHome id unit s
  | .partialFlush line slice => Sys2Proof.Machine.execPartialFlush line slice s
  | .windowAccess id unit => Sys2Proof.Machine.execWindowAccess id unit s
  | .remoteRefusal id unit reason => Sys2Proof.Machine.execRemoteRefusal id unit reason s
  | .portValueVisible id => Sys2Proof.Machine.execPortValueVisible id s
  | .portWatchdogExpiry uid => Sys2Proof.Machine.execPortWatchdogExpiry uid s
  | .copyBegin id => Sys2Proof.Machine.execCopyBegin id s
  | .copyChunkRead id => Sys2Proof.Machine.execCopyChunkRead id s
  | .copyLanding id line => Sys2Proof.Machine.execCopyLanding id line s
  | .holdingSlotDrain id line member => Sys2Proof.Machine.execHoldingSlotDrain id line member s
  | .copyEnd id => Sys2Proof.Machine.execCopyEnd id s
  | .rcStateW1c core n bits => Sys2Proof.Machine.execRcStateW1c core n bits s
  | .mxGrant quad => Sys2Proof.Machine.execMxGrant quad s
  | .mxStarvationLimit id => Sys2Proof.Machine.execMxStarvationLimit id s
  | .mxCaptureComplete id => Sys2Proof.Machine.execMxCaptureComplete id s
  | .scaleFetchReturn quad ctx tensor block => Sys2Proof.Machine.execScaleFetchReturn quad ctx tensor block s
  | .mxPassBoundary id => Sys2Proof.Machine.execMxPassBoundary id s
  | .fabricRequestArrival req => Sys2Proof.Machine.execFabricRequestArrival req s
  | .fabricResponse rsp => Sys2Proof.Machine.execFabricResponse rsp s
  | .fabricRetryTimeout ch seq => Sys2Proof.Machine.execFabricRetryTimeout ch seq s
  | .fabricPortDown port moves => Sys2Proof.Machine.execFabricPortDown port moves s
  | .channelCreate ch words => Sys2Proof.Machine.execChannelCreate ch words s
  | .channelClose ch => Sys2Proof.Machine.execChannelClose ch s
  | .channelFetchComplete ch => Sys2Proof.Machine.execChannelFetchComplete ch s
  | .chimeMsg msg => Sys2Proof.Machine.execChimeMsg msg s
  | .signalMsg msg => Sys2Proof.Machine.execSignalMsg msg s
  | .atomicMsg msg => Sys2Proof.Machine.execAtomicMsg msg s
  | .entryMsg msg => Sys2Proof.Machine.execEntryMsg msg s
  | .expMsg msg => Sys2Proof.Machine.execExpMsg msg s
  | .goMsg msg => Sys2Proof.Machine.execGoMsg msg s
  | .contribMsg msg => Sys2Proof.Machine.execContribMsg msg s
  | .resultMsg msg => Sys2Proof.Machine.execResultMsg msg s
  | .doneMsg msg => Sys2Proof.Machine.execDoneMsg msg s
  | .mismatchMsg msg => Sys2Proof.Machine.execMismatchMsg msg s
  | .collectiveTimeout ctx group n => Sys2Proof.Machine.execCollectiveTimeout ctx group n s
  | .creelArrival arr => Sys2Proof.Machine.execCreelArrival arr s
  | .creelDeadline buf slot => Sys2Proof.Machine.execCreelDeadline buf slot s
  | .creelRelease buf => Sys2Proof.Machine.execCreelRelease buf s
  | .creelQuietEnd buf slot => Sys2Proof.Machine.execCreelQuietEnd buf slot s
  | .doorbell q tail => Sys2Proof.Machine.execDoorbell q tail s
  | .packetNop q => Sys2Proof.Machine.execPacketNop q s
  | .packetLaunch q => Sys2Proof.Machine.execPacketLaunch q s
  | .packetWaitmem q => Sys2Proof.Machine.execPacketWaitmem q s
  | .waitmemRetest q => Sys2Proof.Machine.execWaitmemRetest q s
  | .teamPlace ctx grid => Sys2Proof.Machine.execTeamPlace ctx grid s
  | .gridRetire ctx grid => Sys2Proof.Machine.execGridRetire ctx grid s
  | .placementRegisterWrite die v => Sys2Proof.Machine.execPlacementRegisterWrite die v s
  | .preemptRequest ctx => Sys2Proof.Machine.execPreemptRequest ctx s
  | .timeSliceExpiry ctx => Sys2Proof.Machine.execTimeSliceExpiry ctx s
  | .contextSave ctx => Sys2Proof.Machine.execContextSave ctx s
  | .contextRestore ctx => Sys2Proof.Machine.execContextRestore ctx s
  | .barrierArrivalCounted uid b => Sys2Proof.Machine.execBarrierArrivalCounted uid b s
  | .combinerArrival team b => Sys2Proof.Machine.execCombinerArrival team b s
  | .barrierRelease team b => Sys2Proof.Machine.execBarrierRelease team b s
  | .barrierWatchdog team b => Sys2Proof.Machine.execBarrierWatchdog team b s
  | .epochEnd die => Sys2Proof.Machine.execEpochEnd die s
  | .slmodeWrite die v => Sys2Proof.Machine.execSlmodeWrite die v s
  | .obsctlWrite ctx v => Sys2Proof.Machine.execObsctlWrite ctx v s
  | .pcSample core ctx => Sys2Proof.Machine.execPcSample core ctx s
  | .breakpointStop uid => Sys2Proof.Machine.execBreakpointStop uid s
  | .debugStop ctx => Sys2Proof.Machine.execDebugStop ctx s
  | .debugResume ctx => Sys2Proof.Machine.execDebugResume ctx s
  | .debugSingleStep ctx grid team thread => Sys2Proof.Machine.execDebugSingleStep ctx grid team thread s
  | .setBreakpoint ctx n pc grid filter => Sys2Proof.Machine.execSetBreakpoint ctx n pc grid filter s
  | .dump ctx region => Sys2Proof.Machine.execDump ctx region s
  | .recordRegionFull core => Sys2Proof.Machine.execRecordRegionFull core s
  | .digestLog core => Sys2Proof.Machine.execDigestLog core s
  | .replayStart core seg => Sys2Proof.Machine.execReplayStart core seg s
  | .contextCreate words => Sys2Proof.Machine.execContextCreate words s
  | .allotmentSet ctx a => Sys2Proof.Machine.execAllotmentSet ctx a s
  | .prqheadWrite ctx v => Sys2Proof.Machine.execPrqheadWrite ctx v s
  | .pageReplay ctx r => Sys2Proof.Machine.execPageReplay ctx r s
  | .hostAccess acc => Sys2Proof.Machine.execHostAccess acc s
  | .worldChange block => Sys2Proof.Machine.execWorldChange block s
  | .tlbinvComplete id => Sys2Proof.Machine.execTlbinvComplete id s
  | .haltResume uid => Sys2Proof.Machine.execHaltResume uid s
  | .firmwareUpdate kind die ok => Sys2Proof.Machine.execFirmwareUpdate kind die ok s
  | .lpddrRetrain channel target => Sys2Proof.Machine.execLpddrRetrain channel target s
  | .coreRetire core => Sys2Proof.Machine.execCoreRetire core s
  | .checkpoint => Sys2Proof.Machine.execCheckpoint s
  | .checkpointRestore => Sys2Proof.Machine.execCheckpointRestore s
  | .eccError rec => Sys2Proof.Machine.execEccError rec s
  | .powerOn => Sys2Proof.Machine.execPowerOn s
  | .clockThrottle up => Sys2Proof.Machine.execClockThrottle up s
  | .thermalShutdown die => Sys2Proof.Machine.execThermalShutdown die s
  | .getVersion m => Sys2Proof.Machine.execGetVersion m s
  | .getCapabilities m => Sys2Proof.Machine.execGetCapabilities m s
  | .negotiateAlgorithms m => Sys2Proof.Machine.execNegotiateAlgorithms m s
  | .getDigests m => Sys2Proof.Machine.execGetDigests m s
  | .getCertificate m => Sys2Proof.Machine.execGetCertificate m s
  | .challenge m => Sys2Proof.Machine.execChallenge m s
  | .getMeasurements m => Sys2Proof.Machine.execGetMeasurements m s
  | .keyExchange m => Sys2Proof.Machine.execKeyExchange m s
  | .finish m => Sys2Proof.Machine.execFinish m s
  | .registerWrite w => Sys2Proof.Machine.execRegisterWrite w s
  | .contextEnd ctx => Sys2Proof.Machine.execContextEnd ctx s
  | .homePartialEviction line => Sys2Proof.Machine.execHomePartialEviction line s
  | .rowClose channel bank => Sys2Proof.Machine.execRowClose channel bank s
  | .bankRefresh channel bank => Sys2Proof.Machine.execBankRefresh channel bank s
  | .droopEvent core => Sys2Proof.Machine.execDroopEvent core s
  | .debuggerHold ctx take => Sys2Proof.Machine.execDebuggerHold ctx take s
  | .chunkWrite core => Sys2Proof.Machine.execChunkWrite core s

end Sys2Proof.Machine
end

