-- ==== Sys2Proof/Machine/Issue.lean ====
section
/-! DEFINITION. The partition: fetching a word, trying it, choosing among warps (R46, R56, R74, R77, R78, R83, R100,
R401), the clocks an issue takes (R394), the replay of a core (R407), and what the machine may do next. -/

namespace Sys2Proof.Machine

open Sys2Proof

/-! Fetching. -/

/-- What fetching an instruction word gives. -/
inductive Fetched where
  | word (w : Word)
  | prot | world | miss
  deriving DecidableEq, Repr

/-- Fetches the word at an address for a warp, with execute permission (R74, R199, R201). Text lies in device memory. -/
def State.fetch (s : State) (w : Warp) (a : Addr) : Fetched :=
  match s.reach w.core w.id.ctx 0 w.core a .fetch with
  | .ok e pa => if leafTarget e = 0 && !inWindow pa && !inCreel pa then .word (s.peekWord pa) else .prot
  | .prot => .prot
  | .world => .world
  | .replay => .miss

/-- What a fetch leaves: the TLBs have its translation, its line is merged, and its home may have counted a read; which fetches
an instruction cache serves the spec does not say (log 50). -/
def State.fetched (s : State) (w : Warp) (a : Addr) : State :=
  match s.reach w.core w.id.ctx 0 w.core a .fetch with
  | .ok _ pa =>
    let s1 := (s.learn w.core w.id.ctx a).mergeAt [pa]
    { s1 with frames := if s.choose 8800 2 = 0 then s1.frames else (s1.countRead (dieOf w.core) pa).frames }
  | _ => s

/-- The state in which a warp issues a word. -/
def State.begin (s : State) (u : Nat) (x : Word) : State := { s with cur := some u, word := x }

/-! A word that is no instruction (R56, R107). -/

/-- EINFO3 of UNIMPL: what is left of the group's hint state (R107). -/
def Group.hintWord (g : Group) : Word :=
  0#6 ++ g.cache ++ BitVec.ofBool g.xp.isSome ++ BitVec.ofBool g.pimm.isSome ++ g.ofs.extractLsb' 0 21

/-- The trap of a word that does not decode (R56, R107): PRIV before UNIMPL and ILL. -/
def State.undecoded (s : State) (c : Cx) (e : DecErr) : TrapInfo :=
  if fld s.word 25 6 == 0x3F && !(s.ctx c.ctx).d.priv then { cause := 0x03 }
  else
    match e with
    | .ill => { cause := 0x01 }
    | .unimpl =>
      { cause := 0x02
        info1 := (c.g.xp.bind (fun x => encode (.xp x))).getD 0
        info2 := c.g.pimm.getD 0
        info3 := c.g.hintWord }

/-! Trying the next word of a warp. -/

/-- Whether a word is attached: a hint or the prefix (R45). -/
def attachedWord (x : Word) : Bool := fld x 25 6 == 0x01 || fld x 25 6 == 0x02

/-- A fetched word, run by the warp that fetched it. -/
noncomputable def State.runWord (s : State) (u : Nat) (x : Word) : Host.Outcome State Fault Refusal :=
  let s1 := s.begin u x
  match decode x with
  | .ok i => exec i s1
  | .error e =>
    match s1.cx with
    | none => .next s
    | some c => .next (s1.raise c (s1.undecoded c e))

/-- Whether a warp waits at an S for results that were all refused: the next group takes NET_ACCESS (R216). -/
def Warp.refusedWait (w : Warp) : Option Result :=
  if w.iss.grp.isNone && w.iss.switchWait && !w.busy then w.refusal (fun _ => true) else none

/-- The reason for which an attempt parked. -/
def parked (t : State) (u : Nat) : Option Stall :=
  match t.warps.get? u with
  | none => none
  | some w =>
    if w.iss.pendTrap.isSome || (w.iss.stall == some .hold && w.iss.resume != .halt) then none else w.iss.stall

/-- An attempt of a warp to issue its next word, breakpoints apart: a refusal comes first (R216), then the word is
fetched and run. A fetch that meets a replayable miss parks, and its whole group issues anew (R85, R201); a fatal one raises its
cause, with 0 in EINFO0, since no word was fetched (R202; log 19). -/
noncomputable def State.tryWord (s : State) (u : Nat) : Host.Outcome State Fault Refusal :=
  match s.warps.get? u with
  | none => .next s
  | some w =>
    match w.group with
    | none => .next s
    | some g =>
        let fatal (cause : BitVec 6) : Host.Outcome State Fault Refusal :=
          .next ((s.begin u 0).raise { uid := u, w := w, g := g }
            { cause := cause, info1 := BitVec.ofNat 32 (lowest g.mask), info2 := g.here.setWidth 32, info3 := g.here.extractLsb' 32 32 })
        match w.refusedWait with
        | some r =>
          match refusedTrap r with
          | .trap t => .next ((s.begin u 0).raise { uid := u, w := w, g := g } t)
          | _ => .next s
        | none =>
          match s.fetch w g.here with
          | .word x => (s.fetched w g.here).runWord u x
          | .prot => fatal 0x08
          | .world => fatal 0x17
          | .miss =>
            .next ((((s.begin u 0).reissue u).await { who := .warp u, core := w.core, ctx := w.id.ctx, uid := u, va := g.here,
                                                      kind := 3, lanes := g.mask, page := g.here.toNat / 4096 }).parkWarp u .fetch)

/-- Whether a group that begins at an address comes to a BRK without a prefix, so that no word of it issues while a debugger
holds the context (R95, R401). -/
noncomputable def State.brkAhead (s : State) (w : Warp) (a : Addr) : Nat → Bool
  | 0 => false
  | n + 1 =>
    match s.fetch w a with
    | .word x =>
      if fld x 25 6 == 0x01 then s.brkAhead w (a + 4) n else (match decode x with | .ok (.brk _) => true | _ => false)
    | _ => false

/-- An attempt of a warp to issue its next word. One that would not park stops before a group at a breakpoint, or before one of a
BRK (R401): only a ready entry is chosen (R74). -/
noncomputable def State.attempt (s : State) (u : Nat) : Host.Outcome State Fault Refusal :=
  match s.warps.get? u, s.tryWord u with
  | some w, .next t =>
    if (parked t u).isSome then .next t
    else
      match s.bpMatch w, w.iss.grp, w.group with
      | some _, _, _ => exec (.breakpointStop u) s
      | none, none, some g =>
        if (s.ctx w.id.ctx).held && !w.iss.skipBrk && s.brkAhead w g.here 9 then .next (s.brkStop u (lowest g.mask)) else .next t
      | _, _, _ => .next t
  | _, o => o

/-- What a warp can do now. -/
inductive Ready where
  /-- It may not try: it is held, waits for results or a page, or has no entry. -/
  | off
  /-- It waits for an HSTALL until a core clock (R52). -/
  | held (t : Nat)
  /-- Its next word would park, for a reason, with a change of state still to be made or without one. -/
  | parks (r : Stall) (fresh : Bool)
  /-- It is ready (R74). -/
  | go
  deriving DecidableEq, Repr

/-- Whether a warp's core or context is held: for pre-emption, at a stop, or for the record log (R362, R401, R405). A stop holds
a warp at a group boundary only. -/
def State.halts (s : State) (u : Nat) (w : Warp) : Bool :=
  let c := s.ctx w.id.ctx
  s.logHeld w.core || (s.die (dieOf w.core)).off || c.run != .running ||
  (c.stopped && w.iss.grp.isNone && c.step.map Prod.fst != some u)

/-- Whether a halt lets a warp try its next word all the same: in the middle of a group, or on the very clock of another warp's
precise stop, when a warp of another partition may issue or stop too (R362, R401). -/
def State.haltLets (s : State) (w : Warp) : Bool :=
  let c := s.ctx w.id.ctx
  !s.logHeld w.core && !(s.die (dieOf w.core)).off && c.run != .saved &&
  (w.iss.grp.isSome || (c.run == .running && c.stopOn == some (w.core, (s.core w.core).cyc) && w.iss.stall != some .hold))

/-- Whether a warp may try its next word: nothing halts it, no trap or page is awaited, no S is to be waited for (R74, R78). On
a core that replays a segment only the replay issues (R407). -/
def State.mayTry (s : State) (replay : Bool) (u : Nat) (w : Warp) : Bool :=
  w.here && w.group.isSome && w.iss.pendTrap.isNone && (s.core w.core).replay.isSome == replay &&
  (!s.halts u w || s.haltLets w) &&
  (w.iss.grp.isSome || !w.iss.switchWait || w.iss.outstanding.isEmpty || w.refusedWait.isSome) &&
  !s.awaits (.warp u)

/-- Whether a parked attempt changed what the warp, its pages or the events hold. -/
def changed (s t : State) (u : Nat) : Bool :=
  t.fresh != s.fresh || t.bag.length != s.bag.length || t.pages.length != s.pages.length || (t.warps.get? u) != (s.warps.get? u)

/-- What a warp can do now. An HSTALL holds a target that is ready otherwise; while it lasts the target's own waits are looked at
and nothing is set going for them (R52, R395). -/
noncomputable def State.readiness (s : State) (replay : Bool) (u : Nat) (w : Warp) : Ready :=
  if !s.mayTry replay u w then .off
  else
    let wait := decide ((s.core w.core).cyc < w.iss.stallTo) &&
      (match w.group with
        | some g => (match s.fetch w g.here with | .word x => !attachedWord x | _ => false)
        | none => false)
    let ready : Ready := if wait then .held w.iss.stallTo else .go
    match s.attempt u with
    | .next t => (match parked t u with | some r => .parks r (!wait && changed s t u) | none => ready)
    | _ => ready

/-! Choosing (R74). -/

/-- A warp as the partition sees it: its number, itself, and what it can do. -/
structure Cand where
  uid : Nat
  w : Warp
  r : Ready

/-- When a warp last issued, for the choice: never is 0; within 8 clocks of a YIELD it counts as last of all (R96). -/
def Cand.age (c : Cand) (cyc : Nat) : Nat :=
  if cyc < c.w.iss.yield then cyc + 16 else if c.w.iss.words = 0 then 0 else c.w.iss.last + 1

/-- Whether a warp has been passed over for 64 clocks since it last issued (R74). -/
def Warp.starving (w : Warp) : Bool := w.iss.starved || decide (64 ≤ w.iss.unchosen)

/-- Whether a ready warp goes before another (R74): starved ones first, then priority, then who issued least recently, then
the lower slot. Among starved ones priority does not count. -/
def Cand.first (a b : Cand) (cyc : Nat) : Bool :=
  if a.w.starving != b.w.starving then a.w.starving
  else if !a.w.starving && a.w.iss.prio != b.w.iss.prio then b.w.iss.prio < a.w.iss.prio
  else if a.age cyc != b.age cyc then a.age cyc < b.age cyc
  else a.w.slot < b.w.slot

/-- The first of some candidates. -/
def pickFirst (cyc : Nat) : List Cand → Option Cand
  | [] => none
  | c :: t =>
    match pickFirst cyc t with
    | none => some c
    | some d => if d.first c cyc then some d else some c

/-- The warp a partition issues: one in the middle of a group before the others (R46), else by R74. One parked in the middle of a
group, for whatever reason, leaves its partition to the others (DESIGN CHOICE, log 56). -/
def issuer (cyc : Nat) (l : List Cand) : Option Cand :=
  let go := l.filter (fun c => c.r == .go)
  match l.find? (fun c => c.w.iss.grp.isSome && (c.r == .go || (match c.r with | .held _ => true | _ => false))) with
  | some c => if c.r == .go then some c else none
  | none => pickFirst cyc go

/-- The candidates of a core, or of a replay on it. -/
noncomputable def State.candsOn (s : State) (replay : Bool) (core : Nat) : List Cand :=
  (s.warps.filter (fun kv => kv.2.here && kv.2.core == core)).map (fun kv =>
    { uid := kv.1, w := kv.2, r := s.readiness replay kv.1 kv.2 })

/-- The candidates of the device. -/
noncomputable def State.cands (s : State) : List Cand :=
  (s.warps.filter (fun kv => kv.2.here)).map (fun kv => { uid := kv.1, w := kv.2, r := s.readiness false kv.1 kv.2 })

/-! An issue and its clocks (R74, R83, R394, R395, R401, R403). -/

/-- A change of a warp that is there. -/
def State.tweak (s : State) (u : Nat) (f : Warp → Warp) : State := { s with warps := s.warps.modify u f }

/-- A warp has issued a word: its partition spends one core clock on it, two at width 64 (R83); a single step ends in a stop
(R401). `w` is the warp before. -/
def State.issued (t : State) (u : Nat) (w : Warp) : State :=
  let n := if w.id.wide then 2 else 1
  let cyc := (t.core w.core).cyc
  let t1 := t.wake u w.iss.stall
  let t2 := match (t1.ctx w.id.ctx).step, t1.warps.get? u with
    | some (v, l), some x => if v = u && x.iss.grp.isNone then t1.preciseStop u l else t1
    | some (v, _), none => if v = u then t1.modCtx w.id.ctx (fun c => { c with step := none }) else t1
    | none, _ => t1
  (t2.spend w.core (w.slot / 8)
    { left := n, ctx := w.id.ctx, mask := 2 ^ (w.slot % 8), uid := some u, pc := (w.group.map (fun g => g.pc)).getD 0,
      lane := w.nameLane }).tweak u (fun x => { x with iss := { x.iss with last := cyc + n - 1, unchosen := 0, starved := false } })

/-- What a partition of a core issues on the present clock, if it has issued. -/
def State.spent (s : State) (w : Warp) : Option Issued := (s.core w.core).busy.get? (w.slot / 8)

/-- A warp issues its next word, or parks on it, or stops before it: a park takes no clock, and a stop has taken its own. One that parks
for another reason than before has come to the end of a park. -/
noncomputable def State.issue (s : State) (u : Nat) : Host.Outcome State Fault Refusal :=
  match s.warps.get? u, s.attempt u with
  | some w, .next t =>
    if (parked t u).isSome then .next (if parked t u == w.iss.stall then t else t.wake u w.iss.stall)
    else if (t.spent w).isSome then .next t
    else .next (t.issued u w)
  | _, o => o

/-- The counter that a clock without an issue is charged to (R395). -/
def State.waitsFor (s : State) (u : Nat) (w : Warp) (r : Ready) : Stall :=
  if s.halts u w then .hold
  else
    match r with
    | .go => .arb
    | .held _ => .switch
    | .parks k _ => k
    | .off =>
      match w.group with
      | none => if w.iss.pendTrap.isSome then .switch else if w.live = 0 then (s.exitWait u).getD .keyWait else .join
      | some g =>
        if w.iss.pendTrap.isSome then .switch
        else if s.fetch w g.here = .miss then .fetch
        else if w.iss.switchWait && !w.iss.outstanding.isEmpty then .switch
        else if s.awaits (.warp u) then .memq
        else .hold

/-- `n` clocks pass for a warp (R394, R398): nothing is charged when its partition issued it; a ready one was not chosen, and
wakes. -/
def State.passWarp (s : State) (n : Nat) (c : Cand) : State :=
  match (s.spent c.w).filter (fun b => b.uid == some c.uid) with
  | some b => s.tweak c.uid (fun x => { x with iss := { x.iss with seen := (16, b.pc, b.lane) } })
  | none =>
    let k := s.waitsFor c.uid c.w c.r
    let pc := (c.w.group.map (fun g => g.pc)).getD 0
    if k = .arb then
      (s.wake c.uid c.w.iss.stall).tweak c.uid (fun x =>
        let y := x.count .arb n
        { y with iss := { y.iss with seen := (0, pc, c.w.nameLane), stall := none, unchosen := y.iss.unchosen + n } })
    else s.tweak c.uid (fun x =>
      let y := x.count k n
      { y with iss := { y.iss with seen := (k.ctorIdx, pc, c.w.nameLane) } })

/-- `n` clocks of a core pass: its warps are charged, its issue logs take them, its partitions' issues come nearer to their end;
the clocks of its quad's matrix engine and of the meshes keep up at the nominal rates (R5; log 4). -/
def State.passClocks (s : State) (core n : Nat) (l : List Cand) : State :=
  let s1 := (l.foldl (fun (s : State) c => s.passWarp n c) s).logClocks core n
  let s2 := s1.modCore core (fun k => { k with
    cyc := k.cyc + n
    busy := (k.busy.mapv (fun _ b => { b with left := b.left - n })).keep (fun _ b => decide (0 < b.left)) })
  let t := (s2.core core).cyc
  [0, 1, 2, 3].foldl (fun (s : State) d => s.reachMesh d (t * 5 / 2)) (s2.reachQuad (quadOf core) t)

/-! Replay (R407, R408). -/

/-- A word run on a replaying core. -/
noncomputable def State.runInside (s : State) (core ctx u : Nat) (x : Word) : Host.Outcome State Fault Refusal :=
  match (s.alone ctx).runWord u x with
  | .next t => .next (t.keepInside s core)
  | o => o

/-- The words that the issue log names for a clock, by warp slot, with effects that stay inside the core. A warp in the second
half of an issue of width 64 issues no further word. Since the log says that a word issues, one that would park finds what it waits
for outside; one that cannot issue even so is a mismatch (log 51). -/
noncomputable def State.replayWords (core ctx : Nat) : List Nat → State → Host.Outcome State Fault Refusal
  | [], s => .next s
  | k :: l, s =>
    match s.warpAt core k with
    | none => State.replayWords core ctx l s
    | some (u, w) =>
      if (s.spent w).isSome then State.replayWords core ctx l s
      else
        match w.group.map (fun g => s.fetch w g.here) with
        | some (.word x) =>
          (match s.runInside core ctx u x with
            | .next t =>
              (match parked t u with
                | none => State.replayWords core ctx l (t.issued u w)
                | some r =>
                  match (t.unpark u r).runInside core ctx u x with
                  | .next t1 => State.replayWords core ctx l (if (parked t1 u).isSome then t1.replayStop core ctx u else t1.issued u w)
                  | o => o)
            | o => o)
        | _ => State.replayWords core ctx l (s.replayStop core ctx u)

/-- The slots that some partitions' masks name. -/
def maskSlots (l : List (Nat × Nat)) : List Nat :=
  l.flatMap (fun p => ((List.range 8).filter (fun i => p.2.testBit i)).map (fun i => p.1 * 8 + i))

/-- A warp of a replay as the logs show it (R408): one whose next entry is the end of a park is parked, if it could try its word, and
one whose next entry is an issue does not park for anything outside the core. A warp whose lanes have exited waits as it was
recorded. -/
def Cand.told (c : Cand) (g : Seg) (now : Nat) : Cand :=
  { c with r :=
    match g.coming c.w.slot now, c.r with
    | .wake k, .go => .parks k false
    | .wake k, .parks r f => if r.outside then .parks k (f && r == k) else c.r
    | .wake k, .off => if c.w.live = 0 then .parks k false else .off
    | .issue, .parks r _ => if r.outside then .go else c.r
    | _, _ => c.r }

/-- The candidates of a replaying core, as the logs show them from clock `now` on. -/
noncomputable def State.replayCands (s : State) (core now : Nat) : List Cand :=
  match (s.core core).replay with
  | none => []
  | some g => (s.candsOn true core).map (fun c => c.told g now)

/-- Warps of a replay park: what a park sets going inside the core happens when it is come to, as in `State.issues`. -/
noncomputable def State.replayParks (core ctx : Nat) : List Cand → State → Host.Outcome State Fault Refusal
  | [], s => .next s
  | c :: l, s =>
    match c.r, c.w.group.map (fun g => s.fetch c.w g.here) with
    | .parks _ true, some (.word x) =>
      (match s.runInside core ctx c.uid x with
        | .next t => State.replayParks core ctx l t
        | o => o)
    | _, _ => State.replayParks core ctx l s

/-- Warps of a replay whose lanes have all exited retire, when the logs show no wait (R71, R408). -/
noncomputable def State.replayRetire (s : State) (core now : Nat) : Host.Outcome State Fault Refusal :=
  match (s.core core).replay with
  | none => .next s
  | some g =>
    let l := s.warps.filter (fun (kv : Nat × Warp) => kv.2.here && kv.2.core == core && kv.2.live == 0#64 && (s.exitWait kv.1).isNone &&
      (match g.coming kv.2.slot now with | .wake _ => false | _ => true))
    l.foldl (fun o kv => match o with | .next t => exec (.warpRetire kv.1) t | o => o) (.next s)

/-- One clock of a replaying core: teams that have come are placed; a breakpoint at a warp that would issue stops it first (R401); else
the inputs due are applied, warps park, the words issue that its issue logs name, and the clock passes. -/
noncomputable def State.replayClock (s0 : State) (core : Nat) : Host.Outcome State Fault Refusal :=
  let s := s0.placeDue core
  match (s.core core).replay with
  | none => .next s
  | some g =>
    let now := (s.core core).cyc + 1
    let slots := maskSlots (takeClock g.issue).1
    match (slots.filterMap (s.warpAt core)).find? (fun q => (s.bpMatch q.2).isSome) with
    | some q => .next ((s.preciseStop q.1 ((s.bpMatch q.2).getD 0)).modCore core (fun k => { k with busy := [] }))
    | none =>
      let s1 := (s.modReplay core (fun g => { g with issue := (takeClock g.issue).2 })).replayInputs core g.input.length
      let idle := (s1.replayCands core now).filter (fun c => !slots.contains c.w.slot && (s1.spent c.w).isNone)
      match State.replayParks core g.ctx idle s1 with
      | .next s2 =>
        (match State.replayWords core g.ctx slots s2 with
          | .next t =>
            (match t.replayRetire core now with
              | .next t1 => .next (t1.passClocks core 1 (t1.replayCands core now))
              | o => o)
          | o => o)
      | o => o

/-- Whether a replay has anything left, and is not stopped but for a single step (R407). -/
def State.replays (s : State) (core : Nat) : Bool :=
  match (s.core core).replay with
  | some g => !(g.issue.isEmpty && g.input.isEmpty && g.teams.isEmpty) && (!(s.ctx g.ctx).stopped || (s.ctx g.ctx).step.isSome)
  | none => false

/-! What may happen next. -/

/-- A time: at once, a clock of a core, of a quad's matrix engine or of a die's mesh, or none. -/
inductive When where
  | now
  | core (c t : Nat)
  | quad (q t : Nat)
  | mesh (d t : Nat)
  | never
  deriving DecidableEq, Repr

/-- An optional time as a When; without one the event is stale and goes at once. -/
def When.ofMesh (d : Nat) : Option Nat → When
  | some t => .mesh d t
  | none => .now

/-- An optional core clock as a When. -/
def When.ofCore (c : Nat) : Option Nat → When
  | some t => .core c t
  | none => .now

/-- An optional clock of a quad's matrix engine as a When. -/
def When.ofQuad (q : Nat) : Option Nat → When
  | some t => .quad q t
  | none => .now

/-- The quad of a post. -/
def State.postQuad (s : State) (id : Nat) : Nat := quadOf (((s.posts.get? id).map (fun p => p.core)).getD 0)

/-- From when on an event of the bag may happen. What has no time of its own may happen at once: the spec gives it no latency. -/
def State.whenOf (s : State) : Ev → When
  | .registerResultReturn u id =>
    (match s.warps.get? u with
      | some w => if w.here then .ofCore w.core ((w.iss.outstanding.find? (fun r => r.id == id)).map (fun r => r.due)) else .now
      | none => .now)
  | .portValueVisible id =>
    (match s.txs.get? id with
      | some t => if (s.warp t.uid).here then .core (s.warp t.uid).core t.due else .now
      | none => .now)
  | .lqtblComplete c id => .ofCore c (((s.core c).lq.find? (fun q => q.id == id)).map (fun q => q.due))
  | .mxCaptureComplete id => .ofQuad (s.postQuad id) ((s.posts.get? id).map (fun p => p.due))
  | .mxPassBoundary id => .ofQuad (s.postQuad id) ((s.posts.get? id).map (fun p => p.due))
  | .mxStarvationLimit id => .ofQuad (s.postQuad id) (s.starveDue id)
  | .pcSample c x => .ofCore c ((s.sampleDue c x).map (fun t => t + 1))
  | .digestLog c => .ofCore c (s.digestDue c)
  | .recordRegionFull c => .ofCore c (s.fullDue c)
  | .creelDeadline b n => .ofMesh (b / 8) (s.creelDue b n)
  | .creelQuietEnd b n => .ofMesh (b / 8) (s.quietDue b n)
  | .collectiveTimeout c g n => .ofMesh 0 (s.rendezvousDue c g n)
  | .fabricRetryTimeout ch q => .ofMesh 0 (s.retryDue ch q)
  | .timeSliceExpiry c =>
    (match s.sliceDue c with
      | none => .now
      | some t => if s.ctxs.any (fun kv => kv.1 != c && s.waiting kv.1 && s.ctxPrio kv.1 == s.ctxPrio c) then .mesh 0 t else .never)
  | _ => .now

/-- By when an event of the bag must have happened: a count that has reached its end is acted on at that clock (R28, R165, R201,
R238, R295, R318, R326, R336, R353, R361, R398, R405, R406). A time slice and a retest of WAITMEM count the distributor clocks of die 0
(DESIGN CHOICE, log 4). -/
def State.limitOf (s : State) (e : Ev) : When :=
  match e with
  | .registerResultReturn _ _ => s.whenOf e
  | .lqtblComplete _ _ => s.whenOf e
  | .mxStarvationLimit _ => s.whenOf e
  | .pcSample _ _ => s.whenOf e
  | .digestLog _ => s.whenOf e
  | .recordRegionFull _ => s.whenOf e
  | .creelDeadline _ _ => s.whenOf e
  | .creelQuietEnd _ _ => s.whenOf e
  | .collectiveTimeout _ _ _ => s.whenOf e
  | .fabricRetryTimeout _ _ => s.whenOf e
  | .timeSliceExpiry _ => s.whenOf e
  | .firmwareUpdate k d _ => .ofMesh d ((s.svc.stops.get? (k * 4 + d)).map (fun t => t + 3500000))
  | .waitmemRetest q => .mesh 0 ((s.queue q).testAt + 4096)
  | _ => .never

/-- Events that follow from the state alone, with their times: the starvation limit of a partition, the watchdogs of ports and
barriers, and epochs. -/
def State.standingEvents (s : State) : List (Ev × When) :=
  s.warps.flatMap (fun kv =>
    (if decide (64 ≤ kv.2.iss.unchosen) && !kv.2.iss.starved then [(Ev.arbStarveLimit kv.1, When.now)] else []) ++
    (match s.portDue kv.1 with | some t => [(Ev.portWatchdogExpiry kv.1, When.core kv.2.core t)] | none => [])) ++
  s.teams.flatMap (fun kv => kv.2.barriers.keys.flatMap (fun b =>
    match s.barDue kv.1 b, kv.2.core with
    | some t, some c => [(Ev.barrierWatchdog kv.1 b, When.mesh (dieOf c) t)]
    | _, _ => [])) ++
  [0, 1, 2, 3].map (fun d => (Ev.epochEnd d, When.mesh d (s.epochDue d)))

/-- What a clock of a time reads, with the time; none for a time that is no clock's. -/
def State.reading (s : State) : When → Option (Nat × Nat)
  | .core c t => some ((s.core c).cyc, t)
  | .quad q t => some ((s.quad q).cyc, t)
  | .mesh d t => some ((s.die d).mesh, t)
  | _ => none

/-- Whether a time has come. -/
def State.reached (s : State) (w : When) : Bool :=
  match s.reading w with
  | some (now, t) => decide (t ≤ now)
  | none => w == .now

/-- Whether a time has passed. -/
def State.passed (s : State) (w : When) : Bool :=
  match s.reading w with
  | some (now, t) => decide (t < now)
  | none => false

/-- How far a time is, in half clocks of the mesh, five of which are a core clock (R5); none for one that has come. -/
def State.distance (s : State) (w : When) : Option Nat :=
  match s.reading w with
  | some (now, t) => if t ≤ now then none else some ((t - now) * (match w with | .mesh _ _ => 2 | _ => 5))
  | none => none

/-- What a step may do: an event of the bag by its position, a standing event, the first input, an issue, a park or a stop, some
clocks of a core or of a mesh, or a clock of a replay. -/
inductive Choice where
  | bag (i : Nat)
  | due (e : Ev)
  | input
  | issue (u : Nat)
  | clock (core n : Nat)
  | mesh (d n : Nat)
  | replay (core : Nat)
  deriving DecidableEq, Repr

/-- Something that may happen, from when on and by when. -/
structure Timed where
  what : Choice
  from0 : When
  limit : When

/-- What warps may do now: the chosen one of every partition that has not issued on this clock, and warps of these that park.
Each word issues in its own warp: no bundle is formed, which R75 leaves open (DESIGN CHOICE, log 18). -/
def State.issues (s : State) (l : List Cand) : List Choice :=
  let idle := l.filter (fun c => (s.spent c.w).isNone)
  ((idle.map (fun c => c.w.core * 8 + c.w.slot / 8)).eraseDups).filterMap (fun p =>
    (issuer (s.core (p / 8)).cyc (idle.filter (fun c => c.w.core * 8 + c.w.slot / 8 == p))).map (fun c => Choice.issue c.uid)) ++
  (idle.filter (fun c => match c.r with | .parks _ true => true | _ => false)).map (fun c => Choice.issue c.uid)

/-- The least of some numbers. -/
def least : List Nat → Option Nat
  | [] => none
  | a :: t => some (t.foldl min a)

/-- Distances to everything that a passing of time leads to (R5): times, the ends of HSTALL waits, and of issues. -/
def State.ahead (s : State) (l : List Cand) (es : List Timed) : List Nat :=
  es.filterMap (fun e => s.distance e.from0) ++ es.filterMap (fun e => s.distance e.limit) ++
  l.filterMap (fun c => s.distance (.core c.w.core c.w.iss.stallTo)) ++
  s.cores.vals.flatMap (fun k => k.busy.vals.map (fun b => b.left * 5))

/-- Whether a time is of a core's clock, or of its quad's matrix engine. -/
def ofCoreClock (core : Nat) : When → Bool
  | .core c _ => c == core
  | .quad q _ => q == quadOf core
  | _ => false

/-- Cores whose clocks run on: those with a warp or an issue, and those that a time waits for; a quad without a warp counts on
its first core. -/
def State.running (s : State) (l : List Cand) (es : List Timed) : List Nat :=
  let busy : List Nat := (l.map (fun c => c.w.core) ++ (s.cores.keep (fun _ k => !k.busy.isEmpty)).keys).eraseDups
  let times := (es.map (fun e => e.from0) ++ es.map (fun e => e.limit)).filter (fun w => (s.distance w).isSome)
  (busy ++ times.filterMap (fun w =>
    match w with
    | .core c _ => some c
    | .quad q _ => if busy.any (fun c => quadOf c == q) then none else some (4 * q)
    | _ => none)).eraseDups.filter (fun c => (s.core c).replay.isNone)

/-- How time may pass: clocks of a core none of whose partitions has anything to do, and whose counts, and the meshes', have not
come to their end; the meshes by themselves when no core runs. Where nothing else can happen it passes up to the nearest time. -/
def State.passing (s : State) (l : List Cand) (es : List Timed) (others : List Choice) : List Choice :=
  let full := es.filter (fun e => s.reached e.limit)
  let meshFull := full.any (fun e => match e.limit with | .core _ _ => false | .quad _ _ => false | _ => true)
  let far := if others.isEmpty then (least (s.ahead l es)).getD 5 else 5
  let on := s.running l es
  if meshFull then []
  else if on.isEmpty then
    [0, 1, 2, 3].filterMap (fun d => (least (es.filterMap (fun e =>
      match e.limit with
      | .mesh x _ => if x = d then s.distance e.limit else none
      | _ => none))).map (fun n => Choice.mesh d ((n + 1) / 2)))
  else
    (on.filter (fun c => !full.any (fun e => ofCoreClock c e.limit) && (s.issues (l.filter (fun x => x.w.core == c))).isEmpty)).map
      (fun c => Choice.clock c (max 1 (far / 5)))

/-- Everything that a step may do. What a count's end has left behind goes first. -/
noncomputable def State.options (s : State) : List Choice :=
  let l := s.cands
  let es := s.bag.zipIdx.map (fun p => Timed.mk (.bag p.2) (s.whenOf p.1) (s.limitOf p.1)) ++
    s.standingEvents.map (fun p => Timed.mk (.due p.1) p.2 p.2)
  match (es.filter (fun e => s.passed e.limit)).map (fun e => e.what) with
  | c :: t => c :: t
  | [] =>
    let others := s.issues l ++ (es.filter (fun e => s.reached e.from0 || s.reached e.limit)).map (fun e => e.what) ++
      (if s.inputs.isEmpty then [] else [.input]) ++
      (s.cores.keys.filter (fun c => s.replays c && !es.any (fun e => s.reached e.limit && ofCoreClock c e.limit))).map Choice.replay
    others ++ s.passing l es others

/-- What the step does: the one option there is, or one of several, freely (R74, R176, R381). -/
noncomputable def State.chosen (s : State) : Option Choice :=
  match s.options with
  | [] => none
  | [c] => some c
  | l => l[Config.schedule s.tick % l.length]?

/-- Does what was chosen. -/
noncomputable def State.perform (s : State) : Choice → Host.Outcome State Fault Refusal
  | .bag i =>
    (match s.bag[i]? with
      | some e => exec e.toInstr { s with bag := dropAt s.bag i }
      | none => .next s)
  | .due e => exec e.toInstr s
  | .input =>
    (match s.inputs with
      | e :: t => exec e.toInstr { s with inputs := t }
      | [] => .next s)
  | .issue u => s.issue u
  | .clock c n => .next (s.passClocks c n (s.candsOn false c))
  | .mesh d n => .next (s.reachMesh d ((s.die d).mesh + n))
  | .replay c => s.replayClock c

end Sys2Proof.Machine
end

