-- ==== Sys2Proof/Machine/Step.lean ====
section
/-! DEFINITION. The step of the machine, and the state that fetches a given word next. -/

namespace Sys2Proof.Machine

open Sys2Proof

/-- The state with its count of steps advanced. -/
def State.ticked (s : State) : State := { s with tick := s.tick + 1 }

/-- One step: one of the things the module may do next, or nothing when there is none. -/
noncomputable def step (s : State) : Host.Outcome State Fault Refusal :=
  match s.ticked.chosen with
  | some c => s.ticked.perform c
  | none => .next s.ticked

/-- Where the word of `withFetchWord` lies, in device memory and in its context's address space. -/
def probePc : Nat := 0x10000

/-- A page table that maps the first gigabyte onto itself with read, write and execute permission (R197, R198), and the word
at `probePc`. -/
def probeWords (w : Nat) : List (Nat × Word) :=
  [(0x1000, 0x2001), (0x2000, 0x3001), (0x3000, 0x1F), (probePc, BitVec.ofNat 32 w)]

/-- A warp of width 32 with 128 registers on slot 0 of core 0, as at launch, whose head entry is the word. -/
def probeWarp : Warp :=
  { id := { ctx := 0, grid := 1, team := 1, place := some 0 }
    live := 0xFFFFFFFF
    iss := { frontier := [{ pc := BitVec.ofNat 64 probePc, prio := 0, mask := 0xFFFFFFFF }] } }

/-- The state with an instruction word where the one resident warp fetches it next: a context, a grid, a team and a warp that
stand for a launch (log 3), and nothing else that could happen first. An event has no word; with none the state is as it is. -/
def State.withFetchWord (s : State) (nbits w : Nat) : State :=
  if nbits = 0 then s
  else
    { s with
      bag := [], inputs := [], cores := [], dies := [], pages := [], partials := []
      mem := (probeWords w).foldl (fun m p => Memory.writeN m p.1 (bytesOf p.2)) s.mem
      ctxs := [(0, { d := { root := 0x1000 } })]
      grids := [(gridKey 0 1, { id := 1, placed := 1 })]
      teams := [(1, { grid := 1, core := some 0, warps := [1], threads := 32 })]
      warps := [(1, probeWarp)] }

end Sys2Proof.Machine
end

