-- ==== Sys2Proof/Safety.lean ====
section
/-! DEFINITION. The terms the statements use: what makes a state sound, when a word issues, and what a vector word leaves. -/

namespace Sys2Proof.Machine

open Sys2Proof

/-- The memories of the module in canonical form: addresses strictly rising, no byte listed that reads as blank. -/
def State.memOk (s : State) : Prop := Memory.wf s.mem = true ∧ Memory.wf s.host = true

/-- The warp that issues sees `c`, and no prefix stands before its word (R47, R53). -/
def State.bare (s : State) (c : Cx) : Prop := s.cx = some c ∧ c.g.xp = none

/-- The registers a word names are free to be read and written: none waits for a status word, and none is written by an
outstanding result of a warp in interlocked or debug-check mode (R17, R78, R80, R81). -/
def Cx.free (c : Cx) (s : State) (names : List RegName) : Prop := c.touch s names = .ok ()

/-- None of the V registers is a matrix B operand whose capture a write must not overtake (R286). -/
def Cx.uncaptured (c : Cx) (s : State) (regs : List Nat) : Prop := c.bWrites s regs c.mask = .ok ()

/-- The mask register's name, but for M0, which is a constant (R38). -/
def maskName {k : Nat} (m : BitVec k) : List RegName := if m = 0 then [] else [.m m.toNat]

/-- An operation may be set going: no request of it must wait for a credit (R313), the queues of its ports have room if it is to
enter them now (R213), and a store or atomic whose dependence is unsatisfied has a dependence ticket (R180). -/
def State.room (s : State) (c : Cx) (o : Op) : Prop :=
  (∀ u ∈ o.units, s.creditless o.ctx u.tgt = false) ∧
  (o.near = true → s.canEnter s.fresh o = true → s.portRoom o = true) ∧
  (o.kind.reads = true ∨ s.depOk c.uid o.dep = true ∨ (s.tickets c.uid).any o.dep.same = true ∨ (s.tickets c.uid).length < 16)

/-- What the lanes of a vector word compute. -/
def Cx.lanesOut (c : Cx) (s : State) (v : VOp) (p : Prep) (f : LaneIn → LaneOut) : List (Nat × LaneOut) :=
  (lanesOf p.act).map (fun l => (l, f (c.sources s v p l)))

/-- The flags that the lanes of a vector word raise. -/
def laneFlags (outs : List (Nat × LaneOut)) : List (Nat × Word) := flagVals (outs.map (fun q => (q.1, q.2.fl)))

/-- A vector word raises nothing: its prefix, registers and indices pass their checks (R42, R53, R140), no source is a
signalling NaN under POISON (R70), no flag traps (R125), and its flags may enter LSTAT (R81). -/
structure Cx.VecOk (c : Cx) (s : State) (v : VOp) (p : Prep) (outs : List (Nat × LaneOut)) : Prop where
  checks : c.prep s v = .ok p
  quiet : c.snan v p ((lanesOf p.act).map (c.sources s v p)) = .ok ()
  untrapped : c.flagCheck p.fmode (orFlags (outs.map (fun q => q.2.fl))) = .ok ()
  enters : (laneFlags outs).isEmpty = true ∨ c.lstatBusy p.act = false

/-- The flags of a vector word as a write, when there are any (R123). -/
def flagWrite (outs : List (Nat × LaneOut)) : List RegWrite :=
  if (laneFlags outs).isEmpty then [] else [.flags (laneFlags outs)]

/-- The register writes of a vector word: its destination registers, lane by lane, then the flags raised (R84, R138). -/
def Cx.vecWrites (c : Cx) (v : VOp) (p : Prep) (outs : List (Nat × LaneOut)) : List RegWrite :=
  ((List.range ((v.d.map Prod.snd).getD 0)).filterMap (fun i =>
    if (c.destVals p outs i).isEmpty then none else some (.v (p.d + i) (c.destVals p outs i)))) ++ flagWrite outs

/-- The state after a vector word: its result is outstanding and its group closed. -/
def State.afterVec (s : State) (c : Cx) (sw : Bool) (v : VOp) (p : Prep) (outs : List (Nat × LaneOut)) : State :=
  ((s.setRngs c.uid outs).result c v.lat (vNames p.d ((v.d.map Prod.snd).getD 0) (if c.xp.z then c.mask else p.act))
    (c.vecWrites v p outs)).closeGroup c sw .next

/-- The rule of a vector word: with its checks passed it issues, and what it leaves outstanding is `f` of every active lane's
sources. `reads` names registers that it reads beyond the operands of its own lane. -/
def VecRule (i : Instr) (sw : Bool) (v : VOp) (f : Cx → State → Prep → LaneIn → LaneOut)
    (reads : Cx → State → Prep → List RegName := fun _ _ _ => []) : Prop :=
  ∀ (s : State) (c : Cx) (p : Prep), s.cx = some c → c.VecOk s v p (c.lanesOut s v p (f c s p)) → c.free s (reads c s p) →
    exec i s = .next (s.afterVec c sw v p (c.lanesOut s v p (f c s p)))

/-- A compare's lanes, with their flags. -/
def Cx.cmpOut (c : Cx) (s : State) (v : VOp) (p : Prep) (f : FEnv → LaneIn → Bool × Word) : List (Nat × Bool × Word) :=
  (lanesOf p.act).map (fun l => (l, f p.env (c.sources s v p l)))

/-- The state after a compare into mask `md` (R152): the bits of the active lanes, and of the excluded ones under ZERO, are
outstanding; M0 takes nothing. -/
def State.afterCmp (s : State) (c : Cx) (sw : Bool) (v : VOp) (md : Nat) (p : Prep) (outs : List (Nat × Bool × Word)) : State :=
  let sel := if c.xp.z then c.mask else p.act
  let fl := flagWrite (outs.map (fun q => (q.1, { ws := [], fl := q.2.2 })))
  (s.result c v.lat (if md = 0 then [] else [.m md])
    ((if md = 0 ∨ sel = 0 then [] else [.m md sel (maskOf ((outs.filter (fun q => q.2.1)).map Prod.fst))]) ++ fl)).closeGroup c
      sw .next

/-- The rule of a compare: the condition and the flags of every active lane. -/
def CmpRule (i : Instr) (sw : Bool) (v : VOp) (md : Nat) (f : FEnv → LaneIn → Bool × Word) : Prop :=
  ∀ (s : State) (c : Cx) (p : Prep), s.cx = some c →
    c.VecOk s { v with extra := if md = 0 then [] else [.m md] } p
      ((c.cmpOut s v p f).map (fun q => (q.1, { ws := [], fl := q.2.2 }))) →
    exec i s = .next (s.afterCmp c sw v md p (c.cmpOut s v p f))

/-! Forms of vector words. -/

/-- Operands D, A and B in V registers, one each. -/
def VOp.dab (o : FDab) (use : XpUse) (c : Bool) (lat : Nat) : VOp :=
  { use := use, d := some (o.d.toNat, 1), a := some (o.a.toNat, 1), b := some (o.b.toNat, 1), c := c, lat := lat }

/-- Operands D and A in V registers and B in an S register (R141). -/
def VOp.das (o : FDab) (use : XpUse) (c : Bool) (lat : Nat) : VOp :=
  { use := use, d := some (o.d.toNat, 1), a := some (o.a.toNat, 1), bs := some o.b.toNat, c := c, lat := lat }

/-- Operands D and A. -/
def VOp.da (d a : Nat) (use : XpUse) (lat : Nat) : VOp := { use := use, d := some (d, 1), a := some (a, 1), lat := lat }

/-- Operands A and B of a compare. -/
def VOp.ab (o : FCmp) (use : XpUse) : VOp := { use := use, a := some (o.a.toNat, 1), b := some (o.b.toNat, 1) }

/-- Operands A and, in an S register, B of a compare. -/
def VOp.as (o : FCmp) (use : XpUse) : VOp := { use := use, a := some (o.a.toNat, 1), bs := some o.b.toNat }

/-- A form with sources of floating formats: A and B of `f`, C of `g` when it is taken. -/
def VOp.floats (v : VOp) (f g : Fmt) : VOp :=
  { v with fa := some f, fb := some f, fc := if v.c then some g else none, float := true }

/-- An integer word in both its forms, B from V and B from S: one result of each lane, with its flags (R141, R143). -/
def IntRule (i j : Instr) (o : FDab) (c sat : Bool) (lat : Nat) (f : Bool → Word → Word → Word → Word × Word) : Prop :=
  VecRule i o.sw (.dab o (useInt true c sat) c lat) (fun _ _ p x => oneF x (f p.env.sat x.a0 x.b0 x.c)) ∧
  VecRule j o.sw (.das o (useInt false c sat) c lat) (fun _ _ p x => oneF x (f p.env.sat x.a0 x.b0 x.c))

/-- A bit word: a list of destination words from the sources of a lane, in groups of the given sizes (R144). -/
def BitRule (i : Instr) (o : FDab) (kd ka kb : Nat) (c : Bool) (lat : Nat) (f : LaneIn → List Word) : Prop :=
  VecRule i o.sw
    { VOp.dab o (useInt true c false) c lat with d := some (o.d.toNat, kd), a := some (o.a.toNat, ka), b := some (o.b.toNat, kb) }
    (fun _ _ _ x => { ws := f x, rng := x.rng })

/-- A word with one V source and no floating operand. -/
def UnRule (i : Instr) (o : FDa) (f : Word → Word) : Prop :=
  VecRule i o.sw (.da o.d.toNat o.a.toNat (useInt false false false) 4) (fun _ _ _ x => one x (f x.a0))

/-- A floating word of two sources, in a format (R146 to R148). -/
def FloatRule (i : Instr) (o : FDab) (rnd c sat : Bool) (lat : Nat) (f : FEnv → LaneIn → FRes) : Prop :=
  VecRule i o.sw ((VOp.dab o (useF true rnd c sat true true) c lat).floats .f32 .f32) (fun _ _ p x => fone (f p.env x))

/-- The same with B from S (R141). -/
def FloatRuleS (i : Instr) (o : FDab) (rnd c sat : Bool) (f : FEnv → LaneIn → FRes) : Prop :=
  VecRule i o.sw ((VOp.das o (useF false rnd c sat true true) c 6).floats .f32 .f32) (fun _ _ p x => fone (f p.env x))

/-- A floating word of one source (R146). -/
def FloatRule1 (i : Instr) (o : FDa) (rnd : Bool) (lat : Nat) (f : FEnv → LaneIn → FRes) : Prop :=
  VecRule i o.sw { VOp.da o.d.toNat o.a.toNat (useF false rnd false false true false) lat with fa := some .f32, float := true }
    (fun _ _ p x => fone (f p.env x))

/-- A packed floating word: every sub-element by itself (R129, R147, R148). -/
def PackRule (i : Instr) (o : FDab) (f : Fmt) (rnd c sat : Bool) (lat : Nat) (g : FEnv → Word → Nat → Nat → Nat → FRes) : Prop :=
  VecRule i o.sw ((VOp.dab o (useF true rnd c sat true true) c lat).floats f f) (fun _ _ p x => packed f x (g p.env))

/-- A dot product of packed sources with an F32 addend and result (R131, R147, R148). -/
def DotRule (i : Instr) (o : FDab) (f : Fmt) (lat : Nat) : Prop :=
  VecRule i o.sw ((VOp.dab o (useF true true true true true true) true lat).floats f .f32)
    (fun _ _ p x => fone (fDot f .f32 p.env x.rng (subs f x.a0) (subs f x.b0) x.c.toNat))

/-- An integer packed word of VQ (R148). -/
def ByteRule (i : Instr) (o : FDab) (c sat : Bool) (f : Bool → LaneIn → Word × Word) : Prop :=
  VecRule i o.sw (.dab o (useInt true c sat) c 8) (fun _ _ p x => oneF x (f p.env.sat x))

/-- An integer compare in both its forms (R152). -/
def IntCmpRule (i j : Instr) (o : FCmp) (f : Word → Word → Bool) : Prop :=
  CmpRule i o.sw (.ab o { ixa := true, ixb := true }) o.m.toNat (fun _ x => (f x.a0 x.b0, 0)) ∧
  CmpRule j o.sw (.as o { ixa := true }) o.m.toNat (fun _ x => (f x.a0 x.b0, 0))

/-- A floating compare in both its forms (R152): the sources after FTZ, compared as values; unordered when either is NaN. -/
def FloatCmpRule (i j : Instr) (o : FCmp) (inv : Bool) (p : FVal → FVal → Bool → Bool) : Prop :=
  CmpRule i o.sw ((VOp.ab o { ixa := true, ixb := true, na := true, nb := true }).floats .f32 .f32) o.m.toNat
    (fun e x => fcmp inv p e x.a0 x.b0) ∧
  CmpRule j o.sw ((VOp.as o { ixa := true, na := true, nb := true }).floats .f32 .f32) o.m.toNat
    (fun e x => fcmp inv p e x.a0 x.b0)

/-- A cross-lane word over the tile of each lane (R154): `reads` are the lanes whose A is read. -/
def LaneRule (i : Instr) (sw : Bool) (v : VOp) (reads : Nat → Lanes → List LaneIn → Lanes)
    (f : FEnv → Nat → Lanes → (Nat → Word) → LaneIn → LaneOut) : Prop :=
  VecRule i sw { v with extra := [.part], crossA := true }
    (fun c s p x => f p.env (bits (c.readPart s).toNat 2 0) p.act (fun l => c.readV s p.a l) x)
    (fun c s p => [.v p.a (reads (bits (c.readPart s).toNat 2 0) p.act ((lanesOf p.act).map (c.sources s v p)))])

/-- A tile-wide word: its value for each lane from the active lanes of its tile (R156, R157). -/
def TileRule (i : Instr) (o : FDa) (lat : Nat) (f : List Nat → (Nat → Word) → Nat → Word) : Prop :=
  LaneRule i o.sw (.da o.d.toNat o.a.toNat { ixd := true, ixa := true } lat) (fun _ act _ => act)
    (fun _ tile act rd x => one x (f (tileLanes tile x.lane act) rd x.lane))

/-- A scalar word: with its registers free it leaves `outs` outstanding (R158). -/
def ScalarRule (i : Instr) (sw : Bool) (srcs : List Nat) (outs : Cx → State → List (Nat × Word)) : Prop :=
  ∀ (s : State) (c : Cx), s.bare c → c.free s ((srcs ++ (outs c s).map Prod.fst).map RegName.s) →
    exec i s = .next ((s.result c 3 ((outs c s).map (fun p => RegName.s p.1)) ((outs c s).map (fun p => RegWrite.s p.1 p.2))).closeGroup
      c sw .next)

/-! Words of other kinds. -/

/-- The state after a mask register is written as a result; M0 takes nothing (R38, R153). -/
def State.afterMask (s : State) (c : Cx) (d : Nat) (m : Lanes) : State :=
  if d = 0 then s else s.result c 2 [.m d] [.m d (BitVec.allOnes 64) m]

/-- The state with S registers outstanding. -/
def State.afterS (s : State) (c : Cx) (lat : Nat) (outs : List (Nat × Word)) : State :=
  s.result c lat (outs.map (fun p => RegName.s p.1)) (outs.map (fun p => RegWrite.s p.1 p.2))

/-- A prefix, if there is one, that changes nothing (R53). -/
def Cx.neutral (c : Cx) : Prop := ({ m := false, z := false : XpUse }).ok c.xp = true

/-! What a rounded result is (R118 to R122, R126): laws in exact integers, beside the functions that compute it. -/

/-- `q` is the whole number of units that the magnitude N / D rounds to in a mode (R118), or under SR with 16 random bits (R120). -/
def RoundsTo (mode : Nat) (neg : Bool) (rnd N D q : Nat) : Prop :=
  (mode = 1 → 2 * (q * D) ≤ 2 * N + D ∧ 2 * N ≤ 2 * (q * D) + D ∧
    (2 * (q * D) = 2 * N + D ∨ 2 * N = 2 * (q * D) + D → q % 2 = 0)) ∧
  (mode = 2 ∨ (mode = 3 ∧ neg = false) ∨ (mode = 4 ∧ neg = true) → q * D ≤ N ∧ N < q * D + D) ∧
  ((mode = 3 ∧ neg = true) ∨ (mode = 4 ∧ neg = false) → N ≤ q * D ∧ q * D < N + D) ∧
  (mode = 5 → 2 * (q * D) ≤ 2 * N + D ∧ 2 * N + D < 2 * (q * D) + 2 * D) ∧
  (mode = 6 → q = (N * 65536 / D + rnd) / 65536)

/-- A result is tiny (R118): its magnitude n / d × 2^e, of exponent `k`, rounded with the exponent unbounded is below 2^emin; under SR
it is the delivered result, `q` units of 2^u, that is. -/
def Tiny (f : Fmt) (mode : Nat) (neg : Bool) (n d : Nat) (e k u : Int) (q : Nat) : Prop :=
  (mode ≠ 6 ∧ k < f.emin ∧ ∃ p, RoundsTo mode neg 0 (n * 2 ^ (e - (k - f.mbits)).toNat) (d * 2 ^ (k - f.mbits - e).toNat) p ∧
    (p < 2 ^ f.prec ∨ k + 1 < f.emin)) ∨
  (mode = 6 ∧ q ≠ 0 ∧ q < 2 ^ f.mbits ∧ u = f.emin - f.mbits)

/-- What Round delivers of the magnitude n / d × 2^e of a sign, exponent `k` (R118 to R120, R122): the number of units of the last
place that the mode gives, with IX and UF; a zero for a tiny result under FTZO; and on overflow what R119's table says. -/
structure Rounded (f : Fmt) (env : FEnv) (rng : Word) (neg : Bool) (n d : Nat) (e k : Int) (q : Nat) (r : FRes) : Prop where
  rng : r.rng = if env.mode = 6 then srStep rng else rng
  fits : r.v < 2 ^ f.width
  overflow : ∀ M E, unpack f f.maxCode = .fin false M E → M * 2 ^ (E - (max k f.emin - f.mbits)).toNat <
      q * 2 ^ (max k f.emin - f.mbits - E).toNat →
    if env.sat = true ∨ f = .e2m1 then r.v = signed f neg f.maxCode ∧ r.fl = flSAT ||| flIX
    else r.fl = flOF ||| flIX ∧
      if env.mode = 2 ∨ (env.mode = 3 ∧ neg = false) ∨ (env.mode = 4 ∧ neg = true) then r.v = signed f neg f.maxCode
      else if f = .e4m3 then r.v = signed f neg 0x7F else unpack f r.v = .inf neg
  flushed : ∀ M E, unpack f f.maxCode = .fin false M E → q * 2 ^ (max k f.emin - f.mbits - E).toNat ≤
      M * 2 ^ (E - (max k f.emin - f.mbits)).toNat → env.ftzo = true → f.flushes = true →
    Tiny f env.mode neg n d e k (max k f.emin - f.mbits) q → r.v = signed f neg 0 ∧ r.fl = flUF ||| flIX
  value : ∀ M E, unpack f f.maxCode = .fin false M E → q * 2 ^ (max k f.emin - f.mbits - E).toNat ≤
      M * 2 ^ (E - (max k f.emin - f.mbits)).toNat →
    ¬ (env.ftzo = true ∧ f.flushes = true ∧ Tiny f env.mode neg n d e k (max k f.emin - f.mbits) q) →
    (∃ m g, unpack f r.v = .fin neg m g ∧ ((m = q ∧ g = max k f.emin - f.mbits) ∨ (2 * m = q ∧ g = max k f.emin - f.mbits + 1))) ∧
    (q * (d * 2 ^ (max k f.emin - f.mbits - e).toNat) = n * 2 ^ (e - (max k f.emin - f.mbits)).toNat → r.fl = 0) ∧
    (q * (d * 2 ^ (max k f.emin - f.mbits - e).toNat) ≠ n * 2 ^ (e - (max k f.emin - f.mbits)).toNat →
      (Tiny f env.mode neg n d e k (max k f.emin - f.mbits) q → r.fl = flIX ||| flUF) ∧
      (¬ Tiny f env.mode neg n d e k (max k f.emin - f.mbits) q → r.fl = flIX))

/-- `r` is Round of the non-zero magnitude n / d × 2^e: with k the exponent of that magnitude, and q the number of units of the last
place that it rounds to. -/
def RoundOf (f : Fmt) (env : FEnv) (rng : Word) (neg : Bool) (n d : Nat) (e : Int) (r : FRes) : Prop :=
  ∀ (k : Int) (q : Nat), d * 2 ^ (k - e).toNat ≤ n * 2 ^ (e - k).toNat → n * 2 ^ (e - k).toNat < 2 * (d * 2 ^ (k - e).toNat) →
    RoundsTo env.mode neg ((srStep rng).toNat / 65536) (n * 2 ^ (e - (max k f.emin - f.mbits)).toNat)
      (d * 2 ^ (max k f.emin - f.mbits - e).toNat) q →
    Rounded f env rng neg n d e k q r

/-- A NaN result (R126): the default NaN, or under NANP, when the first NaN among the operands is of the result's format, that NaN
with its sign and payload and made quiet. -/
def NanResult (f : Fmt) (env : FEnv) (ops : List (Fmt × Nat)) (r : FRes) : Prop :=
  (env.nanp = false → r.v = f.defNan) ∧
  (env.nanp = true → ∀ pre b post, ops = pre ++ (f, b) :: post → (∀ o ∈ pre, isNan o.1 o.2 = false) → isNan f b = true →
    unpack f r.v = .nan false ∧ bitAt r.v (f.width - 1) = bitAt b (f.width - 1) ∧
    (f ≠ .e4m3 → r.v % 2 ^ (f.mbits - 1) = b % 2 ^ (f.mbits - 1)))

/-- What an operation leaves whose exact result is a sum of terms, products among them, rounded once (R119, R124, R126, R138): `ops`
are its operands in the order of R126, and `inv` says that a product is 0 × ∞. The sign of a zero sum is the model's reading (log 14). -/
def SumOf (f : Fmt) (env : FEnv) (rng : Word) (ops : List (Fmt × Nat)) (inv : Bool) (ts : List FVal) (r : FRes) : Prop :=
  let nan : Prop := ∃ o ∈ ops, isNan o.1 o.2 = true
  let pos : Prop := FVal.inf false ∈ ts
  let neg : Prop := FVal.inf true ∈ ts
  let bad : Prop := inv = true ∨ (pos ∧ neg)
  let x := sumAt (minExp ts 4096) ts
  (nan → NanResult f env ops r) ∧ (¬ nan → bad → r.v = f.defNan) ∧
  (bad ∨ (∃ o ∈ ops, isSnan o.1 o.2 = true) → r.fl = flINV) ∧ (nan → ¬ bad → (∀ o ∈ ops, isSnan o.1 o.2 = false) → r.fl = 0) ∧
  (¬ nan → ¬ bad →
    (pos → f.ieee = true → unpack f r.v = .inf false ∧ r.fl = 0) ∧ (neg → f.ieee = true → unpack f r.v = .inf true ∧ r.fl = 0) ∧
    (¬ pos → ¬ neg → x = 0 → r.v = signed f (zeroSign env ts) 0 ∧ r.fl = 0) ∧
    (¬ pos → ¬ neg → x ≠ 0 → RoundOf f env rng (decide (x < 0)) x.natAbs 1 (minExp ts 4096) r))

end Sys2Proof.Machine
end

