-- ==== Sys2Proof/Certificates/Slice0/Obligations.lean ====
section
/-! DEFINITION. The statements for the provers. -/

open Sys2Proof Sys2Proof.Machine

/-! The machine as a whole. -/

/-- A step that issues a word runs the decoded instruction (R46, R74): with no breakpoint and no refusal to take first, the
chosen warp runs the instruction that its word decodes to, in the state that the fetch leaves; its partition then spends one or two
core clocks on it, unless it parked, which ends an earlier park for another reason, or a debugger stopped the context. Where a stop
may come first, a breakpoint or a group of BRK under a debugger, nothing is said (R401), by log 28. A step does one of the things that
may happen next, when there are any; of events it runs the event. -/
def Obligations.StepRunsDecoded : Prop := ∀ (s : State),
  let t := s.ticked
  (∀ u w g x i, t.chosen = some (.issue u) → t.warps.get? u = some w → w.group = some g → t.bpMatch w = none →
    (w.iss.grp = none → (t.ctx w.id.ctx).held = true → w.iss.skipBrk = false → t.brkAhead w g.here 9 = false) →
    w.refusedWait = none → t.fetch w g.here = .word x → decode x = .ok i →
    let b := (t.fetched w g.here).begin u x
    (∀ q, exec i b = .next q → step s = .next (
      if (parked q u).isSome then (if parked q u == w.iss.stall then q else q.wake u w.iss.stall)
      else if (q.spent w).isSome then q else q.issued u w)) ∧
    (∀ f, exec i b = .fault f → step s = .fault f) ∧ (∀ r, exec i b = .refused r → step s = .refused r)) ∧
  (∀ c, t.chosen = some c → step s = t.perform c ∧ c ∈ t.options) ∧ (t.options ≠ [] → t.chosen.isSome = true) ∧
  (∀ k e, t.bag[k]? = some e → t.perform (.bag k) = exec e.toInstr { t with bag := dropAt t.bag k }) ∧
  (∀ e, t.perform (.due e) = exec e.toInstr t) ∧
  (∀ e rest, t.inputs = e :: rest → t.perform .input = exec e.toInstr { t with inputs := rest })

/-- What reset leaves (R116, R318, R360, R384, R419, R428): every byte of device memory is zero, as the boot leaves it, no context,
grid, team or warp exists, weight i of entry m of every magnitude table has code bit i of m, FRETRY, ERRSEQ, SLMODE and PLACEMENT
have their reset values, and the memories are in canonical form. -/
def Obligations.ResetState : Prop :=
  let s := State.reset
  s.memOk ∧ (∀ a, Memory.read s.mem a = 0) ∧ s.ctxs = [] ∧ s.grids = [] ∧ s.teams = [] ∧ s.warps = [] ∧ s.queues = [] ∧ s.chans = [] ∧
  s.fab.fretry = 65536 ∧ s.svc.errSeq = 0 ∧ s.svc.ready = false ∧ s.svc.image = none ∧
  (∀ d, (s.die d).slmode = 0x401008A1 ∧ (s.die d).placement = 0x205F) ∧
  ∀ (c : Cx) (m i : Nat), i < 8 → (c.magEntry s m).extractLsb' (4 * i) 4 = (if m.testBit i then 1 else 0)

/-- Words of the spec's own examples decode to the instructions they stand for (R34, R37, R61, R242). -/
def Obligations.DecodedWords : Prop :=
  decode 0x32204080 = .ok (.movVs ⟨false, 1, 1⟩) ∧ decode 0x02404000 = .ok (.himmHi ⟨false, 0x4000⟩) ∧
  decode 0x02600040 = .ok (.hofs ⟨false, 0x40⟩) ∧ decode 0xB4810021 = .ok (.ldB32 ⟨true, 2, 0, 2, 1⟩) ∧
  decode 0x9860C104 = .ok (.ffma ⟨true, 3, 2, 4⟩) ∧ decode 0x368A0002 = .ok (.stB32 ⟨false, 20, 0, 0, 2⟩) ∧
  decode 0x06540002 = .ok (.brF ⟨false, 1, 2, 2⟩) ∧ decode 0x427DC400 = .ok (.kjoin ⟨false, 14, 14, 2⟩) ∧
  decode 0x44302803 = .ok (.push ⟨false, 4, 5, 3⟩) ∧ decode 0x46050421 = .ok (.tcopy ⟨false, 20, 4, 2, 1⟩) ∧
  decode 0x48020043 = .ok (.mxpost ⟨false, 8, 4, 3⟩) ∧ decode 0x4A440430 = .ok (.crgate ⟨false, 16, 4, 3, 0⟩) ∧
  decode 0x4C240031 = .ok (.barv ⟨false, 2, 3, 1⟩) ∧ decode 0x4E0A0021 = .ok (.glaunch ⟨false, 40, 2, 1⟩) ∧
  decode 0x400202 = .error .ill ∧ decode 0x7E010003 = .ok (.mtcp ⟨false, 4, 3⟩)

/-- Decoding gives back what was encoded: every well-formed instruction with a word, with every operand at every value (R34,
R54). -/
def Obligations.RoundTrip : Prop := ∀ (i : Instr) (w : Word), i.wf = true → encode i = some w → decode w = .ok i

/-- Every word has one meaning (R34, R54, R56): a word that decodes is the encoding of its instruction, which is well formed. -/
def Obligations.WordsHaveOneMeaning : Prop := ∀ (w : Word) (i : Instr), decode w = .ok i → encode i = some w ∧ i.wf = true

/-- Every step keeps device memory and host memory in canonical form: addresses strictly rising, no byte listed that reads as a byte
nothing has written. The form is the model's own (log 1, log 2); that nothing written reads as zero is the boot's (R428). -/
def Obligations.StepKeepsMemory : Prop := ∀ (s t : State), s.memOk → step s = .next t → t.memOk

/-- A word that is no instruction traps (R54, R56, R107, R149): a word of major 0x3F outside privileged state is PRIV. One of majors
0x07 and 0x29 to 0x3E, with a minor that R54 does not list, or a CVT whose pair of types R149 does not list, is UNIMPL, with the
group's prefix, immediate and hint state. Any other that does not decode is ILL, and so is every word of major 0. -/
def Obligations.UndecodedWords : Prop := ∀ (x : Word),
  let major := (x.extractLsb' 25 6).toNat
  let minor := (x.extractLsb' 21 4).toNat
  let last : List (Nat × Nat) :=
    [(0x06, 14), (0x0D, 12), (0x0E, 13), (0x13, 13), (0x14, 13), (0x15, 8), (0x16, 14), (0x19, 8), (0x20, 3), (0x21, 7),
     (0x22, 5), (0x23, 6), (0x24, 8), (0x25, 5), (0x26, 4), (0x27, 2), (0x28, 2), (0x3F, 4)]
  let pairs : List (Nat × List Nat) :=
    [(8, [9, 10, 2, 3, 11, 12, 0, 1, 13, 4, 5, 6, 7]), (9, [8, 4, 5, 10]), (10, [8, 4, 5, 9]), (11, [8]), (12, [8]), (13, [8]),
     (0, [8, 4, 5]), (1, [8, 4, 5]), (2, [8, 4, 5]), (3, [8, 4, 5]), (4, [8, 9, 10, 2, 3, 0, 1, 5, 6, 7]),
     (5, [8, 9, 10, 2, 3, 0, 1, 4, 6, 7]), (6, [8, 4, 5, 7]), (7, [8, 4, 5, 6])]
  let unlisted : Prop := major = 0x07 ∨ (0x29 ≤ major ∧ major ≤ 0x3E) ∨ (∃ p ∈ last, major = p.1 ∧ p.2 < minor) ∨
    (major = 0x12 ∧ minor % 4 = 3) ∨ ((major = 0x1B ∨ major = 0x1D) ∧ 5 ≤ (x.extractLsb' 22 3).toNat) ∨
    (major = 0x10 ∧ ¬ ∃ p ∈ pairs, (x.extractLsb' 17 4).toNat = p.1 ∧ minor ∈ p.2)
  (decode x = .error .unimpl ↔ unlisted) ∧ (major = 0 → decode x = .error .ill) ∧
  ∀ (s : State) (u : Nat) (c : Cx) (e : DecErr), decode x = .error e → (s.begin u x).cx = some c →
  let takes (t : TrapInfo) : Prop := s.runWord u x = .next ((s.begin u x).raise c t)
  let priv : Prop := (s.ctx c.ctx).d.priv = true
  (major = 0x3F → ¬ priv → takes { cause := 0x03 }) ∧
  (major ≠ 0x3F ∨ priv → ¬ unlisted → takes { cause := 0x01 }) ∧
  (major ≠ 0x3F ∨ priv → unlisted → takes
    { cause := 0x02, info1 := (c.g.xp.bind (fun p => encode (.xp p))).getD 0, info2 := c.g.pimm.getD 0, info3 := c.g.hintWord })

/-- The frame of a word that leaves a register result (R46, R78, R83): no byte of memory changes, no other warp changes, and of its
own warp no register changes before the result returns, on the clock of the table (R28), one later at width 64 (R27); only the
issue state does. -/
def Obligations.ResultFrame : Prop := ∀ (s : State) (c : Cx) (sw : Bool) (lat : Nat) (names : List RegName) (writes : List RegWrite),
  s.warps.get? c.uid = some c.w → writes ≠ [] →
  let t := (s.result c lat names writes).closeGroup c sw .next
  t.mem = s.mem ∧ t.host = s.host ∧ t.teams = s.teams ∧ t.ops = s.ops ∧ t.ctxs = s.ctxs ∧ t.copies = s.copies ∧ t.posts = s.posts ∧
  (∀ v, v ≠ c.uid → t.warps.get? v = s.warps.get? v) ∧
  ∃ w, t.warps.get? c.uid = some w ∧ w.regs = c.w.regs ∧ w.ctl = c.w.ctl ∧ w.kf = c.w.kf ∧ w.ports = c.w.ports ∧ w.links = c.w.links ∧
    w.live = c.w.live ∧ w.hnd = c.w.hnd ∧ w.iss.grp = none ∧
    w.iss.outstanding = c.w.iss.outstanding ++ [{ id := s.fresh, due := (s.core c.core).cyc + c.clocks lat, names := names, writes := writes, word := s.word }] ∧
    w.iss.frontier = addEntry (dropEntry c.g.pc c.g.prio c.w.iss.frontier) { pc := c.g.here + 4, prio := c.g.prio, mask := c.g.mask &&& c.w.live }

/-! Attached words and control flow. -/

/-- HINT and XP (R47 to R53): with fewer than eight attached words in the group, each joins the group's pending state; HPRIO
sets the warp's priority at once; a second XP is ILL, and so is a ninth attached word of any kind. -/
def Obligations.AttachedWords : Prop := ∀ (s : State) (c : Cx), s.cx = some c →
  let joins (i : Instr) (t : State) (sw : Bool) (g : Group) : Prop :=
    (c.g.count < 8 → exec i s = .next (t.modWarp c.uid (fun w => { w with iss := { w.iss with
      grp := some { g with count := c.g.count + 1, here := c.g.here + 4, s := c.g.s || sw }
      stall := none, words := w.iss.words + 1
      stallTo := if w.id.mode != .interlocked then (s.core c.core).cyc + g.stall.toNat else 0 } }))) ∧
    (8 ≤ c.g.count → exec i s = .next (s.raise c { cause := 0x01 }))
  (∀ o : FHnop, joins (.hnop o) s o.sw c.g) ∧
  (∀ o : FHimm, joins (.himmLo o) s o.sw { c.g with pimm := some (o.v.signExtend 32) } ∧
    joins (.himmHi o) s o.sw { c.g with pimm := some (o.v ++ (c.g.pimm.getD 0).setWidth 16) }) ∧
  (∀ o : FHofs, joins (.hofs o) s o.sw { c.g with ofs := o.o.signExtend 64 }) ∧
  (∀ o : FH3, joins (.hcache o) s o.sw { c.g with cache := o.p } ∧ joins (.hreuse o) s o.sw { c.g with reuse := o.p }) ∧
  (∀ o : FHstall, joins (.hstall o) s o.sw { c.g with stall := o.n }) ∧
  (∀ o : FXp, (c.g.xp = none → joins (.xp o) s o.sw { c.g with xp := some o }) ∧
    (c.g.xp ≠ none → exec (.xp o) s = .next (s.raise c { cause := 0x01 }))) ∧
  (∀ o : FHprio, 8 ≤ c.g.count → exec (.hprio o) s = .next (s.raise c { cause := 0x01 })) ∧
  (∀ o : FHprio, c.g.count < 8 → ∃ t : State, exec (.hprio o) s = .next t ∧ (t.warp c.uid).iss.prio = o.p ∧
    (t.warp c.uid).iss.grp = some { c.g with count := c.g.count + 1, here := c.g.here + 4, s := c.g.s || o.sw } ∧
    (t.warp c.uid).regs = c.w.regs ∧ (t.warp c.uid).iss.frontier = c.w.iss.frontier)

/-- Branches (R35, R53, R72, R73, R89): the lanes that branch go to the target at the word's priority, the others to the next
word at the entry's; M0 reads as all ones, and a branch accepts no prefix. -/
def Obligations.Branches : Prop := ∀ (o : FBr) (s : State) (c : Cx),
  (s.bare c → c.free s (maskName o.m) →
    let m := c.readM s o.m.toNat
    let goes (i : Instr) (l : Lanes) : Prop := exec i s = .next (s.closeGroup c o.sw (.goto
      [{ pc := c.pc + 4 * o.o.signExtend 64, prio := o.p, mask := l }, { pc := c.pc + 4, prio := c.g.prio, mask := c.mask &&& ~~~l }]))
    goes (.brT o) (c.mask &&& m) ∧ goes (.brF o) (c.mask &&& ~~~m) ∧
    goes (.brAny o) (if c.mask &&& m = 0 then 0 else c.mask) ∧ goes (.brAll o) (if c.mask &&& ~~~m = 0 then c.mask else 0)) ∧
  c.readM s 0 = (if c.w.id.wide then 0xFFFFFFFFFFFFFFFF else 0xFFFFFFFF) ∧
  (s.cx = some c → c.g.xp ≠ none → ∀ i ∈ [Instr.brT o, .brF o, .brAny o, .brAll o], exec i s = .next (s.raise c { cause := 0x01 }))

/-- Calls, loops and indirect transfers (R28, R90, R91, R93): CALL and CALLI leave the next word's address outstanding for the
pair V126, V127 of the active lanes; LOOPB counts its L register down, advances its ring and
branches while the old count exceeds 1; JMPI, CALLI and RET send every active lane to the address its pair holds, and a misaligned one traps. -/
def Obligations.CallsAndLoops : Prop := ∀ (s : State) (c : Cx), s.bare c →
  let linkV : List RegWrite := [.v 126 ((lanesOf c.mask).map (fun i => (i, (c.pc + 4).setWidth 32))),
    .v 127 ((lanesOf c.mask).map (fun i => (i, (c.pc + 4).extractLsb' 32 32)))]
  let linked : State := s.result c 2 [.v 126 c.mask, .v 127 c.mask] linkV
  (∀ o : FCall, c.free s [.v 126 c.mask, .v 127 c.mask] → c.uncaptured s [126, 127] →
    exec (.call o) s = .next (linked.closeGroup c o.sw
      (.goto [{ pc := c.pc + 4 * o.o.signExtend 64, prio := c.g.prio, mask := c.mask }]))) ∧
  (∀ o : FLoop, c.free s [.l o.l.toNat] →
    let x := c.readL s o.l.toNat
    let count := x.toNat % 2 ^ 16
    let ring := bits x.toNat 23 16
    let size := bits x.toNat 31 24
    let down : Word := if count = 0 then x
      else BitVec.ofNat 32 (size * 2 ^ 24 + (if 2 ≤ size then (ring + 1) % size else ring) * 2 ^ 16 + (count - 1))
    let t := (s.loopRace c o.l.toNat).modWarp c.uid (fun w => { w with regs := { w.regs with l := w.regs.l.set o.l.toNat down } })
    (1 < count → exec (.loopb o) s = .next (t.closeGroup c o.sw
      (.goto [{ pc := c.pc + 4 * o.o.signExtend 64, prio := o.p, mask := c.mask }]))) ∧
    (count ≤ 1 → exec (.loopb o) s = .next (t.closeGroup c o.sw
      (.goto [{ pc := c.pc + 4, prio := c.g.prio, mask := c.mask }])))) ∧
  (∀ n : Nat,
    let dst (i : Nat) : Addr := c.readV s (n + 1) i ++ c.readV s n i
    let goes (i : Instr) (sw : Bool) (t : State) : Prop :=
      ((∀ l ∈ lanesOf c.mask, (dst l).toNat % 4 = 0) → exec i s = .next (t.closeGroup c sw (.goto
        ((lanesOf c.mask).map (fun l => { pc := dst l, prio := c.g.prio, mask := laneBit l }))))) ∧
      (∀ l ∈ lanesOf c.mask, (dst l).toNat % 4 ≠ 0 → (∀ k ∈ lanesOf c.mask, k < l → (dst k).toNat % 4 = 0) →
        exec i s = .next (s.raise c { cause := 0x06, info1 := BitVec.ofNat 32 l, info2 := (dst l).setWidth 32,
                                      info3 := (dst l).extractLsb' 32 32 }))
    n % 2 = 0 → c.w.validV n = true → c.w.validV (n + 1) = true → c.free s [.v n c.mask, .v (n + 1) c.mask] →
    (∀ o : FA, o.a.toNat = n → goes (.jmpi o) o.sw s) ∧
    (∀ o : FA, o.a.toNat = n → c.free s [.v n c.mask, .v (n + 1) c.mask, .v 126 c.mask, .v 127 c.mask] →
      c.uncaptured s [126, 127] → goes (.calli o) o.sw linked) ∧
    (∀ o : FNone, n = 126 → goes (.ret o) o.sw s))

/-- Rejoin registers (R86, R97) and the rest of CTL (R71, R92, R94, R96, R98, R100): ENROL, JOIN and STRIKE act by the table of
R86; in handler state the lanes of a release that are not the handler's stay held. EXIT strikes its lanes from every rejoin register
and leaves the warp, ending handler state when no other lane of the handler lives; the last EXIT waits while R71 has it wait, then
the warp retires. LSET loads an L register, DRAIN passes once nothing is outstanding, NOP goes on, and YIELD too: its 8 clocks are
counted from the clock after its own (the model's reading, log 58). -/
def Obligations.RejoinAndExit : Prop :=
  (∀ (j : Rejoin) (a : Lanes) (p : BitVec 3) (pc : Addr),
    let free (at0 : Addr) (x : Lanes) : List Ent := [{ pc := at0 + 4, prio := j.prio, mask := x }]
    (j.a = 0 → j.enrol a p = { e := a, a := 0, pc := 0, prio := p }) ∧ (j.a ≠ 0 → j.enrol a p = { j with e := j.e ||| a }) ∧
    (j.e = 0 → j.join a pc = some (a, j, [])) ∧ (j.e = 0 → j.a = 0 → (j.strike a).2 = [] ∧ (j.strike a).1.e = 0) ∧
    (j.e ≠ 0 → j.a = 0 →
      (a &&& j.e = 0 → j.join a pc = some (a, j, [])) ∧
      (a &&& j.e = j.e → j.join a pc = some (a &&& ~~~j.e, {}, free pc j.e)) ∧
      (a &&& j.e ≠ 0 → a &&& j.e ≠ j.e → j.join a pc = some (a &&& ~~~j.e, { j with a := a &&& j.e, pc := pc }, [])) ∧
      (j.e &&& ~~~a = 0 → j.strike a = ({}, [])) ∧ (j.e &&& ~~~a ≠ 0 → j.strike a = ({ j with e := j.e &&& ~~~a }, []))) ∧
    (j.e ≠ 0 → j.a ≠ 0 →
      (pc ≠ j.pc → j.join a pc = none) ∧
      (j.a ||| (a &&& j.e) = j.e → j.join a j.pc = some (a &&& ~~~j.e, {}, free j.pc j.e)) ∧
      (j.a ||| (a &&& j.e) ≠ j.e → j.join a j.pc = some (a &&& ~~~j.e, { j with a := j.a ||| (a &&& j.e) }, [])) ∧
      (j.e &&& ~~~a = j.a → j.strike a = ({}, free j.pc j.a)) ∧
      (j.e &&& ~~~a ≠ j.a → j.strike a = ({ j with e := j.e &&& ~~~a }, [])))) ∧
  (∀ (a : Lanes) (m : KMap Rejoin), strikeAll a m = (m.map (fun q => (q.1, (q.2.strike a).1)), m.flatMap (fun q => (q.2.strike a).2))) ∧
  ∀ (s : State) (c : Cx), s.bare c →
  let within (es : List Ent) : List Ent := es.map (fun e => { e with mask := e.mask &&& c.w.hnd.emask })
  let kept (es : List Ent) : List Ent := addEntries c.w.hnd.held (es.map (fun e => { e with mask := e.mask &&& ~~~c.w.hnd.emask }))
  let holds (es : List Ent) : State := s.putWarp c.uid { c.w with hnd := { c.w.hnd with held := kept es } }
  (∀ o : FJ, exec (.enrol o) s = .next ((s.putJ c.uid o.j.toNat ((c.w.jreg o.j.toNat).enrol c.mask c.g.prio)).closeGroup c o.sw .next)) ∧
  (∀ o : FJ, c.w.hnd.on = false →
    (∀ l j es, (c.w.jreg o.j.toNat).join c.mask c.pc = some (l, j, es) →
      exec (.join o) s = .next ((s.putJ c.uid o.j.toNat j).closeGroup c o.sw
        (.goto ({ pc := c.pc + 4, prio := c.g.prio, mask := l } :: es)))) ∧
    ((c.w.jreg o.j.toNat).join c.mask c.pc = none → exec (.join o) s = .next (s.raise c { cause := 0x01 })) ∧
    exec (.strike o) s = .next ((s.putJ c.uid o.j.toNat ((c.w.jreg o.j.toNat).strike c.mask).1).closeGroup c o.sw
      (.goto ({ pc := c.pc + 4, prio := c.g.prio, mask := c.mask } :: ((c.w.jreg o.j.toNat).strike c.mask).2)))) ∧
  (∀ o : FJ, c.w.hnd.on = true →
    (∀ l j es, (c.w.jreg o.j.toNat).join c.mask c.pc = some (l, j, es) →
      exec (.join o) s = .next (((holds es).putJ c.uid o.j.toNat j).closeGroup c o.sw
        (.goto ({ pc := c.pc + 4, prio := c.g.prio, mask := l } :: within es)))) ∧
    ∀ j es, (c.w.jreg o.j.toNat).strike c.mask = (j, es) →
      exec (.strike o) s = .next (((holds es).putJ c.uid o.j.toNat j).closeGroup c o.sw
        (.goto ({ pc := c.pc + 4, prio := c.g.prio, mask := c.mask } :: within es)))) ∧
  (∀ o : FNone, c.w.hnd.on = false → c.w.live &&& ~~~c.mask ≠ 0 → c.w.reports = [] →
    let g : Regs := { c.w.regs with j := (strikeAll c.mask c.w.regs.j).1 }
    exec (.exit o) s = .next ((s.putWarp c.uid { c.w with live := c.w.live &&& ~~~c.mask, regs := g }).closeGroup
      c o.sw (.goto (strikeAll c.mask c.w.regs.j).2))) ∧
  (∀ o : FNone, c.w.live &&& ~~~c.mask = 0 → c.w.reports = [] → c.w.refusal (fun _ => true) = none →
    (∀ r, s.exitWait c.uid = some r → exec (.exit o) s = .next ((s.markExit c.uid).parkWarp c.uid r)) ∧
    (s.exitWait c.uid = none → c.w.hnd.on = false →
      let g : Regs := { c.w.regs with j := (strikeAll c.mask c.w.regs.j).1 }
      exec (.exit o) s = .next ((((s.putWarp c.uid { c.w with live := 0, regs := g }).cancelClaims c.uid).post
        (.warpRetire c.uid)).closeGroup c o.sw (.goto (strikeAll c.mask c.w.regs.j).2)))) ∧
  (∀ o : FNone, c.w.hnd.on = true → c.w.live &&& ~~~c.mask ≠ 0 →
    let es := (strikeAll c.mask c.w.regs.j).2
    (c.w.hnd.emask &&& c.w.live &&& ~~~c.mask ≠ 0 → exec (.exit o) s = .next ((s.putWarp c.uid { c.w with
      live := c.w.live &&& ~~~c.mask, regs := { c.w.regs with j := (strikeAll c.mask c.w.regs.j).1 }
      hnd := { c.w.hnd with held := kept es } }).closeGroup c o.sw (.goto (within es)))) ∧
    (c.w.hnd.emask &&& c.w.live &&& ~~~c.mask = 0 → c.w.busy = false → ∃ t : State, exec (.exit o) s = .next t ∧
      (t.warp c.uid).hnd.on = false ∧ (t.warp c.uid).live = c.w.live &&& ~~~c.mask ∧ (t.warp c.uid).ctl.part = c.w.hnd.shadowPart ∧
      (t.warp c.uid).iss.frontier = addEntries [] (kept es ++ within es))) ∧
  (∀ o : FLset, c.free s [.s o.a.toNat, .l o.l.toNat] →
    exec (.lset o) s = .next ((s.result c 3 [.l o.l.toNat] [.l o.l.toNat (lnorm (c.readS s o.a.toNat))]).closeGroup c o.sw .next)) ∧
  (∀ o : FNone, c.w.iss.outstanding = [] → c.w.iss.status = [] → exec (.drain o) s = .next (s.closeGroup c o.sw .next)) ∧
  (∀ o : FNone, exec (.nop o) s = .next (s.closeGroup c o.sw .next) ∧
    exec (.yield o) s = .next ((s.modWarp c.uid (fun w =>
      { w with iss := { w.iss with yield := (s.core c.core).cyc + 9 } })).closeGroup c o.sw .next))

/-- Software traps (R95, R103 to R105) and BRK under a debugger (R401): TRAP, SYSC and, with no debugger holding the context, BRK
take their trap with the code and the word's own address. With a debugger BRK is a precise stop; that it goes on as a NOP once
resumed is the model's choice (log 28). -/
def Obligations.SoftwareTraps : Prop := ∀ (o : FCode) (s : State) (c : Cx), s.bare c →
  let takes (i : Instr) (cause : BitVec 6) : Prop :=
    exec i s = .next (s.raise c { cause := cause, info1 := o.c.setWidth 32, info2 := c.pc.setWidth 32, info3 := c.pc.extractLsb' 32 32 })
  takes (.trap o) 0x19 ∧ takes (.sysc o) 0x1A ∧ ((s.ctx c.ctx).held = false → takes (.brk o) 0x18) ∧
  ((s.ctx c.ctx).held = true →
    (c.w.iss.skipBrk = false → exec (.brk o) s = .next ((s.preciseStop c.uid c.lane).modWarp c.uid (fun w =>
      { w with iss := { w.iss with skipBrk := true } }))) ∧
    (c.w.iss.skipBrk = true → exec (.brk o) s = .next (s.closeGroup c o.sw .next)))

/-- Taking a trap (R48, R100, R103, R104): with no register result outstanding, outside handler state and with a trap code
object, the trap registers hold the group's first word, the cause with its place in the group and the entry's priority, the
trapping lanes and the word; S56 to S63 and PART go to the shadow; S56 and S57 hold the save-area address and S58 to S63 zero;
PART is a whole-warp tile; the frontier is one entry at the handler with priority 7; the warp's other entries are held. -/
def Obligations.TrapEntry : Prop := ∀ (s : State) (c : Cx) (t : TrapInfo) (h : Addr), s.cx = some c → c.w.busy = false →
  c.w.hnd.on = false → s.handlerPc c.ctx = some h → t.imprecise = false → t.info0 = none →
  let w := (s.raise c t).warp c.uid
  let save := (s.ctx c.ctx).d.trapSave + BitVec.ofNat 64 ((c.w.core * 64 + c.w.slot) * 0x8000)
  w.hnd.on = true ∧ w.hnd.epc = c.g.pc ∧
  w.hnd.ecause = 0#16 ++ BitVec.ofNat 4 c.g.count ++ c.g.prio ++ 0#1 ++ 0#1 ++ 0#1 ++ t.cause ∧
  w.hnd.emask = c.mask ∧ w.hnd.info0 = s.word ∧ w.hnd.info1 = t.info1 ∧ w.hnd.info2 = t.info2 ∧ w.hnd.info3 = t.info3 ∧
  w.hnd.shadowS = [56, 57, 58, 59, 60, 61, 62, 63].map c.w.sreg ∧ w.hnd.shadowPart = c.w.ctl.part ∧
  w.sreg 56 = save.setWidth 32 ∧ w.sreg 57 = save.extractLsb' 32 32 ∧
  (∀ n, 58 ≤ n → n ≤ 63 → w.sreg n = 0) ∧ (∀ n, n < 56 → w.sreg n = c.w.sreg n) ∧
  w.ctl.part = (if c.w.id.wide then 6 else 5) ∧ w.iss.frontier = [{ pc := h, prio := 7, mask := c.mask }] ∧
  w.hnd.held = dropEntry c.g.pc c.g.prio c.w.iss.frontier ∧ w.iss.grp = none ∧
  w.regs.v = c.w.regs.v ∧ w.regs.m = c.w.regs.m ∧ w.regs.x = c.w.regs.x ∧ w.regs.l = c.w.regs.l ∧ w.regs.j = c.w.regs.j ∧
  (s.raise c t).mem = s.mem

/-- ERET (R99): ILL outside handler state; with no result outstanding the lanes of EMASK that still live resume at EPC with the
priority of the trapped entry, beside the entries held since, and S56 to S63 and PART return from the shadow. -/
def Obligations.HandlerReturn : Prop := ∀ (o : FNone) (s : State) (c : Cx), s.bare c →
  (c.w.hnd.on = false → exec (.eret o) s = .next (s.raise c { cause := 0x01 })) ∧
  (c.w.hnd.on = true → c.w.busy = false → c.w.hnd.shadowS.length = 8 → ∃ t : State, exec (.eret o) s = .next t ∧
    let w := t.warp c.uid
    w.hnd.on = false ∧ w.iss.frontier = addEntries [] (c.w.hnd.held ++
      [{ pc := c.w.hnd.epc, prio := c.w.hnd.ecause.extractLsb' 9 3, mask := c.w.hnd.emask &&& c.w.live }]) ∧
    (∀ k, k < 8 → w.sreg (56 + k) = nth c.w.hnd.shadowS k 0) ∧ (∀ n, n < 56 → w.sreg n = c.w.sreg n) ∧
    w.ctl.part = c.w.hnd.shadowPart ∧ w.regs.v = c.w.regs.v)

/-- A trap in handler state, or without a trap code object, ends the context (R101): its fault record goes to the fault area,
which is a multiple of 64, and nothing of it runs any more. -/
def Obligations.FatalTrap : Prop := ∀ (s : State) (c : Cx) (t : TrapInfo), s.cx = some c → c.w.busy = false →
  (c.w.hnd.on = true ∨ s.handlerPc c.ctx = none) → t.info0 = none → (s.ctxs.get? c.ctx).isSome = true →
  ((s.raise c t).ctx c.ctx).terminated = true ∧
  let p : PendTrap := { info := t, epc := c.g.pc, widx := c.g.count, prio := c.g.prio, mask := c.g.mask, word := s.word }
  ∀ a, s.freeRecord (s.ctx c.ctx).d.faultBase (s.ctx c.ctx).d.faultN 0 = some a → a % 64 = 0 →
    s.memOk → ∀ i, i < 64 → Memory.read (s.raise c t).mem (a + i) =
      nth (bytesOfWords ((s.fatalRecord c.w p).words (s.ctx c.ctx).d.secure)) i 0

/-! The vector engine. -/

/-- VINT and VINT.S (R141, R143): the thirty-two integer words, each with the value it leaves outstanding for its D. -/
def Obligations.IntegerWords : Prop := ∀ o : FDab,
  IntRule (.iadd o) (.iaddS o) o false true 4 (fun sat a b _ => if sat then clampI32 (a.toInt + b.toInt) else (a + b, 0)) ∧
  IntRule (.isub o) (.isubS o) o false true 4 (fun sat a b _ => if sat then clampI32 (a.toInt - b.toInt) else (a - b, 0)) ∧
  IntRule (.imul o) (.imulS o) o false false 6 (fun _ a b _ => (a * b, 0)) ∧
  IntRule (.imulhI o) (.imulhIS o) o false false 6
    (fun _ a b _ => ((a.signExtend 64 * b.signExtend 64).extractLsb' 32 32, 0)) ∧
  IntRule (.imulhN o) (.imulhNS o) o false false 6
    (fun _ a b _ => ((a.setWidth 64 * b.setWidth 64).extractLsb' 32 32, 0)) ∧
  IntRule (.imad o) (.imadS o) o true true 6
    (fun sat a b c => if sat then clampI32 (a.toInt * b.toInt + c.toInt) else (a * b + c, 0)) ∧
  IntRule (.andV o) (.andS o) o false false 4 (fun _ a b _ => (a &&& b, 0)) ∧
  IntRule (.orV o) (.orS o) o false false 4 (fun _ a b _ => (a ||| b, 0)) ∧
  IntRule (.xorV o) (.xorS o) o false false 4 (fun _ a b _ => (a ^^^ b, 0)) ∧
  IntRule (.shl o) (.shlS o) o false false 4 (fun _ a b _ => (a <<< b.toNat, 0)) ∧
  IntRule (.shr o) (.shrS o) o false false 4 (fun _ a b _ => (a >>> b.toNat, 0)) ∧
  IntRule (.sar o) (.sarS o) o false false 4 (fun _ a b _ => (a.sshiftRight b.toNat, 0)) ∧
  IntRule (.minI o) (.minIS o) o false false 4 (fun _ a b _ => (BitVec.ofInt 32 (min a.toInt b.toInt), 0)) ∧
  IntRule (.minN o) (.minNS o) o false false 4 (fun _ a b _ => (BitVec.ofNat 32 (min a.toNat b.toNat), 0)) ∧
  IntRule (.maxI o) (.maxIS o) o false false 4 (fun _ a b _ => (BitVec.ofInt 32 (max a.toInt b.toInt), 0)) ∧
  IntRule (.maxN o) (.maxNS o) o false false 4 (fun _ a b _ => (BitVec.ofNat 32 (max a.toNat b.toNat), 0))

/-- VBIT and VINT.I (R144, R145): what each word leaves outstanding for its D group. -/
def Obligations.BitAndImmediateWords : Prop := (∀ o : FDa,
    UnRule (.popc o) o (fun a => BitVec.ofNat 32 ((List.range 32).filter (fun i => a.getLsbD i)).length) ∧
    UnRule (.clz o) o (fun a => a.clz) ∧
    UnRule (.brev o) o (fun a => a.reverse)) ∧
  (∀ o : FDab,
    BitRule (.bfeI o) o 1 1 1 false 4 (fun x =>
      let len := min (x.b0.toNat / 256 % 256) 32
      [((x.a0.sshiftRight (x.b0.toNat % 256)) <<< (32 - len)).sshiftRight (32 - len)]) ∧
    BitRule (.bfeN o) o 1 1 1 false 4
      (fun x => [(x.a0 >>> (x.b0.toNat % 256)) &&& BitVec.ofNat 32 (2 ^ min (x.b0.toNat / 256 % 256) 32 - 1)]) ∧
    BitRule (.bfi o) o 1 1 1 true 4 (fun x =>
      let pos := x.b0.toNat % 256
      let m : Word := BitVec.ofNat 32 (2 ^ min (x.b0.toNat / 256 % 256) 32 - 1) <<< pos
      [(x.c &&& ~~~m) ||| ((x.a0 <<< pos) &&& m)]) ∧
    BitRule (.sel o) o 1 1 1 true 4 (fun x => [(x.a0 &&& x.c) ||| (x.b0 &&& ~~~x.c)]) ∧
    BitRule (.prmt o) o 1 1 1 true 4 (fun x => [prmtW x.a0 x.b0 x.c]) ∧
    BitRule (.andn o) o 1 1 1 false 4 (fun x => [x.a0 &&& ~~~x.b0]) ∧
    BitRule (.absdI o) o 1 1 1 false 4 (fun x => [if x.b0.slt x.a0 then x.a0 - x.b0 else x.b0 - x.a0]) ∧
    BitRule (.iaddD o) o 2 2 2 false 4 (fun x => pairWords (pairOf x.a + pairOf x.b)) ∧
    BitRule (.isubD o) o 2 2 2 false 4 (fun x => pairWords (pairOf x.a - pairOf x.b)) ∧
    BitRule (.shlD o) o 2 2 1 false 4 (fun x => pairWords (pairOf x.a <<< x.b0.toNat)) ∧
    BitRule (.shrD o) o 2 2 1 false 4 (fun x => pairWords (pairOf x.a >>> x.b0.toNat)) ∧
    BitRule (.imulwI o) o 2 1 1 false 6 (fun x => pairWords (x.a0.signExtend 64 * x.b0.signExtend 64)) ∧
    BitRule (.imulwN o) o 2 1 1 false 6 (fun x => pairWords (x.a0.setWidth 64 * x.b0.setWidth 64))) ∧
  (∀ o : FImm,
    VecRule (.iaddi o) o.sw (.da o.d.toNat o.a.toNat (useInt false false true) 4) (fun c _ p x => oneF x
      (if p.env.sat then clampI32 (x.a0.toInt + (c.imm (o.i.signExtend 32)).toInt) else (x.a0 + c.imm (o.i.signExtend 32), 0))) ∧
    VecRule (.andi o) o.sw (.da o.d.toNat o.a.toNat (useInt false false false) 4)
      (fun c _ _ x => one x (x.a0 &&& c.imm (o.i.signExtend 32))) ∧
    VecRule (.xori o) o.sw (.da o.d.toNat o.a.toNat (useInt false false false) 4)
      (fun c _ _ x => one x (x.a0 ^^^ c.imm (o.i.signExtend 32)))) ∧
  (∀ o : FMovi, VecRule (.movi o) o.sw { use := { ixd := true }, d := some (o.d.toNat, 1) }
    (fun c _ _ x => one x (c.imm (o.i.signExtend 32))))

/-- VF32 and VF32.S (R118 to R120, R122, R124, R126, R136 to R138, R146): what each word leaves outstanding for its D. The sums,
products and fused products of every format that has NaNs are the exact result rounded once, with the flags of R123; the sign of a
zero sum is the model's reading (log 14). -/
def Obligations.FloatWords : Prop :=
  (∀ (f : Fmt) (env : FEnv) (rng : Word) (a b c : Nat), f ≠ .e2m1 → 1 ≤ env.mode → env.mode ≤ 6 →
    let x := ftziBits f env a
    let y := ftziBits f env b
    let z := ftziBits f env c
    SumOf f env rng [(f, x), (f, y)] false [unpack f x, unpack f y] (fAdd f env rng a b) ∧
    SumOf f env rng [(f, x), (f, y)] false [unpack f x, negV (unpack f y)] (fSub f env rng a b) ∧
    SumOf f env rng [(f, x), (f, y)] (invProd (unpack f x) (unpack f y)) [mulV (unpack f x) (unpack f y)] (fMul f env rng a b) ∧
    SumOf f env rng [(f, x), (f, y), (f, z)] (invProd (unpack f x) (unpack f y)) [mulV (unpack f x) (unpack f y), unpack f z]
      (fFma f env rng a b c)) ∧
  (∀ o : FDab,
    FloatRule (.fadd o) o true false true 6 (fun e x => fAdd .f32 e x.rng x.a0.toNat x.b0.toNat) ∧
    FloatRule (.fsub o) o true false true 6 (fun e x => fSub .f32 e x.rng x.a0.toNat x.b0.toNat) ∧
    FloatRule (.fmul o) o true false true 6 (fun e x => fMul .f32 e x.rng x.a0.toNat x.b0.toNat) ∧
    FloatRule (.ffma o) o true true true 6 (fun e x => fFma .f32 e x.rng x.a0.toNat x.b0.toNat x.c.toNat) ∧
    FloatRule (.fmin o) o false false false 6 (fun e x => fMinMax .f32 false false e x.rng x.a0.toNat x.b0.toNat) ∧
    FloatRule (.fmax o) o false false false 6 (fun e x => fMinMax .f32 true false e x.rng x.a0.toNat x.b0.toNat) ∧
    FloatRule (.fminm o) o false false false 6 (fun e x => fMinMax .f32 false true e x.rng x.a0.toNat x.b0.toNat) ∧
    FloatRule (.fmaxm o) o false false false 6 (fun e x => fMinMax .f32 true true e x.rng x.a0.toNat x.b0.toNat) ∧
    FloatRule (.fdiv o) o true false true 28 (fun e x => fDivide e x.rng x.a0.toNat x.b0.toNat) ∧
    FloatRuleS (.faddS o) o true false true (fun e x => fAdd .f32 e x.rng x.a0.toNat x.b0.toNat) ∧
    FloatRuleS (.fsubS o) o true false true (fun e x => fSub .f32 e x.rng x.a0.toNat x.b0.toNat) ∧
    FloatRuleS (.fmulS o) o true false true (fun e x => fMul .f32 e x.rng x.a0.toNat x.b0.toNat) ∧
    FloatRuleS (.ffmaS o) o true true true (fun e x => fFma .f32 e x.rng x.a0.toNat x.b0.toNat x.c.toNat) ∧
    FloatRuleS (.fminS o) o false false false (fun e x => fMinMax .f32 false false e x.rng x.a0.toNat x.b0.toNat) ∧
    FloatRuleS (.fmaxS o) o false false false (fun e x => fMinMax .f32 true false e x.rng x.a0.toNat x.b0.toNat) ∧
    FloatRuleS (.fminmS o) o false false false (fun e x => fMinMax .f32 false true e x.rng x.a0.toNat x.b0.toNat) ∧
    FloatRuleS (.fmaxmS o) o false false false (fun e x => fMinMax .f32 true true e x.rng x.a0.toNat x.b0.toNat)) ∧
  (∀ o : FDa,
    FloatRule1 (.fabs o) o false 6 (fun _ x => { v := (x.a0 &&& 0x7FFFFFFF#32).toNat, rng := x.rng }) ∧
    FloatRule1 (.fneg o) o false 6 (fun _ x => { v := (x.a0 ^^^ 0x80000000#32).toNat, rng := x.rng }) ∧
    FloatRule1 (.fsqrt o) o true 20 (fun e x => fSqrt e x.rng x.a0.toNat) ∧
    FloatRule1 (.frcp o) o false 20 (fnLane .rcp) ∧ FloatRule1 (.frsq o) o false 20 (fnLane .rsq) ∧
    FloatRule1 (.fex2 o) o false 20 (fnLane .ex2) ∧ FloatRule1 (.flg2 o) o false 20 (fnLane .lg2) ∧
    FloatRule1 (.fsinS o) o false 20 (fnLane .sin) ∧ FloatRule1 (.fcosS o) o false 20 (fnLane .cos) ∧
    FloatRule1 (.ftanhS o) o false 20 (fnLane .tanh) ∧ FloatRule1 (.fsigmS o) o false 20 (fnLane .sigm) ∧
    FloatRule1 (.ferfS o) o false 20 (fnLane .erf))

/-- VH2 and VQ (R147, R148): packed words, each sub-element by itself, and dot products. -/
def Obligations.PackedWords : Prop := ∀ o : FDab,
  (PackRule (.hadd o) o .f16 true false true 6 (fun e r a b _ => fAdd .f16 e r a b) ∧
    PackRule (.hsub o) o .f16 true false true 6 (fun e r a b _ => fSub .f16 e r a b) ∧
    PackRule (.hmul o) o .f16 true false true 6 (fun e r a b _ => fMul .f16 e r a b) ∧
    PackRule (.hfma o) o .f16 true true true 6 (fun e r a b c => fFma .f16 e r a b c) ∧
    PackRule (.hmin o) o .f16 false false false 6 (fun e r a b _ => fMinMax .f16 false false e r a b) ∧
    PackRule (.hmax o) o .f16 false false false 6 (fun e r a b _ => fMinMax .f16 true false e r a b) ∧
    PackRule (.badd o) o .bf16 true false true 6 (fun e r a b _ => fAdd .bf16 e r a b) ∧
    PackRule (.bsub o) o .bf16 true false true 6 (fun e r a b _ => fSub .bf16 e r a b) ∧
    PackRule (.bmul o) o .bf16 true false true 6 (fun e r a b _ => fMul .bf16 e r a b) ∧
    PackRule (.bfma o) o .bf16 true true true 6 (fun e r a b c => fFma .bf16 e r a b c) ∧
    PackRule (.bmin o) o .bf16 false false false 6 (fun e r a b _ => fMinMax .bf16 false false e r a b) ∧
    PackRule (.bmax o) o .bf16 false false false 6 (fun e r a b _ => fMinMax .bf16 true false e r a b) ∧
    DotRule (.hdot2 o) o .f16 6 ∧ DotRule (.bdot2 o) o .bf16 6) ∧
  (PackRule (.qaddE4m3 o) o .e4m3 true false true 8 (fun e r a b _ => fAdd .e4m3 e r a b) ∧
    PackRule (.qsubE4m3 o) o .e4m3 true false true 8 (fun e r a b _ => fSub .e4m3 e r a b) ∧
    PackRule (.qmulE4m3 o) o .e4m3 true false true 8 (fun e r a b _ => fMul .e4m3 e r a b) ∧
    PackRule (.qaddE5m2 o) o .e5m2 true false true 8 (fun e r a b _ => fAdd .e5m2 e r a b) ∧
    PackRule (.qsubE5m2 o) o .e5m2 true false true 8 (fun e r a b _ => fSub .e5m2 e r a b) ∧
    PackRule (.qmulE5m2 o) o .e5m2 true false true 8 (fun e r a b _ => fMul .e5m2 e r a b) ∧
    PackRule (.qmaxE4m3 o) o .e4m3 false false false 8 (fun e r a b _ => fMinMax .e4m3 true false e r a b) ∧
    PackRule (.qminE4m3 o) o .e4m3 false false false 8 (fun e r a b _ => fMinMax .e4m3 false false e r a b) ∧
    DotRule (.qdot4E4m3 o) o .e4m3 8 ∧ DotRule (.qdot4E5m2 o) o .e5m2 8 ∧ DotRule (.xdot8E2m1 o) o .e2m1 8) ∧
  ByteRule (.qdot4I8 o) o true true (fun sat x =>
    if sat then clampI32 (byteDot true x.a0 x.b0 + x.c.toInt) else (BitVec.ofInt 32 (byteDot true x.a0 x.b0) + x.c, 0)) ∧
  ByteRule (.qdot4N8 o) o true true (fun sat x =>
    if sat ∧ 2 ^ 32 ≤ byteDot false x.a0 x.b0 + x.c.toNat then (0xFFFFFFFF, flSAT)
    else (BitVec.ofInt 32 (byteDot false x.a0 x.b0) + x.c, 0)) ∧
  ByteRule (.qaddI8 o) o false true (fun sat x => byteAdd true sat x.a0 x.b0) ∧
  ByteRule (.qaddN8 o) o false true (fun sat x => byteAdd false sat x.a0 x.b0) ∧
  ByteRule (.qmaxI8 o) o false false (fun _ x => (byteMaxI x.a0 x.b0, 0))

/-- VCMP and VCMP.S (R152): the condition each compare puts into its mask. -/
def Obligations.CompareWords : Prop := ∀ o : FCmp,
  IntCmpRule (.cmpEq o) (.cmpEqS o) o (fun a b => decide (a = b)) ∧
  IntCmpRule (.cmpNe o) (.cmpNeS o) o (fun a b => decide (a ≠ b)) ∧
  IntCmpRule (.cmpLtI o) (.cmpLtIS o) o (fun a b => decide (a.toInt < b.toInt)) ∧
  IntCmpRule (.cmpLeI o) (.cmpLeIS o) o (fun a b => decide (a.toInt ≤ b.toInt)) ∧
  IntCmpRule (.cmpLtN o) (.cmpLtNS o) o (fun a b => decide (a.toNat < b.toNat)) ∧
  IntCmpRule (.cmpLeN o) (.cmpLeNS o) o (fun a b => decide (a.toNat ≤ b.toNat)) ∧
  IntCmpRule (.cmpTstz o) (.cmpTstzS o) o (fun a b => decide (a &&& b = 0)) ∧
  IntCmpRule (.cmpTstnz o) (.cmpTstnzS o) o (fun a b => decide (a &&& b ≠ 0)) ∧
  FloatCmpRule (.cmpFeq o) (.cmpFeqS o) o false (fun x y un => !un && eqV x y) ∧
  FloatCmpRule (.cmpFne o) (.cmpFneS o) o false (fun x y un => un || !eqV x y) ∧
  FloatCmpRule (.cmpFlt o) (.cmpFltS o) o true (fun x y un => !un && lessV x y) ∧
  FloatCmpRule (.cmpFle o) (.cmpFleS o) o true (fun x y un => !un && (lessV x y || eqV x y)) ∧
  FloatCmpRule (.cmpFuno o) (.cmpFunoS o) o false (fun _ _ un => un) ∧
  FloatCmpRule (.cmpFord o) (.cmpFordS o) o false (fun _ _ un => !un)

/-! Conversions, masks, lanes, scalars, moves and codebooks. -/

/-- VCVT and SCVT (R113, R118 to R120, R122, R124, R126, R128, R130, R149 to R151): a conversion by the table of R128; CVT writes its
part of D, 64-bit values as a pair; the scaled conversions take one element after another by the scale byte of the lane's block. -/
def Obligations.ConversionWords : Prop :=
  (∀ (t u : Nat) (e : FEnv) (rng : Word) (v : Nat), 1 ≤ e.mode → e.mode ≤ 6 →
    let r := cvtVal t u e rng v
    let rnd := (srStep rng).toNat / 65536
    (∀ f g, fmtType u = some f → fmtType t = some g →
      let b := ftziBits f e v
      (isNan f b = true → (g = .e2m1 → r.v = 0 ∧ r.fl = flINV) ∧ (g ≠ .e2m1 → (e.nanp = false → r.v = g.defNan) ∧
        (e.nanp = true → r.v = carryNan f g b) ∧ r.fl = if isSnan f b = true then flINV else 0)) ∧
      (∀ neg, unpack f b = .inf neg → (g.ieee = true → unpack g r.v = .inf neg ∧ r.fl = 0) ∧
        (g = .e2m1 ∨ (g = .e4m3 ∧ e.sat = true) → r.v = signed g neg g.maxCode ∧ r.fl = flSAT ||| flIX) ∧
        (g = .e4m3 → e.sat = false → r.v = signed g neg 0x7F ∧ r.fl = flOF ||| flIX)) ∧
      (∀ neg x, unpack f b = .fin neg 0 x → r.v = signed g neg 0 ∧ r.fl = 0) ∧
      (∀ neg m x, unpack f b = .fin neg m x → m ≠ 0 → RoundOf g e rng neg m 1 x r)) ∧
    (∀ f sg n, fmtType u = some f → intType t = some (sg, n) →
      let b := ftziBits f e v
      let gives (y : Int) (fl : Word) : Prop := r.v = (y % 2 ^ n).toNat ∧ r.fl = fl
      (isNan f b = true → gives 0 flINV) ∧
      (∀ neg, unpack f b = .inf neg → gives (if neg then intMin sg n else intMax sg n) flINV) ∧
      (∀ neg m x q, unpack f b = .fin neg m x → RoundsTo e.mode neg rnd (m * 2 ^ x.toNat) (2 ^ (-x).toNat) q →
        let y : Int := if neg then -(q : Int) else q
        (y < intMin sg n → gives (intMin sg n) flINV) ∧ (intMax sg n < y → gives (intMax sg n) flINV) ∧
        (intMin sg n ≤ y → y ≤ intMax sg n → gives y (if q * 2 ^ (-x).toNat = m * 2 ^ x.toNat then 0 else flIX)))) ∧
    (∀ g sg n, intType u = some (sg, n) → fmtType t = some g →
      (intOf sg n v = 0 → r.v = 0 ∧ r.fl = 0) ∧
      (intOf sg n v ≠ 0 → RoundOf g e rng (decide (intOf sg n v < 0)) (intOf sg n v).natAbs 1 0 r)) ∧
    (∀ sg n tg m, intType u = some (sg, n) → intType t = some (tg, m) →
      let x := intOf sg n v
      let gives (y : Int) (fl : Word) : Prop := r.v = (y % 2 ^ m).toNat ∧ r.fl = fl
      (e.sat = false ∨ n < m → gives x 0) ∧
      (e.sat = true → m ≤ n → (x < intMin tg m → gives (intMin tg m) flSAT) ∧ (intMax tg m < x → gives (intMax tg m) flSAT) ∧
        (intMin tg m ≤ x → x ≤ intMax tg m → gives x 0)))) ∧
  (∀ o : FCvt,
    VecRule (.cvt o) o.sw
      { use := { ixd := true, ixa := true, rnd := true, sat := true, na := (fmtType o.u.toNat).isSome }
        d := some (o.d.toNat, if typeWidth o.t.toNat = 64 then 2 else 1), a := some (o.a.toNat, if typeWidth o.u.toNat = 64 then 2 else 1)
        keepD := decide (typeWidth o.t.toNat < 32), fa := fmtType o.u.toNat
        partA := some (cvtSrc o.t.toNat o.u.toNat o.e.toNat), float := true, lat := 6 }
      (fun _ _ p x =>
        let wt := typeWidth o.t.toNat
        let wu := typeWidth o.u.toNat
        let v := if wu = 64 then (pairOf x.a).toNat else x.a0.toNat / 2 ^ (wu * cvtSrc o.t.toNat o.u.toNat o.e.toNat) % 2 ^ wu
        let r := cvtVal o.t.toNat o.u.toNat p.env x.rng v
        let at0 := wt * cvtDst o.t.toNat o.u.toNat o.e.toNat
        { ws := if wt = 64 then pairWords (BitVec.ofNat 64 r.v)
                else if wt = 32 then [BitVec.ofNat 32 r.v]
                else [(nth x.d 0 0 &&& ~~~(BitVec.ofNat 32 ((2 ^ wt - 1) * 2 ^ at0))) ||| BitVec.ofNat 32 (r.v * 2 ^ at0)]
          fl := r.fl, rng := r.rng })) ∧
  (∀ o : FScvt,
    let up (f : Fmt) (block : Nat) (i : Instr) : Prop := VecRule i o.sw
      { use := { ixd := true, ixa := true, ixb := true, rnd := true, sat := true }
        d := some (o.d.toNat, f.per / 2), a := some (o.a.toNat, 1), b := some (o.b.toNat, 1), crossB := true
        fa := some f, float := true, lat := 6 }
      (fun c s p x =>
        let k := scaleOf block o.e.toNat (fun l => c.readV s p.b l) x.lane
        let r := packLanes .bf16 (fun rng j => scaled f .bf16 p.env rng (sub f x.a0 j) k) f.per 0 x.rng
        { ws := halfWords r.1, fl := r.2.1, rng := r.2.2 })
    let dn (f : Fmt) (block : Nat) (i : Instr) : Prop := VecRule i o.sw
      { use := { ixd := true, ixa := true, ixb := true, rnd := true, sat := true }
        d := some (o.d.toNat, 1), a := some (o.a.toNat, f.per), b := some (o.b.toNat, 1), crossB := true
        fa := some .f32, float := true, lat := 6 }
      (fun c s p x =>
        let k := (scaleOf block o.e.toNat (fun l => c.readV s p.b l) x.lane).map (fun n => -n)
        let r := packLanes f (fun rng j => scaled .f32 f p.env rng (nth x.a j 0).toNat k) f.per 0 x.rng
        { ws := [BitVec.ofNat 32 (packSubs f r.1)], fl := r.2.1, rng := r.2.2 })
    up .e4m3 8 (.scvtUpE4m3 o) ∧ up .e5m2 8 (.scvtUpE5m2 o) ∧ up .e2m1 4 (.scvtUpE2m1 o) ∧
    VecRule (.scvtUpLq2 o) o.sw
      { use := { ixd := true, ixa := true, ixb := true, rnd := true, sat := true }
        d := some (o.d.toNat, 8), a := some (o.a.toNat, 1), b := some (o.b.toNat, 1), crossB := true, float := true
        extra := [.table], lat := 6 }
      (fun c s p x =>
        let r := packLanes .bf16 (fun rng j =>
          match scaleOf 4 o.e.toNat (fun l => c.readV s p.b l) x.lane with
          | some k => lqRound .bf16 p.env rng (lqWeight (c.magEntry s) x.a0 j) k
          | none => nanRes .bf16 p.env rng Fmt.bf16.defNan 0) 16 0 x.rng
        { ws := halfWords r.1, fl := r.2.1, rng := r.2.2 }) ∧
    dn .e4m3 8 (.scvtDnE4m3 o) ∧ dn .e5m2 8 (.scvtDnE5m2 o) ∧ dn .e2m1 4 (.scvtDnE2m1 o))

/-- MASK (R38, R153): mask operations within the width, and masks to and from S; MTOS and MFROMS use a pair at width 64. -/
def Obligations.MaskWords : Prop := ∀ (s : State) (c : Cx), s.bare c →
  (∀ o : FMask3, c.free s (maskName o.d ++ maskName o.a ++ maskName o.b) →
    let r (i : Instr) (m : Lanes) : Prop :=
      exec i s = .next ((s.afterMask c o.d.toNat (m &&& allLanes c.w.id.wide)).closeGroup c o.sw .next)
    let a := c.readM s o.a.toNat
    let b := c.readM s o.b.toNat
    r (.mand o) (a &&& b) ∧ r (.mor o) (a ||| b) ∧ r (.mxor o) (a ^^^ b) ∧ r (.mandn o) (a &&& ~~~b)) ∧
  (∀ o : FMask2, c.free s (maskName o.d ++ maskName o.a) →
    exec (.mnot o) s = .next ((s.afterMask c o.d.toNat (~~~(c.readM s o.a.toNat) &&& allLanes c.w.id.wide)).closeGroup
      c o.sw .next)) ∧
  (∀ o : FMaskS,
    let m := c.readM s o.a.toNat
    (c.free s (maskName o.a ++ [.s o.n.toNat]) →
      exec (.mpopc o) s = .next ((s.afterS c 2 [(o.n.toNat, BitVec.ofNat 32 (lanesOf m).length)]).closeGroup c o.sw .next) ∧
      exec (.mffs o) s = .next ((s.afterS c 2
        [(o.n.toNat, if m = 0 then 0xFFFFFFFF else BitVec.ofNat 32 (lowest m))]).closeGroup c o.sw .next) ∧
      (c.w.id.wide = false → exec (.mtos o) s = .next ((s.afterS c 2 [(o.n.toNat, m.setWidth 32)]).closeGroup c o.sw .next))) ∧
    (c.w.id.wide = true → o.n.toNat % 2 = 0 → c.free s (maskName o.a ++ [.s o.n.toNat, .s (o.n.toNat + 1)]) →
      exec (.mtos o) s = .next ((s.afterS c 2
        [(o.n.toNat, m.setWidth 32), (o.n.toNat + 1, m.extractLsb' 32 32)]).closeGroup c o.sw .next)) ∧
    (c.w.id.wide = true → o.n.toNat % 2 = 1 → exec (.mtos o) s = .next (s.raise c { cause := 0x01 }))) ∧
  (∀ o : FMfroms,
    (c.w.id.wide = false → c.free s (maskName o.d ++ [.s o.n.toNat]) →
      exec (.mfroms o) s = .next ((s.afterMask c o.d.toNat ((c.readS s o.n.toNat).setWidth 64)).closeGroup c o.sw .next)) ∧
    (c.w.id.wide = true → o.n.toNat % 2 = 0 → c.free s (maskName o.d ++ [.s o.n.toNat, .s (o.n.toNat + 1)]) →
      exec (.mfroms o) s = .next ((s.afterMask c o.d.toNat
        (c.readS s (o.n.toNat + 1) ++ c.readS s o.n.toNat)).closeGroup c o.sw .next)) ∧
    (c.w.id.wide = true → o.n.toNat % 2 = 1 → exec (.mfroms o) s = .next (s.raise c { cause := 0x01 })))

/-- XLANE (R131, R132, R154 to R157): shuffles name a lane of the tile or keep A and set XLB; votes, ballots, matches,
broadcasts, reductions and scans are over the active lanes of the lane's tile. -/
def Obligations.LaneWords : Prop := (∀ o : FDab,
    let shuffle (i : Instr) (src : Nat → Nat → Int) : Prop :=
      ∀ wide : Bool,
      let from1 (tile : Nat) (x : LaneIn) : Option Nat := shflSrc tile wide x.lane (src x.lane x.b0.toNat)
      ∀ (s : State) (c : Cx) (p : Prep), s.cx = some c → c.w.id.wide = wide →
        let v : VOp := { VOp.dab o { ixd := true, ixa := true, ixb := true } false 8 with extra := [.part], crossA := true }
        let tile := bits (c.readPart s).toNat 2 0
        let outs := c.lanesOut s v p (fun x => match from1 tile x with
          | some l => one x (c.readV s p.a l)
          | none => { ws := [x.a0], fl := flXLB, rng := x.rng })
        c.VecOk s v p outs →
        c.free s [.v p.a (maskOf ((lanesOf p.act).map (fun l => (from1 tile (c.sources s v p l)).getD l)))] →
        exec i s = .next (s.afterVec c o.sw v p outs)
    shuffle (.shflIdx o) (fun _ k => (k : Int)) ∧ shuffle (.shflUp o) (fun i k => (i : Int) - k) ∧
    shuffle (.shflDn o) (fun i k => (i : Int) + k) ∧ shuffle (.shflXor o) (fun i k => ((i ^^^ k : Nat) : Int))) ∧
  (∀ o : FDa,
    TileRule (.voteAny o) o 8 (fun ls rd _ => if ls.any (fun j => rd j != 0) then 1 else 0) ∧
    TileRule (.voteAll o) o 8 (fun ls rd _ => if ls.all (fun j => rd j != 0) then 1 else 0) ∧
    TileRule (.bcast o) o 8 (fun ls rd i => rd (ls.headD i)) ∧
    TileRule (.redxAddI o) o 14 (fun ls rd _ => (ls.map rd).foldl (fun a b => a + b) 0) ∧
    TileRule (.redxMinI o) o 14 (fun ls rd i => (ls.map rd).foldl minIW (rd i)) ∧
    TileRule (.redxMaxI o) o 14 (fun ls rd i => (ls.map rd).foldl maxIW (rd i)) ∧
    TileRule (.scanAddI o) o 14 (fun ls rd i => ((ls.filter (fun j => j ≤ i)).map rd).foldl (fun a b => a + b) 0) ∧
    (let sums (i : Instr) (f : FEnv → Nat → (Nat → Nat) → Nat → FRes) : Prop :=
      LaneRule i o.sw { VOp.da o.d.toNat o.a.toNat { ixd := true, ixa := true } 14 with fa := some .f32, float := true }
        (fun _ act _ => act)
        (fun e tile act rd x =>
          let r := f e tile (laneVal tile x.lane act rd) (x.lane - tileBase tile x.lane)
          { ws := [BitVec.ofNat 32 r.v], fl := r.fl, rng := x.rng })
    sums (.redxAddF o) (fun e tile val _ => treeNode e val tile 0) ∧
    sums (.scanAddF o) (fun e tile val i => scanSum e val (i + 1) tile 0 none)) ∧
    (let lanes (i : Instr) (f : List Nat → (Nat → Word) → Nat → List Nat) : Prop :=
      ∀ (s : State) (c : Cx) (p : Prep), s.cx = some c → (c.w.id.wide = true → o.d.toNat % 2 = 0) →
        let v : VOp := { VOp.da o.d.toNat o.a.toNat { ixd := true, ixa := true } 8 with
          d := some (o.d.toNat, if c.w.id.wide then 2 else 1), extra := [.part], crossA := true }
        let outs := c.lanesOut s v p (fun x =>
          let m := maskOf (f (tileLanes (bits (c.readPart s).toNat 2 0) x.lane p.act) (fun l => c.readV s p.a l) x.lane)
          { ws := if c.w.id.wide then pairWords m else [m.setWidth 32], rng := x.rng })
        c.VecOk s v p outs → c.free s [.v p.a p.act] → exec i s = .next (s.afterVec c o.sw v p outs)
    lanes (.ballot o) (fun ls rd _ => ls.filter (fun j => rd j != 0)) ∧
    lanes (.matchV o) (fun ls rd i => ls.filter (fun j => rd j == rd i))))

/-- SALU and SALU.I (R158, R159): scalar words and what each leaves outstanding. -/
def Obligations.ScalarWords : Prop := (∀ o : FDab,
    let r (i : Instr) (f : Word → Word → Word) : Prop := ScalarRule i o.sw [o.a.toNat, o.b.toNat]
      (fun c s => [(o.d.toNat, f (c.readS s o.a.toNat) (c.readS s o.b.toNat))])
    r (.sadd o) (fun a b => a + b) ∧ r (.ssub o) (fun a b => a - b) ∧ r (.smul o) (fun a b => a * b) ∧
    r (.sand o) (fun a b => a &&& b) ∧ r (.sor o) (fun a b => a ||| b) ∧ r (.sxor o) (fun a b => a ^^^ b) ∧
    r (.sshl o) (fun a b => a <<< b.toNat) ∧ r (.sshr o) (fun a b => a >>> b.toNat) ∧
    r (.ssar o) (fun a b => a.sshiftRight b.toNat) ∧
    r (.sminI o) (fun a b => BitVec.ofInt 32 (min a.toInt b.toInt)) ∧
    r (.smaxI o) (fun a b => BitVec.ofInt 32 (max a.toInt b.toInt)) ∧
    r (.sminN o) (fun a b => BitVec.ofNat 32 (min a.toNat b.toNat)) ∧
    r (.smaxN o) (fun a b => BitVec.ofNat 32 (max a.toNat b.toNat)) ∧
    r (.scmp o) (fun a b => if a.toInt < b.toInt then 0xFFFFFFFF else if a = b then 0 else 1) ∧
    ScalarRule (.saddD o) o.sw [o.a.toNat, o.a.toNat + 1, o.b.toNat, o.b.toNat + 1] (fun c s =>
      let x : BitVec 64 := (c.readS s (o.a.toNat + 1) ++ c.readS s o.a.toNat) + (c.readS s (o.b.toNat + 1) ++ c.readS s o.b.toNat)
      [(o.d.toNat, x.setWidth 32), (o.d.toNat + 1, x.extractLsb' 32 32)]) ∧
    ScalarRule (.ssel o) o.sw [o.a.toNat, o.b.toNat]
      (fun c s => [(o.d.toNat, if c.readS s o.d.toNat = 0 then c.readS s o.b.toNat else c.readS s o.a.toNat)])) ∧
  (∀ o : FImm,
    let r (i : Instr) (f : Word → Word → Word) : Prop := ScalarRule i o.sw [o.a.toNat]
      (fun c s => [(o.d.toNat, f (c.readS s o.a.toNat) (c.imm (o.i.signExtend 32)))])
    r (.saddi o) (fun a i => a + i) ∧ r (.sandi o) (fun a i => a &&& i) ∧ r (.sshli o) (fun a i => a <<< i.toNat)) ∧
  (∀ o : FMovi, ScalarRule (.smovi o) o.sw [] (fun c _ => [(o.d.toNat, c.imm (o.i.signExtend 32))]))

/-- MOV (R41, R43 to R45, R104, R120, R160 to R162): moves between the register spaces, control registers and index registers. An
MTC is a register result, but for SRNG, which R120 has written at issue. -/
def Obligations.MoveWords : Prop := (∀ o : FDa,
    VecRule (.movv o) o.sw (.da o.d.toNat o.a.toNat { ixd := true, ixa := true } 2) (fun _ _ _ x => one x x.a0) ∧
    VecRule (.movVs o) o.sw { use := { ixd := true }, d := some (o.d.toNat, 1), bs := some o.a.toNat, lat := 2 }
      (fun _ _ _ x => one x x.b0)) ∧
  (∀ (o : FMfc) (s : State) (c : Cx) (p : Prep), s.cx = some c →
    let t := s.latch c o.n.toNat
    let v : VOp := { use := { ixd := true }, d := some (o.d.toNat, 1), extra := ctlNames o.n.toNat c.mask }
    let outs := c.lanesOut t v p (fun x => one x (match o.n.toNat with
      | 2 => c.readLstat s x.lane
      | 3 => x.rng
      | 7 => BitVec.ofNat 32 x.lane
      | 9 => BitVec.ofNat 32 (c.w.id.w * c.w.width + x.lane)
      | _ => c.ctl s o.n.toNat))
    c.VecOk t v p outs → exec (.mfcv o) s = .next (t.afterVec c o.sw v p outs)) ∧
  ∀ (s : State) (c : Cx), s.cx = some c →
    (∀ o : FDab, ({ m := false, z := false, ixa := true : XpUse }).ok c.xp = true → ∀ a,
      c.resolve 1 c.mask (if c.xp.j then some (c.readX s c.xp.x.toNat) else none) o.a.toNat 1 = .ok a →
      let lane := (c.imm (o.b.setWidth 32)).toNat
      (lane < c.w.width →
        c.free s (if c.xp.j then [.x c.xp.x.toNat] else []) → c.free s [.v a (laneBit lane), .s o.d.toNat] →
        exec (.movSv o) s = .next ((s.afterS c 2 [(o.d.toNat, c.readV s a lane)]).closeGroup c o.sw .next)) ∧
      (c.w.width ≤ lane → exec (.movSv o) s = .next (s.raise c { cause := 0x01 }))) ∧
    (∀ o : FMfc, c.neutral → c.free s (.s o.d.toNat :: ctlNames o.n.toNat 0) →
      exec (.mfc o) s = .next (((s.latch c o.n.toNat).afterS c 4 [(o.d.toNat, c.ctl s o.n.toNat)]).closeGroup c o.sw .next)) ∧
    (∀ o : FMtc,
      let v := c.readS s o.a.toNat
      let sets (n : Nat) (ok : Prop) (t : State) : Prop := o.n.toNat = n → c.neutral → c.free s (.s o.a.toNat :: ctlNames n 0) →
        (ok → exec (.mtc o) s = .next (t.closeGroup c o.sw .next)) ∧ (¬ ok → exec (.mtc o) s = .next (s.raise c { cause := 0x01 }))
      sets 0 (partOk c.w.id.wide v = true) (s.result c 4 [.part] [.part v]) ∧
      sets 1 (fmodeOk v = true) (s.result c 4 [.fmode] [.fmode v]) ∧
      (bits v.toNat 7 4 ≠ 15 → sets 4 (v >>> 8 = 0) (s.result c 4 [.kdef] [.kdef v])) ∧
      sets 16 (c.w.hnd.on = true ∧ v &&& 3 = 0) (s.result c 4 [.epc false] [.epc false v]) ∧
      sets 17 (c.w.hnd.on = true) (s.result c 4 [.epc true] [.epc true v]) ∧
      (∀ p, o.n.toNat = 2 ∨ o.n.toNat = 3 →
        c.prep s { use := { z := false, ixa := true }, a := some (o.a.toNat, 1), extra := ctlNames o.n.toNat c.mask } = .ok p →
        let vals := (lanesOf p.act).map (fun i => (i, c.readV s p.a i))
        (o.n.toNat = 3 → exec (.mtc o) s = .next ((s.modWarp c.uid (fun w =>
          { w with ctl := { w.ctl with srng := vals.foldl (fun m q => m.set q.1 q.2) w.ctl.srng } })).closeGroup c o.sw .next)) ∧
        (o.n.toNat = 2 → (∀ q ∈ vals, lstatOk q.2 = true) → vals ≠ [] →
          exec (.mtc o) s = .next ((s.result c 4 [.lstat p.act] [.lstat vals]).closeGroup c o.sw .next)) ∧
        (o.n.toNat = 2 → (∃ q ∈ vals, lstatOk q.2 = false) → exec (.mtc o) s = .next (s.raise c { cause := 0x01 }))) ∧
      (o.n.toNat = 4 → c.neutral → c.free s (.s o.a.toNat :: ctlNames 4 0) → v >>> 8 = 0 → bits v.toNat 7 4 = 15 →
        exec (.mtc o) s = .next (s.raise c { cause := 0x0B })) ∧
      (o.n.toNat ∉ [0, 1, 2, 3, 4, 16, 17] → c.neutral → c.free s (.s o.a.toNat :: ctlNames o.n.toNat 0) →
        exec (.mtc o) s = .next (s.raise c { cause := 0x01 }))) ∧
    (∀ (o : FXset), c.neutral →
      c.free s ([.s o.a.toNat, .x o.x.toNat] ++ (if o.g then [.l o.l.toNat] else [])) →
      let v := c.readS s o.a.toNat
      let ring := bits (c.readL s o.l.toNat).toNat 23 16
      (v &&& 0x7F000000 = 0 → exec (.xset o) s = .next ((s.result c 2 [.x o.x.toNat] [.x o.x.toNat
        ((v &&& 0xFFFFFF00) ||| BitVec.ofNat 32 (if o.g then (v.toNat + ring) % 256 else v.toNat % 256))]).closeGroup
          c o.sw .next)) ∧
      (v &&& 0x7F000000 ≠ 0 → exec (.xset o) s = .next (s.raise c { cause := 0x01 })))

/-- VRDI and VWRI (R105, R161): a lane reads or writes the V register that it indexes; the lowest lane whose index fails is named,
and the register it reaches for. -/
def Obligations.IndexedRegisterWords : Prop := ∀ (s : State) (c : Cx), s.cx = some c →
  (∀ (o : FDa) (p : Prep),
    let v : VOp := { use := { xsel := true }, d := some (o.d.toNat, 1), a := some (o.a.toNat, 1), extra := [.x c.xp.x.toNat] }
    let reg (i : Nat) : Nat := (c.dynReg (c.readX s c.xp.x.toNat) (c.readV s p.a i)).1
    let bad (i : Nat) : Bool := (c.dynReg (c.readX s c.xp.x.toNat) (c.readV s p.a i)).2
    let outs : List (Nat × LaneOut) :=
      (lanesOf p.act).map (fun i => (i, { ws := [c.readV s (reg i) i], rng := c.w.ctl.srng.getD i 0 }))
    c.prep s v = .ok p →
    ((∀ i ∈ lanesOf p.act, bad i = false) → c.free s ((lanesOf p.act).map (fun i => .v (reg i) (laneBit i))) →
      exec (.vrdi o) s = .next (s.afterVec c o.sw v p outs)) ∧
    (∀ i l, (lanesOf p.act).filter bad = i :: l →
      let m := maskOf (i :: l)
      exec (.vrdi o) s = .next (s.raise c { cause := 0x05, info1 := BitVec.ofNat 32 (256 + reg i % 256),
                                            info2 := m.setWidth 32, info3 := m.extractLsb' 32 32 }))) ∧
  (∀ (o : FAb) (p : Prep),
    let reg (i : Nat) : Nat := (c.dynReg (c.readX s c.xp.x.toNat) (c.readV s p.a i)).1
    let bad (i : Nat) : Bool := (c.dynReg (c.readX s c.xp.x.toNat) (c.readV s p.a i)).2
    c.prep s { use := { z := false, xsel := true }, a := some (o.a.toNat, 1), b := some (o.b.toNat, 1), extra := [.x c.xp.x.toNat] } =
      .ok p →
    ((∀ i ∈ lanesOf p.act, bad i = false) →
      c.free s ((lanesOf p.act).map (fun i => .v (reg i) (laneBit i))) →
      c.bWrites s ((lanesOf p.act).map reg) p.act = .ok () →
      exec (.vwri o) s = .next ((s.result c 4 ((lanesOf p.act).map (fun i => .v (reg i) (laneBit i)))
        ((lanesOf p.act).map (fun i => .v (reg i) [(i, c.readV s p.b i)]))).closeGroup c o.sw .next)) ∧
    (∀ i l, (lanesOf p.act).filter bad = i :: l →
      let m := maskOf (i :: l)
      exec (.vwri o) s = .next (s.raise c { cause := 0x05, info1 := BitVec.ofNat 32 (256 + reg i % 256),
                                            info2 := m.setWidth 32, info3 := m.extractLsb' 32 32 })))

/-- LQ (R116, R117, R163 to R165): decoding two weights, the dot product, and the table write in progress for 32 core clocks
with the highest lane winning. Of a pair number above 7 the manual states no result (log 10: a free value). -/
def Obligations.CodebookWords : Prop := (∀ o : FDab,
    VecRule (.lqdec o) o.sw { VOp.dab o { ixd := true, ixa := true, ixb := true } false 8 with extra := [.table] }
      (fun c s _ x =>
        let h (j : Nat) : Nat := (lqRound .bf16 {} 0 (lqWeight (c.magEntry s) x.a0 j) 0).v
        let n := x.b0.toNat % 16
        { ws := if n < 8 then [BitVec.ofNat 32 (h (2 * n) + 65536 * h (2 * n + 1))]
                else [BitVec.ofNat 32 (Config.pick s.tick (6000 + x.lane))]
          rng := x.rng }) ∧
    VecRule (.lqdot o) o.sw
      { VOp.dab o { ixd := true, ixa := true, ixb := true, rnd := true, c := true, sat := true } true 8 with
        b := some (o.b.toNat, 8), fb := some .bf16, fc := some .f32, float := true, extra := [.table] }
      (fun c s p x =>
        let xs := (x.b.flatMap (subs .bf16)).map (ftziBits .bf16 p.env)
        let ws := (List.range 16).map (lqWeight (c.magEntry s) x.a0)
        let cc := ftziBits .f32 p.env x.c.toNat
        let vs := xs.map (unpack .bf16)
        fone (sumRes .f32 p.env x.rng (xs.map (fun v => (Fmt.bf16, v)) ++ [(.f32, cc)]) (anyInv ws vs)
          (prods ws vs ++ [unpack .f32 cc])))) ∧
  ∀ (s : State) (c : Cx), s.cx = some c → ∀ (o : FAb) (p : Prep),
    c.prep s { use := { z := false }, a := some (o.a.toNat, 1), b := some (o.b.toNat, 1), extra := [.table] } = .ok p →
    let ws : KMap Word := (lanesOf p.act).foldl (fun m i => m.set ((c.readV s p.a i).toNat % 256) (c.readV s p.b i)) []
    ∃ t : State, exec (.lqtbl o) s = .next (t.closeGroup c o.sw .next) ∧
      (t.core c.core).lq =
        (s.core c.core).lq ++ [{ id := s.fresh, uid := c.uid, due := (s.core c.core).cyc + c.clocks 32, writes := ws }] ∧
      (t.core c.core).mag = (s.core c.core).mag ∧ t.bag = s.bag ++ [.lqtblComplete c.core s.fresh]

/-! The key engine. -/

/-- KSCOPE, KDEF, KFORK, KJOIN, KWAIT and KPOLL (R184, R186 to R191, R194): each with its conditions on the operands and the
rings; K15 as a produce key is KEY_ALL_PRODUCE. -/
def Obligations.KeyWords : Prop := ∀ (s : State) (c : Cx), s.bare c →
  (∀ o : FKscope,
    (∀ sc, scopeOfCode (c.imm (o.o.setWidth 32)).toNat = some sc → o.d ≠ 0 → o.d ≠ 15 → (c.w.key o.d.toNat).drained = true →
      exec (.kscope o) s = .next ((s.modWarp c.uid (fun w => w.setKey o.d.toNat { w.key o.d.toNat with scope := sc })).closeGroup
        c o.sw .next)) ∧
    (5 < (c.imm (o.o.setWidth 32)).toNat ∨ o.d = 0 ∨ o.d = 15 → exec (.kscope o) s = .next (s.raise c { cause := 0x01 }))) ∧
  (∀ o : FKdef,
    (o.p ≠ 15 → (c.w.id.mode = .interlocked → c.free s [.kdef]) →
      exec (.kdef o) s = .next ((s.modWarp c.uid (fun w =>
        { w with ctl := { w.ctl with kdef := BitVec.ofNat 32 (16 * o.p.toNat + o.c.toNat) }
                 iss := { w.iss with outstanding := w.iss.outstanding.map Result.noKdef } })).closeGroup c o.sw .next)) ∧
    (o.p = 15 → exec (.kdef o) s = .next (s.raise c { cause := 0x0B }))) ∧
  (∀ o : FKdef,
    (∀ d s1, o.p ≠ 15 → o.p ≠ 0 → c.consume s o.c.toNat = .ok (d, s1) → exec (.kfork o) s =
      .next ((s1.modWarp c.uid (fun w => w.setKey o.p.toNat { w.key o.p.toNat with inh := d })).closeGroup c o.sw .next)) ∧
    (∀ d s1, o.p = 0 → c.consume s o.c.toNat = .ok (d, s1) → exec (.kfork o) s = .next (s1.closeGroup c o.sw .next)) ∧
    (o.p = 15 → exec (.kfork o) s = .next (s.raise c { cause := 0x0B }))) ∧
  (∀ o : FKjoin,
    (∀ da wa db wb d w, o.d ≠ 15 → o.d ≠ 0 → c.w.consume (s.lates c.uid) o.a.toNat = some (da, wa) →
      wa.consume (s.lates c.uid) o.b.toNat = some (db, wb) → wb.merge (s.lates c.uid) da db = some (d, w) → exec (.kjoin o) s =
        .next ((s.putWarp c.uid (w.setKey o.d.toNat { w.key o.d.toNat with inh := d })).closeGroup c o.sw .next)) ∧
    (∀ da wa db wb d w, o.d = 0 → c.w.consume (s.lates c.uid) o.a.toNat = some (da, wa) → wa.consume (s.lates c.uid) o.b.toNat = some (db, wb) →
      wb.merge (s.lates c.uid) da db = some (d, w) → exec (.kjoin o) s = .next ((s.putWarp c.uid w).closeGroup c o.sw .next)) ∧
    (o.d = 15 → exec (.kjoin o) s = .next (s.raise c { cause := 0x0B }))) ∧
  (∀ (o : FKwait) d s1, c.consume s o.c.toNat = .ok (d, s1) →
    (s1.depOk c.uid d = true → (s1.warp c.uid).due (c.w.covers o.c.toNat) = none →
      exec (.kwait o) s = .next (s1.closeGroup c o.sw .next)) ∧
    (s1.depOk c.uid d = false → exec (.kwait o) s = .next (s1.parkWarp c.uid .keyWait))) ∧
  (∀ o : FKs, c.w.due (fun r => c.w.covers o.k.toNat r) = none → c.free s [.s o.s.toNat] → exec (.kpoll o) s =
    .next ((s.afterS c 4 [(o.s.toNat, if c.w.pollOk o.k.toNat then 1 else 0)]).closeGroup c o.sw .next))

/-- KSEND and KRECV (R181, R182, R192, R193): a chime with its name, tag and dependence joins the send queue, a claim for the S
pair joins the claims; with four chimes or eight claims waiting the word parks. -/
def Obligations.ChimeWords : Prop := ∀ (s : State) (c : Cx), s.bare c →
  (∀ o : FKsend, o.s.toNat ≤ 61 → o.p ≠ 15 → c.free s [.s o.s.toNat, .s (o.s.toNat + 1), .s (o.s.toNat + 2)] →
    (4 ≤ c.w.kf.sendq.length → exec (.ksend o) s = .next (s.parkWarp c.uid .keyWait)) ∧
    (∀ d m s1, c.w.kf.sendq.length < 4 → c.keys s o.c.toNat o.p.toNat = .ok (d, m, s1) →
      let t := c.readS s o.s.toNat
      let g := (c.readS s (o.s.toNat + 1)).toNat
      let ch : Chime := { uid := c.uid, ctx := c.ctx, target := t, grid := if g = 0 then c.w.id.grid else g
                          tag := c.readS s (o.s.toNat + 2), sender := s.chimeName c.w, dep := d, mem := some m
                          remote := !t.getLsbD 21 && t.toNat / 2 ^ 22 != s.fab.device }
      exec (.ksend o) s = .next ((((s1.outward c.core c.ctx [o.c.toNat, o.p.toNat, t.toNat, g, ch.tag.toNat]).modWarp c.uid (fun w => { w with kf := { w.kf with sendq := w.kf.sendq ++ [ch] } })).post
        (.chimeLeave c.uid)).closeGroup c o.sw .next))) ∧
  (∀ o : FKsend, 61 < o.s.toNat → exec (.ksend o) s = .next (s.raise c { cause := 0x01 })) ∧
  (∀ o : FKs, o.k ≠ 15 → c.free s [.s o.s.toNat, .s (o.s.toNat + 1)] →
    (8 ≤ c.w.kf.claims.length → exec (.krecv o) s = .next (s.parkWarp c.uid .keyWait)) ∧
    (∀ m s1, c.w.kf.claims.length < 8 → c.produce s o.k.toNat true = .ok (m, s1) →
      let cl : Claim := { id := m, sd := o.s.toNat, mem := some m }
      let s2 := s1.modWarp c.uid (fun w => { w with kf := { w.kf with claims := w.kf.claims ++ [cl] } })
      exec (.krecv o) s = .next ((((s2.statusPend c.uid (.claim m) (.s o.s.toNat)).statusPend c.uid (.claim m)
        (.s (o.s.toNat + 1))).serveClaims c.uid 8).closeGroup c o.sw .next)))

/-- Generations (R166, R170, R171): a ring of four slots with exactly one OPEN keeps them, sealing an OPEN generation without
members changes nothing, and sealing one with members leaves it SEALED beside a new OPEN one, empty, with the next number. -/
def Obligations.SealedGenerations : Prop := ∀ (x y : Key), x.ring.length = 4 →
  (x.ring.filter (fun g => g.st == .opened)).length = 1 → x.seal = some y →
  y.ring.length = 4 ∧ (y.ring.filter (fun g => g.st == .opened)).length = 1 ∧ y.inh = x.inh ∧ y.scope = x.scope ∧
  (x.open1.2.members = 0 → x.open1.2.claims = 0 → y = x) ∧
  (x.open1.2.members ≠ 0 ∨ x.open1.2.claims ≠ 0 →
    y.seq = x.seq + 1 ∧ { x.open1.2 with st := .sealed } ∈ y.ring ∧ y.open1.2.members = 0 ∧ y.open1.2.claims = 0)

/-! Memory words. -/

/-- Loads (R176, R195, R202, R218, R221, R222): with the registers valid, the keys taken, every lane's address passed by the
checks and room for its units, a load leaves its destination outstanding and one unit of each lane in flight, sixteen bytes as
two; no byte of memory changes. -/
def Obligations.LoadWords : Prop := ∀ (o : FMem) (s : State) (c : Cx), s.bare c → ∀ d a oks dep m s1,
  let ld (i : Instr) (near signed : Bool) (n : Nat) : Prop :=
    let k := (n + 3) / 4
    let ka := if near then 1 else 2
    let found := if near then c.nearLanes s n (c.addresses s near a) else c.globalLanes s .load n (c.addresses s near a)
    c.resolve 0 c.mask none o.d.toNat k = .ok d → c.resolve 1 c.mask none o.a.toNat ka = .ok a →
    c.free s (vNames a ka c.mask ++ vNames d k c.mask) → c.uncaptured s (List.range' d k) →
    c.check s .load o.p.toNat n found = .ok oks → oks ≠ [] → c.keys s o.c.toNat o.p.toNat = .ok (dep, m, s1) →
    let s2 := c.settleLanes s1 (!near) oks
    let op : Op := { uid := c.uid, ctx := c.ctx, core := c.core, team := c.w.id.team, kind := .load signed, d := d, lanes := c.mask
                     word := s1.word, mem := some m, key := o.p.toNat, kc := o.c.toNat, near := near
                     seq := ((s1.warp c.uid).key o.p.toNat).seq, dep := dep, bypass := c.wide o.c.toNat, cache := c.g.cache
                     units := oks.flatMap (fun p => unitsOf p.1 n p.2.1 p.2.2 []) }
    s2.room c op →
    ∃ (t : State) (e : Nat) (b : Bool), exec i s = .next (t.closeGroup c o.sw .next) ∧
      t.ops.get? s2.fresh = some { op with res := some (s2.fresh + 1), entry := e, released := b } ∧
      (∀ j, j ≠ s2.fresh → t.ops.get? j = s2.ops.get? j) ∧ t.mem = s2.mem ∧ t.teams = s2.teams ∧
      (t.warp c.uid).iss.outstanding = (s2.warp c.uid).iss.outstanding ++
        [{ id := s2.fresh + 1, names := vNames d k c.mask, ready := false, word := s2.word }] ∧
      t.bag = s2.bag ++ op.units.zipIdx.map (fun p => unitEvent s2.fresh p.2 (.load signed) p.1.tgt)
  ld (.ldB8 o) false false 1 ∧ ld (.ldB16 o) false false 2 ∧ ld (.ldB32 o) false false 4 ∧ ld (.ldB64 o) false false 8 ∧
  ld (.ldB128 o) false false 16 ∧ ld (.ldI8 o) false true 1 ∧ ld (.ldI16 o) false true 2 ∧
  ld (.ldnB8 o) true false 1 ∧ ld (.ldnB16 o) true false 2 ∧ ld (.ldnB32 o) true false 4 ∧ ld (.ldnB64 o) true false 8 ∧
  ld (.ldnB128 o) true false 16 ∧ ld (.ldnI8 o) true true 1 ∧ ld (.ldnI16 o) true true 2

/-- Stores and atomics (R180, R186, R195, R202, R204, R220, R223 to R225): with the registers valid, the keys taken, every lane's
address passed by the checks and room for its units, the operation is in flight with the bytes read at issue; no byte of
memory is stored to yet. An atomic leaves its destination outstanding and takes its keys from KDEF. -/
def Obligations.StoreAndAtomicWords : Prop := ∀ (s : State) (c : Cx), s.bare c → ∀ d a b oks dep m s1,
  (∀ o : FMem,
    let st (i : Instr) (near : Bool) (n : Nat) : Prop :=
      let k := (n + 3) / 4
      let ka := if near then 1 else 2
      c.resolve 0 c.mask none o.d.toNat k = .ok d → c.resolve 1 c.mask none o.a.toNat ka = .ok a →
      c.free s (vNames a ka c.mask ++ vNames d k c.mask) →
      c.check s .store o.p.toNat n (c.lanes s near .store n (c.addresses s near a)) = .ok oks →
      c.keys s o.c.toNat o.p.toNat = .ok (dep, m, s1) →
      let s2 := c.settleLanes s1 (!near) oks
      let op : Op := { c.op s1 .store o.c.toNat o.p.toNat dep m with
        near := near
        units := highestWins (oks.flatMap (fun p => unitsOf p.1 n p.2.1 p.2.2
          ((bytesOfWords ((List.range' d k).map (fun r => c.readV s r p.1))).take n))) }
      s2.room c op →
      ∃ t : State, c.launchOp s2 op [] = .ok t ∧ exec i s = .next (t.closeGroup c o.sw .next) ∧ t.mem = s2.mem ∧ t.teams = s2.teams
    st (.stB8 o) false 1 ∧ st (.stB16 o) false 2 ∧ st (.stB32 o) false 4 ∧ st (.stB64 o) false 8 ∧ st (.stB128 o) false 16 ∧
    st (.stnB8 o) true 1 ∧ st (.stnB16 o) true 2 ∧ st (.stnB32 o) true 4 ∧ st (.stnB64 o) true 8 ∧ st (.stnB128 o) true 16) ∧
  (∀ o : FDab,
    let at1 (i : Instr) (near : Bool) (code n kb : Nat) : Prop :=
      let k := n / 4
      let ka := if near then 1 else 2
      let kd := (c.readKdef s).toNat
      c.resolve 0 c.mask none o.d.toNat k = .ok d → c.resolve 1 c.mask none o.a.toNat ka = .ok a →
      c.resolve 2 c.mask none o.b.toNat kb = .ok b →
      c.free s (vNames a ka c.mask ++ vNames b kb c.mask ++ vNames d k c.mask ++ [.kdef]) → c.uncaptured s (List.range' d k) →
      c.check s .atomic (kd / 16 % 16) n (c.lanes s near .atomic n (c.addresses s near a)) = .ok oks →
      c.keys s (kd % 16) (kd / 16 % 16) = .ok (dep, m, s1) →
      let s2 := c.settleLanes s1 (!near) oks
      let op : Op := { c.op s1 (.atomic code) (kd % 16) (kd / 16 % 16) dep m with
        d := d, near := near
        units := oks.map (fun p => { lane := p.1, tgt := p.2.2, size := n, va := p.2.1
                                     data := bytesOfWords ((List.range' b kb).map (fun r => c.readV s r p.1)) }) }
      s2.room c op →
      ∃ t : State, c.launchOp s2 op (vNames d k c.mask) = .ok t ∧ exec i s = .next (t.closeGroup c o.sw .next) ∧
        t.mem = s2.mem ∧ t.teams = s2.teams
    let both (i j : Instr) (code n kb : Nat) : Prop := at1 i false code n kb ∧ at1 j true code n kb
    both (.atomAddI32 o) (.atomnAddI32 o) 0 4 1 ∧ both (.atomMinI32 o) (.atomnMinI32 o) 1 4 1 ∧
    both (.atomMaxI32 o) (.atomnMaxI32 o) 2 4 1 ∧ both (.atomMinN32 o) (.atomnMinN32 o) 3 4 1 ∧
    both (.atomMaxN32 o) (.atomnMaxN32 o) 4 4 1 ∧ both (.atomAnd o) (.atomnAnd o) 5 4 1 ∧ both (.atomOr o) (.atomnOr o) 6 4 1 ∧
    both (.atomXor o) (.atomnXor o) 7 4 1 ∧ both (.atomXchg o) (.atomnXchg o) 8 4 1 ∧ both (.atomCas o) (.atomnCas o) 9 4 2 ∧
    both (.atomAddF32 o) (.atomnAddF32 o) 10 4 1 ∧ both (.atomAddBf16x2 o) (.atomnAddBf16x2 o) 11 4 1 ∧
    both (.atomIncw o) (.atomnIncw o) 12 4 1 ∧ both (.atomAddI64 o) (.atomnAddI64 o) 13 8 2 ∧
    both (.atomCas64 o) (.atomnCas64 o) 14 8 4 ∧ both (.atomXchg64 o) (.atomnXchg64 o) 15 8 2)

/-- What an atomic leaves at its location, from the old bytes and its operands (R224): sums, minima, maxima, logic, exchange,
compare and exchange, and the wrapping increment. The floating sums are the exact sums rounded to nearest even, with subnormals
kept and the default NaN (R118, R119, R126), half by half in BF16; the sign of a zero sum is the model's reading (log 14). -/
def Obligations.AtomicValues : Prop := ∀ x y z : Word,
  let f (code : Nat) : Nat := leNat (atomicNew code (leBytes x.toNat 4) (leBytes y.toNat 4 ++ leBytes z.toNat 4))
  f 0 = (x + y).toNat ∧ f 1 = (if y.toInt < x.toInt then y else x).toNat ∧ f 2 = (if x.toInt < y.toInt then y else x).toNat ∧
  f 3 = min x.toNat y.toNat ∧ f 4 = max x.toNat y.toNat ∧ f 5 = (x &&& y).toNat ∧ f 6 = (x ||| y).toNat ∧
  f 7 = (x ^^^ y).toNat ∧ f 8 = y.toNat ∧ f 9 = (if x = y then z else x).toNat ∧
  f 12 = (if y.toNat ≤ x.toNat then 0 else x.toNat + 1) ∧
  (∃ r : FRes, f 10 = r.v ∧ SumOf .f32 {} 0 [(.f32, x.toNat), (.f32, y.toNat)] false
    [unpack .f32 x.toNat, unpack .f32 y.toNat] r) ∧
  (∀ h < 2, ∃ r : FRes, f 11 / 2 ^ (16 * h) % 2 ^ 16 = r.v ∧
    let a := x.toNat / 2 ^ (16 * h) % 2 ^ 16
    let b := y.toNat / 2 ^ (16 * h) % 2 ^ 16
    SumOf .bf16 {} 0 [(.bf16, a), (.bf16, b)] false [unpack .bf16 a, unpack .bf16 b] r) ∧
  ∀ v w q : BitVec 64,
    let g (code : Nat) : Nat := leNat (atomicNew code (leBytes v.toNat 8) (leBytes w.toNat 8 ++ leBytes q.toNat 8))
    g 13 = (v + w).toNat ∧ g 14 = (if v = w then q else v).toNat ∧ g 15 = w.toNat

/-- LDN.PRES, PREF and SLICE (R219, R222, R387 to R391): each issues with its registers valid, its keys taken and its addresses
passed by the checks. PREF asks for the lines of the lanes whose addresses pass, and nothing else: a lane that does not pass is
left out and raises nothing. -/
def Obligations.LineWords : Prop := ∀ (s : State) (c : Cx), s.bare c → ∀ d a b e oks dep m s1,
  let kd := (c.readKdef s).toNat
  let kc := kd % 16
  let kp := kd / 16 % 16
  (∀ (o : FMem) (pos : Nat → Nat × Nat), c.resolve 0 c.mask none o.d.toNat 1 = .ok d → c.resolve 1 c.mask none o.a.toNat 1 = .ok a →
    c.free s [.v a c.mask, .v d c.mask] → c.uncaptured s [d] →
    (∀ p ∈ c.addresses s true a, s.nearAt c.w.id.team (p.2.setWidth 32) = .at (pos p.1).1 (pos p.1).2 ∧
      (s.team (pos p.1).1).zone (pos p.1).2 1 = .alloc) →
    c.keys s o.c.toNat o.p.toNat = .ok (dep, m, s1) →
    let op : Op := { c.op s1 .pres o.c.toNat o.p.toNat dep m with
      d := d, near := true
      units := (c.addresses s true a).map (fun p => { lane := p.1, tgt := .near (pos p.1).1 (pos p.1).2, size := 1, va := p.2 }) }
    s1.room c op →
    ∃ t : State, c.launchOp s1 op [.v d c.mask] = .ok t ∧ exec (.ldnPres o) s = .next (t.closeGroup c o.sw .next)) ∧
  (∀ o : FPref,
    let ok : List (Nat × Addr × Target) := if (c.w.badReg none o.a.toNat 2).isSome then []
      else okLanes (c.globalLanes s .load 1 (c.addresses s false o.a.toNat))
    let lines := (ok.filterMap (fun p => match p.2.2 with | .dev pa => some (lineOf pa) | _ => none)).eraseDups
    let op : Op := { c.op s .pref 0 0 {} 0 with mem := none, units := lines.map (fun l => { lane := 0, tgt := .dev l, size := 0 }) }
    (lines = [] → exec (.pref o) s = .next (s.closeGroup c o.sw .next)) ∧
    (lines ≠ [] → s.room c op → ∃ t : State, c.launchOp s op [] = .ok t ∧ exec (.pref o) s = .next (t.closeGroup c o.sw .next) ∧
      t.mem = s.mem ∧ t.warps = s.warps ∧ t.teams = s.teams)) ∧
  (∀ o : FLdl, c.resolve 0 c.mask none o.d.toNat 1 = .ok d → c.resolve 1 c.mask none o.a.toNat 2 = .ok a →
    c.free s (vNames a 2 (laneBit c.lane) ++ [.v d c.mask, .kdef]) → c.uncaptured s [d] →
    c.check s .atomic kp 128 (c.sliceLanes s .atomic
      [(c.lane, (c.readV s (a + 1) c.lane ++ c.readV s a c.lane) + c.g.ofs)]) = .ok oks →
    c.keys s kc kp = .ok (dep, m, s1) →
    let op : Op := { c.op s1 (.ldl o.l.toNat) kc kp dep m with
      d := d, bypass := true, units := oks.flatMap (fun q => unitsOf q.1 128 q.2.1 q.2.2 []) }
    (c.settleLanes s1 true oks).room c op →
    ∃ t : State, c.launchOp (c.settleLanes s1 true oks) op [.v d c.mask] = .ok t ∧
      exec (.sliceLdl o) s = .next (t.closeGroup c o.sw .next)) ∧
  (∀ o : FCstm, c.resolve 0 c.mask none o.d.toNat 1 = .ok d → c.resolve 1 c.mask none o.a.toNat 1 = .ok a →
    c.free s [.v a (laneBit c.lane), .v d c.mask, .kdef] → c.uncaptured s [d] →
    let ks := (List.range 4).filter (fun k => o.m.getLsbD k)
    let base := c.readV s a c.lane + c.g.ofs.setWidth 32
    c.check s .atomic kp 128 (c.blockLanes s c.lane base ks) = .ok oks →
    s.ownAtomic c.uid c.lane ((oks.drop 1).map (fun q => { lane := c.lane, tgt := q.2.2, size := 128 })) = false →
    c.keys s kc kp = .ok (dep, m, s1) →
    let s2 := c.settleLanes s1 false (oks.drop 1)
    s2.depOk c.uid dep = true ∨ (s2.tickets c.uid).any dep.same = true ∨ (s2.tickets c.uid).length < 16 →
    ∃ t : State, exec (.sliceCstm o) s = .next (t.closeGroup c o.sw .next) ∧ t.mem = s1.mem ∧
      (∀ k ∈ ks, k < c.w.links.length → nth (t.warp c.uid).links k {} = {}) ∧
      (c.w.commitBits ks ≠ 0 ∨ ks = [] → t.ops = s1.ops)) ∧
  (∀ o : FAb, c.resolve 1 c.mask none o.a.toNat 2 = .ok a → c.resolve 2 c.mask none o.b.toNat 1 = .ok b →
    c.free s (vNames a 2 c.mask ++ [.v b c.mask, .kdef]) →
    c.check s .store kp 4 (c.sliceLanes s .store (c.addresses s false a)) = .ok oks →
    c.keys s kc kp = .ok (dep, m, s1) →
    let op : Op := { c.op s1 .redI kc kp dep m with
      units := oks.map (fun p => { lane := p.1, tgt := p.2.2, size := 4, va := p.2.1, data := bytesOfWords [c.readV s b p.1] }) }
    (c.settleLanes s1 true oks).room c op →
    ∃ t : State, c.launchOp (c.settleLanes s1 true oks) op [] = .ok t ∧ exec (.sliceRedlI32 o) s = .next (t.closeGroup c o.sw .next)) ∧
  (∀ o : FDab, c.resolve 0 c.mask none o.d.toNat 1 = .ok e → c.resolve 1 c.mask none o.a.toNat 2 = .ok a →
    c.resolve 2 c.mask none o.b.toNat 1 = .ok b →
    c.free s ([.v e c.mask] ++ vNames a 2 c.mask ++ [.v b c.mask, .kdef]) →
    c.check s .store kp 4 (c.sliceLanes s .store (c.addresses s false a)) = .ok oks →
    c.keys s kc kp = .ok (dep, m, s1) →
    let op : Op := { c.op s1 .redA kc kp dep m with
      units := oks.map (fun p => { lane := p.1, tgt := p.2.2, size := 4, va := p.2.1, data := bytesOfWords [c.readV s b p.1]
                                   data2 := bytesOfWords [c.readV s e p.1] }) }
    (c.settleLanes s1 true oks).room c op →
    ∃ t : State, c.launchOp (c.settleLanes s1 true oks) op [] = .ok t ∧ exec (.sliceRedlAln o) s = .next (t.closeGroup c o.sw .next))

/-! The Weave and the copy engine. -/

/-- PUSH, POP and PPEEK (R105, R228, R233, R234, R236, R244, R245): a push on a connected port reserves the tail of every active
lane's queue at the peer, and on a lane port that of the queue of the lane that receives, in the warp itself; a pop takes the visible
head of every active lane's own queue, or none; a peek leaves them. An unbound port traps, and so does an orphaned one, with the
cause it recorded; a pop of it is served while every active lane holds a visible entry, and else names the lowest lane without one
(the model's reading, log 85). -/
def Obligations.PushAndPop : Prop := ∀ (s : State) (c : Cx), s.bare c → lanesOf c.mask ≠ [] →
  let clean (p : Nat) : Prop := ∀ l ∈ lanesOf c.mask, ∀ v, ((c.w.port p).lane l).head? = some v → v.vis = true → v.bad = false
  let lost (i : Instr) (p : Nat) (fails : Lanes) : Prop :=
    ((c.w.port p).gone = true → exec i s = .next (s.raise c
      { cause := 0x0A, info1 := BitVec.ofNat 32 (lowest fails), info2 := (c.w.port p).target, info3 := 0 })) ∧
    ((c.w.port p).gone = false → exec i s = .next (s.raise c
      { cause := 0x0C, info1 := BitVec.ofNat 32 p, info2 := c.mask.setWidth 32, info3 := c.mask.extractLsb' 32 32 }))
  (∀ (o : FPush) a v q d s1, 2 ≤ o.p.toNat → (s.core c.core).replay = none → c.resolve 1 c.mask none o.v.toNat 1 = .ok a →
    c.free s [.v a c.mask] → (c.w.port o.p.toNat).st = .connected → s.peerOf c.w (c.w.port o.p.toNat) = some (v, q) →
    (∀ l ∈ lanesOf c.mask, (((s.warp v).port (oppPort o.p.toNat)).lane l).length < portCap o.p.toNat) →
    c.consume s o.c.toNat = .ok (d, s1) → oppPort o.p.toNat < (s1.warp v).ports.length →
    ∃ t : State, exec (.push o) s = .next (t.closeGroup c o.sw .next) ∧ .portValueVisible s1.fresh ∈ t.bag ∧
      (∀ l ∈ lanesOf c.mask, ((t.warp v).port (oppPort o.p.toNat)).lane l =
        ((s1.warp v).port (oppPort o.p.toNat)).lane l ++ [{ tx := s1.fresh, val := c.readV s a l }]) ∧
      (∀ l, l ∉ lanesOf c.mask → ((t.warp v).port (oppPort o.p.toNat)).lane l = ((s1.warp v).port (oppPort o.p.toNat)).lane l)) ∧
  (∀ (o : FPush) a d s1, o.p.toNat < 2 → c.resolve 1 c.mask none o.v.toNat 1 = .ok a → c.free s [.v a c.mask, .part] →
    c.w.id.lanePorts = true →
    let dest (l : Nat) : Nat := laneDest (bits (c.readPart s).toNat 2 0) o.p.toNat l
    let q := oppPort o.p.toNat
    (∀ l ∈ lanesOf c.mask, c.w.live.getLsbD (dest l) = true → ((c.w.port q).lane (dest l)).length < portCap o.p.toNat) →
    c.consume s o.c.toNat = .ok (d, s1) → q < c.w.ports.length →
    ∃ t : State, exec (.push o) s = .next (t.closeGroup c o.sw .next) ∧ .portValueVisible s1.fresh ∈ t.bag ∧
      (∀ l ∈ lanesOf c.mask, c.w.live.getLsbD (dest l) = true → ((t.warp c.uid).port q).lane (dest l) =
        (c.w.port q).lane (dest l) ++ [{ tx := s1.fresh, val := c.readV s a l }]) ∧
      (∀ k, (∀ l ∈ lanesOf c.mask, dest l = k → c.w.live.getLsbD k = false) → ((t.warp c.uid).port q).lane k = (c.w.port q).lane k)) ∧
  (∀ (o : FPush) a, c.resolve 1 c.mask none o.v.toNat 1 = .ok a → c.free s [.v a c.mask] → 2 ≤ o.p.toNat →
    (c.w.port o.p.toNat).st = .orphaned → lost (.push o) o.p.toNat c.mask) ∧
  (∀ o : FPush, ∀ a, c.resolve 1 c.mask none o.v.toNat 1 = .ok a →
    c.free s ([.v a c.mask] ++ (if o.p.toNat < 2 then [.part] else [])) → c.w.portSt o.p.toNat = .unbound →
    exec (.push o) s = .next (s.raise c { cause := 0x0C, info1 := BitVec.ofNat 32 o.p.toNat, info2 := c.mask.setWidth 32,
                                          info3 := c.mask.extractLsb' 32 32 })) ∧
  (∀ (o : FPop) d, c.resolve 0 c.mask none o.d.toNat 1 = .ok d → c.free s [.v d c.mask] → c.uncaptured s [d] →
    clean o.p.toNat → (c.w.portSt o.p.toNat = .connected ∨ c.w.portSt o.p.toNat = .orphaned) → o.p.toNat < c.w.ports.length →
    (∀ l ∈ lanesOf c.mask, 0 < (c.w.port o.p.toNat).ready l) →
    let x := c.w.port o.p.toNat
    let vals := (lanesOf c.mask).map (fun l => (l, ((x.lane l).head?.map (fun v => v.val)).getD 0))
    let r : Result := { id := s.fresh, due := (s.core c.core).cyc + c.clocks 2, names := [.v d c.mask], writes := [.v d vals], word := s.word }
    (∃ t : State, exec (.pop o) s = .next (t.closeGroup c o.sw .next) ∧
      (t.warp c.uid).iss.outstanding = c.w.iss.outstanding ++ [r] ∧
      ∀ l, ((t.warp c.uid).port o.p.toNat).lane l = if l ∈ lanesOf c.mask then (x.lane l).tail else x.lane l) ∧
    (∃ t : State, exec (.ppeek o) s = .next (t.closeGroup c o.sw .next) ∧
      (t.warp c.uid).iss.outstanding = c.w.iss.outstanding ++ [r] ∧ ∀ l, ((t.warp c.uid).port o.p.toNat).lane l = x.lane l)) ∧
  (∀ (o : FPop) d, c.resolve 0 c.mask none o.d.toNat 1 = .ok d → c.free s [.v d c.mask] → c.uncaptured s [d] →
    clean o.p.toNat → (∃ l ∈ lanesOf c.mask, (c.w.port o.p.toNat).ready l = 0) →
    (c.w.portSt o.p.toNat = .connected →
      exec (.pop o) s = .next (s.parkWarp c.uid .portEmpty) ∧ exec (.ppeek o) s = .next (s.parkWarp c.uid .portEmpty)) ∧
    (2 ≤ o.p.toNat → (c.w.port o.p.toNat).st = .orphaned →
      let fails := maskOf ((lanesOf c.mask).filter (fun l => (c.w.port o.p.toNat).ready l = 0))
      lost (.pop o) o.p.toNat fails ∧ lost (.ppeek o) o.p.toNat fails))

/-- PBIND, PUNBIND and PSTAT (R227, R229 to R233, R243, R246, R247): a target that the port reaches is bound, one that it does not
reach is PORT_UNBOUND, unbinding drops the queue and orphans a connected peer, and PSTAT gives each lane its status word. -/
def Obligations.PortBinding : Prop := ∀ (s : State) (c : Cx), s.bare c →
  (∀ o : FPbind, c.free s [.s o.s.toNat] →
    let t := c.readS s o.s.toNat
    let p := o.p.toNat
    let ix := t.toNat / 32 % 2 ^ 16
    let others := (s.warps.filter (fun kv => kv.1 != c.uid && !kv.2.retired && kv.2.id.place.isSome && kv.2.core == c.core &&
      (kv.2.port p).st != .unbound)).length
    ((s.grid c.ctx c.w.id.grid).reach (s.teamIndex c.w) p ≠ some ix → exec (.pbind o) s = .next (s.raise c
      { cause := 0x0C, info1 := BitVec.ofNat 32 p, info2 := c.mask.setWidth 32, info3 := c.mask.extractLsb' 32 32 })) ∧
    (∀ k tm, c.w.id.weave.isSome = true → t >>> 21 = 0 → (s.grid c.ctx c.w.id.grid).reach (s.teamIndex c.w) p = some ix →
      s.teamOf c.ctx c.w.id.grid ix = some (k, tm) → (s.warpIn tm (t.toNat % 32)).isSome = true → (p < 6 ∨ others < 2) →
      ((c.w.port p).st = .unbound ∨ (c.w.port p).st = .orphaned →
        exec (.pbind o) s = .next (((s.dropQueue c.uid p).bindTo c.uid p t).closeGroup c o.sw .next)) ∧
      ((c.w.port p).st = .waiting → exec (.pbind o) s = .next ((s.bindTo c.uid p t).closeGroup c o.sw .next)) ∧
      ((c.w.port p).st = .connected → s.pushesDone c.uid p = true →
        exec (.pbind o) s = .next (((s.unbind c.uid p).bindTo c.uid p t).closeGroup c o.sw .next)))) ∧
  (∀ o : FPort,
    ((c.w.port o.p.toNat).st = .unbound → exec (.punbind o) s = .next (s.closeGroup c o.sw .next)) ∧
    ((c.w.port o.p.toNat).st = .waiting ∨ (c.w.port o.p.toNat).st = .orphaned ∨
      ((c.w.port o.p.toNat).st = .connected ∧ s.pushesDone c.uid o.p.toNat = true) →
      exec (.punbind o) s = .next ((s.unbind c.uid o.p.toNat).closeGroup c o.sw .next)) ∧
    ((c.w.port o.p.toNat).st = .connected → s.pushesDone c.uid o.p.toNat = false →
      exec (.punbind o) s = .next (s.parkWarp c.uid .portFull))) ∧
  (∀ (o : FPop) d, c.resolve 0 c.mask none o.d.toNat 1 = .ok d → c.free s [.v d c.mask] → c.uncaptured s [d] →
    lanesOf c.mask ≠ [] → exec (.pstat o) s = .next (((s.result c 2 [.v d c.mask]
      [.v d ((lanesOf c.mask).map (fun l => (l, c.pstatWord s o.p.toNat l)))]).sampling c.uid (.port o.p.toNat)).closeGroup c o.sw .next))

/-- COPY (R17, R255, R262, R264, R266, R268, R270 to R276): a copy is accepted from its record when the warp and the quad have
room, or the word parks; counters are armed, waited for and read; TCANCEL stops the copies whose status is pending in Vs; CPOLL
reads the committed position. -/
def Obligations.CopyWords : Prop := ∀ (s : State) (c : Cx), s.bare c →
  (∀ (o : FCp) v, c.resolve 0 c.mask none o.v.toNat 1 = .ok v → c.free s [.v v (laneBit c.lane), .s o.n.toNat] →
    c.bWrites s [v] (laneBit c.lane) = .ok () → o.p ≠ 15 →
    let mine := (s.copies.filter (fun kv => kv.2.uid == c.uid)).length
    let posts (i : Instr) (trig : Bool) (room : Prop) : Prop :=
      (∀ words dep m s1, mine < 16 → room → c.nearRecord s (c.readS s o.n.toNat) 64 = .ok words →
        c.keys s o.c.toNat o.p.toNat = .ok (dep, m, s1) →
        let k : Copy := { uid := c.uid, ctx := c.ctx, core := c.core, team := c.w.id.team, lane := c.lane, v := v, rc := words
                          trig := trig, order := s1.fresh, dep := dep, mem := some m, unread := recChunks words }
        let t := ((s1.newId.2.outward c.core c.ctx (o.c.toNat :: o.p.toNat :: words.map BitVec.toNat)).statusPend c.uid (.copy s1.fresh)
          (.v v (laneBit c.lane)))
        exec i s = .next ((t.acceptCopy s1.fresh k).closeGroup c o.sw .next)) ∧
      (16 ≤ mine ∨ ¬ room → exec i s = .next (s.parkWarp c.uid .engine))
    posts (.tcopy o) false (s.copyContexts (c.core / 4) < 32) ∧ posts (.tcopyt o) true (s.triggerSlots (c.core / 4) < 64)) ∧
  (∀ (o : FCp) v id s1, c.resolve 0 c.mask none o.v.toNat 1 = .ok v → c.bWrites s [v] (laneBit c.lane) = .ok () → o.p ≠ 15 →
    s.rcOk c.ctx c.core (c.readS s o.n.toNat).toNat = true →
    let k := BitVec.ofNat 32 (c.readS s o.n.toNat).toNat
    (c.free s [.v v (laneBit c.lane), .s o.n.toNat, .s (o.n.toNat + 1)] →
      c.request s .rcArm v o.c.toNat o.p.toNat [k, c.readS s (o.n.toNat + 1)] = .ok (id, s1) →
      exec (.rcarm o) s = .next ((s1.startReq id State.applyRc).closeGroup c o.sw .next)) ∧
    (c.free s [.v v (laneBit c.lane), .s o.n.toNat] → c.request s .rcWait v o.c.toNat o.p.toNat [k] = .ok (id, s1) →
      exec (.rcwait o) s = .next ((s1.startReq id State.applyRc).closeGroup c o.sw .next))) ∧
  (∀ (o : FVn) v, c.resolve 0 c.mask none o.v.toNat 1 = .ok v →
    (c.free s [.v v c.mask, .s o.n.toNat] → c.uncaptured s [v] →
      let n := (c.readS s o.n.toNat).toNat
      (s.rcOk c.ctx c.core n = true → exec (.rcread o) s = .next (((s.result c 4 [.v v c.mask]
        [.v v ((lanesOf c.mask).map (fun l => (l, BitVec.ofNat 32 (min (s.rc c.core n).count 0xFFFFFF))))]).sampling c.uid
          (.counter c.core n)).closeGroup c o.sw .next)) ∧
      (s.rcOk c.ctx c.core n = false → exec (.rcread o) s = .next (s.raise c
        { cause := 0x08, info1 := 0, info2 := BitVec.ofNat 32 n, info3 := 0 }))) ∧
    (c.free s [.s o.n.toNat] →
      (∀ kv, s.copies.find? (fun kv => kv.2.uid == c.uid && kv.2.v == v && kv.2.lane == c.lane) = some kv →
        exec (.cpoll o) s = .next (((s.afterS c 16 [(o.n.toNat, BitVec.ofNat 32 (min (if kv.2.st = .armed then 0 else kv.2.committed)
          0xFFFFFF))]).sampling c.uid (.copy v c.lane)).closeGroup c o.sw .next)) ∧
      (s.copies.find? (fun kv => kv.2.uid == c.uid && kv.2.v == v && kv.2.lane == c.lane) = none →
        exec (.cpoll o) s = .next (((s.afterS c 16 [(o.n.toNat, 0x80000000)]).sampling c.uid (.copy v c.lane)).closeGroup c o.sw .next)))) ∧
  (∀ (o : FV) v, c.resolve 0 c.mask none o.v.toNat 1 = .ok v →
    let ids := (s.copies.filter (fun kv => kv.2.uid == c.uid && kv.2.v == v && c.mask.getLsbD kv.2.lane)).map Prod.fst
    exec (.tcancel o) s = .next ((ids.foldl (fun s id => s.stopCopy id true (fun k => { k with cancel := true }))
      (c.command s [v, c.mask.toNat])).closeGroup c o.sw .next))

/-! The matrix engine. -/

/-- MXPOST, MXRD, MXWR and MXZERO (R292, R293, R300 to R303): a post whose parameters pass the checks enters the quad's table
with its status pending; the first failing check is MX_PARAM with its word; MXRD and MXWR go to the words of the tiles that
the lanes name; MXZERO asks for its tiles to be cleared. With no lane active MXPOST and MXZERO do nothing. -/
def Obligations.MatrixWords : Prop := ∀ (o : FMx) (s : State) (c : Cx), s.bare c → o.p ≠ 15 →
  let v := o.v.toNat
  let one := laneBit c.lane
  let has (n : Nat) : Prop := ∀ r, v ≤ r → r < v + n → c.w.validV r = true
  let q := quadOf c.core
  (has 9 → (∀ id, c.w.iss.resume ≠ .capture id) →
    let p := c.params s v 8
    let ln := bits (mw p 4) 26 25
    let tile := mxTile p (bits (c.readL s ln).toNat 23 16)
    (c.mask = 0 → exec (.mxpost o) s = .next (s.closeGroup c o.sw .next)) ∧
    (c.mask ≠ 0 → c.free s (vNames v 8 one ++ [.v (v + 8) one]) → c.bWrites s [v + 8] one = .ok () →
      c.free s (if bitAt (mw p 4) 27 then [.l ln] else []) →
      (∀ r i, c.mxCheck s p tile = some (r, i) → exec (.mxpost o) s = .next (s.raise c
        { cause := 0x0E, info1 := BitVec.ofNat 32 (r + i * 2 ^ 8), info2 := nth p i 0, info3 := BitVec.ofNat 32 c.lane })) ∧
      (c.mxCheck s p tile = none → (8 ≤ s.mxPending c.uid ∨ 32 ≤ s.mxTable q) →
        exec (.mxpost o) s = .next (s.parkWarp c.uid .engine)) ∧
      (∀ dep m s1, c.mxCheck s p tile = none → s.mxPending c.uid < 8 → s.mxTable q < 32 →
        c.keys s o.c.toNat o.p.toNat = .ok (dep, m, s1) → mxCapwait p = false →
        ∃ (t : State) (k : Post), exec (.mxpost o) s = .next (t.closeGroup c o.sw .next) ∧ t.posts.get? s1.fresh = some k ∧
          k.p = p ∧ k.tile = tile ∧ k.uid = c.uid ∧ k.lane = c.lane ∧ k.v = v + 8 ∧ k.dep = dep ∧ k.mem = some m ∧
          k.handle = (s.team c.w.id.team).handle (bits (mw p 1) 31 28) ∧ k.fmode = c.readFmode s ∧ k.bregs = mxBregs p ∧
          (t.warp c.uid).iss.status = (s1.warp c.uid).iss.status ++ [{ reg := .v (v + 8) one, owner := .post s1.fresh }] ∧
          .mxGrant q ∈ t.bag ∧ t.tiles = s1.tiles))) ∧
  (v % 2 = 0 → has 2 → c.free s [.v v c.mask, .v (v + 1) c.mask] →
    let ix (l : Nat) : Nat := (c.readV s v l).toNat
    let word (l : Nat) : Target := .win (tileAddr c.core (ix l / 2 ^ 14) (ix l % 2 ^ 14))
    let ok (l : Nat) : Prop := ix l < 2 ^ 18 ∧ s.tileOk c.ctx c.core (ix l / 2 ^ 14) = true
    (∀ dep m s1, (∀ l ∈ lanesOf c.mask, ok l) → c.keys s o.c.toNat o.p.toNat = .ok (dep, m, s1) →
      (c.uncaptured s [v + 1] →
        let op : Op := { c.op s1 (.load false) o.c.toNat o.p.toNat dep m with
          d := v + 1, units := (lanesOf c.mask).map (fun l => { lane := l, tgt := word l, size := 4 }) }
        s1.room c op →
        ∃ t : State, c.launchOp s1 op [.v (v + 1) c.mask] = .ok t ∧ exec (.mxrd o) s = .next (t.closeGroup c o.sw .next)) ∧
      (
        let op : Op := { c.op s1 .store o.c.toNat o.p.toNat dep m with
          units := highestWins ((lanesOf c.mask).map (fun l =>
            { lane := l, tgt := word l, size := 4, data := bytesOf (c.readV s (v + 1) l) })) }
        s1.room c op →
        ∃ t : State, c.launchOp s1 op [] = .ok t ∧ exec (.mxwr o) s = .next (t.closeGroup c o.sw .next))) ∧
    (∀ l ∈ lanesOf c.mask, ¬ ok l → (∀ k ∈ lanesOf c.mask, k < l → ok k) →
      let prot (i : Instr) : Prop :=
        exec i s = .next (s.raise c { cause := 0x08, info1 := BitVec.ofNat 32 l, info2 := c.readV s v l, info3 := 0 })
      prot (.mxwr o) ∧ (c.uncaptured s [v + 1] → prot (.mxrd o)))) ∧
  (has 1 → let m := c.readV s v c.lane
    (c.mask = 0 → exec (.mxzero o) s = .next (s.closeGroup c o.sw .next)) ∧
    (c.mask ≠ 0 → c.free s [.v v one] →
      (2 ^ 16 ≤ m.toNat → exec (.mxzero o) s = .next (s.raise c { cause := 0x0E, info1 := 1, info2 := m, info3 := BitVec.ofNat 32 c.lane })) ∧
      (m.toNat < 2 ^ 16 → (∃ k, k < 16 ∧ m.getLsbD k = true ∧ s.tileOk c.ctx c.core k = false) →
        exec (.mxzero o) s = .next (s.raise c { cause := 0x0E, info1 := 7, info2 := m, info3 := BitVec.ofNat 32 c.lane })) ∧
      (∀ id s1, m.toNat < 2 ^ 16 → (∀ k, k < 16 → m.getLsbD k = true → s.tileOk c.ctx c.core k = true) →
        c.quietReq s .mxZero o.c.toNat o.p.toNat [m] [] = .ok (id, s1) → exec (.mxzero o) s =
          .next ((if m = 0 then s1.applyMx id else s1.startReq id State.applyMx).closeGroup c o.sw .next))))

/-- MXHBIND, MXHGEN, SCBIND, SCLOAD and SCINV (R282, R290, R304, R305): with good fields of the posting lane each binds, advances
a generation or asks for its blocks; with a bad one it is MX_PARAM with the reason and the lowest word that is bad. A generation of
0xFFFF wraps to 0 and drops the handle's cached lines. -/
def Obligations.MatrixBindings : Prop := ∀ (s : State) (c : Cx), s.bare c → c.mask ≠ 0 → ∀ v : Nat,
  let has (n : Nat) : Prop := (∀ r, v ≤ r → r < v + n → c.w.validV r = true) ∧ c.free s (vNames v n (laneBit c.lane))
  let x (i : Nat) : Word := c.readV s (v + i) c.lane
  let team := c.w.id.team
  let q := quadOf c.core
  let bad (i : Instr) (reason ix : Nat) : Prop := exec i s = .next (s.raise c
    { cause := 0x0E, info1 := BitVec.ofNat 32 (reason + ix * 2 ^ 8), info2 := x ix, info3 := BitVec.ofNat 32 c.lane })
  (∀ o : FV, o.v.toNat = v →
    (has 3 →
      let h := (s.team team).handle (x 0).toNat
      let bound : Handle := { h with bound := true, base := (x 1).toNat, size := (x 2).toNat }
      let good : Prop := (x 0).toNat < 16 ∧ (x 1).toNat < 2 ^ 23 ∧ (x 1).toNat % 128 = 0 ∧ (x 2).toNat % 128 = 0 ∧ (x 2).toNat ≠ 0
      (good → (s.team team).zone (x 1).toNat (x 2).toNat = .alloc → exec (.mxhbind o) s =
        .next (((c.command s [(x 0).toNat, (x 1).toNat, (x 2).toNat]).modTeam team
          (fun t => { t with handles := t.handles.set (x 0).toNat bound })).closeGroup c o.sw .next)) ∧
      (good → (s.team team).zone (x 1).toNat (x 2).toNat ≠ .alloc → exec (.mxhbind o) s = .next (s.raise c
        { cause := 0x08, info1 := BitVec.ofNat 32 c.lane, info2 := x 1, info3 := 0 })) ∧
      (16 ≤ (x 0).toNat → bad (.mxhbind o) 1 0) ∧
      ((x 0).toNat < 16 → (2 ^ 23 ≤ (x 1).toNat ∨ (x 1).toNat % 128 ≠ 0) → bad (.mxhbind o) 1 1) ∧
      ((x 0).toNat < 16 → (x 1).toNat < 2 ^ 23 → (x 1).toNat % 128 = 0 → ((x 2).toNat % 128 ≠ 0 ∨ (x 2).toNat = 0) →
        bad (.mxhbind o) 1 2)) ∧
    (has 1 →
      let h := (s.team team).handle (x 0).toNat
      let advanced : State := (c.command s [(x 0).toNat]).modTeam team
        (fun t => { t with handles := t.handles.set (x 0).toNat { h with gen := h.gen + 1 } })
      ((x 0).toNat < 16 → h.bound = true → h.gen ≠ 0xFFFF → exec (.mxhgen o) s = .next (advanced.closeGroup c o.sw .next)) ∧
      ((x 0).toNat < 16 → h.bound = true → h.gen = 0xFFFF → h.gen + 1 = 0 ∧
        exec (.mxhgen o) s = .next ((advanced.modQuad q (fun k => { k with opCache := k.opCache.filter (fun e =>
          !((e.tag.drop 1).take 2 == [team, (x 0).toNat])) })).closeGroup c o.sw .next)) ∧
      ((x 0).toNat < 16 → h.bound = false → bad (.mxhgen o) 4 0) ∧ (16 ≤ (x 0).toNat → bad (.mxhgen o) 1 0) ∧
      let next (t : Tensor) : Tensor := { t with gen := t.gen + 1 }
      (x 0 = 0xFFFFFFFF → exec (.scinv o) s = .next (((c.command s [(x 0).toNat]).modQuad q (fun k =>
        { k with tensors := k.tensors.mapv (fun i t => if i / 256 == c.ctx then next t else t) })).closeGroup c o.sw .next)) ∧
      (256 ≤ (x 0).toNat → x 0 ≠ 0xFFFFFFFF → bad (.scinv o) 1 0) ∧
      ((x 0).toNat < 256 → (s.tensor q c.ctx (x 0).toNat).bound = true → exec (.scinv o) s =
        .next (((c.command s [(x 0).toNat]).modQuad q (fun k =>
        { k with tensors := k.tensors.modify (tensorKey c.ctx (x 0).toNat) next })).closeGroup c o.sw .next)) ∧
      ((x 0).toNat < 256 → (s.tensor q c.ctx (x 0).toNat).bound = false → bad (.scinv o) 9 0)) ∧
    (v % 2 = 0 → has 4 →
      let n : Tensor := { base := x 1 ++ x 0, len := (x 3).toNat, bound := true, gen := (s.tensor q c.ctx (x 2).toNat).gen + 1 }
      ((x 2).toNat < 256 → (x 3).toNat ≠ 0 → (x 3).toNat ≤ 2 ^ 23 → exec (.scbind o) s = .next
        (((c.command s [(x 0).toNat, (x 1).toNat, (x 2).toNat, (x 3).toNat]).modQuad q (fun k =>
        { k with tensors := k.tensors.set (tensorKey c.ctx (x 2).toNat) n })).closeGroup c o.sw .next)) ∧
      (256 ≤ (x 2).toNat → bad (.scbind o) 1 2) ∧
      ((x 2).toNat < 256 → ((x 3).toNat = 0 ∨ 2 ^ 23 < (x 3).toNat) → bad (.scbind o) 1 3))) ∧
  (∀ o : FMx, o.v.toNat = v → o.p ≠ 15 → has 3 →
    (∀ id s1, (x 0).toNat < 256 → (x 2).toNat ≠ 0 → (x 2).toNat ≤ 65536 → (s.tensor q c.ctx (x 0).toNat).bound = true →
      c.quietReq s .scLoad o.c.toNat o.p.toNat [x 0] ((List.range' (x 1).toNat (x 2).toNat).map (fun b => (b, []))) = .ok (id, s1) →
      exec (.scload o) s = .next ((s1.startReq id State.applyMx).closeGroup c o.sw .next)) ∧
    (256 ≤ (x 0).toNat → bad (.scload o) 1 0) ∧
    ((x 0).toNat < 256 → ((x 2).toNat = 0 ∨ 65536 < (x 2).toNat) → bad (.scload o) 1 2) ∧
    ((x 0).toNat < 256 → (x 2).toNat ≠ 0 → (x 2).toNat ≤ 65536 → (s.tensor q c.ctx (x 0).toNat).bound = false →
      bad (.scload o) 9 0))

/-! The Creel. -/

/-- CRCFG, CRWAIT, CRGATE, CRFREE, CRALLOC, CRALLOC.W and CRSTAT (R329, R342 to R349): a buffer word that names no buffer of
the context is PROT; otherwise each request goes to its buffer with what it read at issue, and CRSTAT gives each lane what its
selector names (a free value when the program has stored into the buffer's backing, R331), or PROT. CRALLOC.W parks until its slots are
written. -/
def Obligations.CreelWords : Prop := ∀ (s : State) (c : Cx), s.bare c → ∀ v : Nat,
  let own (w : Word) : Prop := w.toNat < 64 ∧ w.toNat / 8 % 2 = 0 ∧
    ((s.ctx c.ctx).creelMask.getD (w.toNat / 16) 0).getLsbD (w.toNat % 8) = true
  let buf (w : Word) : Nat := w.toNat / 16 * 8 + w.toNat % 8
  let one := laneBit c.lane
  let asks (i : Instr) (sw : Bool) (r : Nat × State) : Prop := exec i s = .next ((r.2.startReq r.1 State.applyCreel).closeGroup c sw .next)
  let prot (i : Instr) (w : Word) : Prop := exec i s = .next (s.raise c { cause := 0x08, info1 := 0, info2 := w, info3 := 0 })
  (∀ o : FCp, o.p ≠ 15 →
    let n := o.n.toNat
    let w := c.readS s n
    (n % 2 = 0 → c.resolve 0 c.mask none o.v.toNat 1 = .ok v → c.free s [.v v one, .s n, .s (n + 1)] → c.bWrites s [v] one = .ok () →
      (own w →
        (∀ l r, c.nearRecord s (c.readS s (n + 1)) 64 = .ok l →
          c.request s .crCfg v o.c.toNat o.p.toNat (BitVec.ofNat 32 (buf w) :: l) = .ok r → asks (.crcfg o) o.sw r) ∧
        (∀ r, c.request s .crWait v o.c.toNat o.p.toNat [BitVec.ofNat 32 (buf w), c.readS s (n + 1)] = .ok r →
          asks (.crwait o) o.sw r)) ∧
      (¬ own w → prot (.crcfg o) w ∧ prot (.crwait o) w)) ∧
    (o.v.toNat % 4 = 0 → c.resolve 0 c.mask none o.v.toNat 12 = .ok v → c.free s (.s n :: vNames v 12 c.mask) →
      c.uncaptured s [v] →
      (∀ d m s1, own w → c.keys s o.c.toNat o.p.toNat = .ok (d, m, s1) →
        asks (.crgate o) o.sw (c.laneReq s1 .crGate v (buf w) o.c.toNat o.p.toNat d (some m) (c.rows s v 12))) ∧
      (¬ own w → prot (.crgate o) w)) ∧
    (c.resolve 0 c.mask none o.v.toNat 1 = .ok v → c.free s [.v v c.mask, .s n] → c.uncaptured s [v] →
      (∀ d m s1, own w → c.keys s o.c.toNat o.p.toNat = .ok (d, m, s1) →
        asks (.crfree o) o.sw (c.laneReq s1 .crFree v (buf w) o.c.toNat o.p.toNat d (some m) (c.rows s v 1))) ∧
      (¬ own w → prot (.crfree o) w))) ∧
  (∀ o : FAlloc, (∀ id, c.w.iss.resume ≠ .alloc id) → c.resolve 0 c.mask none o.d.toNat 1 = .ok v →
    c.free s [.v v c.mask, .s (2 * o.n.toNat)] → c.uncaptured s [v] →
    let w := c.readS s (2 * o.n.toNat)
    let r (all : Bool) := c.laneReq s (.crAlloc all) v (buf w) 0 0 {} none (c.rows s v 1)
    let t (all : Bool) : State := (r all).2.applyCreel (r all).1
    (own w → exec (.cralloc o) s = .next ((t false).closeGroup c o.sw .next) ∧
      (((t true).reqs.get? (r true).1).isNone → exec (.crallocW o) s = .next ((t true).closeGroup c o.sw .next)) ∧
      (((t true).reqs.get? (r true).1).isSome → exec (.crallocW o) s = .next (((t true).modWarp c.uid (fun w =>
        { w with iss := { w.iss with resume := .alloc (r true).1 } })).parkWarp c.uid .engine))) ∧
    (¬ own w → prot (.cralloc o) w ∧ prot (.crallocW o) w)) ∧
  (∀ o : FVn, c.resolve 0 c.mask none o.v.toNat 1 = .ok v → c.free s [.v v c.mask, .s o.n.toNat] → c.uncaptured s [v] →
    let w := c.readS s o.n.toNat
    let f (l : Nat) : Option Nat := (s.buf (buf w)).stat (c.readV s v l).toNat
    (own w → (∀ l ∈ lanesOf c.mask, (f l).isSome) → ∃ g : Nat → Nat, ((s.buf (buf w)).spoiled = false → ∀ l, g l = (f l).getD 0) ∧
      exec (.crstat o) s = .next (((s.result c 4 [.v v c.mask]
        [.v v ((lanesOf c.mask).map (fun l => (l, BitVec.ofNat 32 (min (g l) 0xFFFFFF))))]).sampling c.uid
          (.creel (buf w) ((lanesOf c.mask).map (fun l => (l, (c.readV s v l).toNat))))).closeGroup c o.sw .next)) ∧
    (own w → ∀ l ∈ lanesOf c.mask, f l = none → (∀ k ∈ lanesOf c.mask, k < l → (f k).isSome) → exec (.crstat o) s =
      .next (s.raise c { cause := 0x08, info1 := BitVec.ofNat 32 l, info2 := c.readV s v l, info3 := 0 })) ∧
    (¬ own w → prot (.crstat o) w))

/-! Barriers. -/

/-- BINIT, BARV, BSYNC, BWAIT and BSTAT (R365 to R368, R371, R373 to R376): with no GUARD report due, BINIT of an UNCONF or IDLE
barrier sets its level, E and limit, an arrival joins the barrier with its dependence and member, BSYNC holds its entry until
the arrival is released, BWAIT waits while the warp's arrival is unreleased, and BSTAT gives the barrier's word. An arrival, with its
dependence and member of Kp, uncounted, is the barrier's last; a barrier that was IDLE fills from the combiner's clock; no byte
of memory changes. -/
def Obligations.BarrierWords : Prop := (∀ (s : State) (c : Cx), s.bare c →
  c.w.due (fun r => r.cause == 0x09 && c.w.iss.resume == .none) = none →
  let team := c.w.id.team
  let t := s.team team
  let set (b : Nat) : State := s.modWarp c.uid (fun w => { w with iss := { w.iss with parkBar := b } })
  let parks (i : Instr) (b : Nat) : Prop := exec i s = .next ((set b).parkWarp c.uid .barrier)
  (∀ o : FBs, c.free s [.s o.s.toNat, .s (o.s.toNat + 1)] →
    let x := c.readS s o.s.toNat
    let e := x.toNat / 256 % 64
    let level := x.toNat % 4
    let b := o.b.toNat
    let y := t.bar b
    let z : Barrier := { y with level := level, expect := e, limit := (c.readS s (o.s.toNat + 1)).toNat }
    let s1 := if level = 2 then s.setDies c.ctx c.w.id.grid else s
    let fields : Prop := o.s.toNat % 2 = 0 ∧ x.toNat / 4 % 64 = 0 ∧ x.toNat < 2 ^ 14 ∧ 0 < e ∧ e ≤ t.warps.length
    let reach : Prop := (level = 1 → t.gang ≠ 0) ∧
      (2 ≤ level → (nth (s.grid c.ctx c.w.id.grid).desc.words 1 0).getLsbD 18 = true)
    (fields → reach →
      (y.st = .unconf → y.arrivals = [] → exec (.binit o) s = .next ((s1.putBar team b { z with phase := 0, st := .idle }).closeGroup c o.sw .next)) ∧
      (y.st = .unconf → y.arrivals ≠ [] → exec (.binit o) s = .next (((s1.startFill team b { z with phase := 0, st := .idle }).postAll
        (y.arrivals.map (fun q => Ev.barrierArrivalCounted q.uid b))).closeGroup c o.sw .next)) ∧
      (y.st = .idle → exec (.binit o) s = .next ((s1.putBar team b z).closeGroup c o.sw .next)) ∧
      (y.st = .filling ∨ y.st = .met → parks (.binit o) b)) ∧
    (¬ fields → exec (.binit o) s = .next (s.raise c { cause := 0x01 })) ∧
    (fields → ¬ reach → exec (.binit o) s = .next (s.raise c { cause := 0x08, info1 := BitVec.ofNat 32 c.lane, info2 := 0, info3 := 0 }))) ∧
  (∀ o : FBar, o.p ≠ 15 →
    let b := o.b.toNat
    (∀ s1, c.arrived s b = false → c.arrive s b o.c.toNat o.p.toNat = .ok s1 →
      exec (.barv o) s = .next (s1.closeGroup c o.sw .next) ∧
      (c.w.iss.resume ≠ .barrier b → exec (.bsync o) s = .next (((s1.modWarp c.uid (fun w =>
        { w with iss := { w.iss with resume := .barrier b } })).modWarp c.uid (fun w =>
        { w with iss := { w.iss with parkBar := b } })).parkWarp c.uid .barrier))) ∧
    (c.arrived s b = true → parks (.barv o) b ∧ parks (.bsync o) b) ∧
    (c.arrived s b = false → c.w.iss.resume = .barrier b → exec (.bsync o) s = .next (s.closeGroup c o.sw .next))) ∧
  (∀ o : FBwait,
    (c.arrived s o.b.toNat = false → exec (.bwait o) s = .next (s.closeGroup c o.sw .next)) ∧
    (c.arrived s o.b.toNat = true → parks (.bwait o) o.b.toNat)) ∧
  (∀ o : FBs, c.free s [.s o.s.toNat] → exec (.bstat o) s =
    .next (((s.afterS c 4 [(o.s.toNat, (t.bar o.b.toNat).stat)]).sampling c.uid (.barrier c.w.id.team o.b.toNat)).closeGroup c o.sw .next))) ∧
  ∀ (s : State) (c : Cx) (b kc kp : Nat) d m s1, c.keys s kc kp = .ok (d, m, s1) →
  (s1.teams.get? c.w.id.team).isSome = true →
  let x := (s1.team c.w.id.team).bar b
  ∃ t : State, c.arrive s b kc kp = .ok t ∧
    let y := (t.team c.w.id.team).bar b
    y.arrivals = x.arrivals ++ [{ uid := c.uid, w := c.w.id.w, dep := d, mem := some m }] ∧
    (x.st = .idle → y.st = .filling) ∧ (x.st ≠ .idle → y.st = x.st) ∧
    (x.st ≠ .unconf → .barrierArrivalCounted c.uid b ∈ t.bag) ∧
    y.phase = x.phase ∧ y.level = x.level ∧ y.expect = x.expect ∧ y.limit = x.limit ∧ t.mem = s1.mem

/-! Launch. -/

/-- GLAUNCH, GWAIT and GSTAT (R354, R358, R377 to R379): the leader lane of a team launches from thirteen registers of its own
while statuses and the grid table have room; a nesting of ten is LAUNCH_DEPTH, and PROT when the leader lane is not active; while
lane 0 of warp 0 lives it is the leader, else the lowest active lane of the lowest live warp; GWAIT asks for a grid; GSTAT gives the
grid's word. The table's room counts what a terminated context's dump still keeps (the model's reading, log 25). -/
def Obligations.LaunchWords : Prop := ∀ (s : State) (c : Cx), s.bare c → ∀ v : Nat,
  let one := laneBit c.lane
  let live0 : Prop := ∃ p, s.warpIn (s.team c.w.id.team) 0 = some p ∧ p.2.live.getLsbD 0 = true
  (live0 → (c.leads s = true ↔ c.w.id.w = 0 ∧ c.mask.getLsbD 0 = true)) ∧
  (¬ live0 → (c.leads s = true ↔ ∀ u ∈ (s.team c.w.id.team).warps, (s.warp u).live ≠ 0 → c.w.id.w ≤ (s.warp u).id.w)) ∧
  (∀ o : FMx, c.resolve 0 c.mask none o.v.toNat 1 = .ok v → (∀ r, v ≤ r → r < v + 14 → c.w.validV r = true) →
    (c.leads s = true → c.free s ((List.range' v 13).map (fun r => RegName.v r one) ++ [.v (v + 13) one]) ∧
      c.bWrites s [v + 13] one = .ok ()) →
    let d := (s.grid c.ctx c.w.id.grid).depth
    (d = 10 → exec (.glaunch o) s = .next (s.raise c { cause := 0x14, info1 := 10 })) ∧
    (d ≠ 10 → c.leads s = false → exec (.glaunch o) s = .next (s.raise c
      { cause := 0x08, info1 := BitVec.ofNat 32 c.lane, info2 := 0, info3 := 0 })) ∧
    (d ≠ 10 → c.leads s = true → o.p = 15 → exec (.glaunch o) s = .next (s.raise c { cause := 0x0B })) ∧
    (d ≠ 10 → c.leads s = true → o.p ≠ 15 →
      (8 ≤ s.gridReqs c.uid ∨ s.tableFull = true → exec (.glaunch o) s = .next (s.parkWarp c.uid .engine)) ∧
      (∀ id s1, s.gridReqs c.uid < 8 → s.tableFull = false →
        c.request s .gLaunch (v + 13) o.c.toNat o.p.toNat ((List.range' v 13).map (fun r => c.readV s r c.lane)) = .ok (id, s1) →
        exec (.glaunch o) s = .next ((s1.startReq id State.applyGrid).closeGroup c o.sw .next)))) ∧
  (∀ o : FCp, o.p ≠ 15 → c.resolve 0 c.mask none o.v.toNat 1 = .ok v → c.free s [.v v (laneBit c.lane), .s o.n.toNat] →
    c.bWrites s [v] (laneBit c.lane) = .ok () →
    (8 ≤ s.gridReqs c.uid → exec (.gwait o) s = .next (s.parkWarp c.uid .engine)) ∧
    (∀ id s1, s.gridReqs c.uid < 8 → c.request s .gWait v o.c.toNat o.p.toNat [c.readS s o.n.toNat] = .ok (id, s1) →
      exec (.gwait o) s = .next ((s1.startReq id State.applyGrid).closeGroup c o.sw .next))) ∧
  (∀ o : FGstat, c.free s [.s o.n.toNat, .s o.d.toNat] →
    let g := (c.readS s o.n.toNat).toNat
    let gives (x : Word) : Prop := exec (.gstat o) s = .next ((s.afterS c 4 [(o.d.toNat, x)]).closeGroup c o.sw .next)
    (∀ x, g < 2 ^ 24 → s.grids.get? (gridKey c.ctx g) = some x →
      (x.retired = true → gives (BitVec.ofNat 32 (2 ^ 31 + g))) ∧
      (x.retired = false → gives (BitVec.ofNat 32 (min (x.teams - x.exited) 0xFFFFFF)))) ∧
    (2 ^ 24 ≤ g ∨ s.grids.get? (gridKey c.ctx g) = none → gives (BitVec.ofNat 32 (2 ^ 31 + 2 ^ 30 + 8 * 2 ^ 24 + g % 2 ^ 24))))

/-- What a launch comes to (R355, R356, R378): a launch that breaks a rule ends with its reason and no grid; an accepted one is a
grid of the table with its descriptor, its parent's priority at most and one level deeper, and ends with the grid's id. -/
def Obligations.Launches : Prop := ∀ (s : State) (id : Nat) (r : Req), s.reqs.get? id = some r → r.kind = .gLaunch →
  s.tableFull = false →
  let l : Launch := { words := r.args, parent := some (s.warp r.uid).id.grid }
  (∀ k, s.refusal r.ctx l = some k → s.applyGrid id = (s.refuseWord r.ctx (dieOf r.core) l k).endReq id (statusWord true true 0x08 k)) ∧
  (s.refusal r.ctx l = none →
    let g := s.freeGridId r.ctx 4097 (s.ctx r.ctx).nextGrid
    let p := s.grid r.ctx (s.warp r.uid).id.grid
    s.applyGrid id = ((s.accept r.ctx (dieOf r.core) l 0).2).endReq id (statusWord true false 0 g) ∧
    ∃ x, (s.accept r.ctx (dieOf r.core) l 0).2.grids.get? (gridKey r.ctx g) = some x ∧ x.desc = l ∧ x.depth = p.depth + 1 ∧
      x.prio = min (bits (l.d 1) 17 16) p.prio ∧ x.placed = 0 ∧ x.exited = 0 ∧ x.retired = false)

/-! System words. -/

/-- MTCP, MFCP, TLBINV, WSWITCH and HALT (R411, R418 to R422): outside privileged state each is PRIV; in it MTCP sets its register
and MFCP reads one as a result of four clocks, TLBINV parks until its invalidation is complete, WSWITCH gives a status word, and
HALT parks until it is resumed. What PRQREPLAY reads as is left open here. That TLBINV of a = 62 is ILL, and the four clocks of WSWITCH's
result, are the model's readings (log 66). -/
def Obligations.SystemWords : Prop := ∀ (s : State) (c : Cx), s.cx = some c →
  ((s.ctx c.ctx).d.priv = false → (∀ o, exec (.mtcp o) s = .next (s.raise c { cause := 0x03 })) ∧
    (∀ o, exec (.mfcp o) s = .next (s.raise c { cause := 0x03 })) ∧ (∀ o, exec (.tlbinv o) s = .next (s.raise c { cause := 0x03 })) ∧
    (∀ o, exec (.wswitch o) s = .next (s.raise c { cause := 0x03 })) ∧ (∀ o, exec (.halt o) s = .next (s.raise c { cause := 0x03 }))) ∧
  ((s.ctx c.ctx).d.priv = true → c.g.xp = none →
    let tgt := (s.ctx c.ctx).tgt.getD c.ctx
    let there : Prop := (s.ctxs.get? tgt).isSome = true
    let stops (i : Instr) (cause : BitVec 6) (info2 : Word) : Prop :=
      exec i s = .next (s.raise c { cause := cause, info1 := 0, info2 := info2, info3 := 0 })
    (∀ o : FMtc, o.a.toNat < 64 → c.free s [.s o.a.toNat] →
      let v := c.readS s o.a.toNat
      let goes (t : State) : Prop := exec (.mtcp o) s = .next (t.closeGroup c o.sw .next)
      let open1 : Prop := (s.ctx c.ctx).d.secure = true ∨ ∃ k, s.ctxs.get? v.toNat = some k ∧ k.d.secure = false
      (o.n = 0 → (open1 → goes (s.modCtx c.ctx (fun k => { k with tgt := some v.toNat }))) ∧ (¬ open1 → stops (.mtcp o) 0x17 v)) ∧
      (o.n = 1 → there → goes (s.replayPages tgt v)) ∧
      (o.n = 2 → there → goes (s.modCtx tgt (fun k => { k with d := { k.d with portWd := if v = 0 then 0x1000000 else v } }))) ∧
      (o.n = 1 ∨ o.n = 2 → ¬ there → tgt < 2 ^ 32 → stops (.mtcp o) 0x08 (BitVec.ofNat 32 tgt)) ∧
      (o.n = 3 → goes (if v.toNat < 1024 ∨ 2 ^ 31 < v.toNat then s else { s with fab := { s.fab with fretry := v } })) ∧
      (3 < o.n.toNat → exec (.mtcp o) s = .next (s.raise c { cause := 0x01 }))) ∧
    (∀ o : FMfc, o.d.toNat < 64 → c.free s [.s o.d.toNat] →
      let gives (x : Word) : Prop := exec (.mfcp o) s = .next ((s.afterS c 4 [(o.d.toNat, x)]).closeGroup c o.sw .next)
      (o.n = 0 → gives (BitVec.ofNat 32 tgt)) ∧ (o.n = 1 → there → ∃ x, gives x) ∧ (o.n = 2 → there → gives (s.ctx tgt).d.portWd) ∧
      (o.n = 3 → gives s.fab.fretry) ∧ (o.n = 4 → gives (if s.world 0 c.core then 1 else 0)) ∧ (o.n = 5 → gives (BitVec.ofNat 32 s.svc.errSeq)) ∧
      (5 < o.n.toNat → exec (.mfcp o) s = .next (s.raise c { cause := 0x01 }))) ∧
    (∀ o : FA, (∀ id, c.w.iss.resume ≠ .tlbinv id) →
      let a := o.a.toNat
      (61 < a ∨ a % 2 ≠ 0 → exec (.tlbinv o) s = .next (s.raise c { cause := 0x01 })) ∧
      (a ≤ 61 → a % 2 = 0 → c.free s [.s a, .s (a + 1), .s (a + 2)] →
        (¬ there → tgt < 2 ^ 32 → stops (.tlbinv o) 0x08 (BitVec.ofNat 32 tgt)) ∧
        (there →
          let va := (c.readS s a).toNat + 2 ^ 32 * (c.readS s (a + 1)).toNat
          let i : Inval := { id := s.fresh, ctx := tgt, page := va % 2 ^ 57 / 4096, pages := (c.readS s (a + 2)).toNat }
          ∃ t : State, exec (.tlbinv o) s = .next (t.parkWarp c.uid .keyWait) ∧ t.invals = s.invals ++ [i] ∧
            .tlbinvComplete s.fresh ∈ t.bag ∧ ((t.warps.get? c.uid).map (fun w => w.iss.resume)) = some (.tlbinv s.fresh)))) ∧
    (∀ (o : FA) id, c.w.iss.resume = .tlbinv id →
      (s.invals.any (fun i => i.id == id && !i.done) = true → exec (.tlbinv o) s = .next (s.parkWarp c.uid .keyWait)) ∧
      (s.invals.any (fun i => i.id == id && !i.done) = false → exec (.tlbinv o) s =
        .next (({ s with invals := s.invals.filter (fun i => i.id != id) } : State).closeGroup c o.sw .next))) ∧
    (∀ o : FDa, o.d.toNat < 64 → o.a.toNat < 64 → c.free s [.s o.d.toNat, .s o.a.toNat] →
      let gives (t : State) (x : Word) : Prop := exec (.wswitch o) s = .next ((t.afterS c 4 [(o.d.toNat, x)]).closeGroup c o.sw .next)
      let t := c.command s [(c.readS s o.a.toNat).toNat]
      ((s.ctx c.ctx).d.secure = false → gives t (statusWord true true 0x17 2)) ∧
      ((s.ctx c.ctx).d.secure = true →
        let r := t.switchWorld (c.readS t o.a.toNat)
        (r.2 = 0 → gives r.1 (statusWord true false 0 0)) ∧ (r.2 ≠ 0 → gives r.1 (statusWord true true 0x17 r.2)))) ∧
    (∀ o : FNone, (c.w.iss.resume = .resumed → exec (.halt o) s = .next (s.closeGroup c o.sw .next)) ∧
      (c.w.iss.resume ≠ .resumed → exec (.halt o) s =
        .next ((s.modWarp c.uid (fun w => { w with iss := { w.iss with resume := .halt } })).parkWarp c.uid .hold))))

/-! Events: what happens on its own after words have issued. -/

/-- Returns (R74, R78, R84, R100, R152, R165, R169): a register result of a resident warp writes its registers at its core's clock
and is outstanding no more; a sampled one writes what it read at issue or reads again (log 73), and of two results that write
one mask register either may stand (log 8); a magnitude table takes its words, the earliest first, a member leaves its generation, a trap
that waited is entered once no result is outstanding, and a warp that 64 clocks have passed over is starved. -/
def Obligations.ReturnEvents : Prop := ∀ (s : State) (u : Nat) (w : Warp), s.warps.get? u = some w →
  (∀ id r, w.iss.outstanding.find? (fun r => r.id == id) = some r → r.ready = true →
    let others := w.iss.outstanding.filter (fun q => q.id != id)
    (r.sample = none → logKind r.word = 0 →
      (∀ n vals, r.writes = [.v n vals] → vals.keys.Nodup → (∀ l ∈ vals.keys, l < 64) →
        ∃ t : State, exec (.registerResultReturn u id) s = .next t ∧ (t.warp u).iss.outstanding = others ∧
          (∀ l, l < 64 → (t.warp u).vreg n l = (vals.get? l).getD (w.vreg n l)) ∧
          (∀ m l, m ≠ n → l < 64 → (t.warp u).vreg m l = w.vreg m l) ∧ (t.warp u).regs.s = w.regs.s ∧ (t.warp u).regs.m = w.regs.m ∧
          (w.id.place.isSome = true → (t.core w.core).cyc = max (s.core w.core).cyc r.due) ∧
          t.mem = s.mem ∧ (∀ v, v ≠ u → t.warps.get? v = s.warps.get? v)) ∧
      (∀ n sel val, r.writes = [.m n sel val] → n < 16 →
        let new := (w.mreg n &&& ~~~sel) ||| (val &&& sel)
        let raced := others.any (fun q => q.writes.any (RegWrite.ofMask n))
        ∃ t : State, exec (.registerResultReturn u id) s = .next t ∧ t.mem = s.mem ∧ (t.warp u).regs.s = w.regs.s ∧
          (raced = false → (t.warp u).mreg n = new ∧ (t.warp u).iss.outstanding = others) ∧
          (raced = true → (t.warp u).mreg n = new ∨ (t.warp u).mreg n = w.mreg n))) ∧
    let s1 := if w.id.place.isSome then s.reachCore w.core r.due else s
    ((∀ n, r.writes.any (RegWrite.ofMask n) = true → others.any (fun q => q.writes.any (RegWrite.ofMask n)) = false) →
      ∃ l : List RegWrite, (l = r.writes ∨ ∃ k, r.sample = some k ∧ l = r.writes.map (s1.writeNow u k)) ∧
        let gone : State := (s1.logResult u { r with writes := l }).modWarp u (fun w =>
          { w with iss := { w.iss with outstanding := others } })
        exec (.registerResultReturn u id) s = .next (gone.writeback u l (fun p => !p.waits.contains id)))) ∧
  (∀ p, w.iss.pendTrap = some p → (w.busy = false → exec (.trapEntry u) s = .next (s.enterTrap u p)) ∧
    (w.busy = true → exec (.trapEntry u) s = .next (s.post (.trapEntry u)))) ∧
  (64 ≤ w.iss.unchosen → exec (.arbStarveLimit u) s = .next (s.putWarp u { w with iss := { w.iss with starved := true } })) ∧
  (∀ core id q, (s.core core).lq.find? (fun q => q.id == id) = some q → q.uid = u →
    ((s.core core).lq.all (fun x => decide (q.due ≤ x.due)) = true →
      let t : State := (s.reachCore core q.due).modCore core (fun k =>
        { k with mag := q.writes.foldl (fun m p => m.set p.1 p.2) k.mag, lq := k.lq.filter (fun x => x.id != id) })
      exec (.lqtblComplete core id) s = .next (t.modWarp u (fun w =>
        { w with iss := { w.iss with outstanding := w.iss.outstanding.filter (fun r => r.id != id) } }))) ∧
    ((s.core core).lq.any (fun x => decide (x.due < q.due)) = true →
      exec (.lqtblComplete core id) s = .next (s.post (.lqtblComplete core id)))) ∧
  (∀ id m, s.members.get? id = some m → m.uid = u → ∃ t : State, exec (.memberLeave id) s = .next t ∧
    t.members = s.members.erase id ∧ t.mem = s.mem ∧
    (m.key < w.kf.keys.length → ((t.warp u).key m.key).ring =
      (w.key m.key).ring.map (fun g => if g.st != .free && g.seq == m.seq then g.less m.claim else g)))

/-- Chimes (R181 to R183, R192, R310): the head of the send queue leaves when its dependence is satisfied at the covering scope
of its target and the inbox has room (for a saved target, the room of log 89); it enters the inbox in issue order, or is discarded
and counted; a CHIME message enters the inbox of a resident target that has room, and waits for any other. -/
def Obligations.ChimeEvents : Prop := ∀ (s : State),
  (∀ u w k rest v t, s.warps.get? u = some w → w.kf.sendq = k :: rest → w.here = true → k.out = false → k.remote = false →
    s.depOk u k.dep = true → s.coverOk u k.dep = true → s.chimeTarget k.ctx k.grid k.target k.tag = some (v, t) → t.kf.inbox.length + s.coming v < 8 →
    ∃ q : State, exec (.chimeLeave u) s = .next q ∧ (q.warp u).kf.sendq = rest ∧ q.chimes.get? s.fresh = some k ∧
      .chimeInboxArrival s.fresh ∈ q.bag ∧ q.mem = s.mem) ∧
  (∀ u w k rest, s.warps.get? u = some w → w.kf.sendq = k :: rest → s.depOk u k.dep = false →
    exec (.chimeLeave u) s = .next (s.post (.chimeLeave u))) ∧
  (∀ id k v t, s.chimes.get? id = some k → s.chimeTarget k.ctx k.grid k.target k.tag = some (v, t) → t.id.place.isSome = true →
    (∀ i j, (i, j) ∈ s.chimes → i < id → j.uid = k.uid → j.remote = false →
      (s.chimeTarget j.ctx j.grid j.target j.tag).map Prod.fst ≠ some v) →
    let q : State := State.inbox { s with chimes := s.chimes.erase id } v
      (BitVec.ofNat 32 (k.tag.toNat % 2 ^ 16 + s.teamIndex (s.warp k.uid) / 2 ^ 16 * 2 ^ 16)) k.sender
    exec (.chimeInboxArrival id) s = .next (match k.mem with | some m => q.post (.memberLeave m) | none => q)) ∧
  (∀ id k, s.chimes.get? id = some k →
    let q : State := State.bumpHdr { s with chimes := s.chimes.erase id } k.ctx 40 1
    exec (.chimeDiscard id) s = .next (match k.mem with | some m => q.post (.memberLeave m) | none => q)) ∧
  (∀ (m : Msg) v t,
    let tag := nth m.words 5 0
    s.chimeTarget (s.chan m.ch).ctx (nth m.words 2 0).toNat (nth m.words 1 0) tag = some (v, t) →
    (t.id.place.isSome = true → t.kf.inbox.length + s.coming v < 8 → exec (.chimeMsg m) s = .next (s.inbox v
      (BitVec.ofNat 32 (tag.toNat % 2 ^ 16 + (nth m.words 6 0).toNat % 2 ^ 16 * 2 ^ 16)) (nth m.words 3 0))) ∧
    (t.id.place = none ∨ 8 ≤ t.kf.inbox.length + s.coming v → exec (.chimeMsg m) s = .next (s.post (.chimeMsg m))))

/-- Memory operations at work (R173 to R180, R200, R201, R215, R216, R218 to R225, R385, R386): a load's bytes are bound, a
store's and an atomic's are performed at their home, once what orders them allows it; a window is read and written; partials of
RED lines move home and merge; a walk ends, a refusal reaches its lane, and what was deferred goes on. -/
def Obligations.MemoryEvents : Prop := ∀ (s : State) (id i : Nat) (o : Op), s.ops.get? id = some o →
  (o.unit i).done = false → (o.unit i).sent = false →
  let u := o.unit i
  let js := o.select (fun v => v.near u (max u.size 4))
  let bound : State := (js.foldl (fun s j => s.bindUnit id o i j) s).tryEnd id
  ((∀ d pa, u.tgt ≠ .net d pa) →
    (s.enterNear id = s → js.all (s.mayBind id o i) = true → exec (.loadReturn id i) s = .next bound) ∧
    (s.enterNear id = s → js.all (s.mayBind id o i) = false → exec (.loadReturn id i) s = .next (s.post (.loadReturn id i))) ∧
    (s.mayPerform id o i = true →
      exec (.storeAtHome id i) s = .next (((s.storeUnit o u).doneUnit id i [] false).tryEnd id) ∧
      (∀ code, o.kind = .atomic code → s.targetBad u.tgt u.size = false → let r := s.atomicUnit o.core code u.tgt u.size u.data
        exec (.atomicAtHome id i) s = .next ((r.2.doneUnit id i r.1 false).tryEnd id)))) ∧
  (∀ m, o.kind = .cstm m → (o.select (fun _ => true)).all (s.mayPerform id o) = true →
    let r := s.commitUnits o m
    exec (.atomicAtHome id i) s =
      .next (((o.select (fun _ => true)).foldl (fun s j => s.doneUnit id j (leBytes r.1 4) false) r.2).tryEnd id)) ∧
  (∀ d pa, u.tgt = .net d pa → s.channelTo o.ctx d = none →
    (s.mayPerform id o i = true → ∀ code, o.kind = .atomic code → exec (.atomicAtHome id i) s = .next (s.refuseUnits id [i]))) ∧
  (o.kind.reads = true → js.all (s.mayBind id o i) = true → exec (.windowAccess id i) s = .next bound) ∧
  (∀ pa, o.kind.reads = false → u.tgt = .win pa → s.mayPerform id o i = true →
    exec (.windowAccess id i) s = .next (((s.storeUnit o u).doneUnit id i [] false).tryEnd id)) ∧
  (∀ r, exec (.remoteRefusal id i r) s = .next ((s.doneUnit id i [] true).tryEnd id)) ∧
  (∀ t, s.noticesHeld id = false → s.reqs.get? id = none → s.releaseOp id = some t → exec (.releaseNotice id) s = .next t) ∧
  (∀ k r, s.noticesHeld k = false → s.reqs.get? k = some r → s.depOk r.uid r.dep = true → exec (.releaseNotice k) s = .next (s.applyReq k)) ∧
  (∀ line, exec (.homePartialEviction line) s = .next (s.mergeLine line)) ∧
  (∀ line k p, s.partials = [p] → p.line = line → p.slice = k →
    exec (.partialFlush line k) s = .next { s with partials := [{ p with slice := 2 ^ 16 + homeSlice line }] }) ∧
  (∀ r : WalkReq, s.pages.any (fun p => p.who == r.who && p.page == r.page && p.seq == none) = true →
    let mark (t : State) (f : PageWait → PageWait) : State :=
      { t with pages := t.pages.map (fun p => if p.who == r.who && p.page == r.page then f p else p) }
    let late (w : State) : Prop :=
      (w.pageRequest r = none → exec (.tlbWalkComplete r) s =
        .next ((mark w (fun p => { p with missed := true })).post (.tlbWalkComplete r))) ∧
      (∀ t q, w.pageRequest r = some (t, q) → exec (.tlbWalkComplete r) s = .next (mark t (fun p => { p with seq := some q })))
    let missed := s.pages.any (fun p => p.who == r.who && p.page == r.page && p.missed)
    let w := s.walked (readerDie r.core r.who) r.ctx r.va
    (missed = true → late s) ∧ (missed = false →
    (∀ k e, w.translate r.core r.ctx r.va = .leaf k e → exec (.tlbWalkComplete r) s = .next
      { w.fillTlb r.core r.ctx r.va (.leaf k e) with pages := w.pages.filter (fun p => !(p.who == r.who && p.page == r.page)) }) ∧
    (w.translate r.core r.ctx r.va = .fatal →
      exec (.tlbWalkComplete r) s = .next { w with pages := w.pages.filter (fun p => p.who != r.who) }) ∧
    (w.translate r.core r.ctx r.va = .replay → late w)))

/-- A store performed at the home (R173): the bytes it stores read as written, and every other byte of device memory as before. -/
def Obligations.StoreFrame : Prop := ∀ (s : State) (o : Op) (u : MUnit) (pa : Nat), u.tgt = .dev pa → o.kind = .store →
  s.memOk → s.partials = [] →
  (∀ a, (a < pa ∨ pa + u.data.length ≤ a) → Memory.read (s.storeUnit o u).mem a = Memory.read s.mem a) ∧
  (∀ k, k < u.data.length → Memory.read (s.storeUnit o u).mem (pa + k) = (u.data[k]?).getD 0) ∧ (s.storeUnit o u).host = s.host ∧
  (s.storeUnit o u).warps = s.warps ∧ (s.storeUnit o u).teams = s.teams

/-- Ports and barriers at work (R234, R238, R366, R367, R369, R370): a pushed value becomes visible in the queues where every
earlier one is, and not for a lane that has gone; a watchdog traps its warp or ends its context; an arrival is counted once its
dependence is satisfied, the last counted one releases a TEAM barrier or meets its combiner, and the last team releases the
others. -/
def Obligations.PortAndBarrierEvents : Prop := ∀ (s : State),
  (∀ id t, s.txs.get? id = some t → t.lanes.Nodup → t.tport < (s.warp t.tgt).ports.length →
    let w := s.warp t.tgt
    let x := w.port t.tport
    let first (l : Nat) : Prop := ((x.lane l).takeWhile (fun v => v.tx != id)).all (fun v => v.vis) = true
    (s.warps.get? t.tgt).isSome = true →
    (s.depOk t.uid t.dep = false → exec (.portValueVisible id) s = .next (s.post (.portValueVisible id))) ∧
    (s.depOk t.uid t.dep = true → (t.scope = .team ∨ s.coverOk t.uid t.dep = true) → (∃ l ∈ t.lanes, first l) → t.port < 2 →
      (w.id.place.isSome = true ∨ w.retired = true) →
      ∃ q : State, exec (.portValueVisible id) s = .next q ∧ ((∀ l ∈ t.lanes, first l) → q.txs = s.txs.erase id) ∧
        ∀ l ∈ t.lanes, (¬ first l → ((q.warp t.tgt).port t.tport).lane l = x.lane l) ∧
          (first l → ((q.warp t.tgt).port t.tport).lane l = if gone t.port w l then (x.lane l).filter (fun v => v.tx != id)
            else (x.lane l).map (fun v => if v.tx = id then { v with vis := true } else v)))) ∧
  (∀ u due g, s.portDue u = some due → (s.warp u).group = some g →
    let w := s.warp u
    let t : State := { (s.reachCore w.core due).wake u w.iss.stall with word := w.iss.parkWord }
    exec (.portWatchdogExpiry u) s = .next (t.raise { uid := u, w := t.warp u, g := g }
      { cause := 0x0D, info1 := (w.iss.parkWord.extractLsb' 18 3).setWidth 32, info2 := g.mask.setWidth 32,
        info3 := g.mask.extractLsb' 32 32 })) ∧
  (∀ u w b a, s.warps.get? u = some w →
    let x := (s.team w.id.team).bar b
    x.arrivals.find? (fun a => a.uid == u && !a.counted) = some a → x.st ≠ .unconf →
    let y := { x with arrivals := x.arrivals.map (fun q => if q.uid = u then { q with counted := true } else q) }
    (s.runs w.id.ctx = true → s.arrivalOk a x.level = true →
      exec (.barrierArrivalCounted u b) s = .next ((s.putBar w.id.team b y).tryMeet w.id.team b)) ∧
    (s.arrivalOk a x.level = false → exec (.barrierArrivalCounted u b) s = .next (s.post (.barrierArrivalCounted u b)))) ∧
  (∀ k t b, s.teams.get? k = some t → (t.bar b).st = .met →
    exec (.barrierRelease k b) s = .next (s.release k b) ∧
    let x := t.bar b
    let same (c : Comb) : Bool := c.ctx == t.ctx && c.grid == t.grid && c.b == b && c.level == x.level && c.inst == s.instance1 k x.level
    let now := addNew (((s.combs.find? same).map (fun c => c.teams)).getD []) [k]
    let rest := s.combs.filter (fun c => !same c)
    let all := s.participants k x.level
    (all.all (fun p => now.contains p) = true → exec (.combinerArrival k b) s =
      .next (State.postAll { s with combs := rest } (all.map (fun p => Ev.barrierRelease p b)))) ∧
    (all.all (fun p => now.contains p) = false → exec (.combinerArrival k b) s = .next { s with
      combs := { ctx := t.ctx, grid := t.grid, b := b, level := x.level, inst := s.instance1 k x.level, teams := now } :: rest })) ∧
  (∀ k t b, s.teams.get? k = some t → let q := s.release k b
    ((q.team k).bar b).phase = (t.bar b).phase + 1 ∧
    ((q.team k).bar b).arrivals = (t.bar b).arrivals.filter (fun a => !a.counted) ∧
    (((q.team k).bar b).st = .idle ∨ ((q.team k).bar b).st = .filling)) ∧
  (∀ k b due, s.barDue k b = some due → ∃ t : State, exec (.barrierWatchdog k b) s = .next t ∧
    ((s.ctxs.get? (s.team k).ctx).isSome = true → (t.ctx (s.team k).ctx).terminated = true ∧
      (t.ctx (s.team k).ctx).diags = (s.ctx (s.team k).ctx).diags + 1))

/-- Copies at work (R252, R256, R257, R260, R261, R264, R266 to R268): a fired trigger takes a free copy context, a copy whose
dependence is satisfied moves, its chunks are read and its landings land, and it ends with its status. -/
def Obligations.CopyEvents : Prop := ∀ (s : State) (id : Nat) (c : Copy), s.copies.get? id = some c →
  (c.st = .queued → (s.runs c.ctx = true ∧ s.copyContexts c.quad < 32 ∧ s.firstFired c = true →
      exec (.copyBegin id) s = .next ((s.putCopy id { c with st := .waiting }).post (.copyBegin id))) ∧
    (32 ≤ s.copyContexts c.quad → exec (.copyBegin id) s = .next (s.post (.copyBegin id)))) ∧
  (c.st = .waiting → c.fail = none → c.cancel = false → c.mism = none →
    (s.depOk c.uid c.dep = true → s.runs c.ctx = true →
      (c.unread ≠ [] → exec (.copyBegin id) s = .next ((s.putCopy id { c with st := .moving }).post (.copyChunkRead id))) ∧
      (c.unread = [] → c.coll = none → exec (.copyBegin id) s = .next ((s.putCopy id { c with st := .moving }).tryEndCopy id))) ∧
    (s.depOk c.uid c.dep = false → exec (.copyBegin id) s = .next (s.post (.copyBegin id)))) ∧
  (c.coll = none → (s.onDevice c.ctx = true → recCrel c.rc = false → exec (.copyChunkRead id) s = .next (s.readChunk id [])) ∧
    (s.onDevice c.ctx = false → exec (.copyChunkRead id) s = .next (s.post (.copyChunkRead id)))) ∧
  (∀ line m, exec (.copyLanding id line) s = .next (s.land id line) ∧ exec (.holdingSlotDrain id line m) s = .next (s.land id line)) ∧
  (∀ l, c.pend.find? (fun x => x.ix == l.ix) = some l → l.answer = none → l.sent = false →
    (∀ pos pa b rest, l.elems = (pos, .dev pa, b) :: rest → s.land id l.ix =
      (l.elems.foldl (fun s e => s.landElem c.mem (recRop c.rc) (recCode c.rc) l.poison e.2.1 e.2.2) s).landed id l)) ∧
  (c.unread = [] → c.pend = [] → s.onDevice c.ctx = true →
    (c.mism = none → ∀ reason dst a, c.fail = some (reason, dst, a) → exec (.copyEnd id) s = .next
      (((s.memberFailed c).goWaiting.copyRecord c 0x10 5 c.quad (reason + if dst then 2 ^ 16 else 0) a).closeCopy id c
        (statusWord true true 0x10 c.committed))) ∧
    (c.mism = none → c.fail = none → c.cancel = true →
      exec (.copyEnd id) s = .next ((s.memberFailed c).goWaiting.closeCopy id c (statusWord true true 0x10 c.committed))) ∧
    (c.mism = none → c.fail = none → c.cancel = false → s.owesSignals c = true → (c.cores ≠ [] ∨ s.rcOk c.ctx c.core (recSig c.rc) = true) →
      exec (.copyEnd id) s = .next ((((s.putCopy id { c with signalled := true }).signalHere c).signalFar id c).post (.copyEnd id))) ∧
    (c.mism = none → c.fail = none → c.cancel = false → s.owesSignals c = false → c.sigs = 0 →
      exec (.copyEnd id) s = .next (s.closeCopy id c (statusWord true false 0 (recTotal c.rc))))) ∧
  (∀ core n b, exec (.rcStateW1c core n b) s = .next (s.putRc core n ((s.rc core n).clear b)))

/-- Receive counters (R264, R266): a landing adds its bytes, saturating, and satisfies an armed counter when it reaches the
target; arming sets the count to zero and gives the old one; a counter counts whether it is armed or not. -/
def Obligations.CounterRules : Prop := ∀ (s : State) (core n m t : Nat),
  let r := s.rc core n
  let v := min 0xFFFFFFFF (r.count + m)
  let x := (s.count core n m).rc core n
  x.count = v ∧ x.target = r.target ∧ (x.ovf = true ↔ r.ovf = true ∨ v = 0xFFFFFFFF) ∧
  x.st = (if r.st = 1 ∧ r.target ≤ v then 2 else r.st) ∧ (x.arrivedIdle = true ↔ r.arrivedIdle = true ∨ r.st = 0) ∧
  (s.arm core n t).2 = r.count ∧
  (let y := (s.arm core n t).1.rc core n
   y.count = 0 ∧ y.target = t ∧ y.st = if t = 0 then 2 else 1) ∧
  (s.count core n m).mem = s.mem ∧ ∀ k, k ≠ n → (s.count core n m).rc core k = s.rc core k

/-- The matrix engine at work (R286, R288, R291, R294 to R297, R305): an operation whose dependences are satisfied is granted its
free array, captures B, and makes its passes, each of which writes every word of its tile; at the chain's end its status is
given; after 4,096 clocks a request is starved; a block comes into the scale cache. -/
def Obligations.MatrixEvents : Prop := ∀ (s : State) (id : Nat) (p : Post), s.posts.get? id = some p →
  let quad := quadOf p.core
  let cyc := (s.quad quad).cyc
  let runs : Prop := s.onDevice p.ctx = true ∧ s.runs p.ctx = true
  (s.posts = [(id, p)] → mxGang p.p = false → p.granted = false → p.captured = false → p.eligible = none → runs →
    (s.team p.team).core.isSome = true → s.depOk p.uid p.dep = true →
    ∃ (t : State) (q : Post), exec (.mxGrant quad) s = .next t ∧ t.posts.get? id = some q ∧ q.granted = true ∧ q.due = cyc + 4 ∧
      q.p = p.p ∧ q.capture = p.capture ∧ .mxCaptureComplete id ∈ t.bag ∧ t.tiles = s.tiles ∧ t.warps = s.warps) ∧
  (∀ due, s.starveDue id = some due →
    exec (.mxStarvationLimit id) s = .next ((s.reachQuad quad due).modOp id (fun p => { p with starved := true }))) ∧
  (mxGang p.p = false → p.granted = true → p.captured = false → runs →
    (∀ r ∈ (s.warp p.buid).iss.outstanding, r.id ∉ p.waits) →
    let s1 := s.reachQuad quad p.due
    exec (.mxCaptureComplete id) s = .next ((s1.putPost id { p with captured := true, capture := s1.captureOf p, hazard := [],
                                                                    due := p.due + 44 }).post (.mxPassBoundary id))) ∧
  (mxGang p.p = false → p.granted = true → p.captured = true → runs → s.awaits (.post id) = false →
    let env : FEnv := { mode := 1, ftzi := p.fmode.getLsbD 3, ftzo := p.fmode.getLsbD 4 }
    ∀ a, s.arrayIn id p = .ok [a] →
      let s1 := (s.reachQuad quad p.due).writePass [(id, p)] env a
      let s2 := s1.modOp id (fun p => { p with committed := p.committed + 1, due := p.due + 32 })
      (mxN p.p ≤ p.committed + 1 → exec (.mxPassBoundary id) s =
        .next ((s2.endPost id (statusWord true false 0 (mxN p.p))).post (.mxGrant quad))) ∧
      (p.committed + 1 < mxN p.p → (p.committed + 1) % 8 ≠ 0 → exec (.mxPassBoundary id) s = .next (s2.post (.mxPassBoundary id)))) ∧
  (mxGang p.p = false → p.granted = true → p.captured = true → runs → s.awaits (.post id) = false →
    ∀ cause reason array addr, s.arrayIn id p = .bad cause reason array addr →
      exec (.mxPassBoundary id) s = .next ((s.failPosts [id] cause reason array addr).post (.mxGrant quad))) ∧
  (∀ ctx tensor block k r b h,
    s.reqs.find? (fun kv => kv.2.kind == .scLoad && kv.2.begun && kv.2.ctx == ctx && quadOf kv.2.core == quad &&
      (nth kv.2.args 0 0).toNat == tensor && kv.2.rows.any (fun b => b.1 == block)) = some (k, r) →
    s.onDevice ctx = true → s.scaleMem r.core ctx (s.tensor quad ctx tensor) block = .ok b h →
    ∃ t : State, exec (.scaleFetchReturn quad ctx tensor block) s = .next t ∧
      { tag := scaleTag ctx tensor (s.tensor quad ctx tensor).gen block, bytes := [BitVec.ofNat 8 b] } ∈ (t.quad quad).scales ∧
      (s.partials = [] → t.mem = s.mem))

/-- The fabric at work (R307, R309 to R318): a request is applied once, in its lane's order, answered, and when it comes again
answered as before, or read again; an answer ends its request and gives a credit, and one that comes after the last attempt gives
the credit still; a request is sent again until its eighth attempt; channels are created, closed and fetched; SIGNAL and ATOMIC messages are applied. -/
def Obligations.FabricEvents : Prop := ∀ (s : State),
  (∀ (r : FabReq), (List.range 4).any (s.switching 1) = false →
    (s.chans.get? r.ch = none ∨ r.valid = false → exec (.fabricRequestArrival r) s =
      .next ((s.violate (reqKind r) r.src r.ch r.addr 1).respond r 1 [])) ∧
    (∀ c, s.chans.get? r.ch = some c → r.valid = true → r.held = false ∨ c.holding.any (fun q => q.seq == r.seq) = true →
      let kept := c.ring.getD (r.seq.toNat % 256) (0, [])
      let t : State := if r.dup then s else s.putChan r.ch { c with dups := min 0xFFFFFFFF (c.dups + 1) }
      let again (t : State) : State := (t.hold r).post (.fabricRequestArrival { r with held := true, dup := c.applied r.seq })
      let gives (u : State) : Prop := exec (.fabricRequestArrival r) s = .next u
      (c.st = .cached ∨ c.st = .closing →
        (c.applied r.seq = true → r.write = true → gives ((t.respond r kept.1 kept.2).unhold r)) ∧
        (c.applied r.seq = true → r.write = false →
          (∀ u reason data, t.fabApply c r = .done u reason data → gives ((u.respond r reason data).unhold r)) ∧
          (∀ u, t.fabApply c r = .hold u → gives (again u))) ∧
        (c.applied r.seq = false → (r.pred = r.seq ∨ c.applied r.pred = true) →
          (∀ u reason data, s.fabApply c r = .done u reason data → gives ((u.fabDone r reason data).unhold r)) ∧
          (∀ u, s.fabApply c r = .hold u → gives (again u))) ∧
        (c.applied r.seq = false → r.pred ≠ r.seq → c.applied r.pred = false → gives (again s))) ∧
      (c.st = .fetching → gives (s.hold r)) ∧
      (c.st = .evicted → gives (((s.putChan r.ch { c with st := .fetching }).hold r).post (.channelFetchComplete r.ch))))) ∧
  (∀ (r : FabResp) c x, s.chans.get? r.ch = some c → c.sent.find? (fun x => x.req.seq == r.seq) = some x →
    let t := (s.putChan r.ch { c with credits := c.credits + 1 }).endSent r.ch x r.reason r.data
    exec (.fabricResponse r) s = .next (t.pump r.ch (t.chan r.ch).unsent.length)) ∧
  (∀ (r : FabResp) c, s.chans.get? r.ch = some c → c.sent.find? (fun x => x.req.seq == r.seq) = none → c.late.contains r.seq = true →
    let c1 := { c with credits := c.credits + 1, late := c.late.filter (fun q => q != r.seq) }
    exec (.fabricResponse r) s = .next ((s.putChan r.ch { c1 with sold := c1.oldest }).pump r.ch c.unsent.length)) ∧
  (∀ ch seq x, (s.chan ch).sent.find? (fun x => x.req.seq.toNat == seq) = some x →
    let t := s.reachMesh 0 (x.at0 + s.fab.fretry.toNat)
    let c := t.chan ch
    let y : Sent := { x with tries := x.tries + 1, at0 := t.fabClock }
    (x.tries < 8 → exec (.fabricRetryTimeout ch seq) s =
      .next (((t.putChan ch { c with sent := c.sent.map (fun z => if z.req.seq == x.req.seq then y else z) }).emit
        (.request ch x.req)).post (.fabricRetryTimeout ch seq))) ∧
    let d : State := ((t.putChan ch { c with errs := min 0xFFFFFFFF (c.errs + 1), late := c.late ++ [x.req.seq] }).endSent ch x 7 []).emit
      (.notice 2 ch)
    (8 ≤ x.tries → exec (.fabricRetryTimeout ch seq) s = .next (d.pump ch (d.chan ch).unsent.length))) ∧
  (∀ port moves, ∃ t : State, exec (.fabricPortDown port moves) s = .next t ∧ t.fab.down = addNew s.fab.down [port] ∧
    t.fab.lanes = moves.foldl (fun m p => m.set (p.1 * 16 + p.2.1) p.2.2) s.fab.lanes ∧ t.chans = s.chans ∧ t.mem = s.mem) ∧
  (∀ ch words c, chanOf words = some c →
    (s.chans.get? ch = none → ch < 1048576 → c.initCred ≤ s.fab.holding → ∃ t : State, exec (.channelCreate ch words) s = .next t ∧
      t.chans.get? ch = some c ∧ t.fab.holding = s.fab.holding - c.initCred) ∧
    (s.fab.holding < c.initCred → exec (.channelCreate ch words) s = .next (s.emit (.answer 1 [BitVec.ofNat 32 ch])))) ∧
  (∀ ch c, s.chans.get? ch = some c →
    (c.sent = [] → c.unsent = [] → c.holding = [] → exec (.channelClose ch) s =
      .next { s with chans := s.chans.erase ch, fab := { s.fab with holding := s.fab.holding + c.initCred } }) ∧
    (c.sent ≠ [] → c.st = .cached → exec (.channelClose ch) s = .next ((s.putChan ch { c with st := .closing }).post (.channelClose ch))) ∧
    (c.st = .fetching → (s.chans.filter (fun kv => kv.2.st == .cached || kv.2.st == .closing)).length < 4096 →
      exec (.channelFetchComplete ch) s = .next ((c.holding.foldl State.take (s.putChan ch { c with st := .cached, used := s.tick })).pump
        ch c.unsent.length))) ∧
  (∀ m : Msg,
    let ctx := s.msgCtx m
    let core := bits (nth m.words 1 0).toNat 8 0
    let n := bits (nth m.words 1 0).toNat 21 16
    ((s.ctx ctx).run ≠ .saved → (s.core core).retired = false → s.rcOk ctx core n = true →
      exec (.signalMsg m) s = .next (s.count core n (nth m.words 2 0).toNat)) ∧
    ((s.ctx ctx).run = .saved → exec (.signalMsg m) s = .next (s.post (.signalMsg m)))) ∧
  (∀ m : Msg,
    let c := s.chan m.ch
    let code := bits (nth m.words 0 0).toNat 15 8
    let pa := (pair (nth m.words 2 0) (nth m.words 3 0)).toNat
    let n := if 13 ≤ code then 8 else 4
    let data := ((bytesOfWords ((m.words.drop 4).take 2)).take n) ++ ((bytesOfWords ((m.words.drop 6).take 2)).take n)
    code < 16 → pa % n = 0 → s.exportBad c pa n true true = none → s.localLane c.ctx pa n true = .ok (.dev pa) →
      exec (.atomicMsg m) s = .next (s.atomicUnit noCore code (.dev pa) n data).2)

/-- Collective messages (R310, R321, R324 to R327): a message of the group's epoch is taken as its kind says (one that covers
several members only in a group that reduces on the way), one of another epoch is counted and dropped, and a rendezvous that is
not complete in time is given up.
ENTRY joins the entries of its number; when all are in and agree GO is sent, when two differ MISMATCH; EXP keeps the larger
exponents; GO gives a member its exponents; CONTRIB is combined element by element, and the last one sends RESULT; RESULT is
written at a root, which signals after its last; DONE ends the copy; MISMATCH ends every copy of the group. -/
def Obligations.CollectiveEvents : Prop :=
  (∀ (s0 : State) (m : Msg),
    let ctx := s0.msgCtx m
    let g := bits (rw m.words 0) 23 16
    let s := s0.groupRead ctx g
    let whole : Prop := m.covers = 1 ∨ (s.groupOf ctx g).swred = true
    (bits (rw m.words 0) 31 24 = (s.groupOf ctx g).epoch →
      (whole → exec (.expMsg m) s0 = .next ((s.takeExp ctx g m.covers m.words).goWaiting) ∧
        exec (.contribMsg m) s0 = .next (s.takeContrib ctx g m.covers m.words)) ∧
      (m.covers = 1 → exec (.entryMsg m) s0 = .next ((s.takeEntry ctx g m.words).goWaiting) ∧
        (s.goOk ctx g m.words = true → exec (.goMsg m) s0 = .next (s.takeGo ctx g m.words)) ∧
        (s.goOk ctx g m.words = false → exec (.goMsg m) s0 = .next s) ∧
        exec (.doneMsg m) s0 = .next ((s.takeDone ctx g m.words).goWaiting) ∧
        exec (.mismatchMsg m) s0 = .next ((s.takeMismatch ctx g m.words).goWaiting) ∧
        (∀ t, s.takeResult m.ch ctx g m.words = (t, some 0) →
          exec (.resultMsg m) s0 = .next (if 2 ^ 20 ≤ m.ch then t.ackResult ctx g (rw m.words 2) else t)) ∧
        (∀ t k, k ≠ 0 → s.takeResult m.ch ctx g m.words = (t, some k) → exec (.resultMsg m) s0 = .next t) ∧
        (∀ t, s.takeResult m.ch ctx g m.words = (t, none) → exec (.resultMsg m) s0 = .next (t.post (.resultMsg m)))) ∧
      (¬ whole → exec (.expMsg m) s0 = .next s ∧ exec (.contribMsg m) s0 = .next s)) ∧
    (bits (rw m.words 0) 31 24 ≠ (s.groupOf ctx g).epoch →
      let t : State := { s with chans := s.chans.modify m.ch (fun c => { c with dups := min 0xFFFFFFFF (c.dups + 1) }) }
      exec (.entryMsg m) s0 = .next t ∧ exec (.expMsg m) s0 = .next t ∧ exec (.goMsg m) s0 = .next t ∧
      exec (.contribMsg m) s0 = .next t ∧ exec (.resultMsg m) s0 = .next t ∧ exec (.doneMsg m) s0 = .next t ∧
      exec (.mismatchMsg m) s0 = .next t)) ∧
  (∀ (s : State) (ctx g n : Nat) k, s.coll ctx g n = some k → k.entries ≠ [] → k.entries.length ≠ (s.groupOf ctx g).size →
    (s.groupOf ctx g).timeout ≠ 0 → exec (.collectiveTimeout ctx g n) s =
      .next (((s.reachMesh 0 (k.at0 + (s.groupOf ctx g).timeout)).collFail ctx g n 2).goWaiting)) ∧
  ∀ (s : State) (ctx g : Nat) (l : List Word),
  let e := s.groupOf ctx g
  let n := rw l 2
  let i0 := rw l 3
  let new : Coll := { ctx := ctx, group := g, n := BitVec.ofNat 32 n }
  (let k0 := (s.coll ctx g n).getD new
    let k : Coll := { k0 with entries := k0.entries ++ [(rw l 1, (l.drop 4).take 4)],
                              at0 := if k0.entries.isEmpty then s.fabClock else k0.at0 }
    let s1 := s.putColl k
    let u := if k0.entries.isEmpty && e.timeout != 0 then s1.post (.collectiveTimeout ctx g n) else s1
    (e.st = 2 → s.takeEntry ctx g l = s.collSend ctx g 10 n 0 (rw l 1) [] [3]) ∧
    (e.st ≠ 2 → k.entries.length ≠ e.size → s.takeEntry ctx g l = u ∧ u.coll ctx g n = some k) ∧
    (e.st ≠ 2 → k.entries.length = e.size → k.goSent = false →
      ((∃ a ∈ k.entries, ∃ b ∈ k.entries, a.2 ≠ b.2) → s.takeEntry ctx g l = u.collFail ctx g n 1) ∧
      ((∀ a ∈ k.entries, ∀ b ∈ k.entries, a.2 = b.2) → u.allIn k = true → u.sumsFit k = true →
        ∃ x, (s.takeEntry ctx g l).coll ctx g n = some x ∧ x.goSent = true ∧ x.entries = k.entries))) ∧
  (e.st ≠ 2 → let k0 := (s.coll ctx g n).getD new
    (k0.goSent = true ∨ k0.entries.length ≠ e.size) → ∃ x, (s.takeExp ctx g 1 l).coll ctx g n = some x ∧
      x.expFrom.getD i0 0 = k0.expFrom.getD i0 0 + 1 ∧ x.entries = k0.entries ∧ (s.takeExp ctx g 1 l).mem = s.mem ∧
      ∀ p v, (expOf l)[p]? = some v → x.exps.getD (i0 + p) (0, false) =
        (max (k0.exps.getD (i0 + p) (0, false)).1 v.1, (k0.exps.getD (i0 + p) (0, false)).2 || v.2)) ∧
  (∀ k, s.coll ctx g n = some k → ∃ x, (s.takeGo ctx g l).coll ctx g n = some x ∧ x.goAll = (x.go.length == sigBlocks k.sig) ∧
    (sigRop k.sig = 4 → ∀ p v, (expOf l)[p]? = some v → i0 + p < sigBlocks k.sig → x.go.get? (i0 + p) = some v) ∧
    (sigRop k.sig ≠ 4 → x.go = k.go) ∧ (∀ id, k.copy = some id → .copyChunkRead id ∈ (s.takeGo ctx g l).bag)) ∧
  (∀ k sig rest r, s.coll ctx g n = some k → k.entries = (r, sig) :: rest →
    let have1 (j : Nat) : Nat := k.got.getD j 0 + if j = i0 then 1 else 0
    let full : Prop := ∀ j < pieces (sigCount sig) 8, e.size ≤ have1 (8 * j)
    (¬ full → ∃ x, (s.takeContrib ctx g 1 l).coll ctx g n = some x ∧ (∀ j, x.got.getD j 0 = have1 j) ∧
      (∀ j, j < 8 → i0 + j < sigCount sig →
        x.sums.get? (i0 + j) = some (combine (sigRop sig) (k.sums.get? (i0 + j)) (contribVal l j))) ∧
      (∀ j, j < i0 ∨ i0 + 8 ≤ j → x.sums.get? j = k.sums.get? j) ∧ (s.takeContrib ctx g 1 l).mem = s.mem) ∧
    (full → k.goSent = true → ∃ x, (s.takeContrib ctx g 1 l).coll ctx g n = some x ∧ x.resultSent = true)) ∧
  (∀ ch k id c, s.coll ctx g n = some k → k.copy = some id → s.copies.get? id = some c →
    let sz := recSize c.rc
    let num := min (48 / sz) (sigCount k.sig - i0)
    let data := bytesOfWords (l.drop 4)
    (∀ i < num, ∃ x, s.rootDst ch c ((i0 + i) * sz) = .ok x) → ∃ (t : State) (x : Coll),
      s.takeResult ch ctx g l = (t, some 0) ∧ t.coll ctx g n = some x ∧ x.applied = k.applied + num ∧
      (x.applied = sigCount k.sig → recSignal c.rc = true → ∀ y, t.copies.get? id = some y → y.signalled = true) ∧
      (∀ d, num = 1 → s.rootDst ch c (i0 * sz) = .ok d → t.mem = ((s.copyWalks c [i0 * sz] true).landElem c.mem
        (if recRop c.rc = 4 then 0 else recRop c.rc) (recCode c.rc) false d (data.take sz)).mem)) ∧
  (∀ k id c, s.coll ctx g n = some k → k.copy = some id → s.copies.get? id = some c → ∃ t : State, s.takeDone ctx g l = t ∧
    t.coll ctx g n = none ∧ t.copies.get? id = some { c with coll := none, lost := [] } ∧ t.mem = s.mem ∧
    (c.unread = [] → c.pend = [] → c.st = .moving → .copyEnd id ∈ t.bag)) ∧
  (e.st = 2 → s.takeMismatch ctx g l = s) ∧
  (e.st ≠ 2 → (rw l 4 = 4 → s.isCoord ctx g n ≠ some false → s.takeMismatch ctx g l = s.collFail ctx g n 4) ∧
    (rw l 4 ≠ 4 ∨ s.isCoord ctx g n = some false → let t := s.takeMismatch ctx g l
      (∀ m, t.coll ctx g m = none) ∧ (∀ id c, s.copies.get? id = some c → c.ctx = ctx → recCrel c.rc = true →
        recGroup c.rc = g → c.fail = none → c.cancel = false → c.mism = none → ∃ y, t.copies.get? id = some y ∧
          y.mism = some (rw l 4, n) ∧ y.coll = none ∧ y.unread = [] ∧ y.committed = c.committed)))

/-- The Creel at work (R332 to R340, R345, R346): bytes of an expected position of a gated slot are kept until its entry is full,
and a full expectation makes the slot DUE; other bytes are dropped by their kind; a slot comes DUE at its deadline with what is
missing substituted; the released slot's row is written, and acknowledged where another device holds it, then its record,
before the cursor rises; a QUIET slot becomes FREE.
CRALLOC gives the lowest free slots, and a gate makes a slot GATED, or DUE when it expects nothing. -/
def Obligations.CreelEvents : Prop :=
  (∀ (s : State) (a : Arrival) t, s.arrive a.buf a.data = (t, true) →
    (∀ id i, a.src = .op id i → exec (.creelArrival a) s = .next (t.arrivedOp id i)) ∧
    (∀ id ix, a.src = .copy id ix → exec (.creelArrival a) s = .next (t.landingAnswer id ix 0 none))) ∧
  (∀ (s : State) (a : Arrival) t, s.arrive a.buf a.data = (t, false) → exec (.creelArrival a) s = .next (t.post (.creelArrival a))) ∧
  (∀ (b : CrBuf) now pick n p l, n < crNslots b.cfg →
    let x := b.slot n
    let y := ((b.land now pick n p l).1).slot n
    (x.st = .free ∨ x.st = .allocated → b.land now pick n p l = (b, some (2, l.length))) ∧
    (x.st = .quiet ∨ x.st = .kept → b.land now pick n p l = (b, some (4, l.length))) ∧
    (x.st = .gated → (b.expected x).getLsbD p = false → b.land now pick n p l = (b, some (1, l.length))) ∧
    (x.st = .gated → (b.expected x).getLsbD p = true → x.arrived.getLsbD p = true → b.land now pick n p l = (b, some (3, l.length))) ∧
    (x.st = .gated → (b.expected x).getLsbD p = true → x.arrived.getLsbD p = false →
      y.arrived = (if crEntry b.cfg ≤ nth x.counts p 0 + (l.filter (fun q => decide (q.1 < crEntry b.cfg))).length
        then x.arrived ||| (1#8 <<< p) else x.arrived) ∧
      (y.st = .due ↔ y.arrived = b.expected x) ∧ (y.st = .due ∨ y.st = .gated) ∧
      ∀ m, m ≠ n → ((b.land now pick n p l).1).slot m = b.slot m)) ∧
  (∀ (s : State) b n due, s.creelDue b n = some due →
    let s1 := s.reachMesh (b / 8) due
    let k := (s1.buf b).slot n
    let y : CrSlot := { k with st := .due, start := due, timedOut := true, subst := (s1.buf b).expected k &&& ~~~k.arrived, dropped := [] }
    exec (.creelDeadline b n) s = .next ((s1.putBuf b ((s1.buf b).putSlot n y)).post (.creelRelease b))) ∧
  (∀ (s : State) b n due, s.quietDue b n = some due →
    let s1 := s.reachMesh (b / 8) due
    exec (.creelQuietEnd b n) s = .next (s1.putBuf b { s1.buf b with slots := (s1.buf b).slots.erase n })) ∧
  (∀ (s : State) b n fb e t owed plan, s.releasable b = some n → s.awaits (.creel b) = false →
    let x := s.buf b
    let k := x.slot n
    let rec1 (x : CrBuf) : Nat := (cw64 x.cfg 8 + 16 * (x.cursor.toNat % 2 ^ crRrlog x.cfg)) % 2 ^ 64
    let s1 := s.creelReads b ((x.fallbacks k).flatMap (fun e => crPieces ((cw64 x.cfg 10 + e * crH x.cfg * 4) % 2 ^ 64) (crH x.cfg * 4)))
    let r : CrRel := { id := s1.fresh, slot := n, owed := owed }
    let t1 : State := State.putBuf { t with fresh := s1.fresh + 1 } b { t.buf b with rel := some r }
    x.logBad = none → x.rel = none → s.readFallbacks b (x.fallbacks k) = (.ok fb, e) → s1.creelPlan b (crPieces (rec1 x) 16) = .ok plan →
    s1.creelWrite b s1.fresh n ((cw64 x.cfg 4 + k.token.toNat * cw x.cfg 6) % 2 ^ 64) (x.row k fb) = .ok (t, owed) →
    (owed ≠ 0 → exec (.creelRelease b) s = .next t1) ∧
    (∀ u, owed = 0 →
      t1.creelWrite b r.id n (rec1 (t1.buf b)) (bytesOfWords ((t1.buf b).releaseWords ((t1.buf b).slot n) n)) = .ok (u, 0) →
      exec (.creelRelease b) s = .next ((u.dropFars (.creel b)).released b n))) ∧
  (∀ (s : State) b n, let y := (s.released b n).buf b
    y.cursor = (s.buf b).cursor + 1 ∧ (y.slot n).st = (if ((s.buf b).slot n).keep then .kept else .quiet) ∧ (y.slot n).order = none) ∧
  (∀ (b : CrBuf),
    (∀ lane tok rest n, b.mayAssign = true → b.lowestFree = some n →
      let y : CrBuf := { b.putSlot n { st := .allocated, token := tok, order := some b.next } with next := b.next + 1 }
      b.allot ((lane, tok) :: rest) = ((y.allot rest).1, (lane, BitVec.ofNat 32 n) :: (y.allot rest).2)) ∧
    (∀ lane tok rest, b.mayAssign = false ∨ b.lowestFree = none →
      b.allot ((lane, tok) :: rest) = (b, ((lane, tok) :: rest).map (fun q => (q.1, 0xFFFFFFFF#32)))) ∧
    (∀ now uid lane who (l : List Word),
      let n := (nth l 0 0).toNat
      let z := b.gate now uid lane who l
      let x := b.slot n
      ((z.slot n).st = .gated ∨ (z.slot n).st = .due) ∧ ((z.slot n).st = .due ↔ z.expected (z.slot n) = 0) ∧ (z.slot n).start = now ∧
      (z.slot n).token = x.token ∧ (z.slot n).order = some (x.order.getD b.next) ∧ (z.slot n).keep = (nth l 1 0).getLsbD 0 ∧
      (z.slot n).weights = (l.drop 4).take 8 ∧ (∀ m, m ≠ n → z.slot m = b.slot m) ∧
      z.next = (if x.order.isSome then b.next else b.next + 1)))

/-- The launch engine at work (R71, R350 to R353, R356 to R364): packets are taken in turn, teams are placed, warps, teams and
grids retire, contexts are pre-empted, saved and restored, and the placement register and droop counts are kept. The model's own:
which die a queue's grid belongs to and that the placement register keeps bits 19:0 (log 29, DEDUCED); that a WAITMEM once met
is taken without another test (log 46, DEDUCED). -/
def Obligations.LaunchEvents : Prop := ∀ (s : State),
  (∀ q x tail, s.queues.get? q = some x →
    let t := s.modQueue q (fun x => { x with tail := tail })
    ((tail - x.head).toNat ≤ 2 ^ x.log → x.live = true → exec (.doorbell q tail) s = .next t) ∧
    (x.live = false → exec (.doorbell q tail) s = .next (t.nextPacket q)) ∧
    (2 ^ x.log < (tail - x.head).toNat → (t.queue q).live = true → exec (.doorbell q tail) s = .next (t.queueError q))) ∧
  (∀ q l,
    let ready (x : State) (l : List Word) : Prop := (x.queue q).live = true ∧ x.queueRuns q = true ∧ x.yields q = false ∧
      x.switching 0 0 = false ∧ x.packet q = .ok l
    let p := s.packetSeen q
    (ready p l →
      (packetOf l = some .nop → exec (.packetNop q) s = .next (p.taken1 q)) ∧
      (packetOf l = none → exec (.packetNop q) s = .next (p.queueError q)) ∧
      (∀ after d, packetOf l = some (.launch after d) →
        let ctx := (p.queue q).ctx
        let la : Launch := { words := d, queue := some q }
        let die := p.choose 9400 4
        (p.takeable q = true →
          (p.refusal ctx la = none → exec (.packetLaunch q) s = .next ((p.accept ctx die la (p.queue q).level).2.taken1 q)) ∧
          (∀ k, p.refusal ctx la = some k → exec (.packetLaunch q) s = .next ((p.refuseWord ctx die la k).taken1 q))) ∧
        (p.takeable q = false → exec (.packetLaunch q) s = .next (p.post (.packetLaunch q))))) ∧
    (∀ a v m k, packetOf l = some (.waitmem a v m k) →
      let test (x : State) (gives : State → Prop) : Prop := ready x l →
        let read := x.distRead q (x.queue q).ctx a 1
        let t := (x.distSeen (x.queue q).ctx a 1).dropFars (.queue q)
        ((x.queue q).met = true → gives (x.taken1 q)) ∧
        ((x.queue q).met = false →
          (∀ w, read = .ok w → waitmet (nth w 0 0) v m k = true →
            gives ((t.modQueue q (fun x => { x with met := true })).post (.packetWaitmem q))) ∧
          (∀ w, read = .ok w → waitmet (nth w 0 0) v m k = false →
            gives ((t.modQueue q (fun y => { y with testAt := (x.die 0).mesh })).post (.waitmemRetest q))) ∧
          (read = .bad → gives (x.queueError q)) ∧
          (read = .page → gives ((x.distWait q (x.queue q).ctx a 1 .page).post (.packetWaitmem q))))
      test p (fun t => exec (.packetWaitmem q) s = .next t) ∧ test s (fun t => exec (.waitmemRetest q) s = .next t))) ∧
  (∀ ctx g x, s.grids.get? (gridKey ctx g) = some x → g < 2 ^ 24 → x.retired = false →
    (x.placed < x.teams → (s.ctx ctx).run = .running → s.placeNext ctx g = none → s.victim ctx x.prio = none →
      exec (.teamPlace ctx g) s = .next (s.post (.teamPlace ctx g))) ∧
    (∀ t, x.placed < x.teams → (s.ctx ctx).run = .running → s.placeNext ctx g = some t →
      ∃ q : State, exec (.teamPlace ctx g) s = .next q ∧ q.warps = t.warps ∧ q.teams = t.teams ∧ q.grids = t.grids ∧ q.mem = t.mem) ∧
    (s.gridDone ctx g = true → x.exited = x.teams →
      (x.desc.completion = 0 → exec (.gridRetire ctx g) s = .next (s.retireGrid ctx g)) ∧
      (∀ t, x.desc.completion ≠ 0 → s.complete ctx x.die g x.desc.completion (statusWord true false 0 g) = some t →
        exec (.gridRetire ctx g) s = .next (t.retireGrid ctx g)))) ∧
  (∀ u w, s.warps.get? u = some w → w.retired = false → w.live = 0 →
    (w.id.place.isSome = true → s.exitWait u = none → ∃ t : State, exec (.warpRetire u) s = .next t ∧ (t.warp u).retired = true) ∧
    ((s.exitWait u).isSome = true → exec (.warpRetire u) s = .next (s.post (.warpRetire u)))) ∧
  (∀ ctx c, s.ctxs.get? ctx = some c →
    (c.run = .running → c.terminated = false → s.replaying ctx = false →
      exec (.preemptRequest ctx) s = .next ((s.modCtx ctx (fun c => { c with run := .halting })).post (.contextSave ctx))) ∧
    (∀ due, s.sliceDue ctx = some due →
      let t := s.reachMesh 0 due
      let other := t.ctxs.any (fun kv => kv.1 != ctx && t.waiting kv.1 && t.ctxPrio kv.1 == t.ctxPrio ctx)
      exec (.timeSliceExpiry ctx) s = .next (if other then t.preempt ctx else t.post (.timeSliceExpiry ctx))) ∧
    (c.run = .halting → s.halted ctx = false → exec (.contextSave ctx) s = .next (s.post (.contextSave ctx))) ∧
    (c.run = .halting → s.halted ctx = true → ∃ t : State, exec (.contextSave ctx) s = .next t ∧ (t.ctx ctx).run = .saved ∧
      (t.ctx ctx).cores = [] ∧ (t.ctx ctx).saves = c.cores.map (s.coreSave ctx) ∧
      ∀ u w, (u, w) ∈ t.warps → w.id.ctx = ctx → w.retired = false → w.id.place = none) ∧
    (c.run = .saved → c.terminated = false → s.restoreMap ctx = none → s.victim ctx (s.ctxPrio ctx) = none →
      exec (.contextRestore ctx) s = .next (s.post (.contextRestore ctx))) ∧
    (∀ m, c.run = .saved → c.terminated = false → s.betterWaits ctx = false → s.bag = [] → s.restoreMap ctx = some m →
      ∃ t : State, exec (.contextRestore ctx) s = .next t ∧ (t.ctx ctx).run = .running ∧ (t.ctx ctx).saves = [])) ∧
  (∀ die v, 60 ≤ v.toNat % 256 → v.toNat % 256 ≤ 125 →
    exec (.placementRegisterWrite die v) s = .next (s.modDie die (fun d => { d with placement := v &&& 0xFFFFF }))) ∧
  (∀ die v, v.toNat % 256 < 60 ∨ 125 < v.toNat % 256 → exec (.placementRegisterWrite die v) s = .next s) ∧
  (∀ core, exec (.droopEvent core) s =
    .next (s.modCore core (fun k => { k with droops := k.droops ++ [(s.die (dieOf core)).placements] })))

/-- Observation at work (R392, R398, R400 to R407): record mode's chunks, digests and ends, OBSCTL, samples, a debugger's holds,
stops, steps and breakpoints, dumps, and the start of a replay. How a dump's image is laid out is the model's own (log 25, DESIGN
CHOICE), and so is what context a replay runs in (log 84). -/
def Obligations.ObserveEvents : Prop := ∀ (s : State) (core ctx : Nat),
  (∃ t : State, exec (.chunkWrite core) s = .next t ∧ t.warps = s.warps ∧ t.host = s.host ∧
    ∀ (i : Nat) g, (t.core core).segs[i]? = some g → g.opened = true → g.waiting = false) ∧
  (∀ due, s.fullDue core = some due →
    let t := s.reachCore core due
    let full (g : Seg) : Bool := g.opened && (match g.fullAt with | some a => decide (a ≤ (t.core core).cyc) | none => false)
    exec (.recordRegionFull core) s = .next (((t.core core).segs.filter full).foldl (fun s g => s.endSeg core g.ctx 1) t)) ∧
  (∀ due, s.digestDue core = some due →
    let t := s.reachCore core due
    let ctxs := ((t.core core).segs.filter (fun g => g.opened && decide (g.digestAt + 4096 ≤ (t.core core).cyc))).map (fun g => g.ctx)
    exec (.digestLog core) s = .next ((ctxs.foldl (fun s x => s.logDigest core x) t).post (.digestLog core))) ∧
  (∀ who v, (s.manages who ctx = true → bits v.toNat 26 24 = 0 → ∃ t : State, exec (.obsctlWrite ⟨who, ctx⟩ v) s = .next t ∧
      ((s.ctx ctx).obsctl.getLsbD 31 = false → (t.ctx ctx).obsctl = v)) ∧
    (bits v.toNat 26 24 ≠ 0 ∨ s.manages who ctx = false → exec (.obsctlWrite ⟨who, ctx⟩ v) s = .next s)) ∧
  (∀ b, s.manages (.software b) ctx = true ↔
    ∃ c, s.ctxs.get? ctx = some c ∧ c.d.secure = b ∧ (b = true → s.svc.session = true)) ∧
  (∀ due, s.sampleDue core ctx = some due → ∃ t : State, exec (.pcSample core ctx) s = .next t ∧ due + 1 ≤ (t.core core).cyc ∧
    t.warps.keys = s.warps.keys) ∧
  (∀ u w l, s.warps.get? u = some w → s.bpMatch w = some l → exec (.breakpointStop u) s = .next (s.preciseStop u l)) ∧
  ((s.ctx ctx).held = true →
    exec (.debugStop ctx) s = .next ((s.modCtx ctx (fun c => { c with stopped := true, stopOn := none, step := none })).pauseWatch ctx) ∧
    exec (.debugResume ctx) s = .next ((s.modCtx ctx (fun c => { c with stopped := false, stopOn := none, step := none })).resumeWatch ctx) ∧
    (∀ n pc grid filter, n < 4 → exec (.setBreakpoint ctx n pc grid filter) s =
      .next (s.modCtx ctx (fun c => { c with bps := setAt c.bps n { pc := pc, grid := grid, filter := filter } }))) ∧
    (∀ grid team thread u w, s.warps.find? (fun kv => kv.2.id.ctx == ctx && kv.2.id.grid == grid && s.teamIndex kv.2 == team &&
        kv.2.id.w == thread / kv.2.width && kv.2.id.place.isSome && !kv.2.retired) = some (u, w) → (s.ctx ctx).stopped = true →
      exec (.debugSingleStep ctx grid team thread) s = .next (s.modCtx ctx (fun c => { c with step := some (u, thread % w.width) })))) ∧
  ((s.ctx ctx).held = false → exec (.debugStop ctx) s = .next s ∧ exec (.debugResume ctx) s = .next s) ∧
  (∀ take, exec (.debuggerHold ctx take) s = .next (s.modCtx ctx (fun c => { c with held := take }))) ∧
  (∀ region, (s.ctxs.get? ctx).isSome = true → (s.ctx ctx).stopped = true → (s.ctx ctx).terminated = false →
    exec (.dump ctx region) s =
      .next ((s.wrWords region (s.saveImage ctx ++ s.nameMap ctx)).modCtx ctx (fun c => { c with dumpTo := some region }))) ∧
  (∀ seg g, s.allSegs[seg]? = some g → g.opened = false →
    (s.mayReplay core ctx = true → exec (.replayStart core ⟨seg, ctx⟩) s = .next ((s.modCore core (fun k => { k with
      cyc := g.start, busy := [], mag := g.mag, lq := g.lq, replay := some { g with ctx := ctx, digest := 0 } })).placeDue core)) ∧
    (s.mayReplay core ctx = false → exec (.replayStart core ⟨seg, ctx⟩) s = .next s))

/-- System software at work (R29, R341, R360, R382 to R384, R409 to R414, R416, R417, R420, R422): contexts, their allotments and
registers, the tables and registers that management writes, host accesses, worlds, invalidations, and page modes. The model's own:
that an id in use is refused, who may ask (log 66, DEDUCED), and the form of each answer (log 68). -/
def Obligations.SystemEvents : Prop := ∀ (s : State) (ctx : Nat),
  (∀ who words c, ctxOf words = some c → let id := (nth words 0 0).toNat
    (s.svc.ready = true → s.ctxs.get? id = none → s.creates who c.d = true → s.areasOk c.d = true →
      exec (.contextCreate ⟨who, words⟩) s = .next (State.answered { s with ctxs := s.ctxs.set id c } true [nth words 0 0])) ∧
    (s.svc.ready = false ∨ (s.ctxs.get? id).isSome = true ∨ s.creates who c.d = false ∨ s.areasOk c.d = false →
      exec (.contextCreate ⟨who, words⟩) s = .next (s.answered false [nth words 0 0]))) ∧
  (∀ (b : Bool) (d : Desc), s.creates .firmware d = true ∧
    (s.creates (.software b) d = true ↔ d.secure = b ∧ (b = true → s.svc.session = true ∧ d.priv = false))) ∧
  (∀ who words, ctxOf words = none → exec (.contextCreate ⟨who, words⟩) s = .next (s.answered false [nth words 0 0])) ∧
  ((s.ctxs.get? ctx).isSome = true → let id : List Word := [BitVec.ofNat 32 ctx]
    (∀ core mask, core < 384 → taken2 s ctx (fun c => c.tileMask) core mask = false → exec (.allotmentSet ctx (.tiles core mask)) s =
      .next ((s.modCtx ctx (fun c => { c with tileMask := c.tileMask.set core mask })).answered true id)) ∧
    (∀ core mask, taken2 s ctx (fun c => c.tileMask) core mask = true →
      exec (.allotmentSet ctx (.tiles core mask)) s = .next (s.answered false id)) ∧
    (∀ core mask, core < 384 → exec (.allotmentSet ctx (.counters core mask)) s =
      .next ((s.modCtx ctx (fun c => { c with rcMask := c.rcMask.set core mask })).answered true id)) ∧
    (∀ die mask, die < 4 → taken2 s ctx (fun c => c.creelMask) die mask = false → exec (.allotmentSet ctx (.creel die mask)) s =
      .next ((s.modCtx ctx (fun c => { c with creelMask := c.creelMask.set die mask })).answered true id)) ∧
    (∃ t : State, exec (.contextEnd ctx) s = .next t ∧ (∀ u w, (u, w) ∈ t.warps → w.id.ctx ≠ ctx) ∧
      (∀ k x, (k, x) ∈ t.teams → x.ctx ≠ ctx) ∧ t.mem = s.mem)) ∧
  (∀ v, exec (.prqheadWrite ctx v) s = .next (s.modCtx ctx (fun c => { c with d := { c.d with prqHead := v } }))) ∧
  (∀ r, exec (.pageReplay ctx r) s = .next (s.replayPages ctx r)) ∧
  (∀ a : HostAcc,
    (a.sys = true → a.write = true →
      exec (.hostAccess a) s = .next ((s.hostWr a.addr a.data).toHost (.sys a.addr) a.data.length)) ∧
    (a.sys = true → a.write = false → ∃ (l : List Byte) (t : State), exec (.hostAccess a) s = .next (t.emit (.image (cellsAt a.addr l))) ∧
      t.host = s.host ∧ t.mem = s.mem ∧ l.length = a.len ∧
      ∀ i < a.len, nth l i 0 = nth (s.hostRd a.addr a.len) i 0 ∨ nth l i 0 ∈ s.avtos.late.getD (a.addr + i) []) ∧
    (a.sys = false → inWindow a.addr = false → inCreel a.addr = false →
      (a.write = true → exec (.hostAccess a) s =
        .next ((linesAt a.addr a.data.length).foldl (fun s l => s.toHost (.dev l) 128) (s.wr a.addr a.data))) ∧
      (a.write = false → s.partials = [] → s.avtos.copies = [] → ∃ t : State,
        exec (.hostAccess a) s = .next (t.emit (.image (cellsAt a.addr (s.seen a.addr a.len)))) ∧ t.mem = s.mem))) ∧
  (∀ who b, (s.speaks who true = true → exec (.worldChange ⟨who, b⟩) s =
      .next ((s.switchWorld b).1.answered ((s.switchWorld b).2 == 0) [b])) ∧
    (s.speaks who true = false → exec (.worldChange ⟨who, b⟩) s = .next (s.answered false [b])) ∧
    ((s.switchWorld b).2 ≠ 0 → (s.switchWorld b).1 = s) ∧
    (s.blockHolds (bits b.toNat 3 0) (bits b.toNat 19 4) = true → (s.switchWorld b).2 ≠ 0)) ∧
  (∀ v : Word, (1024 ≤ v.toNat → v.toNat ≤ 2 ^ 31 →
      exec (.registerWrite (.fretry v)) s = .next (State.answered { s with fab := { s.fab with fretry := v } } true [])) ∧
    (v.toNat < 1024 → exec (.registerWrite (.fretry v)) s = .next (s.answered false []))) ∧
  (∀ q l x, queueOf l = some x → q < 256 → (s.ctxs.get? x.ctx).isSome = true →
    exec (.registerWrite (.queue q l)) s =
      .next ((State.nextPacket { s with queues := s.queues.set q x, bag := s.bag.filter (fun e => !ofQueue q e) } q).answered true [])) ∧
  (∀ id i, s.invals.find? (fun i => i.id == id) = some i → ∃ t : State, exec (.tlbinvComplete id) s = .next t ∧
    (∀ c, ∀ e ∈ (t.core c).tlb, e.covered i = false) ∧ (∀ q, ∀ e ∈ (t.quad q).tlb, e.covered i = false) ∧
    (i.pages = 0 → (s.ctxs.get? i.ctx).isSome = true →
      (t.ctx i.ctx).d.root = ((s.ctx i.ctx).d.nextRoot).getD (s.ctx i.ctx).d.root)) ∧
  (∀ u w, s.warps.get? u = some w → w.iss.resume = .halt →
    exec (.haltResume u) s = .next (s.modWarp u (fun w => { w with iss := { w.iss with resume := .resumed } }))) ∧
  (∀ die, exec (.epochEnd die) s = .next (((s.reachMesh die (s.epochDue die)).mapFrames die
    (fun f => f.epoch (bits (s.die die).slmode.toNat 23 16))).modDie die (fun d => { d with epochAt := s.epochDue die }))) ∧
  (∀ die v, die < 4 → bits v.toNat 23 16 < bits v.toNat 31 24 → bits v.toNat 15 8 ≠ 0 → bits v.toNat 3 1 = 0 →
    let t := s.modDie die (fun d => { d with slmode := v })
    exec (.slmodeWrite die v) s = .next (if v.getLsbD 0 then t else t.mapFrames die (fun f => { f with replicated := false, replicas := [] }))) ∧
  (∀ die v, bits v.toNat 31 24 ≤ bits v.toNat 23 16 ∨ bits v.toNat 15 8 = 0 ∨ bits v.toNat 3 1 ≠ 0 → exec (.slmodeWrite die v) s = .next s) ∧
  (∀ channel bank, exec (.bankRefresh channel bank) s = .next (s.closeRow channel bank) ∧
    exec (.rowClose channel bank) s = .next ((s.passLpddr channel 256).closeRow channel bank))

/-- Service (R416, R423 to R429): firmware, retraining, retired cores, checkpoints, error records, power, and attestation in the
order of its protocol. The order of the attestation messages is the protocol's, not the spec's (log 31, PRESUMED); what power-on
clears, how a clock step and a shutdown come about (log 67), and that a switch of firmware is two events (log 81), are the model's. -/
def Obligations.ServiceEvents : Prop := ∀ (s : State),
  (∀ kind die, kind < 3 → die < 4 → let k := kind * 4 + die
    (s.switching kind die = false → exec (.firmwareUpdate kind die true) s = .next (State.post
      { s with svc := { s.svc with stops := s.svc.stops.set k (s.die die).mesh } } (.firmwareUpdate kind die true))) ∧
    (s.switching kind die = true → exec (.firmwareUpdate kind die true) s = .next (State.answered { s with svc := { s.svc with
      firmware := s.svc.firmware.set k (s.svc.firmware.getD k 0 + 1), stops := s.svc.stops.erase k } } true [])) ∧
    exec (.firmwareUpdate kind die false) s = .next (s.answered false [])) ∧
  (∀ channel target, channel < 32 → target < 32 → channel % 8 = target % 8 → channel ≠ target → ∃ t : State,
    exec (.lpddrRetrain channel target) s = .next t ∧ t.warps = s.warps ∧ t.host = s.host ∧
      (s.partials = [] → s.memOk → ∀ a, channelOf a ≠ target → Memory.read t.mem a = Memory.read s.mem a)) ∧
  (∀ core, ∃ t : State, exec (.coreRetire core) s = .next t ∧ (t.core core).retired = true ∧ t.mem = s.mem ∧ t.warps = s.warps) ∧
  (s.anyRunning = true → exec .checkpoint s = .next (s.preemptAll.post .checkpoint)) ∧
  (s.anyRunning = false → ∃ t : State, exec .checkpoint s = .next t ∧ t.svc.image = some s.image ∧ t.mem = s.mergeAll.mem) ∧
  (s.image.keys = if s.svc.session then some s.svc.keys else none) ∧
  (∀ i keys, s.svc.image = some i → i.keys = some keys → s.svc.session = true → ∃ t : State, exec .checkpointRestore s = .next t ∧
    t.mem = s.loadLines i keys ∧ t.svc.keys = keys ∧ t.versions = i.versions ∧ t.ctxs = i.ctxs ∧
    t.warps = i.warps ∧ t.teams = i.teams ∧ t.grids = i.grids ∧ t.bufs = i.bufs ∧ t.host = s.host) ∧
  (s.svc.image = none ∨ s.svc.session = false ∨ (∃ i, s.svc.image = some i ∧ i.keys = none) →
    exec .checkpointRestore s = .next (s.answered false [])) ∧
  (∀ e : EccRec, ∃ t : State, exec (.eccError e) s = .next t ∧ t.svc.errSeq = s.svc.errSeq + 1 ∧
    (e.uncorr = false → t.mem = s.mem ∧ t.warps = s.warps ∧ t.bad = s.bad)) ∧
  (∃ t : State, exec .powerOn s = .next t ∧ t.mem = [] ∧ t.warps = [] ∧ t.ctxs = [] ∧ t.svc.ready = true ∧ t.svc.session = false ∧
    t.svc.resets = s.svc.resets + 1 ∧ t.svc.keys = newKeys (s.svc.resets + 1) ∧ t.host = s.host) ∧
  (∀ up, (∀ kv ∈ s.cores, kv.2.temp < 115) → exec (.clockThrottle up) s = .next { s with
    svc := { s.svc with clock := if up = false then max 350 (s.svc.clock - 25)
      else if s.svc.cap < s.svc.drawn then s.svc.clock else min 700 (s.svc.clock + 25) } }) ∧
  (∀ up, (∃ kv ∈ s.cores, 115 ≤ kv.2.temp) →
    exec (.clockThrottle up) s = .next { s with svc := { s.svc with clock := 350 } }) ∧
  (∀ die, let hot : Prop := ∃ kv ∈ s.cores, dieOf kv.1 = die ∧ 125 ≤ kv.2.temp
    (¬ hot → exec (.thermalShutdown die) s = .next s) ∧
    (hot → s.anyRunning = true → exec (.thermalShutdown die) s = .next (s.preemptAll.post (.thermalShutdown die))) ∧
    (hot → s.anyRunning = false → ∃ t : State, exec (.thermalShutdown die) s = .next t ∧ ∀ d, d < 4 → (t.die d).off = true)) ∧
  (∀ m : SpdmReq,
    let has (l : List Nat) : Prop := ∀ k ∈ l, s.svc.spdm.contains k = true
    exec (.getVersion m) s = .next (State.spdmAnswer { s with svc := { s.svc with spdm := [], session := false } } 0x84 m) ∧
    (has [0x84] → exec (.getCapabilities m) s = .next (s.spdmAnswer 0xE1 m)) ∧
    (has [0x84, 0xE1] → exec (.negotiateAlgorithms m) s = .next (s.spdmAnswer 0xE3 m)) ∧
    (has [0x84, 0xE1, 0xE3] →
      exec (.getDigests m) s = .next (s.spdmAnswer 0x81 m) ∧ exec (.getCertificate m) s = .next (s.spdmAnswer 0x82 m) ∧
      exec (.challenge m) s = .next (s.spdmAnswer 0x83 m) ∧ exec (.getMeasurements m) s = .next (s.spdmAnswer 0xE0 m) ∧
      exec (.keyExchange m) s = .next (s.spdmAnswer 0xE4 m)) ∧
    (has [0xE4] → exec (.finish m) s = .next (State.spdmAnswer { s with svc := { s.svc with session := true } } 0xE5 m)) ∧
    (¬ has [0x84] → exec (.getCapabilities m) s = .next s.spdmError))
end

