-- ==== Sys2Proof/Laws/Float.lean ====
section
/-! SUPPORT. What rounding and sums of exact terms come to: the functions of `Float` meet the laws of `Safety`. -/

namespace Sys2Proof.Machine

open Sys2Proof

/-- The number of units that a mode gives rounds to is unique, and `roundQ` gives it. -/
theorem roundQ_roundsTo {mode : Nat} {neg : Bool} {rnd N D : Nat} (hD : 0 < D) :
    RoundsTo mode neg rnd N D (roundQ mode neg N D rnd) := by
  have hN : D * (N / D) + N % D = N := Nat.div_add_mod N D
  have hr : N % D < D := Nat.mod_lt _ hD
  have e1 : N / D * D = D * (N / D) := Nat.mul_comm _ _
  have e2 : (N / D + 1) * D = D * (N / D) + D := by rw [Nat.add_mul, e1, Nat.one_mul]
  unfold RoundsTo roundQ
  generalize N / D = Q at *
  generalize N % D = R at *
  generalize hx : D * Q = X at *
  refine ⟨?_, ?_, ?_, ?_, ?_⟩
  · rintro rfl
    simp only [show ¬ (1 = 6) by decide, if_false, Bool.or_eq_true, decide_eq_true_eq, Bool.and_eq_true, beq_iff_eq]
    split
    · rename_i h0
      rw [e2]
      refine ⟨by omega, by omega, fun h => ?_⟩
      rcases h0 with h0 | ⟨_, h0⟩
      · omega
      · exact Nat.succ_mod_two_eq_zero_iff.mpr h0
    · rename_i h0
      rw [e1]
      refine ⟨by omega, by omega, fun h => ?_⟩
      rcases Nat.mod_two_eq_zero_or_one Q with h1 | h1
      · exact h1
      · exact absurd (Or.inr ⟨by omega, h1⟩) h0
  · rintro (rfl | ⟨rfl, rfl⟩ | ⟨rfl, rfl⟩) <;> simp [e1] <;> omega
  · rintro (⟨rfl, rfl⟩ | ⟨rfl, rfl⟩) <;>
      (simp only [show ¬ (3 = 6) by decide, show ¬ (4 = 6) by decide, if_false, Bool.true_and, Bool.not_false, bne_iff_ne]
       split <;> simp only [e1, e2] <;> omega)
  · rintro rfl
    simp only [show ¬ (5 = 6) by decide, if_false, decide_eq_true_eq]
    split <;> simp only [e1, e2] <;> omega
  · rintro rfl
    simp

theorem RoundsTo.unique {mode : Nat} {neg : Bool} {rnd N D p q : Nat} (hD : 0 < D) (h1 : 1 ≤ mode) (h6 : mode ≤ 6)
    (hp : RoundsTo mode neg rnd N D p) (hq : RoundsTo mode neg rnd N D q) : p = q := by
  obtain ⟨a1, a2, a3, a5, a6⟩ := hp
  obtain ⟨b1, b2, b3, b5, b6⟩ := hq
  have key : ∀ x y : Nat, x * D < y * D + D → x ≤ y := by
    intro x y h
    by_contra hh
    have : (y + 1) * D ≤ x * D := Nat.mul_le_mul_right D (by omega)
    rw [Nat.add_mul, Nat.one_mul] at this
    omega
  have done : ∀ {x y : Nat}, x * D < y * D + D → y * D < x * D + D → x = y := fun h1 h2 =>
    Nat.le_antisymm (key _ _ h1) (key _ _ h2)
  interval_cases mode
  · obtain ⟨x1, x2, x3⟩ := a1 rfl
    obtain ⟨y1, y2, y3⟩ := b1 rfl
    have k1 : p ≤ q + 1 := by
      by_contra hh
      have : (q + 2) * D ≤ p * D := Nat.mul_le_mul_right D (by omega)
      rw [Nat.add_mul] at this
      omega
    have k2 : q ≤ p + 1 := by
      by_contra hh
      have : (p + 2) * D ≤ q * D := Nat.mul_le_mul_right D (by omega)
      rw [Nat.add_mul] at this
      omega
    by_contra hne
    rcases Nat.lt_or_gt_of_ne hne with hlt | hlt
    · have hq' : q = p + 1 := by omega
      subst hq'
      rw [Nat.add_mul, Nat.one_mul] at y1 y2 y3
      have := x3 (by omega)
      have := y3 (by omega)
      omega
    · have hq' : p = q + 1 := by omega
      subst hq'
      rw [Nat.add_mul, Nat.one_mul] at x1 x2 x3
      have := x3 (by omega)
      have := y3 (by omega)
      omega
  · obtain ⟨x1, x2⟩ := a2 (.inl rfl)
    obtain ⟨y1, y2⟩ := b2 (.inl rfl)
    exact done (by omega) (by omega)
  · cases neg
    · obtain ⟨x1, x2⟩ := a2 (by simp)
      obtain ⟨y1, y2⟩ := b2 (by simp)
      exact done (by omega) (by omega)
    · obtain ⟨x1, x2⟩ := a3 (by simp)
      obtain ⟨y1, y2⟩ := b3 (by simp)
      exact done (by omega) (by omega)
  · cases neg
    · obtain ⟨x1, x2⟩ := a3 (by simp)
      obtain ⟨y1, y2⟩ := b3 (by simp)
      exact done (by omega) (by omega)
    · obtain ⟨x1, x2⟩ := a2 (by simp)
      obtain ⟨y1, y2⟩ := b2 (by simp)
      exact done (by omega) (by omega)
  · obtain ⟨x1, x2⟩ := a5 rfl
    obtain ⟨y1, y2⟩ := b5 rfl
    exact done (by omega) (by omega)
  · rw [a6 rfl, b6 rfl]

/-! Exponents: the natural numbers scaled by an integer power of two, seen as rationals. -/

theorem scaled_le {d n : Nat} {j i : Int} (h : i = -j) : d * 2 ^ j.toNat ≤ n * 2 ^ i.toNat ↔ (d : ℚ) * 2 ^ j ≤ n := by
  subst h
  rcases Int.le_total 0 j with hj | hj
  · obtain ⟨k, rfl⟩ := Int.eq_ofNat_of_zero_le hj
    simp only [Int.toNat_natCast, zpow_natCast]
    rw [show (-(k : Int)).toNat = 0 by omega, pow_zero, Nat.mul_one]
    exact_mod_cast Iff.rfl
  · obtain ⟨k, hk⟩ := Int.eq_ofNat_of_zero_le (show 0 ≤ -j by omega)
    obtain rfl : j = -(k : Int) := by omega
    simp only [neg_neg, Int.toNat_natCast]
    rw [show (-(k : Int)).toNat = 0 by omega, pow_zero, Nat.mul_one, zpow_neg, zpow_natCast, ← div_eq_mul_inv,
      div_le_iff₀ (by positivity)]
    exact_mod_cast Iff.rfl

/-- The exponent of a magnitude n / d × 2^e is what `flog2` finds. -/
theorem flog2_spec {n d : Nat} (hn : 0 < n) (hd : 0 < d) :
    (d : ℚ) * 2 ^ flog2 n d ≤ n ∧ (n : ℚ) < 2 * (d * 2 ^ flog2 n d) := by
  have hn1 : (2 : ℚ) ^ (Nat.log2 n : Int) ≤ n := by
    rw [zpow_natCast]; exact_mod_cast Nat.log2_self_le (by omega)
  have hn2 : (n : ℚ) < 2 ^ ((Nat.log2 n : Int) + 1) := by
    have : n < 2 ^ (Nat.log2 n + 1) := Nat.lt_log2_self
    rw [show ((Nat.log2 n : Int) + 1) = ((Nat.log2 n + 1 : Nat) : Int) by omega, zpow_natCast]; exact_mod_cast this
  have hd1 : (2 : ℚ) ^ (Nat.log2 d : Int) ≤ d := by
    rw [zpow_natCast]; exact_mod_cast Nat.log2_self_le (by omega)
  have hd2 : (d : ℚ) < 2 ^ ((Nat.log2 d : Int) + 1) := by
    have : d < 2 ^ (Nat.log2 d + 1) := Nat.lt_log2_self
    rw [show ((Nat.log2 d : Int) + 1) = ((Nat.log2 d + 1 : Nat) : Int) by omega, zpow_natCast]; exact_mod_cast this
  have hdp : (0 : ℚ) < d := by exact_mod_cast hd
  have e : flog2 n d = if (d : ℚ) * 2 ^ ((Nat.log2 n : Int) - Nat.log2 d) ≤ n then (Nat.log2 n : Int) - Nat.log2 d
      else (Nat.log2 n : Int) - Nat.log2 d - 1 := by
    unfold flog2
    have hs := scaled_le (d := d) (n := n) (j := (Nat.log2 n : Int) - Nat.log2 d) rfl
    by_cases hba : Nat.log2 d ≤ Nat.log2 n
    · simp only [if_pos hba]
      rw [show ((Nat.log2 n : Int) - Nat.log2 d).toNat = Nat.log2 n - Nat.log2 d by omega,
        show (-((Nat.log2 n : Int) - Nat.log2 d)).toNat = 0 by omega, pow_zero, Nat.mul_one] at hs
      simp only [hs]
    · simp only [if_neg hba]
      rw [show ((Nat.log2 n : Int) - Nat.log2 d).toNat = 0 by omega,
        show (-((Nat.log2 n : Int) - Nat.log2 d)).toNat = Nat.log2 d - Nat.log2 n by omega, pow_zero, Nat.mul_one] at hs
      simp only [hs]
  rw [e]
  generalize (Nat.log2 n : Int) = a at *
  generalize (Nat.log2 d : Int) = b at *
  have two : (2 : ℚ) ≠ 0 := by norm_num
  split
  · rename_i h
    refine ⟨h, lt_of_lt_of_le hn2 ?_⟩
    calc (2 : ℚ) ^ (a + 1) = 2 * (2 ^ b * 2 ^ (a - b)) := by rw [← zpow_add₀ two, zpow_add_one₀ two]; ring_nf
      _ ≤ 2 * (d * 2 ^ (a - b)) := by gcongr
  · rename_i h
    have h2 : (2 : ℚ) ^ (a - b) = 2 * 2 ^ (a - b - 1) := by rw [← zpow_one_add₀ two]; congr 1; ring
    refine ⟨le_trans (le_of_lt ?_) hn1, ?_⟩
    · calc (d : ℚ) * 2 ^ (a - b - 1) < 2 ^ (b + 1) * 2 ^ (a - b - 1) := by gcongr
        _ = 2 ^ a := by rw [← zpow_add₀ two]; congr 1; ring
    · rw [h2] at h; linarith

theorem flog2_unique {n d : Nat} {e k : Int} (hn : 0 < n) (hd : 0 < d) (h1 : d * 2 ^ (k - e).toNat ≤ n * 2 ^ (e - k).toNat)
    (h2 : n * 2 ^ (e - k).toNat < 2 * (d * 2 ^ (k - e).toNat)) : flog2 n d + e = k := by
  have g1 := (scaled_le (show e - k = -(k - e) by ring)).1 h1
  have g2 : (n : ℚ) < 2 * (d * 2 ^ (k - e)) := by
    have := mt (scaled_le (d := 2 * d) (n := n) (show e - k = -(k - e) by ring)).2 (by push Not; rw [Nat.mul_assoc]; exact h2)
    push_cast at this; linarith
  obtain ⟨f1, f2⟩ := flog2_spec hn hd
  have hdp : (0 : ℚ) < d := by exact_mod_cast hd
  have two : (1 : ℚ) < 2 := by norm_num
  have le : ∀ i j : Int, (d : ℚ) * 2 ^ i ≤ n → (n : ℚ) < 2 * (d * 2 ^ j) → i ≤ j := by
    intro i j hi hj
    have : (2 : ℚ) ^ i < 2 ^ (j + 1) := by
      rw [zpow_add_one₀ (by norm_num)]
      have : (d : ℚ) * 2 ^ i < d * (2 ^ j * 2) := by linarith
      exact lt_of_mul_lt_mul_left this hdp.le
    have := (zpow_lt_zpow_iff_right₀ two).1 this
    omega
  have := le _ _ f1 g2
  have := le _ _ g1 f2
  omega

/-! Codes and what they decode to. -/

/-- A number of units within a bound rounds within it. -/
theorem RoundsTo.le {mode : Nat} {neg : Bool} {rnd N D q B : Nat} (hD : 0 < D) (h1 : 1 ≤ mode) (h6 : mode ≤ 6) (hr : rnd < 65536)
    (h : RoundsTo mode neg rnd N D q) (hB : N < B * D) : q ≤ B := by
  obtain ⟨a1, a2, a3, a5, a6⟩ := h
  have key : q * D < B * D + D → q ≤ B := by
    intro h
    by_contra hh
    have : (B + 1) * D ≤ q * D := Nat.mul_le_mul_right D (by omega)
    rw [Nat.add_mul, Nat.one_mul] at this
    omega
  interval_cases mode
  · exact key (by have := a1 rfl; omega)
  · exact key (by have := a2 (by simp); omega)
  · cases neg
    · exact key (by have := a2 (by simp); omega)
    · exact key (by have := a3 (by simp); omega)
  · cases neg
    · exact key (by have := a3 (by simp); omega)
    · exact key (by have := a2 (by simp); omega)
  · exact key (by have := a5 rfl; omega)
  · rw [a6 rfl]
    have : N * 65536 / D < B * 65536 := by
      rw [Nat.div_lt_iff_lt_mul hD]
      calc N * 65536 < B * D * 65536 := by omega
        _ = B * 65536 * D := by ring
    omega

/-- A number of units of at least a bound rounds to at least it. -/
theorem RoundsTo.ge {mode : Nat} {neg : Bool} {rnd N D q B : Nat} (hD : 0 < D) (h1 : 1 ≤ mode) (h6 : mode ≤ 6)
    (h : RoundsTo mode neg rnd N D q) (hB : B * D ≤ N) : B ≤ q := by
  obtain ⟨a1, a2, a3, a5, a6⟩ := h
  have key : B * D < q * D + D → B ≤ q := by
    intro h
    by_contra hh
    have : (q + 1) * D ≤ B * D := Nat.mul_le_mul_right D (by omega)
    rw [Nat.add_mul, Nat.one_mul] at this
    omega
  interval_cases mode
  · exact key (by have := a1 rfl; omega)
  · exact key (by have := a2 (by simp); omega)
  · cases neg
    · exact key (by have := a2 (by simp); omega)
    · exact key (by have := a3 (by simp); omega)
  · cases neg
    · exact key (by have := a3 (by simp); omega)
    · exact key (by have := a2 (by simp); omega)
  · exact key (by have := a5 rfl; omega)
  · rw [a6 rfl]
    have : B * 65536 ≤ N * 65536 / D := by
      rw [Nat.le_div_iff_mul_le hD]
      calc B * 65536 * D = B * D * 65536 := by ring
        _ ≤ N * 65536 := by omega
    omega

theorem bitAt_eq (n i : Nat) : bitAt n i = decide (n / 2 ^ i % 2 = 1) := by
  unfold bitAt; rw [Nat.testBit_eq_decide_div_mod_eq]

/-- A code in its fields: sign, exponent and mantissa. -/
theorem code_fields {f : Fmt} {neg : Bool} {ex fr : Nat} (h1 : fr < 2 ^ f.mbits) (h2 : ex < 2 ^ f.ebits) :
    bitAt (signed f neg (ex * 2 ^ f.mbits + fr)) (f.width - 1) = neg ∧ signed f neg (ex * 2 ^ f.mbits + fr) % 2 ^ f.mbits = fr ∧
    signed f neg (ex * 2 ^ f.mbits + fr) / 2 ^ f.mbits % 2 ^ f.ebits = ex := by
  rw [bitAt_eq]
  cases f <;> cases neg <;>
    simp only [signed, Fmt.mbits, Fmt.ebits, Fmt.width, Fmt.signBit, if_true, if_false, Bool.false_eq_true, decide_eq_true_eq,
      decide_eq_false_iff_not, Nat.reducePow, Nat.reduceSub, Nat.add_zero] at h1 h2 ⊢ <;> omega

/-- A code fits its width. -/
theorem code_lt {f : Fmt} {neg : Bool} {ex fr : Nat} (h1 : fr < 2 ^ f.mbits) (h2 : ex < 2 ^ f.ebits) :
    signed f neg (ex * 2 ^ f.mbits + fr) < 2 ^ f.width := by
  cases f <;> cases neg <;>
    simp only [signed, Fmt.mbits, Fmt.ebits, Fmt.width, Fmt.signBit, if_true, if_false, Bool.false_eq_true,
      Nat.reducePow, Nat.reduceSub, Nat.add_zero] at h1 h2 ⊢ <;> omega

/-- What a code decodes to, by its fields. -/
theorem unpack_code {f : Fmt} {neg : Bool} {ex fr : Nat} (h1 : fr < 2 ^ f.mbits) (h2 : ex < 2 ^ f.ebits) :
    unpack f (signed f neg (ex * 2 ^ f.mbits + fr)) =
      (if f.ieee && ex == 2 ^ f.ebits - 1 then (if fr = 0 then .inf neg else .nan (fr < 2 ^ (f.mbits - 1)))
       else if f = .e4m3 ∧ ex = 15 ∧ fr = 7 then .nan false
       else if ex = 0 then .fin neg fr (f.emin - f.mbits)
       else .fin neg (fr + 2 ^ f.mbits) ((ex : Int) - f.bias - f.mbits)) := by
  obtain ⟨a, b, c⟩ := code_fields (neg := neg) h1 h2
  unfold unpack
  simp only [a, b, c]

/-- The largest finite value of a format. -/
theorem unpack_max (f : Fmt) : ∃ m : Nat, unpack f f.maxCode =
    .fin false m ((2 ^ f.ebits - (if f.ieee then 2 else 1) : Nat) - f.bias - f.mbits : Int) ∧ m < 2 ^ f.prec ∧ 2 ^ f.mbits ≤ m ∧
    (f = .e4m3 → m = 14) := by
  cases f
  · exact ⟨2 ^ 24 - 1, by decide, by decide, by decide, by decide⟩
  · exact ⟨2 ^ 11 - 1, by decide, by decide, by decide, by decide⟩
  · exact ⟨2 ^ 8 - 1, by decide, by decide, by decide, by decide⟩
  · exact ⟨14, by decide, by decide, by decide, by decide⟩
  · exact ⟨7, by decide, by decide, by decide, by decide⟩
  · exact ⟨3, by decide, by decide, by decide, by decide⟩

/-- A number of units in range decodes as it was encoded, halved when it needs one more exponent. -/
theorem unpack_pack {f : Fmt} {neg : Bool} {q : Nat} {u E : Int} {m : Nat} (hm : unpack f f.maxCode = .fin false m E)
    (hq : q ≤ 2 ^ f.prec) (hu : f.emin - f.mbits ≤ u) (hs : q < 2 ^ f.mbits → u = f.emin - f.mbits)
    (ho : q * 2 ^ (u - E).toNat ≤ m * 2 ^ (E - u).toNat) :
    pack f neg q u < 2 ^ f.width ∧
    ∃ k g, unpack f (pack f neg q u) = .fin neg k g ∧ ((k = q ∧ g = u) ∨ (2 * k = q ∧ g = u + 1)) := by
  obtain ⟨m', hm', hlt, hge, h4⟩ := unpack_max f
  rw [hm'] at hm
  injection hm with _ hmm hE
  subst hmm
  have hp : 2 ^ f.prec = 2 * 2 ^ f.mbits := by unfold Fmt.prec; rw [pow_succ]; omega
  have hb : 2 ^ f.mbits ≤ q → u ≤ E ∧ (u = E → q ≤ m') := by
    intro h
    have hle : u ≤ E := by
      by_contra hh
      rw [show (E - u).toNat = 0 by omega, pow_zero, Nat.mul_one] at ho
      obtain ⟨j, hj⟩ : ∃ j, (u - E).toNat = j + 1 := ⟨(u - E).toNat - 1, by omega⟩
      rw [hj, pow_succ] at ho
      have : q * 1 ≤ q * 2 ^ j := Nat.mul_le_mul_left q Nat.one_le_two_pow
      have : q * (2 ^ j * 2) = 2 * (q * 2 ^ j) := by ring
      omega
    refine ⟨hle, fun he => ?_⟩
    subst he
    simpa using ho
  have hc : q = 2 ^ f.prec → u + 1 ≤ E := by
    intro h
    have h1 := hb (by omega)
    by_contra hh
    have := h1.2 (by omega)
    omega
  have hpos : 1 ≤ 2 ^ f.mbits := Nat.one_le_two_pow
  have h2e : 2 ≤ 2 ^ f.ebits := by cases f <;> decide
  have hemin : f.emin = 1 - (f.bias : Int) := rfl
  have h4b : f = .e4m3 → (2 ^ f.ebits = 16 ∧ 2 ^ f.mbits = 8 ∧ f.ieee = false) := by rintro rfl; decide
  -- a normal code in range
  have normal : ∀ (k : Nat) (g : Int), 2 ^ f.mbits ≤ k → k < 2 ^ f.prec → f.emin - f.mbits ≤ g → g ≤ E → (g = E → k ≤ m') →
      ((g + f.mbits + f.bias).toNat * 2 ^ f.mbits + (k - 2 ^ f.mbits) + if neg = true then f.signBit else 0) < 2 ^ f.width ∧
      unpack f ((g + f.mbits + f.bias).toNat * 2 ^ f.mbits + (k - 2 ^ f.mbits) + if neg = true then f.signBit else 0) = .fin neg k g := by
    intro k g hk1 hk2 hg1 hg2 hg3
    have hex : (((g + f.mbits + f.bias).toNat : Nat) : Int) = g + f.mbits + f.bias := by omega
    have hE' : g + f.mbits + f.bias ≤ ((2 ^ f.ebits - (if f.ieee then 2 else 1) : Nat) : Int) := by omega
    have hlt2 : (g + f.mbits + f.bias).toNat < 2 ^ f.ebits := by
      have : (2 ^ f.ebits - (if f.ieee then 2 else 1) : Nat) < 2 ^ f.ebits := by split <;> omega
      omega
    have := unpack_code (f := f) (neg := neg) (ex := (g + f.mbits + f.bias).toNat) (fr := k - 2 ^ f.mbits) (by omega) hlt2
    unfold signed at this
    refine ⟨code_lt (f := f) (neg := neg) (by omega) hlt2, ?_⟩
    rw [this, if_neg, if_neg, if_neg]
    · rw [Nat.sub_add_cancel hk1, hex]
      congr 1
      ring
    · omega
    · rintro ⟨he, h15, h7⟩
      obtain ⟨x1, x2, x3⟩ := h4b he
      have := h4 he
      simp only [x1, x3, Bool.false_eq_true, if_false] at hE'
      have : g = E := by rw [← hE, x1, x3]; simp; omega
      have := hg3 this
      omega
    · intro h
      rw [Bool.and_eq_true, beq_iff_eq] at h
      rw [if_pos h.1] at hE'
      omega
  unfold pack
  by_cases hq1 : q = 2 ^ f.prec
  · have hcc := hc hq1
    have hq2 : q / 2 = 2 ^ f.mbits := by omega
    simp only [if_pos hq1, hq2, Nat.lt_irrefl, if_false]
    have := normal (2 ^ f.mbits) (u + 1) (Nat.le_refl _) (by omega) (by omega) (by omega) (fun _ => hge)
    exact ⟨this.1, 2 ^ f.mbits, u + 1, this.2, .inr ⟨by omega, rfl⟩⟩
  · simp only [if_neg hq1]
    by_cases hq2 : q < 2 ^ f.mbits
    · simp only [if_pos hq2]
      have := unpack_code (f := f) (neg := neg) (ex := 0) hq2 (by omega)
      unfold signed at this
      rw [Nat.zero_mul, Nat.zero_add] at this
      have hlt := code_lt (f := f) (neg := neg) (ex := 0) hq2 (by omega)
      unfold signed at hlt
      rw [Nat.zero_mul, Nat.zero_add] at hlt
      refine ⟨hlt, q, u, ?_, .inl ⟨rfl, rfl⟩⟩
      rw [this, hs hq2, if_neg, if_neg, if_pos rfl]
      · simp
      · intro h
        rw [Bool.and_eq_true, beq_iff_eq] at h
        have : f.ieee = true → 4 ≤ 2 ^ f.ebits := by cases f <;> decide
        have := this h.1
        omega
    · simp only [if_neg hq2]
      have hbb := hb (by omega)
      have := normal q u (by omega) (by omega) hu hbb.1 hbb.2
      exact ⟨this.1, q, u, this.2, .inl ⟨rfl, rfl⟩⟩

/-- The special codes fit their width. -/
theorem special_lt {f : Fmt} {neg : Bool} : signed f neg 0 < 2 ^ f.width ∧ signed f neg f.maxCode < 2 ^ f.width ∧
    signed f neg ((2 ^ f.ebits - 1) * 2 ^ f.mbits) < 2 ^ f.width ∧ f.defNan < 2 ^ f.width := by
  cases f <;> cases neg <;> decide

theorem overflowRes_lt {f : Fmt} {env : FEnv} {neg : Bool} {rng : Word} : (overflowRes f env neg rng).v < 2 ^ f.width := by
  obtain ⟨-, h1, h2, -⟩ := special_lt (f := f) (neg := neg)
  unfold overflowRes
  split
  · exact h1
  · split
    · exact h1
    · split
      · rename_i h; subst h; show signed .e4m3 neg 127 < 256; cases neg <;> decide
      · exact h2

/-- `roundTo` is Round (R118 to R120, R122). -/
theorem roundTo_roundOf {f : Fmt} {env : FEnv} {rng : Word} {neg : Bool} {n d : Nat} {e : Int} (hn : 0 < n) (hd : 0 < d)
    (h1 : 1 ≤ env.mode) (h6 : env.mode ≤ 6) : RoundOf f env rng neg n d e (roundTo f env rng neg n d e) := by
  intro k q hk1 hk2 hq
  have hk := flog2_unique hn hd hk1 hk2
  obtain ⟨g1, g2⟩ := flog2_spec hn hd
  have hfk : flog2 n d = k - e := by omega
  rw [hfk] at g1 g2
  generalize hU : max k f.emin - f.mbits = u at *
  generalize hN : n * 2 ^ (e - u).toNat = N at *
  generalize hDD : d * 2 ^ (u - e).toNat = D at *
  have hD : 0 < D := by rw [← hDD]; positivity
  have hr : (srStep rng).toNat / 65536 < 65536 := by have := (srStep rng).isLt; omega
  -- what the code rounds to is q
  have hqq : roundQ env.mode neg N D ((env.advance rng).toNat / 65536) = q := by
    have := roundQ_roundsTo (mode := env.mode) (neg := neg) (rnd := (srStep rng).toNat / 65536) (N := N) (D := D) hD
    have := this.unique hD h1 h6 hq
    rw [← this]
    unfold FEnv.advance
    split
    · rfl
    · unfold roundQ; simp [*]
  have scaled : ∀ (B : Nat) (j : Int), B * (d * 2 ^ (j - e).toNat) ≤ n * 2 ^ (e - j).toNat ↔ (B * d : ℚ) * 2 ^ (j - e) ≤ n := by
    intro B j
    rw [← Nat.mul_assoc]
    have := scaled_le (d := B * d) (n := n) (show e - j = -(j - e) by ring)
    rw [this]; push_cast; rfl
  have two : (2 : ℚ) ≠ 0 := by norm_num
  have low : ∀ j : Int, j = k - f.mbits → 2 ^ f.mbits * (d * 2 ^ (j - e).toNat) ≤ n * 2 ^ (e - j).toNat := by
    rintro j rfl
    rw [scaled]
    push_cast
    calc (2 ^ f.mbits * d : ℚ) * 2 ^ (k - f.mbits - e) = d * (2 ^ (f.mbits : Int) * 2 ^ (k - f.mbits - e)) := by
          rw [zpow_natCast]; ring
      _ = d * 2 ^ (k - e) := by rw [← zpow_add₀ two]; congr 2; ring
      _ ≤ n := g1
  have high : ∀ j : Int, k - f.mbits ≤ j → n * 2 ^ (e - j).toNat < 2 ^ f.prec * (d * 2 ^ (j - e).toNat) := by
    intro j hj
    by_contra hh
    push Not at hh
    rw [scaled] at hh
    push_cast at hh
    have : (2 : ℚ) * (d * 2 ^ (k - e)) ≤ 2 ^ f.prec * d * 2 ^ (j - e) := by
      calc (2 : ℚ) * (d * 2 ^ (k - e)) = d * (2 ^ (f.mbits + 1) * 2 ^ (k - f.mbits - e)) := by
            have : (2 : ℚ) ^ f.mbits * 2 ^ (k - (f.mbits : Int) - e) = 2 ^ (k - e) := by
              rw [← zpow_natCast, ← zpow_add₀ two]; congr 1; ring
            rw [← this, pow_succ]; ring
        _ ≤ d * (2 ^ (f.mbits + 1) * 2 ^ (j - e)) := by
            gcongr; norm_num
        _ = 2 ^ f.prec * d * 2 ^ (j - e) := by unfold Fmt.prec; ring
    linarith
  have hq1 : q ≤ 2 ^ f.prec := hq.le hD h1 h6 hr (by rw [← hN, ← hDD]; exact high u (by omega))
  have hu : f.emin - f.mbits ≤ u := by omega
  have hs : q < 2 ^ f.mbits → u = f.emin - f.mbits := by
    intro h
    by_contra hh
    have : u = k - f.mbits := by omega
    have := hq.ge hD h1 h6 (by rw [← hN, ← hDD]; exact low u this)
    omega
  have hx : fracOf n d e u = (N, D) := by rw [← hN, ← hDD]; rfl
  have hov : ∀ M E, unpack f f.maxCode = .fin false M E → overflows f q u = decide (M * 2 ^ (E - u).toNat < q * 2 ^ (u - E).toNat) := by
    intro M E h
    unfold overflows scale2
    rw [h]
  -- the test for tininess
  let tiny : Bool := if env.mode = 6 then q != 0 && decide (q < 2 ^ f.mbits) && u == f.emin - f.mbits
      else if k < f.emin then
        let y := fracOf n d e (k - f.mbits)
        let q1 := roundQ env.mode neg y.1 y.2 0
        !(q1 == 2 ^ f.prec && k + 1 == f.emin)
      else false
  have ht : tiny = true ↔ Tiny f env.mode neg n d e k u q := by
    simp only [tiny, Tiny]
    by_cases h : env.mode = 6
    · simp [h, and_assoc]
    · simp only [if_neg h]
      by_cases hkm : k < f.emin
      · have hD1 : 0 < d * 2 ^ (k - f.mbits - e).toNat := by positivity
        have hrq := roundQ_roundsTo (mode := env.mode) (neg := neg) (rnd := 0) (N := n * 2 ^ (e - (k - f.mbits)).toNat) hD1
        have hle := hrq.le hD1 h1 h6 (by omega) (high (k - f.mbits) (by omega))
        simp only [if_pos hkm, fracOf, scale2]
        generalize roundQ env.mode neg _ _ 0 = p at *
        constructor
        · intro hh
          refine .inl ⟨h, hkm, p, hrq, ?_⟩
          simp at hh
          omega
        · rintro (⟨_, _, p', hp', hh⟩ | ⟨hh, _⟩)
          · have := hp'.unique hD1 h1 h6 hrq
            subst this
            simp; omega
          · exact absurd hh h
      · simp [hkm, h]
  have hdef : roundTo f env rng neg n d e =
      if overflows f q u then overflowRes f env neg (env.advance rng)
      else if tiny && env.ftzo && f.flushes then { v := signed f neg 0, fl := flUF ||| flIX, rng := env.advance rng }
      else { v := pack f neg q u, rng := env.advance rng,
             fl := (if q * D != N then flIX else 0) ||| (if tiny && (q * D != N) then flUF else 0) } := by
    simp only [roundTo, hk, hU, hx, hqq, tiny]
  rw [hdef]
  clear hdef
  generalize tiny = T at ht
  refine ⟨?_, ?_, ?_, ?_, ?_⟩
  · show _ = env.advance rng
    split
    · unfold overflowRes; (repeat' split) <;> rfl
    · split <;> rfl
  · split
    · exact overflowRes_lt
    · rename_i h
      split
      · exact special_lt.1
      · obtain ⟨m, hm, -⟩ := unpack_max f
        rw [hov _ _ hm] at h
        exact (unpack_pack hm hq1 hu hs (by simpa using h)).1
  · intro M E hM hlt
    rw [hU] at hlt
    rw [hov M E hM, decide_eq_true hlt, if_pos rfl]
    have hinf : f.ieee = true → unpack f (signed f neg ((2 ^ f.ebits - 1) * 2 ^ f.mbits)) = .inf neg := by
      intro h
      have h2e : 1 ≤ 2 ^ f.ebits := Nat.one_le_two_pow
      have := unpack_code (f := f) (neg := neg) (ex := 2 ^ f.ebits - 1) (fr := 0) (by positivity) (by omega)
      rw [Nat.add_zero] at this
      rw [this, h]; simp
    have hie : ¬ f = .e2m1 → ¬ f = .e4m3 → f.ieee = true := by cases f <;> decide
    unfold overflowRes
    by_cases hs : env.sat = true ∨ f = .e2m1
    · rw [if_pos hs, if_pos (by simpa using hs)]
      exact ⟨rfl, rfl⟩
    · rw [if_neg hs, if_neg (by simpa using hs)]
      by_cases hm : env.mode = 2 ∨ (env.mode = 3 ∧ neg = false) ∨ (env.mode = 4 ∧ neg = true)
      · rw [if_pos hm, if_pos (by simpa [or_assoc] using hm)]
        exact ⟨rfl, rfl⟩
      · rw [if_neg hm, if_neg (by simpa [or_assoc] using hm)]
        by_cases h4 : f = .e4m3
        · rw [if_pos h4, if_pos h4]
          exact ⟨rfl, rfl⟩
        · rw [if_neg h4, if_neg h4]
          exact ⟨rfl, hinf (hie (fun h => hs (.inr h)) h4)⟩
  · intro M E hM hge hz hfl htn
    rw [hU] at hge htn
    rw [hov M E hM, decide_eq_false (by omega), if_neg Bool.false_ne_true, ht.2 htn, hz, hfl]
    exact ⟨rfl, rfl⟩
  · intro M E hM hge hnz
    rw [hU] at hge hnz ⊢
    rw [hov M E hM, decide_eq_false (by omega), if_neg Bool.false_ne_true, if_neg (by
      rw [Bool.and_eq_true, Bool.and_eq_true]
      rintro ⟨⟨a, b⟩, c⟩
      exact hnz ⟨b, c, ht.1 a⟩)]
    refine ⟨(unpack_pack hM hq1 hu hs hge).2, ?_, ?_⟩
    · intro h
      rw [hN, hDD] at h
      simp [h]
    · intro h
      rw [hN, hDD] at h
      refine ⟨fun h' => ?_, fun h' => ?_⟩
      · simp [h, ht.2 h']
      · have : T = false := by cases T <;> simp_all
        simp [h, this]

theorem roundTo_lt {f : Fmt} {env : FEnv} {rng : Word} {neg : Bool} {n d : Nat} {e : Int} (hn : 0 < n) (hd : 0 < d)
    (h1 : 1 ≤ env.mode) (h6 : env.mode ≤ 6) : (roundTo f env rng neg n d e).v < 2 ^ f.width := by
  obtain ⟨g1, g2⟩ := flog2_spec hn hd
  have e1 : flog2 n d + e - e = flog2 n d := by ring
  have e2 : e - (flog2 n d + e) = -flog2 n d := by ring
  refine (roundTo_roundOf hn hd h1 h6 (flog2 n d + e) _ ?_ ?_ (roundQ_roundsTo (by positivity))).fits
  · rw [e1, e2]; exact (scaled_le rfl).2 g1
  · rw [e1, e2]
    by_contra hh
    push Not at hh
    rw [← Nat.mul_assoc] at hh
    have := (scaled_le (d := 2 * d) (n := n) rfl).1 hh
    push_cast at this
    linarith

theorem isNan_iff {f : Fmt} {b : Nat} : isNan f b = true ↔ ∃ x, unpack f b = .nan x := by
  unfold isNan; split <;> simp_all

/-- A NaN's code is exponent all ones, but for E4M3. -/
theorem carryNan_self {f : Fmt} {b : Nat} (hn : isNan f b = true) (h2 : f ≠ .e2m1) :
    unpack f (carryNan f f b) = .nan false ∧ bitAt (carryNan f f b) (f.width - 1) = bitAt b (f.width - 1) ∧
    (f ≠ .e4m3 → carryNan f f b % 2 ^ (f.mbits - 1) = b % 2 ^ (f.mbits - 1)) ∧ carryNan f f b < 2 ^ f.width := by
  unfold carryNan
  generalize bitAt b (f.width - 1) = s
  rw [if_neg h2]
  by_cases h4 : f = .e4m3
  · subst h4
    rw [if_pos (by decide)]
    cases s <;> exact ⟨by decide, by decide, fun h => absurd rfl h, by decide⟩
  · simp only [h4, decide_false, Bool.or_false, Bool.false_eq_true, if_false, Nat.le_refl, if_true, Nat.sub_self, pow_zero,
      Nat.mul_one]
    have hm : 2 ^ f.mbits = 2 * 2 ^ (f.mbits - 1) := by cases f <;> decide
    have hx : b % 2 ^ (f.mbits - 1) < 2 ^ (f.mbits - 1) := Nat.mod_lt _ (by positivity)
    have h1 : 1 ≤ 2 ^ f.ebits := Nat.one_le_two_pow
    generalize hv : b % 2 ^ (f.mbits - 1) = v at *
    have hfr : 2 ^ (f.mbits - 1) + v < 2 ^ f.mbits := by omega
    rw [show (2 ^ f.ebits - 1) * 2 ^ f.mbits + 2 ^ (f.mbits - 1) + v = (2 ^ f.ebits - 1) * 2 ^ f.mbits + (2 ^ (f.mbits - 1) + v) by omega]
    obtain ⟨a1, a2, a3⟩ := code_fields (f := f) (neg := s) (ex := 2 ^ f.ebits - 1) hfr (by omega)
    have hie : f.ieee = true := by cases f <;> simp_all [Fmt.ieee]
    refine ⟨?_, a1, fun _ => ?_, code_lt hfr (by omega)⟩
    · rw [unpack_code hfr (by omega), hie]
      have : 0 < 2 ^ (f.mbits - 1) := by positivity
      rw [if_pos (by simp), if_neg (by omega)]
      simp
    · have : ∀ x : Nat, x % 2 ^ f.mbits = 2 ^ (f.mbits - 1) + v → x % 2 ^ (f.mbits - 1) = v := by
        intro x hx2
        rw [← Nat.mod_mod_of_dvd x (show 2 ^ (f.mbits - 1) ∣ 2 ^ f.mbits from ⟨2, by omega⟩), hx2, Nat.add_mod_left, Nat.mod_eq_of_lt hx]
      exact this _ a2

/-- The NaN that operands give is as R126 says. -/
theorem nanOf_result {f : Fmt} {env : FEnv} {ops : List (Fmt × Nat)} {r : FRes} (h2 : f ≠ .e2m1) (hr : r.v = nanOf env f ops) :
    NanResult f env ops r := by
  unfold NanResult
  rw [hr]
  constructor
  · intro h
    clear hr
    induction ops with
    | nil => rfl
    | cons o l ih => obtain ⟨g, b⟩ := o; simp [nanOf, h, ih]
  · rintro h pre b post rfl hpre hb
    clear hr
    induction pre with
    | nil => simp only [List.nil_append, nanOf, h, hb, Bool.and_self, if_true]; exact ⟨(carryNan_self hb h2).1, (carryNan_self hb h2).2.1, (carryNan_self hb h2).2.2.1⟩
    | cons o l ih =>
      obtain ⟨g, c⟩ := o
      have := hpre (g, c) (by simp)
      simp only [List.cons_append, nanOf, this, Bool.and_false, Bool.false_eq_true, if_false]
      exact ih (fun o ho => hpre o (by simp [ho]))

/-- `sumRes` is the sum of exact terms rounded once (R119, R124, R126, R138). -/
theorem sumRes_sumOf {f : Fmt} {env : FEnv} {rng : Word} {ops : List (Fmt × Nat)} {inv : Bool} {ts : List FVal} (h2 : f ≠ .e2m1)
    (h1 : 1 ≤ env.mode) (h6 : env.mode ≤ 6) : SumOf f env rng ops inv ts (sumRes f env rng ops inv ts) := by
  unfold SumOf
  have hp : ts.any (isInf false) = true ↔ FVal.inf false ∈ ts := by
    rw [List.any_eq_true]
    constructor
    · rintro ⟨t, ht, h⟩; cases t <;> simp_all [isInf]
    · intro h; exact ⟨_, h, rfl⟩
  have hn : ts.any (isInf true) = true ↔ FVal.inf true ∈ ts := by
    rw [List.any_eq_true]
    constructor
    · rintro ⟨t, ht, h⟩; cases t <;> simp_all [isInf]
    · intro h; exact ⟨_, h, rfl⟩
  have ha : anyNan ops = true ↔ ∃ o ∈ ops, isNan o.1 o.2 = true := by unfold anyNan; simp
  have hsn : (∃ o ∈ ops, isSnan o.1 o.2 = true) → ∃ o ∈ ops, isNan o.1 o.2 = true := by
    rintro ⟨o, ho, h⟩
    refine ⟨o, ho, isNan_iff.2 ⟨true, ?_⟩⟩
    unfold isSnan at h
    exact eq_of_beq h
  have hie : ∀ s, f.ieee = true → unpack f (signed f s ((2 ^ f.ebits - 1) * 2 ^ f.mbits)) = .inf s := by
    intro s h
    have h2e : 1 ≤ 2 ^ f.ebits := Nat.one_le_two_pow
    have := unpack_code (f := f) (neg := s) (ex := 2 ^ f.ebits - 1) (fr := 0) (by positivity) (by omega)
    rw [Nat.add_zero] at this
    rw [this, h]; simp
  have hS : ops.any (fun p => isSnan p.1 p.2) = true ↔ ∃ o ∈ ops, isSnan o.1 o.2 = true := by simp
  have hS' : (∀ o ∈ ops, isSnan o.1 o.2 = false) ↔ ¬ ops.any (fun p => isSnan p.1 p.2) = true := by simp
  simp only [sumRes, ← hp, ← hn, ← ha, ← hS, hS', snanFl, nanRes, h2, if_false]
  rw [← ha, ← hS] at hsn
  generalize ops.any (fun p => isSnan p.1 p.2) = S at *
  generalize ts.any (isInf false) = p at *
  generalize ts.any (isInf true) = n at *
  cases hA : anyNan ops
  · have hSf : S = false := by cases S <;> simp_all
    subst hSf
    refine ⟨by simp, ?_, ?_, by simp, ?_⟩
    · rintro - h
      have : (inv || p && n) = true := by simpa using h
      simp [this]
    · rintro (h | h)
      · have : (inv || p && n) = true := by simpa using h
        simp [this]
      · cases h
    · intro _ h
      have hb : (inv || p && n) = false := by simpa using h
      simp only [hb, Bool.false_eq_true, if_false]
      refine ⟨fun h1 hi => ?_, fun h1 hi => ?_, fun h1 h2 hx => ?_, fun h1 h2 hx => ?_⟩
      · simp [h1, infRes, hi, hie]
      · have : p = false := by cases p <;> simp_all
        simp [h1, this, infRes, hi, hie]
      · simp only [h1, h2, Bool.false_eq_true, if_false, hx, if_true]; simp
      · simp only [h1, h2, Bool.false_eq_true, if_false, if_neg hx]
        exact roundTo_roundOf (by omega) (by omega) ‹_› ‹_›
  · simp only [if_true, true_implies, not_true, false_implies, and_true, true_and]
    refine ⟨nanOf_result h2 rfl, ?_, ?_⟩
    · intro h
      clear hp hn hie
      cases S <;> cases hI : (inv || p && n) <;> simp_all
    · intro h hs
      have hb : (inv || p && n) = false := by simpa using h
      simp_all

/-- The sums and products of two and three numbers (R146 to R148). -/
theorem fAdd_sumOf {f : Fmt} {env : FEnv} {rng : Word} {a b : Nat} (h2 : f ≠ .e2m1) (h1 : 1 ≤ env.mode) (h6 : env.mode ≤ 6) :
    SumOf f env rng [(f, ftziBits f env a), (f, ftziBits f env b)] false
      [unpack f (ftziBits f env a), unpack f (ftziBits f env b)] (fAdd f env rng a b) := sumRes_sumOf h2 h1 h6

theorem fMul_sumOf {f : Fmt} {env : FEnv} {rng : Word} {a b : Nat} (h2 : f ≠ .e2m1) (h1 : 1 ≤ env.mode) (h6 : env.mode ≤ 6) :
    SumOf f env rng [(f, ftziBits f env a), (f, ftziBits f env b)] (invProd (unpack f (ftziBits f env a)) (unpack f (ftziBits f env b)))
      [mulV (unpack f (ftziBits f env a)) (unpack f (ftziBits f env b))] (fMul f env rng a b) := sumRes_sumOf h2 h1 h6

theorem fFma_sumOf {f : Fmt} {env : FEnv} {rng : Word} {a b c : Nat} (h2 : f ≠ .e2m1) (h1 : 1 ≤ env.mode) (h6 : env.mode ≤ 6) :
    SumOf f env rng [(f, ftziBits f env a), (f, ftziBits f env b), (f, ftziBits f env c)]
      (invProd (unpack f (ftziBits f env a)) (unpack f (ftziBits f env b)))
      [mulV (unpack f (ftziBits f env a)) (unpack f (ftziBits f env b)), unpack f (ftziBits f env c)] (fFma f env rng a b c) := by
  have := sumRes_sumOf (f := f) (env := env) (rng := rng) (ops := [(f, ftziBits f env a), (f, ftziBits f env b), (f, ftziBits f env c)])
    (inv := invProd (unpack f (ftziBits f env a)) (unpack f (ftziBits f env b)))
    (ts := [mulV (unpack f (ftziBits f env a)) (unpack f (ftziBits f env b)), unpack f (ftziBits f env c)]) h2 h1 h6
  simpa [fFma, fDot, prods, anyInv] using this

/-- A sum in a format of operands of that format is a code of it. -/
theorem sumRes_lt {f : Fmt} {env : FEnv} {rng : Word} {ops : List (Fmt × Nat)} {inv : Bool} {ts : List FVal} (h2 : f ≠ .e2m1)
    (h1 : 1 ≤ env.mode) (h6 : env.mode ≤ 6) (ho : ∀ o ∈ ops, o.1 = f) : (sumRes f env rng ops inv ts).v < 2 ^ f.width := by
  have hnan : nanOf env f ops < 2 ^ f.width := by
    induction ops with
    | nil => exact (special_lt (neg := false)).2.2.2
    | cons o l ih =>
      obtain ⟨g, b⟩ := o
      have hg : g = f := ho (g, b) (by simp)
      subst hg
      unfold nanOf
      split
      · rename_i h
        rw [Bool.and_eq_true] at h
        exact (carryNan_self h.2 h2).2.2.2
      · exact ih (fun o h => ho o (by simp [h]))
  have hinf : ∀ s, (infRes f env rng s).v < 2 ^ f.width := by
    intro s
    unfold infRes
    split
    · exact special_lt.2.2.1
    · split
      · exact special_lt.2.1
      · have : f = .e4m3 := by cases f <;> simp_all [Fmt.ieee]
        subst this; show signed .e4m3 s 127 < 256; cases s <;> decide
  unfold sumRes
  simp only [nanRes, h2, if_false]
  (repeat' split) <;> first
    | exact hnan
    | exact (special_lt (neg := false)).2.2.2
    | exact hinf _
    | exact special_lt.1
    | exact roundTo_lt (by omega) (by omega) h1 h6

end Sys2Proof.Machine
end

