-- ==== Sys2Proof/Laws/Map.lean ====
section
/-! SUPPORT. Reading a keyed map after a write. -/

namespace Sys2Proof

namespace KMap

variable {α : Type}

@[simp] theorem get?_nil (i : Nat) : KMap.get? ([] : KMap α) i = none := rfl

@[simp] theorem get?_set_self (m : KMap α) (i : Nat) (x : α) : (KMap.set m i x).get? i = some x := by
  induction m with
  | nil => simp [KMap.set, KMap.get?]
  | cons h t ih =>
    obtain ⟨k, v⟩ := h
    unfold KMap.set
    split
    · simp [KMap.get?]
    · split
      · simp [KMap.get?]
      · rename_i h1 h2
        have : ¬ k = i := fun e => h2 e.symm
        simp [KMap.get?, this, ih]

theorem get?_set_ne (m : KMap α) {i j : Nat} (x : α) (h : j ≠ i) : (KMap.set m i x).get? j = m.get? j := by
  have h' : ¬ i = j := fun e => h e.symm
  induction m with
  | nil => simp [KMap.set, KMap.get?, h']
  | cons p t ih =>
    obtain ⟨k, v⟩ := p
    unfold KMap.set
    split
    · simp [KMap.get?, h']
    · split
      · rename_i h1 h2
        subst h2
        simp [KMap.get?, h']
      · simp [KMap.get?, ih]

@[simp] theorem getD_set_self (m : KMap α) (i : Nat) (x d : α) : (KMap.set m i x).getD i d = x := by
  simp [KMap.getD]

theorem getD_set_ne (m : KMap α) {i j : Nat} (x d : α) (h : j ≠ i) : (KMap.set m i x).getD j d = m.getD j d := by
  simp [KMap.getD, get?_set_ne m x h]

theorem getD_of_get? {m : KMap α} {i : Nat} {x d : α} (h : m.get? i = some x) : m.getD i d = x := by
  simp [KMap.getD, h]

theorem get?_modify_self {m : KMap α} {i : Nat} {f : α → α} {x : α} (h : m.get? i = some x) :
    (m.modify i f).get? i = some (f x) := by
  simp [KMap.modify, h]

theorem get?_modify_ne (m : KMap α) {i j : Nat} (f : α → α) (h : j ≠ i) : (m.modify i f).get? j = m.get? j := by
  unfold KMap.modify
  split
  · exact get?_set_ne m _ h
  · rfl

theorem get?_keep_of {m : KMap α} {p : Nat → α → Bool} {i : Nat} {x : α} (h : m.get? i = some x) (hp : p i x = true) :
    (m.keep p).get? i = some x := by
  induction m with
  | nil => simp at h
  | cons q t ih =>
    obtain ⟨k, v⟩ := q
    unfold KMap.get? at h
    split at h
    · rename_i e
      subst e
      cases h
      simp [KMap.keep, hp, KMap.get?]
    · rename_i e
      unfold KMap.keep at ih ⊢
      rw [List.filter_cons]
      split
      · simp [KMap.get?, e, ih h]
      · exact ih h

theorem get?_mapv (m : KMap α) {β : Type} (f : Nat → α → β) (i : Nat) : (m.mapv f).get? i = (m.get? i).map (f i) := by
  induction m with
  | nil => rfl
  | cons q t ih =>
    obtain ⟨k, v⟩ := q
    unfold KMap.mapv at ih ⊢
    simp only [List.map_cons, KMap.get?]
    split
    · rename_i e; subst e; rfl
    · exact ih

end KMap

end Sys2Proof
end

