-- ==== Sys2Proof/Laws/State.lean ====
section
/-! SUPPORT. One lemma for each field an update touches or leaves, so that no later proof unfolds a record update. -/

namespace Sys2Proof.Machine

open Sys2Proof

@[simp] theorem State.putWarp_cur (s : State) (u : Nat) (w : Warp) : (s.putWarp u w).cur = s.cur := rfl
@[simp] theorem State.putWarp_word (s : State) (u : Nat) (w : Warp) : (s.putWarp u w).word = s.word := rfl
@[simp] theorem State.putWarp_bag (s : State) (u : Nat) (w : Warp) : (s.putWarp u w).bag = s.bag := rfl
@[simp] theorem State.putWarp_inputs (s : State) (u : Nat) (w : Warp) : (s.putWarp u w).inputs = s.inputs := rfl
@[simp] theorem State.putWarp_outbox (s : State) (u : Nat) (w : Warp) : (s.putWarp u w).outbox = s.outbox := rfl
@[simp] theorem State.putWarp_tick (s : State) (u : Nat) (w : Warp) : (s.putWarp u w).tick = s.tick := rfl
@[simp] theorem State.putWarp_fresh (s : State) (u : Nat) (w : Warp) : (s.putWarp u w).fresh = s.fresh := rfl
@[simp] theorem State.putWarp_mem (s : State) (u : Nat) (w : Warp) : (s.putWarp u w).mem = s.mem := rfl
@[simp] theorem State.putWarp_host (s : State) (u : Nat) (w : Warp) : (s.putWarp u w).host = s.host := rfl
@[simp] theorem State.putWarp_bad (s : State) (u : Nat) (w : Warp) : (s.putWarp u w).bad = s.bad := rfl
@[simp] theorem State.putWarp_ctxs (s : State) (u : Nat) (w : Warp) : (s.putWarp u w).ctxs = s.ctxs := rfl
@[simp] theorem State.putWarp_grids (s : State) (u : Nat) (w : Warp) : (s.putWarp u w).grids = s.grids := rfl
@[simp] theorem State.putWarp_teams (s : State) (u : Nat) (w : Warp) : (s.putWarp u w).teams = s.teams := rfl
@[simp] theorem State.putWarp_members (s : State) (u : Nat) (w : Warp) : (s.putWarp u w).members = s.members := rfl
@[simp] theorem State.putWarp_ops (s : State) (u : Nat) (w : Warp) : (s.putWarp u w).ops = s.ops := rfl
@[simp] theorem State.putWarp_reqs (s : State) (u : Nat) (w : Warp) : (s.putWarp u w).reqs = s.reqs := rfl
@[simp] theorem State.putWarp_chimes (s : State) (u : Nat) (w : Warp) : (s.putWarp u w).chimes = s.chimes := rfl
@[simp] theorem State.putWarp_txs (s : State) (u : Nat) (w : Warp) : (s.putWarp u w).txs = s.txs := rfl
@[simp] theorem State.putWarp_cores (s : State) (u : Nat) (w : Warp) : (s.putWarp u w).cores = s.cores := rfl
@[simp] theorem State.putWarp_quads (s : State) (u : Nat) (w : Warp) : (s.putWarp u w).quads = s.quads := rfl
@[simp] theorem State.putWarp_dies (s : State) (u : Nat) (w : Warp) : (s.putWarp u w).dies = s.dies := rfl
@[simp] theorem State.putWarp_tiles (s : State) (u : Nat) (w : Warp) : (s.putWarp u w).tiles = s.tiles := rfl
@[simp] theorem State.putWarp_copies (s : State) (u : Nat) (w : Warp) : (s.putWarp u w).copies = s.copies := rfl
@[simp] theorem State.putWarp_posts (s : State) (u : Nat) (w : Warp) : (s.putWarp u w).posts = s.posts := rfl
@[simp] theorem State.putWarp_bufs (s : State) (u : Nat) (w : Warp) : (s.putWarp u w).bufs = s.bufs := rfl
@[simp] theorem State.putWarp_queues (s : State) (u : Nat) (w : Warp) : (s.putWarp u w).queues = s.queues := rfl
@[simp] theorem State.putWarp_chans (s : State) (u : Nat) (w : Warp) : (s.putWarp u w).chans = s.chans := rfl
@[simp] theorem State.putWarp_groups (s : State) (u : Nat) (w : Warp) : (s.putWarp u w).groups = s.groups := rfl
@[simp] theorem State.putWarp_colls (s : State) (u : Nat) (w : Warp) : (s.putWarp u w).colls = s.colls := rfl
@[simp] theorem State.putWarp_combs (s : State) (u : Nat) (w : Warp) : (s.putWarp u w).combs = s.combs := rfl
@[simp] theorem State.putWarp_frames (s : State) (u : Nat) (w : Warp) : (s.putWarp u w).frames = s.frames := rfl
@[simp] theorem State.putWarp_partials (s : State) (u : Nat) (w : Warp) : (s.putWarp u w).partials = s.partials := rfl
@[simp] theorem State.putWarp_versions (s : State) (u : Nat) (w : Warp) : (s.putWarp u w).versions = s.versions := rfl
@[simp] theorem State.putWarp_banks (s : State) (u : Nat) (w : Warp) : (s.putWarp u w).banks = s.banks := rfl
@[simp] theorem State.putWarp_lpddr (s : State) (u : Nat) (w : Warp) : (s.putWarp u w).lpddr = s.lpddr := rfl
@[simp] theorem State.putWarp_worlds (s : State) (u : Nat) (w : Warp) : (s.putWarp u w).worlds = s.worlds := rfl
@[simp] theorem State.putWarp_invals (s : State) (u : Nat) (w : Warp) : (s.putWarp u w).invals = s.invals := rfl
@[simp] theorem State.putWarp_pages (s : State) (u : Nat) (w : Warp) : (s.putWarp u w).pages = s.pages := rfl
@[simp] theorem State.putWarp_fars (s : State) (u : Nat) (w : Warp) : (s.putWarp u w).fars = s.fars := rfl
@[simp] theorem State.putWarp_words (s : State) (u : Nat) (w : Warp) : (s.putWarp u w).words = s.words := rfl
@[simp] theorem State.putWarp_graves (s : State) (u : Nat) (w : Warp) : (s.putWarp u w).graves = s.graves := rfl
@[simp] theorem State.putWarp_avtos (s : State) (u : Nat) (w : Warp) : (s.putWarp u w).avtos = s.avtos := rfl
@[simp] theorem State.putWarp_fab (s : State) (u : Nat) (w : Warp) : (s.putWarp u w).fab = s.fab := rfl
@[simp] theorem State.putWarp_svc (s : State) (u : Nat) (w : Warp) : (s.putWarp u w).svc = s.svc := rfl
@[simp] theorem State.modWarp_cur (s : State) (u : Nat) (f : Warp → Warp) : (s.modWarp u f).cur = s.cur := rfl
@[simp] theorem State.modWarp_word (s : State) (u : Nat) (f : Warp → Warp) : (s.modWarp u f).word = s.word := rfl
@[simp] theorem State.modWarp_bag (s : State) (u : Nat) (f : Warp → Warp) : (s.modWarp u f).bag = s.bag := rfl
@[simp] theorem State.modWarp_inputs (s : State) (u : Nat) (f : Warp → Warp) : (s.modWarp u f).inputs = s.inputs := rfl
@[simp] theorem State.modWarp_outbox (s : State) (u : Nat) (f : Warp → Warp) : (s.modWarp u f).outbox = s.outbox := rfl
@[simp] theorem State.modWarp_tick (s : State) (u : Nat) (f : Warp → Warp) : (s.modWarp u f).tick = s.tick := rfl
@[simp] theorem State.modWarp_fresh (s : State) (u : Nat) (f : Warp → Warp) : (s.modWarp u f).fresh = s.fresh := rfl
@[simp] theorem State.modWarp_mem (s : State) (u : Nat) (f : Warp → Warp) : (s.modWarp u f).mem = s.mem := rfl
@[simp] theorem State.modWarp_host (s : State) (u : Nat) (f : Warp → Warp) : (s.modWarp u f).host = s.host := rfl
@[simp] theorem State.modWarp_bad (s : State) (u : Nat) (f : Warp → Warp) : (s.modWarp u f).bad = s.bad := rfl
@[simp] theorem State.modWarp_ctxs (s : State) (u : Nat) (f : Warp → Warp) : (s.modWarp u f).ctxs = s.ctxs := rfl
@[simp] theorem State.modWarp_grids (s : State) (u : Nat) (f : Warp → Warp) : (s.modWarp u f).grids = s.grids := rfl
@[simp] theorem State.modWarp_teams (s : State) (u : Nat) (f : Warp → Warp) : (s.modWarp u f).teams = s.teams := rfl
@[simp] theorem State.modWarp_members (s : State) (u : Nat) (f : Warp → Warp) : (s.modWarp u f).members = s.members := rfl
@[simp] theorem State.modWarp_ops (s : State) (u : Nat) (f : Warp → Warp) : (s.modWarp u f).ops = s.ops := rfl
@[simp] theorem State.modWarp_reqs (s : State) (u : Nat) (f : Warp → Warp) : (s.modWarp u f).reqs = s.reqs := rfl
@[simp] theorem State.modWarp_chimes (s : State) (u : Nat) (f : Warp → Warp) : (s.modWarp u f).chimes = s.chimes := rfl
@[simp] theorem State.modWarp_txs (s : State) (u : Nat) (f : Warp → Warp) : (s.modWarp u f).txs = s.txs := rfl
@[simp] theorem State.modWarp_cores (s : State) (u : Nat) (f : Warp → Warp) : (s.modWarp u f).cores = s.cores := rfl
@[simp] theorem State.modWarp_quads (s : State) (u : Nat) (f : Warp → Warp) : (s.modWarp u f).quads = s.quads := rfl
@[simp] theorem State.modWarp_dies (s : State) (u : Nat) (f : Warp → Warp) : (s.modWarp u f).dies = s.dies := rfl
@[simp] theorem State.modWarp_tiles (s : State) (u : Nat) (f : Warp → Warp) : (s.modWarp u f).tiles = s.tiles := rfl
@[simp] theorem State.modWarp_copies (s : State) (u : Nat) (f : Warp → Warp) : (s.modWarp u f).copies = s.copies := rfl
@[simp] theorem State.modWarp_posts (s : State) (u : Nat) (f : Warp → Warp) : (s.modWarp u f).posts = s.posts := rfl
@[simp] theorem State.modWarp_bufs (s : State) (u : Nat) (f : Warp → Warp) : (s.modWarp u f).bufs = s.bufs := rfl
@[simp] theorem State.modWarp_queues (s : State) (u : Nat) (f : Warp → Warp) : (s.modWarp u f).queues = s.queues := rfl
@[simp] theorem State.modWarp_chans (s : State) (u : Nat) (f : Warp → Warp) : (s.modWarp u f).chans = s.chans := rfl
@[simp] theorem State.modWarp_groups (s : State) (u : Nat) (f : Warp → Warp) : (s.modWarp u f).groups = s.groups := rfl
@[simp] theorem State.modWarp_colls (s : State) (u : Nat) (f : Warp → Warp) : (s.modWarp u f).colls = s.colls := rfl
@[simp] theorem State.modWarp_combs (s : State) (u : Nat) (f : Warp → Warp) : (s.modWarp u f).combs = s.combs := rfl
@[simp] theorem State.modWarp_frames (s : State) (u : Nat) (f : Warp → Warp) : (s.modWarp u f).frames = s.frames := rfl
@[simp] theorem State.modWarp_partials (s : State) (u : Nat) (f : Warp → Warp) : (s.modWarp u f).partials = s.partials := rfl
@[simp] theorem State.modWarp_versions (s : State) (u : Nat) (f : Warp → Warp) : (s.modWarp u f).versions = s.versions := rfl
@[simp] theorem State.modWarp_banks (s : State) (u : Nat) (f : Warp → Warp) : (s.modWarp u f).banks = s.banks := rfl
@[simp] theorem State.modWarp_lpddr (s : State) (u : Nat) (f : Warp → Warp) : (s.modWarp u f).lpddr = s.lpddr := rfl
@[simp] theorem State.modWarp_worlds (s : State) (u : Nat) (f : Warp → Warp) : (s.modWarp u f).worlds = s.worlds := rfl
@[simp] theorem State.modWarp_invals (s : State) (u : Nat) (f : Warp → Warp) : (s.modWarp u f).invals = s.invals := rfl
@[simp] theorem State.modWarp_pages (s : State) (u : Nat) (f : Warp → Warp) : (s.modWarp u f).pages = s.pages := rfl
@[simp] theorem State.modWarp_fars (s : State) (u : Nat) (f : Warp → Warp) : (s.modWarp u f).fars = s.fars := rfl
@[simp] theorem State.modWarp_words (s : State) (u : Nat) (f : Warp → Warp) : (s.modWarp u f).words = s.words := rfl
@[simp] theorem State.modWarp_graves (s : State) (u : Nat) (f : Warp → Warp) : (s.modWarp u f).graves = s.graves := rfl
@[simp] theorem State.modWarp_avtos (s : State) (u : Nat) (f : Warp → Warp) : (s.modWarp u f).avtos = s.avtos := rfl
@[simp] theorem State.modWarp_fab (s : State) (u : Nat) (f : Warp → Warp) : (s.modWarp u f).fab = s.fab := rfl
@[simp] theorem State.modWarp_svc (s : State) (u : Nat) (f : Warp → Warp) : (s.modWarp u f).svc = s.svc := rfl
@[simp] theorem State.modCore_cur (s : State) (k : Nat) (f : Core → Core) : (s.modCore k f).cur = s.cur := rfl
@[simp] theorem State.modCore_word (s : State) (k : Nat) (f : Core → Core) : (s.modCore k f).word = s.word := rfl
@[simp] theorem State.modCore_bag (s : State) (k : Nat) (f : Core → Core) : (s.modCore k f).bag = s.bag := rfl
@[simp] theorem State.modCore_inputs (s : State) (k : Nat) (f : Core → Core) : (s.modCore k f).inputs = s.inputs := rfl
@[simp] theorem State.modCore_outbox (s : State) (k : Nat) (f : Core → Core) : (s.modCore k f).outbox = s.outbox := rfl
@[simp] theorem State.modCore_tick (s : State) (k : Nat) (f : Core → Core) : (s.modCore k f).tick = s.tick := rfl
@[simp] theorem State.modCore_fresh (s : State) (k : Nat) (f : Core → Core) : (s.modCore k f).fresh = s.fresh := rfl
@[simp] theorem State.modCore_mem (s : State) (k : Nat) (f : Core → Core) : (s.modCore k f).mem = s.mem := rfl
@[simp] theorem State.modCore_host (s : State) (k : Nat) (f : Core → Core) : (s.modCore k f).host = s.host := rfl
@[simp] theorem State.modCore_bad (s : State) (k : Nat) (f : Core → Core) : (s.modCore k f).bad = s.bad := rfl
@[simp] theorem State.modCore_ctxs (s : State) (k : Nat) (f : Core → Core) : (s.modCore k f).ctxs = s.ctxs := rfl
@[simp] theorem State.modCore_grids (s : State) (k : Nat) (f : Core → Core) : (s.modCore k f).grids = s.grids := rfl
@[simp] theorem State.modCore_teams (s : State) (k : Nat) (f : Core → Core) : (s.modCore k f).teams = s.teams := rfl
@[simp] theorem State.modCore_warps (s : State) (k : Nat) (f : Core → Core) : (s.modCore k f).warps = s.warps := rfl
@[simp] theorem State.modCore_members (s : State) (k : Nat) (f : Core → Core) : (s.modCore k f).members = s.members := rfl
@[simp] theorem State.modCore_ops (s : State) (k : Nat) (f : Core → Core) : (s.modCore k f).ops = s.ops := rfl
@[simp] theorem State.modCore_reqs (s : State) (k : Nat) (f : Core → Core) : (s.modCore k f).reqs = s.reqs := rfl
@[simp] theorem State.modCore_chimes (s : State) (k : Nat) (f : Core → Core) : (s.modCore k f).chimes = s.chimes := rfl
@[simp] theorem State.modCore_txs (s : State) (k : Nat) (f : Core → Core) : (s.modCore k f).txs = s.txs := rfl
@[simp] theorem State.modCore_quads (s : State) (k : Nat) (f : Core → Core) : (s.modCore k f).quads = s.quads := rfl
@[simp] theorem State.modCore_dies (s : State) (k : Nat) (f : Core → Core) : (s.modCore k f).dies = s.dies := rfl
@[simp] theorem State.modCore_tiles (s : State) (k : Nat) (f : Core → Core) : (s.modCore k f).tiles = s.tiles := rfl
@[simp] theorem State.modCore_copies (s : State) (k : Nat) (f : Core → Core) : (s.modCore k f).copies = s.copies := rfl
@[simp] theorem State.modCore_posts (s : State) (k : Nat) (f : Core → Core) : (s.modCore k f).posts = s.posts := rfl
@[simp] theorem State.modCore_bufs (s : State) (k : Nat) (f : Core → Core) : (s.modCore k f).bufs = s.bufs := rfl
@[simp] theorem State.modCore_queues (s : State) (k : Nat) (f : Core → Core) : (s.modCore k f).queues = s.queues := rfl
@[simp] theorem State.modCore_chans (s : State) (k : Nat) (f : Core → Core) : (s.modCore k f).chans = s.chans := rfl
@[simp] theorem State.modCore_groups (s : State) (k : Nat) (f : Core → Core) : (s.modCore k f).groups = s.groups := rfl
@[simp] theorem State.modCore_colls (s : State) (k : Nat) (f : Core → Core) : (s.modCore k f).colls = s.colls := rfl
@[simp] theorem State.modCore_combs (s : State) (k : Nat) (f : Core → Core) : (s.modCore k f).combs = s.combs := rfl
@[simp] theorem State.modCore_frames (s : State) (k : Nat) (f : Core → Core) : (s.modCore k f).frames = s.frames := rfl
@[simp] theorem State.modCore_partials (s : State) (k : Nat) (f : Core → Core) : (s.modCore k f).partials = s.partials := rfl
@[simp] theorem State.modCore_versions (s : State) (k : Nat) (f : Core → Core) : (s.modCore k f).versions = s.versions := rfl
@[simp] theorem State.modCore_banks (s : State) (k : Nat) (f : Core → Core) : (s.modCore k f).banks = s.banks := rfl
@[simp] theorem State.modCore_lpddr (s : State) (k : Nat) (f : Core → Core) : (s.modCore k f).lpddr = s.lpddr := rfl
@[simp] theorem State.modCore_worlds (s : State) (k : Nat) (f : Core → Core) : (s.modCore k f).worlds = s.worlds := rfl
@[simp] theorem State.modCore_invals (s : State) (k : Nat) (f : Core → Core) : (s.modCore k f).invals = s.invals := rfl
@[simp] theorem State.modCore_pages (s : State) (k : Nat) (f : Core → Core) : (s.modCore k f).pages = s.pages := rfl
@[simp] theorem State.modCore_fars (s : State) (k : Nat) (f : Core → Core) : (s.modCore k f).fars = s.fars := rfl
@[simp] theorem State.modCore_words (s : State) (k : Nat) (f : Core → Core) : (s.modCore k f).words = s.words := rfl
@[simp] theorem State.modCore_graves (s : State) (k : Nat) (f : Core → Core) : (s.modCore k f).graves = s.graves := rfl
@[simp] theorem State.modCore_avtos (s : State) (k : Nat) (f : Core → Core) : (s.modCore k f).avtos = s.avtos := rfl
@[simp] theorem State.modCore_fab (s : State) (k : Nat) (f : Core → Core) : (s.modCore k f).fab = s.fab := rfl
@[simp] theorem State.modCore_svc (s : State) (k : Nat) (f : Core → Core) : (s.modCore k f).svc = s.svc := rfl
@[simp] theorem State.modQuad_cur (s : State) (k : Nat) (f : Quad → Quad) : (s.modQuad k f).cur = s.cur := rfl
@[simp] theorem State.modQuad_word (s : State) (k : Nat) (f : Quad → Quad) : (s.modQuad k f).word = s.word := rfl
@[simp] theorem State.modQuad_bag (s : State) (k : Nat) (f : Quad → Quad) : (s.modQuad k f).bag = s.bag := rfl
@[simp] theorem State.modQuad_inputs (s : State) (k : Nat) (f : Quad → Quad) : (s.modQuad k f).inputs = s.inputs := rfl
@[simp] theorem State.modQuad_outbox (s : State) (k : Nat) (f : Quad → Quad) : (s.modQuad k f).outbox = s.outbox := rfl
@[simp] theorem State.modQuad_tick (s : State) (k : Nat) (f : Quad → Quad) : (s.modQuad k f).tick = s.tick := rfl
@[simp] theorem State.modQuad_fresh (s : State) (k : Nat) (f : Quad → Quad) : (s.modQuad k f).fresh = s.fresh := rfl
@[simp] theorem State.modQuad_mem (s : State) (k : Nat) (f : Quad → Quad) : (s.modQuad k f).mem = s.mem := rfl
@[simp] theorem State.modQuad_host (s : State) (k : Nat) (f : Quad → Quad) : (s.modQuad k f).host = s.host := rfl
@[simp] theorem State.modQuad_bad (s : State) (k : Nat) (f : Quad → Quad) : (s.modQuad k f).bad = s.bad := rfl
@[simp] theorem State.modQuad_ctxs (s : State) (k : Nat) (f : Quad → Quad) : (s.modQuad k f).ctxs = s.ctxs := rfl
@[simp] theorem State.modQuad_grids (s : State) (k : Nat) (f : Quad → Quad) : (s.modQuad k f).grids = s.grids := rfl
@[simp] theorem State.modQuad_teams (s : State) (k : Nat) (f : Quad → Quad) : (s.modQuad k f).teams = s.teams := rfl
@[simp] theorem State.modQuad_warps (s : State) (k : Nat) (f : Quad → Quad) : (s.modQuad k f).warps = s.warps := rfl
@[simp] theorem State.modQuad_members (s : State) (k : Nat) (f : Quad → Quad) : (s.modQuad k f).members = s.members := rfl
@[simp] theorem State.modQuad_ops (s : State) (k : Nat) (f : Quad → Quad) : (s.modQuad k f).ops = s.ops := rfl
@[simp] theorem State.modQuad_reqs (s : State) (k : Nat) (f : Quad → Quad) : (s.modQuad k f).reqs = s.reqs := rfl
@[simp] theorem State.modQuad_chimes (s : State) (k : Nat) (f : Quad → Quad) : (s.modQuad k f).chimes = s.chimes := rfl
@[simp] theorem State.modQuad_txs (s : State) (k : Nat) (f : Quad → Quad) : (s.modQuad k f).txs = s.txs := rfl
@[simp] theorem State.modQuad_cores (s : State) (k : Nat) (f : Quad → Quad) : (s.modQuad k f).cores = s.cores := rfl
@[simp] theorem State.modQuad_dies (s : State) (k : Nat) (f : Quad → Quad) : (s.modQuad k f).dies = s.dies := rfl
@[simp] theorem State.modQuad_tiles (s : State) (k : Nat) (f : Quad → Quad) : (s.modQuad k f).tiles = s.tiles := rfl
@[simp] theorem State.modQuad_copies (s : State) (k : Nat) (f : Quad → Quad) : (s.modQuad k f).copies = s.copies := rfl
@[simp] theorem State.modQuad_posts (s : State) (k : Nat) (f : Quad → Quad) : (s.modQuad k f).posts = s.posts := rfl
@[simp] theorem State.modQuad_bufs (s : State) (k : Nat) (f : Quad → Quad) : (s.modQuad k f).bufs = s.bufs := rfl
@[simp] theorem State.modQuad_queues (s : State) (k : Nat) (f : Quad → Quad) : (s.modQuad k f).queues = s.queues := rfl
@[simp] theorem State.modQuad_chans (s : State) (k : Nat) (f : Quad → Quad) : (s.modQuad k f).chans = s.chans := rfl
@[simp] theorem State.modQuad_groups (s : State) (k : Nat) (f : Quad → Quad) : (s.modQuad k f).groups = s.groups := rfl
@[simp] theorem State.modQuad_colls (s : State) (k : Nat) (f : Quad → Quad) : (s.modQuad k f).colls = s.colls := rfl
@[simp] theorem State.modQuad_combs (s : State) (k : Nat) (f : Quad → Quad) : (s.modQuad k f).combs = s.combs := rfl
@[simp] theorem State.modQuad_frames (s : State) (k : Nat) (f : Quad → Quad) : (s.modQuad k f).frames = s.frames := rfl
@[simp] theorem State.modQuad_partials (s : State) (k : Nat) (f : Quad → Quad) : (s.modQuad k f).partials = s.partials := rfl
@[simp] theorem State.modQuad_versions (s : State) (k : Nat) (f : Quad → Quad) : (s.modQuad k f).versions = s.versions := rfl
@[simp] theorem State.modQuad_banks (s : State) (k : Nat) (f : Quad → Quad) : (s.modQuad k f).banks = s.banks := rfl
@[simp] theorem State.modQuad_lpddr (s : State) (k : Nat) (f : Quad → Quad) : (s.modQuad k f).lpddr = s.lpddr := rfl
@[simp] theorem State.modQuad_worlds (s : State) (k : Nat) (f : Quad → Quad) : (s.modQuad k f).worlds = s.worlds := rfl
@[simp] theorem State.modQuad_invals (s : State) (k : Nat) (f : Quad → Quad) : (s.modQuad k f).invals = s.invals := rfl
@[simp] theorem State.modQuad_pages (s : State) (k : Nat) (f : Quad → Quad) : (s.modQuad k f).pages = s.pages := rfl
@[simp] theorem State.modQuad_fars (s : State) (k : Nat) (f : Quad → Quad) : (s.modQuad k f).fars = s.fars := rfl
@[simp] theorem State.modQuad_words (s : State) (k : Nat) (f : Quad → Quad) : (s.modQuad k f).words = s.words := rfl
@[simp] theorem State.modQuad_graves (s : State) (k : Nat) (f : Quad → Quad) : (s.modQuad k f).graves = s.graves := rfl
@[simp] theorem State.modQuad_avtos (s : State) (k : Nat) (f : Quad → Quad) : (s.modQuad k f).avtos = s.avtos := rfl
@[simp] theorem State.modQuad_fab (s : State) (k : Nat) (f : Quad → Quad) : (s.modQuad k f).fab = s.fab := rfl
@[simp] theorem State.modQuad_svc (s : State) (k : Nat) (f : Quad → Quad) : (s.modQuad k f).svc = s.svc := rfl
@[simp] theorem State.modDie_cur (s : State) (k : Nat) (f : Die → Die) : (s.modDie k f).cur = s.cur := rfl
@[simp] theorem State.modDie_word (s : State) (k : Nat) (f : Die → Die) : (s.modDie k f).word = s.word := rfl
@[simp] theorem State.modDie_bag (s : State) (k : Nat) (f : Die → Die) : (s.modDie k f).bag = s.bag := rfl
@[simp] theorem State.modDie_inputs (s : State) (k : Nat) (f : Die → Die) : (s.modDie k f).inputs = s.inputs := rfl
@[simp] theorem State.modDie_outbox (s : State) (k : Nat) (f : Die → Die) : (s.modDie k f).outbox = s.outbox := rfl
@[simp] theorem State.modDie_tick (s : State) (k : Nat) (f : Die → Die) : (s.modDie k f).tick = s.tick := rfl
@[simp] theorem State.modDie_fresh (s : State) (k : Nat) (f : Die → Die) : (s.modDie k f).fresh = s.fresh := rfl
@[simp] theorem State.modDie_mem (s : State) (k : Nat) (f : Die → Die) : (s.modDie k f).mem = s.mem := rfl
@[simp] theorem State.modDie_host (s : State) (k : Nat) (f : Die → Die) : (s.modDie k f).host = s.host := rfl
@[simp] theorem State.modDie_bad (s : State) (k : Nat) (f : Die → Die) : (s.modDie k f).bad = s.bad := rfl
@[simp] theorem State.modDie_ctxs (s : State) (k : Nat) (f : Die → Die) : (s.modDie k f).ctxs = s.ctxs := rfl
@[simp] theorem State.modDie_grids (s : State) (k : Nat) (f : Die → Die) : (s.modDie k f).grids = s.grids := rfl
@[simp] theorem State.modDie_teams (s : State) (k : Nat) (f : Die → Die) : (s.modDie k f).teams = s.teams := rfl
@[simp] theorem State.modDie_warps (s : State) (k : Nat) (f : Die → Die) : (s.modDie k f).warps = s.warps := rfl
@[simp] theorem State.modDie_members (s : State) (k : Nat) (f : Die → Die) : (s.modDie k f).members = s.members := rfl
@[simp] theorem State.modDie_ops (s : State) (k : Nat) (f : Die → Die) : (s.modDie k f).ops = s.ops := rfl
@[simp] theorem State.modDie_reqs (s : State) (k : Nat) (f : Die → Die) : (s.modDie k f).reqs = s.reqs := rfl
@[simp] theorem State.modDie_chimes (s : State) (k : Nat) (f : Die → Die) : (s.modDie k f).chimes = s.chimes := rfl
@[simp] theorem State.modDie_txs (s : State) (k : Nat) (f : Die → Die) : (s.modDie k f).txs = s.txs := rfl
@[simp] theorem State.modDie_cores (s : State) (k : Nat) (f : Die → Die) : (s.modDie k f).cores = s.cores := rfl
@[simp] theorem State.modDie_quads (s : State) (k : Nat) (f : Die → Die) : (s.modDie k f).quads = s.quads := rfl
@[simp] theorem State.modDie_tiles (s : State) (k : Nat) (f : Die → Die) : (s.modDie k f).tiles = s.tiles := rfl
@[simp] theorem State.modDie_copies (s : State) (k : Nat) (f : Die → Die) : (s.modDie k f).copies = s.copies := rfl
@[simp] theorem State.modDie_posts (s : State) (k : Nat) (f : Die → Die) : (s.modDie k f).posts = s.posts := rfl
@[simp] theorem State.modDie_bufs (s : State) (k : Nat) (f : Die → Die) : (s.modDie k f).bufs = s.bufs := rfl
@[simp] theorem State.modDie_queues (s : State) (k : Nat) (f : Die → Die) : (s.modDie k f).queues = s.queues := rfl
@[simp] theorem State.modDie_chans (s : State) (k : Nat) (f : Die → Die) : (s.modDie k f).chans = s.chans := rfl
@[simp] theorem State.modDie_groups (s : State) (k : Nat) (f : Die → Die) : (s.modDie k f).groups = s.groups := rfl
@[simp] theorem State.modDie_colls (s : State) (k : Nat) (f : Die → Die) : (s.modDie k f).colls = s.colls := rfl
@[simp] theorem State.modDie_combs (s : State) (k : Nat) (f : Die → Die) : (s.modDie k f).combs = s.combs := rfl
@[simp] theorem State.modDie_frames (s : State) (k : Nat) (f : Die → Die) : (s.modDie k f).frames = s.frames := rfl
@[simp] theorem State.modDie_partials (s : State) (k : Nat) (f : Die → Die) : (s.modDie k f).partials = s.partials := rfl
@[simp] theorem State.modDie_versions (s : State) (k : Nat) (f : Die → Die) : (s.modDie k f).versions = s.versions := rfl
@[simp] theorem State.modDie_banks (s : State) (k : Nat) (f : Die → Die) : (s.modDie k f).banks = s.banks := rfl
@[simp] theorem State.modDie_lpddr (s : State) (k : Nat) (f : Die → Die) : (s.modDie k f).lpddr = s.lpddr := rfl
@[simp] theorem State.modDie_worlds (s : State) (k : Nat) (f : Die → Die) : (s.modDie k f).worlds = s.worlds := rfl
@[simp] theorem State.modDie_invals (s : State) (k : Nat) (f : Die → Die) : (s.modDie k f).invals = s.invals := rfl
@[simp] theorem State.modDie_pages (s : State) (k : Nat) (f : Die → Die) : (s.modDie k f).pages = s.pages := rfl
@[simp] theorem State.modDie_fars (s : State) (k : Nat) (f : Die → Die) : (s.modDie k f).fars = s.fars := rfl
@[simp] theorem State.modDie_words (s : State) (k : Nat) (f : Die → Die) : (s.modDie k f).words = s.words := rfl
@[simp] theorem State.modDie_graves (s : State) (k : Nat) (f : Die → Die) : (s.modDie k f).graves = s.graves := rfl
@[simp] theorem State.modDie_avtos (s : State) (k : Nat) (f : Die → Die) : (s.modDie k f).avtos = s.avtos := rfl
@[simp] theorem State.modDie_fab (s : State) (k : Nat) (f : Die → Die) : (s.modDie k f).fab = s.fab := rfl
@[simp] theorem State.modDie_svc (s : State) (k : Nat) (f : Die → Die) : (s.modDie k f).svc = s.svc := rfl
@[simp] theorem State.modCtx_cur (s : State) (k : Nat) (f : Ctx → Ctx) : (s.modCtx k f).cur = s.cur := rfl
@[simp] theorem State.modCtx_word (s : State) (k : Nat) (f : Ctx → Ctx) : (s.modCtx k f).word = s.word := rfl
@[simp] theorem State.modCtx_bag (s : State) (k : Nat) (f : Ctx → Ctx) : (s.modCtx k f).bag = s.bag := rfl
@[simp] theorem State.modCtx_inputs (s : State) (k : Nat) (f : Ctx → Ctx) : (s.modCtx k f).inputs = s.inputs := rfl
@[simp] theorem State.modCtx_outbox (s : State) (k : Nat) (f : Ctx → Ctx) : (s.modCtx k f).outbox = s.outbox := rfl
@[simp] theorem State.modCtx_tick (s : State) (k : Nat) (f : Ctx → Ctx) : (s.modCtx k f).tick = s.tick := rfl
@[simp] theorem State.modCtx_fresh (s : State) (k : Nat) (f : Ctx → Ctx) : (s.modCtx k f).fresh = s.fresh := rfl
@[simp] theorem State.modCtx_mem (s : State) (k : Nat) (f : Ctx → Ctx) : (s.modCtx k f).mem = s.mem := rfl
@[simp] theorem State.modCtx_host (s : State) (k : Nat) (f : Ctx → Ctx) : (s.modCtx k f).host = s.host := rfl
@[simp] theorem State.modCtx_bad (s : State) (k : Nat) (f : Ctx → Ctx) : (s.modCtx k f).bad = s.bad := rfl
@[simp] theorem State.modCtx_grids (s : State) (k : Nat) (f : Ctx → Ctx) : (s.modCtx k f).grids = s.grids := rfl
@[simp] theorem State.modCtx_teams (s : State) (k : Nat) (f : Ctx → Ctx) : (s.modCtx k f).teams = s.teams := rfl
@[simp] theorem State.modCtx_warps (s : State) (k : Nat) (f : Ctx → Ctx) : (s.modCtx k f).warps = s.warps := rfl
@[simp] theorem State.modCtx_members (s : State) (k : Nat) (f : Ctx → Ctx) : (s.modCtx k f).members = s.members := rfl
@[simp] theorem State.modCtx_ops (s : State) (k : Nat) (f : Ctx → Ctx) : (s.modCtx k f).ops = s.ops := rfl
@[simp] theorem State.modCtx_reqs (s : State) (k : Nat) (f : Ctx → Ctx) : (s.modCtx k f).reqs = s.reqs := rfl
@[simp] theorem State.modCtx_chimes (s : State) (k : Nat) (f : Ctx → Ctx) : (s.modCtx k f).chimes = s.chimes := rfl
@[simp] theorem State.modCtx_txs (s : State) (k : Nat) (f : Ctx → Ctx) : (s.modCtx k f).txs = s.txs := rfl
@[simp] theorem State.modCtx_cores (s : State) (k : Nat) (f : Ctx → Ctx) : (s.modCtx k f).cores = s.cores := rfl
@[simp] theorem State.modCtx_quads (s : State) (k : Nat) (f : Ctx → Ctx) : (s.modCtx k f).quads = s.quads := rfl
@[simp] theorem State.modCtx_dies (s : State) (k : Nat) (f : Ctx → Ctx) : (s.modCtx k f).dies = s.dies := rfl
@[simp] theorem State.modCtx_tiles (s : State) (k : Nat) (f : Ctx → Ctx) : (s.modCtx k f).tiles = s.tiles := rfl
@[simp] theorem State.modCtx_copies (s : State) (k : Nat) (f : Ctx → Ctx) : (s.modCtx k f).copies = s.copies := rfl
@[simp] theorem State.modCtx_posts (s : State) (k : Nat) (f : Ctx → Ctx) : (s.modCtx k f).posts = s.posts := rfl
@[simp] theorem State.modCtx_bufs (s : State) (k : Nat) (f : Ctx → Ctx) : (s.modCtx k f).bufs = s.bufs := rfl
@[simp] theorem State.modCtx_queues (s : State) (k : Nat) (f : Ctx → Ctx) : (s.modCtx k f).queues = s.queues := rfl
@[simp] theorem State.modCtx_chans (s : State) (k : Nat) (f : Ctx → Ctx) : (s.modCtx k f).chans = s.chans := rfl
@[simp] theorem State.modCtx_groups (s : State) (k : Nat) (f : Ctx → Ctx) : (s.modCtx k f).groups = s.groups := rfl
@[simp] theorem State.modCtx_colls (s : State) (k : Nat) (f : Ctx → Ctx) : (s.modCtx k f).colls = s.colls := rfl
@[simp] theorem State.modCtx_combs (s : State) (k : Nat) (f : Ctx → Ctx) : (s.modCtx k f).combs = s.combs := rfl
@[simp] theorem State.modCtx_frames (s : State) (k : Nat) (f : Ctx → Ctx) : (s.modCtx k f).frames = s.frames := rfl
@[simp] theorem State.modCtx_partials (s : State) (k : Nat) (f : Ctx → Ctx) : (s.modCtx k f).partials = s.partials := rfl
@[simp] theorem State.modCtx_versions (s : State) (k : Nat) (f : Ctx → Ctx) : (s.modCtx k f).versions = s.versions := rfl
@[simp] theorem State.modCtx_banks (s : State) (k : Nat) (f : Ctx → Ctx) : (s.modCtx k f).banks = s.banks := rfl
@[simp] theorem State.modCtx_lpddr (s : State) (k : Nat) (f : Ctx → Ctx) : (s.modCtx k f).lpddr = s.lpddr := rfl
@[simp] theorem State.modCtx_worlds (s : State) (k : Nat) (f : Ctx → Ctx) : (s.modCtx k f).worlds = s.worlds := rfl
@[simp] theorem State.modCtx_invals (s : State) (k : Nat) (f : Ctx → Ctx) : (s.modCtx k f).invals = s.invals := rfl
@[simp] theorem State.modCtx_pages (s : State) (k : Nat) (f : Ctx → Ctx) : (s.modCtx k f).pages = s.pages := rfl
@[simp] theorem State.modCtx_fars (s : State) (k : Nat) (f : Ctx → Ctx) : (s.modCtx k f).fars = s.fars := rfl
@[simp] theorem State.modCtx_words (s : State) (k : Nat) (f : Ctx → Ctx) : (s.modCtx k f).words = s.words := rfl
@[simp] theorem State.modCtx_graves (s : State) (k : Nat) (f : Ctx → Ctx) : (s.modCtx k f).graves = s.graves := rfl
@[simp] theorem State.modCtx_avtos (s : State) (k : Nat) (f : Ctx → Ctx) : (s.modCtx k f).avtos = s.avtos := rfl
@[simp] theorem State.modCtx_fab (s : State) (k : Nat) (f : Ctx → Ctx) : (s.modCtx k f).fab = s.fab := rfl
@[simp] theorem State.modCtx_svc (s : State) (k : Nat) (f : Ctx → Ctx) : (s.modCtx k f).svc = s.svc := rfl
@[simp] theorem State.modTeam_cur (s : State) (k : Nat) (f : Team → Team) : (s.modTeam k f).cur = s.cur := rfl
@[simp] theorem State.modTeam_word (s : State) (k : Nat) (f : Team → Team) : (s.modTeam k f).word = s.word := rfl
@[simp] theorem State.modTeam_bag (s : State) (k : Nat) (f : Team → Team) : (s.modTeam k f).bag = s.bag := rfl
@[simp] theorem State.modTeam_inputs (s : State) (k : Nat) (f : Team → Team) : (s.modTeam k f).inputs = s.inputs := rfl
@[simp] theorem State.modTeam_outbox (s : State) (k : Nat) (f : Team → Team) : (s.modTeam k f).outbox = s.outbox := rfl
@[simp] theorem State.modTeam_tick (s : State) (k : Nat) (f : Team → Team) : (s.modTeam k f).tick = s.tick := rfl
@[simp] theorem State.modTeam_fresh (s : State) (k : Nat) (f : Team → Team) : (s.modTeam k f).fresh = s.fresh := rfl
@[simp] theorem State.modTeam_mem (s : State) (k : Nat) (f : Team → Team) : (s.modTeam k f).mem = s.mem := rfl
@[simp] theorem State.modTeam_host (s : State) (k : Nat) (f : Team → Team) : (s.modTeam k f).host = s.host := rfl
@[simp] theorem State.modTeam_bad (s : State) (k : Nat) (f : Team → Team) : (s.modTeam k f).bad = s.bad := rfl
@[simp] theorem State.modTeam_ctxs (s : State) (k : Nat) (f : Team → Team) : (s.modTeam k f).ctxs = s.ctxs := rfl
@[simp] theorem State.modTeam_grids (s : State) (k : Nat) (f : Team → Team) : (s.modTeam k f).grids = s.grids := rfl
@[simp] theorem State.modTeam_warps (s : State) (k : Nat) (f : Team → Team) : (s.modTeam k f).warps = s.warps := rfl
@[simp] theorem State.modTeam_members (s : State) (k : Nat) (f : Team → Team) : (s.modTeam k f).members = s.members := rfl
@[simp] theorem State.modTeam_ops (s : State) (k : Nat) (f : Team → Team) : (s.modTeam k f).ops = s.ops := rfl
@[simp] theorem State.modTeam_reqs (s : State) (k : Nat) (f : Team → Team) : (s.modTeam k f).reqs = s.reqs := rfl
@[simp] theorem State.modTeam_chimes (s : State) (k : Nat) (f : Team → Team) : (s.modTeam k f).chimes = s.chimes := rfl
@[simp] theorem State.modTeam_txs (s : State) (k : Nat) (f : Team → Team) : (s.modTeam k f).txs = s.txs := rfl
@[simp] theorem State.modTeam_cores (s : State) (k : Nat) (f : Team → Team) : (s.modTeam k f).cores = s.cores := rfl
@[simp] theorem State.modTeam_quads (s : State) (k : Nat) (f : Team → Team) : (s.modTeam k f).quads = s.quads := rfl
@[simp] theorem State.modTeam_dies (s : State) (k : Nat) (f : Team → Team) : (s.modTeam k f).dies = s.dies := rfl
@[simp] theorem State.modTeam_tiles (s : State) (k : Nat) (f : Team → Team) : (s.modTeam k f).tiles = s.tiles := rfl
@[simp] theorem State.modTeam_copies (s : State) (k : Nat) (f : Team → Team) : (s.modTeam k f).copies = s.copies := rfl
@[simp] theorem State.modTeam_posts (s : State) (k : Nat) (f : Team → Team) : (s.modTeam k f).posts = s.posts := rfl
@[simp] theorem State.modTeam_bufs (s : State) (k : Nat) (f : Team → Team) : (s.modTeam k f).bufs = s.bufs := rfl
@[simp] theorem State.modTeam_queues (s : State) (k : Nat) (f : Team → Team) : (s.modTeam k f).queues = s.queues := rfl
@[simp] theorem State.modTeam_chans (s : State) (k : Nat) (f : Team → Team) : (s.modTeam k f).chans = s.chans := rfl
@[simp] theorem State.modTeam_groups (s : State) (k : Nat) (f : Team → Team) : (s.modTeam k f).groups = s.groups := rfl
@[simp] theorem State.modTeam_colls (s : State) (k : Nat) (f : Team → Team) : (s.modTeam k f).colls = s.colls := rfl
@[simp] theorem State.modTeam_combs (s : State) (k : Nat) (f : Team → Team) : (s.modTeam k f).combs = s.combs := rfl
@[simp] theorem State.modTeam_frames (s : State) (k : Nat) (f : Team → Team) : (s.modTeam k f).frames = s.frames := rfl
@[simp] theorem State.modTeam_partials (s : State) (k : Nat) (f : Team → Team) : (s.modTeam k f).partials = s.partials := rfl
@[simp] theorem State.modTeam_versions (s : State) (k : Nat) (f : Team → Team) : (s.modTeam k f).versions = s.versions := rfl
@[simp] theorem State.modTeam_banks (s : State) (k : Nat) (f : Team → Team) : (s.modTeam k f).banks = s.banks := rfl
@[simp] theorem State.modTeam_lpddr (s : State) (k : Nat) (f : Team → Team) : (s.modTeam k f).lpddr = s.lpddr := rfl
@[simp] theorem State.modTeam_worlds (s : State) (k : Nat) (f : Team → Team) : (s.modTeam k f).worlds = s.worlds := rfl
@[simp] theorem State.modTeam_invals (s : State) (k : Nat) (f : Team → Team) : (s.modTeam k f).invals = s.invals := rfl
@[simp] theorem State.modTeam_pages (s : State) (k : Nat) (f : Team → Team) : (s.modTeam k f).pages = s.pages := rfl
@[simp] theorem State.modTeam_fars (s : State) (k : Nat) (f : Team → Team) : (s.modTeam k f).fars = s.fars := rfl
@[simp] theorem State.modTeam_words (s : State) (k : Nat) (f : Team → Team) : (s.modTeam k f).words = s.words := rfl
@[simp] theorem State.modTeam_graves (s : State) (k : Nat) (f : Team → Team) : (s.modTeam k f).graves = s.graves := rfl
@[simp] theorem State.modTeam_avtos (s : State) (k : Nat) (f : Team → Team) : (s.modTeam k f).avtos = s.avtos := rfl
@[simp] theorem State.modTeam_fab (s : State) (k : Nat) (f : Team → Team) : (s.modTeam k f).fab = s.fab := rfl
@[simp] theorem State.modTeam_svc (s : State) (k : Nat) (f : Team → Team) : (s.modTeam k f).svc = s.svc := rfl
@[simp] theorem State.post_cur (s : State) (e : Ev) : (s.post e).cur = s.cur := rfl
@[simp] theorem State.post_word (s : State) (e : Ev) : (s.post e).word = s.word := rfl
@[simp] theorem State.post_inputs (s : State) (e : Ev) : (s.post e).inputs = s.inputs := rfl
@[simp] theorem State.post_outbox (s : State) (e : Ev) : (s.post e).outbox = s.outbox := rfl
@[simp] theorem State.post_tick (s : State) (e : Ev) : (s.post e).tick = s.tick := rfl
@[simp] theorem State.post_fresh (s : State) (e : Ev) : (s.post e).fresh = s.fresh := rfl
@[simp] theorem State.post_mem (s : State) (e : Ev) : (s.post e).mem = s.mem := rfl
@[simp] theorem State.post_host (s : State) (e : Ev) : (s.post e).host = s.host := rfl
@[simp] theorem State.post_bad (s : State) (e : Ev) : (s.post e).bad = s.bad := rfl
@[simp] theorem State.post_ctxs (s : State) (e : Ev) : (s.post e).ctxs = s.ctxs := rfl
@[simp] theorem State.post_grids (s : State) (e : Ev) : (s.post e).grids = s.grids := rfl
@[simp] theorem State.post_teams (s : State) (e : Ev) : (s.post e).teams = s.teams := rfl
@[simp] theorem State.post_warps (s : State) (e : Ev) : (s.post e).warps = s.warps := rfl
@[simp] theorem State.post_members (s : State) (e : Ev) : (s.post e).members = s.members := rfl
@[simp] theorem State.post_ops (s : State) (e : Ev) : (s.post e).ops = s.ops := rfl
@[simp] theorem State.post_reqs (s : State) (e : Ev) : (s.post e).reqs = s.reqs := rfl
@[simp] theorem State.post_chimes (s : State) (e : Ev) : (s.post e).chimes = s.chimes := rfl
@[simp] theorem State.post_txs (s : State) (e : Ev) : (s.post e).txs = s.txs := rfl
@[simp] theorem State.post_cores (s : State) (e : Ev) : (s.post e).cores = s.cores := rfl
@[simp] theorem State.post_quads (s : State) (e : Ev) : (s.post e).quads = s.quads := rfl
@[simp] theorem State.post_dies (s : State) (e : Ev) : (s.post e).dies = s.dies := rfl
@[simp] theorem State.post_tiles (s : State) (e : Ev) : (s.post e).tiles = s.tiles := rfl
@[simp] theorem State.post_copies (s : State) (e : Ev) : (s.post e).copies = s.copies := rfl
@[simp] theorem State.post_posts (s : State) (e : Ev) : (s.post e).posts = s.posts := rfl
@[simp] theorem State.post_bufs (s : State) (e : Ev) : (s.post e).bufs = s.bufs := rfl
@[simp] theorem State.post_queues (s : State) (e : Ev) : (s.post e).queues = s.queues := rfl
@[simp] theorem State.post_chans (s : State) (e : Ev) : (s.post e).chans = s.chans := rfl
@[simp] theorem State.post_groups (s : State) (e : Ev) : (s.post e).groups = s.groups := rfl
@[simp] theorem State.post_colls (s : State) (e : Ev) : (s.post e).colls = s.colls := rfl
@[simp] theorem State.post_combs (s : State) (e : Ev) : (s.post e).combs = s.combs := rfl
@[simp] theorem State.post_frames (s : State) (e : Ev) : (s.post e).frames = s.frames := rfl
@[simp] theorem State.post_partials (s : State) (e : Ev) : (s.post e).partials = s.partials := rfl
@[simp] theorem State.post_versions (s : State) (e : Ev) : (s.post e).versions = s.versions := rfl
@[simp] theorem State.post_banks (s : State) (e : Ev) : (s.post e).banks = s.banks := rfl
@[simp] theorem State.post_lpddr (s : State) (e : Ev) : (s.post e).lpddr = s.lpddr := rfl
@[simp] theorem State.post_worlds (s : State) (e : Ev) : (s.post e).worlds = s.worlds := rfl
@[simp] theorem State.post_invals (s : State) (e : Ev) : (s.post e).invals = s.invals := rfl
@[simp] theorem State.post_pages (s : State) (e : Ev) : (s.post e).pages = s.pages := rfl
@[simp] theorem State.post_fars (s : State) (e : Ev) : (s.post e).fars = s.fars := rfl
@[simp] theorem State.post_words (s : State) (e : Ev) : (s.post e).words = s.words := rfl
@[simp] theorem State.post_graves (s : State) (e : Ev) : (s.post e).graves = s.graves := rfl
@[simp] theorem State.post_avtos (s : State) (e : Ev) : (s.post e).avtos = s.avtos := rfl
@[simp] theorem State.post_fab (s : State) (e : Ev) : (s.post e).fab = s.fab := rfl
@[simp] theorem State.post_svc (s : State) (e : Ev) : (s.post e).svc = s.svc := rfl
@[simp] theorem State.postAll_cur (s : State) (l : List Ev) : (s.postAll l).cur = s.cur := rfl
@[simp] theorem State.postAll_word (s : State) (l : List Ev) : (s.postAll l).word = s.word := rfl
@[simp] theorem State.postAll_inputs (s : State) (l : List Ev) : (s.postAll l).inputs = s.inputs := rfl
@[simp] theorem State.postAll_outbox (s : State) (l : List Ev) : (s.postAll l).outbox = s.outbox := rfl
@[simp] theorem State.postAll_tick (s : State) (l : List Ev) : (s.postAll l).tick = s.tick := rfl
@[simp] theorem State.postAll_fresh (s : State) (l : List Ev) : (s.postAll l).fresh = s.fresh := rfl
@[simp] theorem State.postAll_mem (s : State) (l : List Ev) : (s.postAll l).mem = s.mem := rfl
@[simp] theorem State.postAll_host (s : State) (l : List Ev) : (s.postAll l).host = s.host := rfl
@[simp] theorem State.postAll_bad (s : State) (l : List Ev) : (s.postAll l).bad = s.bad := rfl
@[simp] theorem State.postAll_ctxs (s : State) (l : List Ev) : (s.postAll l).ctxs = s.ctxs := rfl
@[simp] theorem State.postAll_grids (s : State) (l : List Ev) : (s.postAll l).grids = s.grids := rfl
@[simp] theorem State.postAll_teams (s : State) (l : List Ev) : (s.postAll l).teams = s.teams := rfl
@[simp] theorem State.postAll_warps (s : State) (l : List Ev) : (s.postAll l).warps = s.warps := rfl
@[simp] theorem State.postAll_members (s : State) (l : List Ev) : (s.postAll l).members = s.members := rfl
@[simp] theorem State.postAll_ops (s : State) (l : List Ev) : (s.postAll l).ops = s.ops := rfl
@[simp] theorem State.postAll_reqs (s : State) (l : List Ev) : (s.postAll l).reqs = s.reqs := rfl
@[simp] theorem State.postAll_chimes (s : State) (l : List Ev) : (s.postAll l).chimes = s.chimes := rfl
@[simp] theorem State.postAll_txs (s : State) (l : List Ev) : (s.postAll l).txs = s.txs := rfl
@[simp] theorem State.postAll_cores (s : State) (l : List Ev) : (s.postAll l).cores = s.cores := rfl
@[simp] theorem State.postAll_quads (s : State) (l : List Ev) : (s.postAll l).quads = s.quads := rfl
@[simp] theorem State.postAll_dies (s : State) (l : List Ev) : (s.postAll l).dies = s.dies := rfl
@[simp] theorem State.postAll_tiles (s : State) (l : List Ev) : (s.postAll l).tiles = s.tiles := rfl
@[simp] theorem State.postAll_copies (s : State) (l : List Ev) : (s.postAll l).copies = s.copies := rfl
@[simp] theorem State.postAll_posts (s : State) (l : List Ev) : (s.postAll l).posts = s.posts := rfl
@[simp] theorem State.postAll_bufs (s : State) (l : List Ev) : (s.postAll l).bufs = s.bufs := rfl
@[simp] theorem State.postAll_queues (s : State) (l : List Ev) : (s.postAll l).queues = s.queues := rfl
@[simp] theorem State.postAll_chans (s : State) (l : List Ev) : (s.postAll l).chans = s.chans := rfl
@[simp] theorem State.postAll_groups (s : State) (l : List Ev) : (s.postAll l).groups = s.groups := rfl
@[simp] theorem State.postAll_colls (s : State) (l : List Ev) : (s.postAll l).colls = s.colls := rfl
@[simp] theorem State.postAll_combs (s : State) (l : List Ev) : (s.postAll l).combs = s.combs := rfl
@[simp] theorem State.postAll_frames (s : State) (l : List Ev) : (s.postAll l).frames = s.frames := rfl
@[simp] theorem State.postAll_partials (s : State) (l : List Ev) : (s.postAll l).partials = s.partials := rfl
@[simp] theorem State.postAll_versions (s : State) (l : List Ev) : (s.postAll l).versions = s.versions := rfl
@[simp] theorem State.postAll_banks (s : State) (l : List Ev) : (s.postAll l).banks = s.banks := rfl
@[simp] theorem State.postAll_lpddr (s : State) (l : List Ev) : (s.postAll l).lpddr = s.lpddr := rfl
@[simp] theorem State.postAll_worlds (s : State) (l : List Ev) : (s.postAll l).worlds = s.worlds := rfl
@[simp] theorem State.postAll_invals (s : State) (l : List Ev) : (s.postAll l).invals = s.invals := rfl
@[simp] theorem State.postAll_pages (s : State) (l : List Ev) : (s.postAll l).pages = s.pages := rfl
@[simp] theorem State.postAll_fars (s : State) (l : List Ev) : (s.postAll l).fars = s.fars := rfl
@[simp] theorem State.postAll_words (s : State) (l : List Ev) : (s.postAll l).words = s.words := rfl
@[simp] theorem State.postAll_graves (s : State) (l : List Ev) : (s.postAll l).graves = s.graves := rfl
@[simp] theorem State.postAll_avtos (s : State) (l : List Ev) : (s.postAll l).avtos = s.avtos := rfl
@[simp] theorem State.postAll_fab (s : State) (l : List Ev) : (s.postAll l).fab = s.fab := rfl
@[simp] theorem State.postAll_svc (s : State) (l : List Ev) : (s.postAll l).svc = s.svc := rfl
@[simp] theorem State.emit_cur (s : State) (o : Out) : (s.emit o).cur = s.cur := rfl
@[simp] theorem State.emit_word (s : State) (o : Out) : (s.emit o).word = s.word := rfl
@[simp] theorem State.emit_bag (s : State) (o : Out) : (s.emit o).bag = s.bag := rfl
@[simp] theorem State.emit_inputs (s : State) (o : Out) : (s.emit o).inputs = s.inputs := rfl
@[simp] theorem State.emit_tick (s : State) (o : Out) : (s.emit o).tick = s.tick := rfl
@[simp] theorem State.emit_fresh (s : State) (o : Out) : (s.emit o).fresh = s.fresh := rfl
@[simp] theorem State.emit_mem (s : State) (o : Out) : (s.emit o).mem = s.mem := rfl
@[simp] theorem State.emit_host (s : State) (o : Out) : (s.emit o).host = s.host := rfl
@[simp] theorem State.emit_bad (s : State) (o : Out) : (s.emit o).bad = s.bad := rfl
@[simp] theorem State.emit_ctxs (s : State) (o : Out) : (s.emit o).ctxs = s.ctxs := rfl
@[simp] theorem State.emit_grids (s : State) (o : Out) : (s.emit o).grids = s.grids := rfl
@[simp] theorem State.emit_teams (s : State) (o : Out) : (s.emit o).teams = s.teams := rfl
@[simp] theorem State.emit_warps (s : State) (o : Out) : (s.emit o).warps = s.warps := rfl
@[simp] theorem State.emit_members (s : State) (o : Out) : (s.emit o).members = s.members := rfl
@[simp] theorem State.emit_ops (s : State) (o : Out) : (s.emit o).ops = s.ops := rfl
@[simp] theorem State.emit_reqs (s : State) (o : Out) : (s.emit o).reqs = s.reqs := rfl
@[simp] theorem State.emit_chimes (s : State) (o : Out) : (s.emit o).chimes = s.chimes := rfl
@[simp] theorem State.emit_txs (s : State) (o : Out) : (s.emit o).txs = s.txs := rfl
@[simp] theorem State.emit_cores (s : State) (o : Out) : (s.emit o).cores = s.cores := rfl
@[simp] theorem State.emit_quads (s : State) (o : Out) : (s.emit o).quads = s.quads := rfl
@[simp] theorem State.emit_dies (s : State) (o : Out) : (s.emit o).dies = s.dies := rfl
@[simp] theorem State.emit_tiles (s : State) (o : Out) : (s.emit o).tiles = s.tiles := rfl
@[simp] theorem State.emit_copies (s : State) (o : Out) : (s.emit o).copies = s.copies := rfl
@[simp] theorem State.emit_posts (s : State) (o : Out) : (s.emit o).posts = s.posts := rfl
@[simp] theorem State.emit_bufs (s : State) (o : Out) : (s.emit o).bufs = s.bufs := rfl
@[simp] theorem State.emit_queues (s : State) (o : Out) : (s.emit o).queues = s.queues := rfl
@[simp] theorem State.emit_chans (s : State) (o : Out) : (s.emit o).chans = s.chans := rfl
@[simp] theorem State.emit_groups (s : State) (o : Out) : (s.emit o).groups = s.groups := rfl
@[simp] theorem State.emit_colls (s : State) (o : Out) : (s.emit o).colls = s.colls := rfl
@[simp] theorem State.emit_combs (s : State) (o : Out) : (s.emit o).combs = s.combs := rfl
@[simp] theorem State.emit_frames (s : State) (o : Out) : (s.emit o).frames = s.frames := rfl
@[simp] theorem State.emit_partials (s : State) (o : Out) : (s.emit o).partials = s.partials := rfl
@[simp] theorem State.emit_versions (s : State) (o : Out) : (s.emit o).versions = s.versions := rfl
@[simp] theorem State.emit_banks (s : State) (o : Out) : (s.emit o).banks = s.banks := rfl
@[simp] theorem State.emit_lpddr (s : State) (o : Out) : (s.emit o).lpddr = s.lpddr := rfl
@[simp] theorem State.emit_worlds (s : State) (o : Out) : (s.emit o).worlds = s.worlds := rfl
@[simp] theorem State.emit_invals (s : State) (o : Out) : (s.emit o).invals = s.invals := rfl
@[simp] theorem State.emit_pages (s : State) (o : Out) : (s.emit o).pages = s.pages := rfl
@[simp] theorem State.emit_fars (s : State) (o : Out) : (s.emit o).fars = s.fars := rfl
@[simp] theorem State.emit_words (s : State) (o : Out) : (s.emit o).words = s.words := rfl
@[simp] theorem State.emit_graves (s : State) (o : Out) : (s.emit o).graves = s.graves := rfl
@[simp] theorem State.emit_avtos (s : State) (o : Out) : (s.emit o).avtos = s.avtos := rfl
@[simp] theorem State.emit_fab (s : State) (o : Out) : (s.emit o).fab = s.fab := rfl
@[simp] theorem State.emit_svc (s : State) (o : Out) : (s.emit o).svc = s.svc := rfl
@[simp] theorem State.poke_cur (s : State) (a : Nat) (l : List Byte) : (s.poke a l).cur = s.cur := rfl
@[simp] theorem State.poke_word (s : State) (a : Nat) (l : List Byte) : (s.poke a l).word = s.word := rfl
@[simp] theorem State.poke_bag (s : State) (a : Nat) (l : List Byte) : (s.poke a l).bag = s.bag := rfl
@[simp] theorem State.poke_inputs (s : State) (a : Nat) (l : List Byte) : (s.poke a l).inputs = s.inputs := rfl
@[simp] theorem State.poke_outbox (s : State) (a : Nat) (l : List Byte) : (s.poke a l).outbox = s.outbox := rfl
@[simp] theorem State.poke_tick (s : State) (a : Nat) (l : List Byte) : (s.poke a l).tick = s.tick := rfl
@[simp] theorem State.poke_fresh (s : State) (a : Nat) (l : List Byte) : (s.poke a l).fresh = s.fresh := rfl
@[simp] theorem State.poke_host (s : State) (a : Nat) (l : List Byte) : (s.poke a l).host = s.host := rfl
@[simp] theorem State.poke_bad (s : State) (a : Nat) (l : List Byte) : (s.poke a l).bad = s.bad := rfl
@[simp] theorem State.poke_ctxs (s : State) (a : Nat) (l : List Byte) : (s.poke a l).ctxs = s.ctxs := rfl
@[simp] theorem State.poke_grids (s : State) (a : Nat) (l : List Byte) : (s.poke a l).grids = s.grids := rfl
@[simp] theorem State.poke_teams (s : State) (a : Nat) (l : List Byte) : (s.poke a l).teams = s.teams := rfl
@[simp] theorem State.poke_warps (s : State) (a : Nat) (l : List Byte) : (s.poke a l).warps = s.warps := rfl
@[simp] theorem State.poke_members (s : State) (a : Nat) (l : List Byte) : (s.poke a l).members = s.members := rfl
@[simp] theorem State.poke_ops (s : State) (a : Nat) (l : List Byte) : (s.poke a l).ops = s.ops := rfl
@[simp] theorem State.poke_reqs (s : State) (a : Nat) (l : List Byte) : (s.poke a l).reqs = s.reqs := rfl
@[simp] theorem State.poke_chimes (s : State) (a : Nat) (l : List Byte) : (s.poke a l).chimes = s.chimes := rfl
@[simp] theorem State.poke_txs (s : State) (a : Nat) (l : List Byte) : (s.poke a l).txs = s.txs := rfl
@[simp] theorem State.poke_cores (s : State) (a : Nat) (l : List Byte) : (s.poke a l).cores = s.cores := rfl
@[simp] theorem State.poke_quads (s : State) (a : Nat) (l : List Byte) : (s.poke a l).quads = s.quads := rfl
@[simp] theorem State.poke_dies (s : State) (a : Nat) (l : List Byte) : (s.poke a l).dies = s.dies := rfl
@[simp] theorem State.poke_tiles (s : State) (a : Nat) (l : List Byte) : (s.poke a l).tiles = s.tiles := rfl
@[simp] theorem State.poke_copies (s : State) (a : Nat) (l : List Byte) : (s.poke a l).copies = s.copies := rfl
@[simp] theorem State.poke_posts (s : State) (a : Nat) (l : List Byte) : (s.poke a l).posts = s.posts := rfl
@[simp] theorem State.poke_bufs (s : State) (a : Nat) (l : List Byte) : (s.poke a l).bufs = s.bufs := rfl
@[simp] theorem State.poke_queues (s : State) (a : Nat) (l : List Byte) : (s.poke a l).queues = s.queues := rfl
@[simp] theorem State.poke_chans (s : State) (a : Nat) (l : List Byte) : (s.poke a l).chans = s.chans := rfl
@[simp] theorem State.poke_groups (s : State) (a : Nat) (l : List Byte) : (s.poke a l).groups = s.groups := rfl
@[simp] theorem State.poke_colls (s : State) (a : Nat) (l : List Byte) : (s.poke a l).colls = s.colls := rfl
@[simp] theorem State.poke_combs (s : State) (a : Nat) (l : List Byte) : (s.poke a l).combs = s.combs := rfl
@[simp] theorem State.poke_frames (s : State) (a : Nat) (l : List Byte) : (s.poke a l).frames = s.frames := rfl
@[simp] theorem State.poke_partials (s : State) (a : Nat) (l : List Byte) : (s.poke a l).partials = s.partials := rfl
@[simp] theorem State.poke_versions (s : State) (a : Nat) (l : List Byte) : (s.poke a l).versions = s.versions := rfl
@[simp] theorem State.poke_banks (s : State) (a : Nat) (l : List Byte) : (s.poke a l).banks = s.banks := rfl
@[simp] theorem State.poke_lpddr (s : State) (a : Nat) (l : List Byte) : (s.poke a l).lpddr = s.lpddr := rfl
@[simp] theorem State.poke_worlds (s : State) (a : Nat) (l : List Byte) : (s.poke a l).worlds = s.worlds := rfl
@[simp] theorem State.poke_invals (s : State) (a : Nat) (l : List Byte) : (s.poke a l).invals = s.invals := rfl
@[simp] theorem State.poke_pages (s : State) (a : Nat) (l : List Byte) : (s.poke a l).pages = s.pages := rfl
@[simp] theorem State.poke_fars (s : State) (a : Nat) (l : List Byte) : (s.poke a l).fars = s.fars := rfl
@[simp] theorem State.poke_words (s : State) (a : Nat) (l : List Byte) : (s.poke a l).words = s.words := rfl
@[simp] theorem State.poke_graves (s : State) (a : Nat) (l : List Byte) : (s.poke a l).graves = s.graves := rfl
@[simp] theorem State.poke_avtos (s : State) (a : Nat) (l : List Byte) : (s.poke a l).avtos = s.avtos := rfl
@[simp] theorem State.poke_fab (s : State) (a : Nat) (l : List Byte) : (s.poke a l).fab = s.fab := rfl
@[simp] theorem State.poke_svc (s : State) (a : Nat) (l : List Byte) : (s.poke a l).svc = s.svc := rfl
@[simp] theorem State.begin_bag (s : State) (u : Nat) (x : Word) : (s.begin u x).bag = s.bag := rfl
@[simp] theorem State.begin_inputs (s : State) (u : Nat) (x : Word) : (s.begin u x).inputs = s.inputs := rfl
@[simp] theorem State.begin_outbox (s : State) (u : Nat) (x : Word) : (s.begin u x).outbox = s.outbox := rfl
@[simp] theorem State.begin_tick (s : State) (u : Nat) (x : Word) : (s.begin u x).tick = s.tick := rfl
@[simp] theorem State.begin_fresh (s : State) (u : Nat) (x : Word) : (s.begin u x).fresh = s.fresh := rfl
@[simp] theorem State.begin_mem (s : State) (u : Nat) (x : Word) : (s.begin u x).mem = s.mem := rfl
@[simp] theorem State.begin_host (s : State) (u : Nat) (x : Word) : (s.begin u x).host = s.host := rfl
@[simp] theorem State.begin_bad (s : State) (u : Nat) (x : Word) : (s.begin u x).bad = s.bad := rfl
@[simp] theorem State.begin_ctxs (s : State) (u : Nat) (x : Word) : (s.begin u x).ctxs = s.ctxs := rfl
@[simp] theorem State.begin_grids (s : State) (u : Nat) (x : Word) : (s.begin u x).grids = s.grids := rfl
@[simp] theorem State.begin_teams (s : State) (u : Nat) (x : Word) : (s.begin u x).teams = s.teams := rfl
@[simp] theorem State.begin_warps (s : State) (u : Nat) (x : Word) : (s.begin u x).warps = s.warps := rfl
@[simp] theorem State.begin_members (s : State) (u : Nat) (x : Word) : (s.begin u x).members = s.members := rfl
@[simp] theorem State.begin_ops (s : State) (u : Nat) (x : Word) : (s.begin u x).ops = s.ops := rfl
@[simp] theorem State.begin_reqs (s : State) (u : Nat) (x : Word) : (s.begin u x).reqs = s.reqs := rfl
@[simp] theorem State.begin_chimes (s : State) (u : Nat) (x : Word) : (s.begin u x).chimes = s.chimes := rfl
@[simp] theorem State.begin_txs (s : State) (u : Nat) (x : Word) : (s.begin u x).txs = s.txs := rfl
@[simp] theorem State.begin_cores (s : State) (u : Nat) (x : Word) : (s.begin u x).cores = s.cores := rfl
@[simp] theorem State.begin_quads (s : State) (u : Nat) (x : Word) : (s.begin u x).quads = s.quads := rfl
@[simp] theorem State.begin_dies (s : State) (u : Nat) (x : Word) : (s.begin u x).dies = s.dies := rfl
@[simp] theorem State.begin_tiles (s : State) (u : Nat) (x : Word) : (s.begin u x).tiles = s.tiles := rfl
@[simp] theorem State.begin_copies (s : State) (u : Nat) (x : Word) : (s.begin u x).copies = s.copies := rfl
@[simp] theorem State.begin_posts (s : State) (u : Nat) (x : Word) : (s.begin u x).posts = s.posts := rfl
@[simp] theorem State.begin_bufs (s : State) (u : Nat) (x : Word) : (s.begin u x).bufs = s.bufs := rfl
@[simp] theorem State.begin_queues (s : State) (u : Nat) (x : Word) : (s.begin u x).queues = s.queues := rfl
@[simp] theorem State.begin_chans (s : State) (u : Nat) (x : Word) : (s.begin u x).chans = s.chans := rfl
@[simp] theorem State.begin_groups (s : State) (u : Nat) (x : Word) : (s.begin u x).groups = s.groups := rfl
@[simp] theorem State.begin_colls (s : State) (u : Nat) (x : Word) : (s.begin u x).colls = s.colls := rfl
@[simp] theorem State.begin_combs (s : State) (u : Nat) (x : Word) : (s.begin u x).combs = s.combs := rfl
@[simp] theorem State.begin_frames (s : State) (u : Nat) (x : Word) : (s.begin u x).frames = s.frames := rfl
@[simp] theorem State.begin_partials (s : State) (u : Nat) (x : Word) : (s.begin u x).partials = s.partials := rfl
@[simp] theorem State.begin_versions (s : State) (u : Nat) (x : Word) : (s.begin u x).versions = s.versions := rfl
@[simp] theorem State.begin_banks (s : State) (u : Nat) (x : Word) : (s.begin u x).banks = s.banks := rfl
@[simp] theorem State.begin_lpddr (s : State) (u : Nat) (x : Word) : (s.begin u x).lpddr = s.lpddr := rfl
@[simp] theorem State.begin_worlds (s : State) (u : Nat) (x : Word) : (s.begin u x).worlds = s.worlds := rfl
@[simp] theorem State.begin_invals (s : State) (u : Nat) (x : Word) : (s.begin u x).invals = s.invals := rfl
@[simp] theorem State.begin_pages (s : State) (u : Nat) (x : Word) : (s.begin u x).pages = s.pages := rfl
@[simp] theorem State.begin_fars (s : State) (u : Nat) (x : Word) : (s.begin u x).fars = s.fars := rfl
@[simp] theorem State.begin_words (s : State) (u : Nat) (x : Word) : (s.begin u x).words = s.words := rfl
@[simp] theorem State.begin_graves (s : State) (u : Nat) (x : Word) : (s.begin u x).graves = s.graves := rfl
@[simp] theorem State.begin_avtos (s : State) (u : Nat) (x : Word) : (s.begin u x).avtos = s.avtos := rfl
@[simp] theorem State.begin_fab (s : State) (u : Nat) (x : Word) : (s.begin u x).fab = s.fab := rfl
@[simp] theorem State.begin_svc (s : State) (u : Nat) (x : Word) : (s.begin u x).svc = s.svc := rfl
@[simp] theorem State.tweak_cur (s : State) (u : Nat) (f : Warp → Warp) : (s.tweak u f).cur = s.cur := rfl
@[simp] theorem State.tweak_word (s : State) (u : Nat) (f : Warp → Warp) : (s.tweak u f).word = s.word := rfl
@[simp] theorem State.tweak_bag (s : State) (u : Nat) (f : Warp → Warp) : (s.tweak u f).bag = s.bag := rfl
@[simp] theorem State.tweak_inputs (s : State) (u : Nat) (f : Warp → Warp) : (s.tweak u f).inputs = s.inputs := rfl
@[simp] theorem State.tweak_outbox (s : State) (u : Nat) (f : Warp → Warp) : (s.tweak u f).outbox = s.outbox := rfl
@[simp] theorem State.tweak_tick (s : State) (u : Nat) (f : Warp → Warp) : (s.tweak u f).tick = s.tick := rfl
@[simp] theorem State.tweak_fresh (s : State) (u : Nat) (f : Warp → Warp) : (s.tweak u f).fresh = s.fresh := rfl
@[simp] theorem State.tweak_mem (s : State) (u : Nat) (f : Warp → Warp) : (s.tweak u f).mem = s.mem := rfl
@[simp] theorem State.tweak_host (s : State) (u : Nat) (f : Warp → Warp) : (s.tweak u f).host = s.host := rfl
@[simp] theorem State.tweak_bad (s : State) (u : Nat) (f : Warp → Warp) : (s.tweak u f).bad = s.bad := rfl
@[simp] theorem State.tweak_ctxs (s : State) (u : Nat) (f : Warp → Warp) : (s.tweak u f).ctxs = s.ctxs := rfl
@[simp] theorem State.tweak_grids (s : State) (u : Nat) (f : Warp → Warp) : (s.tweak u f).grids = s.grids := rfl
@[simp] theorem State.tweak_teams (s : State) (u : Nat) (f : Warp → Warp) : (s.tweak u f).teams = s.teams := rfl
@[simp] theorem State.tweak_members (s : State) (u : Nat) (f : Warp → Warp) : (s.tweak u f).members = s.members := rfl
@[simp] theorem State.tweak_ops (s : State) (u : Nat) (f : Warp → Warp) : (s.tweak u f).ops = s.ops := rfl
@[simp] theorem State.tweak_reqs (s : State) (u : Nat) (f : Warp → Warp) : (s.tweak u f).reqs = s.reqs := rfl
@[simp] theorem State.tweak_chimes (s : State) (u : Nat) (f : Warp → Warp) : (s.tweak u f).chimes = s.chimes := rfl
@[simp] theorem State.tweak_txs (s : State) (u : Nat) (f : Warp → Warp) : (s.tweak u f).txs = s.txs := rfl
@[simp] theorem State.tweak_cores (s : State) (u : Nat) (f : Warp → Warp) : (s.tweak u f).cores = s.cores := rfl
@[simp] theorem State.tweak_quads (s : State) (u : Nat) (f : Warp → Warp) : (s.tweak u f).quads = s.quads := rfl
@[simp] theorem State.tweak_dies (s : State) (u : Nat) (f : Warp → Warp) : (s.tweak u f).dies = s.dies := rfl
@[simp] theorem State.tweak_tiles (s : State) (u : Nat) (f : Warp → Warp) : (s.tweak u f).tiles = s.tiles := rfl
@[simp] theorem State.tweak_copies (s : State) (u : Nat) (f : Warp → Warp) : (s.tweak u f).copies = s.copies := rfl
@[simp] theorem State.tweak_posts (s : State) (u : Nat) (f : Warp → Warp) : (s.tweak u f).posts = s.posts := rfl
@[simp] theorem State.tweak_bufs (s : State) (u : Nat) (f : Warp → Warp) : (s.tweak u f).bufs = s.bufs := rfl
@[simp] theorem State.tweak_queues (s : State) (u : Nat) (f : Warp → Warp) : (s.tweak u f).queues = s.queues := rfl
@[simp] theorem State.tweak_chans (s : State) (u : Nat) (f : Warp → Warp) : (s.tweak u f).chans = s.chans := rfl
@[simp] theorem State.tweak_groups (s : State) (u : Nat) (f : Warp → Warp) : (s.tweak u f).groups = s.groups := rfl
@[simp] theorem State.tweak_colls (s : State) (u : Nat) (f : Warp → Warp) : (s.tweak u f).colls = s.colls := rfl
@[simp] theorem State.tweak_combs (s : State) (u : Nat) (f : Warp → Warp) : (s.tweak u f).combs = s.combs := rfl
@[simp] theorem State.tweak_frames (s : State) (u : Nat) (f : Warp → Warp) : (s.tweak u f).frames = s.frames := rfl
@[simp] theorem State.tweak_partials (s : State) (u : Nat) (f : Warp → Warp) : (s.tweak u f).partials = s.partials := rfl
@[simp] theorem State.tweak_versions (s : State) (u : Nat) (f : Warp → Warp) : (s.tweak u f).versions = s.versions := rfl
@[simp] theorem State.tweak_banks (s : State) (u : Nat) (f : Warp → Warp) : (s.tweak u f).banks = s.banks := rfl
@[simp] theorem State.tweak_lpddr (s : State) (u : Nat) (f : Warp → Warp) : (s.tweak u f).lpddr = s.lpddr := rfl
@[simp] theorem State.tweak_worlds (s : State) (u : Nat) (f : Warp → Warp) : (s.tweak u f).worlds = s.worlds := rfl
@[simp] theorem State.tweak_invals (s : State) (u : Nat) (f : Warp → Warp) : (s.tweak u f).invals = s.invals := rfl
@[simp] theorem State.tweak_pages (s : State) (u : Nat) (f : Warp → Warp) : (s.tweak u f).pages = s.pages := rfl
@[simp] theorem State.tweak_fars (s : State) (u : Nat) (f : Warp → Warp) : (s.tweak u f).fars = s.fars := rfl
@[simp] theorem State.tweak_words (s : State) (u : Nat) (f : Warp → Warp) : (s.tweak u f).words = s.words := rfl
@[simp] theorem State.tweak_graves (s : State) (u : Nat) (f : Warp → Warp) : (s.tweak u f).graves = s.graves := rfl
@[simp] theorem State.tweak_avtos (s : State) (u : Nat) (f : Warp → Warp) : (s.tweak u f).avtos = s.avtos := rfl
@[simp] theorem State.tweak_fab (s : State) (u : Nat) (f : Warp → Warp) : (s.tweak u f).fab = s.fab := rfl
@[simp] theorem State.tweak_svc (s : State) (u : Nat) (f : Warp → Warp) : (s.tweak u f).svc = s.svc := rfl

@[simp] theorem State.post_bag (s : State) (e : Ev) : (s.post e).bag = s.bag ++ [e] := rfl
@[simp] theorem State.begin_cur (s : State) (u : Nat) (x : Word) : (s.begin u x).cur = some u := rfl
@[simp] theorem State.begin_word (s : State) (u : Nat) (x : Word) : (s.begin u x).word = x := rfl
@[simp] theorem State.poke_mem (s : State) (a : Nat) (l : List Byte) : (s.poke a l).mem = Memory.writeN s.mem a l := rfl

@[simp] theorem State.putWarp_warp (s : State) (u : Nat) (w : Warp) : (s.putWarp u w).warp u = w := by
  simp [State.putWarp, State.warp]

theorem State.putWarp_warp_ne (s : State) {u v : Nat} (w : Warp) (h : v ≠ u) : (s.putWarp u w).warp v = s.warp v := by
  simp [State.putWarp, State.warp, KMap.getD_set_ne _ _ _ h]

@[simp] theorem State.modWarp_warp (s : State) (u : Nat) (f : Warp → Warp) : (s.modWarp u f).warp u = f (s.warp u) := by
  simp [State.modWarp]

theorem State.modWarp_warp_ne (s : State) {u v : Nat} (f : Warp → Warp) (h : v ≠ u) : (s.modWarp u f).warp v = s.warp v :=
  State.putWarp_warp_ne s _ h

@[simp] theorem State.post_warp (s : State) (e : Ev) (u : Nat) : (s.post e).warp u = s.warp u := rfl

@[simp] theorem State.modCore_core (s : State) (k : Nat) (f : Core → Core) : (s.modCore k f).core k = f (s.core k) := by
  simp [State.modCore, State.core]

theorem State.modCore_core_ne (s : State) {k j : Nat} (f : Core → Core) (h : j ≠ k) : (s.modCore k f).core j = s.core j := by
  simp [State.modCore, State.core, KMap.getD_set_ne _ _ _ h]

/-- What the issuing warp sees is the warp of the state. -/
theorem State.warp_of_cx {s : State} {c : Cx} (h : s.cx = some c) : s.warp c.uid = c.w := by
  unfold State.cx at h
  split at h
  · cases h
  · split at h
    · cases h
    · rename_i hw
      split at h
      · cases h
      · cases h
        exact KMap.getD_of_get? hw
@[simp] theorem State.putOp_cur (s : State) (id : Nat) (o : Op) : (s.putOp id o).cur = s.cur := rfl
@[simp] theorem State.putOp_word (s : State) (id : Nat) (o : Op) : (s.putOp id o).word = s.word := rfl
@[simp] theorem State.putOp_bag (s : State) (id : Nat) (o : Op) : (s.putOp id o).bag = s.bag := rfl
@[simp] theorem State.putOp_inputs (s : State) (id : Nat) (o : Op) : (s.putOp id o).inputs = s.inputs := rfl
@[simp] theorem State.putOp_outbox (s : State) (id : Nat) (o : Op) : (s.putOp id o).outbox = s.outbox := rfl
@[simp] theorem State.putOp_tick (s : State) (id : Nat) (o : Op) : (s.putOp id o).tick = s.tick := rfl
@[simp] theorem State.putOp_fresh (s : State) (id : Nat) (o : Op) : (s.putOp id o).fresh = s.fresh := rfl
@[simp] theorem State.putOp_mem (s : State) (id : Nat) (o : Op) : (s.putOp id o).mem = s.mem := rfl
@[simp] theorem State.putOp_host (s : State) (id : Nat) (o : Op) : (s.putOp id o).host = s.host := rfl
@[simp] theorem State.putOp_bad (s : State) (id : Nat) (o : Op) : (s.putOp id o).bad = s.bad := rfl
@[simp] theorem State.putOp_ctxs (s : State) (id : Nat) (o : Op) : (s.putOp id o).ctxs = s.ctxs := rfl
@[simp] theorem State.putOp_grids (s : State) (id : Nat) (o : Op) : (s.putOp id o).grids = s.grids := rfl
@[simp] theorem State.putOp_teams (s : State) (id : Nat) (o : Op) : (s.putOp id o).teams = s.teams := rfl
@[simp] theorem State.putOp_warps (s : State) (id : Nat) (o : Op) : (s.putOp id o).warps = s.warps := rfl
@[simp] theorem State.putOp_members (s : State) (id : Nat) (o : Op) : (s.putOp id o).members = s.members := rfl
@[simp] theorem State.putOp_ops (s : State) (id : Nat) (o : Op) : (s.putOp id o).ops = s.ops.set id o := rfl
@[simp] theorem State.putOp_reqs (s : State) (id : Nat) (o : Op) : (s.putOp id o).reqs = s.reqs := rfl
@[simp] theorem State.putOp_chimes (s : State) (id : Nat) (o : Op) : (s.putOp id o).chimes = s.chimes := rfl
@[simp] theorem State.putOp_txs (s : State) (id : Nat) (o : Op) : (s.putOp id o).txs = s.txs := rfl
@[simp] theorem State.putOp_cores (s : State) (id : Nat) (o : Op) : (s.putOp id o).cores = s.cores := rfl
@[simp] theorem State.putOp_quads (s : State) (id : Nat) (o : Op) : (s.putOp id o).quads = s.quads := rfl
@[simp] theorem State.putOp_dies (s : State) (id : Nat) (o : Op) : (s.putOp id o).dies = s.dies := rfl
@[simp] theorem State.putOp_tiles (s : State) (id : Nat) (o : Op) : (s.putOp id o).tiles = s.tiles := rfl
@[simp] theorem State.putOp_copies (s : State) (id : Nat) (o : Op) : (s.putOp id o).copies = s.copies := rfl
@[simp] theorem State.putOp_posts (s : State) (id : Nat) (o : Op) : (s.putOp id o).posts = s.posts := rfl
@[simp] theorem State.putOp_bufs (s : State) (id : Nat) (o : Op) : (s.putOp id o).bufs = s.bufs := rfl
@[simp] theorem State.putOp_queues (s : State) (id : Nat) (o : Op) : (s.putOp id o).queues = s.queues := rfl
@[simp] theorem State.putOp_chans (s : State) (id : Nat) (o : Op) : (s.putOp id o).chans = s.chans := rfl
@[simp] theorem State.putOp_groups (s : State) (id : Nat) (o : Op) : (s.putOp id o).groups = s.groups := rfl
@[simp] theorem State.putOp_colls (s : State) (id : Nat) (o : Op) : (s.putOp id o).colls = s.colls := rfl
@[simp] theorem State.putOp_combs (s : State) (id : Nat) (o : Op) : (s.putOp id o).combs = s.combs := rfl
@[simp] theorem State.putOp_frames (s : State) (id : Nat) (o : Op) : (s.putOp id o).frames = s.frames := rfl
@[simp] theorem State.putOp_partials (s : State) (id : Nat) (o : Op) : (s.putOp id o).partials = s.partials := rfl
@[simp] theorem State.putOp_versions (s : State) (id : Nat) (o : Op) : (s.putOp id o).versions = s.versions := rfl
@[simp] theorem State.putOp_banks (s : State) (id : Nat) (o : Op) : (s.putOp id o).banks = s.banks := rfl
@[simp] theorem State.putOp_lpddr (s : State) (id : Nat) (o : Op) : (s.putOp id o).lpddr = s.lpddr := rfl
@[simp] theorem State.putOp_worlds (s : State) (id : Nat) (o : Op) : (s.putOp id o).worlds = s.worlds := rfl
@[simp] theorem State.putOp_invals (s : State) (id : Nat) (o : Op) : (s.putOp id o).invals = s.invals := rfl
@[simp] theorem State.putOp_pages (s : State) (id : Nat) (o : Op) : (s.putOp id o).pages = s.pages := rfl
@[simp] theorem State.putOp_fars (s : State) (id : Nat) (o : Op) : (s.putOp id o).fars = s.fars := rfl
@[simp] theorem State.putOp_words (s : State) (id : Nat) (o : Op) : (s.putOp id o).words = s.words := rfl
@[simp] theorem State.putOp_graves (s : State) (id : Nat) (o : Op) : (s.putOp id o).graves = s.graves := rfl
@[simp] theorem State.putOp_avtos (s : State) (id : Nat) (o : Op) : (s.putOp id o).avtos = s.avtos := rfl
@[simp] theorem State.putOp_fab (s : State) (id : Nat) (o : Op) : (s.putOp id o).fab = s.fab := rfl
@[simp] theorem State.putOp_svc (s : State) (id : Nat) (o : Op) : (s.putOp id o).svc = s.svc := rfl
@[simp] theorem State.putCopy_cur (s : State) (id : Nat) (c : Copy) : (s.putCopy id c).cur = s.cur := rfl
@[simp] theorem State.putCopy_word (s : State) (id : Nat) (c : Copy) : (s.putCopy id c).word = s.word := rfl
@[simp] theorem State.putCopy_bag (s : State) (id : Nat) (c : Copy) : (s.putCopy id c).bag = s.bag := rfl
@[simp] theorem State.putCopy_inputs (s : State) (id : Nat) (c : Copy) : (s.putCopy id c).inputs = s.inputs := rfl
@[simp] theorem State.putCopy_outbox (s : State) (id : Nat) (c : Copy) : (s.putCopy id c).outbox = s.outbox := rfl
@[simp] theorem State.putCopy_tick (s : State) (id : Nat) (c : Copy) : (s.putCopy id c).tick = s.tick := rfl
@[simp] theorem State.putCopy_fresh (s : State) (id : Nat) (c : Copy) : (s.putCopy id c).fresh = s.fresh := rfl
@[simp] theorem State.putCopy_mem (s : State) (id : Nat) (c : Copy) : (s.putCopy id c).mem = s.mem := rfl
@[simp] theorem State.putCopy_host (s : State) (id : Nat) (c : Copy) : (s.putCopy id c).host = s.host := rfl
@[simp] theorem State.putCopy_bad (s : State) (id : Nat) (c : Copy) : (s.putCopy id c).bad = s.bad := rfl
@[simp] theorem State.putCopy_ctxs (s : State) (id : Nat) (c : Copy) : (s.putCopy id c).ctxs = s.ctxs := rfl
@[simp] theorem State.putCopy_grids (s : State) (id : Nat) (c : Copy) : (s.putCopy id c).grids = s.grids := rfl
@[simp] theorem State.putCopy_teams (s : State) (id : Nat) (c : Copy) : (s.putCopy id c).teams = s.teams := rfl
@[simp] theorem State.putCopy_warps (s : State) (id : Nat) (c : Copy) : (s.putCopy id c).warps = s.warps := rfl
@[simp] theorem State.putCopy_members (s : State) (id : Nat) (c : Copy) : (s.putCopy id c).members = s.members := rfl
@[simp] theorem State.putCopy_ops (s : State) (id : Nat) (c : Copy) : (s.putCopy id c).ops = s.ops := rfl
@[simp] theorem State.putCopy_reqs (s : State) (id : Nat) (c : Copy) : (s.putCopy id c).reqs = s.reqs := rfl
@[simp] theorem State.putCopy_chimes (s : State) (id : Nat) (c : Copy) : (s.putCopy id c).chimes = s.chimes := rfl
@[simp] theorem State.putCopy_txs (s : State) (id : Nat) (c : Copy) : (s.putCopy id c).txs = s.txs := rfl
@[simp] theorem State.putCopy_cores (s : State) (id : Nat) (c : Copy) : (s.putCopy id c).cores = s.cores := rfl
@[simp] theorem State.putCopy_quads (s : State) (id : Nat) (c : Copy) : (s.putCopy id c).quads = s.quads := rfl
@[simp] theorem State.putCopy_dies (s : State) (id : Nat) (c : Copy) : (s.putCopy id c).dies = s.dies := rfl
@[simp] theorem State.putCopy_tiles (s : State) (id : Nat) (c : Copy) : (s.putCopy id c).tiles = s.tiles := rfl
@[simp] theorem State.putCopy_copies (s : State) (id : Nat) (c : Copy) : (s.putCopy id c).copies = s.copies.set id c := rfl
@[simp] theorem State.putCopy_posts (s : State) (id : Nat) (c : Copy) : (s.putCopy id c).posts = s.posts := rfl
@[simp] theorem State.putCopy_bufs (s : State) (id : Nat) (c : Copy) : (s.putCopy id c).bufs = s.bufs := rfl
@[simp] theorem State.putCopy_queues (s : State) (id : Nat) (c : Copy) : (s.putCopy id c).queues = s.queues := rfl
@[simp] theorem State.putCopy_chans (s : State) (id : Nat) (c : Copy) : (s.putCopy id c).chans = s.chans := rfl
@[simp] theorem State.putCopy_groups (s : State) (id : Nat) (c : Copy) : (s.putCopy id c).groups = s.groups := rfl
@[simp] theorem State.putCopy_colls (s : State) (id : Nat) (c : Copy) : (s.putCopy id c).colls = s.colls := rfl
@[simp] theorem State.putCopy_combs (s : State) (id : Nat) (c : Copy) : (s.putCopy id c).combs = s.combs := rfl
@[simp] theorem State.putCopy_frames (s : State) (id : Nat) (c : Copy) : (s.putCopy id c).frames = s.frames := rfl
@[simp] theorem State.putCopy_partials (s : State) (id : Nat) (c : Copy) : (s.putCopy id c).partials = s.partials := rfl
@[simp] theorem State.putCopy_versions (s : State) (id : Nat) (c : Copy) : (s.putCopy id c).versions = s.versions := rfl
@[simp] theorem State.putCopy_banks (s : State) (id : Nat) (c : Copy) : (s.putCopy id c).banks = s.banks := rfl
@[simp] theorem State.putCopy_lpddr (s : State) (id : Nat) (c : Copy) : (s.putCopy id c).lpddr = s.lpddr := rfl
@[simp] theorem State.putCopy_worlds (s : State) (id : Nat) (c : Copy) : (s.putCopy id c).worlds = s.worlds := rfl
@[simp] theorem State.putCopy_invals (s : State) (id : Nat) (c : Copy) : (s.putCopy id c).invals = s.invals := rfl
@[simp] theorem State.putCopy_pages (s : State) (id : Nat) (c : Copy) : (s.putCopy id c).pages = s.pages := rfl
@[simp] theorem State.putCopy_fars (s : State) (id : Nat) (c : Copy) : (s.putCopy id c).fars = s.fars := rfl
@[simp] theorem State.putCopy_words (s : State) (id : Nat) (c : Copy) : (s.putCopy id c).words = s.words := rfl
@[simp] theorem State.putCopy_graves (s : State) (id : Nat) (c : Copy) : (s.putCopy id c).graves = s.graves := rfl
@[simp] theorem State.putCopy_avtos (s : State) (id : Nat) (c : Copy) : (s.putCopy id c).avtos = s.avtos := rfl
@[simp] theorem State.putCopy_fab (s : State) (id : Nat) (c : Copy) : (s.putCopy id c).fab = s.fab := rfl
@[simp] theorem State.putCopy_svc (s : State) (id : Nat) (c : Copy) : (s.putCopy id c).svc = s.svc := rfl
@[simp] theorem State.putBuf_cur (s : State) (b : Nat) (x : CrBuf) : (s.putBuf b x).cur = s.cur := rfl
@[simp] theorem State.putBuf_word (s : State) (b : Nat) (x : CrBuf) : (s.putBuf b x).word = s.word := rfl
@[simp] theorem State.putBuf_bag (s : State) (b : Nat) (x : CrBuf) : (s.putBuf b x).bag = s.bag := rfl
@[simp] theorem State.putBuf_inputs (s : State) (b : Nat) (x : CrBuf) : (s.putBuf b x).inputs = s.inputs := rfl
@[simp] theorem State.putBuf_outbox (s : State) (b : Nat) (x : CrBuf) : (s.putBuf b x).outbox = s.outbox := rfl
@[simp] theorem State.putBuf_tick (s : State) (b : Nat) (x : CrBuf) : (s.putBuf b x).tick = s.tick := rfl
@[simp] theorem State.putBuf_fresh (s : State) (b : Nat) (x : CrBuf) : (s.putBuf b x).fresh = s.fresh := rfl
@[simp] theorem State.putBuf_mem (s : State) (b : Nat) (x : CrBuf) : (s.putBuf b x).mem = s.mem := rfl
@[simp] theorem State.putBuf_host (s : State) (b : Nat) (x : CrBuf) : (s.putBuf b x).host = s.host := rfl
@[simp] theorem State.putBuf_bad (s : State) (b : Nat) (x : CrBuf) : (s.putBuf b x).bad = s.bad := rfl
@[simp] theorem State.putBuf_ctxs (s : State) (b : Nat) (x : CrBuf) : (s.putBuf b x).ctxs = s.ctxs := rfl
@[simp] theorem State.putBuf_grids (s : State) (b : Nat) (x : CrBuf) : (s.putBuf b x).grids = s.grids := rfl
@[simp] theorem State.putBuf_teams (s : State) (b : Nat) (x : CrBuf) : (s.putBuf b x).teams = s.teams := rfl
@[simp] theorem State.putBuf_warps (s : State) (b : Nat) (x : CrBuf) : (s.putBuf b x).warps = s.warps := rfl
@[simp] theorem State.putBuf_members (s : State) (b : Nat) (x : CrBuf) : (s.putBuf b x).members = s.members := rfl
@[simp] theorem State.putBuf_ops (s : State) (b : Nat) (x : CrBuf) : (s.putBuf b x).ops = s.ops := rfl
@[simp] theorem State.putBuf_reqs (s : State) (b : Nat) (x : CrBuf) : (s.putBuf b x).reqs = s.reqs := rfl
@[simp] theorem State.putBuf_chimes (s : State) (b : Nat) (x : CrBuf) : (s.putBuf b x).chimes = s.chimes := rfl
@[simp] theorem State.putBuf_txs (s : State) (b : Nat) (x : CrBuf) : (s.putBuf b x).txs = s.txs := rfl
@[simp] theorem State.putBuf_cores (s : State) (b : Nat) (x : CrBuf) : (s.putBuf b x).cores = s.cores := rfl
@[simp] theorem State.putBuf_quads (s : State) (b : Nat) (x : CrBuf) : (s.putBuf b x).quads = s.quads := rfl
@[simp] theorem State.putBuf_dies (s : State) (b : Nat) (x : CrBuf) : (s.putBuf b x).dies = s.dies := rfl
@[simp] theorem State.putBuf_tiles (s : State) (b : Nat) (x : CrBuf) : (s.putBuf b x).tiles = s.tiles := rfl
@[simp] theorem State.putBuf_copies (s : State) (b : Nat) (x : CrBuf) : (s.putBuf b x).copies = s.copies := rfl
@[simp] theorem State.putBuf_posts (s : State) (b : Nat) (x : CrBuf) : (s.putBuf b x).posts = s.posts := rfl
@[simp] theorem State.putBuf_bufs (s : State) (b : Nat) (x : CrBuf) : (s.putBuf b x).bufs = s.bufs.set b x := rfl
@[simp] theorem State.putBuf_queues (s : State) (b : Nat) (x : CrBuf) : (s.putBuf b x).queues = s.queues := rfl
@[simp] theorem State.putBuf_chans (s : State) (b : Nat) (x : CrBuf) : (s.putBuf b x).chans = s.chans := rfl
@[simp] theorem State.putBuf_groups (s : State) (b : Nat) (x : CrBuf) : (s.putBuf b x).groups = s.groups := rfl
@[simp] theorem State.putBuf_colls (s : State) (b : Nat) (x : CrBuf) : (s.putBuf b x).colls = s.colls := rfl
@[simp] theorem State.putBuf_combs (s : State) (b : Nat) (x : CrBuf) : (s.putBuf b x).combs = s.combs := rfl
@[simp] theorem State.putBuf_frames (s : State) (b : Nat) (x : CrBuf) : (s.putBuf b x).frames = s.frames := rfl
@[simp] theorem State.putBuf_partials (s : State) (b : Nat) (x : CrBuf) : (s.putBuf b x).partials = s.partials := rfl
@[simp] theorem State.putBuf_versions (s : State) (b : Nat) (x : CrBuf) : (s.putBuf b x).versions = s.versions := rfl
@[simp] theorem State.putBuf_banks (s : State) (b : Nat) (x : CrBuf) : (s.putBuf b x).banks = s.banks := rfl
@[simp] theorem State.putBuf_lpddr (s : State) (b : Nat) (x : CrBuf) : (s.putBuf b x).lpddr = s.lpddr := rfl
@[simp] theorem State.putBuf_worlds (s : State) (b : Nat) (x : CrBuf) : (s.putBuf b x).worlds = s.worlds := rfl
@[simp] theorem State.putBuf_invals (s : State) (b : Nat) (x : CrBuf) : (s.putBuf b x).invals = s.invals := rfl
@[simp] theorem State.putBuf_pages (s : State) (b : Nat) (x : CrBuf) : (s.putBuf b x).pages = s.pages := rfl
@[simp] theorem State.putBuf_fars (s : State) (b : Nat) (x : CrBuf) : (s.putBuf b x).fars = s.fars := rfl
@[simp] theorem State.putBuf_words (s : State) (b : Nat) (x : CrBuf) : (s.putBuf b x).words = s.words := rfl
@[simp] theorem State.putBuf_graves (s : State) (b : Nat) (x : CrBuf) : (s.putBuf b x).graves = s.graves := rfl
@[simp] theorem State.putBuf_avtos (s : State) (b : Nat) (x : CrBuf) : (s.putBuf b x).avtos = s.avtos := rfl
@[simp] theorem State.putBuf_fab (s : State) (b : Nat) (x : CrBuf) : (s.putBuf b x).fab = s.fab := rfl
@[simp] theorem State.putBuf_svc (s : State) (b : Nat) (x : CrBuf) : (s.putBuf b x).svc = s.svc := rfl
@[simp] theorem State.putPost_cur (s : State) (id : Nat) (p : Post) : (s.putPost id p).cur = s.cur := rfl
@[simp] theorem State.putPost_word (s : State) (id : Nat) (p : Post) : (s.putPost id p).word = s.word := rfl
@[simp] theorem State.putPost_bag (s : State) (id : Nat) (p : Post) : (s.putPost id p).bag = s.bag := rfl
@[simp] theorem State.putPost_inputs (s : State) (id : Nat) (p : Post) : (s.putPost id p).inputs = s.inputs := rfl
@[simp] theorem State.putPost_outbox (s : State) (id : Nat) (p : Post) : (s.putPost id p).outbox = s.outbox := rfl
@[simp] theorem State.putPost_tick (s : State) (id : Nat) (p : Post) : (s.putPost id p).tick = s.tick := rfl
@[simp] theorem State.putPost_fresh (s : State) (id : Nat) (p : Post) : (s.putPost id p).fresh = s.fresh := rfl
@[simp] theorem State.putPost_mem (s : State) (id : Nat) (p : Post) : (s.putPost id p).mem = s.mem := rfl
@[simp] theorem State.putPost_host (s : State) (id : Nat) (p : Post) : (s.putPost id p).host = s.host := rfl
@[simp] theorem State.putPost_bad (s : State) (id : Nat) (p : Post) : (s.putPost id p).bad = s.bad := rfl
@[simp] theorem State.putPost_ctxs (s : State) (id : Nat) (p : Post) : (s.putPost id p).ctxs = s.ctxs := rfl
@[simp] theorem State.putPost_grids (s : State) (id : Nat) (p : Post) : (s.putPost id p).grids = s.grids := rfl
@[simp] theorem State.putPost_teams (s : State) (id : Nat) (p : Post) : (s.putPost id p).teams = s.teams := rfl
@[simp] theorem State.putPost_warps (s : State) (id : Nat) (p : Post) : (s.putPost id p).warps = s.warps := rfl
@[simp] theorem State.putPost_members (s : State) (id : Nat) (p : Post) : (s.putPost id p).members = s.members := rfl
@[simp] theorem State.putPost_ops (s : State) (id : Nat) (p : Post) : (s.putPost id p).ops = s.ops := rfl
@[simp] theorem State.putPost_reqs (s : State) (id : Nat) (p : Post) : (s.putPost id p).reqs = s.reqs := rfl
@[simp] theorem State.putPost_chimes (s : State) (id : Nat) (p : Post) : (s.putPost id p).chimes = s.chimes := rfl
@[simp] theorem State.putPost_txs (s : State) (id : Nat) (p : Post) : (s.putPost id p).txs = s.txs := rfl
@[simp] theorem State.putPost_cores (s : State) (id : Nat) (p : Post) : (s.putPost id p).cores = s.cores := rfl
@[simp] theorem State.putPost_quads (s : State) (id : Nat) (p : Post) : (s.putPost id p).quads = s.quads := rfl
@[simp] theorem State.putPost_dies (s : State) (id : Nat) (p : Post) : (s.putPost id p).dies = s.dies := rfl
@[simp] theorem State.putPost_tiles (s : State) (id : Nat) (p : Post) : (s.putPost id p).tiles = s.tiles := rfl
@[simp] theorem State.putPost_copies (s : State) (id : Nat) (p : Post) : (s.putPost id p).copies = s.copies := rfl
@[simp] theorem State.putPost_posts (s : State) (id : Nat) (p : Post) : (s.putPost id p).posts = s.posts.set id p := rfl
@[simp] theorem State.putPost_bufs (s : State) (id : Nat) (p : Post) : (s.putPost id p).bufs = s.bufs := rfl
@[simp] theorem State.putPost_queues (s : State) (id : Nat) (p : Post) : (s.putPost id p).queues = s.queues := rfl
@[simp] theorem State.putPost_chans (s : State) (id : Nat) (p : Post) : (s.putPost id p).chans = s.chans := rfl
@[simp] theorem State.putPost_groups (s : State) (id : Nat) (p : Post) : (s.putPost id p).groups = s.groups := rfl
@[simp] theorem State.putPost_colls (s : State) (id : Nat) (p : Post) : (s.putPost id p).colls = s.colls := rfl
@[simp] theorem State.putPost_combs (s : State) (id : Nat) (p : Post) : (s.putPost id p).combs = s.combs := rfl
@[simp] theorem State.putPost_frames (s : State) (id : Nat) (p : Post) : (s.putPost id p).frames = s.frames := rfl
@[simp] theorem State.putPost_partials (s : State) (id : Nat) (p : Post) : (s.putPost id p).partials = s.partials := rfl
@[simp] theorem State.putPost_versions (s : State) (id : Nat) (p : Post) : (s.putPost id p).versions = s.versions := rfl
@[simp] theorem State.putPost_banks (s : State) (id : Nat) (p : Post) : (s.putPost id p).banks = s.banks := rfl
@[simp] theorem State.putPost_lpddr (s : State) (id : Nat) (p : Post) : (s.putPost id p).lpddr = s.lpddr := rfl
@[simp] theorem State.putPost_worlds (s : State) (id : Nat) (p : Post) : (s.putPost id p).worlds = s.worlds := rfl
@[simp] theorem State.putPost_invals (s : State) (id : Nat) (p : Post) : (s.putPost id p).invals = s.invals := rfl
@[simp] theorem State.putPost_pages (s : State) (id : Nat) (p : Post) : (s.putPost id p).pages = s.pages := rfl
@[simp] theorem State.putPost_fars (s : State) (id : Nat) (p : Post) : (s.putPost id p).fars = s.fars := rfl
@[simp] theorem State.putPost_words (s : State) (id : Nat) (p : Post) : (s.putPost id p).words = s.words := rfl
@[simp] theorem State.putPost_graves (s : State) (id : Nat) (p : Post) : (s.putPost id p).graves = s.graves := rfl
@[simp] theorem State.putPost_avtos (s : State) (id : Nat) (p : Post) : (s.putPost id p).avtos = s.avtos := rfl
@[simp] theorem State.putPost_fab (s : State) (id : Nat) (p : Post) : (s.putPost id p).fab = s.fab := rfl
@[simp] theorem State.putPost_svc (s : State) (id : Nat) (p : Post) : (s.putPost id p).svc = s.svc := rfl
@[simp] theorem State.withTx_cur (s : State) (id : Nat) (t : PortTx) : (s.withTx id t).cur = s.cur := rfl
@[simp] theorem State.withTx_word (s : State) (id : Nat) (t : PortTx) : (s.withTx id t).word = s.word := rfl
@[simp] theorem State.withTx_bag (s : State) (id : Nat) (t : PortTx) : (s.withTx id t).bag = s.bag := rfl
@[simp] theorem State.withTx_inputs (s : State) (id : Nat) (t : PortTx) : (s.withTx id t).inputs = s.inputs := rfl
@[simp] theorem State.withTx_outbox (s : State) (id : Nat) (t : PortTx) : (s.withTx id t).outbox = s.outbox := rfl
@[simp] theorem State.withTx_tick (s : State) (id : Nat) (t : PortTx) : (s.withTx id t).tick = s.tick := rfl
@[simp] theorem State.withTx_fresh (s : State) (id : Nat) (t : PortTx) : (s.withTx id t).fresh = s.fresh := rfl
@[simp] theorem State.withTx_mem (s : State) (id : Nat) (t : PortTx) : (s.withTx id t).mem = s.mem := rfl
@[simp] theorem State.withTx_host (s : State) (id : Nat) (t : PortTx) : (s.withTx id t).host = s.host := rfl
@[simp] theorem State.withTx_bad (s : State) (id : Nat) (t : PortTx) : (s.withTx id t).bad = s.bad := rfl
@[simp] theorem State.withTx_ctxs (s : State) (id : Nat) (t : PortTx) : (s.withTx id t).ctxs = s.ctxs := rfl
@[simp] theorem State.withTx_grids (s : State) (id : Nat) (t : PortTx) : (s.withTx id t).grids = s.grids := rfl
@[simp] theorem State.withTx_teams (s : State) (id : Nat) (t : PortTx) : (s.withTx id t).teams = s.teams := rfl
@[simp] theorem State.withTx_warps (s : State) (id : Nat) (t : PortTx) : (s.withTx id t).warps = s.warps := rfl
@[simp] theorem State.withTx_members (s : State) (id : Nat) (t : PortTx) : (s.withTx id t).members = s.members := rfl
@[simp] theorem State.withTx_ops (s : State) (id : Nat) (t : PortTx) : (s.withTx id t).ops = s.ops := rfl
@[simp] theorem State.withTx_reqs (s : State) (id : Nat) (t : PortTx) : (s.withTx id t).reqs = s.reqs := rfl
@[simp] theorem State.withTx_chimes (s : State) (id : Nat) (t : PortTx) : (s.withTx id t).chimes = s.chimes := rfl
@[simp] theorem State.withTx_txs (s : State) (id : Nat) (t : PortTx) : (s.withTx id t).txs = s.txs.set id t := rfl
@[simp] theorem State.withTx_cores (s : State) (id : Nat) (t : PortTx) : (s.withTx id t).cores = s.cores := rfl
@[simp] theorem State.withTx_quads (s : State) (id : Nat) (t : PortTx) : (s.withTx id t).quads = s.quads := rfl
@[simp] theorem State.withTx_dies (s : State) (id : Nat) (t : PortTx) : (s.withTx id t).dies = s.dies := rfl
@[simp] theorem State.withTx_tiles (s : State) (id : Nat) (t : PortTx) : (s.withTx id t).tiles = s.tiles := rfl
@[simp] theorem State.withTx_copies (s : State) (id : Nat) (t : PortTx) : (s.withTx id t).copies = s.copies := rfl
@[simp] theorem State.withTx_posts (s : State) (id : Nat) (t : PortTx) : (s.withTx id t).posts = s.posts := rfl
@[simp] theorem State.withTx_bufs (s : State) (id : Nat) (t : PortTx) : (s.withTx id t).bufs = s.bufs := rfl
@[simp] theorem State.withTx_queues (s : State) (id : Nat) (t : PortTx) : (s.withTx id t).queues = s.queues := rfl
@[simp] theorem State.withTx_chans (s : State) (id : Nat) (t : PortTx) : (s.withTx id t).chans = s.chans := rfl
@[simp] theorem State.withTx_groups (s : State) (id : Nat) (t : PortTx) : (s.withTx id t).groups = s.groups := rfl
@[simp] theorem State.withTx_colls (s : State) (id : Nat) (t : PortTx) : (s.withTx id t).colls = s.colls := rfl
@[simp] theorem State.withTx_combs (s : State) (id : Nat) (t : PortTx) : (s.withTx id t).combs = s.combs := rfl
@[simp] theorem State.withTx_frames (s : State) (id : Nat) (t : PortTx) : (s.withTx id t).frames = s.frames := rfl
@[simp] theorem State.withTx_partials (s : State) (id : Nat) (t : PortTx) : (s.withTx id t).partials = s.partials := rfl
@[simp] theorem State.withTx_versions (s : State) (id : Nat) (t : PortTx) : (s.withTx id t).versions = s.versions := rfl
@[simp] theorem State.withTx_banks (s : State) (id : Nat) (t : PortTx) : (s.withTx id t).banks = s.banks := rfl
@[simp] theorem State.withTx_lpddr (s : State) (id : Nat) (t : PortTx) : (s.withTx id t).lpddr = s.lpddr := rfl
@[simp] theorem State.withTx_worlds (s : State) (id : Nat) (t : PortTx) : (s.withTx id t).worlds = s.worlds := rfl
@[simp] theorem State.withTx_invals (s : State) (id : Nat) (t : PortTx) : (s.withTx id t).invals = s.invals := rfl
@[simp] theorem State.withTx_pages (s : State) (id : Nat) (t : PortTx) : (s.withTx id t).pages = s.pages := rfl
@[simp] theorem State.withTx_fars (s : State) (id : Nat) (t : PortTx) : (s.withTx id t).fars = s.fars := rfl
@[simp] theorem State.withTx_words (s : State) (id : Nat) (t : PortTx) : (s.withTx id t).words = s.words := rfl
@[simp] theorem State.withTx_graves (s : State) (id : Nat) (t : PortTx) : (s.withTx id t).graves = s.graves := rfl
@[simp] theorem State.withTx_avtos (s : State) (id : Nat) (t : PortTx) : (s.withTx id t).avtos = s.avtos := rfl
@[simp] theorem State.withTx_fab (s : State) (id : Nat) (t : PortTx) : (s.withTx id t).fab = s.fab := rfl
@[simp] theorem State.withTx_svc (s : State) (id : Nat) (t : PortTx) : (s.withTx id t).svc = s.svc := rfl
@[simp] theorem State.putChan_cur (s : State) (ch : Nat) (c : Chan) : (s.putChan ch c).cur = s.cur := rfl
@[simp] theorem State.putChan_word (s : State) (ch : Nat) (c : Chan) : (s.putChan ch c).word = s.word := rfl
@[simp] theorem State.putChan_bag (s : State) (ch : Nat) (c : Chan) : (s.putChan ch c).bag = s.bag := rfl
@[simp] theorem State.putChan_inputs (s : State) (ch : Nat) (c : Chan) : (s.putChan ch c).inputs = s.inputs := rfl
@[simp] theorem State.putChan_outbox (s : State) (ch : Nat) (c : Chan) : (s.putChan ch c).outbox = s.outbox := rfl
@[simp] theorem State.putChan_tick (s : State) (ch : Nat) (c : Chan) : (s.putChan ch c).tick = s.tick := rfl
@[simp] theorem State.putChan_fresh (s : State) (ch : Nat) (c : Chan) : (s.putChan ch c).fresh = s.fresh := rfl
@[simp] theorem State.putChan_mem (s : State) (ch : Nat) (c : Chan) : (s.putChan ch c).mem = s.mem := rfl
@[simp] theorem State.putChan_host (s : State) (ch : Nat) (c : Chan) : (s.putChan ch c).host = s.host := rfl
@[simp] theorem State.putChan_bad (s : State) (ch : Nat) (c : Chan) : (s.putChan ch c).bad = s.bad := rfl
@[simp] theorem State.putChan_ctxs (s : State) (ch : Nat) (c : Chan) : (s.putChan ch c).ctxs = s.ctxs := rfl
@[simp] theorem State.putChan_grids (s : State) (ch : Nat) (c : Chan) : (s.putChan ch c).grids = s.grids := rfl
@[simp] theorem State.putChan_teams (s : State) (ch : Nat) (c : Chan) : (s.putChan ch c).teams = s.teams := rfl
@[simp] theorem State.putChan_warps (s : State) (ch : Nat) (c : Chan) : (s.putChan ch c).warps = s.warps := rfl
@[simp] theorem State.putChan_members (s : State) (ch : Nat) (c : Chan) : (s.putChan ch c).members = s.members := rfl
@[simp] theorem State.putChan_ops (s : State) (ch : Nat) (c : Chan) : (s.putChan ch c).ops = s.ops := rfl
@[simp] theorem State.putChan_reqs (s : State) (ch : Nat) (c : Chan) : (s.putChan ch c).reqs = s.reqs := rfl
@[simp] theorem State.putChan_chimes (s : State) (ch : Nat) (c : Chan) : (s.putChan ch c).chimes = s.chimes := rfl
@[simp] theorem State.putChan_txs (s : State) (ch : Nat) (c : Chan) : (s.putChan ch c).txs = s.txs := rfl
@[simp] theorem State.putChan_cores (s : State) (ch : Nat) (c : Chan) : (s.putChan ch c).cores = s.cores := rfl
@[simp] theorem State.putChan_quads (s : State) (ch : Nat) (c : Chan) : (s.putChan ch c).quads = s.quads := rfl
@[simp] theorem State.putChan_dies (s : State) (ch : Nat) (c : Chan) : (s.putChan ch c).dies = s.dies := rfl
@[simp] theorem State.putChan_tiles (s : State) (ch : Nat) (c : Chan) : (s.putChan ch c).tiles = s.tiles := rfl
@[simp] theorem State.putChan_copies (s : State) (ch : Nat) (c : Chan) : (s.putChan ch c).copies = s.copies := rfl
@[simp] theorem State.putChan_posts (s : State) (ch : Nat) (c : Chan) : (s.putChan ch c).posts = s.posts := rfl
@[simp] theorem State.putChan_bufs (s : State) (ch : Nat) (c : Chan) : (s.putChan ch c).bufs = s.bufs := rfl
@[simp] theorem State.putChan_queues (s : State) (ch : Nat) (c : Chan) : (s.putChan ch c).queues = s.queues := rfl
@[simp] theorem State.putChan_chans (s : State) (ch : Nat) (c : Chan) : (s.putChan ch c).chans = s.chans.set ch c := rfl
@[simp] theorem State.putChan_groups (s : State) (ch : Nat) (c : Chan) : (s.putChan ch c).groups = s.groups := rfl
@[simp] theorem State.putChan_colls (s : State) (ch : Nat) (c : Chan) : (s.putChan ch c).colls = s.colls := rfl
@[simp] theorem State.putChan_combs (s : State) (ch : Nat) (c : Chan) : (s.putChan ch c).combs = s.combs := rfl
@[simp] theorem State.putChan_frames (s : State) (ch : Nat) (c : Chan) : (s.putChan ch c).frames = s.frames := rfl
@[simp] theorem State.putChan_partials (s : State) (ch : Nat) (c : Chan) : (s.putChan ch c).partials = s.partials := rfl
@[simp] theorem State.putChan_versions (s : State) (ch : Nat) (c : Chan) : (s.putChan ch c).versions = s.versions := rfl
@[simp] theorem State.putChan_banks (s : State) (ch : Nat) (c : Chan) : (s.putChan ch c).banks = s.banks := rfl
@[simp] theorem State.putChan_lpddr (s : State) (ch : Nat) (c : Chan) : (s.putChan ch c).lpddr = s.lpddr := rfl
@[simp] theorem State.putChan_worlds (s : State) (ch : Nat) (c : Chan) : (s.putChan ch c).worlds = s.worlds := rfl
@[simp] theorem State.putChan_invals (s : State) (ch : Nat) (c : Chan) : (s.putChan ch c).invals = s.invals := rfl
@[simp] theorem State.putChan_pages (s : State) (ch : Nat) (c : Chan) : (s.putChan ch c).pages = s.pages := rfl
@[simp] theorem State.putChan_fars (s : State) (ch : Nat) (c : Chan) : (s.putChan ch c).fars = s.fars := rfl
@[simp] theorem State.putChan_words (s : State) (ch : Nat) (c : Chan) : (s.putChan ch c).words = s.words := rfl
@[simp] theorem State.putChan_graves (s : State) (ch : Nat) (c : Chan) : (s.putChan ch c).graves = s.graves := rfl
@[simp] theorem State.putChan_avtos (s : State) (ch : Nat) (c : Chan) : (s.putChan ch c).avtos = s.avtos := rfl
@[simp] theorem State.putChan_fab (s : State) (ch : Nat) (c : Chan) : (s.putChan ch c).fab = s.fab := rfl
@[simp] theorem State.putChan_svc (s : State) (ch : Nat) (c : Chan) : (s.putChan ch c).svc = s.svc := rfl
@[simp] theorem State.modQueue_cur (s : State) (q : Nat) (f : Queue → Queue) : (s.modQueue q f).cur = s.cur := rfl
@[simp] theorem State.modQueue_word (s : State) (q : Nat) (f : Queue → Queue) : (s.modQueue q f).word = s.word := rfl
@[simp] theorem State.modQueue_bag (s : State) (q : Nat) (f : Queue → Queue) : (s.modQueue q f).bag = s.bag := rfl
@[simp] theorem State.modQueue_inputs (s : State) (q : Nat) (f : Queue → Queue) : (s.modQueue q f).inputs = s.inputs := rfl
@[simp] theorem State.modQueue_outbox (s : State) (q : Nat) (f : Queue → Queue) : (s.modQueue q f).outbox = s.outbox := rfl
@[simp] theorem State.modQueue_tick (s : State) (q : Nat) (f : Queue → Queue) : (s.modQueue q f).tick = s.tick := rfl
@[simp] theorem State.modQueue_fresh (s : State) (q : Nat) (f : Queue → Queue) : (s.modQueue q f).fresh = s.fresh := rfl
@[simp] theorem State.modQueue_mem (s : State) (q : Nat) (f : Queue → Queue) : (s.modQueue q f).mem = s.mem := rfl
@[simp] theorem State.modQueue_host (s : State) (q : Nat) (f : Queue → Queue) : (s.modQueue q f).host = s.host := rfl
@[simp] theorem State.modQueue_bad (s : State) (q : Nat) (f : Queue → Queue) : (s.modQueue q f).bad = s.bad := rfl
@[simp] theorem State.modQueue_ctxs (s : State) (q : Nat) (f : Queue → Queue) : (s.modQueue q f).ctxs = s.ctxs := rfl
@[simp] theorem State.modQueue_grids (s : State) (q : Nat) (f : Queue → Queue) : (s.modQueue q f).grids = s.grids := rfl
@[simp] theorem State.modQueue_teams (s : State) (q : Nat) (f : Queue → Queue) : (s.modQueue q f).teams = s.teams := rfl
@[simp] theorem State.modQueue_warps (s : State) (q : Nat) (f : Queue → Queue) : (s.modQueue q f).warps = s.warps := rfl
@[simp] theorem State.modQueue_members (s : State) (q : Nat) (f : Queue → Queue) : (s.modQueue q f).members = s.members := rfl
@[simp] theorem State.modQueue_ops (s : State) (q : Nat) (f : Queue → Queue) : (s.modQueue q f).ops = s.ops := rfl
@[simp] theorem State.modQueue_reqs (s : State) (q : Nat) (f : Queue → Queue) : (s.modQueue q f).reqs = s.reqs := rfl
@[simp] theorem State.modQueue_chimes (s : State) (q : Nat) (f : Queue → Queue) : (s.modQueue q f).chimes = s.chimes := rfl
@[simp] theorem State.modQueue_txs (s : State) (q : Nat) (f : Queue → Queue) : (s.modQueue q f).txs = s.txs := rfl
@[simp] theorem State.modQueue_cores (s : State) (q : Nat) (f : Queue → Queue) : (s.modQueue q f).cores = s.cores := rfl
@[simp] theorem State.modQueue_quads (s : State) (q : Nat) (f : Queue → Queue) : (s.modQueue q f).quads = s.quads := rfl
@[simp] theorem State.modQueue_dies (s : State) (q : Nat) (f : Queue → Queue) : (s.modQueue q f).dies = s.dies := rfl
@[simp] theorem State.modQueue_tiles (s : State) (q : Nat) (f : Queue → Queue) : (s.modQueue q f).tiles = s.tiles := rfl
@[simp] theorem State.modQueue_copies (s : State) (q : Nat) (f : Queue → Queue) : (s.modQueue q f).copies = s.copies := rfl
@[simp] theorem State.modQueue_posts (s : State) (q : Nat) (f : Queue → Queue) : (s.modQueue q f).posts = s.posts := rfl
@[simp] theorem State.modQueue_bufs (s : State) (q : Nat) (f : Queue → Queue) : (s.modQueue q f).bufs = s.bufs := rfl
@[simp] theorem State.modQueue_chans (s : State) (q : Nat) (f : Queue → Queue) : (s.modQueue q f).chans = s.chans := rfl
@[simp] theorem State.modQueue_groups (s : State) (q : Nat) (f : Queue → Queue) : (s.modQueue q f).groups = s.groups := rfl
@[simp] theorem State.modQueue_colls (s : State) (q : Nat) (f : Queue → Queue) : (s.modQueue q f).colls = s.colls := rfl
@[simp] theorem State.modQueue_combs (s : State) (q : Nat) (f : Queue → Queue) : (s.modQueue q f).combs = s.combs := rfl
@[simp] theorem State.modQueue_frames (s : State) (q : Nat) (f : Queue → Queue) : (s.modQueue q f).frames = s.frames := rfl
@[simp] theorem State.modQueue_partials (s : State) (q : Nat) (f : Queue → Queue) : (s.modQueue q f).partials = s.partials := rfl
@[simp] theorem State.modQueue_versions (s : State) (q : Nat) (f : Queue → Queue) : (s.modQueue q f).versions = s.versions := rfl
@[simp] theorem State.modQueue_banks (s : State) (q : Nat) (f : Queue → Queue) : (s.modQueue q f).banks = s.banks := rfl
@[simp] theorem State.modQueue_lpddr (s : State) (q : Nat) (f : Queue → Queue) : (s.modQueue q f).lpddr = s.lpddr := rfl
@[simp] theorem State.modQueue_worlds (s : State) (q : Nat) (f : Queue → Queue) : (s.modQueue q f).worlds = s.worlds := rfl
@[simp] theorem State.modQueue_invals (s : State) (q : Nat) (f : Queue → Queue) : (s.modQueue q f).invals = s.invals := rfl
@[simp] theorem State.modQueue_pages (s : State) (q : Nat) (f : Queue → Queue) : (s.modQueue q f).pages = s.pages := rfl
@[simp] theorem State.modQueue_fars (s : State) (q : Nat) (f : Queue → Queue) : (s.modQueue q f).fars = s.fars := rfl
@[simp] theorem State.modQueue_words (s : State) (q : Nat) (f : Queue → Queue) : (s.modQueue q f).words = s.words := rfl
@[simp] theorem State.modQueue_graves (s : State) (q : Nat) (f : Queue → Queue) : (s.modQueue q f).graves = s.graves := rfl
@[simp] theorem State.modQueue_avtos (s : State) (q : Nat) (f : Queue → Queue) : (s.modQueue q f).avtos = s.avtos := rfl
@[simp] theorem State.modQueue_fab (s : State) (q : Nat) (f : Queue → Queue) : (s.modQueue q f).fab = s.fab := rfl
@[simp] theorem State.modQueue_svc (s : State) (q : Nat) (f : Queue → Queue) : (s.modQueue q f).svc = s.svc := rfl
@[simp] theorem State.hostWr_cur (s : State) (a : Nat) (l : List Byte) : (s.hostWr a l).cur = s.cur := rfl
@[simp] theorem State.hostWr_word (s : State) (a : Nat) (l : List Byte) : (s.hostWr a l).word = s.word := rfl
@[simp] theorem State.hostWr_bag (s : State) (a : Nat) (l : List Byte) : (s.hostWr a l).bag = s.bag := rfl
@[simp] theorem State.hostWr_inputs (s : State) (a : Nat) (l : List Byte) : (s.hostWr a l).inputs = s.inputs := rfl
@[simp] theorem State.hostWr_outbox (s : State) (a : Nat) (l : List Byte) : (s.hostWr a l).outbox = s.outbox := rfl
@[simp] theorem State.hostWr_tick (s : State) (a : Nat) (l : List Byte) : (s.hostWr a l).tick = s.tick := rfl
@[simp] theorem State.hostWr_fresh (s : State) (a : Nat) (l : List Byte) : (s.hostWr a l).fresh = s.fresh := rfl
@[simp] theorem State.hostWr_mem (s : State) (a : Nat) (l : List Byte) : (s.hostWr a l).mem = s.mem := rfl
@[simp] theorem State.hostWr_host (s : State) (a : Nat) (l : List Byte) : (s.hostWr a l).host = Memory.writeN s.host a l := rfl
@[simp] theorem State.hostWr_bad (s : State) (a : Nat) (l : List Byte) : (s.hostWr a l).bad = s.bad := rfl
@[simp] theorem State.hostWr_ctxs (s : State) (a : Nat) (l : List Byte) : (s.hostWr a l).ctxs = s.ctxs := rfl
@[simp] theorem State.hostWr_grids (s : State) (a : Nat) (l : List Byte) : (s.hostWr a l).grids = s.grids := rfl
@[simp] theorem State.hostWr_teams (s : State) (a : Nat) (l : List Byte) : (s.hostWr a l).teams = s.teams := rfl
@[simp] theorem State.hostWr_warps (s : State) (a : Nat) (l : List Byte) : (s.hostWr a l).warps = s.warps := rfl
@[simp] theorem State.hostWr_members (s : State) (a : Nat) (l : List Byte) : (s.hostWr a l).members = s.members := rfl
@[simp] theorem State.hostWr_ops (s : State) (a : Nat) (l : List Byte) : (s.hostWr a l).ops = s.ops := rfl
@[simp] theorem State.hostWr_reqs (s : State) (a : Nat) (l : List Byte) : (s.hostWr a l).reqs = s.reqs := rfl
@[simp] theorem State.hostWr_chimes (s : State) (a : Nat) (l : List Byte) : (s.hostWr a l).chimes = s.chimes := rfl
@[simp] theorem State.hostWr_txs (s : State) (a : Nat) (l : List Byte) : (s.hostWr a l).txs = s.txs := rfl
@[simp] theorem State.hostWr_cores (s : State) (a : Nat) (l : List Byte) : (s.hostWr a l).cores = s.cores := rfl
@[simp] theorem State.hostWr_quads (s : State) (a : Nat) (l : List Byte) : (s.hostWr a l).quads = s.quads := rfl
@[simp] theorem State.hostWr_dies (s : State) (a : Nat) (l : List Byte) : (s.hostWr a l).dies = s.dies := rfl
@[simp] theorem State.hostWr_tiles (s : State) (a : Nat) (l : List Byte) : (s.hostWr a l).tiles = s.tiles := rfl
@[simp] theorem State.hostWr_copies (s : State) (a : Nat) (l : List Byte) : (s.hostWr a l).copies = s.copies := rfl
@[simp] theorem State.hostWr_posts (s : State) (a : Nat) (l : List Byte) : (s.hostWr a l).posts = s.posts := rfl
@[simp] theorem State.hostWr_bufs (s : State) (a : Nat) (l : List Byte) : (s.hostWr a l).bufs = s.bufs := rfl
@[simp] theorem State.hostWr_queues (s : State) (a : Nat) (l : List Byte) : (s.hostWr a l).queues = s.queues := rfl
@[simp] theorem State.hostWr_chans (s : State) (a : Nat) (l : List Byte) : (s.hostWr a l).chans = s.chans := rfl
@[simp] theorem State.hostWr_groups (s : State) (a : Nat) (l : List Byte) : (s.hostWr a l).groups = s.groups := rfl
@[simp] theorem State.hostWr_colls (s : State) (a : Nat) (l : List Byte) : (s.hostWr a l).colls = s.colls := rfl
@[simp] theorem State.hostWr_combs (s : State) (a : Nat) (l : List Byte) : (s.hostWr a l).combs = s.combs := rfl
@[simp] theorem State.hostWr_frames (s : State) (a : Nat) (l : List Byte) : (s.hostWr a l).frames = s.frames := rfl
@[simp] theorem State.hostWr_partials (s : State) (a : Nat) (l : List Byte) : (s.hostWr a l).partials = s.partials := rfl
@[simp] theorem State.hostWr_versions (s : State) (a : Nat) (l : List Byte) : (s.hostWr a l).versions = s.versions := rfl
@[simp] theorem State.hostWr_banks (s : State) (a : Nat) (l : List Byte) : (s.hostWr a l).banks = s.banks := rfl
@[simp] theorem State.hostWr_lpddr (s : State) (a : Nat) (l : List Byte) : (s.hostWr a l).lpddr = s.lpddr := rfl
@[simp] theorem State.hostWr_worlds (s : State) (a : Nat) (l : List Byte) : (s.hostWr a l).worlds = s.worlds := rfl
@[simp] theorem State.hostWr_invals (s : State) (a : Nat) (l : List Byte) : (s.hostWr a l).invals = s.invals := rfl
@[simp] theorem State.hostWr_pages (s : State) (a : Nat) (l : List Byte) : (s.hostWr a l).pages = s.pages := rfl
@[simp] theorem State.hostWr_fars (s : State) (a : Nat) (l : List Byte) : (s.hostWr a l).fars = s.fars := rfl
@[simp] theorem State.hostWr_words (s : State) (a : Nat) (l : List Byte) : (s.hostWr a l).words = s.words := rfl
@[simp] theorem State.hostWr_graves (s : State) (a : Nat) (l : List Byte) : (s.hostWr a l).graves = s.graves := rfl
@[simp] theorem State.hostWr_avtos (s : State) (a : Nat) (l : List Byte) : (s.hostWr a l).avtos = s.avtos := rfl
@[simp] theorem State.hostWr_fab (s : State) (a : Nat) (l : List Byte) : (s.hostWr a l).fab = s.fab := rfl
@[simp] theorem State.hostWr_svc (s : State) (a : Nat) (l : List Byte) : (s.hostWr a l).svc = s.svc := rfl
@[simp] theorem State.modQueue_queues (s : State) (q : Nat) (f : Queue → Queue) :
    (s.modQueue q f).queues = s.queues.set q (f (s.queue q)) := rfl
@[simp] theorem State.ticked_cur (s : State) : s.ticked.cur = s.cur := rfl
@[simp] theorem State.ticked_word (s : State) : s.ticked.word = s.word := rfl
@[simp] theorem State.ticked_bag (s : State) : s.ticked.bag = s.bag := rfl
@[simp] theorem State.ticked_inputs (s : State) : s.ticked.inputs = s.inputs := rfl
@[simp] theorem State.ticked_outbox (s : State) : s.ticked.outbox = s.outbox := rfl
@[simp] theorem State.ticked_tick (s : State) : s.ticked.tick = s.tick + 1 := rfl
@[simp] theorem State.ticked_fresh (s : State) : s.ticked.fresh = s.fresh := rfl
@[simp] theorem State.ticked_mem (s : State) : s.ticked.mem = s.mem := rfl
@[simp] theorem State.ticked_host (s : State) : s.ticked.host = s.host := rfl
@[simp] theorem State.ticked_bad (s : State) : s.ticked.bad = s.bad := rfl
@[simp] theorem State.ticked_ctxs (s : State) : s.ticked.ctxs = s.ctxs := rfl
@[simp] theorem State.ticked_grids (s : State) : s.ticked.grids = s.grids := rfl
@[simp] theorem State.ticked_teams (s : State) : s.ticked.teams = s.teams := rfl
@[simp] theorem State.ticked_warps (s : State) : s.ticked.warps = s.warps := rfl
@[simp] theorem State.ticked_members (s : State) : s.ticked.members = s.members := rfl
@[simp] theorem State.ticked_ops (s : State) : s.ticked.ops = s.ops := rfl
@[simp] theorem State.ticked_reqs (s : State) : s.ticked.reqs = s.reqs := rfl
@[simp] theorem State.ticked_chimes (s : State) : s.ticked.chimes = s.chimes := rfl
@[simp] theorem State.ticked_txs (s : State) : s.ticked.txs = s.txs := rfl
@[simp] theorem State.ticked_cores (s : State) : s.ticked.cores = s.cores := rfl
@[simp] theorem State.ticked_quads (s : State) : s.ticked.quads = s.quads := rfl
@[simp] theorem State.ticked_dies (s : State) : s.ticked.dies = s.dies := rfl
@[simp] theorem State.ticked_tiles (s : State) : s.ticked.tiles = s.tiles := rfl
@[simp] theorem State.ticked_copies (s : State) : s.ticked.copies = s.copies := rfl
@[simp] theorem State.ticked_posts (s : State) : s.ticked.posts = s.posts := rfl
@[simp] theorem State.ticked_bufs (s : State) : s.ticked.bufs = s.bufs := rfl
@[simp] theorem State.ticked_queues (s : State) : s.ticked.queues = s.queues := rfl
@[simp] theorem State.ticked_chans (s : State) : s.ticked.chans = s.chans := rfl
@[simp] theorem State.ticked_groups (s : State) : s.ticked.groups = s.groups := rfl
@[simp] theorem State.ticked_colls (s : State) : s.ticked.colls = s.colls := rfl
@[simp] theorem State.ticked_combs (s : State) : s.ticked.combs = s.combs := rfl
@[simp] theorem State.ticked_frames (s : State) : s.ticked.frames = s.frames := rfl
@[simp] theorem State.ticked_partials (s : State) : s.ticked.partials = s.partials := rfl
@[simp] theorem State.ticked_versions (s : State) : s.ticked.versions = s.versions := rfl
@[simp] theorem State.ticked_banks (s : State) : s.ticked.banks = s.banks := rfl
@[simp] theorem State.ticked_lpddr (s : State) : s.ticked.lpddr = s.lpddr := rfl
@[simp] theorem State.ticked_worlds (s : State) : s.ticked.worlds = s.worlds := rfl
@[simp] theorem State.ticked_invals (s : State) : s.ticked.invals = s.invals := rfl
@[simp] theorem State.ticked_pages (s : State) : s.ticked.pages = s.pages := rfl
@[simp] theorem State.ticked_fars (s : State) : s.ticked.fars = s.fars := rfl
@[simp] theorem State.ticked_words (s : State) : s.ticked.words = s.words := rfl
@[simp] theorem State.ticked_graves (s : State) : s.ticked.graves = s.graves := rfl
@[simp] theorem State.ticked_avtos (s : State) : s.ticked.avtos = s.avtos := rfl
@[simp] theorem State.ticked_fab (s : State) : s.ticked.fab = s.fab := rfl
@[simp] theorem State.ticked_svc (s : State) : s.ticked.svc = s.svc := rfl

@[simp] theorem State.sampling_cur (s : State) (u : Nat) (k : Sample) : (s.sampling u k).cur = s.cur := rfl
@[simp] theorem State.sampling_word (s : State) (u : Nat) (k : Sample) : (s.sampling u k).word = s.word := rfl
@[simp] theorem State.sampling_bag (s : State) (u : Nat) (k : Sample) : (s.sampling u k).bag = s.bag := rfl
@[simp] theorem State.sampling_inputs (s : State) (u : Nat) (k : Sample) : (s.sampling u k).inputs = s.inputs := rfl
@[simp] theorem State.sampling_outbox (s : State) (u : Nat) (k : Sample) : (s.sampling u k).outbox = s.outbox := rfl
@[simp] theorem State.sampling_tick (s : State) (u : Nat) (k : Sample) : (s.sampling u k).tick = s.tick := rfl
@[simp] theorem State.sampling_fresh (s : State) (u : Nat) (k : Sample) : (s.sampling u k).fresh = s.fresh := rfl
@[simp] theorem State.sampling_mem (s : State) (u : Nat) (k : Sample) : (s.sampling u k).mem = s.mem := rfl
@[simp] theorem State.sampling_host (s : State) (u : Nat) (k : Sample) : (s.sampling u k).host = s.host := rfl
@[simp] theorem State.sampling_bad (s : State) (u : Nat) (k : Sample) : (s.sampling u k).bad = s.bad := rfl
@[simp] theorem State.sampling_ctxs (s : State) (u : Nat) (k : Sample) : (s.sampling u k).ctxs = s.ctxs := rfl
@[simp] theorem State.sampling_grids (s : State) (u : Nat) (k : Sample) : (s.sampling u k).grids = s.grids := rfl
@[simp] theorem State.sampling_teams (s : State) (u : Nat) (k : Sample) : (s.sampling u k).teams = s.teams := rfl
@[simp] theorem State.sampling_members (s : State) (u : Nat) (k : Sample) : (s.sampling u k).members = s.members := rfl
@[simp] theorem State.sampling_ops (s : State) (u : Nat) (k : Sample) : (s.sampling u k).ops = s.ops := rfl
@[simp] theorem State.sampling_reqs (s : State) (u : Nat) (k : Sample) : (s.sampling u k).reqs = s.reqs := rfl
@[simp] theorem State.sampling_chimes (s : State) (u : Nat) (k : Sample) : (s.sampling u k).chimes = s.chimes := rfl
@[simp] theorem State.sampling_txs (s : State) (u : Nat) (k : Sample) : (s.sampling u k).txs = s.txs := rfl
@[simp] theorem State.sampling_cores (s : State) (u : Nat) (k : Sample) : (s.sampling u k).cores = s.cores := rfl
@[simp] theorem State.sampling_quads (s : State) (u : Nat) (k : Sample) : (s.sampling u k).quads = s.quads := rfl
@[simp] theorem State.sampling_dies (s : State) (u : Nat) (k : Sample) : (s.sampling u k).dies = s.dies := rfl
@[simp] theorem State.sampling_tiles (s : State) (u : Nat) (k : Sample) : (s.sampling u k).tiles = s.tiles := rfl
@[simp] theorem State.sampling_copies (s : State) (u : Nat) (k : Sample) : (s.sampling u k).copies = s.copies := rfl
@[simp] theorem State.sampling_posts (s : State) (u : Nat) (k : Sample) : (s.sampling u k).posts = s.posts := rfl
@[simp] theorem State.sampling_bufs (s : State) (u : Nat) (k : Sample) : (s.sampling u k).bufs = s.bufs := rfl
@[simp] theorem State.sampling_queues (s : State) (u : Nat) (k : Sample) : (s.sampling u k).queues = s.queues := rfl
@[simp] theorem State.sampling_chans (s : State) (u : Nat) (k : Sample) : (s.sampling u k).chans = s.chans := rfl
@[simp] theorem State.sampling_groups (s : State) (u : Nat) (k : Sample) : (s.sampling u k).groups = s.groups := rfl
@[simp] theorem State.sampling_colls (s : State) (u : Nat) (k : Sample) : (s.sampling u k).colls = s.colls := rfl
@[simp] theorem State.sampling_combs (s : State) (u : Nat) (k : Sample) : (s.sampling u k).combs = s.combs := rfl
@[simp] theorem State.sampling_frames (s : State) (u : Nat) (k : Sample) : (s.sampling u k).frames = s.frames := rfl
@[simp] theorem State.sampling_partials (s : State) (u : Nat) (k : Sample) : (s.sampling u k).partials = s.partials := rfl
@[simp] theorem State.sampling_versions (s : State) (u : Nat) (k : Sample) : (s.sampling u k).versions = s.versions := rfl
@[simp] theorem State.sampling_banks (s : State) (u : Nat) (k : Sample) : (s.sampling u k).banks = s.banks := rfl
@[simp] theorem State.sampling_lpddr (s : State) (u : Nat) (k : Sample) : (s.sampling u k).lpddr = s.lpddr := rfl
@[simp] theorem State.sampling_worlds (s : State) (u : Nat) (k : Sample) : (s.sampling u k).worlds = s.worlds := rfl
@[simp] theorem State.sampling_invals (s : State) (u : Nat) (k : Sample) : (s.sampling u k).invals = s.invals := rfl
@[simp] theorem State.sampling_pages (s : State) (u : Nat) (k : Sample) : (s.sampling u k).pages = s.pages := rfl
@[simp] theorem State.sampling_fars (s : State) (u : Nat) (k : Sample) : (s.sampling u k).fars = s.fars := rfl
@[simp] theorem State.sampling_words (s : State) (u : Nat) (k : Sample) : (s.sampling u k).words = s.words := rfl
@[simp] theorem State.sampling_graves (s : State) (u : Nat) (k : Sample) : (s.sampling u k).graves = s.graves := rfl
@[simp] theorem State.sampling_avtos (s : State) (u : Nat) (k : Sample) : (s.sampling u k).avtos = s.avtos := rfl
@[simp] theorem State.sampling_fab (s : State) (u : Nat) (k : Sample) : (s.sampling u k).fab = s.fab := rfl
@[simp] theorem State.sampling_svc (s : State) (u : Nat) (k : Sample) : (s.sampling u k).svc = s.svc := rfl

end Sys2Proof.Machine
end

