-- ==== Sys2Proof/Laws/Issue.lean ====
section
/-! SUPPORT. What the shared operations of the issue engine do, once each: running a target, attaching a word, the checks of
vector words and their results. -/

namespace Sys2Proof.Machine

open Sys2Proof

theorem Cx.noXp_of_none {c : Cx} (h : c.g.xp = none) : c.noXp = .ok () := by simp [Cx.noXp, h]

theorem Cx.noXp_of_some {c : Cx} {x : FXp} (h : c.g.xp = some x) : c.noXp = .error ill := by simp [Cx.noXp, h]

/-- A target whose body completes. -/
theorem State.runTarget_ok {s : State} {c : Cx} {sw : Bool} {body : Cx → State → Except Stop (State × Flow)} {t : State}
    {fl : Flow} (h : s.cx = some c) (hb : body c s = .ok (t, fl)) :
    s.runTarget sw body = .next (t.closeGroup c sw fl) := by
  simp [State.runTarget, h, State.settle, hb]

/-- A target whose body traps. -/
theorem State.runTarget_trap {s : State} {c : Cx} {sw : Bool} {body : Cx → State → Except Stop (State × Flow)} {t : TrapInfo}
    (h : s.cx = some c) (hb : body c s = .error (.trap t)) : s.runTarget sw body = .next (s.raise c t) := by
  simp [State.runTarget, h, State.settle, hb]

/-- A target whose body parks. -/
theorem State.runTarget_park {s : State} {c : Cx} {sw : Bool} {body : Cx → State → Except Stop (State × Flow)} {t : State}
    {r : Stall} (h : s.cx = some c) (hb : body c s = .error (.park r t)) :
    s.runTarget sw body = .next (t.parkWarp c.uid r) := by
  simp [State.runTarget, h, State.settle, hb]

/-- Nothing to read or write is always free. -/
@[simp] theorem Cx.touch_nil (c : Cx) (s : State) : c.touch s [] = .ok () := by
  simp [Cx.touch, Warp.hazards]

/-- The end of a vector word that raises nothing. -/
theorem Cx.finish_ok {c : Cx} {s : State} {v : VOp} {p : Prep} {outs : List (Nat × LaneOut)}
    (hu : c.flagCheck p.fmode (orFlags (outs.map (fun q => q.2.fl))) = .ok ())
    (he : (laneFlags outs).isEmpty = true ∨ c.lstatBusy p.act = false) :
    c.finish s v p outs = .ok ((s.setRngs c.uid outs).result c v.lat
      (vNames p.d ((v.d.map Prod.snd).getD 0) (if c.xp.z then c.mask else p.act)) (c.vecWrites v p outs), .next) := by
  unfold Cx.finish Cx.vecWrites flagWrite
  unfold laneFlags at he ⊢
  rw [hu]
  have : (!(flagVals (outs.map (fun q => (q.1, q.2.fl)))).isEmpty && c.lstatBusy p.act) = false := by
    rcases he with h | h <;> simp [h]
  simp only [bind, Except.bind, this]
  rfl

/-- A vector word whose lanes are computed one by one. -/
theorem Cx.vop_ok {c : Cx} {s : State} {v : VOp} {p : Prep} {f : FEnv → LaneIn → LaneOut}
    (h : c.VecOk s v p (c.lanesOut s v p (f p.env))) :
    c.vop s v f = .ok ((s.setRngs c.uid (c.lanesOut s v p (f p.env))).result c v.lat
      (vNames p.d ((v.d.map Prod.snd).getD 0) (if c.xp.z then c.mask else p.act))
      (c.vecWrites v p (c.lanesOut s v p (f p.env))), .next) := by
  unfold Cx.vop
  rw [h.checks]
  simp only [bind, Except.bind, h.quiet, List.map_map]
  exact Cx.finish_ok h.untrapped h.enters

/-- A vector word whose lanes read B of other lanes, or the magnitude table. -/
theorem Cx.bop_ok {c : Cx} {s : State} {v : VOp} {p : Prep}
    {f : FEnv → (Nat → Word) → (Nat → Word) → LaneIn → LaneOut}
    (h : c.VecOk s v p (c.lanesOut s v p (f p.env (fun l => c.readV s p.b l) (c.magEntry s)))) :
    c.bop s v f = .ok ((s.setRngs c.uid (c.lanesOut s v p (f p.env (fun l => c.readV s p.b l) (c.magEntry s)))).result c v.lat
      (vNames p.d ((v.d.map Prod.snd).getD 0) (if c.xp.z then c.mask else p.act))
      (c.vecWrites v p (c.lanesOut s v p (f p.env (fun l => c.readV s p.b l) (c.magEntry s)))), .next) := by
  unfold Cx.bop
  rw [h.checks]
  simp only [bind, Except.bind, h.quiet, List.map_map]
  exact Cx.finish_ok h.untrapped h.enters

/-- A scalar word. -/
theorem Cx.sop_ok {c : Cx} {s : State} {lat : Nat} {srcs : List Nat} {outs : List (Nat × Word)} (hx : c.g.xp = none)
    (hf : c.free s ((srcs ++ outs.map Prod.fst).map RegName.s)) :
    c.sop s lat srcs outs =
      .ok (s.result c lat (outs.map (fun p => RegName.s p.1)) (outs.map (fun p => RegWrite.s p.1 p.2)), .next) := by
  unfold Cx.free at hf
  simp only [Cx.sop, Cx.noXp_of_none hx, hf, bind, Except.bind]

/-- What is sampled stands with the last result set going, and the other results stay. -/
theorem State.sampling_outstanding {s : State} {u : Nat} {k : Sample} {l : List Result} {r : Result}
    (h : (s.warp u).iss.outstanding = l ++ [r]) :
    ((s.sampling u k).warp u).iss.outstanding = l ++ [{ r with sample := some k }] := by
  simp [State.sampling, State.modWarp, State.putWarp, State.warp] at h ⊢
  simp [h]

/-- A vector word whose lanes see one another. -/
theorem Cx.xop_ok {c : Cx} {s : State} {v : VOp} {p : Prep} {reads : Nat → Lanes → List LaneIn → Lanes}
    {f : FEnv → Nat → Lanes → (Nat → Word) → LaneIn → LaneOut} {outs : List (Nat × LaneOut)}
    (ho : outs = c.lanesOut s { v with extra := [.part], crossA := true } p
      (f p.env (bits (c.readPart s).toNat 2 0) p.act (fun l => c.readV s p.a l)))
    (h : c.VecOk s { v with extra := [.part], crossA := true } p outs)
    (hr : c.free s [.v p.a (reads (bits (c.readPart s).toNat 2 0) p.act ((lanesOf p.act).map (c.sources s v p)))]) :
    c.xop s v reads f = .ok ((s.setRngs c.uid outs).result c v.lat
      (vNames p.d ((v.d.map Prod.snd).getD 0) (if c.xp.z then c.mask else p.act)) (c.vecWrites v p outs), .next) := by
  subst ho
  unfold Cx.free at hr
  have hq := h.quiet
  unfold Cx.xop
  rw [h.checks]
  simp only [bind, Except.bind, hr, List.map_map]
  rw [show c.snan v p (List.map (c.sources s v p) (lanesOf p.act)) = .ok () from hq]
  exact Cx.finish_ok (v := v) h.untrapped h.enters

/-- A compare. -/
theorem Cx.cmpop_ok {c : Cx} {s : State} {v : VOp} {p : Prep} {md : Nat} {f : FEnv → LaneIn → Bool × Word}
    (h : c.VecOk s { v with extra := if md = 0 then [] else [.m md] } p
      ((c.cmpOut s v p f).map (fun q => (q.1, { ws := [], fl := q.2.2 })))) :
    c.cmpop s v md f = .ok (s.result c v.lat (if md = 0 then [] else [.m md])
      ((if md = 0 ∨ (if c.xp.z then c.mask else p.act) = 0 then []
        else [.m md (if c.xp.z then c.mask else p.act) (maskOf (((c.cmpOut s v p f).filter (fun q => q.2.1)).map Prod.fst))]) ++
        flagWrite ((c.cmpOut s v p f).map (fun q => (q.1, { ws := [], fl := q.2.2 })))), .next) := by
  have hq : c.snan v p (List.map (c.sources s v p) (lanesOf p.act)) = .ok () := h.quiet
  have hu := h.untrapped
  have he := h.enters
  unfold Cx.cmpop
  rw [h.checks]
  simp only [bind, Except.bind, hq, List.map_map, Function.comp_def, Cx.cmpOut, laneFlags, flagWrite] at hu he ⊢
  have hs : ∀ l, (c.sources s v p l).lane = l := fun _ => rfl
  have hb : (!(flagVals ((lanesOf p.act).map (fun l => (l, (f p.env (c.sources s v p l)).2)))).isEmpty &&
      c.lstatBusy p.act) = false := by
    rcases he with h | h <;> simp [h]
  simp only [hs, hu, hb]
  simp

end Sys2Proof.Machine
end

