-- ==== Sys2Proof/Laws/Memory.lean ====
section
/-! SUPPORT. Memory: reading after a write, and that every memory operation keeps the canonical form. -/

namespace Sys2Proof.Machine

open Sys2Proof

/-! One byte. -/

@[simp] theorem Memory.read_nil (a : Nat) : Memory.read [] a = Memory.blank := rfl

/-- An address below every listed one reads as blank. -/
theorem Memory.read_below {m : List Host.Cell} {a : Nat} (h : ∀ p ∈ m, a < p.1) : Memory.read m a = Memory.blank := by
  induction m with
  | nil => rfl
  | cons p t ih =>
    have h1 := h p (by simp)
    have : ¬ p.1 = a := by omega
    simpa [Memory.read, this] using ih (fun q hq => h q (by simp [hq]))

/-- The canonical form of a list, said of its head and its tail. -/
theorem Memory.wf_cons {a : Nat} {b : Byte} {m : List Host.Cell} :
    Memory.wf ((a, b) :: m) = true ↔ b ≠ Memory.blank ∧ (∀ p ∈ m, a < p.1) ∧ Memory.wf m = true := by
  induction m generalizing a b with
  | nil => simp [Memory.wf]
  | cons p t ih =>
    obtain ⟨c, d⟩ := p
    simp only [Memory.wf, Bool.and_eq_true, bne_iff_ne, ne_eq, decide_eq_true_eq, List.mem_cons, forall_eq_or_imp]
    constructor
    · rintro ⟨⟨hb, hac⟩, hw⟩
      exact ⟨hb, ⟨hac, fun q hq => Nat.lt_trans hac ((ih.1 hw).2.1 q hq)⟩, hw⟩
    · rintro ⟨hb, ⟨hac, -⟩, hw⟩
      exact ⟨⟨hb, hac⟩, hw⟩

/-- The addresses a write leaves listed. -/
theorem Memory.mem_write {m : List Host.Cell} {a : Nat} {b : Byte} {p : Host.Cell} (h : p ∈ Memory.write m a b) :
    p ∈ m ∨ p = (a, b) := by
  induction m with
  | nil =>
    unfold Memory.write at h
    split at h <;> simp_all
  | cons q t ih =>
    obtain ⟨k, v⟩ := q
    simp only [Memory.write] at h
    split at h
    · split at h
      · exact .inl h
      · rcases List.mem_cons.1 h with h | h <;> simp [h]
    · split at h
      · split at h
        · exact .inl (List.mem_cons_of_mem _ h)
        · rcases List.mem_cons.1 h with h | h <;> simp [h]
      · rcases List.mem_cons.1 h with h | h
        · simp [h]
        · rcases ih h with h | h <;> simp [h]

/-- A write keeps the canonical form. -/
theorem Memory.wf_write {m : List Host.Cell} (h : Memory.wf m = true) (a : Nat) (b : Byte) :
    Memory.wf (Memory.write m a b) = true := by
  induction m with
  | nil =>
    unfold Memory.write
    split
    · rfl
    · simpa [Memory.wf]
  | cons q t ih =>
    obtain ⟨k, v⟩ := q
    obtain ⟨hv, hk, ht⟩ := Memory.wf_cons.1 h
    simp only [Memory.write]
    split
    · rename_i hak
      split
      · exact h
      · rename_i hb
        refine Memory.wf_cons.2 ⟨hb, fun p hp => ?_, h⟩
        rcases List.mem_cons.1 hp with rfl | hp
        · exact hak
        · exact Nat.lt_trans hak (hk p hp)
    · split
      · rename_i hak
        subst hak
        split
        · exact ht
        · rename_i hb
          exact Memory.wf_cons.2 ⟨hb, hk, ht⟩
      · refine Memory.wf_cons.2 ⟨hv, fun p hp => ?_, ih ht⟩
        rcases Memory.mem_write hp with hp | rfl
        · exact hk p hp
        · show k < a
          omega

/-- A byte reads as it was written, in canonical form. -/
theorem Memory.read_write_self {m : List Host.Cell} (h : Memory.wf m = true) (a : Nat) (b : Byte) :
    Memory.read (Memory.write m a b) a = b := by
  induction m with
  | nil =>
    unfold Memory.write
    split <;> simp_all [Memory.read]
  | cons q t ih =>
    obtain ⟨k, v⟩ := q
    obtain ⟨hv, hk, ht⟩ := Memory.wf_cons.1 h
    simp only [Memory.write]
    split
    · rename_i hak
      split
      · rename_i hb
        have h1 : ¬ k = a := by omega
        simp only [Memory.read, h1, if_false, hb]
        exact Memory.read_below (fun p hp => Nat.lt_trans hak (hk p hp))
      · simp [Memory.read]
    · split
      · rename_i hak
        subst hak
        split
        · rename_i hb
          rw [hb]
          exact Memory.read_below hk
        · simp [Memory.read]
      · rename_i h1
        have h2 : ¬ k = a := fun e => h1 e.symm
        simp [Memory.read, h2, ih ht]

/-- A write leaves every other byte alone. -/
theorem Memory.read_write_ne (m : List Host.Cell) {a c : Nat} (b : Byte) (h : c ≠ a) :
    Memory.read (Memory.write m a b) c = Memory.read m c := by
  have h' : ¬ a = c := fun e => h e.symm
  induction m with
  | nil =>
    unfold Memory.write
    split <;> simp [Memory.read, h']
  | cons q t ih =>
    obtain ⟨k, v⟩ := q
    simp only [Memory.write]
    split
    · split <;> simp [Memory.read, h']
    · split
      · rename_i e
        subst e
        split <;> simp [Memory.read, h']
      · simp [Memory.read, ih]

/-! Several bytes. -/

/-- Writing several bytes keeps the canonical form. -/
theorem Memory.wf_writeN {m : List Host.Cell} (h : Memory.wf m = true) (a : Nat) (l : List Byte) :
    Memory.wf (Memory.writeN m a l) = true := by
  induction l generalizing m a with
  | nil => exact h
  | cons b t ih => exact ih (Memory.wf_write h a b) (a + 1)

/-- Writing several bytes leaves the bytes outside them alone. -/
theorem Memory.read_writeN_out (m : List Host.Cell) {a c : Nat} (l : List Byte) (h : c < a ∨ a + l.length ≤ c) :
    Memory.read (Memory.writeN m a l) c = Memory.read m c := by
  induction l generalizing m a with
  | nil => rfl
  | cons b t ih =>
    simp only [List.length_cons] at h
    rw [Memory.writeN, ih _ (by omega), Memory.read_write_ne m b (by omega)]

/-- Several bytes read as they were written. -/
theorem Memory.readN_writeN {m : List Host.Cell} (h : Memory.wf m = true) (a : Nat) (l : List Byte) :
    Memory.readN (Memory.writeN m a l) a l.length = l := by
  induction l generalizing m a with
  | nil => rfl
  | cons b t ih =>
    simp only [List.length_cons, Memory.readN, Memory.writeN]
    rw [Memory.read_writeN_out _ t (by omega), Memory.read_write_self h, ih (Memory.wf_write h a b)]

/-- Dropping cells keeps the canonical form. -/
theorem Memory.wf_filter {m : List Host.Cell} (h : Memory.wf m = true) (p : Host.Cell → Bool) :
    Memory.wf (m.filter p) = true := by
  induction m with
  | nil => rfl
  | cons q t ih =>
    obtain ⟨k, v⟩ := q
    obtain ⟨hv, hk, ht⟩ := Memory.wf_cons.1 h
    rw [List.filter_cons]
    split
    · exact Memory.wf_cons.2 ⟨hv, fun r hr => hk r (List.mem_filter.1 hr).1, ih ht⟩
    · exact ih ht

/-- A fold of single writes keeps the canonical form. -/
theorem Memory.wf_foldl_write {α : Type} (addr : α → Nat) (byte : α → Byte) (l : List α) {m : List Host.Cell}
    (h : Memory.wf m = true) : Memory.wf (l.foldl (fun m x => Memory.write m (addr x) (byte x)) m) = true := by
  induction l generalizing m with
  | nil => exact h
  | cons x t ih => exact ih (Memory.wf_write h _ _)

/-! The state's memories. -/

/-- The machine's memories are canonical at reset. -/
theorem State.reset_memOk : State.reset.memOk := ⟨rfl, rfl⟩


/-- The two memories of a state, as one value. -/
theorem State.memOk_of_eq {s t : State} (h : s.memOk) (hm : t.mem = s.mem) (hh : t.host = s.host) : t.memOk := by
  simpa [State.memOk, hm, hh] using h

theorem State.memOk_poke {s : State} (h : s.memOk) (a : Nat) (l : List Byte) : (s.poke a l).memOk :=
  ⟨Memory.wf_writeN h.1 a l, h.2⟩

theorem State.memOk_hostWr {s : State} (h : s.memOk) (a : Nat) (l : List Byte) : (s.hostWr a l).memOk :=
  ⟨h.1, Memory.wf_writeN h.2 a l⟩

/-- Folding an operation that keeps the canonical form keeps it. -/
theorem State.memOk_foldl {α : Type} {f : State → α → State} (hf : ∀ s x, s.memOk → (f s x).memOk) (l : List α) {s : State}
    (h : s.memOk) : (l.foldl f s).memOk := by
  induction l generalizing s with
  | nil => exact h
  | cons x t ih => exact ih (hf s x h)

@[simp] theorem State.countRead_mem (s : State) (die pa : Nat) : (s.countRead die pa).mem = s.mem := by
  unfold State.countRead; split <;> rfl
@[simp] theorem State.countRead_host (s : State) (die pa : Nat) : (s.countRead die pa).host = s.host := by
  unfold State.countRead; split <;> rfl
@[simp] theorem State.countWrite_mem (s : State) (pa : Nat) : (s.countWrite pa).mem = s.mem := rfl
@[simp] theorem State.countWrite_host (s : State) (pa : Nat) : (s.countWrite pa).host = s.host := rfl
@[simp] theorem State.bumpVersion_mem (s : State) (line : Nat) : (s.bumpVersion line).mem = s.mem := rfl
@[simp] theorem State.bumpVersion_host (s : State) (line : Nat) : (s.bumpVersion line).host = s.host := rfl
@[simp] theorem State.openRow_mem (s : State) (pa : Nat) : (s.openRow pa).mem = s.mem := rfl
@[simp] theorem State.openRow_host (s : State) (pa : Nat) : (s.openRow pa).host = s.host := rfl
@[simp] theorem State.spoil_mem (s : State) (pa n : Nat) : (s.spoil pa n).mem = s.mem := by
  unfold State.spoil; split <;> rfl
@[simp] theorem State.spoil_host (s : State) (pa n : Nat) : (s.spoil pa n).host = s.host := by
  unfold State.spoil; split <;> rfl
@[simp] theorem State.setBad_mem (s : State) (pa n : Nat) (b : Bool) : (s.setBad pa n b).mem = s.mem := by
  simp only [State.setBad]; split
  · rfl
  · split <;> rfl
@[simp] theorem State.setBad_host (s : State) (pa n : Nat) (b : Bool) : (s.setBad pa n b).host = s.host := by
  simp only [State.setBad]; split
  · rfl
  · split <;> rfl

theorem State.memOk_mergeLine {s : State} (h : s.memOk) (line : Nat) : (s.mergeLine line).memOk := by
  unfold State.mergeLine
  split
  · exact h
  · rename_i p _
    exact State.memOk_of_eq (State.memOk_foldl
      (f := fun (s : State) (i : Nat) => s.poke (line + 4 * i) (bytesOf (p.word i (s.rdWord (line + 4 * i)))))
      (fun _ _ hs => State.memOk_poke hs _ _) p.sums.keys h) (by simp) (by simp)

theorem State.memOk_mergeAll {s : State} (h : s.memOk) : s.mergeAll.memOk :=
  State.memOk_foldl (fun _ _ hs => State.memOk_mergeLine hs _) _ h

theorem State.memOk_mergeAt {s : State} (h : s.memOk) (l : List Nat) : (s.mergeAt l).memOk := by
  unfold State.mergeAt
  split
  · exact h
  · exact State.memOk_foldl (fun _ _ hs => State.memOk_mergeLine hs _) _ h

theorem State.memOk_homeRead {s : State} (h : s.memOk) (die pa n : Nat) : (s.homeRead die pa n).2.memOk :=
  State.memOk_of_eq (State.memOk_mergeAt h [pa]) (by simp [State.homeRead]) (by simp [State.homeRead])

theorem State.memOk_homeWrite {s : State} (h : s.memOk) (pa : Nat) (l : List Byte) (b : Bool) :
    (s.homeWrite pa l b).memOk := by
  have h1 : (((s.mergeAt [pa]).countWrite pa).bumpVersion (lineOf pa)).memOk :=
    State.memOk_of_eq (State.memOk_mergeAt h [pa]) (by simp) (by simp)
  exact State.memOk_of_eq (State.memOk_poke h1 pa l) (by simp [State.homeWrite]) (by simp [State.homeWrite])

theorem State.memOk_homeWriteMany {s : State} (h : s.memOk) (line : Nat) (l : List (Nat × Byte)) :
    (s.homeWriteMany line l).memOk := by
  have h1 : (((s.mergeAt [line]).countWrite line).bumpVersion line).memOk :=
    State.memOk_of_eq (State.memOk_mergeAt h [line]) (by simp) (by simp)
  exact State.memOk_of_eq (State.memOk_foldl (f := fun (s : State) (p : Nat × Byte) => s.poke p.1 [p.2])
    (fun _ _ hs => State.memOk_poke hs _ _) l h1) (by simp [State.homeWriteMany]) (by simp [State.homeWriteMany])

theorem State.memOk_wrLines {s : State} (h : s.memOk) (a : Nat) (l : List Byte) (n : Nat) : (s.wrLines a l n).memOk := by
  induction n generalizing s a l with
  | zero => exact h
  | succ n ih =>
    simp only [State.wrLines]
    split
    · split
      · exact h
      · exact State.memOk_homeWrite h a l false
    · exact ih (State.memOk_homeWrite h _ _ false) _ _

theorem State.memOk_wr {s : State} (h : s.memOk) (a : Nat) (l : List Byte) : (s.wr a l).memOk :=
  State.memOk_wrLines h a l _

theorem State.memOk_wrWords {s : State} (h : s.memOk) (a : Nat) (l : List Word) : (s.wrWords a l).memOk :=
  State.memOk_wr h a _

theorem State.memOk_contribute {s : State} (h : s.memOk) (slice line : Nat) (aln : Bool) (exp word : Nat) (q : Int)
    (sp : Bool) : (s.contribute slice line aln exp word q sp).memOk := by
  have h1 : (if s.partials.any (fun p => p.line == line && p.aln != aln) then s.mergeLine line else s).memOk := by
    split
    · exact State.memOk_mergeLine h line
    · exact h
  unfold State.contribute
  dsimp only
  split <;> exact State.memOk_of_eq h1 rfl rfl

/-! What a write of an engine may change: device memory and what its homes keep of it. -/

/-- Everything but device memory, its poison marks, partials, versions, page frames, open rows and combine buffers. -/
def State.sameBut (s t : State) : Prop :=
  t = { s with mem := t.mem, bad := t.bad, partials := t.partials, versions := t.versions, frames := t.frames,
               banks := t.banks, bufs := t.bufs }

theorem State.sameBut_refl (s : State) : s.sameBut s := rfl

theorem State.sameBut_trans {s t u : State} (h1 : s.sameBut t) (h2 : t.sameBut u) : s.sameBut u := by
  unfold State.sameBut at h1 h2 ⊢
  rw [h2, h1]

theorem State.sameBut_foldl {α : Type} {f : State → α → State} (hf : ∀ (s : State) x, s.sameBut (f s x)) (l : List α) (s : State) :
    s.sameBut (l.foldl f s) := by
  induction l generalizing s with
  | nil => exact State.sameBut_refl s
  | cons x t ih => exact State.sameBut_trans (hf s x) (ih (f s x))

theorem State.sameBut_poke (s : State) (a : Nat) (l : List Byte) : s.sameBut (s.poke a l) := rfl
theorem State.sameBut_countWrite (s : State) (a : Nat) : s.sameBut (s.countWrite a) := rfl
theorem State.sameBut_bumpVersion (s : State) (a : Nat) : s.sameBut (s.bumpVersion a) := rfl
theorem State.sameBut_countRead (s : State) (d a : Nat) : s.sameBut (s.countRead d a) := by
  unfold State.countRead; split <;> rfl
theorem State.sameBut_openRow (s : State) (a : Nat) : s.sameBut (s.openRow a) := by
  simp only [State.openRow]; split <;> rfl
theorem State.sameBut_spoil (s : State) (a n : Nat) : s.sameBut (s.spoil a n) := by
  unfold State.spoil; split <;> rfl
theorem State.sameBut_setBad (s : State) (a n : Nat) (b : Bool) : s.sameBut (s.setBad a n b) := by
  simp only [State.setBad]; split
  · rfl
  · split <;> rfl

theorem State.sameBut_mergeLine (s : State) (line : Nat) : s.sameBut (s.mergeLine line) := by
  unfold State.mergeLine
  split
  · rfl
  · refine State.sameBut_trans ?_ (State.sameBut_spoil _ _ _)
    refine State.sameBut_trans ?_ (State.sameBut_countWrite _ _)
    refine State.sameBut_trans ?_ (State.sameBut_bumpVersion _ _)
    exact State.sameBut_trans (State.sameBut_foldl (fun s _ => State.sameBut_poke s _ _) _ s) rfl

theorem State.sameBut_mergeAt (s : State) (l : List Nat) : s.sameBut (s.mergeAt l) := by
  unfold State.mergeAt
  split
  · rfl
  · exact State.sameBut_foldl (fun s _ => State.sameBut_mergeLine s _) l s

theorem State.sameBut_homeRead (s : State) (die pa n : Nat) : s.sameBut (s.homeRead die pa n).2 :=
  State.sameBut_trans (State.sameBut_trans (State.sameBut_mergeAt s [pa]) (State.sameBut_countRead _ _ _))
    (State.sameBut_openRow _ _)

theorem State.sameBut_homeWrite (s : State) (pa : Nat) (l : List Byte) (b : Bool) : s.sameBut (s.homeWrite pa l b) := by
  unfold State.homeWrite
  refine State.sameBut_trans ?_ (State.sameBut_spoil _ _ _)
  refine State.sameBut_trans ?_ (State.sameBut_setBad _ _ _ _)
  refine State.sameBut_trans ?_ (State.sameBut_poke _ _ _)
  refine State.sameBut_trans ?_ (State.sameBut_bumpVersion _ _)
  exact State.sameBut_trans (State.sameBut_mergeAt s [pa]) (State.sameBut_countWrite _ _)

theorem State.sameBut_wrLines (s : State) (a : Nat) (l : List Byte) (n : Nat) : s.sameBut (s.wrLines a l n) := by
  induction n generalizing s a l with
  | zero => rfl
  | succ n ih =>
    simp only [State.wrLines]
    split
    · split
      · rfl
      · exact State.sameBut_homeWrite s a l false
    · exact State.sameBut_trans (State.sameBut_homeWrite s _ _ false) (ih _ _ _)

/-- An engine's write changes nothing else. -/
theorem State.sameBut_wr (s : State) (a : Nat) (l : List Byte) : s.sameBut (s.wr a l) := State.sameBut_wrLines s a l _

end Sys2Proof.Machine
end

