-- ==== Sys2Proof/Tests/Slice0.lean ====
section
/-! SUPPORT. Tests: ill-formed terms, words written out bit by bit from the spec's encodings, one step from a placed word, and
states that meet the hypotheses of the statements. -/

namespace Sys2Proof.Tests

set_option Elab.async false

open Sys2Proof Sys2Proof.Machine

/-! WellFormed: an ill-formed term for each check, which the check refuses. -/

theorem test_wf_refuses_s_numbers : (Instr.smovi ⟨false, 64, 0⟩).wf = false ∧ (Instr.iaddS ⟨false, 1, 2, 64⟩).wf = false ∧
    (Instr.lset ⟨false, 0, 64⟩).wf = false ∧ (Instr.pbind ⟨false, 2, 64⟩).wf = false ∧ (Instr.ksend ⟨false, 1, 1, 62⟩).wf = false ∧
    (Instr.tlbinv ⟨false, 62⟩).wf = false := by decide
theorem test_wf_refuses_misaligned_groups : (Instr.jmpi ⟨false, 5⟩).wf = false ∧ (Instr.iaddD ⟨false, 2, 4, 7⟩).wf = false ∧
    (Instr.ldB128 ⟨false, 6, 2, 1, 1⟩).wf = false ∧ (Instr.scvtUpLq2 ⟨false, 0, 4, 1, 2⟩).wf = false ∧
    (Instr.lqdot ⟨false, 1, 2, 4⟩).wf = false ∧ (Instr.crgate ⟨false, 18, 4, 1, 1⟩).wf = false ∧ (Instr.rcarm ⟨false, 1, 3, 1, 1⟩).wf = false ∧
    (Instr.binit ⟨false, 1, 3⟩).wf = false ∧ (Instr.krecv ⟨false, 1, 3⟩).wf = false := by decide
theorem test_wf_refuses_control_registers : (Instr.mfcv ⟨false, 1, 25⟩).wf = false ∧ (Instr.mfc ⟨false, 1, 3⟩).wf = false ∧
    (Instr.mtc ⟨false, 1, 5⟩).wf = false ∧ (Instr.mtcp ⟨false, 1, 4⟩).wf = false ∧ (Instr.mfcp ⟨false, 1, 1⟩).wf = false := by decide
theorem test_wf_refuses_ports_and_keys : (Instr.punbind ⟨false, 1⟩).wf = false ∧ (Instr.kscope ⟨false, 0, 1⟩).wf = false ∧
    (Instr.kscope ⟨false, 15, 1⟩).wf = false := by decide
theorem test_wf_refuses_cvt : (Instr.cvt ⟨false, 8, 8, 1, 2, 0⟩).wf = false ∧ (Instr.cvt ⟨false, 10, 8, 3, 2, 2⟩).wf = false := by decide
theorem test_wf_refuses_hints : (Instr.hnop ⟨false, 3, 0⟩).wf = false := by decide

/-! Words of every family, each field as the encoding tables give it (R32 to R45, R61). -/

theorem test_decode_hint_himm_lo : decode 0b1_000001_0001_00000_1000000000000001 = .ok (.himmLo ⟨true, 0x8001⟩) := by decide +kernel
theorem test_decode_hint_hprio : decode 0b0_000001_0111_0000000000000000000_10 = .ok (.hprio ⟨false, 2⟩) := by decide +kernel
theorem test_decode_xp : decode 0b0_000010_101_1_010_1000010_1_0_11_1_0_1_0_1_00 = .ok (.xp { sw := false, m := 5, z := true, r := 2, c := 66, e := true, t := false, x := 3, i := true, j := false, k := true, n := false, o := true }) := by decide +kernel
theorem test_decode_br_any : decode 0b1_000011_011_10_110_11111111111111110 = .ok (.brAny ⟨true, 3, 6, 0x1FFFE⟩) := by decide +kernel
theorem test_decode_call : decode 0b0_000100_1111111111111111111111101 = .ok (.call ⟨false, 0x1FFFFFD⟩) := by decide +kernel
theorem test_decode_loopb : decode 0b0_000101_10_101_11111111111111110000 = .ok (.loopb ⟨false, 2, 5, 0xFFFF0⟩) := by decide +kernel
theorem test_decode_ctl_jmpi : decode 0b0_000110_0000_0000000_1111110_0000000 = .ok (.jmpi ⟨false, 126⟩) := by decide +kernel
theorem test_decode_ctl_lset : decode 0b0_000110_1100_00000_11_0111111_0000000 = .ok (.lset ⟨false, 3, 63⟩) := by decide +kernel
theorem test_decode_vint_max_n : decode 0b1_001000_1111_1111111_0000001_1000000 = .ok (.maxN ⟨true, 127, 1, 64⟩) := by decide +kernel
theorem test_decode_vint_s_imad : decode 0b0_001001_0101_0000011_0000101_0111111 = .ok (.imadS ⟨false, 3, 5, 63⟩) := by decide +kernel
theorem test_decode_vbit_shl_d : decode 0b0_001010_1100_0000010_0000100_0000111 = .ok (.shlD ⟨false, 2, 4, 7⟩) := by decide +kernel
theorem test_decode_vint_i_xori : decode 0b0_001011_10_0001001_1100100_100000001 = .ok (.xori ⟨false, 9, 100, 0x101⟩) := by decide +kernel
theorem test_decode_vf32_fdiv : decode 0b0_001100_1111_0000001_0000010_0000011 = .ok (.fdiv ⟨false, 1, 2, 3⟩) := by decide +kernel
theorem test_decode_vf32_s_ferf : decode 0b0_001101_1100_0000001_0000010_0000000 = .ok (.ferfS ⟨false, 1, 2⟩) := by decide +kernel
theorem test_decode_vh2_bdot2 : decode 0b0_001110_1101_0000001_0000010_0000011 = .ok (.bdot2 ⟨false, 1, 2, 3⟩) := by decide +kernel
theorem test_decode_vq_xdot8 : decode 0b0_001111_1010_0000001_0000010_0000011 = .ok (.xdot8E2m1 ⟨false, 1, 2, 3⟩) := by decide +kernel
theorem test_decode_vcvt_bf16_f32 : decode 0b0_010000_1010_1000_0000011_0000010_001 = .ok (.cvt ⟨false, 10, 8, 3, 2, 1⟩) := by decide +kernel
theorem test_decode_scvt_up_lq2 : decode 0b0_010001_1011_0001000_0000001_0000101 = .ok (.scvtUpLq2 ⟨false, 2, 8, 1, 5⟩) := by decide +kernel
theorem test_decode_scvt_dn_e5m2 : decode 0b0_010010_1101_0000001_0000100_0000101 = .ok (.scvtDnE5m2 ⟨false, 3, 1, 4, 5⟩) := by decide +kernel
theorem test_decode_vcmp_flt : decode 0b0_010011_1000_111_0000_0000001_1111111 = .ok (.cmpFlt ⟨false, 7, 1, 127⟩) := by decide +kernel
theorem test_decode_vcmp_s_le_i : decode 0b0_010100_0011_001_0000_0000001_0000101 = .ok (.cmpLeIS ⟨false, 1, 1, 5⟩) := by decide +kernel
theorem test_decode_mask_mfroms : decode 0b0_010101_0111_110_000_000_111110_000000 = .ok (.mfroms ⟨false, 6, 62⟩) := by decide +kernel
theorem test_decode_xlane_scan_add_f : decode 0b0_010110_1101_0000001_0000010_0000000 = .ok (.scanAddF ⟨false, 1, 2⟩) := by decide +kernel
theorem test_decode_salu_sadd_d : decode 0b0_010111_1101_0000010_0000100_0111110 = .ok (.saddD ⟨false, 2, 4, 62⟩) := by decide +kernel
theorem test_decode_salu_i_sshli : decode 0b0_011000_11_0000001_0111111_000011111 = .ok (.sshli ⟨false, 1, 63, 31⟩) := by decide +kernel
theorem test_decode_mov_xset : decode 0b0_011001_1000_0000010_0000101_0000111 = .ok (.xset ⟨false, 2, 5, true, 3⟩) := by decide +kernel
theorem test_decode_ld_b128 : decode 0b0_011010_100_0001000_0000010_0011_1110 = .ok (.ldB128 ⟨false, 8, 2, 3, 14⟩) := by decide +kernel
theorem test_decode_st_b64 : decode 0b0_011011_011_0000110_0000010_0001_0010 = .ok (.stB64 ⟨false, 6, 2, 1, 2⟩) := by decide +kernel
theorem test_decode_ldn_pres : decode 0b0_011100_111_0000101_0000011_0001_0010 = .ok (.ldnPres ⟨false, 5, 3, 1, 2⟩) := by decide +kernel
theorem test_decode_stn_b8 : decode 0b0_011101_000_0000101_0000011_0001_0010 = .ok (.stnB8 ⟨false, 5, 3, 1, 2⟩) := by decide +kernel
theorem test_decode_atom_cas64 : decode 0b0_011110_1110_0000010_0000100_0001000 = .ok (.atomCas64 ⟨false, 2, 4, 8⟩) := by decide +kernel
theorem test_decode_atomn_incw : decode 0b0_011111_1100_0000001_0000011_0000101 = .ok (.atomnIncw ⟨false, 1, 3, 5⟩) := by decide +kernel
theorem test_decode_slice_redl_aln : decode 0b0_100000_0011_0001011_0000100_0001010 = .ok (.sliceRedlAln ⟨false, 11, 4, 10⟩) := by decide +kernel
theorem test_decode_key_ksend : decode 0b0_100001_0101_0011_0010_0000_000_111101 = .ok (.ksend ⟨false, 3, 2, 61⟩) := by decide +kernel
theorem test_decode_port_pstat : decode 0b0_100010_0100_110_0010100_0000000_0000 = .ok (.pstat ⟨false, 6, 20⟩) := by decide +kernel
theorem test_decode_copy_rcarm : decode 0b0_100011_0011_0010110_001000_0000_0000 = .ok (.rcarm ⟨false, 22, 8, 0, 0⟩) := by decide +kernel
theorem test_decode_mx_scload : decode 0b0_100100_0111_0001001_000000_0010_0101 = .ok (.scload ⟨false, 9, 2, 5⟩) := by decide +kernel
theorem test_decode_creel_cralloc_w : decode 0b0_100101_0001_0010000_00010_1_00000000 = .ok (.crallocW ⟨false, 16, 2⟩) := by decide +kernel
theorem test_decode_bar_bstat : decode 0b0_100110_0100_1111_000_001100_00000000 = .ok (.bstat ⟨false, 15, 12⟩) := by decide +kernel
theorem test_decode_grid_gstat : decode 0b0_100111_0010_0_001010_000110_00000000 = .ok (.gstat ⟨false, 10, 6⟩) := by decide +kernel
theorem test_decode_lq_lqdot : decode 0b0_101000_0001_0000001_0000010_0001000 = .ok (.lqdot ⟨false, 1, 2, 8⟩) := by decide +kernel
theorem test_decode_sys_wswitch : decode 0b0_111111_0011_0000110_0001010_0000000 = .ok (.wswitch ⟨false, 6, 10⟩) := by decide +kernel
theorem test_decode_refuses_reserved_major : decode 0b0_000111_0000000000000000000000000 = .error .unimpl := by decide +kernel
theorem test_decode_refuses_reserved_minor : decode 0b0_010101_1001_000000000000000000000 = .error .unimpl := by decide +kernel
theorem test_decode_refuses_zero_field : decode 0b0_000110_1000_000000000000000000001 = .error .ill := by decide +kernel
theorem test_decode_refuses_s_number : decode 0b0_011000_00_1000000_0000000_000000000 = .error .ill := by decide +kernel
theorem test_decode_refuses_odd_pair : decode 0b0_011010_010_0000101_0000011_00000000 = .error .ill := by decide +kernel
theorem test_decode_refuses_cvt_reserved_type : decode 0b0_010000_1111_1000_0000000_0000000_000 = .error .unimpl := by decide +kernel

/-! States that meet the hypotheses of the statements: one warp of width 32 in a context, as at a launch. -/

/-- Whether an operation of the machine succeeds. -/
def okB {α : Type} : Except Stop α → Bool
  | .ok _ => true
  | .error _ => false

theorem ok_of {α : Type} {r : Except Stop α} (h : okB r = true) : ∃ a, r = .ok a := by
  cases r with
  | ok a => exact ⟨a, rfl⟩
  | error e => cases h

theorem free_of {c : Cx} {s : State} {l : List RegName} (h : okB (c.touch s l) = true) : c.free s l := by
  obtain ⟨⟨⟩, h⟩ := ok_of h; exact h

theorem uncaptured_of {c : Cx} {s : State} {l : List Nat} (h : okB (c.bWrites s l c.mask) = true) : c.uncaptured s l := by
  obtain ⟨⟨⟩, h⟩ := ok_of h; exact h

/-- The state in which one warp issues. -/
def issuing (w : Warp) : State := { State.reset.withFetchWord 32 0 with cur := some 1, fresh := 10, warps := [(1, w)] }

/-- What that warp's word sees. -/
def sees (w : Warp) : Cx := { uid := 1, w := w, g := { pc := 0x10000, here := 0x10000, mask := 0xFFFFFFFF, prio := 0 } }

/-- The warp as a launch leaves it. -/
abbrev fresh1 : Warp := probeWarp

theorem issuing_bare : (issuing fresh1).bare (sees fresh1) := ⟨by decide +kernel, rfl⟩

/-- Whether an outcome is a next state. -/
def nextB : Host.Outcome State Fault Refusal → Bool
  | .next _ => true
  | _ => false

/-! Witnesses of the statements about the machine as a whole. -/

/-- A NOP is fetched and runs, and the events of the other clauses. -/
theorem witness_StepRunsDecoded :
    (∃ u w g x i, let t := (State.reset.withFetchWord 32 0x0D000000).ticked
      t.chosen = some (.issue u) ∧ t.warps.get? u = some w ∧ w.group = some g ∧ t.bpMatch w = none ∧
      w.refusedWait = none ∧ t.fetch w g.here = .word x ∧ decode x = .ok i) ∧
    State.reset.ticked.options ≠ [] ∧
    (∃ e rest, (State.ticked { State.reset with inputs := [.droopEvent 0] }).inputs = e :: rest) ∧
    ∃ e, (State.ticked { State.reset with bag := [.warpRetire 3] }).bag[0]? = some e := by
  refine ⟨⟨1, fresh1, { pc := 0x10000, here := 0x10000, mask := 0xFFFFFFFF, prio := 0 }, 0x0D000000#32, .nop ⟨false⟩, ?_⟩,
    by decide +kernel, ⟨_, _, rfl⟩, ⟨_, rfl⟩⟩
  decide +kernel

/-- MOV.VS V1, S1 is its word. -/
theorem witness_RoundTrip : (Instr.movVs ⟨false, 1, 1⟩).wf = true ∧ encode (.movVs ⟨false, 1, 1⟩) = some 0x32204080 := by
  decide +kernel

theorem witness_WordsHaveOneMeaning : decode 0x32204080 = .ok (.movVs ⟨false, 1, 1⟩) := rfl

/-- A step from a state with a program's word. -/
theorem witness_StepKeepsMemory : (State.reset.withFetchWord 32 0x0D000000).memOk ∧ (State.reset).svc.image = none ∧
    nextB (step (State.reset.withFetchWord 32 0x0D000000)) = true := by
  refine ⟨⟨?_, ?_⟩, rfl, ?_⟩ <;> decide +kernel

/-- Word 0 is ILL, major 0x07 UNIMPL, and major 0x3F outside privileged state PRIV. -/
theorem witness_UndecodedWords : ((issuing fresh1).begin 1 0).cx = some (sees fresh1) ∧ decode 0 = .error .ill ∧
    decode 0x0E000000 = .error .unimpl ∧ decode 0x7EA00000 = .error .unimpl ∧ ((issuing fresh1).ctx 0).d.priv = false := by
  refine ⟨?_, rfl, rfl, rfl, ?_⟩ <;> decide +kernel

theorem witness_ResultFrame : (issuing fresh1).warps.get? (sees fresh1).uid = some (sees fresh1).w ∧ [RegWrite.s 3 7] ≠ [] := by
  decide +kernel

/-! Control flow and traps. -/

/-- A group with eight attached words, and one with fewer, without a prefix. -/
theorem witness_AttachedWords : (issuing fresh1).cx = some (sees fresh1) ∧ (sees fresh1).g.count < 8 ∧
    (let g : Group := { (sees fresh1).g with count := 8, xp := some { sw := false, m := 0, z := false, r := 0, c := 0, e := false, t := false, x := 0, i := false, j := false, k := false, n := false, o := false } }
     let w : Warp := { fresh1 with iss := { fresh1.iss with grp := some g } }
     ∃ c, (issuing w).cx = some c ∧ 8 ≤ c.g.count ∧ c.g.xp ≠ none) := by
  refine ⟨by decide +kernel, by decide +kernel, ⟨_, rfl, ?_⟩⟩
  decide +kernel

theorem witness_Branches : (issuing fresh1).bare (sees fresh1) ∧ (sees fresh1).free (issuing fresh1) (maskName (5 : BitVec 3)) :=
  ⟨issuing_bare, free_of (by decide +kernel)⟩

/-- LOOPB at the last count and before it; JMPI, CALLI and RET to aligned addresses, and to one that is not in lane 31. -/
theorem witness_CallsAndLoops :
    let w : Warp := { fresh1 with regs := { fresh1.regs with fill := false, l := [(1, 1), (2, 2)], v := [(126 * 64 + 31, 6)] } }
    let s := issuing w
    let c := sees w
    s.bare c ∧ c.free s [.v 126 c.mask, .v 127 c.mask] ∧ c.uncaptured s [126, 127] ∧ c.free s [.l 1] ∧
    (c.readL s 1).toNat % 2 ^ 16 ≤ 1 ∧ 1 < (c.readL s 2).toNat % 2 ^ 16 ∧ c.w.validV 126 = true ∧ c.w.validV 127 = true ∧
    (∀ l ∈ lanesOf c.mask, (c.readV s 5 l ++ c.readV s 4 l).toNat % 4 = 0) ∧
    ((c.readV s 127 31 ++ c.readV s 126 31).toNat % 4 ≠ 0 ∧ ∀ k ∈ lanesOf c.mask, k < 31 → (c.readV s 127 k ++ c.readV s 126 k).toNat % 4 = 0) := by
  intro w s c
  refine ⟨⟨?_, rfl⟩, free_of ?_, uncaptured_of ?_, free_of ?_, ?_⟩
  all_goals decide +kernel

/-- JOIN of a register that no lane waits in, EXIT of lanes that are not the last, DRAIN with nothing outstanding. -/
theorem witness_RejoinAndExit :
    let w : Warp := { fresh1 with live := 0x1FFFFFFFF }
    let s := issuing w
    let c := sees w
    s.bare c ∧ c.w.hnd.on = false ∧ ((c.w.jreg 0).join c.mask c.pc).isSome = true ∧ c.w.live &&& ~~~c.mask ≠ 0 ∧ c.w.reports = [] ∧
    c.w.iss.outstanding = [] ∧ c.w.iss.status = [] ∧ c.free s [.s 4, .l 2] := by
  intro w s c
  refine ⟨⟨?_, rfl⟩, ?_, ?_, ?_, ?_, ?_, ?_, free_of ?_⟩
  all_goals decide +kernel

/-- A JOIN at a second address while the register waits. -/
theorem witness_RejoinAndExit_refused :
    let w : Warp := { fresh1 with regs := { fresh1.regs with j := [(0, { e := 3, a := 1, pc := 0x20000 })] } }
    ((w.jreg 0).join 2 0x10000) = none := by decide +kernel

theorem witness_SoftwareTraps : (issuing fresh1).bare (sees fresh1) ∧ ((issuing fresh1).ctx 0).held = false ∧
    (State.ctx { issuing fresh1 with ctxs := [(0, { held := true })] } 0).held = true ∧ fresh1.iss.skipBrk = false :=
  ⟨issuing_bare, by decide +kernel⟩

/-- A code object with a trap kernel at its 64th byte. -/
def handler1 : CodeObj :=
  { handle := 1, text := 0x20000, data := 0, interlock := false
    kernels := [{ entry := 64, vregs := 64, warps := 1, wide := false, gang := 0, weave := false, lanePorts := false, trap := true, scratch := 0 }] }

/-- The same with a context whose trap code object starts at 0x20000. -/
def handled (w : Warp) : State := { issuing w with
  ctxs := [(0, { d := { root := 0x1000, trapObj := 1 }
                 objs := [handler1] })] }

theorem witness_TrapEntry : (handled fresh1).cx = some (sees fresh1) ∧ (sees fresh1).w.busy = false ∧ fresh1.hnd.on = false ∧
    (handled fresh1).handlerPc 0 = some 0x20040 := by decide +kernel

/-- A warp in handler state, and one outside it. -/
def inHandler : Warp := { fresh1 with hnd := { on := true, epc := 0x10000, emask := 3, shadowS := [0, 1, 2, 3, 4, 5, 6, 7], shadowPart := 5 } }

theorem witness_HandlerReturn : (issuing inHandler).bare (sees inHandler) ∧ inHandler.hnd.on = true ∧ inHandler.busy = false ∧
    inHandler.hnd.shadowS.length = 8 ∧ fresh1.hnd.on = false := by
  refine ⟨⟨?_, rfl⟩, ?_⟩ <;> decide +kernel

theorem witness_FatalTrap : (issuing inHandler).cx = some (sees inHandler) ∧ inHandler.busy = false ∧ inHandler.hnd.on = true ∧
    (issuing fresh1).handlerPc 0 = none ∧ ((issuing inHandler).ctxs.get? 0).isSome = true ∧
    (State.freeRecord { issuing inHandler with ctxs := [(0, { d := { faultBase := 0x4000, faultN := 4 } })] } 0x4000 4 0) = some 0x4000 := by
  decide +kernel

/-! Vector words. -/

/-- Whether a vector word's checks pass, with what its lanes give. -/
def vecB (c : Cx) (s : State) (v : VOp) (outs : Prep → List (Nat × LaneOut)) : Bool :=
  match c.prep s v with
  | .error _ => false
  | .ok p =>
    okB (c.snan v p ((lanesOf p.act).map (c.sources s v p))) && okB (c.flagCheck p.fmode (orFlags ((outs p).map (fun q => q.2.fl)))) &&
      ((laneFlags (outs p)).isEmpty || !c.lstatBusy p.act)

theorem vec_of {c : Cx} {s : State} {v : VOp} {outs : Prep → List (Nat × LaneOut)} (h : vecB c s v outs = true) :
    ∃ p, c.VecOk s v p (outs p) := by
  unfold vecB at h
  split at h
  · cases h
  · rename_i p hp
    simp only [Bool.and_eq_true, Bool.or_eq_true, Bool.not_eq_true'] at h
    obtain ⟨⟨h1, h2⟩, h3⟩ := h
    obtain ⟨⟨⟩, h1⟩ := ok_of h1
    obtain ⟨⟨⟩, h2⟩ := ok_of h2
    exact ⟨p, ⟨hp, h1, h2, h3⟩⟩

/-- The premises of a vector word's rule, met by some resolved operands. -/
def Meets (c : Cx) (s : State) (v : VOp) (f : Prep → LaneIn → LaneOut) : Prop :=
  ∃ p, c.VecOk s v p (c.lanesOut s v p (f p))

theorem meets_of {c : Cx} {s : State} {v : VOp} {f : Prep → LaneIn → LaneOut}
    (h : vecB c s v (fun p => c.lanesOut s v p (f p)) = true) : Meets c s v f := vec_of h

/-- A warp whose unwritten V registers read as zero, with a prefix when one is given. -/
def zeroed (xp : Option FXp) : Warp :=
  { fresh1 with regs := { fresh1.regs with fill := false }
                iss := { fresh1.iss with grp := some { pc := 0x10000, here := 0x10004, mask := 0xFFFFFFFF, xp := xp, count := 1 } } }

/-- What a word of it sees. -/
def seesZ (xp : Option FXp) : Cx :=
  { uid := 1, w := zeroed xp, g := { pc := 0x10000, here := 0x10004, mask := 0xFFFFFFFF, xp := xp, count := 1 } }

/-- The prefix (mask=M1 zero sat c=V9). -/
def prefix1 : FXp := { sw := false, m := 1, z := true, r := 0, c := 9, e := true, t := true, x := 0, i := false, j := false, k := false, n := false, o := false }

theorem zeroed_issues : (issuing (zeroed none)).cx = some (seesZ none) ∧ (issuing (zeroed (some prefix1))).cx = some (seesZ (some prefix1)) := by
  decide +kernel

/-- The state and the word of the witnesses below. -/
abbrev sz : State := issuing (zeroed none)
abbrev cz : Cx := seesZ none
abbrev sx : State := issuing (zeroed (some prefix1))
abbrev cx1 : Cx := seesZ (some prefix1)

/-- IADD V3, V2, V4 plain, and IMAD V3, V2, V4 (mask=M1 zero sat c=V9). -/
theorem witness_IntegerWords :
    Meets cz sz (.dab ⟨false, 3, 2, 4⟩ (useInt true false true) false 4) (fun _ x => oneF x (x.a0 + x.b0, 0)) ∧
    Meets cx1 sx (.dab ⟨false, 3, 2, 4⟩ (useInt true true true) true 6) (fun _ x => oneF x (x.a0 * x.b0 + x.c, 0)) :=
  ⟨meets_of (by decide +kernel), meets_of (by decide +kernel)⟩

/-- BFI V3, V2, V4 and SHL.D V126, V2, V63. -/
theorem witness_BitAndImmediateWords :
    Meets cz sz { VOp.dab ⟨false, 3, 2, 4⟩ (useInt true true false) true 4 with d := some (3, 1), a := some (2, 1), b := some (4, 1) }
      (fun _ x => { ws := [x.c], rng := x.rng }) ∧
    Meets cz sz { VOp.dab ⟨false, 126, 2, 63⟩ (useInt true false false) false 4 with d := some (126, 2), a := some (2, 2), b := some (63, 1) }
      (fun _ x => { ws := pairWords (pairOf x.a <<< x.b0.toNat), rng := x.rng }) :=
  ⟨meets_of (by decide +kernel), meets_of (by decide +kernel)⟩

/-- FFMA V3, V2, V4. -/
theorem witness_FloatWords : Meets cz sz ((VOp.dab ⟨false, 3, 2, 4⟩ (useF true true true true true true) true 6).floats .f32 .f32)
    (fun p x => fone (fFma .f32 p.env x.rng x.a0.toNat x.b0.toNat x.c.toNat)) := meets_of (by decide +kernel)

/-- QADD.E4M3 V3, V2, V4. -/
theorem witness_PackedWords : Meets cz sz ((VOp.dab ⟨false, 3, 2, 4⟩ (useF true true false true true true) false 8).floats .e4m3 .e4m3)
    (fun p x => packed .e4m3 x (fun r a b _ => fAdd .e4m3 p.env r a b)) := meets_of (by decide +kernel)

/-- CMP.FLT M2, V2, V4. -/
theorem witness_CompareWords :
    let v : VOp := (VOp.ab ⟨false, 2, 2, 4⟩ { ixa := true, ixb := true, na := true, nb := true }).floats .f32 .f32
    let f : FEnv → LaneIn → Bool × Word := fun e x => fcmp true (fun x y un => !un && lessV x y) e x.a0 x.b0
    ∃ p, cz.VecOk sz { v with extra := [.m 2] } p ((cz.cmpOut sz v p f).map (fun q => (q.1, { ws := [], fl := q.2.2 }))) := by
  intro v f
  exact vec_of (c := cz) (s := sz) (v := { v with extra := [.m 2] })
    (outs := fun p => (cz.cmpOut sz v p f).map (fun q => (q.1, { ws := [], fl := q.2.2 }))) (by decide +kernel)

/-- The operands of SCVT.UP.E2M1 V124, V2, V4, #3, at the end of the register file. -/
theorem witness_ConversionWords : Meets cz sz
    { use := { ixd := true, ixa := true, ixb := true, rnd := true, sat := true }
      d := some (124, 4), a := some (2, 1), b := some (4, 1), crossB := true, fa := some .e2m1, float := true, lat := 6 }
    (fun p x =>
      let r := packLanes .bf16 (fun rng j => scaled .e2m1 .bf16 p.env rng (sub .e2m1 x.a0 j) (scaleOf 4 3 (fun l => cz.readV sz p.b l) x.lane)) 8 0 x.rng
      { ws := halfWords r.1, fl := r.2.1, rng := r.2.2 }) := meets_of (by decide +kernel)

/-- A warp of width 64, and what its word sees. -/
def wide1 : Warp := { fresh1 with id := { fresh1.id with wide := true }, live := 0xFFFFFFFFFFFFFFFF, ctl := { fresh1.ctl with part := 6 } }

theorem wide1_bare : (issuing wide1).bare (sees wide1) := ⟨by decide +kernel, rfl⟩

/-- Width 32 and width 64. -/
theorem witness_MaskWords : (issuing fresh1).bare (sees fresh1) ∧ (sees fresh1).free (issuing fresh1) [.m 7, .m 1, .m 2, .s 63] ∧
    (sees fresh1).w.id.wide = false ∧ (issuing wide1).bare (sees wide1) ∧ (sees wide1).w.id.wide = true ∧
    (sees wide1).free (issuing wide1) [.m 7, .s 62, .s 63] :=
  ⟨issuing_bare, free_of (by decide +kernel), rfl, wide1_bare, rfl, free_of (by decide +kernel)⟩

/-- SHFL.IDX V3, V2, V4, which reads lane 0 of every tile, and BALLOT V2, V5 at width 64. -/
theorem witness_LaneWords :
    (let v : VOp := { VOp.dab ⟨false, 3, 2, 4⟩ { ixd := true, ixa := true, ixb := true } false 8 with extra := [.part], crossA := true }
     Meets cz sz v (fun p x => match shflSrc (bits (cz.readPart sz).toNat 2 0) false x.lane (x.b0.toNat : Int) with
        | some l => one x (cz.readV sz p.a l)
        | none => { ws := [x.a0], fl := flXLB, rng := x.rng }) ∧ cz.free sz [.v 2 0xFFFFFFFF]) ∧
    (sees wide1).w.id.wide = true ∧ (2 : BitVec 7).toNat % 2 = 0 :=
  ⟨⟨meets_of (by decide +kernel), free_of (by decide +kernel)⟩, rfl, rfl⟩

theorem witness_ScalarWords : (issuing fresh1).bare (sees fresh1) ∧ (sees fresh1).free (issuing fresh1) ([62, 63, 0, 1, 2, 3].map RegName.s) :=
  ⟨issuing_bare, free_of (by decide +kernel)⟩

/-! Moves, codebooks and keys. -/

/-- Whether an operation succeeds with a given answer. -/
def okIs {α : Type} [DecidableEq α] (r : Except Stop α) (a : α) : Bool :=
  match r with
  | .ok b => decide (b = a)
  | .error _ => false

theorem is_of {α : Type} [DecidableEq α] {r : Except Stop α} {a : α} (h : okIs r a = true) : r = .ok a := by
  cases r with
  | ok b => simpa [okIs] using h
  | error e => cases h

theorem ok3_of {α β γ : Type} {r : Except Stop (α × β × γ)} (h : okB r = true) : ∃ a b c, r = .ok (a, b, c) := by
  obtain ⟨⟨a, b, c⟩, h⟩ := ok_of h; exact ⟨a, b, c, h⟩

theorem ok2_of {α β : Type} {r : Except Stop (α × β)} (h : okB r = true) : ∃ a b, r = .ok (a, b) := by
  obtain ⟨⟨a, b⟩, h⟩ := ok_of h; exact ⟨a, b, h⟩

/-- The warp with given S registers. -/
def withS (l : KMap Word) : Warp := { zeroed none with regs := { (zeroed none).regs with s := l } }

/-- What its word sees. -/
def seesS (l : KMap Word) : Cx := { seesZ none with w := withS l }

/-- MOVV V3, V2; MTC of PART with 5 and with 7; XSET with its zero bits zero and not. -/
theorem witness_MoveWords : Meets cz sz (.da 3 2 { ixd := true, ixa := true } 2) (fun _ x => one x x.a0) ∧ cz.neutral ∧
    cz.free sz [.s 4, .part] ∧ partOk false 5 = true ∧ partOk false 7 ≠ true ∧ fmodeOk 0x81 = true ∧ cz.free sz [.s 5, .x 3, .l 2] ∧
    (0x8018100F : Word) &&& 0x7F000000 = 0 ∧ (0x01000000 : Word) &&& 0x7F000000 ≠ 0 ∧
    ({ m := false, z := false, ixa := true : XpUse }).ok cz.xp = true ∧ okIs (cz.resolve 1 cz.mask none 9 1) 9 = true ∧
    cz.free sz [.v 9 (laneBit 31), .s 3] :=
  ⟨meets_of (by decide +kernel), (by show _ = true; decide +kernel), free_of (by decide +kernel), by decide +kernel, by decide +kernel, by decide +kernel,
    free_of (by decide +kernel), by decide +kernel, by decide +kernel, by decide +kernel, by decide +kernel, free_of (by decide +kernel)⟩

/-- A warp whose X0 indexes registers 8 to 127 from 8, with 40 V registers, so that index 128 fails. -/
theorem witness_IndexedRegisterWords :
    let w : Warp := { zeroed none with regs := { (zeroed none).regs with x := [(0, 0x80800008)], v := [(2 * 64 + 5, 200)] } }
    let s := issuing w
    let c : Cx := { seesZ none with w := w }
    s.cx = some c ∧
    okB (c.prep s { use := { xsel := true }, d := some (3, 1), a := some (4, 1), extra := [.x 0] }) = true ∧
    (∀ i ∈ lanesOf c.mask, (c.dynReg (c.readX s 0) (c.readV s 4 i)).2 = false) ∧
    (∃ l, (lanesOf c.mask).filter (fun i => (c.dynReg (c.readX s 0) (c.readV s 2 i)).2) = 5 :: l) ∧
    okB (c.prep s { use := { z := false, xsel := true }, a := some (4, 1), b := some (5, 1), extra := [.x 0] }) = true ∧
    c.free s ((lanesOf c.mask).map (fun i => .v 8 (laneBit i))) := by
  intro w s c
  refine ⟨?_, ?_, ?_, ⟨[], ?_⟩, ?_, free_of ?_⟩ <;> decide +kernel

/-- LQDEC V3, V2, V4 and LQTBL V2, V4. -/
theorem witness_CodebookWords :
    Meets cz sz { VOp.dab ⟨false, 3, 2, 4⟩ { ixd := true, ixa := true, ixb := true } false 8 with extra := [.table] }
      (fun _ x =>
        let h (j : Nat) : Nat := (lqRound .bf16 {} 0 (lqWeight (cz.magEntry sz) x.a0 j) 0).v
        let n := x.b0.toNat % 16
        { ws := if n < 8 then [BitVec.ofNat 32 (h (2 * n) + 65536 * h (2 * n + 1))] else [BitVec.ofNat 32 (Config.pick sz.tick (6000 + x.lane))]
          rng := x.rng }) ∧
    ∃ p, cz.prep sz { use := { z := false }, a := some (2, 1), b := some (4, 1), extra := [.table] } = .ok p :=
  ⟨meets_of (by decide +kernel), ok_of (by decide +kernel)⟩

/-- KSCOPE with a code and with one that names no scope; keys that can be consumed, forked and joined. -/
theorem witness_KeyWords : sz.bare cz ∧ scopeOfCode 5 = some .sys ∧ (cz.w.key 3).drained = true ∧ cz.free sz [.kdef] ∧
    (∃ d s1, cz.consume sz 14 = .ok (d, s1) ∧ s1.depOk cz.uid d = true ∧ (s1.warp cz.uid).due (cz.w.covers 14) = none) ∧
    (∃ da wa db wb d w, cz.w.consume (sz.lates 1) 1 = some (da, wa) ∧ wa.consume (sz.lates 1) 2 = some (db, wb) ∧
      wb.merge (sz.lates 1) da db = some (d, w)) ∧
    cz.w.due (fun r => cz.w.covers 15 r) = none ∧ cz.free sz [.s 63] := by
  have h : (match cz.consume sz 14 with | .ok (d, s1) => s1.depOk cz.uid d && (s1.warp cz.uid).due (cz.w.covers 14) == none | .error _ => false) = true := by
    decide +kernel
  have h2 : (match cz.w.consume (sz.lates 1) 1 with
      | some (da, wa) => (match wa.consume (sz.lates 1) 2 with | some (db, wb) => (wb.merge (sz.lates 1) da db).isSome | none => false)
      | none => false) = true := by decide +kernel
  refine ⟨⟨by decide +kernel, rfl⟩, rfl, by decide +kernel, free_of (by decide +kernel), ?_, ?_, by decide +kernel, free_of (by decide +kernel)⟩
  · split at h
    · rename_i d s1 he
      simp only [Bool.and_eq_true, beq_iff_eq] at h
      exact ⟨d, s1, he, h⟩
    · cases h
  · split at h2
    · rename_i da wa ha
      split at h2
      · rename_i db wb hb
        obtain ⟨⟨d, w⟩, hm⟩ := Option.isSome_iff_exists.mp h2
        exact ⟨da, wa, db, wb, d, w, ha, hb, hm⟩
      · cases h2
    · cases h2

/-- Key 1 with one member and an inherited dependence of key 2 (R171): a KWAIT of it waits. -/
theorem witness_KeyWords_parks :
    let k : Key := { ring := [{ st := .opened, members := 1 }, {}, {}, {}] }
    let w : Warp := { zeroed none with kf := { (zeroed none).kf with keys := setAt (zeroed none).kf.keys 1 k } }
    let s := issuing w
    ∃ d s1, Cx.consume { seesZ none with w := w } s 1 = .ok (d, s1) ∧ s1.depOk 1 d = false := by
  intro k w s
  have h : (match Cx.consume { seesZ none with w := w } s 1 with | .ok (d, s1) => !(s1.depOk 1 d) | .error _ => false) = true := by decide +kernel
  split at h
  · rename_i d s1 he; exact ⟨d, s1, he, by simpa using h⟩
  · cases h

/-- A send queue with room and a full one; claims with room and full; the largest S number. -/
theorem witness_ChimeWords : sz.bare cz ∧ (61 : BitVec 6).toNat ≤ 61 ∧ cz.free sz [.s 61, .s 62, .s 63] ∧ cz.w.kf.sendq.length < 4 ∧
    (∃ d m s1, cz.keys sz 1 2 = .ok (d, m, s1)) ∧ 61 < (62 : BitVec 6).toNat ∧ cz.w.kf.claims.length < 8 ∧
    (∃ m s1, cz.produce sz 3 true = .ok (m, s1)) ∧
    (let k : Chime := { uid := 1, ctx := 0, target := 0, grid := 1, tag := 0, sender := 0 }
     let w : Warp := { zeroed none with kf := { (zeroed none).kf with sendq := [k, k, k, k], claims := List.replicate 8 { id := 0, sd := 0 } } }
     (issuing w).bare { seesZ none with w := w } ∧ 4 ≤ w.kf.sendq.length ∧ 8 ≤ w.kf.claims.length) :=
  ⟨⟨by decide +kernel, rfl⟩, by decide, free_of (by decide +kernel), by decide, ok3_of (by decide +kernel), by decide, by decide,
    ok2_of (by decide +kernel), ⟨by decide +kernel, rfl⟩, by decide, by decide⟩

/-- A key at launch, and one whose OPEN generation has a member. -/
theorem witness_SealedGenerations : ((({} : Key)).ring.length = 4 ∧ ((({} : Key)).ring.filter (fun g => g.st == .opened)).length = 1 ∧
      (({} : Key)).seal.isSome = true ∧ ({} : Key).open1.2.members = 0) ∧
    (let x : Key := { ring := [{ st := .opened, members := 1 }, {}, {}, {}] }
     (x.ring.filter (fun g => g.st == .opened)).length = 1 ∧ x.seal.isSome = true ∧ x.open1.2.members ≠ 0) := by decide +kernel

/-! Memory words. -/

/-- A warp whose unwritten V registers read as zero, between HOFS and the word. -/
def offset (ofs : Addr) (v : KMap Word) : Warp :=
  { fresh1 with regs := { fresh1.regs with fill := false, v := v }
                iss := { fresh1.iss with grp := some { pc := 0x10000, here := 0x10004, mask := 0xFFFFFFFF, ofs := ofs, count := 1 } } }

/-- What its word sees. -/
def seesO (ofs : Addr) (v : KMap Word) : Cx :=
  { uid := 1, w := offset ofs v, g := { pc := 0x10000, here := 0x10004, mask := 0xFFFFFFFF, ofs := ofs, count := 1 } }

/-- The state with that warp in a team with 8 KiB of near space and handle 0 bound, in a context with tiles, counters and
combine buffers. -/
def rich (w : Warp) : State := { issuing w with
  teams := [(1, { grid := 1, core := some 0, warps := [1], threads := 32, size := 0x2000
                  handles := [(0, { bound := true, base := 0x1000, size := 0x2000 })] })]
  ctxs := [(0, { d := { root := 0x1000 }, tileMask := [(0, 0x7FFF)], rcMask := [(0, 0xFFFF)], creelMask := [(0, 1)] })] }

theorem bare_of {s : State} {c : Cx} (h : s.cx = some c) (hx : c.g.xp = none) : s.bare c := ⟨h, hx⟩

/-- Near space at its first byte, and device memory at 0x20000. -/
abbrev sn : State := rich (offset 0x1000 [])
abbrev cn : Cx := seesO 0x1000 []
abbrev sg : State := rich (offset 0x20000 [])
abbrev cg : Cx := seesO 0x20000 []

/-- The outcome of an operation that succeeds. -/
def got {α : Type} (r : Except Stop α) (d : α) : α :=
  match r with
  | .ok a => a
  | .error _ => d

theorem got_of {α : Type} {r : Except Stop α} (d : α) (h : okB r = true) : r = .ok (got r d) := by
  cases r with
  | ok a => rfl
  | error e => cases h

/-- Whether an operation may be set going. -/
def roomB (s : State) (c : Cx) (o : Op) : Bool :=
  o.units.all (fun u => !s.creditless o.ctx u.tgt) && (!o.near || !s.canEnter s.fresh o || s.portRoom o) &&
    (o.kind.reads || s.depOk c.uid o.dep || (s.tickets c.uid).any o.dep.same || decide ((s.tickets c.uid).length < 16))

theorem room_of {s : State} {c : Cx} {o : Op} (h : roomB s c o = true) : s.room c o := by
  simp only [roomB, Bool.and_eq_true, Bool.or_eq_true, List.all_eq_true, Bool.not_eq_true', decide_eq_true_eq] at h
  obtain ⟨⟨h1, h2⟩, h3⟩ := h
  refine ⟨h1, fun a b => ?_, by tauto⟩
  rcases h2 with (h | h) | h
  · rw [a] at h; cases h
  · rw [b] at h; cases h
  · exact h

/-- What the checks pass. -/
abbrev Lanes1 := List (Nat × Addr × Target)

/-- Whether the checks of a memory word's lanes pass for some lanes, its keys can be had, and its operation has room. -/
def passes (c : Cx) (s : State) (a : Access) (glob : Bool) (kc kp n : Nat) (l : List (Nat × Addr × LaneR))
    (op : Lanes1 → Dep → Nat → State → Op) : Bool :=
  match c.check s a kp n l, c.keys s kc kp with
  | .ok oks, .ok (d, m, s1) => !oks.isEmpty && roomB (c.settleLanes s1 glob oks) c (op oks d m s1)
  | _, _ => false

theorem lanes_of {c : Cx} {s : State} {a : Access} {glob : Bool} {n kp kc : Nat} {l : List (Nat × Addr × LaneR)}
    {op : Lanes1 → Dep → Nat → State → Op} (h : passes c s a glob kc kp n l op = true) :
    ∃ oks dep m s1, c.check s a kp n l = .ok oks ∧ oks ≠ [] ∧
      c.keys s kc kp = .ok (dep, m, s1) ∧ (c.settleLanes s1 glob oks).room c (op oks dep m s1) := by
  unfold passes at h
  split at h
  · rename_i oks dep m s1 h1 h2
    simp only [Bool.and_eq_true] at h
    exact ⟨oks, dep, m, s1, h1, by simpa using h.1, h2, room_of h.2⟩
  · cases h

/-- A load's operation, as the rule of loads writes it. -/
def loadOp (c : Cx) (near signed : Bool) (d n kc kp : Nat) (oks : Lanes1) (dep : Dep) (m : Nat) (s1 : State) : Op :=
  { uid := c.uid, ctx := c.ctx, core := c.core, team := c.w.id.team, kind := .load signed, d := d, lanes := c.mask
    word := s1.word, mem := some m, key := kp, kc := kc, near := near
    seq := ((s1.warp c.uid).key kp).seq, dep := dep, bypass := c.wide kc, cache := c.g.cache
    units := oks.flatMap (fun p => unitsOf p.1 n p.2.1 p.2.2 []) }

/-- A store's operation of registers from `d`, as the rule of stores writes it. -/
def storeOp (c : Cx) (s : State) (near : Bool) (d n kc kp : Nat) (oks : Lanes1) (dep : Dep) (m : Nat) (s1 : State) : Op :=
  { c.op s1 .store kc kp dep m with
    near := near
    units := highestWins (oks.flatMap (fun p => unitsOf p.1 n p.2.1 p.2.2
      ((bytesOfWords ((List.range' d ((n + 3) / 4)).map (fun r => c.readV s r p.1))).take n))) }

/-- LDN.B128 V124 at the end of the registers and of the allocation, and LD.I8. -/
theorem witness_LoadWords :
    (sn.bare cn ∧ cn.resolve 0 cn.mask none 124 4 = .ok 124 ∧ cn.resolve 1 cn.mask none 2 1 = .ok 2 ∧
      cn.free sn (vNames 2 1 cn.mask ++ vNames 124 4 cn.mask) ∧ cn.uncaptured sn (List.range' 124 4) ∧
      ∃ oks dep m s1, cn.check sn .load 3 16 (cn.nearLanes sn 16 (cn.addresses sn true 2)) = .ok oks ∧ oks ≠ [] ∧
        cn.keys sn 1 3 = .ok (dep, m, s1) ∧ (cn.settleLanes s1 false oks).room cn (loadOp cn true false 124 16 1 3 oks dep m s1)) ∧
    (sg.bare cg ∧ cg.resolve 0 cg.mask none 127 1 = .ok 127 ∧ cg.resolve 1 cg.mask none 2 2 = .ok 2 ∧
      cg.free sg (vNames 2 2 cg.mask ++ vNames 127 1 cg.mask) ∧ cg.uncaptured sg (List.range' 127 1) ∧
      ∃ oks dep m s1, cg.check sg .load 14 1 (cg.globalLanes sg .load 1 (cg.addresses sg false 2)) = .ok oks ∧ oks ≠ [] ∧
        cg.keys sg 15 14 = .ok (dep, m, s1) ∧ (cg.settleLanes s1 true oks).room cg (loadOp cg false true 127 1 15 14 oks dep m s1)) :=
  ⟨⟨bare_of (by decide +kernel) rfl, is_of (by decide +kernel), is_of (by decide +kernel), free_of (by decide +kernel),
      uncaptured_of (by decide +kernel), lanes_of (by decide +kernel)⟩,
    ⟨bare_of (by decide +kernel) rfl, is_of (by decide +kernel), is_of (by decide +kernel), free_of (by decide +kernel),
      uncaptured_of (by decide +kernel), lanes_of (by decide +kernel)⟩⟩

/-- ST.B128 and STN.B8. -/
theorem witness_StoreAndAtomicWords :
    (sg.bare cg ∧ cg.resolve 0 cg.mask none 124 4 = .ok 124 ∧ cg.resolve 1 cg.mask none 2 2 = .ok 2 ∧
      cg.free sg (vNames 2 2 cg.mask ++ vNames 124 4 cg.mask) ∧
      ∃ oks dep m s1, cg.check sg .store 3 16 (cg.lanes sg false .store 16 (cg.addresses sg false 2)) = .ok oks ∧ oks ≠ [] ∧
        cg.keys sg 1 3 = .ok (dep, m, s1) ∧ (cg.settleLanes s1 true oks).room cg (storeOp cg sg false 124 16 1 3 oks dep m s1)) ∧
    (sn.bare cn ∧ cn.resolve 0 cn.mask none 5 1 = .ok 5 ∧ cn.resolve 1 cn.mask none 2 1 = .ok 2 ∧
      cn.free sn (vNames 2 1 cn.mask ++ vNames 5 1 cn.mask) ∧
      ∃ oks dep m s1, cn.check sn .store 3 1 (cn.lanes sn true .store 1 (cn.addresses sn true 2)) = .ok oks ∧ oks ≠ [] ∧
        cn.keys sn 1 3 = .ok (dep, m, s1) ∧ (cn.settleLanes s1 false oks).room cn (storeOp cn sn true 5 1 1 3 oks dep m s1)) :=
  ⟨⟨bare_of (by decide +kernel) rfl, is_of (by decide +kernel), is_of (by decide +kernel), free_of (by decide +kernel),
      lanes_of (by decide +kernel)⟩,
    ⟨bare_of (by decide +kernel) rfl, is_of (by decide +kernel), is_of (by decide +kernel), free_of (by decide +kernel),
      lanes_of (by decide +kernel)⟩⟩

/-- The keys of KDEF. -/
abbrev kcOf (c : Cx) (s : State) : Nat := (c.readKdef s).toNat % 16
abbrev kpOf (c : Cx) (s : State) : Nat := (c.readKdef s).toNat / 16 % 16

/-- ATOM.CAS64. -/
theorem witness_StoreAndAtomicWords_atomic :
    cg.resolve 0 cg.mask none 126 2 = .ok 126 ∧ cg.resolve 1 cg.mask none 2 2 = .ok 2 ∧ cg.resolve 2 cg.mask none 8 4 = .ok 8 ∧
    cg.free sg (vNames 2 2 cg.mask ++ vNames 8 4 cg.mask ++ vNames 126 2 cg.mask ++ [.kdef]) ∧ cg.uncaptured sg (List.range' 126 2) ∧
    ∃ oks dep m s1, cg.check sg .atomic (kpOf cg sg) 8 (cg.lanes sg false .atomic 8 (cg.addresses sg false 2)) = .ok oks ∧
      oks ≠ [] ∧ cg.keys sg (kcOf cg sg) (kpOf cg sg) = .ok (dep, m, s1) ∧
      (cg.settleLanes s1 true oks).room cg { cg.op s1 (.atomic 14) (kcOf cg sg) (kpOf cg sg) dep m with
        d := 126, near := false
        units := oks.map (fun p => { lane := p.1, tgt := p.2.2, size := 8, va := p.2.1
                                     data := bytesOfWords ((List.range' 8 4).map (fun r => cg.readV sg r p.1)) }) } :=
  ⟨is_of (by decide +kernel), is_of (by decide +kernel), is_of (by decide +kernel), free_of (by decide +kernel),
    uncaptured_of (by decide +kernel), lanes_of (op := fun oks dep m s1 => { cg.op s1 (.atomic 14) (kcOf cg sg) (kpOf cg sg) dep m with
        d := 126, near := false
        units := oks.map (fun p => { lane := p.1, tgt := p.2.2, size := 8, va := p.2.1
                                     data := bytesOfWords ((List.range' 8 4).map (fun r => cg.readV sg r p.1)) }) })
      (by decide +kernel)⟩

/-- Where a lane's near address lies. -/
def posOf (c : Cx) (s : State) (l : Nat) : Nat × Nat :=
  match (c.addresses s true 2).find? (fun p => p.1 == l) with
  | none => (0, 0)
  | some p =>
    match s.nearAt c.w.id.team (p.2.setWidth 32) with
    | .at t k => (t, k)
    | _ => (0, 0)

/-- LDN.PRES's operation. -/
def presOp (dep : Dep) (m : Nat) (s1 : State) : Op :=
  { cn.op s1 .pres 1 2 dep m with
    d := 3, near := true
    units := (cn.addresses sn true 2).map (fun p =>
      { lane := p.1, tgt := .near (posOf cn sn p.1).1 (posOf cn sn p.1).2, size := 1, va := p.2 }) }

theorem witness_LineWords_pres :
    sn.bare cn ∧ cn.resolve 0 cn.mask none 3 1 = .ok 3 ∧ cn.resolve 1 cn.mask none 2 1 = .ok 2 ∧
    cn.free sn [.v 2 cn.mask, .v 3 cn.mask] ∧ cn.uncaptured sn [3] ∧
    (∀ p ∈ cn.addresses sn true 2, sn.nearAt cn.w.id.team (p.2.setWidth 32) = .at (posOf cn sn p.1).1 (posOf cn sn p.1).2 ∧
      (sn.team (posOf cn sn p.1).1).zone (posOf cn sn p.1).2 1 = .alloc) ∧
    ∃ dep m s1, cn.keys sn 1 2 = .ok (dep, m, s1) ∧ s1.room cn (presOp dep m s1) := by
  refine ⟨bare_of (by decide +kernel) rfl, is_of (by decide +kernel), is_of (by decide +kernel), free_of (by decide +kernel),
    uncaptured_of (by decide +kernel), ?_, ?_⟩
  · have h : (cn.addresses sn true 2).all (fun p => match sn.nearAt cn.w.id.team (p.2.setWidth 32) with
      | .at t k => decide (posOf cn sn p.1 = (t, k) ∧ (sn.team t).zone k 1 = .alloc) | _ => false) = true := by decide +kernel
    intro p hp
    have := List.all_eq_true.mp h p hp
    split at this
    · rename_i t k he
      simp only [decide_eq_true_eq] at this
      rw [this.1]
      exact ⟨he, this.2⟩
    · cases this
  · have h : (match cn.keys sn 1 2 with
      | .ok (dep, m, s1) => roomB s1 cn (presOp dep m s1)
      | .error _ => false) = true := by decide +kernel
    split at h
    · rename_i dep m s1 he; exact ⟨dep, m, s1, he, room_of h⟩
    · cases h

/-- SLICE.LDL, SLICE.REDL.I32 and SLICE.REDL.ALN. -/
theorem witness_LineWords :
    cg.resolve 0 cg.mask none 3 1 = .ok 3 ∧ cg.resolve 1 cg.mask none 2 2 = .ok 2 ∧ cg.resolve 2 cg.mask none 4 1 = .ok 4 ∧
    cg.free sg (vNames 2 2 (laneBit cg.lane) ++ [.v 3 cg.mask, .kdef]) ∧ cg.uncaptured sg [3] ∧
    cg.free sg (vNames 2 2 cg.mask ++ [.v 4 cg.mask, .kdef]) ∧ cg.free sg ([.v 3 cg.mask] ++ vNames 2 2 cg.mask ++ [.v 4 cg.mask, .kdef]) ∧
    (passes cg sg .atomic true (kcOf cg sg) (kpOf cg sg) 128
      (cg.sliceLanes sg .atomic [(cg.lane, (cg.readV sg 3 cg.lane ++ cg.readV sg 2 cg.lane) + cg.g.ofs)])
      (fun oks dep m s1 => { cg.op s1 (.ldl 0) (kcOf cg sg) (kpOf cg sg) dep m with
        d := 3, bypass := true, units := oks.flatMap (fun q => unitsOf q.1 128 q.2.1 q.2.2 []) })) = true ∧
    (passes cg sg .store true (kcOf cg sg) (kpOf cg sg) 4 (cg.sliceLanes sg .store (cg.addresses sg false 2))
      (fun oks dep m s1 => { cg.op s1 .redI (kcOf cg sg) (kpOf cg sg) dep m with
        units := oks.map (fun p => { lane := p.1, tgt := p.2.2, size := 4, va := p.2.1, data := bytesOfWords [cg.readV sg 4 p.1] }) })) = true ∧
    (passes cg sg .store true (kcOf cg sg) (kpOf cg sg) 4 (cg.sliceLanes sg .store (cg.addresses sg false 2))
      (fun oks dep m s1 => { cg.op s1 .redA (kcOf cg sg) (kpOf cg sg) dep m with
        units := oks.map (fun p => { lane := p.1, tgt := p.2.2, size := 4, va := p.2.1, data := bytesOfWords [cg.readV sg 4 p.1]
                                     data2 := bytesOfWords [cg.readV sg 3 p.1] }) })) = true :=
  ⟨is_of (by decide +kernel), is_of (by decide +kernel), is_of (by decide +kernel), free_of (by decide +kernel),
    uncaptured_of (by decide +kernel), free_of (by decide +kernel), free_of (by decide +kernel), by decide +kernel, by decide +kernel,
    by decide +kernel⟩

/-- SLICE.CSTM of all four entries, and of none. -/
theorem witness_LineWords_cstm : [[0, 1, 2, 3], []].all (fun ks =>
      match cn.check sn .atomic (kpOf cn sn) 128 (cn.blockLanes sn cn.lane (cn.readV sn 2 cn.lane + cn.g.ofs.setWidth 32) ks),
        cn.keys sn (kcOf cn sn) (kpOf cn sn) with
      | .ok oks, .ok (_, _, s1) => !sn.ownAtomic cn.uid cn.lane ((oks.drop 1).map (fun q => { lane := cn.lane, tgt := q.2.2, size := 128 })) &&
          decide (((cn.settleLanes s1 false (oks.drop 1)).tickets cn.uid).length < 16)
      | _, _ => false) = true ∧
    cn.free sn [.v 2 (laneBit cn.lane), .v 3 cn.mask, .kdef] :=
  ⟨by decide +kernel, free_of (by decide +kernel)⟩

/-! The Weave, copies and the matrix engine. -/

/-- Two teams of a weave grid of two by one by one, whose warps are 1 and 2; warp 1's port E and warp 2's port W as given. -/
def weave (e w : Port) : State :=
  let a : Warp := { zeroed none with id := { fresh1.id with weave := some 0 }, regs := { (zeroed none).regs with s := [(5, 32)] }
                                     ports := setAt fresh1.ports 4 e }
  let b : Warp := { a with id := { a.id with team := 2, place := some 64, weave := some 1 }, ports := setAt fresh1.ports 5 w }
  { issuing a with
    warps := [(1, a), (2, b)]
    grids := [(gridKey 0 1, { id := 1, placed := 2, desc := { words := [0, 0, 0x10002, 1] } })]
    teams := [(1, { grid := 1, core := some 0, warps := [1], threads := 32 }), (2, { grid := 1, index := 1, core := some 1, warps := [2], threads := 32 })] }

/-- What warp 1's word sees there. -/
def seesW (s : State) : Cx := (s.cx).getD cz

/-- A connected port, and the same with a visible value in every lane's queue, and the last place of a full queue. -/
def joined (t : Word) : Port := { st := .connected, target := t }
def stocked (t : Word) (n : Nat) : Port :=
  { joined t with queue := (List.range 32).map (fun l => (l, List.replicate n { tx := 0, val := 7, vis := true })) }

abbrev sw1 : State := weave (joined 32) (stocked 0 15)
abbrev sw2 : State := weave (stocked 32 1) (joined 0)
abbrev sw3 : State := weave {} {}

/-- PUSH to a queue with one place left; POP and PPEEK of one value, and of none; an unbound port. -/
theorem witness_PushAndPop :
    (let c := seesW sw1
     sw1.bare c ∧ lanesOf c.mask ≠ [] ∧ (sw1.core c.core).replay = none ∧ c.resolve 1 c.mask none 3 1 = .ok 3 ∧ c.free sw1 [.v 3 c.mask] ∧
     (c.w.port 4).st = .connected ∧ (sw1.peerOf c.w (c.w.port 4)).map Prod.fst = some 2 ∧
     (∀ l ∈ lanesOf c.mask, (((sw1.warp 2).port (oppPort 4)).lane l).length < portCap 4) ∧
     (∃ d s1, c.consume sw1 1 = .ok (d, s1) ∧ oppPort 4 < (s1.warp 2).ports.length) ∧
     (∃ l ∈ lanesOf c.mask, (c.w.port 4).ready l = 0)) ∧
    (let c := seesW sw2
     sw2.bare c ∧ c.free sw2 [.v 3 c.mask] ∧ c.uncaptured sw2 [3] ∧ c.w.portSt 4 = .connected ∧ 4 < c.w.ports.length ∧
     ∀ l ∈ lanesOf c.mask, 0 < (c.w.port 4).ready l) ∧
    (let c := seesW sw3
     sw3.bare c ∧ c.w.portSt 0 = .unbound ∧ c.free sw3 [.v 3 c.mask, .part]) := by
  refine ⟨⟨bare_of (by decide +kernel) rfl, by decide +kernel, by decide +kernel, is_of (by decide +kernel), free_of (by decide +kernel),
      by decide +kernel, by decide +kernel, by decide +kernel, ?_, ⟨0, by decide +kernel, by decide +kernel⟩⟩,
    ⟨bare_of (by decide +kernel) rfl, free_of (by decide +kernel), uncaptured_of (by decide +kernel), by decide +kernel, by decide +kernel,
      by decide +kernel⟩, ⟨bare_of (by decide +kernel) rfl, by decide +kernel, free_of (by decide +kernel)⟩⟩
  have h : (match (seesW sw1).consume sw1 1 with | .ok (_, s1) => decide (oppPort 4 < (s1.warp 2).ports.length) | .error _ => false) = true := by
    decide +kernel
  split at h
  · rename_i d s1 he; exact ⟨d, s1, he, by simpa using h⟩
  · cases h

/-- A binding that reaches (S5 names team 1, warp 0), one that does not (S6 names its own team), and unbinding in each state. -/
theorem witness_PortBinding :
    (let c := seesW sw3
     sw3.bare c ∧ c.free sw3 [.s 5, .s 6] ∧ c.w.id.weave.isSome = true ∧ (c.readS sw3 5) >>> 21 = 0 ∧
     (sw3.grid c.ctx c.w.id.grid).reach (sw3.teamIndex c.w) 4 = some ((c.readS sw3 5).toNat / 32 % 2 ^ 16) ∧
     (sw3.teamOf c.ctx c.w.id.grid 1).map (fun p => (sw3.warpIn p.2 ((c.readS sw3 5).toNat % 32)).isSome) = some true ∧
     (sw3.grid c.ctx c.w.id.grid).reach (sw3.teamIndex c.w) 4 ≠ some ((c.readS sw3 6).toNat / 32 % 2 ^ 16) ∧
     (c.w.port 4).st = .unbound ∧ c.free sw3 [.v 3 c.mask] ∧ c.uncaptured sw3 [3] ∧ lanesOf c.mask ≠ []) ∧
    (let c := seesW sw1
     sw1.bare c ∧ (c.w.port 4).st = .connected ∧ sw1.pushesDone c.uid 4 = true ∧
     State.pushesDone { sw1 with txs := [(9, { uid := 1, port := 4, tgt := 2, tport := 5, lanes := [0] })] } c.uid 4 = false) ∧
    (∀ st ∈ [PortSt.waiting, .orphaned], let s := weave { joined 32 with st := st } {}
      s.bare (seesW s) ∧ ((seesW s).w.port 4).st = st) := by
  have self : sw3.bare (seesW sw3) ∧ (seesW sw3).free sw3 [.s 5, .s 6] ∧ (seesW sw3).free sw3 [.v 3 (seesW sw3).mask] ∧
      (seesW sw3).uncaptured sw3 [3] :=
    ⟨bare_of (by decide +kernel) rfl, free_of (by decide +kernel), free_of (by decide +kernel), uncaptured_of (by decide +kernel)⟩
  refine ⟨⟨self.1, self.2.1, by decide +kernel, by decide +kernel, by decide +kernel,
      by decide +kernel, by decide +kernel, by decide +kernel, self.2.2.1, self.2.2.2, by decide +kernel⟩,
    ⟨bare_of (by decide +kernel) rfl, by decide +kernel, by decide +kernel, by decide +kernel⟩, ?_⟩
  intro st h
  simp only [List.mem_cons, List.not_mem_nil, or_false] at h
  rcases h with rfl | rfl <;> exact ⟨bare_of (by decide +kernel) rfl, by decide +kernel⟩

/-- A warp of `rich` with S registers and V registers of lane 0. -/
def richW (l v : KMap Word) : Warp := { zeroed none with regs := { (zeroed none).regs with s := l, v := v } }
def seesR (l v : KMap Word) : Cx := { seesZ none with w := richW l v }

/-- S4 holds the record at the last place of the allocation; S6 names counter 15 and S5 counter 16, not allotted. -/
abbrev rs : KMap Word := [(4, 0x10FC0), (5, 16), (6, 15), (7, 1)]
abbrev sc : State := rich (richW rs [])
abbrev cc : Cx := seesR rs []

/-- A copy of V3 by lane 0. -/
def copy1 : Copy := { uid := 1, ctx := 0, core := 0, team := 1, lane := 0, v := 3, rc := [] }

theorem witness_CopyWords :
    sc.bare cc ∧ cc.resolve 0 cc.mask none 3 1 = .ok 3 ∧ cc.free sc [.v 3 (laneBit cc.lane), .s 4, .s 6, .s 7] ∧
    cc.bWrites sc [3] (laneBit cc.lane) = .ok () ∧ (sc.copies.filter (fun kv => kv.2.uid == cc.uid)).length < 16 ∧
    sc.copyContexts (cc.core / 4) < 32 ∧ sc.triggerSlots (cc.core / 4) < 64 ∧ (∃ words, cc.nearRecord sc (cc.readS sc 4) 64 = .ok words) ∧
    okB (cc.keys sc 1 2) = true ∧ sc.rcOk cc.ctx cc.core (cc.readS sc 6).toNat = true ∧ sc.rcOk cc.ctx cc.core (cc.readS sc 5).toNat = false ∧
    (∃ id s1, cc.request sc .rcArm 3 1 2 [15, 1] = .ok (id, s1)) ∧ (∃ id s1, cc.request sc .rcWait 3 1 2 [15] = .ok (id, s1)) ∧
    cc.free sc [.v 3 cc.mask, .s 5, .s 6] ∧ cc.uncaptured sc [3] ∧
    sc.copies.find? (fun kv => kv.2.uid == cc.uid && kv.2.v == 3 && kv.2.lane == cc.lane) = none ∧
    (let s : State := { sc with copies := List.replicate 16 (2, copy1) }
     s.bare cc ∧ 16 ≤ (s.copies.filter (fun kv => kv.2.uid == cc.uid)).length ∧
     (s.copies.find? (fun kv => kv.2.uid == cc.uid && kv.2.v == 3 && kv.2.lane == cc.lane)).isSome = true) :=
  ⟨bare_of (by decide +kernel) rfl, is_of (by decide +kernel), free_of (by decide +kernel), is_of (by decide +kernel), by decide +kernel,
    by decide +kernel, by decide +kernel, ok_of (by decide +kernel), by decide +kernel, by decide +kernel, by decide +kernel,
    ok2_of (by decide +kernel), ok2_of (by decide +kernel), free_of (by decide +kernel), uncaptured_of (by decide +kernel),
    by decide +kernel, bare_of (by decide +kernel) rfl, by decide +kernel, by decide +kernel⟩

/-- Parameters of a post of formats E4M3 with N = 1, handle 0 and tile 14, from V16 of lane 0; V40 an element of tile 14, V41 of
a tile not allotted, V42 beyond the tiles; V43 a mask of the allotted tiles, V44 with the one not allotted, V45 too wide. -/
abbrev mp : KMap Word := [(16 * 64, 0x00000001), (17 * 64, 0x00000000), (18 * 64, 0x00000000), (19 * 64, 0x00000000), (20 * 64, 0xE0000000)]
  ++ (List.range 32).map (fun l => (40 * 64 + l, 0x3BFFF)) ++ [(42 * 64, 0x3C000), (43 * 64, 0x7FFF), (44 * 64, 0x8000), (45 * 64, 0x10000)]
abbrev sm : State := rich (richW [] mp)
abbrev cm : Cx := seesR [] mp

theorem witness_MatrixWords :
    sm.bare cm ∧ cm.mask ≠ 0 ∧ (∀ r, 16 ≤ r → r < 16 + 9 → cm.w.validV r = true) ∧ (∀ id, cm.w.iss.resume ≠ .capture id) ∧
    cm.free sm (vNames 16 8 (laneBit cm.lane) ++ [.v 24 (laneBit cm.lane)]) ∧ cm.bWrites sm [24] (laneBit cm.lane) = .ok () ∧
    bitAt (mw (cm.params sm 16 8) 4) 27 = false ∧ cm.mxCheck sm (cm.params sm 16 8) (mxTile (cm.params sm 16 8) 0) = none ∧
    cm.mxCheck sm (cm.params sm 0 8) (mxTile (cm.params sm 0 8) 0) = some (3, 0) ∧
    sm.mxPending cm.uid < 8 ∧ sm.mxTable (quadOf cm.core) < 32 ∧ mxCapwait (cm.params sm 16 8) = false ∧ okB (cm.keys sm 1 2) = true ∧
    (∀ l ∈ lanesOf cm.mask, (cm.readV sm 40 l).toNat < 2 ^ 18 ∧ sm.tileOk cm.ctx cm.core ((cm.readV sm 40 l).toNat / 2 ^ 14) = true) ∧
    cm.free sm [.v 40 cm.mask, .v 41 cm.mask, .v 42 cm.mask] ∧ cm.uncaptured sm [41] ∧
    sm.tileOk cm.ctx cm.core ((cm.readV sm 42 0).toNat / 2 ^ 14) = false ∧
    (cm.readV sm 43 cm.lane).toNat < 2 ^ 16 ∧ (∀ k, k < 16 → (cm.readV sm 43 cm.lane).getLsbD k = true → sm.tileOk cm.ctx cm.core k = true) ∧
    (∃ id s1, cm.quietReq sm .mxZero 1 2 [cm.readV sm 43 cm.lane] [] = .ok (id, s1)) ∧
    ((cm.readV sm 44 cm.lane).getLsbD 15 = true ∧ sm.tileOk cm.ctx cm.core 15 = false) ∧ 2 ^ 16 ≤ (cm.readV sm 45 cm.lane).toNat := by
  have valid : ∀ r, r < 25 → cm.w.validV r = true := by decide +kernel
  refine ⟨bare_of ?_ rfl, ?_, fun r _ _ => valid r (by omega), nofun, free_of ?_, is_of ?_, ?_, ?_, ?_, ?_, ?_, ?_, ?_, ?_,
    free_of ?_, uncaptured_of ?_, ?_, ?_, ?_, ok2_of ?_, ?_, ?_⟩
  all_goals decide +kernel

/-- With no lane active, and with the table full. -/
theorem witness_MatrixWords_idle :
    (let c : Cx := { cm with g := { cm.g with mask := 0 } }
     let w : Warp := { cm.w with iss := { cm.w.iss with grp := some c.g } }
     (rich w).bare { c with w := w } ∧ c.mask = 0) ∧
    (let p : Post := { uid := 2, ctx := 0, core := 0, team := 1, lane := 0, v := 24, p := [], tile := 0, handle := {} }
     let s : State := { sm with posts := List.replicate 32 (5, p) }
     s.bare cm ∧ 32 ≤ s.mxTable (quadOf cm.core)) :=
  ⟨⟨bare_of (by decide +kernel) rfl, rfl⟩, bare_of (by decide +kernel) rfl, by decide +kernel⟩

/-- Fields from V16 of lane 0: handle 15 at its last base, tensor 255 at its largest length, a load of 65,536 blocks; from V20
handle 16; from V24 tensor 256 and an unbound one. -/
abbrev bp : KMap Word := [(16 * 64, 15), (17 * 64, 0x10F80), (18 * 64, 0x80), (20 * 64, 16), (24 * 64, 0xFFFFFFFF),
  (28 * 64 + 0, 0x1000), (30 * 64, 255), (31 * 64, 0x800000), (34 * 64, 256), (36 * 64, 255), (38 * 64, 65536), (42 * 64, 65537)]
abbrev sb : State := { rich (richW [] bp) with quads := [(0, { tensors := [(tensorKey 0 255, { bound := true, len := 1 })] })] }
abbrev cb : Cx := seesR [] bp

theorem witness_MatrixBindings :
    sb.bare cb ∧ cb.mask ≠ 0 ∧ (∀ r, r < 48 → cb.w.validV r = true) ∧ cb.free sb (vNames 16 30 (laneBit cb.lane)) ∧
    ((cb.readV sb 16 cb.lane).toNat < 16 ∧ (cb.readV sb 17 cb.lane).toNat < 2 ^ 23 ∧ (cb.readV sb 17 cb.lane).toNat % 128 = 0 ∧
      (cb.readV sb 18 cb.lane).toNat % 128 = 0 ∧ (cb.readV sb 18 cb.lane).toNat ≠ 0 ∧
      (sb.team cb.w.id.team).zone (cb.readV sb 17 cb.lane).toNat (cb.readV sb 18 cb.lane).toNat = .alloc ∧
      (sb.team cb.w.id.team).zone 0x11000 0x80 ≠ .alloc) ∧
    16 ≤ (cb.readV sb 20 cb.lane).toNat ∧ ((sb.team cb.w.id.team).handle 0).bound = true ∧ ((sb.team cb.w.id.team).handle 0).gen ≠ 0xFFFF ∧
    ((sb.team cb.w.id.team).handle 15).bound = false ∧ cb.readV sb 24 cb.lane = 0xFFFFFFFF ∧
    (sb.tensor (quadOf cb.core) cb.ctx 255).bound = true ∧ (sb.tensor (quadOf cb.core) cb.ctx 0).bound = false ∧
    ((cb.readV sb 30 cb.lane).toNat < 256 ∧ (cb.readV sb 31 cb.lane).toNat ≤ 2 ^ 23 ∧ (cb.readV sb 31 cb.lane).toNat ≠ 0) ∧
    256 ≤ (cb.readV sb 34 cb.lane).toNat ∧ ((cb.readV sb 36 cb.lane).toNat < 256 ∧ (cb.readV sb 38 cb.lane).toNat ≤ 65536) ∧
    65536 < (cb.readV sb 42 cb.lane).toNat ∧
    (∃ id s1, cb.quietReq sb .scLoad 1 2 [255] ((List.range' 0 3).map (fun b => (b, []))) = .ok (id, s1)) :=
by
  refine ⟨bare_of ?_ rfl, ?_, ?_, free_of ?_, ?_, ?_, ?_, ?_, ?_, ?_, ?_, ?_, ?_, ?_, ?_, ?_, ok2_of ?_⟩
  all_goals decide +kernel

/-- MXRD and MXWR of V40 have room. -/
theorem witness_MatrixWords_room :
    let word (l : Nat) : Target := .win (tileAddr cm.core ((cm.readV sm 40 l).toNat / 2 ^ 14) ((cm.readV sm 40 l).toNat % 2 ^ 14))
    (match cm.keys sm 1 2 with
    | .ok (dep, m, s1) =>
      roomB s1 cm { cm.op s1 (.load false) 1 2 dep m with
        d := 41, units := (lanesOf cm.mask).map (fun l => { lane := l, tgt := word l, size := 4 }) } &&
      roomB s1 cm { cm.op s1 .store 1 2 dep m with
        units := highestWins ((lanesOf cm.mask).map (fun l =>
          { lane := l, tgt := word l, size := 4, data := bytesOf (cm.readV sm 41 l) })) }
    | .error _ => false) = true := by decide +kernel

/-! The Creel, barriers, launches and system words. -/

/-- S4 names buffer 0 of die 0, S5 holds a record's address, S6 names a buffer not allotted, S7 a threshold. -/
abbrev crl : KMap Word := [(4, 0), (5, 0x10FC0), (6, 1)]
abbrev crv : KMap Word := (List.range 32).map (fun l => (40 * 64 + l, 0x10005)) ++ (List.range 32).map (fun l => (41 * 64 + l, 0x10006))
def creelOwn (l : KMap Word) : State := { rich (richW l crv) with bufs := [(0, { ctx := some 0, cfg := [1, 0, 0, 0] })] }
abbrev sr : State := creelOwn crl
abbrev cr : Cx := seesR crl crv

theorem witness_CreelWords :
    sr.bare cr ∧ cr.resolve 0 cr.mask none 3 1 = .ok 3 ∧ cr.free sr [.v 3 (laneBit cr.lane), .s 4, .s 5] ∧
    cr.bWrites sr [3] (laneBit cr.lane) = .ok () ∧
    ((cr.readS sr 4).toNat < 64 ∧ (cr.readS sr 4).toNat / 8 % 2 = 0 ∧
      ((sr.ctx cr.ctx).creelMask.getD ((cr.readS sr 4).toNat / 16) 0).getLsbD ((cr.readS sr 4).toNat % 8) = true) ∧
    ((sr.ctx cr.ctx).creelMask.getD ((cr.readS sr 6).toNat / 16) 0).getLsbD ((cr.readS sr 6).toNat % 8) = false ∧
    (∃ l, cr.nearRecord sr (cr.readS sr 5) 64 = .ok l ∧ okB (cr.request sr .crCfg 3 1 2 (0 :: l)) = true) ∧
    okB (cr.request sr .crWait 3 1 2 [0, 1]) = true ∧
    cr.resolve 0 cr.mask none 116 12 = .ok 116 ∧ cr.free sr (.s 4 :: vNames 116 12 cr.mask) ∧ cr.uncaptured sr [116] ∧
    okB (cr.keys sr 1 2) = true ∧ cr.free sr [.v 3 cr.mask, .s 4, .s 6] ∧ cr.uncaptured sr [3] ∧
    (∀ l ∈ lanesOf cr.mask, ((sr.buf 0).stat (cr.readV sr 40 l).toNat).isSome) ∧ (sr.buf 0).stat (cr.readV sr 41 0).toNat = none := by
  refine ⟨bare_of (by decide +kernel) rfl, is_of (by decide +kernel), free_of (by decide +kernel), is_of (by decide +kernel), by decide +kernel,
    by decide +kernel, ?_, by decide +kernel, is_of (by decide +kernel), free_of (by decide +kernel), uncaptured_of (by decide +kernel),
    by decide +kernel, free_of (by decide +kernel), uncaptured_of (by decide +kernel), by decide +kernel, by decide +kernel⟩
  have h : (match cr.nearRecord sr (cr.readS sr 5) 64 with | .ok l => okB (cr.request sr .crCfg 3 1 2 (0 :: l)) | .error _ => false) = true := by
    decide +kernel
  split at h
  · rename_i l hl; exact ⟨l, hl, h⟩
  · cases h

/-- CRALLOC.W without a request of its own, with a slot free and with none. -/
theorem witness_CreelWords_alloc : (∀ id, cr.w.iss.resume ≠ .alloc id) ∧ cr.free sr [.v 3 cr.mask, .s (2 * 2)] ∧
    (let r := cr.laneReq sr (.crAlloc true) 3 0 0 0 {} none (cr.rows sr 3 1)
     ((r.2.applyCreel r.1).reqs.get? r.1).isSome = true) :=
  ⟨(by intro id h; cases h), free_of (by decide +kernel), by decide +kernel⟩

/-- S4 sets barrier 3 of level TEAM for one warp, S6 asks for more warps than the team has, S8 for a gang. -/
abbrev bl : KMap Word := [(4, 0x100), (6, 0x200), (8, 0x101)]
def withBar (x : Barrier) (r : Resume) : State :=
  let w : Warp := richW bl []
  let s := rich { w with iss := { w.iss with resume := r } }
  { s with teams := s.teams.modify 1 (fun t => { t with barriers := [(3, x)] }) }
def seesB (r : Resume) : Cx := { seesR bl [] with w := { richW bl [] with iss := { (richW bl []).iss with resume := r } } }
def mine : Arrive := { uid := 1, w := 0 }

theorem witness_BarrierWords :
    (∀ st ∈ [BarSt.unconf, .idle, .filling, .met], let s := withBar { st := st } .none
      s.bare (seesB .none) ∧ ((s.team 1).bar 3).st = st ∧ (seesB .none).free s [.s 4, .s 5, .s 6, .s 8] ∧
      (seesB .none).w.due (fun r => r.cause == 0x09 && (seesB .none).w.iss.resume == .none) = none ∧
      okB ((seesB .none).arrive s 3 1 2) = true ∧ (seesB .none).arrived s 3 = false ∧ (s.teams.get? 1).isSome = true ∧
      okB ((seesB .none).keys s 1 2) = true) ∧
    (let c := seesB .none
     let s := withBar {} .none
     let x := c.readS s 4
     (x.toNat / 4 % 64 = 0 ∧ x.toNat < 2 ^ 14 ∧ 0 < x.toNat / 256 % 64 ∧ x.toNat / 256 % 64 ≤ (s.team 1).warps.length ∧ x.toNat % 4 = 0) ∧
     (s.team 1).warps.length < (c.readS s 6).toNat / 256 % 64 ∧ ((c.readS s 8).toNat % 4 = 1 ∧ (s.team 1).gang = 0)) ∧
    (let s := withBar { st := .filling, arrivals := [mine] } (.barrier 3)
     s.bare (seesB (.barrier 3)) ∧ (seesB (.barrier 3)).arrived s 3 = true) ∧
    (let s := withBar { st := .idle, arrivals := [] } (.barrier 3)
     s.bare (seesB (.barrier 3)) ∧ (seesB (.barrier 3)).arrived s 3 = false ∧ (seesB (.barrier 3)).w.iss.resume = .barrier 3) := by
  refine ⟨?_, by decide +kernel, ⟨bare_of (by decide +kernel) rfl, by decide +kernel⟩, ⟨bare_of (by decide +kernel) rfl, by decide +kernel⟩⟩
  intro st h
  simp only [List.mem_cons, List.not_mem_nil, or_false] at h
  rcases h with rfl | rfl | rfl | rfl <;>
    exact ⟨bare_of (by decide +kernel) rfl, by decide +kernel, free_of (by decide +kernel), by decide +kernel⟩

/-- The leader of a team of grid 1, whose descriptor lies in V16 to V28; S4 names grid 1 and S6 one that does not exist. -/
abbrev gl : KMap Word := [(4, 1), (6, 2), (8, 0x1000000)]
abbrev sl : State := rich (richW gl [])
abbrev cl : Cx := seesR gl []

theorem witness_LaunchWords :
    sl.bare cl ∧ cl.resolve 0 cl.mask none 114 1 = .ok 114 ∧ (∀ r, 114 ≤ r → r < 114 + 14 → cl.w.validV r = true) ∧
    cl.free sl ((List.range' 114 13).map (fun r => RegName.v r (laneBit cl.lane)) ++ [.v (114 + 13) (laneBit cl.lane)]) ∧
    cl.bWrites sl [114 + 13] (laneBit cl.lane) = .ok () ∧
    (sl.grid cl.ctx cl.w.id.grid).depth ≠ 10 ∧ cl.leads sl = true ∧ sl.gridReqs cl.uid < 8 ∧ sl.grids.length < 4096 ∧
    okB (cl.request sl .gLaunch 127 1 2 ((List.range' 114 13).map (fun r => cl.readV sl r cl.lane))) = true ∧
    okB (cl.request sl .gWait 114 1 2 [cl.readS sl 4]) = true ∧ cl.free sl [.v 114 (laneBit cl.lane), .s 4] ∧
    cl.bWrites sl [114] (laneBit cl.lane) = .ok () ∧
    cl.free sl [.s 4, .s 7] ∧ (cl.readS sl 4).toNat < 2 ^ 24 ∧
    ((sl.grids.get? (gridKey cl.ctx (cl.readS sl 4).toNat)).map (fun g => g.retired)) = some false ∧
    sl.grids.get? (gridKey cl.ctx (cl.readS sl 6).toNat) = none ∧ 2 ^ 24 ≤ (cl.readS sl 8).toNat := by
  have valid : ∀ r, r < 128 → cl.w.validV r = true := by decide +kernel
  refine ⟨bare_of ?_ rfl, is_of ?_, fun r _ _ => valid r (by omega), free_of ?_, is_of ?_, ?_, ?_, ?_, ?_, ?_, ?_, free_of ?_,
    is_of ?_, free_of ?_, ?_, ?_, ?_, ?_⟩
  all_goals decide +kernel

/-- A grid ten levels deep, a warp 1 that holds the leader lane and one that does not, eight requests, and a grid that has retired. -/
theorem witness_LaunchWords_refused :
    (let s : State := { sl with grids := [(gridKey 0 1, { id := 1, depth := 10, retired := true })] }
     s.bare cl ∧ (s.grid cl.ctx cl.w.id.grid).depth = 10 ∧ ((s.grids.get? (gridKey cl.ctx 1)).map (fun g => g.retired)) = some true) ∧
    (let w : Warp := { cl.w with id := { cl.w.id with w := 1 } }
     (rich w).bare { cl with w := w } ∧ Cx.leads { cl with w := w } (rich w) = true) ∧
    (let w : Warp := { cl.w with id := { cl.w.id with w := 1 } }
     let s : State := { rich w with
       warps := [(1, w), (2, cl.w)]
       teams := [(1, { grid := 1, core := some 0, warps := [2, 1], threads := 64 })] }
     s.bare { cl with w := w } ∧ Cx.leads { cl with w := w } s = false) ∧
    (let s : State := { sl with reqs := List.replicate 8 (3, { kind := .gWait, uid := 1, ctx := 0, core := 0 }) }
     s.bare cl ∧ 8 ≤ s.gridReqs cl.uid) :=
  ⟨⟨bare_of (by decide +kernel) rfl, by decide +kernel⟩, ⟨bare_of (by decide +kernel) rfl, by decide +kernel⟩,
    ⟨bare_of (by decide +kernel) rfl, by decide +kernel⟩, ⟨bare_of (by decide +kernel) rfl, by decide +kernel⟩⟩

/-- A launch of the one kernel of code object 1 over one team of 32 threads, and one of an object that is not loaded. -/
def kernel1 : Kernel := { entry := 0, vregs := 64, warps := 1, wide := false, gang := 0, weave := false, lanePorts := false, trap := false, scratch := 0 }
def launching (obj : Word) : State := { issuing fresh1 with
  ctxs := [(0, { d := { root := 0x1000 }, objs := [{ handle := 1, text := 0x10000, data := 0, interlock := false, kernels := [kernel1] }] })]
  reqs := [(7, { kind := .gLaunch, uid := 1, ctx := 0, core := 0, args := [obj, 0, 0x10001, 1, 0x100420, 0, 0, 0, 0, 0x81, 0, 0, 0] })] }

/-- Their descriptors. -/
def descOf (obj : Word) : Launch := { words := [obj, 0, 0x10001, 1, 0x100420, 0, 0, 0, 0, 0x81, 0, 0, 0], parent := some 1 }

theorem witness_Launches :
    ((launching 1).reqs.get? 7 = some { kind := .gLaunch, uid := 1, ctx := 0, core := 0, args := (descOf 1).words } ∧
      (launching 2).reqs.get? 7 = some { kind := .gLaunch, uid := 1, ctx := 0, core := 0, args := (descOf 2).words }) ∧
    (∀ o, (launching o).grids.length = 1 ∧ ((launching o).warp 1).id.grid = 1) ∧
    (launching 1).refusal 0 (descOf 1) = none ∧ (launching 2).refusal 0 (descOf 2) = some 2 :=
  ⟨⟨rfl, rfl⟩, fun _ => ⟨rfl, rfl⟩, rfl, rfl⟩

/-- A warp of a privileged context, with resume `r`; S5 names context 9, which does not exist. -/
def system (d : Desc) (r : Resume) (i : List Inval) : State := { issuing { withS [(5, 9)] with iss := { (withS [(5, 9)]).iss with resume := r } } with
  ctxs := [(0, { d := d })], invals := i }
def seesP (r : Resume) : Cx := { seesS [(5, 9)] with w := { withS [(5, 9)] with iss := { (withS [(5, 9)]).iss with resume := r } } }

theorem witness_SystemWords :
    (∀ d ∈ [({} : Desc), { priv := true }, { priv := true, secure := true }], ∀ r ∈ [Resume.none, .resumed, .halt, .tlbinv 4],
      (system d r []).cx = some (seesP r)) ∧
    (let s := system { priv := true } .none []
     let c := seesP .none
     (s.ctx c.ctx).d.priv = true ∧ c.g.xp = none ∧ (s.ctxs.get? ((s.ctx c.ctx).tgt.getD c.ctx)).isSome = true ∧
     (∃ k, s.ctxs.get? 0 = some k ∧ k.d.secure = false) ∧ s.ctxs.get? 9 = none ∧ (∀ id, c.w.iss.resume ≠ .tlbinv id)) ∧
    (seesP .none).free (system { priv := true } .none []) [.s 4, .s 5, .s 61, .s 62, .s 63] ∧
    (let s : State := { system { priv := true } .none [] with ctxs := [(0, { d := { priv := true }, tgt := some 9 })] }
     s.cx = some (seesP .none) ∧ s.ctxs.get? ((s.ctx 0).tgt.getD 0) = none) ∧
    (let i : Inval := { id := 4, ctx := 0, page := 0, pages := 1 }
     (system { priv := true } (.tlbinv 4) [i]).invals.any (fun i => i.id == 4 && !i.done) = true ∧
     (system { priv := true } (.tlbinv 4) []).invals.any (fun i => i.id == 4 && !i.done) = false) := by
  refine ⟨by decide +kernel, ⟨by decide +kernel, rfl, by decide +kernel, ⟨_, rfl, rfl⟩, by decide +kernel, (by intro id h; cases h)⟩,
    free_of (by decide +kernel), by decide +kernel, by decide +kernel⟩

/-! Events. -/

/-- The state of the witnesses below: one warp, its team, grid and context. -/
abbrev se : State := issuing fresh1
def withW (w : Warp) : State := issuing w

/-- A result that returns, one of a magnitude table, a trap that waits with none outstanding and with one, a warp not chosen for
64 clocks, and a member. -/
theorem witness_ReturnEvents :
    let r : Result := { id := 4, due := 3, writes := [.v 5 [(0, 1), (63, 2)]], word := 0x0D000000 }
    let a : Warp := { fresh1 with id := { fresh1.id with place := none }, iss := { fresh1.iss with outstanding := [r], pendTrap := some {}, unchosen := 64 } }
    (a.iss.outstanding.find? (fun r => r.id == 4) = some r ∧ r.ready = true ∧ r.sample = none ∧ logKind r.word = 0 ∧ a.id.place = none ∧
      (KMap.keys [(0, (1 : Word)), (63, 2)]).Nodup ∧ (∀ l ∈ KMap.keys [(0, (1 : Word)), (63, 2)], l < 64) ∧ a.busy = true) ∧
    Warp.busy { fresh1 with iss := { fresh1.iss with pendTrap := some {} } } = false ∧
    (let s : State := { se with cores := [(0, { lq := [{ id := 6, uid := 1, due := 5, writes := [(2, 0x11111111)] }] })],
                                members := [(8, { uid := 1, key := 3, seq := 0 })] }
     (s.core 0).lq.find? (fun q => q.id == 6) = some { id := 6, uid := 1, due := 5, writes := [(2, 0x11111111)] } ∧
     (State.warps ((s.reachCore 0 5).modCore 0 (fun k => { k with lq := [] }))).keys = [1] ∧
     s.members.get? 8 = some { uid := 1, key := 3, seq := 0 } ∧ 3 < fresh1.kf.keys.length) := by decide +kernel

/-- A chime to the warp itself, at the head of its queue and on its way. -/
def chime1 : Chime := { uid := 1, ctx := 0, target := 0, grid := 1, tag := 5, sender := 0 }

theorem witness_ChimeEvents :
    (let w : Warp := { fresh1 with kf := { fresh1.kf with sendq := [chime1] } }
     let s := withW w
     s.warps.get? 1 = some w ∧ w.kf.sendq = chime1 :: [] ∧ s.depOk 1 chime1.dep = true ∧ s.coverOk 1 chime1.dep = true ∧
     s.chimeTarget 0 1 0 5 = some (1, w) ∧ w.kf.inbox.length + s.coming 1 < 8) ∧
    (let k : Chime := { chime1 with dep := { comps := [(2, 0)] } }
     let w : Warp := { fresh1 with kf := { fresh1.kf with sendq := [k], keys := setAt fresh1.kf.keys 2 { ring := [{ st := .sealed, members := 1 }, {}, {}, {}] } } }
     (withW w).depOk 1 k.dep = false) ∧
    (let s : State := { se with chimes := [(3, chime1)] }
     s.chimes.get? 3 = some chime1 ∧ s.chimeTarget 0 1 0 5 = some (1, fresh1) ∧ fresh1.id.place.isSome = true ∧ ∀ p ∈ s.chimes, ¬ p.1 < 3) ∧
    (let s : State := { se with chans := [(0, {})] }
     s.chimeTarget (s.chan 0).ctx (nth [0, 0, 1, 0, 0, (5 : Word), 0] 2 0).toNat (nth [0, 0, 1, 0, 0, (5 : Word), 0] 1 0) 5 = some (1, fresh1)) ∧
    (let w : Warp := { fresh1 with kf := { fresh1.kf with inbox := List.replicate 8 { tag := 0, sender := 0 } } }
     (withW w).chimeTarget 0 1 0 5 = some (1, w) ∧ 8 ≤ w.kf.inbox.length + (withW w).coming 1) := by decide +kernel

/-- A load of device memory at the last words, one of a window, a store in its core's path to memory, an atomic, a SLICE.CSTM. -/
def opOf (k : OpKind) (t : Target) : Op :=
  { uid := 1, ctx := 0, core := 0, team := 1, kind := k, entry := 1, units := [{ lane := 0, tgt := t, size := 4, data := [1, 2, 3, 4] }] }
def flying (k : OpKind) (t : Target) : State := { se with ops := [(3, opOf k t)] }

theorem witness_MemoryEvents :
    (∀ p ∈ [(OpKind.load false, Target.dev 0xFFFC), (.load true, .win 0x1000), (.store, .dev 0x10FFC), (.atomic 15, .dev 0x20000),
        (.cstm 1, .dev 0x20000), (.store, .win 0x1000), (.atomic 0, .net 5 0x1000)],
      (flying p.1 p.2).ops.get? 3 = some (opOf p.1 p.2) ∧ ((opOf p.1 p.2).unit 0).done = false ∧ ((opOf p.1 p.2).unit 0).sent = false ∧
      (flying p.1 p.2).mayPerform 3 (opOf p.1 p.2) 0 = true ∧
      (opOf p.1 p.2).select (fun v => v.near ((opOf p.1 p.2).unit 0) 4) = [0]) ∧
    (flying (.atomic 0) (.net 5 0x1000)).channelTo 0 5 = none ∧
    (let o : Op := { opOf .store (.dev 0x10FFC) with entry := 0 }
     let s : State := { se with ops := [(3, o)] }
     s.reqs.get? 3 = none ∧ s.noticesHeld 3 = false ∧ (s.releaseOp 3).isSome = true ∧ s.mayPerform 3 o 0 = false) ∧
    (let r : Req := { kind := .rcArm, uid := 1, ctx := 0, core := 0 }
     let s : State := { se with reqs := [(4, r)] }
     s.reqs.get? 4 = some r ∧ s.noticesHeld 4 = false ∧ s.depOk r.uid r.dep = true) ∧
    (flying (.load true) (.win 0x1000)).mayBind 3 (opOf (.load true) (.win 0x1000)) 0 0 = true ∧
    (let s : State := { se with ops := [(2, opOf .store (.win 0x1000)), (3, opOf (.load true) (.win 0x1000))] }
     s.mayBind 3 (opOf (.load true) (.win 0x1000)) 0 0 = false) := by decide +kernel

/-- A load of device memory may bind, whether its line is taken from the L1 or not. -/
theorem witness_MemoryEvents_bind :
    (flying (.load false) (.dev 0xFFFC)).mayBind 3 (opOf (.load false) (.dev 0xFFFC)) 0 0 = true := by
  unfold State.mayBind
  dsimp only
  generalize (flying (.load false) (.dev 0xFFFC)).inL1 (opOf (.load false) (.dev 0xFFFC)) 0
    ((opOf (.load false) (.dev 0xFFFC)).unit 0).tgt = b
  cases b <;> decide +kernel

theorem witness_MemoryEvents_enter : (flying (.load false) (.dev 0xFFFC)).enterNear 3 = flying (.load false) (.dev 0xFFFC) := rfl

/-- A state that waits for the page of an address; the second gigabyte's entry asks for a page request. -/
def walking (va : Addr) : State := { se with
  mem := Memory.writeN se.mem 0x3008 [0x40]
  pages := [{ who := .warp 1, ctx := 0, page := va.toNat / 4096 }] }
def walkReq (va : Addr) : WalkReq := { who := .warp 1, core := 0, ctx := 0, uid := 1, va := va, kind := 0, lanes := 1, page := va.toNat / 4096 }
def walkB (w : Walk) : Nat :=
  match w with
  | .leaf _ _ => 0
  | .replay => 1
  | .fatal => 2

/-- Walks that end in a leaf, with a page request and fatally, of a page whose request has no number yet. -/
theorem witness_MemoryEvents_walks :
    (walking 0x3FFFFFFF).pages.any (fun p => p.who == (walkReq 0x3FFFFFFF).who && p.page == (walkReq 0x3FFFFFFF).page && p.seq == none) = true ∧
    walkB ((walking 0x3FFFFFFF).translate 0 0 0x3FFFFFFF) = 0 ∧ walkB ((walking 0x40000000).translate 0 0 0x40000000) = 1 ∧
    ((walking 0x40000000).pageRequest (walkReq 0x40000000)).isSome = true ∧ walkB ((walking 0x80000000).translate 0 0 0x80000000) = 2 := by
  decide +kernel

theorem witness_StoreFrame :
    let o := opOf .store (.dev 0x10FFC)
    ((o.unit 0).tgt = .dev 0x10FFC ∧ o.kind = .store ∧ (flying .store (.dev 0x10FFC)).partials = []) ∧
    Memory.wf (flying .store (.dev 0x10FFC)).mem = true ∧ Memory.wf (flying .store (.dev 0x10FFC)).host = true := by
  refine ⟨⟨rfl, rfl, rfl⟩, ?_, ?_⟩ <;> decide +kernel

/-- A PUSH to warp 1's own lane port, a warp parked on a port, an arrival, a barrier that has met, and one that has waited. -/
theorem witness_PortAndBarrierEvents :
    (let t : PortTx := { uid := 1, port := 0, tgt := 1, tport := 1, lanes := [0, 31], scope := .team }
     let w : Warp := { fresh1 with ports := setAt fresh1.ports 1 { queue := [(0, [{ tx := 3, val := 7 }]), (31, [{ tx := 3, val := 8 }])] } }
     let s : State := { withW w with txs := [(3, t)] }
     s.txs.get? 3 = some t ∧ t.lanes.Nodup ∧ t.tport < (s.warp t.tgt).ports.length ∧ s.depOk t.uid t.dep = true ∧
     t.lanes.all (fun l => ((((s.warp t.tgt).port t.tport).lane l).takeWhile (fun v => v.tx != 3)).all (fun v => v.vis)) = true) ∧
    (let w : Warp := { fresh1 with iss := { fresh1.iss with stall := some .portEmpty, parkWord := 0x44302803 } }
     (withW w).portDue 1 = some 0x1000000 ∧ (w.group).isSome = true) ∧
    (∀ l ∈ [0, 3], let x : Barrier := { st := .filling, level := l, expect := 1, arrivals := [{ uid := 1, w := 0 }] }
     let s : State := { se with teams := se.teams.modify 1 (fun t => { t with barriers := [(2, x)] }) }
     (((s.team 1).bar 2).arrivals.find? (fun a => a.uid == 1 && !a.counted)).isSome = true ∧ ((s.team 1).bar 2).st ≠ .unconf ∧
     s.runs 0 = true ∧ s.arrivalOk { uid := 1, w := 0 } l = true) ∧
    (let x : Barrier := { st := .met, level := 3, expect := 1, limit := 9, arrivals := [{ uid := 1, w := 0, counted := true }] }
     let s : State := { se with teams := se.teams.modify 1 (fun t => { t with barriers := [(2, x)] }) }
     ((s.teams.get? 1).map (fun t => (t.bar 2).st)) = some .met ∧ s.participants 1 3 = [1] ∧ s.barDue 1 2 = some 9 ∧
     (s.ctxs.get? (s.team 1).ctx).isSome = true) := by decide +kernel

/-- Copies queued, waiting, moving and at their end. -/
def copying (c : Copy) : State := { se with copies := [(3, c)] }

theorem witness_CopyEvents :
    (∀ st ∈ [CopySt.queued, .waiting, .moving], let c : Copy := { copy1 with st := st }
      (copying c).copies.get? 3 = some c ∧ (copying c).copyContexts c.quad < 32 ∧ c.fail = none ∧ c.cancel = false ∧ c.mism = none ∧
      (copying c).depOk c.uid c.dep = true ∧ (copying c).runs c.ctx = true ∧ c.coll = none ∧ recCrel c.rc = false) ∧
    (copying { copy1 with st := .queued }).firstFired { copy1 with st := .queued } = true ∧ ({ copy1 with unread := [0] } : Copy).unread ≠ [] ∧
    (let l : Landing := { ix := 2, elems := [(0, .dev 0x20000, [1])] }
     let c : Copy := { copy1 with st := .moving, pend := [l] }
     c.pend.find? (fun x => x.ix == l.ix) = some l ∧ l.answer = none ∧ l.sent = false) ∧
    (let c : Copy := { copy1 with st := .moving, fail := some (4, true, 0x1000) }
     c.unread = [] ∧ c.pend = [] ∧ c.mism = none ∧ c.fail = some (4, true, 0x1000)) ∧
    (copying { copy1 with st := .moving }).owesSignals { copy1 with st := .moving } = false := by decide +kernel

/-- A post before its grant, granted, captured, at the last pass and at one whose line is poisoned; a block of a scale tensor. -/
def post1 : Post := { uid := 1, ctx := 0, core := 0, team := 1, lane := 0, v := 24, tile := 0, handle := { bound := true, base := 0x1000, size := 0x2000 }
                      p := [1, 0, 0, 0, 0, 0, 0, 0] }
def posting (p : Post) : State := { rich fresh1 with posts := [(3, p)] }
def passB (r : PassR) : Nat :=
  match r with
  | .ok _ => 1
  | .bad _ _ _ _ => 2
  | _ => 0

theorem witness_MatrixEvents :
    ((posting post1).posts = [(3, post1)] ∧ mxGang post1.p = false ∧ post1.granted = false ∧ post1.captured = false ∧ post1.eligible = none ∧
      ((posting post1).team post1.team).core.isSome = true ∧ (posting post1).depOk post1.uid post1.dep = true) ∧
    ((posting { post1 with eligible := some 5 }).starveDue 3).isSome = true ∧
    (∀ r ∈ ((posting { post1 with granted := true }).warp post1.buid).iss.outstanding, r.id ∉ post1.waits) ∧
    (let p : Post := { post1 with granted := true, captured := true }
     let s := posting p
     (s.ctx p.ctx).run = .running ∧ s.awaits (.post 3) = false ∧ passB (s.arrayIn 3 p) = 1 ∧ mxN p.p ≤ p.committed + 1 ∧
     passB ({ s with teams := s.teams.modify 1 (fun t => { t with poison := [0x1000] }) }.arrayIn 3 p) = 2) ∧
    (let s : State := { rich fresh1 with quads := [(0, { tensors := [(tensorKey 0 9, { base := 0x20000, len := 1, bound := true })] })] }
     (match s.scaleMem 0 0 (s.tensor 0 0 9) 0 with | .ok _ _ => true | _ => false) = true ∧ s.reqs = []) := by decide +kernel

/-- A channel and a request for a read of an exported word, its predecessor applied. -/
def chan1 : Chan := { peer := 1, st := .cached, rbase := 0 }
def read1 : FabReq := { ch := 0, seq := 0, pred := 0, sold := 0, valid := true, std := false, write := false, addr := 0x20000, data := [], len := 4 }
def linked (c : Chan) : State := { se with chans := [(0, c)] }

theorem witness_FabricEvents :
    (∀ st ∈ [ChanSt.evicted, .cached, .closing], (linked { chan1 with st := st }).chans.get? read1.ch = some { chan1 with st := st }) ∧
    read1.valid = true ∧ chan1.applied read1.seq = false ∧ chan1.applied 1 = false ∧ ({ chan1 with rbase := 1 } : Chan).applied 0 = true ∧
    (match (linked chan1).fabApply chan1 read1 with | .done _ 1 [] => true | _ => false) = true ∧
    (let x : Sent := { req := { read1 with seq := 7 }, own := [.message], tries := 8 }
     let c : Chan := { chan1 with sent := [x] }
     ((linked c).chan 0).sent.find? (fun x => x.req.seq.toNat == 7) = some x ∧ c.sent.find? (fun x => x.req.seq == 7#16) = some x ∧ c.sent ≠ []) ∧
    (let w : List Word := [0x80000001, 0, 5, 256, 0, 0, 0] ++ List.replicate 25 0 ++ [4]
     (chanOf w).isSome = true ∧ ((chanOf w).map (fun c => decide (c.initCred ≤ se.fab.holding))) = some true ∧ se.chans.get? 1048575 = none) ∧
    (let s : State := { rich fresh1 with chans := [(0, chan1)] }
     let m : Msg := { ch := 0, words := [0, 15 * 65536, 64] }
     (s.ctx (s.msgCtx m)).run ≠ .saved ∧ (s.core 0).retired = false ∧ s.rcOk (s.msgCtx m) 0 15 = true) := by
  refine ⟨?_, ?_, ?_, ?_, ?_, ?_, ?_, ?_, ?_⟩ <;> decide +kernel

/-- An ATOMIC message to a word that a channel's one export covers. -/
theorem witness_FabricEvents_atomic :
    let c : Chan := { chan1 with exports := 0x30000, nexport := 1 }
    let s : State := { linked c with mem := Memory.writeN (linked c).mem 0x30000 [0, 0, 2, 0, 0, 0, 0, 0, 4, 0, 0, 0, 3, 0, 0, 0] }
    (s.exports c).length = 1 ∧ s.exportBad c 0x20000 4 true true = none ∧ s.localLane c.ctx 0x20000 4 true = .ok (.dev 0x20000) := by
  decide +kernel

/-- A group of epoch 5 with a rendezvous of which one of two members has entered. -/
def grouped : State := { linked chan1 with
  groups := [(0, 0x30000)]
  mem := Memory.writeN se.mem 0x30000 (bytesOfWords [0x40000002, 0x00050000, 0, 0, 0, 100, 0, 0])
  colls := [{ ctx := 0, group := 0, n := 1, entries := [(1, [])] }] }

theorem witness_CollectiveEvents :
    (let m : Msg := { ch := 2 ^ 20, words := [0x05000000, 0, 1] }
     bits (rw m.words 0) 31 24 = (grouped.groupOf (grouped.msgCtx m) (bits (rw m.words 0) 23 16)).epoch) ∧
    (let m : Msg := { ch := 0, words := [0x04000000, 0, 1] }
     bits (rw m.words 0) 31 24 ≠ (grouped.groupOf (grouped.msgCtx m) (bits (rw m.words 0) 23 16)).epoch) ∧
    (∃ k, grouped.coll 0 0 1 = some k ∧ k.entries ≠ [] ∧ k.entries.length ≠ (grouped.groupOf 0 0).size ∧ (grouped.groupOf 0 0).timeout ≠ 0) := by
  refine ⟨by decide +kernel, by decide +kernel, ⟨_, rfl, by decide +kernel⟩⟩

/-- A configured buffer of two slots and two experts whose slot 0 is as given. -/
def crCfg1 : List Word := [0x00000001, 0, 0, 50, 0x40000, 0, 64, 0, 0x50000, 0, 4, 0, 0, 0, 0, 0]
def creeling (k : CrSlot) : State := { se with bufs := [(0, { ctx := some 0, cfg := crCfg1, slots := [(0, k)] })] }

theorem witness_CreelEvents :
    0 < crNslots crCfg1 ∧
    (∀ st ∈ [CrSt.free, .allocated, .gated, .due, .quiet, .kept], (((creeling { st := st }).buf 0).slot 0).st = st) ∧
    ((creeling { st := .gated }).creelDue 0 0 = some 50 ∧ ((creeling { st := .quiet }).quietDue 0 0).isSome = true) ∧
    ((creeling { st := .due }).releasable 0 = some 0 ∧ (creeling { st := .due }).awaits (.creel 0) = false) ∧
    ((creeling { st := .free }).buf 0).mayAssign = true ∧ ((creeling { st := .free }).buf 0).lowestFree = some 0 := by
  decide +kernel

/-- A queue whose head is a NOP packet, a LAUNCH, a WAITMEM or a malformed one. -/
def queue1 : Queue := { base := 0x20000, enable := true, tail := 1 }
def queued (l : List Host.Cell) : State := { se with mem := se.mem ++ l, queues := [(4, queue1)] }
def packets : List (List Host.Cell) := [[],
  [(0x20000, 1), (0x20008, 2), (0x20010, 1), (0x20012, 1), (0x20014, 1), (0x20018, 0x20), (0x20019, 4), (0x2001A, 0x10), (0x2002C, 0x81)],
  [(0x20000, 2), (0x2000A, 2), (0x20010, 2), (0x20014, 0xFF), (0x20015, 0xFF), (0x20016, 0xFF), (0x20017, 0xFF)],
  [(0x20000, 3)]]

def distB (r : DistRead) : Bool :=
  match r with
  | .ok _ => true
  | _ => false

theorem witness_LaunchEvents_packets :
    packets.all (fun l => ((queued l).queue 4).live && (queued l).queueRuns 4 && !(queued l).yields 4 && distB ((queued l).packet 4)) = true ∧
    (queued (nth packets 1 [])).takeable 4 = true ∧
    (packetOf (0 :: List.replicate 15 0) = some .nop ∧ packetOf (3 :: List.replicate 15 0) = none ∧
      packetOf (1 :: 0 :: (descOf 2).words ++ [0]) = some (.launch false (descOf 2).words) ∧
      packetOf ([2, 0, 0x20000, 0, 2, 0xFFFFFFFF, 0] ++ List.replicate 9 0) = some (.waitmem 0x20000 2 0xFFFFFFFF 0)) ∧
    [(2 : Word), 3].map (fun v => waitmet 2 v 0xFFFFFFFF 0) = [true, false] ∧
    distB ((queued (nth packets 2 [])).distRead 4 0 0x20000 1) = true := by
  exact ⟨by decide +kernel, by decide +kernel, ⟨rfl, rfl, rfl, rfl⟩, by decide +kernel, by decide +kernel⟩

/-- Doorbells within the ring and beyond it; grids, warps and contexts in the states of the clauses; placement writes at their bounds. -/
theorem witness_LaunchEvents :
    (((16 : Word) - queue1.head).toNat ≤ 2 ^ queue1.log ∧ queue1.live = true ∧ 2 ^ queue1.log < ((17 : Word) - queue1.head).toNat ∧
      queue1.error = false ∧ ({ queue1 with enable := false } : Queue).live = false) ∧
    (let s : State := { se with grids := [(gridKey 0 1, { id := 1 })] }
     ((s.grids.get? (gridKey 0 1)).map (fun x => (x.retired, decide (x.placed < x.teams)))) = some (false, true) ∧ (s.ctx 0).run = .running) ∧
    (let s : State := { se with warps := [], grids := [(gridKey 0 1, { id := 1, placed := 1, exited := 1 })] }
     s.gridDone 0 1 = true ∧ (s.grid 0 1).exited = (s.grid 0 1).teams ∧ (s.grid 0 1).desc.completion = 0) ∧
    (let w : Warp := { fresh1 with live := 0 }
     w.retired = false ∧ w.live = 0 ∧ w.id.place.isSome = true ∧ (withW w).exitWait 1 = none ∧
     ({ withW w with members := [(2, { uid := 1, key := 0, seq := 0 })] }.exitWait 1).isSome = true) ∧
    (let s : State := { se with ctxs := [(0, { run := .halting, d := { slice := 0 } })] }
     s.halted 0 = true ∧ { s with copies := [(2, { copy1 with st := .moving, pend := [{ ix := 0, elems := [] }] })] }.halted 0 = false ∧
     ({ se with ctxs := [(0, { d := { slice := 5 } })] }.sliceDue 0).isSome = true) ∧
    ((0x205F : Word).toNat % 256 = 95 ∧ (0x3C : Word).toNat % 256 = 60 ∧ 125 < (0x7E : Word).toNat % 256) := by
  refine ⟨?_, ?_, ?_, ?_, ?_, ?_⟩ <;> decide +kernel

/-- A context that was saved before a team of its grid was placed. -/
theorem witness_LaunchEvents_restore :
    let s : State := { se with ctxs := [(0, { run := .saved, share := [3] })], grids := [(gridKey 0 1, { id := 1 })], warps := [], teams := [] }
    s.restoreMap 0 = some [] ∧ s.betterWaits 0 = false ∧ s.bag = [] := by
  intro s
  refine ⟨rfl, ?_, rfl⟩
  decide +kernel

/-- Conditions of the clauses about copies, collectives and the Creel that the states above leave out. -/
theorem witness_CopyEvents_ends :
    se.onDevice 0 = true ∧ ({ se with ctxs := [(0, { run := .saved })] } : State).onDevice 0 = false ∧
    (let c : Copy := { copy1 with st := .moving, rc := [0x00000100, 0x00010000] ++ List.replicate 14 0, cores := [0] }
     (c.unread = [] ∧ c.pend = [] ∧ c.mism = none ∧ c.fail = none ∧ c.cancel = false ∧ c.cores ≠ [] ∧ c.sigs = 0)) ∧
    (let c : Copy := { copy1 with st := .moving, cancel := true }
     c.fail = none ∧ c.cancel = true) := by decide +kernel

/-- A GO of a rendezvous with and without a reduction, and messages of one member and of two. -/
theorem witness_CollectiveEvents_messages :
    ({ ch := 0, words := [] } : Msg).covers = 1 ∧ ({ ch := 0, words := [], covers := 3 } : Msg).covers ≠ 1 ∧
    grouped.goOk 0 0 [0x05000000, 0, 1, 0] = true ∧ grouped.goOk 0 0 [0x05000000, 0, 1, 9] = false ∧ (grouped.groupOf 0 0).swred = false := by
  decide +kernel

/-- Whether a Creel's access of memory succeeds at once. -/
def crOk {α : Type} : CrMem α → Bool
  | .ok _ => true
  | _ => false

/-- A DUE slot whose row and record lie in device memory, an arrival that is taken, one that is dropped, and a deadline that comes. -/
theorem witness_CreelEvents_release :
    let s := creeling { st := .due }
    (s.buf 0).logBad = none ∧ (s.buf 0).rel = none ∧ ((s.buf 0).fallbacks ((s.buf 0).slot 0)) = [] ∧
    crOk (s.creelPlan 0 (crPieces 0x50000 16)) = true ∧
    (match s.creelWrite 0 s.fresh 0 0x40000 (List.replicate 64 0) with | .ok r => r.2 == 0 | _ => false) = true ∧
    (s.arrive 0 []).2 = true ∧ ((creeling { st := .gated }).arrive 0 [(0, 1)]).2 = true := by
  decide +kernel

/-- Record mode, samples, a debugger that holds and has stopped the context, and OBSCTL's fields at their bounds. -/
theorem witness_ObserveEvents :
    (let g : Seg := { ctx := 0, fullAt := some 7, digestAt := 9 }
     let s : State := { se with cores := [(0, { segs := [g, { g with opened := false }] })] }
     s.fullDue 0 = some 7 ∧ s.digestDue 0 = some 4105 ∧ s.allSegs[1]? = some { g with opened := false } ∧ s.mayReplay 0 0 = false) ∧
    (let s : State := { se with ctxs := [(0, { obsctl := 0x40000001, held := true, stopped := true })] }
     s.sampleDue 0 0 = some 64 ∧ (s.ctx 0).held = true ∧ (s.ctx 0).stopped = true ∧ (s.ctx 0).terminated = false ∧
     (s.warps.find? (fun kv => kv.2.id.ctx == 0 && kv.2.id.grid == 1 && s.teamIndex kv.2 == 0 &&
        kv.2.id.w == 31 / kv.2.width && kv.2.id.place.isSome && !kv.2.retired)).map Prod.fst = some 1) ∧
    se.manages (.software false) 0 = true ∧ se.manages .firmware 5 = false ∧
    se.manages (.software true) 0 = false ∧ bits (0xF8FFFFFF : Word).toNat 26 24 = 0 ∧ bits (0x01000000 : Word).toNat 26 24 ≠ 0 ∧
    (let s : State := { se with ctxs := [(0, { bps := [{ pc := 0x10000 }] })] }
     s.bpMatch fresh1 = none) := by decide +kernel

/-- A descriptor of a context that does not exist and one that is malformed; queues, invalidations, a halted warp, page modes and
the bounds of FRETRY. -/
theorem witness_SystemEvents :
    (let l : List Word := [9, 1, 0x1000, 0, 0x4000, 0, 0x00010001, 4, 0x5000, 0, 0x6000, 0] ++ List.replicate 20 0
     (ctxOf l).isSome = true ∧ se.ctxs.get? 9 = none ∧ ((ctxOf l).map (fun c => c.d.secure)) = some false ∧ ctxOf (9 :: 0 :: l.drop 2) = none ∧
     (State.svc { se with svc := { se.svc with ready := true } }).ready = true) ∧
    (taken2 se 0 (fun c => c.tileMask) 383 0x7FFF = false ∧
      taken2 { se with ctxs := [(0, {}), (1, { tileMask := [(3, 1)] })] } 0 (fun c => c.tileMask) 3 1 = true ∧
      taken2 se 0 (fun c => c.creelMask) 3 0xFF = false) ∧
    inWindow 0x1000 = false ∧ inCreel 0x1000 = false ∧ (queueOf [0x20000, 0, 4 + 0x80, 0, 0, 1, 0, 0]).isSome = true ∧
    (let i : Inval := { id := 4, ctx := 0, page := 0, pages := 0 }
     (State.invals { se with invals := [i] }).find? (fun i => i.id == 4) = some i) ∧
    (let w : Warp := { fresh1 with iss := { fresh1.iss with resume := .halt } }
     (withW w).warps.get? 1 = some w ∧ w.iss.resume = .halt) ∧
    (bits (0x401008A1 : Word).toNat 23 16 < bits (0x401008A1 : Word).toNat 31 24 ∧ bits (0x401008A1 : Word).toNat 15 8 ≠ 0) ∧
    bits (0x101008A0 : Word).toNat 31 24 ≤ bits (0x101008A0 : Word).toNat 23 16 ∧ 1024 ≤ (0x400 : Word).toNat ∧ (0x3FF : Word).toNat < 1024 := by
  decide +kernel

/-- Contexts that run and that do not, a checkpoint's image, temperatures at the bound, and SPDM answers given. -/
theorem witness_ServiceEvents :
    se.anyRunning = true ∧ State.reset.anyRunning = false ∧ ((State.svc { se with svc := { se.svc with image := some se.image } }).image).isSome = true ∧
    (∀ kv ∈ (State.cores { se with cores := [(0, { temp := 114 })] }), kv.2.temp < 115) ∧
    (∀ k ∈ [0x84, 0xE1, 0xE3], ({ se.svc with spdm := [0xE3, 0xE1, 0x84] } : Service).spdm.contains k = true) ∧
    se.svc.spdm.contains 0x84 = false ∧ ((0 : Nat) < 32 ∧ (24 : Nat) < 32 ∧ 0 % 8 = 24 % 8) := by
  decide +kernel

/-! More clauses of the statements above. -/

/-- Words of majors 0x29 and 0x3E, a minor beyond the last, a CVT whose pair is not listed, and one of major 0 (R54, R56, R149). -/
theorem witness_UndecodedWords_kinds :
    [0x52000000, 0x7C000000, 0x0DE00000, 0x24600000, 0x37400000, 0x21E00000].map (fun x => decode x) =
      List.replicate 6 (Except.error DecErr.unimpl) ∧ decode 0x00000001 = .error .ill := by decide +kernel

/-- In handler state: a JOIN that a register takes, a STRIKE, an EXIT that leaves lanes of EMASK and one that leaves none. -/
theorem witness_RejoinAndExit_handler :
    let w : Warp := { inHandler with live := 0x1FFFFFFFF }
    let v : Warp := { w with hnd := { w.hnd with emask := 0x100000003 } }
    (issuing w).cx = some (sees w) ∧ (issuing v).cx = some (sees v) ∧ (sees w).g.xp = none ∧ w.hnd.on = true ∧
    w.live &&& ~~~(sees w).mask ≠ 0 ∧ w.busy = false ∧ ((w.jreg 0).join (sees w).mask (sees w).pc).isSome = true ∧
    w.hnd.emask &&& w.live &&& ~~~(sees w).mask = 0 ∧ v.hnd.emask &&& v.live &&& ~~~(sees v).mask ≠ 0 := by decide +kernel

/-- The last EXIT of a warp, with nothing that it waits for and with a member outstanding. -/
theorem witness_RejoinAndExit_last :
    fresh1.live &&& ~~~(sees fresh1).mask = 0 ∧ fresh1.reports = [] ∧ (fresh1.refusal (fun _ => true)).isNone = true ∧
    fresh1.hnd.on = false ∧ (issuing fresh1).exitWait 1 = none ∧
    (let s : State := { issuing fresh1 with members := [(2, { uid := 1, key := 0, seq := 0 })] }
     s.cx = some (sees fresh1) ∧ (s.exitWait 1).isSome = true) := by decide +kernel

/-- Numbers, infinities and NaNs of BF16, and the types of a conversion between them and integers (R119, R147). -/
theorem witness_ConversionWords_values :
    unpack .bf16 0x3F80 = .fin false 0x80 (-7) ∧ unpack .bf16 0xFF80 = .inf true ∧ isNan .bf16 0x7F81 = true ∧
    isSnan .bf16 0x7F81 = true ∧ unpack .bf16 0x8000 = .fin true 0 (-133) ∧ fmtType 10 = some .bf16 ∧ intType 4 = some (true, 32) ∧
    intType 5 = some (false, 32) ∧ fmtType 11 = some .e4m3 := by decide +kernel

/-- EPC in handler state, with its low bits zero and not. -/
theorem witness_MoveWords_epc :
    let w : Warp := { inHandler with regs := { inHandler.regs with s := [(4, 0x10000), (5, 2)] } }
    (issuing w).cx = some (sees w) ∧ (sees w).neutral ∧ (sees w).free (issuing w) (.s 4 :: ctlNames 16 0) ∧
    (sees w).free (issuing w) (.s 5 :: ctlNames 17 0) ∧ w.hnd.on = true ∧ fresh1.hnd.on = false ∧
    (sees w).readS (issuing w) 4 &&& 3 = 0 ∧ (sees w).readS (issuing w) 5 &&& 3 ≠ 0 :=
  ⟨by decide +kernel, (by show _ = true; decide +kernel), free_of (by decide +kernel), free_of (by decide +kernel), by decide +kernel⟩

/-- VWRI with an index beyond X0's bound in lanes 0 and 31. -/
theorem witness_IndexedRegisterWords_fails :
    let w : Warp := { zeroed none with regs := { (zeroed none).regs with x := [(0, 0x80800008)], v := [(4 * 64, 200), (4 * 64 + 31, 120)] } }
    let c : Cx := { seesZ none with w := w }
    okB (c.prep (issuing w) { use := { z := false, xsel := true }, a := some (4, 1), b := some (5, 1), extra := [.x 0] }) = true ∧
    (lanesOf c.mask).filter (fun i => (c.dynReg (c.readX (issuing w) 0) (c.readV (issuing w) 4 i)).2) = [0, 31] := by decide +kernel

/-- PREF of lines of device memory, with room, and of register pairs beyond the file. -/
theorem witness_LineWords_pref :
    let ok := okLanes (cg.globalLanes sg .load 1 (cg.addresses sg false 2))
    let lines := (ok.filterMap (fun p => match p.2.2 with | .dev pa => some (lineOf pa) | _ => none)).eraseDups
    (cg.w.badReg none 2 2).isSome = false ∧ lines = [0x20000] ∧
    roomB sg cg { cg.op sg .pref 0 0 {} 0 with mem := none, units := lines.map (fun l => { lane := 0, tgt := .dev l, size := 0 }) } = true ∧
    (cg.w.badReg none 127 2).isSome = true := by decide +kernel

/-- A warp with lane ports whose queues are three deep; one whose port E lost its peer by unbinding and by retiring. -/
theorem witness_PushAndPop_lanes :
    let e : PortVal := { tx := 0, val := 7, vis := true }
    let w : Warp := { zeroed none with id := { (zeroed none).id with lanePorts := true }
                                       ports := setAt fresh1.ports 1 { queue := [(0, [e, e, e]), (31, [e, e, e])] } }
    let c : Cx := { seesZ none with w := w }
    (issuing w).cx = some c ∧ lanesOf c.mask ≠ [] ∧ c.resolve 1 c.mask none 3 1 = .ok 3 ∧ c.free (issuing w) [.v 3 c.mask, .part] ∧
    (∀ l ∈ lanesOf c.mask, ((c.w.port 1).lane (laneDest (bits (c.readPart (issuing w)).toNat 2 0) 0 l)).length < portCap 0) ∧
    okB (c.consume (issuing w) 1) = true ∧ oppPort 0 < c.w.ports.length ∧
    (∀ gone ∈ [true, false], let s := weave { stocked 32 1 with st := .orphaned, gone := gone } {}
      let k := seesW s
      s.cx = some k ∧ (k.w.port 4).st = .orphaned ∧ (k.w.port 4).gone = gone ∧ (∀ l ∈ lanesOf k.mask, 0 < (k.w.port 4).ready l) ∧
      (∀ l ∈ lanesOf k.mask, (((k.w.port 4).lane l).head?.map (fun v => v.bad)) = some false) ∧
      (let t := weave { joined 32 with st := .orphaned, gone := gone } {}
       (seesW t).mask = k.mask ∧ ((seesW t).w.port 4).ready 0 = 0)) := by
  intro e w c
  exact ⟨by decide +kernel, by decide +kernel, is_of (by decide +kernel), free_of (by decide +kernel), by decide +kernel, by decide +kernel,
    by decide +kernel, by decide +kernel⟩

/-- Fields with one bad word each, a generation at its end, and MXRD of an element whose lower lanes are good. -/
theorem witness_MatrixBindings_bad :
    let v : KMap Word := [(16 * 64, 15), (17 * 64, 0x800000), (20 * 64, 0), (21 * 64, 0x40), (24 * 64, 15), (25 * 64, 0x7FFF80), (26 * 64, 0),
      (28 * 64, 0), (29 * 64, 0), (30 * 64, 255), (31 * 64, 0), (34 * 64, 255), (35 * 64, 0x800001), (36 * 64, 255), (38 * 64, 0)]
    let c := seesR [] v
    let s : State := { rich (richW [] v) with
      teams := [(1, { grid := 1, core := some 0, warps := [1], threads := 32, size := 0x2000, handles := [(15, { bound := true, gen := 0xFFFF })] })] }
    s.cx = some c ∧ c.mask ≠ 0 ∧ c.free s (vNames 16 30 (laneBit c.lane)) ∧
    (c.readV s 17 c.lane).toNat = 2 ^ 23 ∧ (c.readV s 21 c.lane).toNat % 128 ≠ 0 ∧
    ((c.readV s 25 c.lane).toNat < 2 ^ 23 ∧ (c.readV s 25 c.lane).toNat % 128 = 0 ∧ (c.readV s 26 c.lane).toNat = 0) ∧
    ((s.team 1).handle 15).bound = true ∧ ((s.team 1).handle 15).gen = 0xFFFF ∧
    ((c.readV s 30 c.lane).toNat < 256 ∧ (c.readV s 31 c.lane).toNat = 0) ∧ 2 ^ 23 < (c.readV s 35 c.lane).toNat ∧
    ((c.readV s 36 c.lane).toNat < 256 ∧ (c.readV s 38 c.lane).toNat = 0) :=
  ⟨by decide +kernel, by decide +kernel, free_of (by decide +kernel), by decide +kernel⟩

/-- A result of a resident warp, a mask result that another one races, and a sampled one; LQTBLs of one core in order. -/
theorem witness_ReturnEvents_resident :
    let r : Result := { id := 4, due := 3, writes := [.v 5 [(0, 1), (63, 2)]], word := 0x0D000000 }
    let m : Result := { id := 5, writes := [.m 15 3 1], word := 0x0D000000 }
    let w : Warp := { fresh1 with iss := { fresh1.iss with outstanding := [r, m, { m with id := 6 }, { r with id := 7, sample := some (.port 0) }] } }
    w.id.place.isSome = true ∧ w.iss.outstanding.find? (fun r => r.id == 4) = some r ∧ w.iss.outstanding.find? (fun r => r.id == 5) = some m ∧
    (w.iss.outstanding.filter (fun q => q.id != 5)).any (fun q => q.writes.any (RegWrite.ofMask 15)) = true ∧
    (w.iss.outstanding.filter (fun q => q.id != 4)).any (fun q => q.writes.any (RegWrite.ofMask 14)) = false ∧
    r.ready = true ∧ logKind r.word = 0 ∧ ((w.iss.outstanding.find? (fun r => r.id == 7)).map (fun r => r.sample.isSome)) = some true ∧
    (let l : List LqWrite := [{ id := 6, uid := 1, due := 5, writes := [] }, { id := 8, uid := 1, due := 5, writes := [] }, { id := 9, uid := 1, due := 6, writes := [] }]
     l.all (fun x => decide (5 ≤ x.due)) = true ∧ l.any (fun x => decide (x.due < 6)) = true) := by decide +kernel

/-- A chime behind one to another warp, and a target that is not resident. -/
theorem witness_ChimeEvents_order :
    let far : Chime := { chime1 with target := 31 }
    let s : State := { se with chimes := [(2, far), (3, chime1)] }
    (∀ p ∈ s.chimes, p.1 < 3 → (s.chimeTarget p.2.ctx p.2.grid p.2.target p.2.tag).map Prod.fst ≠ some 1) ∧ fresh1.here = true ∧
    chime1.out = false ∧ ({ fresh1 with id := { fresh1.id with place := none } } : Warp).id.place = none := by decide +kernel

/-- An atomic on bytes that are not bad, and a page whose request found the queue full. -/
theorem witness_MemoryEvents_pages :
    (flying (.atomic 15) (.dev 0x20000)).targetBad (.dev 0x20000) 4 = false ∧
    (let s : State := { walking 0x40000000 with pages := [{ who := .warp 1, ctx := 0, page := 0x40000, missed := true }] }
     s.pages.any (fun p => p.who == .warp 1 && p.page == 0x40000 && p.missed) = true ∧ (s.pageRequest (walkReq 0x40000000)).isSome = true ∧
     ((walking 0x40000000).pages.any (fun p => p.missed)) = false) ∧
    (let s : State := { se with ctxs := [(0, { d := { prqTail := 4, prqLog := 2 } })] }
     (s.pageRequest (walkReq 0x40000000)).isNone = true) := by decide +kernel

/-- An RCWAIT that a landing of one byte satisfies, beside a trigger that is due. -/
theorem test_CounterRules_waits :
    let r : Req := { kind := .rcWait, uid := 1, ctx := 0, core := 0, v := 3, lane := 0, args := [7], begun := true }
    let s : State := { se with cores := [(0, { rcs := [(7, { count := 0xFFFFFFFE, target := 0xFFFFFFFF, st := 1 })] })], reqs := [(4, r)] }
    ((s.count 0 7 1).rc 0 7).count = 0xFFFFFFFF ∧ ((s.count 0 7 1).rc 0 7).st = 2 ∧ (s.count 0 7 1).reqs = [] := by decide +kernel

/-- An answer that comes after the last attempt, and the fabric engine's firmware not switching. -/
theorem witness_FabricEvents_late :
    let c : Chan := { chan1 with late := [7] }
    (linked c).chans.get? 0 = some c ∧ c.sent.find? (fun x => x.req.seq == 7#16) = none ∧ c.late.contains 7 = true ∧
    (List.range 4).any ((linked c).switching 1) = false := by decide +kernel

/-- A rendezvous of two members that the second ENTRY completes, with equal and with other signatures; a member's part. -/
def meeting (sig : List Word) : State := { grouped with
  colls := [{ ctx := 0, group := 0, n := 1, entries := [(1, [0x00000141, 4, 0, 0])], sig := sig, copy := some 3 }]
  copies := [(3, { copy1 with st := .moving, rc := List.replicate 12 0 ++ [0x1000, 0, 0, 0], coll := some 1 })] }

theorem witness_CollectiveEvents_takes :
    let l : List Word := [0x05000000, 0, 1, 0, 0x00000141, 4, 0, 0]
    let s := meeting []
    (s.groupOf 0 0).st = 1 ∧ (s.groupOf 0 0).size = 2 ∧ ((l.drop 4).take 4) = [0x00000141, 4, 0, 0] ∧
    ((s.coll 0 0 1).map (fun k => (k.entries.length + 1, k.goSent))) = some (2, false) ∧
    (let k : Coll := { (s.coll 0 0 1).getD { ctx := 0, group := 0, n := 1 } with entries := [(1, [0x00000141, 4, 0, 0]), (0, [0x00000141, 4, 0, 0])] }
     (s.putColl k).allIn k = true ∧ (s.putColl k).sumsFit k = true) ∧
    (s.groupOf 0 1).st ≠ 2 ∧ s.isCoord 0 0 1 = some true ∧ (meeting [0x00000141, 4, 9, 0]).isCoord 0 0 1 = some true ∧
    s.isCoord 0 0 2 = none ∧
    (let c : Copy := (s.copies.getD 3 copy1)
     c.ctx = 0 ∧ recCrel c.rc = true ∧ recGroup c.rc = 0 ∧ c.fail = none ∧ c.cancel = false ∧ c.mism = none) := by decide +kernel

/-- Packets of each kind that a queue's distributor may take at once. -/
theorem witness_LaunchEvents_ready :
    packets.all (fun l => let p := (queued l).packetSeen 4
      (p.queue 4).live && p.queueRuns 4 && !p.yields 4 && !p.switching 0 0 && distB (p.packet 4)) = true ∧
    ((queued (nth packets 1 [])).packetSeen 4).takeable 4 = true ∧ se.replaying 0 = false ∧ se.switching 0 0 = false := by decide +kernel

/-- A closed segment, and a core of the context's share that no warp holds. -/
theorem witness_ObserveEvents_replay :
    let s : State := { se with warps := [], ctxs := [(0, { share := [3] })], cores := [(3, { segs := [{ ctx := 0, opened := false }] })] }
    ((s.allSegs[0]?).map (fun g => g.opened)) = some false ∧ s.mayReplay 3 0 = true ∧ se.mayReplay 0 0 = false := by decide +kernel

/-- Areas within and outside device memory, a secure and privileged context, an answer to the host, blocks in use and not. -/
theorem witness_SystemEvents_worlds :
    let d : Desc := { root := 0x1000, faultBase := 0x4000, faultN := 4, diagBase := 0x5000, diagN := 1, prqBase := 0x6000, saveBase := 0x7000 }
    let s : State := { se with svc := { se.svc with ready := true, session := true } }
    s.areasOk d = true ∧ s.areasOk { d with root := 0x18000000000 } = false ∧ s.creates (.software false) d = true ∧
    s.creates (.software true) { d with secure := true, priv := true } = false ∧ s.speaks (.software true) true = true ∧
    se.speaks (.software true) true = false ∧ se.speaks (.software false) true = false ∧
    se.blockHolds (bits (0x00000000 : Word).toNat 3 0) (bits (0x00000000 : Word).toNat 19 4) = true ∧ se.blockHolds 1 0 = false ∧
    se.partials = [] ∧ se.avtos.copies = [] := by decide +kernel

/-- A switch of firmware under way, an image with its keys and one without, a core at each bound, and the power cap exceeded. -/
theorem witness_ServiceEvents_bounds :
    let s : State := { se with svc := { se.svc with stops := [(11, 5)], session := true, cap := 700, drawn := 701 }
                               cores := [(0, { temp := 115 }), (383, { temp := 125 })] }
    s.switching 2 3 = true ∧ se.switching 2 3 = false ∧ (s.image.keys).isSome = true ∧ (se.image.keys).isSome = false ∧
    s.svc.cap < s.svc.drawn ∧ s.cores.any (fun kv => decide (115 ≤ kv.2.temp)) = true ∧
    s.cores.any (fun kv => dieOf kv.1 == 3 && decide (125 ≤ kv.2.temp)) = true ∧ (s.cores.any (fun kv => dieOf kv.1 == 0 && decide (125 ≤ kv.2.temp))) = false := by
  decide +kernel

/-- The example of AES-256 in FIPS 197, C.3. -/
theorem test_aes :
    let ks := Aes.roundKeys (List.range 32)
    let l := [0x8E, 0xA2, 0xB7, 0xCA, 0x51, 0x67, 0x45, 0xBF, 0xEA, 0xFC, 0x49, 0x90, 0x4B, 0x49, 0x60, 0x89]
    Aes.encrypt ks ((List.range 16).map (fun i => 17 * i)) = l ∧ Aes.decrypt ks l = (List.range 16).map (fun i => 17 * i) := by decide +kernel

end Sys2Proof.Tests
end

section
/-! SUPPORT. What the copy engine's words do at their issue (R255, R264, R268, R271 to R276). -/

namespace Sys2Proof.Machine

open Sys2Proof

/-- Whether a quad has room for one more copy, or for one more armed trigger (R255, R266). -/
def State.copyRoom (s : State) (quad : Nat) : Bool → Prop
  | false => s.copyContexts quad < 32
  | true => s.triggerSlots quad < 64

theorem State.copyRoom_iff {s : State} {quad : Nat} {trig : Bool} : s.copyRoom quad trig ↔
    (if trig then decide (64 ≤ s.triggerSlots quad) else decide (32 ≤ s.copyContexts quad)) = false := by
  cases trig <;> simp [State.copyRoom]

/-- A copy as its word leaves it for acceptance: its posting lane's record and keys, with every chunk unread (R255). -/
def Cx.posted (c : Cx) (v : Nat) (trig : Bool) (order : Nat) (words : List Word) (dep : Dep) (mem : Nat) : Copy :=
  { uid := c.uid, ctx := c.ctx, core := c.core, team := c.w.id.team, lane := c.lane, v := v, rc := words
    trig := trig, order := order, dep := dep, mem := some mem, unread := recChunks words }

/-- A progress word is its figure alone: it is neither DONE nor ERR and names no cause (R16). -/
theorem statusWord_progress (n : Nat) : statusWord false false 0 n = BitVec.ofNat 32 (min n 0xFFFFFF) := by
  refine BitVec.eq_of_toNat_eq ((BitVec.toNat_append (0#1 ++ 0#1 ++ 0#6) (BitVec.ofNat 24 (min n 0xFFFFFF))).trans ?_)
  have h : min n 0xFFFFFF < 2 ^ 24 := by omega
  simp
  omega

section
variable {s : State} {c : Cx} {o : FCp} {v : Nat} (hc : s.bare c) (hr : c.resolve 0 c.mask none o.v.toNat 1 = .ok v)
  (hb : c.bWrites s [v] (laneBit c.lane) = .ok ()) (hp : o.p ≠ 15)
include hc hr hb hp

/-- A copy whose warp and quad have room is accepted from its record, under its keys. -/
theorem State.runTarget_copyPost_accepts {trig : Bool} {words : List Word} {dep : Dep} {m : Nat} {s1 : State}
    (hf : c.free s [.v v (laneBit c.lane), .s o.n.toNat])
    (hown : (s.copies.filter (fun kv => kv.2.uid == c.uid)).length < 16) (hroom : s.copyRoom (quadOf c.core) trig)
    (hw : c.nearRecord s (c.readS s o.n.toNat) 64 = .ok words) (hk : c.keys s o.c.toNat o.p.toNat = .ok (dep, m, s1)) :
    s.runTarget o.sw (fun c s => c.copyPost s o trig) =
      .next ((((s1.newId.2.outward c.core c.ctx (o.c.toNat :: o.p.toNat :: words.map BitVec.toNat)).statusPend c.uid
        (.copy s1.fresh) (.v v (laneBit c.lane))).acceptCopy s1.fresh (c.posted v trig s1.fresh words dep m)).closeGroup c o.sw
          .next) := by
  unfold Cx.free at hf
  have hown := decide_eq_false (Nat.not_le.2 hown)
  refine State.runTarget_ok hc.1 ?_
  simp only [Cx.copyPost, Cx.noXp_of_none hc.2, hr, hf, hb, hp, hown, State.copyRoom_iff.1 hroom, hw, hk, bind, Except.bind,
    Bool.or_self, if_false, Bool.false_eq_true]
  rfl

/-- A copy without room in its warp or its quad parks. -/
theorem State.runTarget_copyPost_parks {trig : Bool} (hf : c.free s [.v v (laneBit c.lane), .s o.n.toNat])
    (hfull : 16 ≤ (s.copies.filter (fun kv => kv.2.uid == c.uid)).length ∨ ¬ s.copyRoom (quadOf c.core) trig) :
    s.runTarget o.sw (fun c s => c.copyPost s o trig) = .next (s.parkWarp c.uid .engine) := by
  unfold Cx.free at hf
  have hfull : (decide (16 ≤ (s.copies.filter (fun kv => kv.2.uid == c.uid)).length) ||
      (if trig then decide (64 ≤ s.triggerSlots (quadOf c.core)) else decide (32 ≤ s.copyContexts (quadOf c.core)))) = true := by
    rcases hfull with hown | hroom
    · rw [decide_eq_true hown, Bool.true_or]
    · rw [Bool.eq_true_of_not_eq_false (mt State.copyRoom_iff.2 hroom), Bool.or_true]
  refine State.runTarget_park hc.1 ?_
  simp only [Cx.copyPost, Cx.noXp_of_none hc.2, hr, hf, hb, hp, hfull, bind, Except.bind, if_false, if_true]

/-- A request on a counter that is allotted to the context is taken up or left to its notice. -/
theorem State.runTarget_rcPost_starts {wait : Bool} {id : Nat} {s1 : State}
    (hf : c.free s ([.v v (laneBit c.lane), .s o.n.toNat] ++ (if wait then [] else [.s (o.n.toNat + 1)])))
    (hk : s.rcOk c.ctx c.core (c.readS s o.n.toNat).toNat = true)
    (hq : c.request s (if wait then .rcWait else .rcArm) v o.c.toNat o.p.toNat
      (BitVec.ofNat 32 (c.readS s o.n.toNat).toNat :: (if wait then [] else [c.readS s (o.n.toNat + 1)])) = .ok (id, s1)) :
    s.runTarget o.sw (fun c s => c.rcPost s o wait) = .next ((s1.startReq id State.applyRc).closeGroup c o.sw .next) := by
  unfold Cx.free at hf
  refine State.runTarget_ok hc.1 ?_
  simp only [Cx.rcPost, Cx.noXp_of_none hc.2, hr, hf, hb, hp, Cx.counter, hk, hq, bind, Except.bind, if_false, if_true]

end

section
variable {s : State} {c : Cx} {o : FVn} {v : Nat} (hc : s.bare c) (hr : c.resolve 0 c.mask none o.v.toNat 1 = .ok v)
include hc hr

/-- RCREAD of an allotted counter gives every active lane its count, sampled when it is written. -/
theorem execRcread_allotted (hf : c.free s [.v v c.mask, .s o.n.toNat]) (hb : c.uncaptured s [v])
    (hk : s.rcOk c.ctx c.core (c.readS s o.n.toNat).toNat = true) :
    execRcread o s = .next (((s.result c 4 [.v v c.mask] [.v v ((lanesOf c.mask).map (fun l =>
      (l, BitVec.ofNat 32 (min (s.rc c.core (c.readS s o.n.toNat).toNat).count 0xFFFFFF))))]).sampling c.uid
        (.counter c.core (c.readS s o.n.toNat).toNat)).closeGroup c o.sw .next) := by
  unfold Cx.free at hf
  unfold Cx.uncaptured at hb
  refine State.runTarget_ok hc.1 ?_
  simp only [Cx.noXp_of_none hc.2, hr, hf, hb, Cx.counter, hk, statusWord_progress, bind, Except.bind, if_true]

/-- RCREAD of a counter that is not allotted is PROT, at the counter's number (R262, R270). -/
theorem execRcread_prot (hf : c.free s [.v v c.mask, .s o.n.toNat]) (hb : c.uncaptured s [v])
    (hk : s.rcOk c.ctx c.core (c.readS s o.n.toNat).toNat = false) :
    execRcread o s = .next (s.raise c
      { cause := 0x08, info1 := 0, info2 := BitVec.ofNat 32 (c.readS s o.n.toNat).toNat, info3 := 0 }) := by
  unfold Cx.free at hf
  unfold Cx.uncaptured at hb
  have low (x : Word) : (x.setWidth 64).setWidth 32 = BitVec.ofNat 32 x.toNat := by simp
  have high (x : Word) : (x.setWidth 64).extractLsb' 32 32 = 0 := by
    apply BitVec.eq_of_toNat_eq; simp [Nat.shiftRight_eq_div_pow]; omega
  refine State.runTarget_trap hc.1 ?_
  simp only [Cx.noXp_of_none hc.2, hr, hf, hb, Cx.counter, hk, trapLane, low, high, bind, Except.bind, if_false, Bool.false_eq_true]
  rfl

/-- CPOLL gives the word of the copy that is pending in its status register, or that none is. -/
theorem execCpoll_gives (hf : c.free s [.s o.n.toNat]) :
    execCpoll o s = .next (((s.afterS c 16 [(o.n.toNat, s.cpollWord c.uid v c.lane)]).sampling c.uid
      (.copy v c.lane)).closeGroup c o.sw .next) := by
  unfold Cx.free at hf
  refine State.runTarget_ok hc.1 ?_
  simp only [Cx.noXp_of_none hc.2, hr, hf, bind, Except.bind]
  rfl

end

theorem State.cpollWord_of_some {s : State} {uid v lane : Nat} {kv : Nat × Copy}
    (h : s.copies.find? (fun kv => kv.2.uid == uid && kv.2.v == v && kv.2.lane == lane) = some kv) :
    s.cpollWord uid v lane = BitVec.ofNat 32 (min (if kv.2.st = .armed then 0 else kv.2.committed) 0xFFFFFF) := by
  simp only [State.cpollWord, h, statusWord_progress]

theorem State.cpollWord_of_none {s : State} {uid v lane : Nat}
    (h : s.copies.find? (fun kv => kv.2.uid == uid && kv.2.v == v && kv.2.lane == lane) = none) :
    s.cpollWord uid v lane = 0x80000000 := by
  simp only [State.cpollWord, h]

/-- TCANCEL stops the copies of the warp whose status is pending in Vs of an active lane. -/
theorem execTcancel_stops {s : State} {c : Cx} {o : FV} {v : Nat} (hc : s.bare c) (hr : c.resolve 0 c.mask none o.v.toNat 1 = .ok v) :
    execTcancel o s = .next ((((s.copies.filter (fun kv => kv.2.uid == c.uid && kv.2.v == v && c.mask.getLsbD kv.2.lane)).map
      Prod.fst).foldl (fun s id => s.stopCopy id true (fun k => { k with cancel := true }))
        (c.command s [v, c.mask.toNat])).closeGroup c o.sw .next) := by
  refine State.runTarget_ok hc.1 ?_
  simp only [Cx.noXp_of_none hc.2, hr, bind, Except.bind]

/-- Settles O38: each word's body meets its checks, so that what is left is what the word does. -/
theorem copyWords : Obligations.CopyWords := by
  intro s c hc
  refine ⟨fun o v hr hf hb hp => ⟨?tcopy, ?tcopyt⟩, fun o v id s1 hr hb hp hk => ⟨?rcarm, ?rcwait⟩,
    fun o v hr => ⟨?rcread, fun hf => ⟨fun kv h => ?found, fun h => ?free⟩⟩, fun o v hr => execTcancel_stops hc hr⟩
  case tcopy =>
    exact ⟨fun _ _ _ _ => State.runTarget_copyPost_accepts (trig := false) hc hr hb hp hf,
      State.runTarget_copyPost_parks (trig := false) hc hr hb hp hf⟩
  case tcopyt =>
    exact ⟨fun _ _ _ _ => State.runTarget_copyPost_accepts (trig := true) hc hr hb hp hf,
      State.runTarget_copyPost_parks (trig := true) hc hr hb hp hf⟩
  case rcarm => exact fun hf => State.runTarget_rcPost_starts (wait := false) hc hr hb hp hf hk
  case rcwait => exact fun hf => State.runTarget_rcPost_starts (wait := true) hc hr hb hp hf hk
  case rcread => exact fun hf hb => ⟨execRcread_allotted hc hr hf hb, execRcread_prot hc hr hf hb⟩
  case found => exact State.cpollWord_of_some h ▸ execCpoll_gives hc hr hf
  case free => exact State.cpollWord_of_none h ▸ execCpoll_gives hc hr hf

end Sys2Proof.Machine
end

section
/-! SUPPORT. Positions of a list, and keyed maps after a key is removed, after a test and after a rewriting of every value. -/

namespace Sys2Proof

theorem nth_eq_getD {α : Type} (l : List α) (i : Nat) (d : α) : nth l i d = l.getD i d := by
  induction l generalizing i with
  | nil => rfl
  | cons x t ih =>
    cases i with
    | zero => rfl
    | succ i => simpa [nth] using ih i

/-- The element at a position is the default or stands in the list. -/
theorem nth_default_or_mem {α : Type} (l : List α) (i : Nat) (d : α) : nth l i d = d ∨ nth l i d ∈ l := by
  rw [nth_eq_getD, List.getD_eq_getElem?_getD]
  cases h : l[i]? with
  | none => exact .inl rfl
  | some x => exact .inr (List.mem_of_getElem? h)

/-- Removing a key leaves every other key. -/
theorem KMap.get?_erase_ne {α : Type} (m : KMap α) {i j : Nat} (h : j ≠ i) : (KMap.erase m i).get? j = m.get? j := by
  induction m with
  | nil => rfl
  | cons p t ih =>
    obtain ⟨k, v⟩ := p
    unfold KMap.erase
    split
    · rename_i e
      simp [KMap.get?, e, Ne.symm h]
    · simp [KMap.get?, ih]

/-- What is kept of a map passes the test. -/
theorem KMap.of_mem_keep {α : Type} {m : KMap α} {p : Nat → α → Bool} {k : Nat} {x : α} (h : (k, x) ∈ m.keep p) : p k x = true :=
  (List.mem_filter.1 h).2

/-- What holds of the default and of every rewritten value holds at every key. -/
theorem KMap.getD_mapv_of {α β : Type} {m : KMap α} {f : Nat → α → β} {d : β} {i : Nat} {P : β → Prop} (hd : P d)
    (hf : ∀ x, P (f i x)) : P ((m.mapv f).getD i d) := by
  unfold KMap.getD
  rw [KMap.get?_mapv]
  cases m.get? i with
  | none => exact hd
  | some x => exact hf x

end Sys2Proof
end

section
/-! SUPPORT. What the host reads of its own memory and of device memory (R412, R413). -/

namespace Sys2Proof.Machine

open Sys2Proof

@[simp] theorem Memory.length_readN (m : List Host.Cell) (a n : Nat) : (Memory.readN m a n).length = n := by
  induction n generalizing a with
  | zero => rfl
  | succ n ih => simp [Memory.readN, ih]

theorem Memory.readN_add (m : List Host.Cell) (a k n : Nat) :
    Memory.readN m a (k + n) = Memory.readN m a k ++ Memory.readN m (a + k) n := by
  induction k generalizing a with
  | zero => simp [Memory.readN]
  | succ k ih =>
    rw [Nat.succ_add, Memory.readN, Memory.readN, ih, Nat.add_assoc, Nat.add_comm 1 k]
    rfl

@[simp] theorem State.length_hostSees (s : State) (a n : Nat) : (s.hostSees a n).1.length = n := by
  simp [State.hostSees, State.hostRd]

/-- Each byte that a host reads of its own memory is the byte's value or an older one that it may still see (R413). -/
theorem State.hostSees_value_or_late (s : State) (a : Nat) {n i : Nat} (hi : i < n) :
    nth (s.hostSees a n).1 i 0 = nth (s.hostRd a n) i 0 ∨ nth (s.hostSees a n).1 i 0 ∈ s.avtos.late.getD (a + i) [] := by
  have hlen : i < (s.hostRd a n).length := by simpa [State.hostRd] using hi
  have hnth : nth (s.hostSees a n).1 i 0 = nth (s.avtos.late.getD (a + i) [])
      (s.choose (50000 + (a + i) / 8) (1 + (s.avtos.late.getD (a + i) []).length)) (nth (s.hostRd a n) i 0) := by
    simp [State.hostSees, nth_eq_getD _ i, List.getD_eq_getElem?_getD, List.getElem?_eq_getElem hlen]
  rw [hnth]
  exact nth_default_or_mem _ _ _

/-! Device memory as a program sees it. -/

@[simp] theorem State.length_seen (s : State) (pa n : Nat) : (s.seen pa n).length = n := by
  unfold State.seen
  split <;> simp [State.rd]

theorem State.seen_add (s : State) (pa k n : Nat) : s.seen pa (k + n) = s.seen pa k ++ s.seen (pa + k) n := by
  unfold State.seen
  split
  · exact Memory.readN_add s.mem pa k n
  · rw [List.range_add, List.map_append, List.map_map]
    simp only [Function.comp_def, Nat.add_assoc]

/-- A span within one that is seen. -/
theorem State.take_drop_seen (s : State) {pa i k n : Nat} (h : i + k ≤ n) : ((s.seen pa n).drop i).take k = s.seen (pa + i) k := by
  obtain ⟨r, rfl⟩ := Nat.exists_eq_add_of_le h
  rw [Nat.add_assoc, State.seen_add, State.seen_add s (pa + i), List.drop_left' (State.length_seen ..),
    List.take_left' (State.length_seen ..)]

/-- With no partials there is nothing to merge. -/
theorem State.mergeAt_of_no_partials {s : State} (h : s.partials = []) (pas : List Nat) : s.mergeAt pas = s := by
  simp [State.mergeAt, h]

/-- The state with the host's copies of device memory replaced. -/
def State.withCopies (s : State) (cs : KMap (List Byte)) : State := { s with avtos := { s.avtos with copies := cs } }

@[simp] theorem State.withCopies_mem (s : State) (cs : KMap (List Byte)) : (s.withCopies cs).mem = s.mem := rfl
@[simp] theorem State.withCopies_partials (s : State) (cs : KMap (List Byte)) : (s.withCopies cs).partials = s.partials := rfl
@[simp] theorem State.withCopies_seen (s : State) (cs : KMap (List Byte)) (pa n : Nat) : (s.withCopies cs).seen pa n = s.seen pa n := rfl

/-- A host's read within a line that it holds no copy of gives what is seen at the home, and may leave it a copy of that line. -/
theorem State.hostLine_of_no_copy {s : State} {pa n : Nat} (hp : s.partials = []) (hc : s.avtos.copies.get? (lineOf pa) = none)
    (hn : pa % 128 + n ≤ 128) : ∃ cs, s.hostLine pa n = (s.seen pa n, s.withCopies cs) ∧
      ∀ l, l ≠ lineOf pa → cs.get? l = s.avtos.copies.get? l := by
  have hline : lineOf pa + pa % 128 = pa := Nat.div_add_mod' pa 128
  have hofs : pa - lineOf pa = pa % 128 := by omega
  refine ⟨if s.choose (52000 + lineOf pa / 128) 2 = 0 then s.avtos.copies.set (lineOf pa) (s.seen (lineOf pa) 128)
    else s.avtos.copies.erase (lineOf pa), ?_, fun l hl => ?_⟩
  · simp only [State.hostLine, hc, ite_self, State.mergeAt_of_no_partials hp, hofs, State.take_drop_seen s hn, hline]
    rfl
  · split
    · exact KMap.get?_set_ne _ _ hl
    · exact KMap.get?_erase_ne _ hl

theorem State.hostSpan_zero (s : State) (pa fuel : Nat) : s.hostSpan pa 0 fuel = ([], s) := by
  cases fuel <;> rfl

/-- A host that holds no copy of a line from `pa` on reads a span of device memory as it is seen at its homes: the copies that it
takes on its way lie behind it. -/
theorem State.hostSpan_of_no_copies {s : State} {pa n fuel : Nat} (hp : s.partials = [])
    (hc : ∀ l, lineOf pa ≤ l → s.avtos.copies.get? l = none) (hf : pa % 128 + n ≤ 128 * fuel) :
    (s.hostSpan pa n fuel).1 = s.seen pa n ∧ (s.hostSpan pa n fuel).2.mem = s.mem := by
  induction fuel generalizing s pa n with
  | zero =>
    obtain rfl : n = 0 := by omega
    exact ⟨(List.eq_nil_of_length_eq_zero (s.length_seen pa 0)).symm, rfl⟩
  | succ fuel ih =>
    by_cases hn : n = 0
    · subst hn
      exact ⟨(List.eq_nil_of_length_eq_zero (s.length_seen pa 0)).symm, rfl⟩
    obtain ⟨k, hk⟩ : ∃ k, k = min n (128 - pa % 128) := ⟨_, rfl⟩
    obtain ⟨cs, hq, hcs⟩ := State.hostLine_of_no_copy (n := k) hp (hc _ (Nat.le_refl _)) (by omega)
    simp only [State.hostSpan, ← hk, hn, if_false, hq]
    by_cases hrest : n - k = 0
    · rw [hrest, State.hostSpan_zero, List.append_nil, show k = n by omega]
      exact ⟨rfl, rfl⟩
    · have hnext : lineOf (pa + k) = lineOf pa + 128 := by unfold lineOf; omega
      obtain ⟨hval, hmem⟩ := ih (s := s.withCopies cs) (pa := pa + k) (n := n - k) hp
        (fun l hl => (hcs l (by omega)).trans (hc l (by omega))) (by omega)
      refine ⟨?_, hmem⟩
      rw [hval, State.withCopies_seen, ← State.seen_add, show k + (n - k) = n by omega]

end Sys2Proof.Machine
end

section
/-! SUPPORT. What the events of system software leave (R29, R341, R382 to R384, R409 to R416, R420, R422). -/

namespace Sys2Proof.Machine

open Sys2Proof

/-! Contexts (R409, R410, R418). -/

theorem State.creates_firmware (s : State) (d : Desc) : s.creates .firmware d = true := by
  simp [State.creates, State.speaks]

/-- System software creates contexts of its own world: the secure world's within a session, and none that is PRIV. -/
theorem State.creates_software_iff {s : State} {b : Bool} {d : Desc} : s.creates (.software b) d = true ↔
    d.secure = b ∧ (b = true → s.svc.session = true ∧ d.priv = false) := by
  cases b <;> cases h : d.secure <;> simp [State.creates, State.speaks, h]

section
variable {s : State} {who : Requester} {words : List Word} {c : Ctx}

theorem execContextCreate_accepts (hc : ctxOf words = some c) (hready : s.svc.ready = true)
    (hid : s.ctxs.get? (nth words 0 0).toNat = none) (hwho : s.creates who c.d = true) (hareas : s.areasOk c.d = true) :
    execContextCreate ⟨who, words⟩ s =
      .next (State.answered { s with ctxs := s.ctxs.set (nth words 0 0).toNat c } true [nth words 0 0]) := by
  simp only [execContextCreate, hc, hready, hid, hwho, hareas, Option.isSome_none, Bool.not_true, Bool.or_self, if_false,
    Bool.false_eq_true]
  rfl

theorem execContextCreate_refuses (hc : ctxOf words = some c) (h : s.svc.ready = false ∨
      (s.ctxs.get? (nth words 0 0).toNat).isSome = true ∨ s.creates who c.d = false ∨ s.areasOk c.d = false) :
    execContextCreate ⟨who, words⟩ s = .next (s.answered false [nth words 0 0]) := by
  have hno : (!s.svc.ready || (s.ctxs.get? (nth words 0 0).toNat).isSome || !s.creates who c.d || !s.areasOk c.d) = true := by
    rcases h with h | h | h | h <;> simp only [h, Bool.not_false, Bool.true_or, Bool.or_true]
  simp only [execContextCreate, hc, hno, if_true]
  rfl

theorem execContextCreate_malformed (hc : ctxOf words = none) :
    execContextCreate ⟨who, words⟩ s = .next (s.answered false [nth words 0 0]) := by
  simp [execContextCreate, hc, ran]

end

/-- A context that exists, changed. -/
theorem State.modCtx_ctx {s : State} {ctx : Nat} (h : (s.ctxs.get? ctx).isSome = true) (f : Ctx → Ctx) :
    (s.modCtx ctx f).ctx ctx = f (s.ctx ctx) := by
  obtain ⟨c, hc⟩ := Option.isSome_iff_exists.1 h
  simp only [State.modCtx, State.ctx, KMap.getD_of_get? (KMap.get?_modify_self hc), KMap.getD_of_get? hc]

section
variable {s : State} {ctx : Nat} (hctx : (s.ctxs.get? ctx).isSome = true)
include hctx

theorem execAllotmentSet_tiles {core : Nat} {mask : BitVec 16} (hcore : core < 384)
    (hfree : taken2 s ctx (fun c => c.tileMask) core mask = false) : execAllotmentSet ctx (.tiles core mask) s =
      .next ((s.modCtx ctx (fun c => { c with tileMask := c.tileMask.set core mask })).answered true [BitVec.ofNat 32 ctx]) := by
  simp [execAllotmentSet, Option.isNone_eq_false_iff.2 hctx, Nat.not_le.2 hcore, hfree, ran]

theorem execAllotmentSet_tiles_taken {core : Nat} {mask : BitVec 16} (htaken : taken2 s ctx (fun c => c.tileMask) core mask = true) :
    execAllotmentSet ctx (.tiles core mask) s = .next (s.answered false [BitVec.ofNat 32 ctx]) := by
  simp [execAllotmentSet, Option.isNone_eq_false_iff.2 hctx, htaken, ran]

theorem execAllotmentSet_counters {core : Nat} {mask : BitVec 64} (hcore : core < 384) : execAllotmentSet ctx (.counters core mask) s =
    .next ((s.modCtx ctx (fun c => { c with rcMask := c.rcMask.set core mask })).answered true [BitVec.ofNat 32 ctx]) := by
  simp [execAllotmentSet, Option.isNone_eq_false_iff.2 hctx, Nat.not_le.2 hcore, ran]

theorem execAllotmentSet_creel {die : Nat} {mask : BitVec 8} (hdie : die < 4)
    (hfree : taken2 s ctx (fun c => c.creelMask) die mask = false) : execAllotmentSet ctx (.creel die mask) s =
      .next ((s.modCtx ctx (fun c => { c with creelMask := c.creelMask.set die mask })).answered true [BitVec.ofNat 32 ctx]) := by
  simp [execAllotmentSet, Option.isNone_eq_false_iff.2 hctx, Nat.not_le.2 hdie, hfree, ran]

end

theorem State.giveUp_warps (s : State) (ctx : Nat) : (s.giveUp ctx).warps = s.warps.keep (fun _ w => w.id.ctx != ctx) := rfl
theorem State.giveUp_teams (s : State) (ctx : Nat) : (s.giveUp ctx).teams = s.teams.keep (fun _ t => t.ctx != ctx) := rfl

theorem State.ctx_ne_of_mem_giveUp_warps {s : State} {ctx u : Nat} {w : Warp} (h : (u, w) ∈ (s.giveUp ctx).warps) : w.id.ctx ≠ ctx := by
  rw [State.giveUp_warps] at h
  simpa using KMap.of_mem_keep h

theorem State.ctx_ne_of_mem_giveUp_teams {s : State} {ctx k : Nat} {x : Team} (h : (k, x) ∈ (s.giveUp ctx).teams) : x.ctx ≠ ctx := by
  rw [State.giveUp_teams] at h
  simpa using KMap.of_mem_keep h

/-- The end of a context leaves device memory as it is. -/
theorem State.terminate_mem (s : State) (ctx : Nat) : (s.terminate ctx).mem = s.mem := by
  unfold State.terminate
  dsimp only
  split <;> rfl

/-- A context that ends leaves no warp and no team, and its memory as it was (R409). -/
theorem execContextEnd_leaves {s : State} {ctx : Nat} (hctx : (s.ctxs.get? ctx).isSome = true) :
    ∃ t : State, execContextEnd ctx s = .next t ∧ (∀ u w, (u, w) ∈ t.warps → w.id.ctx ≠ ctx) ∧
      (∀ k x, (k, x) ∈ t.teams → x.ctx ≠ ctx) ∧ t.mem = s.mem := by
  unfold execContextEnd
  rw [Option.isNone_eq_false_iff.2 hctx]
  exact ⟨_, rfl, fun _ _ => State.ctx_ne_of_mem_giveUp_warps, fun _ _ => State.ctx_ne_of_mem_giveUp_teams, State.terminate_mem s ctx⟩

/-! The host (R412, R413). -/

section
variable {s : State} {a : HostAcc}

theorem execHostAccess_sys_write (hsys : a.sys = true) (hwr : a.write = true) :
    execHostAccess a s = .next ((s.hostWr a.addr a.data).toHost (.sys a.addr) a.data.length) := by
  simp only [execHostAccess, hsys, hwr, ran, if_true]

/-- The host reads its own memory, byte by byte as it is or as it was (R413). -/
theorem execHostAccess_sys_read (hsys : a.sys = true) (hrd : a.write = false) :
    ∃ (l : List Byte) (t : State), execHostAccess a s = .next (t.emit (.image (cellsAt a.addr l))) ∧
      t.host = s.host ∧ t.mem = s.mem ∧ l.length = a.len ∧
      ∀ i < a.len, nth l i 0 = nth (s.hostRd a.addr a.len) i 0 ∨ nth l i 0 ∈ s.avtos.late.getD (a.addr + i) [] := by
  refine ⟨(s.hostSees a.addr a.len).1, (s.hostSees a.addr a.len).2, ?_, rfl, rfl, State.length_hostSees .., fun i hi =>
    State.hostSees_value_or_late s a.addr hi⟩
  simp only [execHostAccess, hsys, hrd, ran, if_true, if_false, Bool.false_eq_true]

variable (hdev : a.sys = false) (hwin : inWindow a.addr = false) (hcreel : inCreel a.addr = false)
include hdev hwin hcreel

theorem execHostAccess_dev_write (hwr : a.write = true) : execHostAccess a s =
    .next ((linesAt a.addr a.data.length).foldl (fun s l => s.toHost (.dev l) 128) (s.wr a.addr a.data)) := by
  simp only [execHostAccess, hdev, hwin, hcreel, hwr, ran, if_true, if_false, Bool.false_eq_true]

/-- With no partials and no copies the host reads device memory as a program sees it (R412). -/
theorem execHostAccess_dev_read (hrd : a.write = false) (hp : s.partials = []) (hc : s.avtos.copies = []) :
    ∃ t : State, execHostAccess a s = .next (t.emit (.image (cellsAt a.addr (s.seen a.addr a.len)))) ∧ t.mem = s.mem := by
  obtain ⟨hval, hmem⟩ := State.hostSpan_of_no_copies (pa := a.addr) (n := a.len) (fuel := a.len / 128 + 2) hp
    (fun l _ => by rw [hc]; rfl) (by omega)
  refine ⟨(s.hostSpan a.addr a.len (a.len / 128 + 2)).2, ?_, hmem⟩
  simp only [execHostAccess, hdev, hwin, hcreel, hrd, hval, ran, if_false, Bool.false_eq_true]

end

/-! Worlds (R414, R416). -/

/-- What a world change can do: a malformed word and a block in use change nothing, and else the block takes its world. -/
theorem State.switchWorld_cases (s : State) (b : Word) : s.switchWorld b = (s, 1) ∨ s.switchWorld b = (s, 2) ∨
    (s.blockHolds (bits b.toNat 3 0) (bits b.toNat 19 4) = false ∧ (s.switchWorld b).2 = 0) := by
  unfold State.switchWorld
  dsimp only
  split
  · exact .inl rfl
  · split
    · exact .inr (.inl rfl)
    · rename_i h
      exact .inr (.inr ⟨Bool.eq_false_of_not_eq_true h, rfl⟩)

theorem State.switchWorld_refused {s : State} {b : Word} (h : (s.switchWorld b).2 ≠ 0) : (s.switchWorld b).1 = s := by
  rcases s.switchWorld_cases b with e | e | ⟨-, e⟩
  · rw [e]
  · rw [e]
  · exact absurd e h

theorem State.switchWorld_of_blockHolds {s : State} {b : Word} (h : s.blockHolds (bits b.toNat 3 0) (bits b.toNat 19 4) = true) :
    (s.switchWorld b).2 ≠ 0 := by
  rcases s.switchWorld_cases b with e | e | ⟨e, -⟩
  · simp [e]
  · simp [e]
  · simp [h] at e

theorem execWorldChange_of_speaks {s : State} {who : Requester} (b : Word) (h : s.speaks who true = true) :
    execWorldChange ⟨who, b⟩ s = .next ((s.switchWorld b).1.answered ((s.switchWorld b).2 == 0) [b]) := by
  simp [execWorldChange, h, ran]

theorem execWorldChange_of_not_speaks {s : State} {who : Requester} (b : Word) (h : s.speaks who true = false) :
    execWorldChange ⟨who, b⟩ s = .next (s.answered false [b]) := by
  simp [execWorldChange, h, ran]

/-! Registers and tables that management writes (R317, R350). -/

theorem execRegisterWrite_fretry {s : State} {v : Word} (hlo : 1024 ≤ v.toNat) (hhi : v.toNat ≤ 2 ^ 31) :
    execRegisterWrite (.fretry v) s = .next (State.answered { s with fab := { s.fab with fretry := v } } true []) := by
  simp only [execRegisterWrite, decide_eq_false (Nat.not_lt.2 hlo), decide_eq_false (Nat.not_lt.2 hhi)]
  rfl

theorem execRegisterWrite_fretry_low {s : State} {v : Word} (h : v.toNat < 1024) :
    execRegisterWrite (.fretry v) s = .next (s.answered false []) := by
  simp only [execRegisterWrite, decide_eq_true h, Bool.true_or]
  rfl

theorem execRegisterWrite_queue {s : State} {q : Nat} {l : List Word} {x : Queue} (hl : queueOf l = some x) (hq : q < 256)
    (hctx : (s.ctxs.get? x.ctx).isSome = true) : execRegisterWrite (.queue q l) s = .next ((State.nextPacket
      { s with queues := s.queues.set q x, bag := s.bag.filter (fun e => !ofQueue q e) } q).answered true []) := by
  simp only [execRegisterWrite, hl, decide_eq_false (Nat.not_le.2 hq), Option.isNone_eq_false_iff.2 hctx]
  rfl

/-! Invalidations (R420). -/

theorem Tlb.not_covered_of_mem {l : List Tlb} {i : Inval} {e : Tlb} (h : e ∈ l.filter (fun t => !t.covered i)) : e.covered i = false := by
  simpa using (List.mem_filter.1 h).2

/-- The state in which every TLB has dropped the translations that an invalidation covers, and the invalidation is done. -/
def State.dropCovered (s : State) (i : Inval) : State :=
  { s with
    cores := s.cores.mapv (fun _ k => { k with tlb := k.tlb.filter (fun t => !t.covered i) })
    quads := s.quads.mapv (fun _ q => { q with tlb := q.tlb.filter (fun t => !t.covered i) })
    invals := s.invals.map (fun x => if x.id = i.id then { x with done := true } else x) }

@[simp] theorem State.dropCovered_ctxs (s : State) (i : Inval) : (s.dropCovered i).ctxs = s.ctxs := rfl
@[simp] theorem State.dropCovered_ctx (s : State) (i : Inval) (ctx : Nat) : (s.dropCovered i).ctx ctx = s.ctx ctx := rfl

theorem State.dropCovered_core (s : State) (i : Inval) (c : Nat) : ∀ e ∈ ((s.dropCovered i).core c).tlb, e.covered i = false := by
  dsimp only [State.core, State.dropCovered]
  exact KMap.getD_mapv_of (P := fun k : Core => ∀ e ∈ k.tlb, e.covered i = false) (fun _ h => absurd h List.not_mem_nil)
    (fun _ _ => Tlb.not_covered_of_mem)

theorem State.dropCovered_quad (s : State) (i : Inval) (q : Nat) : ∀ e ∈ ((s.dropCovered i).quad q).tlb, e.covered i = false := by
  dsimp only [State.quad, State.dropCovered]
  exact KMap.getD_mapv_of (P := fun k : Quad => ∀ e ∈ k.tlb, e.covered i = false) (fun _ h => absurd h List.not_mem_nil)
    (fun _ _ => Tlb.not_covered_of_mem)

/-- An invalidation completes; one of the whole context puts its new ROOT in force (R409). -/
theorem execTlbinvComplete_eq {s : State} {id : Nat} {i : Inval} (h : s.invals.find? (fun i => i.id == id) = some i) :
    execTlbinvComplete id s = .next (if i.pages = 0 then (s.dropCovered i).modCtx i.ctx (fun c =>
      { c with d := { c.d with root := c.d.nextRoot.getD c.d.root, nextRoot := none } }) else s.dropCovered i) := by
  have hid : i.id = id := by simpa using List.find?_some h
  subst hid
  simp only [execTlbinvComplete, h]
  rfl

theorem execTlbinvComplete_drops {s : State} {id : Nat} {i : Inval} (h : s.invals.find? (fun i => i.id == id) = some i) :
    ∃ t : State, execTlbinvComplete id s = .next t ∧ (∀ c, ∀ e ∈ (t.core c).tlb, e.covered i = false) ∧
      (∀ q, ∀ e ∈ (t.quad q).tlb, e.covered i = false) ∧ (i.pages = 0 → (s.ctxs.get? i.ctx).isSome = true →
        (t.ctx i.ctx).d.root = ((s.ctx i.ctx).d.nextRoot).getD (s.ctx i.ctx).d.root) := by
  rw [execTlbinvComplete_eq h]
  split
  · refine ⟨_, rfl, s.dropCovered_core i, s.dropCovered_quad i, fun _ hctx => ?_⟩
    rw [State.modCtx_ctx (s := s.dropCovered i) hctx, State.dropCovered_ctx]
  · rename_i hpages
    exact ⟨_, rfl, s.dropCovered_core i, s.dropCovered_quad i, fun h => absurd h hpages⟩

/-! HALT and page modes (R383, R384, R422). -/

theorem execHaltResume_halted {s : State} {u : Nat} {w : Warp} (hw : s.warps.get? u = some w) (hr : w.iss.resume = .halt) :
    execHaltResume u s = .next (s.modWarp u (fun w => { w with iss := { w.iss with resume := .resumed } })) := by
  have hwarp : s.warp u = w := KMap.getD_of_get? hw
  simp [execHaltResume, hw, hwarp, hr, ran]

theorem execSlmodeWrite_takes {s : State} {die : Nat} {v : Word} (hdie : die < 4) (hdown : bits v.toNat 23 16 < bits v.toNat 31 24)
    (hmax : bits v.toNat 15 8 ≠ 0) (hzero : bits v.toNat 3 1 = 0) : execSlmodeWrite die v s = .next (
      if v.getLsbD 0 then s.modDie die (fun d => { d with slmode := v })
      else (s.modDie die (fun d => { d with slmode := v })).mapFrames die (fun f => { f with replicated := false, replicas := [] })) := by
  simp [execSlmodeWrite, Nat.not_le.2 hdie, Nat.not_le.2 hdown, hmax, hzero, ran]

theorem execSlmodeWrite_ignores {s : State} {die : Nat} {v : Word}
    (h : bits v.toNat 31 24 ≤ bits v.toNat 23 16 ∨ bits v.toNat 15 8 = 0 ∨ bits v.toNat 3 1 ≠ 0) :
    execSlmodeWrite die v s = .next s := by
  rcases h with h | h | h <;> simp [execSlmodeWrite, h, ran]

/-- Settles O59: each event by what it leaves, the plain writes by definition. -/
theorem systemEvents : Obligations.SystemEvents := by
  intro s ctx
  refine ⟨fun _ _ _ hc => ⟨execContextCreate_accepts hc, execContextCreate_refuses hc⟩,
    fun _ _ => ⟨State.creates_firmware .., State.creates_software_iff⟩, fun _ _ => execContextCreate_malformed, ?allotments,
    fun _ => rfl, fun _ => rfl, ?host, ?worlds,
    fun _ => ⟨execRegisterWrite_fretry, execRegisterWrite_fretry_low⟩, fun _ _ _ => execRegisterWrite_queue,
    fun _ _ => execTlbinvComplete_drops, fun _ _ => execHaltResume_halted, fun _ => rfl,
    fun _ _ => execSlmodeWrite_takes, fun _ _ => execSlmodeWrite_ignores, fun _ _ => ⟨rfl, rfl⟩⟩
  case allotments =>
    exact fun hctx => ⟨fun _ _ => execAllotmentSet_tiles hctx, fun _ _ => execAllotmentSet_tiles_taken hctx,
      fun _ _ => execAllotmentSet_counters hctx, fun _ _ => execAllotmentSet_creel hctx, execContextEnd_leaves hctx⟩
  case host =>
    exact fun a => ⟨execHostAccess_sys_write, execHostAccess_sys_read, fun hdev hwin hcreel =>
      ⟨execHostAccess_dev_write hdev hwin hcreel, execHostAccess_dev_read hdev hwin hcreel⟩⟩
  case worlds =>
    exact fun _ b => ⟨execWorldChange_of_speaks b, execWorldChange_of_not_speaks b, State.switchWorld_refused,
      State.switchWorld_of_blockHolds⟩

end Sys2Proof.Machine
end

section
/-! SUPPORT. A word and its fields (R34): the encoder lays fields side by side from bit 31 down, and a row of the decoder reads them
back where they stand. -/

namespace Sys2Proof

theorem fld_append (w : Word) (lo m n : Nat) : fld w lo (m + n) = fld w (lo + n) m ++ fld w lo n :=
  (BitVec.extractLsb'_append_extractLsb'_eq_extractLsb' rfl).symm

/-- Two concatenations of the same widths agree exactly when their parts do. -/
theorem append_eq_append_iff {m n : Nat} {x x' : BitVec m} {y y' : BitVec n} : x ++ y = x' ++ y' ↔ x = x' ∧ y = y' := by
  constructor
  · intro e
    have hx := congrArg (BitVec.extractLsb' n m) e
    have hy := congrArg (BitVec.extractLsb' 0 n) e
    rw [BitVec.extractLsb'_append_eq_left, BitVec.extractLsb'_append_eq_left] at hx
    rw [BitVec.extractLsb'_append_eq_right, BitVec.extractLsb'_append_eq_right] at hy
    exact ⟨hx, hy⟩
  · rintro ⟨hx, hy⟩
    rw [hx, hy]

theorem getLsbD_append_of_le {m n i : Nat} {x : BitVec m} {y : BitVec n} (h : n ≤ i) : (x ++ y).getLsbD i = x.getLsbD (i - n) := by
  simp [BitVec.getLsbD_append, Nat.not_lt.2 h]

theorem getLsbD_append_of_lt {m n i : Nat} {x : BitVec m} {y : BitVec n} (h : i < n) : (x ++ y).getLsbD i = y.getLsbD i := by
  simp [BitVec.getLsbD_append, h]

theorem getLsbD_bit1 (b : Bool) : (bit1 b).getLsbD 0 = b := by
  simp

/-! A field at its place in a word. -/

/-- A vector stands in a word with its lowest bit at bit `lo`. -/
def IsAt {k : Nat} (x : BitVec k) (w : Word) (lo : Nat) : Prop := fld w lo k = x

theorem isAt_append {m n lo : Nat} {x : BitVec m} {y : BitVec n} {w : Word} :
    IsAt (x ++ y) w lo ↔ IsAt x w (lo + n) ∧ IsAt y w lo := by
  unfold IsAt
  rw [fld_append]
  exact append_eq_append_iff

theorem isAt_fld (w : Word) (lo n : Nat) : IsAt (fld w lo n) w lo := rfl

theorem isAt_flag (w : Word) (i : Nat) : IsAt (bit1 (flag w i)) w i := by
  unfold IsAt
  ext j hj
  obtain rfl : j = 0 := by omega
  simp

theorem isAt_bit1 {b : Bool} {w : Word} {i : Nat} : IsAt (bit1 b) w i ↔ flag w i = b := by
  have h : fld w i 1 = bit1 (flag w i) := isAt_flag w i
  unfold IsAt
  rw [h]
  exact ⟨fun e => by simpa using congrArg (BitVec.getLsbD · 0) e, fun e => by rw [e]⟩

theorem isAt_zero_iff {v w : Word} : IsAt v w 0 ↔ v = w := by
  simp [IsAt, eq_comm]

/-- A constant of a row stands in every word that meets the row's mask. -/
theorem isAt_of_and {w mask val : Word} {k lo : Nat} {c : BitVec k} (h : w &&& mask = val) (hmask : fld mask lo k = BitVec.allOnes k)
    (hval : fld val lo k = c) : IsAt c w lo := by
  subst h hval
  simp [IsAt, BitVec.extractLsb'_and, hmask]

/-- A field inside a part of a word is read from that part. -/
theorem toNat_fld_of_isAt {w : Word} {lo n lo' n' : Nat} {x : BitVec n} (h : IsAt x w lo) (hl : lo ≤ lo') (hn : lo' + n' ≤ lo + n) :
    (fld w lo' n').toNat = (x.extractLsb' (lo' - lo) n').toNat := by
  unfold IsAt at h
  subst h
  congr 1
  ext j hj
  have hj' : lo' - lo + j < n := by omega
  simp [hj', ← Nat.add_assoc, Nat.add_sub_of_le hl]

/-! The mask and value of a row. -/

theorem row_eq_ok_iff {mask val w : Word} {i j : Instr} : row mask val w i = .ok j ↔ w &&& mask = val ∧ i = j := by
  unfold row
  split
  · simp [*]
  · simp [*]

theorem row_ne_unimpl (mask val w : Word) (i : Instr) : row mask val w i ≠ .error .unimpl := by
  unfold row
  split
  · simp
  · simp

/-- A part of a word that stands at bit `lo` meets a row's mask and value there. -/
def Meets {k : Nat} (x : BitVec k) (mask val : Word) (lo : Nat) : Prop := x &&& fld mask lo k = fld val lo k

theorem meets_append {m n lo : Nat} {x : BitVec m} {y : BitVec n} {mask val : Word} :
    Meets (x ++ y) mask val lo ↔ Meets x mask val (lo + n) ∧ Meets y mask val lo := by
  unfold Meets
  rw [fld_append mask, fld_append val, BitVec.and_append]
  exact append_eq_append_iff

theorem row_eq_ok_of_meets {v w mask val : Word} {i j : Instr} (hv : v = w) (hm : Meets v mask val 0) (hi : i = j) :
    row mask val w i = .ok j := by
  subst hv
  exact row_eq_ok_iff.2 ⟨by simpa [Meets] using hm, hi⟩

end Sys2Proof
end

section
/-! SUPPORT. The decoder against the encoder, row by row (R34, R54): the word of a row is the encoding of the row's instruction, and
the word of an instruction comes to its own row. -/

namespace Sys2Proof

/-! From a word to its instruction. -/

theorem encode_of_row {w mask val : Word} {i j : Instr} (h : row mask val w i = .ok j) (he : w &&& mask = val → encode i = some w) :
    encode j = some w := by
  obtain ⟨hm, rfl⟩ := row_eq_ok_iff.1 h
  exact he hm

/-- HINT stands apart: HNOP takes every minor that no other hint has (R49). -/
theorem encode_of_decMajor01 {w : Word} {i : Instr} (hM : (fld w 25 6).toNat = 1) (h : decMajor01 w = .ok i) : encode i = some w := by
  unfold decMajor01 at h
  split at h
  case h_8 =>
    cases h
    refine congrArg some (isAt_zero_iff.1 ?_)
    simp only [isAt_append, isAt_fld, isAt_flag, and_true, true_and]
    exact BitVec.eq_of_toNat_eq hM
  all_goals
    refine encode_of_row h fun hm => congrArg some (isAt_zero_iff.1 ?_)
    simp (disch := decide) only [isAt_append, isAt_fld, isAt_flag, isAt_of_and hm, and_true]

/-- Each row's constants stand in the word by its mask, and its fields are read where the encoder puts them. -/
theorem encode_of_decodeRow {w : Word} {i : Instr} (h : decodeRow w = .ok i) : encode i = some w := by
  unfold decodeRow at h
  split at h
  case h_2 hM => exact encode_of_decMajor01 hM h
  all_goals simp only [decMajor02, decMajor03, decMajor04, decMajor05, decMajor06, decMajor08, decMajor09, decMajor0a, decMajor0b,
      decMajor0c, decMajor0d, decMajor0e, decMajor0f, decMajor10, decMajor11, decMajor12, decMajor13, decMajor14, decMajor15,
      decMajor16, decMajor17, decMajor18, decMajor19, decMajor1a, decMajor1b, decMajor1c, decMajor1d, decMajor1e, decMajor1f,
      decMajor20, decMajor21, decMajor22, decMajor23, decMajor24, decMajor25, decMajor26, decMajor27, decMajor28, decMajor3f,
      reduceCtorEq] at h
  -- the minors of a major, and the form bit of CRALLOC
  any_goals split at h
  any_goals split at h
  any_goals cases h
  all_goals
    refine encode_of_row h fun hm => congrArg some (isAt_zero_iff.1 ?_)
    simp (disch := decide) only [isAt_append, isAt_fld, isAt_flag, isAt_of_and hm, and_true]

/-! From an instruction to its word. -/

theorem decodeRow_of_encode_hnop {o : FHnop} {w : Word} (he : encode (.hnop o) = some w) (hw : (Instr.hnop o).wf = true) :
    decodeRow w = .ok (.hnop o) := by
  cases he
  have hm : o.minor.toNat = 0 ∨ 8 ≤ o.minor.toNat := by
    simpa [Instr.wf, ← BitVec.toNat_inj, BitVec.le_def] using hw
  simp (disch := decide) only [decodeRow, decMajor01, BitVec.extractLsb'_append_eq_of_le, BitVec.extractLsb'_append_eq_of_add_le,
    BitVec.extractLsb'_eq_self, BitVec.reduceToNat, getLsbD_append_of_le, getLsbD_bit1, Nat.reduceSub]
  split
  case h_8 => rfl
  all_goals omega

/-- The constant part below S names the major, and in most majors the minor too; the row then finds its constants and reads the
fields back. -/
theorem decodeRow_of_encode {v w : Word} {i : Instr} (he : encode i = some v) (hv : v = w) (hw : i.wf = true) :
    decodeRow w = .ok i := by
  cases i <;> cases he
  case hnop => exact decodeRow_of_encode_hnop (congrArg some hv) hw
  -- no minor, or one that stands apart from the major
  case xp | call | loopb | brT | brF | brAny | brAll | cvt | scvtUpE4m3 | scvtUpE5m2 | scvtUpE2m1 | scvtUpLq2 | scvtDnE4m3 |
      scvtDnE5m2 | scvtDnE2m1 | cralloc | crallocW =>
    subst hv
    simp (disch := decide) only [decodeRow, decMajor02, decMajor03, decMajor04, decMajor05, decMajor10, decMajor11, decMajor12,
      decMajor25, BitVec.extractLsb'_append_eq_of_le, BitVec.extractLsb'_append_eq_of_add_le, BitVec.extractLsb'_eq_self,
      BitVec.reduceExtractLsb', BitVec.reduceToNat, getLsbD_append_of_le, getLsbD_append_of_lt, getLsbD_bit1, Nat.reduceSub]
    refine row_eq_ok_of_meets rfl ?_ rfl
    simp only [meets_append]
    simp only [Meets, fld, Nat.reduceAdd, BitVec.reduceExtractLsb', BitVec.reduceAnd, BitVec.and_zero, and_true]
  all_goals
    have h : IsAt _ w 0 ∧ True := ⟨isAt_zero_iff.2 hv, trivial⟩
    simp only [isAt_append, isAt_bit1, and_assoc] at h
    obtain ⟨hs, hc, hr⟩ := h
    rw [decodeRow, toNat_fld_of_isAt hc]
    · conv => lhs; whnf
      rw [toNat_fld_of_isAt hc]
      · refine row_eq_ok_of_meets hv ?_ ?_
        · simp only [meets_append]
          simp only [Meets, fld, Nat.reduceAdd, BitVec.reduceExtractLsb', BitVec.reduceAnd, BitVec.and_zero, and_true]
        · simp only [IsAt, Nat.reduceAdd] at hs hr
          simp only [hs, hr]
      all_goals decide
    all_goals decide

/-! The checks after the row (R56). -/

theorem cvtListed_of_cvtWf {o : FCvt} (h : cvtWf o = true) : cvtListed o = true := by
  unfold cvtWf at h
  unfold cvtListed
  split at h
  · cases h
  · simp [*]

theorem decode_eq_ok_iff {w : Word} {i : Instr} : decode w = .ok i ↔ decodeRow w = .ok i ∧ i.wf = true := by
  unfold decode
  split
  · simp [*]
  · rename_i o h
    rw [h]
    constructor
    · intro hd
      split at hd
      · split at hd
        · cases hd
          exact ⟨rfl, ‹_›⟩
        · cases hd
      · cases hd
    · rintro ⟨hd, hw⟩
      cases hd
      have hwf : cvtWf o = true := hw
      rw [if_pos (cvtListed_of_cvtWf hwf), if_pos hwf]
  · rename_i j _ h
    rw [h]
    constructor
    · intro hd
      split at hd
      · cases hd
        exact ⟨rfl, ‹_›⟩
      · cases hd
    · rintro ⟨hd, hw⟩
      cases hd
      rw [if_pos hw]

/-- Settles O4: the row of the instruction's own word reads the fields back, and the instruction passes the checks. -/
theorem roundTrip : Obligations.RoundTrip := by
  intro i w hw he
  exact decode_eq_ok_iff.2 ⟨decodeRow_of_encode he rfl hw, hw⟩

/-- Settles O5: what the decoder gives passed the checks, and its row's word is its encoding. -/
theorem wordsHaveOneMeaning : Obligations.WordsHaveOneMeaning := by
  intro w i h
  obtain ⟨hrow, hw⟩ := decode_eq_ok_iff.1 h
  exact ⟨encode_of_decodeRow hrow, hw⟩

end Sys2Proof
end

section
/-! SUPPORT. Words that no row of the opcode table takes (R54, R56). -/

namespace Sys2Proof

/-- The majors that end before minor 15, with their last minor (R54). -/
def lastMinors : List (Nat × Nat) :=
  [(0x06, 14), (0x0D, 12), (0x0E, 13), (0x13, 13), (0x14, 13), (0x15, 8), (0x16, 14), (0x19, 8), (0x20, 3), (0x21, 7),
   (0x22, 5), (0x23, 6), (0x24, 8), (0x25, 5), (0x26, 4), (0x27, 2), (0x28, 2), (0x3F, 4)]

/-- No row of the opcode table has the word's major and minor (R54). -/
def NoRow (x : Word) : Prop :=
  (fld x 25 6).toNat = 0x07 ∨ (0x29 ≤ (fld x 25 6).toNat ∧ (fld x 25 6).toNat ≤ 0x3E) ∨
  (∃ p ∈ lastMinors, (fld x 25 6).toNat = p.1 ∧ p.2 < (fld x 21 4).toNat) ∨
  ((fld x 25 6).toNat = 0x12 ∧ (fld x 21 4).toNat % 4 = 3) ∨
  (((fld x 25 6).toNat = 0x1B ∨ (fld x 25 6).toNat = 0x1D) ∧ 5 ≤ (fld x 22 3).toNat)

/-- Major by major: what a major's table leaves over is UNIMPL, and nothing that it lists is. The minor of R34 stands in five places of
various widths, which are one number each once the major is known. -/
theorem decodeRow_eq_unimpl_iff (x : Word) : decodeRow x = .error .unimpl ↔ NoRow x := by
  have h6 := (fld x 25 6).isLt
  have h4 := (fld x 21 4).isLt
  have h3 := (fld x 22 3).isLt
  have hb := (fld x 20 2).isLt
  have hi := (fld x 23 2).isLt
  have h2 : (fld x 21 2).toNat = (fld x 21 4).toNat % 4 := by
    simp only [BitVec.extractLsb'_toNat]
    omega
  unfold decodeRow
  split
  case h_42 =>
    refine iff_of_true rfl ?_
    unfold NoRow
    simp only [imp_false] at *
    omega
  all_goals
    rename_i hM
    simp only [NoRow, lastMinors, hM, List.exists_mem_cons_iff, List.not_mem_nil, false_and, exists_false, or_false, Nat.reduceEqDiff,
      Nat.reduceLeDiff, false_or, or_self, true_and, and_false, Except.error.injEq, reduceCtorEq]
  all_goals simp only [decMajor01, decMajor02, decMajor03, decMajor04, decMajor05, decMajor06, decMajor08, decMajor09, decMajor0a,
      decMajor0b, decMajor0c, decMajor0d, decMajor0e, decMajor0f, decMajor10, decMajor11, decMajor12, decMajor13, decMajor14,
      decMajor15, decMajor16, decMajor17, decMajor18, decMajor19, decMajor1a, decMajor1b, decMajor1c, decMajor1d, decMajor1e,
      decMajor1f, decMajor20, decMajor21, decMajor22, decMajor23, decMajor24, decMajor25, decMajor26, decMajor27, decMajor28,
      decMajor3f, row_ne_unimpl]
  all_goals
    generalize (fld x 21 4).toNat = m4, (fld x 22 3).toNat = m3, (fld x 20 2).toNat = mb, (fld x 23 2).toNat = mi,
      (fld x 21 2).toNat = m2 at *
    split
  any_goals split
  all_goals simp only [row_ne_unimpl, false_iff, true_iff, reduceCtorEq, Nat.reduceLT, Nat.reduceLeDiff]
  any_goals simp only [imp_false] at *
  all_goals omega

/-! CVT: its pair of types is no minor, so that an unlisted one is found after the row (R55, R149). -/

/-- The pairs of types that CVT converts: each source with its destinations (R149). -/
def cvtPairs : List (Nat × List Nat) :=
  [(8, [9, 10, 2, 3, 11, 12, 0, 1, 13, 4, 5, 6, 7]), (9, [8, 4, 5, 10]), (10, [8, 4, 5, 9]), (11, [8]), (12, [8]), (13, [8]),
   (0, [8, 4, 5]), (1, [8, 4, 5]), (2, [8, 4, 5]), (3, [8, 4, 5]), (4, [8, 9, 10, 2, 3, 0, 1, 5, 6, 7]),
   (5, [8, 9, 10, 2, 3, 0, 1, 4, 6, 7]), (6, [8, 4, 5, 7]), (7, [8, 4, 5, 6])]

theorem cvtPair_isSome_iff : ∀ u < 16, ∀ t < 16, (cvtPair u t).isSome = true ↔ ∃ p ∈ cvtPairs, u = p.1 ∧ t ∈ p.2 := by
  decide +kernel

/-- CVT's fields where R34 puts them in a word. -/
def cvtOf (x : Word) : FCvt := ⟨flag x 31, fld x 21 4, fld x 17 4, fld x 10 7, fld x 3 7, fld x 0 3⟩

theorem cvtListed_cvtOf_iff (x : Word) : cvtListed (cvtOf x) = true ↔
    ∃ p ∈ cvtPairs, (fld x 17 4).toNat = p.1 ∧ (fld x 21 4).toNat ∈ p.2 :=
  cvtPair_isSome_iff _ (fld x 17 4).isLt _ (fld x 21 4).isLt

theorem decodeRow_eq_cvt_iff {x : Word} {o : FCvt} : decodeRow x = .ok (.cvt o) ↔ (fld x 25 6).toNat = 0x10 ∧ o = cvtOf x := by
  constructor
  · intro h
    have he := isAt_zero_iff.2 (Option.some.inj (encode_of_decodeRow h))
    simp only [isAt_append, isAt_bit1, and_assoc] at he
    obtain ⟨hs, hc, ht, hu, hd, ha, hb⟩ := he
    simp only [IsAt, Nat.reduceAdd] at hs hc ht hu hd ha hb
    simp only [cvtOf, hs, hc, ht, hu, hd, ha, hb]
    exact ⟨rfl, trivial⟩
  · rintro ⟨hM, rfl⟩
    have he : encode (.cvt (cvtOf x)) = some x := by
      refine congrArg some (isAt_zero_iff.1 ?_)
      simp only [cvtOf, isAt_append, isAt_fld, isAt_flag, and_true, true_and]
      exact BitVec.eq_of_toNat_eq hM
    rw [decodeRow, hM]
    refine row_eq_ok_of_meets (Option.some.inj he) ?_ rfl
    simp only [meets_append]
    simp only [Meets, fld, Nat.reduceAdd, BitVec.reduceExtractLsb', BitVec.reduceAnd, BitVec.and_zero, and_true]

/-- A CVT whose pair of types is not listed is UNIMPL as a word without a row is (R149). -/
theorem decode_eq_unimpl_iff {x : Word} : decode x = .error .unimpl ↔
    decodeRow x = .error .unimpl ∨ ∃ o, decodeRow x = .ok (.cvt o) ∧ cvtListed o = false := by
  unfold decode
  split
  · simp [*]
  · rename_i o h
    simp only [h, reduceCtorEq, false_or, Except.ok.injEq, Instr.cvt.injEq, exists_eq_left']
    cases hl : cvtListed o
    · simp
    · simp only [if_true, Bool.true_eq_false, iff_false]
      split <;> simp
  · rename_i i hi h
    simp only [h, reduceCtorEq, false_or, Except.ok.injEq]
    constructor
    · intro hd
      split at hd <;> cases hd
    · rintro ⟨o, ho, -⟩
      exact absurd ho (hi o)

theorem decode_eq_unimpl_iff_unlisted (x : Word) : decode x = .error .unimpl ↔ NoRow x ∨
    ((fld x 25 6).toNat = 0x10 ∧ ¬ ∃ p ∈ cvtPairs, (fld x 17 4).toNat = p.1 ∧ (fld x 21 4).toNat ∈ p.2) := by
  rw [decode_eq_unimpl_iff, decodeRow_eq_unimpl_iff, ← cvtListed_cvtOf_iff, Bool.not_eq_true]
  refine or_congr_right ⟨?_, fun ⟨hM, hl⟩ => ⟨cvtOf x, decodeRow_eq_cvt_iff.2 ⟨hM, rfl⟩, hl⟩⟩
  rintro ⟨o, ho, hl⟩
  obtain ⟨hM, rfl⟩ := decodeRow_eq_cvt_iff.1 ho
  exact ⟨hM, hl⟩

theorem decode_of_major_zero {x : Word} (h : (fld x 25 6).toNat = 0) : decode x = .error .ill := by
  rw [decode, decodeRow, h]
  rfl

end Sys2Proof

namespace Sys2Proof.Machine

open Sys2Proof

theorem State.runWord_of_error {s : State} {u : Nat} {x : Word} {c : Cx} {e : DecErr} (hd : decode x = .error e)
    (hc : (s.begin u x).cx = some c) :
    s.runWord u x = .next ((s.begin u x).raise c ((s.begin u x).undecoded c e)) := by
  simp [State.runWord, hd, hc]

theorem State.undecoded_priv {s : State} {c : Cx} {e : DecErr} (hM : (fld s.word 25 6).toNat = 0x3F)
    (hp : (s.ctx c.ctx).d.priv ≠ true) : s.undecoded c e = { cause := 0x03 } := by
  have hM' : fld s.word 25 6 = 0x3F := BitVec.eq_of_toNat_eq hM
  simp [State.undecoded, hM', hp]

theorem State.undecoded_of_not_priv {s : State} {c : Cx} (h : (fld s.word 25 6).toNat ≠ 0x3F ∨ (s.ctx c.ctx).d.priv = true) :
    s.undecoded c .ill = { cause := 0x01 } ∧ s.undecoded c .unimpl =
      { cause := 0x02, info1 := (c.g.xp.bind (fun p => encode (.xp p))).getD 0, info2 := c.g.pimm.getD 0, info3 := c.g.hintWord } := by
  have hx : ((fld s.word 25 6 == 0x3F) && !(s.ctx c.ctx).d.priv) = false := by
    rcases h with h | h
    · rw [beq_eq_false_iff_ne.2 (fun e => h (by rw [e]; rfl)), Bool.false_and]
    · rw [h, Bool.not_true, Bool.and_false]
  unfold State.undecoded
  rw [hx]
  exact ⟨rfl, rfl⟩

/-- Settles O7: by the rows of the opcode table and the pairs of R149, then by what the trap of an undecoded word is. -/
theorem undecodedWords : Obligations.UndecodedWords := by
  intro x major minor last pairs unlisted
  have hiff : decode x = .error .unimpl ↔ unlisted := by
    rw [decode_eq_unimpl_iff_unlisted, NoRow, or_assoc, or_assoc, or_assoc, or_assoc]
    rfl
  refine ⟨hiff, decode_of_major_zero, fun s u c e hd hc => ?_⟩
  have hrun := State.runWord_of_error hd hc
  intro takes priv
  refine ⟨fun hM hp => ?_, fun h hl => ?_, fun h hl => ?_⟩
  · rw [State.undecoded_priv (s := s.begin u x) hM hp] at hrun
    exact hrun
  · have he : e = .ill := by
      cases e
      case ill => rfl
      case unimpl => exact absurd (hiff.1 hd) hl
    rw [he, (State.undecoded_of_not_priv (s := s.begin u x) h).1] at hrun
    exact hrun
  · have he : e = .unimpl := Except.error.inj (hd.symm.trans (hiff.2 hl))
    rw [he, (State.undecoded_of_not_priv (s := s.begin u x) h).2] at hrun
    exact hrun

end Sys2Proof.Machine
end

section
/-! SUPPORT. Attached words (R46 to R53). -/

namespace Sys2Proof.Machine

open Sys2Proof

/-- The issue state after an attached word has joined a group, which is `g` with the word's effect in it (R46, R47, R52). -/
def Warp.joined (w : Warp) (sw : Bool) (g : Group) (cyc : Nat) : Warp :=
  { w with iss := { w.iss with
      grp := some { g with count := g.count + 1, here := g.here + 4, s := g.s || sw }
      stall := none
      stallTo := if w.id.mode != .interlocked then cyc + g.stall.toNat else 0
      words := w.iss.words + 1 } }

section
variable {s : State} {c : Cx} {sw : Bool} {f : Group → Except Stop Group}

theorem State.attach_ninth (h : s.cx = some c) (hn : 8 ≤ c.g.count) : s.attach sw f = .next (s.raise c { cause := 0x01 }) := by
  simp [State.attach, h, hn]

theorem State.attach_ok {g : Group} (h : s.cx = some c) (hn : c.g.count < 8) (hf : f c.g = .ok g) :
    s.attach sw f = .next (s.modWarp c.uid (fun w => w.joined sw g (s.core c.core).cyc)) := by
  simp only [State.attach, h, Nat.not_le.2 hn, hf, if_false]
  rfl

theorem State.attach_trap {t : TrapInfo} (h : s.cx = some c) (hn : c.g.count < 8) (hf : f c.g = .error (.trap t)) :
    s.attach sw f = .next (s.raise c t) := by
  simp only [State.attach, h, Nat.not_le.2 hn, hf, if_false]

end

theorem State.cx_eq_some_iff {s : State} {c : Cx} :
    s.cx = some c ↔ s.cur = some c.uid ∧ s.warps.get? c.uid = some c.w ∧ c.w.group = some c.g := by
  constructor
  · intro h
    unfold State.cx at h
    split at h
    · cases h
    next u hu =>
    split at h
    · cases h
    next w hw =>
    split at h
    · cases h
    next g hg =>
    cases h
    exact ⟨hu, hw, hg⟩
  · rintro ⟨hu, hw, hg⟩
    simp only [State.cx, hu, hw, hg]

/-- What a word sees after a change of the warp that issues it and leaves its group. -/
theorem State.modWarp_cx {s : State} {c : Cx} {f : Warp → Warp} (h : s.cx = some c) (hg : (f c.w).group = c.w.group) :
    (s.modWarp c.uid f).cx = some { c with w := f c.w } := by
  obtain ⟨hu, -, hgrp⟩ := State.cx_eq_some_iff.1 h
  refine State.cx_eq_some_iff.2 ⟨hu, ?_, hg.trans hgrp⟩
  rw [← State.warp_of_cx h]
  exact KMap.get?_set_self ..

/-- An outcome that is an attachment with an effect `e` on the pending state joins the group when it is no ninth. -/
theorem State.attach_joins {s : State} {c : Cx} (h : s.cx = some c) (x : Host.Outcome State Fault Refusal) {sw : Bool}
    {e : Group → Group} (hx : x = s.attach sw (fun g => .ok (e g))) :
    (c.g.count < 8 → x = .next (s.modWarp c.uid (fun w => w.joined sw (e c.g) (s.core c.core).cyc))) ∧
    (8 ≤ c.g.count → x = .next (s.raise c { cause := 0x01 })) :=
  ⟨fun hn => hx.trans (State.attach_ok h hn rfl), fun hn => hx.trans (State.attach_ninth h hn)⟩

/-- The first XP of a group joins it when it is no ninth attached word. -/
theorem execXp_first {s : State} {c : Cx} (o : FXp) (h : s.cx = some c) (hx : c.g.xp = none) :
    (c.g.count < 8 → execXp o s = .next (s.modWarp c.uid (fun w => w.joined o.sw { c.g with xp := some o } (s.core c.core).cyc))) ∧
    (8 ≤ c.g.count → execXp o s = .next (s.raise c { cause := 0x01 })) :=
  ⟨fun hn => State.attach_ok h hn (by simp only [hx]; rfl), State.attach_ninth h⟩

theorem execXp_second {s : State} {c : Cx} (o : FXp) (h : s.cx = some c) (hx : c.g.xp ≠ none) :
    execXp o s = .next (s.raise c { cause := 0x01 }) := by
  rcases Nat.lt_or_ge c.g.count 8 with hn | hn
  · have hf : (if c.g.xp.isSome then Except.error ill else .ok { c.g with xp := some o }) =
        (.error (.trap { cause := 0x01 }) : Except Stop Group) := if_pos (Option.isSome_iff_ne_none.2 hx)
    exact State.attach_trap h hn hf
  · exact State.attach_ninth h hn

theorem execHprio_ninth {s : State} {c : Cx} (o : FHprio) (h : s.cx = some c) (hn : 8 ≤ c.g.count) :
    execHprio o s = .next (s.raise c { cause := 0x01 }) := by
  simp only [execHprio, h, hn, if_true]
  exact State.attach_ninth h hn

/-- The warp with another priority. -/
def Warp.withPrio (w : Warp) (p : BitVec 2) : Warp := { w with iss := { w.iss with prio := p } }

/-- HPRIO changes the warp's priority and joins the group as an HNOP does. -/
theorem execHprio_ok {s : State} {c : Cx} (o : FHprio) (h : s.cx = some c) (hn : c.g.count < 8) :
    execHprio o s = .next ((s.modWarp c.uid (fun w => w.withPrio o.p)).modWarp c.uid
      (fun w => w.joined o.sw c.g ((s.modWarp c.uid (fun w => w.withPrio o.p)).core c.core).cyc)) := by
  have hcx : (s.modWarp c.uid (fun w => w.withPrio o.p)).cx = some { c with w := c.w.withPrio o.p } := State.modWarp_cx h rfl
  simp only [execHprio, h, Nat.not_le.2 hn, if_false]
  exact State.attach_ok (c := { c with w := c.w.withPrio o.p }) hcx hn rfl

/-- Settles O9: every attached word runs `State.attach` with the effect of its field on the pending state. -/
theorem attachedWords : Obligations.AttachedWords := by
  intro s c h
  refine ⟨fun o => (State.attach_joins h (execHnop o s) rfl :),
    fun o => ⟨(State.attach_joins h (execHimmLo o s) rfl :), (State.attach_joins h (execHimmHi o s) rfl :)⟩,
    fun o => (State.attach_joins h (execHofs o s) rfl :),
    fun o => ⟨(State.attach_joins h (execHcache o s) rfl :), (State.attach_joins h (execHreuse o s) rfl :)⟩,
    fun o => (State.attach_joins h (execHstall o s) rfl :),
    fun o => ⟨fun hx => (execXp_first o h hx :), execXp_second o h⟩,
    fun o => execHprio_ninth o h, fun o hn => ⟨_, execHprio_ok o h hn, ?_⟩⟩
  rw [State.modWarp_warp, State.modWarp_warp, State.warp_of_cx h]
  exact ⟨rfl, rfl, rfl, rfl⟩

end Sys2Proof.Machine
end

section
/-! SUPPORT. What leaving a register result and the end of a group change (R46, R78). -/

namespace Sys2Proof.Machine

open Sys2Proof

theorem State.modWarp_get?_self (s : State) (u : Nat) (f : Warp → Warp) : (s.modWarp u f).warps.get? u = some (f (s.warp u)) :=
  KMap.get?_set_self ..

theorem State.modWarp_get?_ne (s : State) {u v : Nat} (f : Warp → Warp) (h : v ≠ u) :
    (s.modWarp u f).warps.get? v = s.warps.get? v :=
  KMap.get?_set_ne _ _ h

section
variable {s : State} {c : Cx} {lat : Nat} {names : List RegName} {writes : List RegWrite}

/-- The register result that a word leaves (R27, R28). -/
def State.leaves (s : State) (c : Cx) (lat : Nat) (names : List RegName) (writes : List RegWrite) : Result :=
  { id := s.fresh, due := (s.core c.core).cyc + c.clocks lat, names := names, writes := writes, word := s.word }

/-- The warp with one more register result outstanding. -/
def Warp.awaiting (w : Warp) (r : Result) : Warp := { w with iss := { w.iss with outstanding := w.iss.outstanding ++ [r] } }

theorem State.result_of_ne_nil (h : writes ≠ []) : s.result c lat names writes =
    (({ s with fresh := s.fresh + 1 } : State).modWarp c.uid (fun w => w.awaiting (s.leaves c lat names writes))).post
      (.registerResultReturn c.uid s.fresh) := by
  simp only [State.result, List.isEmpty_eq_false_iff.2 h]
  rfl

theorem State.result_warp (h : writes ≠ []) :
    (s.result c lat names writes).warp c.uid = (s.warp c.uid).awaiting (s.leaves c lat names writes) := by
  rw [State.result_of_ne_nil h, State.post_warp, State.modWarp_warp]
  rfl

theorem State.result_get?_ne {v : Nat} (h : writes ≠ []) (hv : v ≠ c.uid) :
    (s.result c lat names writes).warps.get? v = s.warps.get? v := by
  rw [State.result_of_ne_nil h, State.post_warps, State.modWarp_get?_ne _ _ hv]

end

/-- Settles O8: leaving a result and closing the group both change the warp's issue state alone. -/
theorem resultFrame : Obligations.ResultFrame := by
  intro s c sw lat names writes hw hne
  have hwarp : s.warp c.uid = c.w := KMap.getD_of_get? hw
  refine ⟨?mem, ?host, ?teams, ?ops, ?ctxs, ?copies, ?posts, fun v hv => ?others, ?own⟩
  case others => exact (State.modWarp_get?_ne _ _ hv).trans (State.result_get?_ne hne hv)
  case own =>
    refine ⟨_, State.modWarp_get?_self .., ?_⟩
    rw [State.result_warp hne, hwarp]
    exact ⟨rfl, rfl, rfl, rfl, rfl, rfl, rfl, rfl, rfl, rfl⟩
  all_goals
    rw [State.result_of_ne_nil hne]
    rfl

end Sys2Proof.Machine
end

section
/-! SUPPORT. Trap entry with nothing outstanding (R100, R103). -/

namespace Sys2Proof

theorem KMap.getD_set {α : Type} (m : KMap α) (i j : Nat) (x d : α) :
    (m.set i x).getD j d = if j = i then x else m.getD j d := by
  split
  next h => rw [h, KMap.getD_set_self]
  next h => exact KMap.getD_set_ne m x d h

end Sys2Proof

namespace Sys2Proof.Machine

open Sys2Proof

/-- A precise trap with no register result outstanding is entered at once, at the group's first word (R48, R100). -/
theorem State.raise_of_not_busy {s : State} {c : Cx} {t : TrapInfo} (hcx : s.cx = some c) (hb : c.w.busy = false)
    (h0 : t.info0 = none) : s.raise c t = s.enterTrap c.uid
      { info := t, epc := c.g.pc, widx := c.g.count, prio := c.g.prio, mask := c.g.mask, word := s.word } := by
  simp only [State.raise, h0, Option.isSome_none, Bool.false_eq_true, if_false, State.warp_of_cx hcx, hb, Bool.not_false, if_true,
    Option.getD_none]

/-- S registers of a trap handler: the save-area address in S56 and S57, and S58 to S63 zero (R100). -/
def handlerS (m : KMap Word) (save : Addr) : KMap Word :=
  (((((((m.set 56 (save.setWidth 32)).set 57 (save.extractLsb' 32 32)).set 58 0).set 59 0).set 60 0).set 61 0).set 62 0).set 63 0

theorem handlerS_getD_area (m : KMap Word) (save : Addr) :
    (handlerS m save).getD 56 0 = save.setWidth 32 ∧ (handlerS m save).getD 57 0 = save.extractLsb' 32 32 := by
  simp [handlerS, KMap.getD_set]

theorem handlerS_getD_zero (m : KMap Word) (save : Addr) {n : Nat} (hlo : 58 ≤ n) (hhi : n ≤ 63) : (handlerS m save).getD n 0 = 0 := by
  interval_cases n <;> simp [handlerS, KMap.getD_set]

theorem handlerS_getD_below (m : KMap Word) (save : Addr) {n : Nat} (h : n < 56) : (handlerS m save).getD n 0 = m.getD n 0 := by
  have hne (k : Nat) (hk : 56 ≤ k) : n ≠ k := by omega
  simp [handlerS, KMap.getD_set, hne]

/-- The warp at the entry of its handler (R100, R103, R104). -/
def Warp.atHandler (w : Warp) (h save : Addr) (p : PendTrap) : Warp :=
  { w with
    hnd := { on := true, epc := p.epc, ecause := ecauseWord p.widx p.prio false p.info.cause,
             emask := p.mask, info0 := p.word, info1 := p.info.info1, info2 := p.info.info2, info3 := p.info.info3,
             shadowS := [56, 57, 58, 59, 60, 61, 62, 63].map w.sreg, shadowPart := w.ctl.part,
             held := dropEntry p.epc p.prio w.iss.frontier }
    regs := { w.regs with s := handlerS w.regs.s save }
    ctl := { w.ctl with part := if w.id.wide then 6 else 5 }
    iss := { w.iss with grp := none, stallTo := 0, pendTrap := none, stall := none, resume := .none, skipBp := false,
                        skipBrk := false, frontier := [{ pc := h, prio := 7, mask := p.mask }] } }

theorem State.enterTrap_eq {s : State} {u : Nat} {p : PendTrap} {h : Addr} (hon : (s.warp u).hnd.on = false)
    (hh : s.handlerPc (s.warp u).id.ctx = some h) (himp : p.info.imprecise = false) :
    s.enterTrap u p = s.modWarp u (fun w => w.atHandler h (s.saveArea (s.warp u)) p) := by
  simp only [State.enterTrap, hon, hh, himp, Bool.false_eq_true, if_false]
  rfl

/-- Settles O14: with no result outstanding the trap enters its handler at once. -/
theorem trapEntry : Obligations.TrapEntry := by
  intro s c t h hcx hb hon hh himp h0
  have hw := State.warp_of_cx hcx
  rw [State.raise_of_not_busy hcx hb h0, State.enterTrap_eq (by rw [hw, hon]) (by rw [hw]; exact hh) himp, State.modWarp_warp, hw]
  obtain ⟨h56, h57⟩ := handlerS_getD_area c.w.regs.s (s.saveArea c.w)
  exact ⟨rfl, rfl, rfl, rfl, rfl, rfl, rfl, rfl, rfl, rfl, h56, h57, fun _ => handlerS_getD_zero _ _,
    fun _ => handlerS_getD_below _ _, rfl, rfl, rfl, rfl, rfl, rfl, rfl, rfl, rfl, rfl⟩

end Sys2Proof.Machine
end

section
/-! SUPPORT. Words of the spec's own examples. -/

namespace Sys2Proof.Machine

open Sys2Proof

/-- Settles O3: each word is the encoding of its well-formed instruction, and 0x400202 has major 0. -/
theorem decodedWords : Obligations.DecodedWords :=
  ⟨roundTrip _ _ rfl rfl, roundTrip _ _ rfl rfl, roundTrip _ _ rfl rfl, roundTrip _ _ rfl rfl, roundTrip _ _ rfl rfl,
    roundTrip _ _ rfl rfl, roundTrip _ _ rfl rfl, roundTrip _ _ rfl rfl, roundTrip _ _ rfl rfl, roundTrip _ _ rfl rfl,
    roundTrip _ _ rfl rfl, roundTrip _ _ rfl rfl, roundTrip _ _ rfl rfl, roundTrip _ _ rfl rfl, decode_of_major_zero rfl,
    roundTrip _ _ rfl rfl⟩

end Sys2Proof.Machine
end

section
/-! SUPPORT. The whole-mask words (R38, R153). -/

namespace Sys2Proof.Machine

open Sys2Proof

theorem maskName_eq {k : Nat} (m : BitVec k) : maskName m = if m.toNat = 0 then [] else [.m m.toNat] := by
  simp only [maskName, ← BitVec.toNat_inj]
  rfl

/-- The masks that a word names, but for M0. -/
theorem map_filter_ne_zero_cons {k : Nat} (m : BitVec k) (l : List Nat) :
    ((m.toNat :: l).filter (fun n => n != 0)).map RegName.m = maskName m ++ (l.filter (fun n => n != 0)).map RegName.m := by
  rw [maskName_eq]
  by_cases h : m.toNat = 0 <;> simp [h]

section
variable {s : State} {c : Cx} {sw : Bool}

theorem State.maskOp_ok {x : Host.Outcome State Fault Refusal} {d : Nat} {srcs : List Nat} {f : Cx → State → Lanes}
    (hs : s.bare c) (hx : x = s.maskOp sw d srcs f) (hf : c.free s (((d :: srcs).filter (fun n => n != 0)).map RegName.m)) :
    x = .next ((s.afterMask c d (f c s &&& allLanes c.w.id.wide)).closeGroup c sw .next) := by
  unfold Cx.free at hf
  rw [hx]
  exact State.runTarget_ok hs.1 (by simp only [Cx.noXp_of_none hs.2, hf, bind, Except.bind]; rfl)

theorem State.maskS_ok {a : BitVec 3} {f : Bool → Lanes → Except Stop (List (Nat × Word))} {outs : List (Nat × Word)}
    (hs : s.bare c) (hout : f c.w.id.wide (c.readM s a.toNat) = .ok outs)
    (hf : c.free s (maskName a ++ outs.map (fun p => RegName.s p.1))) :
    s.maskS sw a.toNat f = .next ((s.afterS c 2 outs).closeGroup c sw .next) := by
  rw [Cx.free, maskName_eq] at hf
  exact State.runTarget_ok hs.1 (by simp only [Cx.noXp_of_none hs.2, hout, hf, bind, Except.bind]; rfl)

theorem State.maskS_trap {a : Nat} {f : Bool → Lanes → Except Stop (List (Nat × Word))} {t : TrapInfo}
    (hs : s.bare c) (hout : f c.w.id.wide (c.readM s a) = .error (.trap t)) : s.maskS sw a f = .next (s.raise c t) :=
  State.runTarget_trap hs.1 (by simp only [Cx.noXp_of_none hs.2, hout, bind, Except.bind])

section
variable {o : FMaskS}

theorem execMpopc_ok (hs : s.bare c) (hf : c.free s (maskName o.a ++ [.s o.n.toNat])) : execMpopc o s =
    .next ((s.afterS c 2 [(o.n.toNat, BitVec.ofNat 32 (lanesOf (c.readM s o.a.toNat)).length)]).closeGroup c o.sw .next) := by
  unfold execMpopc
  exact State.maskS_ok hs rfl hf

theorem execMffs_ok (hs : s.bare c) (hf : c.free s (maskName o.a ++ [.s o.n.toNat])) : execMffs o s =
    .next ((s.afterS c 2 [(o.n.toNat, if c.readM s o.a.toNat = 0 then 0xFFFFFFFF
      else BitVec.ofNat 32 (lowest (c.readM s o.a.toNat)))]).closeGroup c o.sw .next) := by
  unfold execMffs
  exact State.maskS_ok hs rfl hf

theorem execMtos_narrow (hs : s.bare c) (hw : c.w.id.wide = false) (hf : c.free s (maskName o.a ++ [.s o.n.toNat])) :
    execMtos o s = .next ((s.afterS c 2 [(o.n.toNat, (c.readM s o.a.toNat).setWidth 32)]).closeGroup c o.sw .next) := by
  unfold execMtos
  exact State.maskS_ok hs (by rw [hw]; rfl) hf

theorem execMtos_wide (hs : s.bare c) (hw : c.w.id.wide = true) (hn : o.n.toNat % 2 = 0)
    (hf : c.free s (maskName o.a ++ [.s o.n.toNat, .s (o.n.toNat + 1)])) : execMtos o s =
      .next ((s.afterS c 2 [(o.n.toNat, (c.readM s o.a.toNat).setWidth 32),
        (o.n.toNat + 1, (c.readM s o.a.toNat).extractLsb' 32 32)]).closeGroup c o.sw .next) := by
  unfold execMtos
  exact State.maskS_ok hs (by rw [hw, hn]; rfl) hf

theorem execMtos_odd (hs : s.bare c) (hw : c.w.id.wide = true) (hn : o.n.toNat % 2 = 1) :
    execMtos o s = .next (s.raise c { cause := 0x01 }) := by
  unfold execMtos
  exact State.maskS_trap hs (by rw [hw, hn]; rfl)

end

section
variable {o : FMfroms}

theorem execMfroms_narrow (hs : s.bare c) (hw : c.w.id.wide = false) (hf : c.free s (maskName o.d ++ [.s o.n.toNat])) :
    execMfroms o s = .next ((s.afterMask c o.d.toNat ((c.readS s o.n.toNat).setWidth 64)).closeGroup c o.sw .next) := by
  rw [Cx.free, maskName_eq] at hf
  refine State.runTarget_ok hs.1 ?_
  simp only [Cx.noXp_of_none hs.2, hw, Bool.false_and, Bool.false_eq_true, if_false, List.append_nil, hf, bind, Except.bind]
  rfl

theorem execMfroms_wide (hs : s.bare c) (hw : c.w.id.wide = true) (hn : o.n.toNat % 2 = 0)
    (hf : c.free s (maskName o.d ++ [.s o.n.toNat, .s (o.n.toNat + 1)])) : execMfroms o s =
      .next ((s.afterMask c o.d.toNat (c.readS s (o.n.toNat + 1) ++ c.readS s o.n.toNat)).closeGroup c o.sw .next) := by
  rw [Cx.free, maskName_eq] at hf
  refine State.runTarget_ok hs.1 ?_
  simp only [Cx.noXp_of_none hs.2, hw, hn, Bool.true_and, beq_iff_eq, Nat.zero_ne_one, if_false, if_true, List.append_assoc,
    List.singleton_append, hf, bind, Except.bind]
  rfl

theorem execMfroms_odd (hs : s.bare c) (hw : c.w.id.wide = true) (hn : o.n.toNat % 2 = 1) :
    execMfroms o s = .next (s.raise c { cause := 0x01 }) := by
  refine State.runTarget_trap hs.1 ?_
  simp only [Cx.noXp_of_none hs.2, hw, hn, Bool.true_and, beq_self_eq_true, if_true, bind, Except.bind]
  rfl

end

end

/-- Settles O23: a mask operation, a mask into S registers and MFROMS, by width and by the parity of the pair. (The plain name
`maskWords` is the model's.) -/
theorem Settled.maskWords : Obligations.MaskWords := by
  intro s c hs
  refine ⟨fun o hf => ?ops, fun o hf => ?mnot,
    fun o => ⟨fun hf => ⟨execMpopc_ok hs hf, execMffs_ok hs hf, fun hw => execMtos_narrow hs hw hf⟩, execMtos_wide hs,
      execMtos_odd hs⟩,
    fun o => ⟨execMfroms_narrow hs, execMfroms_wide hs, execMfroms_odd hs⟩⟩
  case ops =>
    have hf' : c.free s (([o.d.toNat, o.a.toNat, o.b.toNat].filter (fun n => n != 0)).map RegName.m) := by
      simpa [map_filter_ne_zero_cons] using hf
    exact ⟨(State.maskOp_ok (x := execMand o s) hs rfl hf' :), (State.maskOp_ok (x := execMor o s) hs rfl hf' :),
      (State.maskOp_ok (x := execMxor o s) hs rfl hf' :), (State.maskOp_ok (x := execMandn o s) hs rfl hf' :)⟩
  case mnot =>
    have hf' : c.free s (([o.d.toNat, o.a.toNat].filter (fun n => n != 0)).map RegName.m) := by
      simpa [map_filter_ne_zero_cons] using hf
    exact (State.maskOp_ok (x := execMnot o s) hs rfl hf' :)

end Sys2Proof.Machine
end

section
/-! SUPPORT. Moves between register spaces, control registers and index registers (R44, R160 to R162). -/

namespace Sys2Proof.Machine

open Sys2Proof

/-- A word that computes each lane by itself follows its rule. -/
theorem vecRule_of_vop {i : Instr} {sw : Bool} {v : VOp} {f : FEnv → LaneIn → LaneOut}
    (hi : ∀ s, exec i s = s.runTarget sw (fun c s => c.vop s v f)) : VecRule i sw v (fun _ _ p x => f p.env x) := by
  intro s c p hcx hv _
  rw [hi]
  exact State.runTarget_ok hcx (Cx.vop_ok (f := f) hv)

section
variable {s : State} {c : Cx}

theorem execMfcv_ok {o : FMfc} {p : Prep} (hcx : s.cx = some c) :
    let t := s.latch c o.n.toNat
    let v : VOp := { use := { ixd := true }, d := some (o.d.toNat, 1), extra := ctlNames o.n.toNat c.mask }
    let outs := c.lanesOut t v p (fun x => one x (match o.n.toNat with
      | 2 => c.readLstat s x.lane
      | 3 => x.rng
      | 7 => BitVec.ofNat 32 x.lane
      | 9 => BitVec.ofNat 32 (c.w.id.w * c.w.width + x.lane)
      | _ => c.ctl s o.n.toNat))
    c.VecOk t v p outs → execMfcv o s = .next (t.afterVec c o.sw v p outs) := by
  intro t v outs hv
  exact State.runTarget_ok hcx (Cx.vop_ok hv)

/-! MOV.SV (R160). -/

theorem execMovSv_ok {o : FDab} {a : Nat} (hcx : s.cx = some c)
    (huse : ({ m := false, z := false, ixa := true : XpUse }).ok c.xp = true)
    (ha : c.resolve 1 c.mask (if c.xp.j then some (c.readX s c.xp.x.toNat) else none) o.a.toNat 1 = .ok a)
    (hlane : (c.imm (o.b.setWidth 32)).toNat < c.w.width) (hx : c.free s (if c.xp.j then [.x c.xp.x.toNat] else []))
    (hf : c.free s [.v a (laneBit (c.imm (o.b.setWidth 32)).toNat), .s o.d.toNat]) : execMovSv o s =
      .next ((s.afterS c 2 [(o.d.toNat, c.readV s a (c.imm (o.b.setWidth 32)).toNat)]).closeGroup c o.sw .next) := by
  unfold Cx.free at hx hf
  refine State.runTarget_ok hcx ?_
  simp only [huse, decide_eq_false (Nat.not_le.2 hlane), Bool.not_true, Bool.or_false, Bool.false_eq_true, if_false, hx, ha, hf, bind,
    Except.bind]
  rfl

theorem execMovSv_beyond {o : FDab} (hcx : s.cx = some c) (hlane : c.w.width ≤ (c.imm (o.b.setWidth 32)).toNat) :
    execMovSv o s = .next (s.raise c { cause := 0x01 }) := by
  refine State.runTarget_trap hcx ?_
  simp only [decide_eq_true hlane, Bool.or_true, if_true]
  rfl

/-! Reading a control register. -/

theorem execMfc_ok {o : FMfc} (hcx : s.cx = some c) (hx : c.neutral) (hf : c.free s (.s o.d.toNat :: ctlNames o.n.toNat 0)) :
    execMfc o s = .next (((s.latch c o.n.toNat).afterS c 4 [(o.d.toNat, c.ctl s o.n.toNat)]).closeGroup c o.sw .next) := by
  unfold Cx.neutral at hx
  unfold Cx.free at hf
  refine State.runTarget_ok hcx ?_
  simp only [hx, Bool.not_true, Bool.false_eq_true, if_false, hf, bind, Except.bind]
  rfl

/-! Writing a control register of the warp from S. -/

section
variable {a : Nat} (hx : c.neutral)
include hx

theorem Cx.mtcS_part (hf : c.free s (.s a :: ctlNames 0 0)) : c.mtcS s 0 a =
    if partOk c.w.id.wide (c.readS s a) = true then .ok (s.result c 4 [.part] [.part (c.readS s a)], .next) else .error ill := by
  unfold Cx.neutral at hx
  unfold Cx.free at hf
  simp only [Cx.mtcS, hx, Bool.not_true, Bool.false_eq_true, if_false, hf, bind, Except.bind]

theorem Cx.mtcS_fmode (hf : c.free s (.s a :: ctlNames 1 0)) : c.mtcS s 1 a =
    if fmodeOk (c.readS s a) = true then .ok (s.result c 4 [.fmode] [.fmode (c.readS s a)], .next) else .error ill := by
  unfold Cx.neutral at hx
  unfold Cx.free at hf
  simp only [Cx.mtcS, hx, Bool.not_true, Bool.false_eq_true, if_false, hf, bind, Except.bind]

theorem Cx.mtcS_kdef (hf : c.free s (.s a :: ctlNames 4 0)) : c.mtcS s 4 a =
    if c.readS s a >>> 8 = 0 then
      if bits (c.readS s a).toNat 7 4 = 15 then .error (trapOf 0x0B)
      else .ok (s.result c 4 [.kdef] [.kdef (c.readS s a)], .next)
    else .error ill := by
  unfold Cx.neutral at hx
  unfold Cx.free at hf
  simp only [Cx.mtcS, hx, Bool.not_true, Bool.false_eq_true, if_false, hf, bind, Except.bind, bne_iff_ne, ne_eq, ite_not]

theorem Cx.mtcS_epcLo (hf : c.free s (.s a :: ctlNames 16 0)) : c.mtcS s 16 a =
    if c.w.hnd.on = true ∧ c.readS s a &&& 3 = 0 then .ok (s.result c 4 [.epc false] [.epc false (c.readS s a)], .next)
    else .error ill := by
  unfold Cx.neutral at hx
  unfold Cx.free at hf
  simp only [Cx.mtcS, hx, Bool.not_true, Bool.false_eq_true, if_false, hf, bind, Except.bind, Bool.or_eq_true, Bool.not_eq_true',
    bne_iff_ne, ne_eq, ← Bool.not_eq_true, ← not_and_or, ite_not]

theorem Cx.mtcS_epcHi (hf : c.free s (.s a :: ctlNames 17 0)) : c.mtcS s 17 a =
    if c.w.hnd.on = true then .ok (s.result c 4 [.epc true] [.epc true (c.readS s a)], .next) else .error ill := by
  unfold Cx.neutral at hx
  unfold Cx.free at hf
  simp only [Cx.mtcS, hx, Bool.not_true, Bool.false_eq_true, if_false, hf, bind, Except.bind, Bool.not_eq_true', ← Bool.not_eq_true,
    ite_not]

theorem Cx.mtcS_other {n : Nat} (hn : n ∉ [0, 1, 2, 3, 4, 16, 17]) (hf : c.free s (.s a :: ctlNames n 0)) :
    c.mtcS s n a = .error ill := by
  unfold Cx.neutral at hx
  unfold Cx.free at hf
  simp only [Cx.mtcS, hx, Bool.not_true, Bool.false_eq_true, if_false, hf, bind, Except.bind]
  simp only [List.mem_cons, List.not_mem_nil, or_false, not_or] at hn
  obtain ⟨h0, h1, -, -, h4, h16, h17⟩ := hn
  split
  · exact absurd rfl h0
  · exact absurd rfl h1
  · exact absurd rfl h4
  · exact absurd rfl h16
  · exact absurd rfl h17
  · rfl

end

section
variable {o : FMtc}

theorem execMtc_warp (hcx : s.cx = some c) (h2 : o.n.toNat ≠ 2) (h3 : o.n.toNat ≠ 3) :
    execMtc o s = s.settle c o.sw (c.mtcS s o.n.toNat o.a.toNat) := by
  simp only [execMtc, State.runTarget, hcx, h2, h3, or_self, if_false]

/-- A write of a control register of the warp that a test lets pass or makes ILL. -/
theorem execMtc_of_test {n : Nat} {ok : Prop} [Decidable ok] {t : State} (hcx : s.cx = some c) (hn : o.n.toNat = n) (h2 : n ≠ 2)
    (h3 : n ≠ 3) (hm : c.mtcS s n o.a.toNat = if ok then .ok (t, .next) else .error ill) :
    (ok → execMtc o s = .next (t.closeGroup c o.sw .next)) ∧ (¬ ok → execMtc o s = .next (s.raise c { cause := 0x01 })) := by
  subst hn
  rw [execMtc_warp hcx h2 h3, hm]
  exact ⟨fun h => by rw [if_pos h]; rfl, fun h => by rw [if_neg h]; rfl⟩

/-- KDEF's producer key 15 (R186). -/
theorem execMtc_kdef_all (hcx : s.cx = some c) (hn : o.n.toNat = 4) (hx : c.neutral)
    (hf : c.free s (.s o.a.toNat :: ctlNames 4 0)) (hv : c.readS s o.a.toNat >>> 8 = 0)
    (h15 : bits (c.readS s o.a.toNat).toNat 7 4 = 15) : execMtc o s = .next (s.raise c { cause := 0x0B }) := by
  rw [execMtc_warp hcx (by omega) (by omega), hn, Cx.mtcS_kdef hx hf, if_pos hv, if_pos h15]
  rfl

theorem execMtc_other (hcx : s.cx = some c) (hn : o.n.toNat ∉ [0, 1, 2, 3, 4, 16, 17]) (hx : c.neutral)
    (hf : c.free s (.s o.a.toNat :: ctlNames o.n.toNat 0)) : execMtc o s = .next (s.raise c { cause := 0x01 }) := by
  rw [execMtc_warp hcx (fun h => hn (by simp [h])) (fun h => hn (by simp [h])), Cx.mtcS_other hx hn hf]
  rfl

/-! Writing a control register of each lane from V. -/

section
variable {p : Prep}

theorem execMtc_lanes (hcx : s.cx = some c) (hn : o.n.toNat = 2 ∨ o.n.toNat = 3) :
    execMtc o s = s.settle c o.sw (c.mtcV s o.n.toNat o.a.toNat) := by
  simp only [execMtc, State.runTarget, hcx, hn, if_true]

/-- SRNG is written at issue (R120). -/
theorem execMtc_srng (hcx : s.cx = some c) (hn : o.n.toNat = 3)
    (hp : c.prep s { use := { z := false, ixa := true }, a := some (o.a.toNat, 1), extra := ctlNames 3 c.mask } = .ok p) :
    execMtc o s = .next ((s.modWarp c.uid (fun w => { w with ctl := { w.ctl with
      srng := ((lanesOf p.act).map (fun i => (i, c.readV s p.a i))).foldl (fun m q => m.set q.1 q.2) w.ctl.srng } })).closeGroup
        c o.sw .next) := by
  rw [execMtc_lanes hcx (.inr hn), hn]
  simp only [Cx.mtcV, hp, bind, Except.bind, if_true]
  rfl

section
variable (hcx : s.cx = some c) (hn : o.n.toNat = 2)
  (hp : c.prep s { use := { z := false, ixa := true }, a := some (o.a.toNat, 1), extra := ctlNames 2 c.mask } = .ok p)
include hcx hn hp

theorem execMtc_lstat (hok : ∀ q ∈ (lanesOf p.act).map (fun i => (i, c.readV s p.a i)), lstatOk q.2 = true)
    (hne : (lanesOf p.act).map (fun i => (i, c.readV s p.a i)) ≠ []) : execMtc o s =
      .next ((s.result c 4 [.lstat p.act] [.lstat ((lanesOf p.act).map (fun i => (i, c.readV s p.a i)))]).closeGroup c o.sw .next) := by
  rw [execMtc_lanes hcx (.inl hn), hn]
  simp only [Cx.mtcV, hp, bind, Except.bind, List.all_eq_true.2 hok, List.isEmpty_eq_false_iff.2 hne, if_true]
  rfl

theorem execMtc_lstat_ill (hbad : ∃ q ∈ (lanesOf p.act).map (fun i => (i, c.readV s p.a i)), lstatOk q.2 = false) :
    execMtc o s = .next (s.raise c { cause := 0x01 }) := by
  have hall : ((lanesOf p.act).map (fun i => (i, c.readV s p.a i))).all (fun q => lstatOk q.2) = false :=
    List.all_eq_false.2 (hbad.imp fun _ h => ⟨h.1, Bool.eq_false_iff.1 h.2⟩)
  rw [execMtc_lanes hcx (.inl hn), hn]
  simp only [Cx.mtcV, hp, bind, Except.bind, hall]
  rfl

end

end

end

/-! XSET (R41, R162). -/

section
variable {o : FXset} (hcx : s.cx = some c) (hx : c.neutral)
  (hf : c.free s ([.s o.a.toNat, .x o.x.toNat] ++ (if o.g then [.l o.l.toNat] else [])))
include hcx hx hf

theorem execXset_ok (hv : c.readS s o.a.toNat &&& 0x7F000000 = 0) : execXset o s =
    .next ((s.result c 2 [.x o.x.toNat] [.x o.x.toNat ((c.readS s o.a.toNat &&& 0xFFFFFF00) ||| BitVec.ofNat 32
      (if o.g then ((c.readS s o.a.toNat).toNat + bits (c.readL s o.l.toNat).toNat 23 16) % 256
        else (c.readS s o.a.toNat).toNat % 256))]).closeGroup c o.sw .next) := by
  unfold Cx.neutral at hx
  unfold Cx.free at hf
  refine State.runTarget_ok hcx ?_
  simp only [hx, Bool.not_true, Bool.false_eq_true, if_false, hf, hv, bind, Except.bind, bne_self_eq_false]

theorem execXset_ill (hv : c.readS s o.a.toNat &&& 0x7F000000 ≠ 0) : execXset o s = .next (s.raise c { cause := 0x01 }) := by
  unfold Cx.neutral at hx
  unfold Cx.free at hf
  refine State.runTarget_trap hcx ?_
  simp only [hx, Bool.not_true, Bool.false_eq_true, if_false, hf, bne_iff_ne.2 hv, if_true, bind, Except.bind]
  rfl

end

end

/-- Settles O26: each move by its checks and the result that it leaves. -/
theorem moveWords : Obligations.MoveWords := by
  refine ⟨fun o => ⟨vecRule_of_vop (i := .movv o) (f := fun _ x => one x x.a0) (fun _ => rfl),
      vecRule_of_vop (i := .movVs o) (f := fun _ x => one x x.b0) (fun _ => rfl)⟩,
    fun o s c p hcx => execMfcv_ok hcx, fun s c hcx => ⟨fun o huse a ha => ⟨execMovSv_ok hcx huse ha, execMovSv_beyond hcx⟩,
      fun o hx hf => execMfc_ok hcx hx hf, fun o => ⟨?part, ?fmode, ?kdef, ?epcLo, ?epcHi, ?lanes, execMtc_kdef_all hcx,
        execMtc_other hcx⟩, fun o hx hf => ⟨execXset_ok hcx hx hf, execXset_ill hcx hx hf⟩⟩⟩
  case part => exact fun hn hx hf => execMtc_of_test hcx hn (by decide) (by decide) (Cx.mtcS_part hx hf)
  case fmode => exact fun hn hx hf => execMtc_of_test hcx hn (by decide) (by decide) (Cx.mtcS_fmode hx hf)
  case kdef =>
    intro h15 hn hx hf
    have hm := Cx.mtcS_kdef hx hf
    rw [if_neg h15] at hm
    exact execMtc_of_test hcx hn (by decide) (by decide) hm
  case epcLo => exact fun hn hx hf => execMtc_of_test hcx hn (by decide) (by decide) (Cx.mtcS_epcLo hx hf)
  case epcHi => exact fun hn hx hf => execMtc_of_test hcx hn (by decide) (by decide) (Cx.mtcS_epcHi hx hf)
  case lanes =>
    intro p _ hp
    exact ⟨fun hn => execMtc_srng hcx hn (hn ▸ hp), fun hn => execMtc_lstat hcx hn (hn ▸ hp),
      fun hn => execMtc_lstat_ill hcx hn (hn ▸ hp)⟩

end Sys2Proof.Machine
end

section
/-! SUPPORT. The issue of a word by the warp that a step chose (R46, R74). -/

namespace Sys2Proof.Machine

open Sys2Proof

/-! The word that a warp tries. -/

section
variable {s : State} {u : Nat} {w : Warp} {g : Group}

theorem State.tryWord_of_decode {x : Word} {i : Instr} (hw : s.warps.get? u = some w) (hg : w.group = some g)
    (hr : w.refusedWait = none) (hf : s.fetch w g.here = .word x) (hd : decode x = .ok i) :
    s.tryWord u = exec i ((s.fetched w g.here).begin u x) := by
  simp only [State.tryWord, hw, hg, hr, hf, State.runWord, hd]

/-- An attempt that nothing stops is what trying the word gives. -/
theorem State.attempt_of_next {q : State} (hw : s.warps.get? u = some w) (hg : w.group = some g) (hbp : s.bpMatch w = none)
    (hbrk : w.iss.grp = none → (s.ctx w.id.ctx).held = true → w.iss.skipBrk = false → s.brkAhead w g.here 9 = false)
    (ht : s.tryWord u = .next q) : s.attempt u = .next q := by
  simp only [State.attempt, hw, ht, hbp, hg]
  split
  · rfl
  · split
    next hgrp =>
      cases hgrp
    next hgrp he =>
      obtain rfl := Option.some.inj he
      have hno : ((s.ctx w.id.ctx).held && !w.iss.skipBrk && s.brkAhead w g.here 9) = false := by
        by_cases hh : (s.ctx w.id.ctx).held = true
        · by_cases hs : w.iss.skipBrk = true
          · simp [hs]
          · simp [hbrk hgrp hh (Bool.eq_false_of_not_eq_true hs)]
        · simp [hh]
      simp [hno]
    next => rfl

theorem State.attempt_of_fault {f : Fault} (hw : s.warps.get? u = some w) (ht : s.tryWord u = .fault f) : s.attempt u = .fault f := by
  simp only [State.attempt, hw, ht]

theorem State.attempt_of_refused {r : Refusal} (hw : s.warps.get? u = some w) (ht : s.tryWord u = .refused r) :
    s.attempt u = .refused r := by
  simp only [State.attempt, hw, ht]

/-! What an issue makes of an attempt. -/

theorem State.issue_of_next {q : State} (hw : s.warps.get? u = some w) (ha : s.attempt u = .next q) : s.issue u = .next (
    if (parked q u).isSome then (if parked q u == w.iss.stall then q else q.wake u w.iss.stall)
    else if (q.spent w).isSome then q else q.issued u w) := by
  simp only [State.issue, hw, ha]
  split
  · rfl
  · split <;> rfl

theorem State.issue_of_fault {f : Fault} (hw : s.warps.get? u = some w) (ha : s.attempt u = .fault f) : s.issue u = .fault f := by
  simp only [State.issue, hw, ha]

theorem State.issue_of_refused {r : Refusal} (hw : s.warps.get? u = some w) (ha : s.attempt u = .refused r) : s.issue u = .refused r := by
  simp only [State.issue, hw, ha]

end

/-! The choice of a step. -/

theorem State.chosen_mem {s : State} {c : Choice} (h : s.chosen = some c) : c ∈ s.options := by
  unfold State.chosen at h
  split at h
  · cases h
  next c' hl =>
    rw [hl, ← Option.some.inj h]
    exact List.mem_singleton_self _
  · exact List.mem_of_getElem? h

theorem State.chosen_isSome {s : State} (h : s.options ≠ []) : s.chosen.isSome = true := by
  unfold State.chosen
  split
  next hl => exact absurd hl h
  next => rfl
  next =>
    rw [List.getElem?_eq_getElem (Nat.mod_lt _ (List.length_pos_iff.2 h))]
    rfl

theorem step_of_chosen {s : State} {c : Choice} (h : s.ticked.chosen = some c) : step s = s.ticked.perform c := by
  simp only [step, h]

/-! What performing an event runs. -/

theorem State.perform_bag {s : State} {k : Nat} {e : Ev} (h : s.bag[k]? = some e) :
    s.perform (.bag k) = exec e.toInstr { s with bag := dropAt s.bag k } := by
  simp only [State.perform, h]

theorem State.perform_input {s : State} {e : Ev} {rest : List Ev} (h : s.inputs = e :: rest) :
    s.perform .input = exec e.toInstr { s with inputs := rest } := by
  simp only [State.perform, h]

/-- Settles O1: the chosen warp's attempt is its decoded word, and the issue adds the clocks of its partition. -/
theorem stepRunsDecoded : Obligations.StepRunsDecoded := by
  intro s t
  refine ⟨fun u w g x i hc hw hg hbp hbrk hr hf hd => ?issue, fun c hc => ⟨step_of_chosen hc, State.chosen_mem hc⟩,
    State.chosen_isSome, fun _ _ => State.perform_bag, fun _ => rfl, fun _ _ => State.perform_input⟩
  case issue =>
    intro b
    have hstep : step s = t.issue u := step_of_chosen hc
    have htry : t.tryWord u = exec i b := State.tryWord_of_decode hw hg hr hf hd
    rw [hstep]
    exact ⟨fun q hq => State.issue_of_next hw (State.attempt_of_next hw hg hbp hbrk (htry.trans hq)),
      fun f hf => State.issue_of_fault hw (State.attempt_of_fault hw (htry.trans hf)),
      fun r hr => State.issue_of_refused hw (State.attempt_of_refused hw (htry.trans hr))⟩

end Sys2Proof.Machine
end

section
/-! SUPPORT. Branches, calls, loops and indirect transfers (R89 to R93). -/

namespace Sys2Proof.Machine

open Sys2Proof

section
variable {s : State} {c : Cx}

/-- A target word that takes no attached word is ILL after one (R53). -/
theorem State.runTarget_noXp {sw : Bool} {body : Cx → State → Except Stop (State × Flow)} {k : Unit → Except Stop (State × Flow)}
    (hcx : s.cx = some c) (hx : c.g.xp ≠ none) (hb : body c s = c.noXp >>= k) :
    s.runTarget sw body = .next (s.raise c { cause := 0x01 }) := by
  obtain ⟨x, hx⟩ := Option.ne_none_iff_exists'.1 hx
  refine State.runTarget_trap hcx ?_
  rw [hb, Cx.noXp_of_some hx]
  rfl

/-! Branches (R89). -/

theorem Cx.readM_zero (c : Cx) (s : State) : c.readM s 0 = allLanes c.w.id.wide := if_pos rfl

/-- A conditional branch sends the lanes it takes to its target and the others on. -/
theorem State.branch_ok {o : FBr} {taken : Lanes → Lanes → Lanes} {l : Lanes} (hs : s.bare c) (hf : c.free s (maskName o.m))
    (hl : taken (c.readM s o.m.toNat) c.mask = l) : s.branch o taken = .next (s.closeGroup c o.sw (.goto
      [{ pc := c.pc + 4 * o.o.signExtend 64, prio := o.p, mask := l }, { pc := c.pc + 4, prio := c.g.prio, mask := c.mask &&& ~~~l }])) := by
  unfold Cx.free maskName at hf
  refine State.runTarget_ok hs.1 ?_
  simp only [Cx.noXp_of_none hs.2, hf, hl, bind, Except.bind]
  rfl

theorem State.branch_prefixed {o : FBr} {taken : Lanes → Lanes → Lanes} (hcx : s.cx = some c) (hx : c.g.xp ≠ none) :
    s.branch o taken = .next (s.raise c { cause := 0x01 }) :=
  State.runTarget_noXp hcx hx rfl

/-- BR.ANY takes every lane unless none of them is set. -/
theorem brAny_lanes (m a : Lanes) : (if m &&& a != 0 then a else 0) = if a &&& m = 0 then 0 else a := by
  by_cases h : a &&& m = 0 <;> simp [h, BitVec.and_comm m a]

theorem and_compl_eq_zero_iff (m a : Lanes) : a &&& ~~~m = 0 ↔ m &&& a = a := by
  rw [BitVec.and_comm m a]
  constructor <;> intro h <;> ext i hi <;> have := congrArg (·.getLsbD i) h <;> simp [hi] at this ⊢ <;> exact this

/-- BR.ALL takes every lane when none of them is clear. -/
theorem brAll_lanes (m a : Lanes) : (if m &&& a == a then a else 0) = if a &&& ~~~m = 0 then a else 0 := by
  simp only [and_compl_eq_zero_iff, beq_iff_eq]

/-- Settles O10: the four branches differ in the lanes they take alone. -/
theorem branches : Obligations.Branches := by
  refine fun o s c => ⟨fun hs hf => ⟨?t, ?f, ?any, ?all⟩, Cx.readM_zero c s, fun hcx hx i hi => ?ill⟩
  case t => exact (State.branch_ok hs hf (BitVec.and_comm ..) : execBrT o s = _)
  case f => exact (State.branch_ok hs hf rfl : execBrF o s = _)
  case any => exact (State.branch_ok hs hf (brAny_lanes ..) : execBrAny o s = _)
  case all => exact (State.branch_ok hs hf (brAll_lanes ..) : execBrAll o s = _)
  case ill =>
    simp only [List.mem_cons, List.not_mem_nil, or_false] at hi
    obtain rfl | rfl | rfl | rfl := hi
    · exact (State.branch_prefixed hcx hx : execBrT o s = _)
    · exact (State.branch_prefixed hcx hx : execBrF o s = _)
    · exact (State.branch_prefixed hcx hx : execBrAny o s = _)
    · exact (State.branch_prefixed hcx hx : execBrAll o s = _)

/-! Calls and loops (R90, R91). -/

theorem execCall_ok {o : FCall} (hs : s.bare c) (hf : c.free s c.linkNames) (hb : c.uncaptured s [126, 127]) :
    execCall o s = .next ((c.link s).closeGroup c o.sw
      (.goto [{ pc := c.pc + 4 * o.o.signExtend 64, prio := c.g.prio, mask := c.mask }])) := by
  unfold Cx.free at hf
  unfold Cx.uncaptured at hb
  refine State.runTarget_ok hs.1 ?_
  simp only [Cx.noXp_of_none hs.2, hf, hb, bind, Except.bind]
  rfl

/-- The state in which LOOPB has counted its register down from `x`. -/
def State.counted (s : State) (c : Cx) (n : Nat) (x : Word) : State :=
  (s.loopRace c n).modWarp c.uid (fun w => { w with regs := { w.regs with l := w.regs.l.set n (ldown x) } })

section
variable {o : FLoop} (hs : s.bare c) (hf : c.free s [.l o.l.toNat])
include hs hf

theorem execLoopb_back (hc : 1 < (c.readL s o.l.toNat).toNat % 2 ^ 16) :
    execLoopb o s = .next ((s.counted c o.l.toNat (c.readL s o.l.toNat)).closeGroup c o.sw
      (.goto [{ pc := c.pc + 4 * o.o.signExtend 64, prio := o.p, mask := c.mask }])) := by
  unfold Cx.free at hf
  refine State.runTarget_ok hs.1 ?_
  simp only [Cx.noXp_of_none hs.2, hf, hc, bind, Except.bind, if_true]
  rfl

theorem execLoopb_falls (hc : (c.readL s o.l.toNat).toNat % 2 ^ 16 ≤ 1) :
    execLoopb o s = .next ((s.counted c o.l.toNat (c.readL s o.l.toNat)).closeGroup c o.sw
      (.goto [{ pc := c.pc + 4, prio := c.g.prio, mask := c.mask }])) := by
  unfold Cx.free at hf
  refine State.runTarget_ok hs.1 ?_
  simp only [Cx.noXp_of_none hs.2, hf, Nat.not_lt.2 hc, bind, Except.bind, if_false]
  rfl

end

/-! Indirect transfers (R93). -/

theorem lanesOf_sorted (m : Lanes) : (lanesOf m).Pairwise (· < ·) := List.pairwise_lt_range.filter _

/-- In an ascending list a test finds the least element that passes it. -/
theorem find?_eq_some_of_least {l : List Nat} {p : Nat → Bool} {a : Nat} (hs : l.Pairwise (· < ·)) (ha : a ∈ l) (hp : p a = true)
    (hlow : ∀ k ∈ l, k < a → p k = false) : l.find? p = some a := by
  obtain ⟨as, bs, rfl⟩ := List.append_of_mem ha
  refine List.find?_eq_some_iff_append.2 ⟨hp, as, bs, rfl, fun k hk => ?_⟩
  have hlt : k < a := (List.pairwise_append.1 hs).2.2 k hk a List.mem_cons_self
  rw [hlow k (List.mem_append_left _ hk) hlt]
  rfl

/-- An aligned pair of valid registers passes the register check without an index (R42). -/
theorem Cx.resolve_pair {n operand : Nat} {m : Lanes} (hn : n % 2 = 0) (h0 : c.w.validV n = true) (h1 : c.w.validV (n + 1) = true) :
    c.resolve operand m none n 2 = .ok n := by
  have hb : c.w.badReg none n 2 = none := by
    simp [Warp.badReg, hn, h0, h1, List.range']
  simp only [Cx.resolve, hb]

/-- The address that a lane's pair of registers holds. -/
def Cx.jumpTo (c : Cx) (s : State) (n lane : Nat) : Addr := pair (c.readV s n lane) (c.readV s (n + 1) lane)

section
variable {n : Nat} {call : Bool} (hx : c.g.xp = none) (hr : c.resolve 1 c.mask none n 2 = .ok n)
  (hf : c.free s (vNames n 2 c.mask ++ if call then c.linkNames else [])) (hb : call = true → c.uncaptured s [126, 127])
include hx hr hf hb

/-- An indirect transfer past its checks looks for a misaligned target. -/
theorem Cx.indirect_eq : c.indirect s n call =
    match (lanesOf c.mask).find? (fun l => (c.jumpTo s n l).toNat % 4 != 0) with
    | some l => .error (trapLane 0x06 l (c.jumpTo s n l))
    | none => .ok (if call then c.link s else s,
        .goto ((lanesOf c.mask).map (fun l => { pc := c.jumpTo s n l, prio := c.g.prio, mask := laneBit l }))) := by
  cases call
  · have hf : c.touch s (vNames n 2 c.mask ++ []) = .ok () := hf
    simp only [Cx.indirect, Cx.noXp_of_none hx, hr, hf, bind, Except.bind, List.find?_map, Function.comp_def, List.map_map,
      Bool.false_eq_true, if_false, Cx.jumpTo]
    cases (lanesOf c.mask).find? _ <;> rfl
  · have hf : c.touch s (vNames n 2 c.mask ++ c.linkNames) = .ok () := hf
    have hb : c.bWrites s [126, 127] c.mask = .ok () := hb rfl
    simp only [Cx.indirect, Cx.noXp_of_none hx, hr, hf, hb, bind, Except.bind, List.find?_map, Function.comp_def, List.map_map,
      if_true, Cx.jumpTo]
    cases (lanesOf c.mask).find? _ <;> rfl

theorem Cx.indirect_aligned (ha : ∀ l ∈ lanesOf c.mask, (c.jumpTo s n l).toNat % 4 = 0) :
    c.indirect s n call = .ok (if call then c.link s else s,
      .goto ((lanesOf c.mask).map (fun l => { pc := c.jumpTo s n l, prio := c.g.prio, mask := laneBit l }))) := by
  have hfind : (lanesOf c.mask).find? (fun l => (c.jumpTo s n l).toNat % 4 != 0) = none :=
    List.find?_eq_none.2 (fun l hl => by simp [ha l hl])
  rw [Cx.indirect_eq hx hr hf hb, hfind]

theorem Cx.indirect_misaligned {l : Nat} (hl : l ∈ lanesOf c.mask) (hbad : (c.jumpTo s n l).toNat % 4 ≠ 0)
    (hlow : ∀ k ∈ lanesOf c.mask, k < l → (c.jumpTo s n k).toNat % 4 = 0) :
    c.indirect s n call = .error (trapLane 0x06 l (c.jumpTo s n l)) := by
  have hfind : (lanesOf c.mask).find? (fun l => (c.jumpTo s n l).toNat % 4 != 0) = some l :=
    find?_eq_some_of_least (lanesOf_sorted _) hl (by simpa using hbad) (fun k hk hlt => by simp [hlow k hk hlt])
  rw [Cx.indirect_eq hx hr hf hb, hfind]

end

/-- An outcome that is an indirect transfer through a free pair sends the lanes to their targets, or traps at the lowest
misaligned one. -/
theorem State.indirect_goes {x : Host.Outcome State Fault Refusal} {sw call : Bool} {n : Nat} (hs : s.bare c)
    (hr : c.resolve 1 c.mask none n 2 = .ok n) (hf : c.free s (vNames n 2 c.mask ++ if call then c.linkNames else []))
    (hb : call = true → c.uncaptured s [126, 127]) (hx : x = s.runTarget sw (fun c s => c.indirect s n call)) :
    ((∀ l ∈ lanesOf c.mask, (c.jumpTo s n l).toNat % 4 = 0) → x = .next ((if call then c.link s else s).closeGroup c sw (.goto
      ((lanesOf c.mask).map (fun l => { pc := c.jumpTo s n l, prio := c.g.prio, mask := laneBit l }))))) ∧
    (∀ l ∈ lanesOf c.mask, (c.jumpTo s n l).toNat % 4 ≠ 0 → (∀ k ∈ lanesOf c.mask, k < l → (c.jumpTo s n k).toNat % 4 = 0) →
      x = .next (s.raise c { cause := 0x06, info1 := BitVec.ofNat 32 l, info2 := (c.jumpTo s n l).setWidth 32,
                             info3 := (c.jumpTo s n l).extractLsb' 32 32 })) := by
  subst hx
  exact ⟨fun ha => State.runTarget_ok hs.1 (Cx.indirect_aligned hs.2 hr hf hb ha),
    fun l hl hbad hlow => State.runTarget_trap hs.1 (Cx.indirect_misaligned hs.2 hr hf hb hl hbad hlow)⟩

/-- Settles O11: each word by its checks; JMPI, CALLI and RET are one indirect transfer. -/
theorem callsAndLoops : Obligations.CallsAndLoops := by
  intro s c hs
  refine ⟨fun o hf hb => execCall_ok hs hf hb, fun o hf => ⟨execLoopb_back hs hf, execLoopb_falls hs hf⟩,
    fun n => ?_⟩
  intro dst goes hn h0 h1 hf
  have hr : c.resolve 1 c.mask none n 2 = .ok n := Cx.resolve_pair hn h0 h1
  refine ⟨fun o ho => ?jmpi, fun o ho hlf hb => ?calli, fun o ho => ?ret⟩
  case jmpi =>
    subst ho
    exact State.indirect_goes (call := false) hs hr hf nofun rfl
  case calli =>
    subst ho
    exact State.indirect_goes (call := true) hs hr hlf (fun _ => hb) rfl
  case ret =>
    subst ho
    exact State.indirect_goes (call := false) hs hr hf nofun rfl

end
end Sys2Proof.Machine
end

section
/-! SUPPORT. Software traps and the end of a trap handler (R95, R99, R401). -/

namespace Sys2Proof.Machine

open Sys2Proof

section
variable {s : State} {c : Cx}

/-! Software traps (R95). -/

/-- What TRAP, SYSC and BRK trap with: the code and the word's own address (R95). -/
def Cx.softTrap (c : Cx) (cause : BitVec 6) (code : BitVec 7) : TrapInfo :=
  { cause := cause, info1 := code.setWidth 32, info2 := c.pc.setWidth 32, info3 := c.pc.extractLsb' 32 32 }

theorem Cx.software_of_bare {cause : BitVec 6} {code : BitVec 7} (hx : c.g.xp = none) :
    c.software cause code = .error (.trap (c.softTrap cause code)) := by
  simp only [Cx.software, Cx.noXp_of_none hx, bind, Except.bind]
  rfl

section
variable {o : FCode} (hs : s.bare c)
include hs

theorem execTrap_takes : execTrap o s = .next (s.raise c (c.softTrap 0x19 o.c)) :=
  State.runTarget_trap hs.1 (Cx.software_of_bare hs.2)

theorem execSysc_takes : execSysc o s = .next (s.raise c (c.softTrap 0x1A o.c)) :=
  State.runTarget_trap hs.1 (Cx.software_of_bare hs.2)

theorem execBrk_takes (hd : (s.ctx c.ctx).held = false) : execBrk o s = .next (s.raise c (c.softTrap 0x18 o.c)) := by
  simp only [execBrk, hs.1, hd, Bool.not_false, Bool.true_or, if_true, Cx.software_of_bare hs.2]
  rfl

theorem execBrk_stops (hd : (s.ctx c.ctx).held = true) (hb : c.w.iss.skipBrk = false) :
    execBrk o s = .next (s.brkStop c.uid c.lane) := by
  simp only [execBrk, hs.1, hs.2, hd, hb, Bool.not_true, Option.isSome_none, Bool.or_self, Bool.false_eq_true, if_false]

theorem execBrk_goes_on (hd : (s.ctx c.ctx).held = true) (hb : c.w.iss.skipBrk = true) :
    execBrk o s = .next (s.closeGroup c o.sw .next) := by
  simp only [execBrk, hs.1, hs.2, hd, hb, Bool.not_true, Option.isSome_none, Bool.or_self, Bool.false_eq_true, if_false, if_true]
  rfl

end

/-- Settles O13: TRAP, SYSC and BRK share one trap; a debugger turns BRK into a stop. -/
theorem softwareTraps : Obligations.SoftwareTraps := fun _ _ _ hs =>
  ⟨execTrap_takes hs, execSysc_takes hs, execBrk_takes hs, fun hd => ⟨execBrk_stops hs hd, execBrk_goes_on hs hd⟩⟩

/-! The end of handler state (R99). -/

/-- When the frontier holds the issuing entry alone, closing its group leaves what the flow adds. -/
theorem State.closeGroup_frontier {sw : Bool} {es : List Ent} {m : Lanes}
    (hf : (s.warp c.uid).iss.frontier = [{ pc := c.g.pc, prio := c.g.prio, mask := m }]) :
    ((s.closeGroup c sw (.goto es)).warp c.uid).iss.frontier = addEntries [] es := by
  simp [State.closeGroup, hf, dropEntry]

/-- The S registers of the shadow come back (R99). -/
theorem Warp.leaveHandler_sreg_shadow {w : Warp} (hl : w.hnd.shadowS.length = 8) {k : Nat} (hk : k < 8) :
    w.leaveHandler.sreg (56 + k) = nth w.hnd.shadowS k 0 := by
  obtain ⟨a, b, c, d, e, f, g, h, hl⟩ : ∃ a b c d e f g h, w.hnd.shadowS = [a, b, c, d, e, f, g, h] := by
    match w.hnd.shadowS, hl with
    | [a, b, c, d, e, f, g, h], _ => exact ⟨a, b, c, d, e, f, g, h, rfl⟩
  interval_cases k <;> simp [Warp.leaveHandler, Warp.sreg, hl, KMap.getD_set, nth]

/-- The S registers below the shadow's are left (R99). -/
theorem Warp.leaveHandler_sreg_below (w : Warp) {n : Nat} (hn : n < 56) : w.leaveHandler.sreg n = w.sreg n := by
  have hfold : ∀ (l : List (Nat × Word)) (m : KMap Word), (∀ p ∈ l, n < p.1) →
      (l.foldl (fun m p => m.set p.1 p.2) m).getD n 0 = m.getD n 0 := by
    intro l
    induction l with
    | nil => exact fun _ _ => rfl
    | cons p t ih =>
      intro m hl
      rw [List.foldl_cons, ih _ (fun q hq => hl q (List.mem_cons_of_mem _ hq)),
        KMap.getD_set_ne _ _ _ (Nat.ne_of_lt (hl p List.mem_cons_self))]
  refine hfold _ _ (fun p hp => ?_)
  have hmem : p.1 ∈ [56, 57, 58, 59, 60, 61, 62, 63] := (List.of_mem_zip hp).1
  simp only [List.mem_cons, List.not_mem_nil, or_false] at hmem
  omega

theorem execEret_ill {o : FNone} (hs : s.bare c) (hon : c.w.hnd.on = false) :
    execEret o s = .next (s.raise c { cause := 0x01 }) := by
  refine State.runTarget_trap hs.1 ?_
  simp only [Cx.noXp_of_none hs.2, hon, bind, Except.bind, Bool.not_false, if_true]
  rfl

/-- ERET leaves handler state for the entries held and the trapped lanes that live. -/
theorem execEret_resumes {o : FNone} (hs : s.bare c) (hon : c.w.hnd.on = true) (hb : c.w.busy = false) :
    execEret o s = .next ((s.putWarp c.uid (c.w.leaveHandler.onlyHead c)).closeGroup c o.sw (.goto (c.w.hnd.held ++
      [{ pc := c.w.hnd.epc, prio := c.w.hnd.ecause.extractLsb' 9 3, mask := c.w.hnd.emask &&& c.w.live }]))) := by
  refine State.runTarget_ok hs.1 ?_
  simp only [Cx.noXp_of_none hs.2, hon, hb, bind, Except.bind, Bool.not_true, Bool.false_eq_true, if_false, State.warp_of_cx hs.1]

/-- Settles O15: the warp leaves handler state with its held entries, and closing the group changes its issue state alone. -/
theorem handlerReturn : Obligations.HandlerReturn := by
  refine fun o s c hs => ⟨execEret_ill hs, fun hon hb hl => ⟨_, execEret_resumes hs hon hb, ?_⟩⟩
  intro w
  have hfront : w.iss.frontier = _ := State.closeGroup_frontier (congrArg (·.iss.frontier) (State.putWarp_warp ..))
  have hkeeps : w.hnd = c.w.leaveHandler.hnd ∧ w.regs = c.w.leaveHandler.regs ∧ w.ctl = c.w.leaveHandler.ctl := by
    simp only [w, State.closeGroup, State.modWarp_warp, State.putWarp_warp]
    exact ⟨rfl, rfl, rfl⟩
  obtain ⟨hhnd, hregs, hctl⟩ := hkeeps
  have hsreg (n : Nat) : w.sreg n = c.w.leaveHandler.sreg n := congrArg (fun r : Regs => r.s.getD n 0) hregs
  exact ⟨hhnd ▸ rfl, hfront, fun k hk => (hsreg _).trans (Warp.leaveHandler_sreg_shadow hl hk),
    fun n hn => (hsreg n).trans (Warp.leaveHandler_sreg_below c.w hn), hctl ▸ rfl, hregs ▸ rfl⟩

end
end Sys2Proof.Machine
end

section
/-! SUPPORT. Rejoin registers, EXIT and the rest of CTL (R71, R86, R92, R94, R96 to R99). -/

namespace Sys2Proof.Machine

open Sys2Proof

/-! The table of R86. -/

section
variable {j : Rejoin} {a : Lanes} {pc : Addr}

theorem Rejoin.join_empty (h : j.e = 0) : j.join a pc = some (a, j, []) := if_pos h

theorem Rejoin.strike_empty (he : j.e = 0) (ha : j.a = 0) : j.strike a = ({}, []) := by
  simp [Rejoin.strike, he, ha]

/-! No lane waits yet. -/

section
variable (he : j.e ≠ 0) (ha : j.a = 0)
include ha

theorem Rejoin.strike_open_all (h : j.e &&& ~~~a = 0) : j.strike a = ({}, []) := by
  simp only [Rejoin.strike, ha, h, if_true]

theorem Rejoin.strike_open_some (h : j.e &&& ~~~a ≠ 0) : j.strike a = ({ j with e := j.e &&& ~~~a }, []) := by
  simp only [Rejoin.strike, ha, h, if_true, if_false]

include he

theorem Rejoin.join_open_none (h : a &&& j.e = 0) : j.join a pc = some (a, j, []) := by
  simp only [Rejoin.join, he, ha, h, if_true, if_false]

theorem Rejoin.join_open_all (h : a &&& j.e = j.e) :
    j.join a pc = some (a &&& ~~~j.e, {}, [{ pc := pc + 4, prio := j.prio, mask := j.e }]) := by
  simp only [Rejoin.join, he, ha, h, if_true, if_false]

theorem Rejoin.join_open_some (h0 : a &&& j.e ≠ 0) (h : a &&& j.e ≠ j.e) :
    j.join a pc = some (a &&& ~~~j.e, { j with a := a &&& j.e, pc := pc }, []) := by
  simp only [Rejoin.join, he, ha, h0, h, if_true, if_false]

end

/-! Lanes wait. -/

section
variable (he : j.e ≠ 0) (ha : j.a ≠ 0)
include ha

theorem Rejoin.strike_wait_releases (h : j.e &&& ~~~a = j.a) :
    j.strike a = ({}, [{ pc := j.pc + 4, prio := j.prio, mask := j.a }]) := by
  simp only [Rejoin.strike, ha, h, if_true, if_false]

theorem Rejoin.strike_wait_keeps (h : j.e &&& ~~~a ≠ j.a) : j.strike a = ({ j with e := j.e &&& ~~~a }, []) := by
  simp only [Rejoin.strike, ha, h, if_false]

include he

theorem Rejoin.join_elsewhere (h : pc ≠ j.pc) : j.join a pc = none := by
  simp only [Rejoin.join, he, ha, h, ne_eq, not_false_eq_true, if_true, if_false]

theorem Rejoin.join_wait_releases (h : j.a ||| (a &&& j.e) = j.e) :
    j.join a j.pc = some (a &&& ~~~j.e, {}, [{ pc := j.pc + 4, prio := j.prio, mask := j.e }]) := by
  simp only [Rejoin.join, he, ha, h, ne_eq, not_true_eq_false, if_true, if_false]

theorem Rejoin.join_wait_keeps (h : j.a ||| (a &&& j.e) ≠ j.e) :
    j.join a j.pc = some (a &&& ~~~j.e, { j with a := j.a ||| (a &&& j.e) }, []) := by
  simp only [Rejoin.join, he, ha, h, ne_eq, not_true_eq_false, if_false]

end

end

theorem strikeAll_eq (a : Lanes) (m : KMap Rejoin) :
    strikeAll a m = (m.map (fun q => (q.1, (q.2.strike a).1)), m.flatMap (fun q => (q.2.strike a).2)) := by
  induction m with
  | nil => rfl
  | cons q t ih => simp only [strikeAll, ih, List.map_cons, List.flatMap_cons]

/-! A warp replaced twice. -/

theorem KMap.set_set {α : Type} (m : KMap α) (i : Nat) (x y : α) : (m.set i x).set i y = m.set i y := by
  induction m with
  | nil => simp [KMap.set]
  | cons p t ih =>
    obtain ⟨k, v⟩ := p
    rcases lt_trichotomy i k with h | h | h
    · simp [KMap.set, h]
    · simp [KMap.set, h]
    · simp [KMap.set, Nat.not_lt.2 h.le, h.ne', ih]

theorem State.putWarp_putWarp (s : State) (u : Nat) (v w : Warp) : (s.putWarp u v).putWarp u w = s.putWarp u w := by
  simp only [State.putWarp, KMap.set_set]

/-- Writing a warp back before one of its rejoin registers changes nothing more. -/
theorem State.putWarp_warp_putJ (s : State) (u n : Nat) (j : Rejoin) : (s.putWarp u (s.warp u)).putJ u n j = s.putJ u n j := by
  simp only [State.putJ, State.modWarp, State.putWarp_warp, State.putWarp_putWarp]

/-! Entries of a release while a handler runs (R100). -/

section
variable {w : Warp} {es : List Ent}

theorem Warp.letIn_of_off (h : w.hnd.on = false) : w.letIn es = (w, es) := by
  simp only [Warp.letIn, h, Bool.false_eq_true, if_false]

/-- The entries of a release with the lanes of the handler alone. -/
def Warp.within (w : Warp) (es : List Ent) : List Ent := es.map (fun e => { e with mask := e.mask &&& w.hnd.emask })

/-- The warp with the other lanes of a release held. -/
def Warp.holding (w : Warp) (es : List Ent) : Warp :=
  { w with hnd := { w.hnd with held := addEntries w.hnd.held (es.map (fun e => { e with mask := e.mask &&& ~~~w.hnd.emask })) } }

theorem Warp.letIn_of_on (h : w.hnd.on = true) : w.letIn es = (w.holding es, w.within es) := by
  exact if_pos h

end

section
variable {s : State} {c : Cx}

/-! ENROL, JOIN and STRIKE. -/

section
variable {o : FJ} (hs : s.bare c)
include hs

theorem execEnrol_ok : execEnrol o s =
    .next ((s.putJ c.uid o.j.toNat ((c.w.jreg o.j.toNat).enrol c.mask c.g.prio)).closeGroup c o.sw .next) := by
  refine State.runTarget_ok hs.1 ?_
  simp only [Cx.noXp_of_none hs.2, bind, Except.bind]

theorem execJoin_ok {l : Lanes} {j : Rejoin} {es : List Ent} (h : (c.w.jreg o.j.toNat).join c.mask c.pc = some (l, j, es)) :
    execJoin o s = .next (((s.putWarp c.uid (c.w.letIn es).1).putJ c.uid o.j.toNat j).closeGroup c o.sw
      (.goto ({ pc := c.pc + 4, prio := c.g.prio, mask := l } :: (c.w.letIn es).2))) := by
  refine State.runTarget_ok hs.1 ?_
  simp only [Cx.noXp_of_none hs.2, h, State.warp_of_cx hs.1, bind, Except.bind]
  rfl

theorem execJoin_ill (h : (c.w.jreg o.j.toNat).join c.mask c.pc = none) :
    execJoin o s = .next (s.raise c { cause := 0x01 }) := by
  refine State.runTarget_trap hs.1 ?_
  simp only [Cx.noXp_of_none hs.2, h, bind, Except.bind]
  rfl

theorem execStrike_ok {j : Rejoin} {es : List Ent} (h : (c.w.jreg o.j.toNat).strike c.mask = (j, es)) :
    execStrike o s = .next (((s.putWarp c.uid (c.w.letIn es).1).putJ c.uid o.j.toNat j).closeGroup c o.sw
      (.goto ({ pc := c.pc + 4, prio := c.g.prio, mask := c.mask } :: (c.w.letIn es).2))) := by
  refine State.runTarget_ok hs.1 ?_
  simp only [Cx.noXp_of_none hs.2, h, State.warp_of_cx hs.1, bind, Except.bind]
  rfl

/-- Outside handler state a release goes into the frontier whole. -/
theorem State.letIn_putJ_of_off {n : Nat} {j : Rejoin} {es : List Ent} (hon : c.w.hnd.on = false) :
    (s.putWarp c.uid (c.w.letIn es).1).putJ c.uid n j = s.putJ c.uid n j := by
  rw [Warp.letIn_of_off hon, ← State.warp_of_cx hs.1, State.putWarp_warp_putJ]

end

/-! EXIT (R71, R94, R99). -/

/-- The warp after its active lanes have left it and its rejoin registers. -/
def Warp.exited (w : Warp) (a : Lanes) : Warp :=
  { w with live := w.live &&& ~~~a, regs := { w.regs with j := (strikeAll a w.regs.j).1 } }

/-- What an EXIT that waits for nothing leaves before its group closes. -/
def Cx.exits (c : Cx) (s : State) : State × Flow :=
  let a := (c.w.exited c.mask).letIn (strikeAll c.mask c.w.regs.j).2
  let s1 := s.putWarp c.uid (if c.endsHandler then a.1.leaveHandler.onlyHead c else a.1)
  (if c.w.live &&& ~~~c.mask == 0#64 then (s1.cancelClaims c.uid).post (.warpRetire c.uid) else s1,
    .goto (if c.endsHandler then a.1.hnd.held ++ a.2 else a.2))

theorem Warp.due_of_no_reports {w : Warp} (p : Report → Bool) (h : w.reports = []) : w.due p = none := by
  simp [Warp.due, h, lowestReport]

theorem Warp.due_of_none_let (w : Warp) : w.due (fun _ => false) = none := by
  simp [Warp.due, lowestReport]

theorem State.runReporting_of_none_due {sw : Bool} {p : Cx → Report → Bool} {body : Cx → State → Except Stop (State × Flow)}
    (hs : s.bare c) (hd : c.w.due (p c) = none) : s.runReporting sw p body = s.settle c sw (body c s) := by
  simp only [State.runReporting, hs.1, hd, Cx.noXp_of_none hs.2]

section
variable (hr : c.last = true → c.w.reports = [])
include hr

/-- Without reports the last lane of a handler delivers none (log 21). -/
theorem Cx.no_report_at_end : (c.g.xp.isNone && c.endsHandler && c.last && !c.w.reports.isEmpty && !c.w.busy) = false := by
  cases hl : c.last
  · simp
  · simp [hr hl]

/-- Reports are delivered at the last EXIT alone (R106). -/
theorem Cx.no_due_at_exit : c.w.due (fun _ => c.last) = none := by
  cases hl : c.last
  · exact c.w.due_of_none_let
  · exact Warp.due_of_no_reports _ (hr hl)

end

/-- An EXIT with no report to deliver, which waits for nothing. -/
theorem execExit_ok {o : FNone} (hs : s.bare c) (hr : c.last = true → c.w.reports = [])
    (href : c.last = true → c.w.refusal (fun _ => true) = none) (hwait : c.last = true → s.exitWait c.uid = none)
    (hbusy : c.endsHandler = true → c.w.busy = false) :
    execExit o s = .next ((c.exits s).1.closeGroup c o.sw (c.exits s).2) := by
  have href' : (if c.last then c.w.refusal (fun _ => true) else none) = none := by
    split
    next hl => exact href hl
    next => rfl
  have hwait' : (if c.last then s.exitWait c.uid else none) = none := by
    split
    next hl => exact hwait hl
    next => rfl
  have hbusy' : (c.endsHandler && c.w.busy) = false := by
    cases he : c.endsHandler
    · rfl
    · exact hbusy he
  simp only [execExit, hs.1, Cx.no_report_at_end hr, Bool.false_eq_true, if_false]
  rw [State.runReporting_of_none_due (p := fun c _ => c.last) hs (Cx.no_due_at_exit hr)]
  simp only [Cx.noXp_of_none hs.2, href', hwait', hbusy', bind, Except.bind, Bool.false_eq_true, if_false, State.warp_of_cx hs.1]
  rfl

/-- The last EXIT waits for what retirement waits for (R71). -/
theorem execExit_parks {o : FNone} {r : Stall} (hs : s.bare c) (hl : c.last = true) (hr : c.w.reports = [])
    (href : c.w.refusal (fun _ => true) = none) (hwait : s.exitWait c.uid = some r) :
    execExit o s = .next ((s.markExit c.uid).parkWarp c.uid r) := by
  simp only [execExit, hs.1, Cx.no_report_at_end (fun _ => hr), Bool.false_eq_true, if_false]
  rw [State.runReporting_of_none_due (p := fun c _ => c.last) hs (Cx.no_due_at_exit (fun _ => hr))]
  simp only [Cx.noXp_of_none hs.2, hl, href, hwait, bind, Except.bind, if_true]
  rfl

theorem Cx.last_iff : c.last = true ↔ c.w.live &&& ~~~c.mask = 0 := beq_iff_eq

theorem Cx.endsHandler_of_off (h : c.w.hnd.on = false) : c.endsHandler = false := by
  simp [Cx.endsHandler, h]

theorem Cx.endsHandler_of_on (h : c.w.hnd.on = true) : c.endsHandler = true ↔ c.w.hnd.emask &&& c.w.live &&& ~~~c.mask = 0 := by
  simp [Cx.endsHandler, h]

/-! What an EXIT leaves, by cases. -/

section
variable (hend : c.endsHandler = false)
include hend

theorem Cx.exits_others (hl : c.w.live &&& ~~~c.mask ≠ 0) : c.exits s =
    (s.putWarp c.uid ((c.w.exited c.mask).letIn (strikeAll c.mask c.w.regs.j).2).1,
      .goto ((c.w.exited c.mask).letIn (strikeAll c.mask c.w.regs.j).2).2) := by
  have hl' : (c.w.live &&& ~~~c.mask == 0#64) = false := beq_eq_false_iff_ne.2 hl
  simp only [Cx.exits, hend, hl', Bool.false_eq_true, if_false]

theorem Cx.exits_last (hl : c.w.live &&& ~~~c.mask = 0) : c.exits s =
    (((s.putWarp c.uid ((c.w.exited c.mask).letIn (strikeAll c.mask c.w.regs.j).2).1).cancelClaims c.uid).post (.warpRetire c.uid),
      .goto ((c.w.exited c.mask).letIn (strikeAll c.mask c.w.regs.j).2).2) := by
  have hl' : (c.w.live &&& ~~~c.mask == 0#64) = true := beq_iff_eq.2 hl
  simp only [Cx.exits, hend, hl', Bool.false_eq_true, if_false, if_true]

end

/-- The EXIT of a handler's last lanes, with other lanes of the warp alive, ends handler state. -/
theorem Cx.exits_handler (hend : c.endsHandler = true) (hon : c.w.hnd.on = true) (hl : c.w.live &&& ~~~c.mask ≠ 0) : c.exits s =
    (s.putWarp c.uid (((c.w.exited c.mask).holding (strikeAll c.mask c.w.regs.j).2).leaveHandler.onlyHead c),
      .goto (((c.w.exited c.mask).holding (strikeAll c.mask c.w.regs.j).2).hnd.held ++ c.w.within (strikeAll c.mask c.w.regs.j).2)) := by
  have hl' : (c.w.live &&& ~~~c.mask == 0#64) = false := beq_eq_false_iff_ne.2 hl
  have hin : (c.w.exited c.mask).letIn (strikeAll c.mask c.w.regs.j).2 = _ := Warp.letIn_of_on hon
  simp only [Cx.exits, hend, hl', hin, Bool.false_eq_true, if_false, if_true]
  rfl

/-! The rest of CTL (R92, R96, R98). -/

theorem execLset_ok {o : FLset} (hs : s.bare c) (hf : c.free s [.s o.a.toNat, .l o.l.toNat]) :
    execLset o s = .next ((s.result c 3 [.l o.l.toNat] [.l o.l.toNat (lnorm (c.readS s o.a.toNat))]).closeGroup c o.sw .next) := by
  unfold Cx.free at hf
  refine State.runTarget_ok hs.1 ?_
  simp only [Cx.noXp_of_none hs.2, hf, bind, Except.bind]

theorem execDrain_ok {o : FNone} (hs : s.bare c) (hout : c.w.iss.outstanding = []) (hst : c.w.iss.status = []) :
    execDrain o s = .next (s.closeGroup c o.sw .next) := by
  refine State.runTarget_ok hs.1 ?_
  simp only [Cx.noXp_of_none hs.2, hout, hst, bind, Except.bind, List.isEmpty_nil, Bool.not_true, Bool.false_eq_true, if_false]

theorem execNop_ok {o : FNone} (hs : s.bare c) : execNop o s = .next (s.closeGroup c o.sw .next) := by
  refine State.runTarget_ok hs.1 ?_
  simp only [Cx.noXp_of_none hs.2, bind, Except.bind]

theorem execYield_ok {o : FNone} (hs : s.bare c) : execYield o s = .next ((s.modWarp c.uid (fun w =>
    { w with iss := { w.iss with yield := (s.core c.core).cyc + 9 } })).closeGroup c o.sw .next) := by
  refine State.runTarget_ok hs.1 ?_
  simp only [Cx.noXp_of_none hs.2, bind, Except.bind]

end

/-- Settles O12: the table of R86 by its rows, then each word by what it leaves, outside handler state and in it. -/
theorem rejoinAndExit : Obligations.RejoinAndExit := by
  refine ⟨fun j a p pc => ?table, strikeAll_eq, fun s c hs => ?words⟩
  case table =>
    exact ⟨fun h => if_pos h, fun h => if_neg h, Rejoin.join_empty,
      fun he ha => by rw [Rejoin.strike_empty he ha]; exact ⟨rfl, rfl⟩,
      fun he ha => ⟨Rejoin.join_open_none he ha, Rejoin.join_open_all he ha, Rejoin.join_open_some he ha, Rejoin.strike_open_all ha,
        Rejoin.strike_open_some ha⟩,
      fun he ha => ⟨Rejoin.join_elsewhere he ha, Rejoin.join_wait_releases he ha, Rejoin.join_wait_keeps he ha,
        Rejoin.strike_wait_releases ha, Rejoin.strike_wait_keeps ha⟩⟩
  case words =>
    refine ⟨fun o => execEnrol_ok hs, fun o hon => ⟨fun l j es h => ?join, execJoin_ill hs, ?strike⟩,
      fun o hon => ⟨fun l j es h => ?joinOn, fun j es h => ?strikeOn⟩, fun o hon hl hr => ?exitSome,
      fun o hl hr href => ⟨fun r => execExit_parks hs (Cx.last_iff.2 hl) hr href, fun hwait hon => ?exitLast⟩,
      fun o hon hl => ⟨fun hem => ?exitIn, fun hem hb => ?exitHandler⟩, fun o => execLset_ok hs, fun o => execDrain_ok hs,
      fun o => ⟨execNop_ok hs, execYield_ok hs⟩⟩
    case join =>
      have hexec := execJoin_ok hs h
      rwa [State.letIn_putJ_of_off hs hon, Warp.letIn_of_off hon] at hexec
    case strike =>
      have hexec := execStrike_ok (o := o) hs rfl
      rwa [State.letIn_putJ_of_off hs hon, Warp.letIn_of_off hon] at hexec
    case joinOn =>
      have hexec := execJoin_ok hs h
      rwa [Warp.letIn_of_on hon] at hexec
    case strikeOn =>
      have hexec := execStrike_ok hs h
      rwa [Warp.letIn_of_on hon] at hexec
    case exitSome =>
      have hlast : c.last ≠ true := fun h => hl (Cx.last_iff.1 h)
      have hend := Cx.endsHandler_of_off hon
      have hexec := execExit_ok (o := o) hs (fun _ => hr) (fun h => absurd h hlast) (fun h => absurd h hlast) (by simp [hend])
      rwa [Cx.exits_others hend hl, Warp.letIn_of_off (w := c.w.exited c.mask) hon] at hexec
    case exitLast =>
      have hend := Cx.endsHandler_of_off hon
      have hexec := execExit_ok (o := o) hs (fun _ => hr) (fun _ => href) (fun _ => hwait) (by simp [hend])
      rw [Cx.exits_last hend hl, Warp.letIn_of_off (w := c.w.exited c.mask) hon] at hexec
      rw [← hl]
      exact hexec
    case exitIn =>
      have hlast : c.last ≠ true := fun h => hl (Cx.last_iff.1 h)
      have hend : c.endsHandler = false := Bool.eq_false_of_not_eq_true (mt (Cx.endsHandler_of_on hon).1 hem)
      have hexec := execExit_ok (o := o) hs (fun h => absurd h hlast) (fun h => absurd h hlast) (fun h => absurd h hlast) (by simp [hend])
      rwa [Cx.exits_others hend hl, Warp.letIn_of_on (w := c.w.exited c.mask) hon] at hexec
    case exitHandler =>
      have hlast : c.last ≠ true := fun h => hl (Cx.last_iff.1 h)
      have hend : c.endsHandler = true := (Cx.endsHandler_of_on hon).2 hem
      have hexec := execExit_ok (o := o) hs (fun h => absurd h hlast) (fun h => absurd h hlast) (fun h => absurd h hlast) (fun _ => hb)
      rw [Cx.exits_handler hend hon hl] at hexec
      refine ⟨_, hexec, ?_, ?_, ?_, State.closeGroup_frontier (congrArg (·.iss.frontier) (State.putWarp_warp ..))⟩
      all_goals
        simp only [State.closeGroup, State.modWarp_warp, State.putWarp_warp]
        rfl

end Sys2Proof.Machine
end

section
/-! SUPPORT. Registers that each lane indexes (R105, R161). -/

namespace Sys2Proof.Machine

open Sys2Proof

theorem orFlags_eq_zero {l : List Word} (h : ∀ f ∈ l, f = 0) : orFlags l = 0 := by
  induction l with
  | nil => rfl
  | cons f t ih =>
    rw [orFlags, h f List.mem_cons_self, ih (fun g hg => h g (List.mem_cons_of_mem _ hg))]
    rfl

theorem flagVals_eq_nil {l : List (Nat × Word)} (h : ∀ q ∈ l, q.2 = 0) : flagVals l = [] := by
  induction l with
  | nil => rfl
  | cons q t ih => rw [flagVals, if_pos (h q List.mem_cons_self), ih (fun r hr => h r (List.mem_cons_of_mem _ hr))]

section
variable {s : State} {c : Cx}

/-- No trap of R125 is taken for no flags. -/
theorem Cx.flagCheck_zero (c : Cx) (fmode : Word) : c.flagCheck fmode 0 = .ok () := by
  simp [Cx.flagCheck, flagTrap]

/-- The end of a vector word whose lanes raise no flag. -/
theorem Cx.finish_of_no_flags {v : VOp} {p : Prep} {outs : List (Nat × LaneOut)} (h : ∀ q ∈ outs, q.2.fl = 0) :
    c.finish s v p outs = .ok ((s.setRngs c.uid outs).result c v.lat
      (vNames p.d ((v.d.map Prod.snd).getD 0) (if c.xp.z then c.mask else p.act)) (c.vecWrites v p outs), .next) := by
  refine Cx.finish_ok ?untrapped (.inl ?unflagged)
  case untrapped =>
    rw [orFlags_eq_zero (List.forall_mem_map.2 h)]
    exact Cx.flagCheck_zero ..
  case unflagged => rw [laneFlags, flagVals_eq_nil (List.forall_mem_map.2 h), List.isEmpty_nil]

/-- The V register that a lane indexes, and whether its index fails the test of R161. -/
def Cx.indexed (c : Cx) (s : State) (p : Prep) (lane : Nat) : Nat × Bool :=
  c.dynReg (c.readX s c.xp.x.toNat) (c.readV s p.a lane)

theorem Cx.dynRegs_ok {p : Prep} (h : ∀ i ∈ lanesOf p.act, (c.indexed s p i).2 = false) :
    c.dynRegs s p = .ok ((lanesOf p.act).map (fun i => (i, (c.indexed s p i).1))) := by
  have hnone : ((lanesOf p.act).map (fun i => (i, c.indexed s p i))).filter (fun q => q.2.2) = [] :=
    List.filter_eq_nil_iff.2 (by simpa using h)
  unfold Cx.indexed at hnone
  simp only [Cx.dynRegs, hnone, List.map_map]
  rfl

theorem Cx.dynRegs_bad {p : Prep} {i : Nat} {l : List Nat} (h : (lanesOf p.act).filter (fun i => (c.indexed s p i).2) = i :: l) :
    c.dynRegs s p = .error (regBound 1 (c.indexed s p i).1 (maskOf (i :: l))) := by
  have hsome : ((lanesOf p.act).map (fun i => (i, c.indexed s p i))).filter (fun q => q.2.2) =
      (i :: l).map (fun i => (i, c.indexed s p i)) := by
    rw [List.filter_map, ← h]
    rfl
  unfold Cx.indexed at hsome
  have hfst : (l.map (fun i => (i, c.indexed s p i))).map Prod.fst = l := by simp [Function.comp_def]
  unfold Cx.indexed at hfst
  simp only [Cx.dynRegs, hsome, List.map_cons, hfst]
  rfl

/-- What VRDI says (R161). -/
def Cx.vrdiForm (c : Cx) (o : FDa) : VOp :=
  { use := { xsel := true }, d := some (o.d.toNat, 1), a := some (o.a.toNat, 1), extra := [.x c.xp.x.toNat] }

/-- What VWRI says (R161). -/
def Cx.vwriForm (c : Cx) (o : FAb) : VOp :=
  { use := { z := false, xsel := true }, a := some (o.a.toNat, 1), b := some (o.b.toNat, 1), extra := [.x c.xp.x.toNat] }

section
variable {o : FDa} {p : Prep} (hcx : s.cx = some c) (hp : c.prep s (c.vrdiForm o) = .ok p)
include hcx hp

theorem execVrdi_reads (hok : ∀ i ∈ lanesOf p.act, (c.indexed s p i).2 = false)
    (hf : c.free s ((lanesOf p.act).map (fun i => .v (c.indexed s p i).1 (laneBit i)))) :
    execVrdi o s = .next (s.afterVec c o.sw (c.vrdiForm o) p ((lanesOf p.act).map (fun i =>
      (i, { ws := [c.readV s (c.indexed s p i).1 i], rng := c.w.ctl.srng.getD i 0 })))) := by
  unfold Cx.free at hf
  unfold Cx.vrdiForm at hp
  refine State.runTarget_ok hcx ?_
  simp only [hp, Cx.dynRegs_ok hok, List.map_map, Function.comp_def, hf, bind, Except.bind]
  exact Cx.finish_of_no_flags (by simp)

theorem execVrdi_bound {i : Nat} {l : List Nat} (hbad : (lanesOf p.act).filter (fun i => (c.indexed s p i).2) = i :: l) :
    execVrdi o s = .next (s.raise c
      { cause := 0x05, info1 := BitVec.ofNat 32 (256 + (c.indexed s p i).1 % 256),
        info2 := (maskOf (i :: l)).setWidth 32, info3 := (maskOf (i :: l)).extractLsb' 32 32 }) := by
  unfold Cx.vrdiForm at hp
  refine State.runTarget_trap hcx ?_
  simp only [hp, Cx.dynRegs_bad hbad, bind, Except.bind]
  rfl

end

section
variable {o : FAb} {p : Prep} (hcx : s.cx = some c) (hp : c.prep s (c.vwriForm o) = .ok p)
include hcx hp

theorem execVwri_writes (hok : ∀ i ∈ lanesOf p.act, (c.indexed s p i).2 = false)
    (hf : c.free s ((lanesOf p.act).map (fun i => .v (c.indexed s p i).1 (laneBit i))))
    (hb : c.bWrites s ((lanesOf p.act).map (fun i => (c.indexed s p i).1)) p.act = .ok ()) :
    execVwri o s = .next ((s.result c 4 ((lanesOf p.act).map (fun i => .v (c.indexed s p i).1 (laneBit i)))
      ((lanesOf p.act).map (fun i => .v (c.indexed s p i).1 [(i, c.readV s p.b i)]))).closeGroup c o.sw .next) := by
  unfold Cx.free at hf
  unfold Cx.vwriForm at hp
  refine State.runTarget_ok hcx ?_
  simp only [hp, Cx.dynRegs_ok hok, List.map_map, Function.comp_def, hf, hb, bind, Except.bind]

theorem execVwri_bound {i : Nat} {l : List Nat} (hbad : (lanesOf p.act).filter (fun i => (c.indexed s p i).2) = i :: l) :
    execVwri o s = .next (s.raise c
      { cause := 0x05, info1 := BitVec.ofNat 32 (256 + (c.indexed s p i).1 % 256),
        info2 := (maskOf (i :: l)).setWidth 32, info3 := (maskOf (i :: l)).extractLsb' 32 32 }) := by
  unfold Cx.vwriForm at hp
  refine State.runTarget_trap hcx ?_
  simp only [hp, Cx.dynRegs_bad hbad, bind, Except.bind]
  rfl

end

end

/-- Settles O27: both words look up the lanes' registers the same way, and then read or write them. -/
theorem indexedRegisterWords : Obligations.IndexedRegisterWords := by
  intro s c hcx
  refine ⟨fun o p => ?vrdi, fun o p => ?vwri⟩
  case vrdi =>
    intro _ _ _ _ hp
    exact ⟨execVrdi_reads hcx hp, fun _ _ => execVrdi_bound hcx hp⟩
  case vwri =>
    intro _ _ hp
    exact ⟨execVwri_writes hcx hp, fun _ _ => execVwri_bound hcx hp⟩

end Sys2Proof.Machine
end

section
/-! SUPPORT. What observation leaves as it was: records, logs, traces and samples change memory, cores, the outbox and what is set
going (R393, R396 to R399, R403 to R406). -/

namespace Sys2Proof.Machine

open Sys2Proof

/-- Everything but what an engine's write changes, the cores, the outbox and the events set going. -/
def State.observes (s t : State) : Prop :=
  t = { s with mem := t.mem, bad := t.bad, partials := t.partials, versions := t.versions, frames := t.frames,
               banks := t.banks, bufs := t.bufs, cores := t.cores, outbox := t.outbox, bag := t.bag }

namespace State.observes

variable {s t u : State}

theorem refl (s : State) : s.observes s := rfl

theorem trans (h1 : s.observes t) (h2 : t.observes u) : s.observes u := by
  unfold State.observes at h1 h2 ⊢
  rw [h2, h1]

theorem of_sameBut (h : s.sameBut t) : s.observes t := by
  unfold State.sameBut at h
  unfold State.observes
  rw [h]

theorem foldl {α : Type} {f : State → α → State} (hf : ∀ (s : State) x, s.observes (f s x)) (l : List α) (s : State) :
    s.observes (l.foldl f s) := by
  induction l generalizing s with
  | nil => exact refl s
  | cons x t ih => exact (hf s x).trans (ih (f s x))

theorem warps (h : s.observes t) : t.warps = s.warps := by
  unfold State.observes at h
  rw [h]

theorem ctxs (h : s.observes t) : t.ctxs = s.ctxs := by
  unfold State.observes at h
  rw [h]

end State.observes

theorem State.observes_modCore (s : State) (core : Nat) (f : Core → Core) : s.observes (s.modCore core f) := rfl

theorem State.observes_post (s : State) (e : Ev) : s.observes (s.post e) := rfl

theorem State.observes_wrWords (s : State) (a : Nat) (l : List Word) : s.observes (s.wrWords a l) :=
  .of_sameBut (State.sameBut_wr ..)

theorem State.observes_obsDrop (s : State) (ctx : Nat) : s.observes (s.obsDrop ctx) := rfl

/-! Records (R393, R399). -/

theorem State.observes_bumpHdr (s : State) (ctx ofs n : Nat) : s.observes (s.bumpHdr ctx ofs n) := by
  unfold State.bumpHdr
  dsimp only
  split
  · exact .refl s
  · split
    · exact State.observes_wrWords ..
    · exact State.observes_obsDrop ..

theorem State.observes_obsPut {s t : State} {ctx va : Nat} {rec : List Word} (h : s.obsPut ctx va rec = some t) : s.observes t := by
  unfold State.obsPut at h
  dsimp only at h
  split at h
  · cases h
    exact (State.observes_wrWords ..).trans (State.observes_wrWords ..)
  · cases h

theorem State.observes_ring (s : State) (ctx baseOfs logShift seqOfs : Nat) (rec : List Word) :
    s.observes (s.ring ctx baseOfs logShift seqOfs rec) := by
  unfold State.ring
  split
  · exact .refl s
  · split
    · dsimp only
      split
      next h => exact (State.observes_obsPut h).trans (State.observes_bumpHdr ..)
      next => exact State.observes_obsDrop ..
    · exact State.observes_obsDrop ..

theorem State.observes_trace (s : State) (ctx ev core grid team thread arg clk : Nat) :
    s.observes (s.trace ctx ev core grid team thread arg clk) := by
  unfold State.trace
  split
  · exact State.observes_ring ..
  · exact .refl s

/-! Logs (R403 to R406). -/

theorem State.observes_roomFor (s : State) (core ctx : Nat) : s.observes (s.roomFor core ctx) := by
  unfold State.roomFor
  split
  · exact .refl s
  · dsimp only
    split
    · exact .refl s
    · split <;> rfl

theorem State.observes_extend (s : State) (core ctx : Nat) (l : List Word) (f : Seg → Seg) : s.observes (s.extend core ctx l f) := by
  unfold State.extend
  split
  · exact .refl s
  · exact (State.observes_modCore ..).trans (State.observes_roomFor ..)

theorem State.observes_logInput (s : State) (core ctx kind slot : Nat) (payload : List Word) :
    s.observes (s.logInput core ctx kind slot payload) := by
  unfold State.logInput
  split
  · exact .refl s
  · exact State.observes_extend ..

theorem State.observes_outward (s : State) (core ctx : Nat) (l : List Nat) : s.observes (s.outward core ctx l) := by
  unfold State.outward
  split
  · exact State.observes_modCore ..
  · split
    · exact .refl s
    · exact State.observes_extend ..

theorem State.observes_logDigest (s : State) (core ctx : Nat) : s.observes (s.logDigest core ctx) := by
  unfold State.logDigest
  split
  · exact .refl s
  · exact (State.observes_logInput ..).trans (State.observes_extend ..)

/-! Segments (R403, R405). -/

theorem State.observes_obsWrite (s : State) (ctx va : Nat) (l : List Word) (fuel : Nat) : s.observes (s.obsWrite ctx va l fuel) := by
  induction fuel generalizing s va l with
  | zero => exact .refl s
  | succ n ih =>
    unfold State.obsWrite
    dsimp only
    split
    · exact .refl s
    · refine .trans ?_ (ih ..)
      split
      · exact State.observes_wrWords ..
      · exact State.observes_obsDrop ..

theorem State.observes_writeChunk (s : State) (core i : Nat) (g : Seg) : s.observes (s.writeChunk core i g) := by
  unfold State.writeChunk
  dsimp only
  split
  · exact (State.observes_obsWrite ..).trans (State.observes_modCore ..)
  · exact State.observes_modCore ..

theorem State.observes_writeRest (s : State) (core i fuel : Nat) : s.observes (s.writeRest core i fuel) := by
  induction fuel generalizing s with
  | zero => exact .refl s
  | succ n ih =>
    unfold State.writeRest
    split
    · exact .refl s
    · split
      · exact .refl s
      · split
        · exact (State.observes_writeChunk ..).trans (ih _)
        · split
          · exact (State.observes_modCore ..).trans (ih _)
          · exact .refl s

theorem State.observes_endSeg (s : State) (core ctx reason : Nat) : s.observes (s.endSeg core ctx reason) := by
  unfold State.endSeg
  dsimp only
  split
  · exact .refl s
  · exact (((State.observes_logDigest ..).trans (State.observes_extend ..)).trans (State.observes_modCore ..)).trans
      ((State.observes_writeRest ..).trans (State.observes_trace ..))

theorem State.observes_endSegs (s : State) (ctx : Nat) : s.observes (s.endSegs ctx) :=
  .foldl (fun s c => State.observes_endSeg s c ctx 0) _ s

theorem State.observes_openSeg (s : State) (t core : Nat) : s.observes (s.openSeg t core) := by
  unfold State.openSeg
  dsimp only
  split
  · exact .refl s
  · split
    · exact State.observes_modCore ..
    · split
      · exact .refl s
      · split <;> rfl

theorem State.observes_startSampling (s : State) (ctx core : Nat) : s.observes (s.startSampling ctx core) := by
  unfold State.startSampling
  dsimp only
  split
  · exact (State.observes_modCore ..).trans (State.observes_post ..)
  · exact .refl s

end Sys2Proof.Machine
end

section
/-! SUPPORT. PUSH, POP and PPEEK (R105, R228, R233, R234, R236, R244, R245). -/

namespace Sys2Proof

theorem setAt_eq_set {α : Type} (l : List α) (i : Nat) (x : α) : setAt l i x = l.set i x := by
  induction l generalizing i with
  | nil => rfl
  | cons y t ih => cases i <;> simp [setAt, ih]

theorem nth_setAt_self {α : Type} {l : List α} {i : Nat} (h : i < l.length) (x d : α) : nth (setAt l i x) i d = x := by
  simp [nth_eq_getD, setAt_eq_set, h]

end Sys2Proof

namespace Sys2Proof.Machine

open Sys2Proof

theorem Warp.setPort_port {w : Warp} {p : Nat} (h : p < w.ports.length) (x : Port) : (w.setPort p x).port p = x :=
  nth_setAt_self h x {}

theorem lanesOf_nodup (m : Lanes) : (lanesOf m).Nodup := (lanesOf_sorted m).imp Nat.ne_of_lt

/-! Queues after a push and after a pop. -/

/-- A port's queues with values of a push at the tails of those whose lane still takes them. -/
def enqueue (dead : Nat → Bool) (id : Nat) (q : KMap (List PortVal)) (vals : List (Nat × Word)) : KMap (List PortVal) :=
  vals.foldl (fun m x => if dead x.1 then m else m.set x.1 (m.getD x.1 [] ++ [{ tx := id, val := x.2 }])) q

section
variable {dead : Nat → Bool} {id : Nat} {vals : List (Nat × Word)} {k : Nat}

theorem enqueue_other (q : KMap (List PortVal)) (h : ∀ x ∈ vals, x.1 = k → dead k = true) :
    (enqueue dead id q vals).getD k [] = q.getD k [] := by
  induction vals generalizing q with
  | nil => rfl
  | cons x t ih =>
    have ht := ih (if dead x.1 then q else q.set x.1 (q.getD x.1 [] ++ [{ tx := id, val := x.2 }]))
      (fun y hy => h y (List.mem_cons_of_mem _ hy))
    refine ht.trans ?_
    split
    next => rfl
    next hd => exact KMap.getD_set_ne _ _ _ (fun e => hd (e ▸ h x List.mem_cons_self e.symm))

theorem enqueue_target (q : KMap (List PortVal)) {v : Word} (hn : (vals.map Prod.fst).Nodup) (hm : (k, v) ∈ vals)
    (hd : dead k = false) : (enqueue dead id q vals).getD k [] = q.getD k [] ++ [{ tx := id, val := v }] := by
  induction vals generalizing q with
  | nil => cases hm
  | cons x t ih =>
    obtain ⟨hx, ht⟩ := List.nodup_cons.1 hn
    rcases List.mem_cons.1 hm with rfl | hm
    · have hrest := enqueue_other (dead := dead) (id := id) (vals := t) (k := k) (q.set k (q.getD k [] ++ [{ tx := id, val := v }]))
        (fun y hy (e : y.1 = k) => absurd (e ▸ (List.mem_map_of_mem hy : y.1 ∈ t.map Prod.fst)) hx)
      simpa [enqueue, hd] using hrest
    · have hne : k ≠ x.1 := fun e => hx (e ▸ List.mem_map_of_mem (f := Prod.fst) hm)
      have hrest := ih (if dead x.1 then q else q.set x.1 (q.getD x.1 [] ++ [{ tx := id, val := x.2 }])) ht hm
      have hq : (if dead x.1 then q else q.set x.1 (q.getD x.1 [] ++ [{ tx := id, val := x.2 }])).getD k [] = q.getD k [] := by
        split
        · rfl
        · exact KMap.getD_set_ne _ _ _ hne
      rwa [hq] at hrest

end

/-- A port's queues after a pop of some lanes. -/
def dequeue (q : KMap (List PortVal)) (ls : List Nat) : KMap (List PortVal) := ls.foldl (fun m l => m.set l (m.getD l []).tail) q

theorem dequeue_getD (q : KMap (List PortVal)) {ls : List Nat} (hn : ls.Nodup) (k : Nat) :
    (dequeue q ls).getD k [] = if k ∈ ls then (q.getD k []).tail else q.getD k [] := by
  induction ls generalizing q with
  | nil => rfl
  | cons l t ih =>
    obtain ⟨hl, ht⟩ := List.nodup_cons.1 hn
    refine (ih (q.set l (q.getD l []).tail) ht).trans ?_
    rw [KMap.getD_set]
    by_cases hk : k = l
    · subst hk
      simp [hl]
    · simp [hk]

/-! The lanes that receive on a lane port (R228). -/

/-- A push on a lane port turns the lanes of a tile by `turn`. -/
theorem laneDest_eq (tile p i : Nat) : laneDest tile p i =
    2 ^ tile * (i / 2 ^ tile) + (i % 2 ^ tile + if p = 1 then 1 else 2 ^ tile - 1) % 2 ^ tile := by
  have hn : 0 < 2 ^ tile := Nat.two_pow_pos tile
  have hi : i - i / 2 ^ tile * 2 ^ tile = i % 2 ^ tile := by
    rw [Nat.mul_comm, ← Nat.mod_eq_sub_mul_div]
  unfold laneDest
  dsimp only
  rw [hi, Nat.mul_comm]
  split
  · rfl
  · rw [Nat.add_sub_assoc hn]

theorem laneDest_injective {tile p i j : Nat} (h : laneDest tile p i = laneDest tile p j) : i = j := by
  have hn : 0 < 2 ^ tile := Nat.two_pow_pos tile
  rw [laneDest_eq, laneDest_eq] at h
  generalize 2 ^ tile = n at hn h
  have hdiv : i / n = j / n := by
    have hq := congrArg (· / n) h
    simpa [Nat.mul_add_div hn, Nat.div_eq_of_lt (Nat.mod_lt _ hn)] using hq
  have hmod : i % n = j % n := by
    rw [hdiv] at h
    have hr : i % n ≡ j % n [MOD n] := Nat.ModEq.add_right_cancel' _ (Nat.add_left_cancel h)
    simpa [Nat.ModEq] using hr
  rw [← Nat.div_add_mod i n, hdiv, hmod, Nat.div_add_mod]

/-! What a consume leaves of its warp (R171): its key file alone changes. -/

section
variable {w v : Warp}

/-- A warp with the key file of another. -/
def Warp.withKeys (w v : Warp) : Warp := { w with kf := v.kf }

theorem Warp.sealFrom_withKeys {n k : Nat} (h : w.sealFrom n k = some v) : v = w.withKeys v := by
  induction n generalizing w k with
  | zero =>
    cases h
    rfl
  | succ n ih =>
    unfold Warp.sealFrom at h
    split at h
    · have hrest := ih h
      exact hrest
    · cases h

theorem Warp.consumeAll_withKeys {l : Lates} {d : Dep} (h : w.consumeAll l = some (d, v)) : v = w.withKeys v := by
  unfold Warp.consumeAll at h
  split at h
  next hs =>
    cases h
    exact Warp.sealFrom_withKeys hs
  next => cases h

theorem Warp.merge_withKeys {l : Lates} {a b d : Dep} (h : w.merge l a b = some (d, v)) : v = w.withKeys v := by
  unfold Warp.merge at h
  split at h
  · exact Warp.consumeAll_withKeys h
  · dsimp only at h
    split at h
    · exact Warp.consumeAll_withKeys h
    · cases h
      rfl

theorem Warp.consume_withKeys {l : Lates} {k : Nat} {d : Dep} (h : w.consume l k = some (d, v)) : v = w.withKeys v := by
  unfold Warp.consume at h
  split at h
  · cases h
    rfl
  · split at h
    · exact Warp.consumeAll_withKeys h
    · split at h
      · cases h
      · have hmerge := Warp.merge_withKeys h
        exact hmerge

end

theorem Cx.consume_warp {s s1 : State} {c : Cx} {k : Nat} {d : Dep} (hcx : s.cx = some c) (h : c.consume s k = .ok (d, s1)) :
    s1.warp c.uid = c.w.withKeys (s1.warp c.uid) := by
  unfold Cx.consume at h
  rw [State.warp_of_cx hcx] at h
  split at h
  next hc =>
    cases h
    rw [State.putWarp_warp]
    exact Warp.consume_withKeys hc
  next => cases h

/-! PUSH (R234, R244). -/

/-- The warp with the values of a push at the tails of its queues for a port. -/
def Warp.takesPush (w : Warp) (p id : Nat) (vals : List (Nat × Word)) : Warp :=
  w.setPort (oppPort p) { w.port (oppPort p) with queue := enqueue (gone p w) id (w.port (oppPort p)).queue vals }

/-- The state with the values of a push in the queues of warp `v`, and the warp that pushed moved on. -/
def Cx.pushTaken (c : Cx) (s s1 : State) (p v : Nat) (vals : List (Nat × Word)) : State :=
  (State.putWarp { s1 with fresh := s1.fresh + 1 } v ((s1.warp v).takesPush p s1.fresh vals)).modWarp c.uid
    (fun w => { w with moved := (s.core c.core).cyc })

/-- The state after a push whose dependence is `d`: its values taken, its word in the digest, its transfer under way. -/
def Cx.pushes (c : Cx) (s s1 : State) (o : FPush) (v : Nat) (vals : List (Nat × Word)) (d : Dep) : State :=
  ((c.pushOut (c.pushTaken s s1 o.p.toNat v vals) o.p.toNat o.c.toNat (vals.map Prod.snd)).withTx s1.fresh
    { uid := c.uid, port := o.p.toNat, tgt := v, tport := oppPort o.p.toNat, lanes := vals.map Prod.fst, dep := d,
      due := (s.core c.core).cyc + portLat o.p.toNat, scope := portScope o.p.toNat }).post (.portValueVisible s1.fresh)

theorem Cx.pushOut_warps (c : Cx) (s : State) (p kc : Nat) (l : List Word) : (c.pushOut s p kc l).warps = s.warps := by
  unfold Cx.pushOut
  split
  · rfl
  · exact (State.observes_outward ..).warps

theorem Cx.pushTaken_ports (c : Cx) (s s1 : State) (p v : Nat) (vals : List (Nat × Word)) :
    ((c.pushTaken s s1 p v vals).warp v).ports = ((s1.warp v).takesPush p s1.fresh vals).ports := by
  unfold Cx.pushTaken
  by_cases hv : v = c.uid
  · rw [hv, State.modWarp_warp, State.putWarp_warp]
  · rw [State.modWarp_warp_ne _ _ hv, State.putWarp_warp]

section
variable {s s1 : State} {c : Cx} {o : FPush} {a v : Nat} {vals : List (Nat × Word)} {d : Dep}

theorem Cx.pushes_bag : .portValueVisible s1.fresh ∈ (c.pushes s s1 o v vals d).bag :=
  List.mem_append_right _ List.mem_cons_self

theorem Cx.pushes_port (hq : oppPort o.p.toNat < (s1.warp v).ports.length) :
    ((c.pushes s s1 o v vals d).warp v).port (oppPort o.p.toNat) =
      { (s1.warp v).port (oppPort o.p.toNat) with
        queue := enqueue (gone o.p.toNat (s1.warp v)) s1.fresh ((s1.warp v).port (oppPort o.p.toNat)).queue vals } := by
  have hports : ((c.pushes s s1 o v vals d).warp v).ports = ((s1.warp v).takesPush o.p.toNat s1.fresh vals).ports :=
    (congrArg (fun m : KMap Warp => (m.getD v {}).ports) (Cx.pushOut_warps ..)).trans (Cx.pushTaken_ports ..)
  unfold Warp.port at hports ⊢
  rw [hports]
  exact Warp.setPort_port hq _

/-- A push gives each lane that still takes values one at its queue's tail, and leaves the other queues. -/
theorem Cx.pushes_lane {f : Nat → Nat} (hf : Function.Injective f) (hq : oppPort o.p.toNat < (s1.warp v).ports.length)
    (hvals : vals = (lanesOf c.mask).map (fun l => (f l, c.readV s a l))) :
    (∀ l ∈ lanesOf c.mask, gone o.p.toNat (s1.warp v) (f l) = false →
      (((c.pushes s s1 o v vals d).warp v).port (oppPort o.p.toNat)).lane (f l) =
        ((s1.warp v).port (oppPort o.p.toNat)).lane (f l) ++ [{ tx := s1.fresh, val := c.readV s a l }]) ∧
    (∀ k, (∀ l ∈ lanesOf c.mask, f l = k → gone o.p.toNat (s1.warp v) k = true) →
      (((c.pushes s s1 o v vals d).warp v).port (oppPort o.p.toNat)).lane k = ((s1.warp v).port (oppPort o.p.toNat)).lane k) := by
  subst hvals
  rw [Cx.pushes_port hq]
  have hnodup : (((lanesOf c.mask).map (fun l => (f l, c.readV s a l))).map Prod.fst).Nodup := by
    rw [List.map_map]
    exact (lanesOf_nodup c.mask).map hf
  refine ⟨fun l hl hg => enqueue_target _ hnodup (List.mem_map_of_mem hl) hg, fun k hk => enqueue_other _ (fun x hx hxk => ?_)⟩
  obtain ⟨l, hl, rfl⟩ := List.mem_map.1 hx
  exact hk l hl hxk

section
variable (hs : s.bare c) (hr : c.resolve 1 c.mask none o.v.toNat 1 = .ok a)
include hs hr

theorem execPush_reserves {dest : List (Nat × Nat)} (hf : c.free s ([.v a c.mask] ++ if o.p.toNat < 2 then [.part] else []))
    (hst : c.w.portSt o.p.toNat = .connected) (hin : (decide (2 ≤ o.p.toNat) && (s.core c.core).replay.isSome) = false)
    (hto : c.pushTo s o.p.toNat = some (v, dest)) (hdest : dest ≠ [])
    (hroom : ∀ x ∈ dest, gone o.p.toNat (s.warp v) x.2 = false → (((s.warp v).port (oppPort o.p.toNat)).lane x.2).length < portCap o.p.toNat)
    (hk : c.consume s o.c.toNat = .ok (d, s1)) :
    execPush o s = .next ((c.pushes s s1 o v (dest.map (fun x => (x.2, c.readV s a x.1))) d).closeGroup c o.sw .next) := by
  unfold Cx.free at hf
  have hfull : dest.any (fun x => !gone o.p.toNat (s.warp v) x.2 &&
      decide (portCap o.p.toNat ≤ (((s.warp v).port (oppPort o.p.toNat)).lane x.2).length)) = false := by
    refine List.any_eq_false.2 (fun x hx => ?_)
    cases hg : gone o.p.toNat (s.warp v) x.2
    · simpa using hroom x hx hg
    · simp
  refine State.runTarget_ok hs.1 ?_
  simp only [Cx.noXp_of_none hs.2, hr, hf, hst, hin, hto, hfull, hk, List.isEmpty_eq_false_iff.2 hdest, bind, Except.bind,
    Bool.false_eq_true, if_false]
  rfl

/-- A push of a port that lost its peer traps with the cause the port recorded (R233, R245). -/
theorem execPush_orphaned (hf : c.free s [.v a c.mask]) (hp : 2 ≤ o.p.toNat) (hst : (c.w.port o.p.toNat).st = .orphaned) :
    execPush o s = s.settle c o.sw (.error (orphaned (c.w.port o.p.toNat) o.p.toNat c c.mask)) := by
  unfold Cx.free at hf
  have hlane : ¬ o.p.toNat < 2 := Nat.not_lt.2 hp
  have hst : c.w.portSt o.p.toNat = .orphaned := (if_neg hlane).trans hst
  simp only [execPush, State.runTarget, hs.1, Cx.noXp_of_none hs.2, hr, hlane, if_false, List.append_nil, hf, hst, bind, Except.bind]

theorem execPush_unbound (hf : c.free s ([.v a c.mask] ++ if o.p.toNat < 2 then [.part] else []))
    (hst : c.w.portSt o.p.toNat = .unbound) :
    execPush o s = s.settle c o.sw (.error (portUnbound o.p.toNat c.mask)) := by
  unfold Cx.free at hf
  simp only [execPush, State.runTarget, hs.1, Cx.noXp_of_none hs.2, hr, hf, hst, bind, Except.bind]

end
end

/-- The two traps of an orphaned port (R105, R245). -/
theorem State.settle_orphaned {s : State} {c : Cx} {sw : Bool} {p : Nat} {fails : Lanes} {x : Host.Outcome State Fault Refusal}
    (hx : x = s.settle c sw (.error (orphaned (c.w.port p) p c fails))) :
    ((c.w.port p).gone = true → x = .next (s.raise c
      { cause := 0x0A, info1 := BitVec.ofNat 32 (lowest fails), info2 := (c.w.port p).target, info3 := 0 })) ∧
    ((c.w.port p).gone = false → x = .next (s.raise c
      { cause := 0x0C, info1 := BitVec.ofNat 32 p, info2 := c.mask.setWidth 32, info3 := c.mask.extractLsb' 32 32 })) := by
  have low (x : Word) : (x.setWidth 64).setWidth 32 = x := by simp
  have high (x : Word) : (x.setWidth 64).extractLsb' 32 32 = 0 := by
    apply BitVec.eq_of_toNat_eq; simp [Nat.shiftRight_eq_div_pow]; omega
  subst hx
  constructor
  · intro hg
    simp only [orphaned, hg, if_true, trapLane, low, high]
    rfl
  · intro hg
    simp only [orphaned, hg, Bool.false_eq_true, if_false]
    rfl

/-! POP and PPEEK (R245). -/

/-- The port after a pop or a peek of some lanes. -/
def Port.popped (x : Port) (ls : List Nat) (take : Bool) : Port := if take then { x with queue := dequeue x.queue ls } else x

/-- The words at the heads of the lanes' queues. -/
def Port.heads (x : Port) (ls : List Nat) : KMap Word := ls.map (fun l => (l, ((x.lane l).head?.map (fun v => v.val)).getD 0))

/-- The state after a pop or a peek of a port into V register `d`. -/
def Cx.pops (c : Cx) (s : State) (p d : Nat) (take : Bool) : State :=
  (s.modWarp c.uid (fun w => { w.setPort p ((c.w.port p).popped (lanesOf c.mask) take) with
    moved := if take then (s.core c.core).cyc else w.moved })).result c 2 [.v d c.mask] [.v d ((c.w.port p).heads (lanesOf c.mask))]

section
variable {s : State} {c : Cx} {p d dn : Nat} {take : Bool}

/-- No poison stands at the visible head of an active lane's queue (R427). -/
def Cx.cleanPort (c : Cx) (p : Nat) : Prop :=
  ∀ l ∈ lanesOf c.mask, ∀ v, ((c.w.port p).lane l).head? = some v → v.vis = true → v.bad = false

theorem Cx.no_bad_head (hclean : c.cleanPort p) : (lanesOf c.mask).any (fun l =>
    (((c.w.port p).lane l).takeWhile (fun v => v.vis)).head?.any (fun v => v.bad)) = false := by
  refine List.any_eq_false.2 (fun l hl => ?_)
  have hhead := hclean l hl
  cases hq : (c.w.port p).lane l with
  | nil => simp
  | cons v t =>
    rw [hq] at hhead
    cases hv : v.vis
    · simp [hv]
    · simp [hv, hhead v rfl hv]

theorem Cx.not_all_ready (h : ∃ l ∈ lanesOf c.mask, (c.w.port p).ready l = 0) :
    (lanesOf c.mask).all (fun l => decide (0 < (c.w.port p).ready l)) = false :=
  List.all_eq_false.2 (h.imp fun _ h => ⟨h.1, by simp [h.2]⟩)

section
variable (hx : c.g.xp = none) (hr : c.resolve 0 c.mask none d 1 = .ok dn) (hf : c.free s [.v dn c.mask])
  (hb : c.uncaptured s [dn]) (hclean : c.cleanPort p)
include hx hr hf hb hclean

theorem Cx.popOp_ok (hne : lanesOf c.mask ≠ []) (hst : c.w.portSt p = .connected ∨ c.w.portSt p = .orphaned)
    (hready : ∀ l ∈ lanesOf c.mask, 0 < (c.w.port p).ready l) : c.popOp s p d take = .ok (c.pops s p dn take, .next) := by
  unfold Cx.free at hf
  unfold Cx.uncaptured at hb
  have hall : (lanesOf c.mask).all (fun l => decide (0 < (c.w.port p).ready l)) = true := by simpa using hready
  have hsome : ((lanesOf c.mask).map (fun l => (l, (((c.w.port p).lane l).head?.map (fun v => v.val)).getD 0))).isEmpty = false := by
    simpa using hne
  rcases hst with hst | hst
  all_goals
    simp only [Cx.popOp, Cx.noXp_of_none hx, hr, hf, hb, Cx.no_bad_head hclean, hst, hall, hsome, bind, Except.bind, Bool.false_and,
      Bool.false_eq_true, if_false, if_true]
    rfl

section
variable (hempty : ∃ l ∈ lanesOf c.mask, (c.w.port p).ready l = 0)
include hempty

theorem Cx.popOp_parks (hst : c.w.portSt p = .connected) : c.popOp s p d take = .error (.park .portEmpty s) := by
  unfold Cx.free at hf
  unfold Cx.uncaptured at hb
  simp only [Cx.popOp, Cx.noXp_of_none hx, hr, hf, hb, Cx.no_bad_head hclean, hst, Cx.not_all_ready hempty, bind, Except.bind,
    Bool.false_and, Bool.false_eq_true, if_false]

theorem Cx.popOp_orphaned (hst : c.w.portSt p = .orphaned) : c.popOp s p d take =
    .error (orphaned (c.w.port p) p c (maskOf ((lanesOf c.mask).filter (fun l => (c.w.port p).ready l = 0)))) := by
  unfold Cx.free at hf
  unfold Cx.uncaptured at hb
  simp only [Cx.popOp, Cx.noXp_of_none hx, hr, hf, hb, Cx.no_bad_head hclean, hst, Cx.not_all_ready hempty, bind, Except.bind,
    Bool.false_and, Bool.false_eq_true, if_false]

end
end

theorem Cx.pops_outstanding (hcx : s.cx = some c) : ((c.pops s p d take).warp c.uid).iss.outstanding = c.w.iss.outstanding ++
    [{ id := s.fresh, due := (s.core c.core).cyc + c.clocks 2, names := [.v d c.mask],
       writes := [.v d ((c.w.port p).heads (lanesOf c.mask))], word := s.word }] := by
  rw [Cx.pops, State.result_warp (List.cons_ne_nil _ _), State.modWarp_warp, State.warp_of_cx hcx]
  rfl

theorem Cx.pops_port (hcx : s.cx = some c) (hp : p < c.w.ports.length) :
    ((c.pops s p d take).warp c.uid).port p = (c.w.port p).popped (lanesOf c.mask) take := by
  rw [Cx.pops, State.result_warp (List.cons_ne_nil _ _), State.modWarp_warp, State.warp_of_cx hcx]
  exact Warp.setPort_port hp _

end

theorem Port.popped_lane (x : Port) (m : Lanes) (l : Nat) :
    (x.popped (lanesOf m) true).lane l = if l ∈ lanesOf m then (x.lane l).tail else x.lane l :=
  dequeue_getD _ (lanesOf_nodup m) l

/-- POP and PPEEK end as their common body says. -/
theorem State.popOp_outcomes {s : State} {c : Cx} {o : FPop} {r : Bool → Except Stop (State × Flow)} (hs : s.bare c)
    (h : ∀ take, c.popOp s o.p.toNat o.d.toNat take = r take) :
    execPop o s = s.settle c o.sw (r true) ∧ execPpeek o s = s.settle c o.sw (r false) := by
  simp only [execPop, execPpeek, State.runTarget, hs.1, h, and_self]

theorem gone_of_far {p : Nat} (hp : 2 ≤ p) (w : Warp) (l : Nat) : gone p w l = false := by
  simp [gone, Nat.not_lt.2 hp]

theorem gone_of_lane {p : Nat} (hp : p < 2) (w : Warp) (l : Nat) : gone p w l = !w.live.getLsbD l := by
  simp [gone, hp]

theorem Warp.portSt_of_far {w : Warp} {p : Nat} (hp : 2 ≤ p) : w.portSt p = (w.port p).st := if_neg (Nat.not_lt.2 hp)

/-- Settles O36: a push by the queues of the lanes that receive it, a pop by the heads of the active lanes' own. -/
theorem pushAndPop : Obligations.PushAndPop := by
  intro s c hs hne clean lost
  refine ⟨fun o a v q d s1 hp hrep hr hf hst hpeer hroom hk hq => ?remote, fun o a d s1 hp hr hf hon => ?lane,
    fun o a hr hf hp hst => State.settle_orphaned (execPush_orphaned hs hr hf hp hst),
    fun o a hr hf hst => execPush_unbound hs hr hf hst,
    fun o d hr hf hb hclean hst hp hready => ?served,
    fun o d hr hf hb hclean hempty => ⟨fun hst => ?parks, fun hp hst => ?gone⟩⟩
  case remote =>
    have hlane : ¬ o.p.toNat < 2 := Nat.not_lt.2 hp
    have hto : c.pushTo s o.p.toNat = some (v, (lanesOf c.mask).map (fun i => (i, i))) := by
      simp only [Cx.pushTo, hlane, if_false, hpeer]
    have hexec := execPush_reserves hs hr (by simpa [hlane] using hf) ((Warp.portSt_of_far hp).trans hst) (by simp [hrep]) hto
      (by simpa using hne) (fun x hx _ => ?room) hk
    case room =>
      obtain ⟨l, hl, rfl⟩ := List.mem_map.1 hx
      exact hroom l hl
    obtain ⟨htakes, hleaves⟩ := Cx.pushes_lane (d := d) (f := id) (a := a) (s := s) Function.injective_id hq rfl
    rw [List.map_map] at hexec
    exact ⟨_, hexec, Cx.pushes_bag, fun l hl => htakes l hl (gone_of_far hp ..),
      fun l hl => hleaves l (fun k hk e => absurd (e ▸ hk) hl)⟩
  case lane =>
    intro dest q hroom hk hq
    have hkeys := Cx.consume_warp hs.1 hk
    have hlive : (s1.warp c.uid).live = c.w.live := hkeys ▸ rfl
    have hports : (s1.warp c.uid).ports = c.w.ports := hkeys ▸ rfl
    have hport : (s1.warp c.uid).port q = c.w.port q := congrArg (fun l : List Port => nth l q {}) hports
    have hto : c.pushTo s o.p.toNat = some (c.uid, (lanesOf c.mask).map (fun i => (i, dest i))) := by
      simp only [Cx.pushTo, hp, if_true]
      rfl
    have hexec := execPush_reserves hs hr (by simpa [hp] using hf) (show c.w.portSt _ = _ by simp [Warp.portSt, hp, hon])
      (by simp [Nat.not_le.2 hp]) hto (by simpa using hne) (fun x hx hg => ?room) hk
    case room =>
      obtain ⟨l, hl, rfl⟩ := List.mem_map.1 hx
      rw [State.warp_of_cx hs.1] at hg ⊢
      rw [gone_of_lane hp] at hg
      exact hroom l hl (by simpa using hg)
    obtain ⟨htakes, hleaves⟩ := Cx.pushes_lane (d := d) (f := dest) (a := a) (s := s) (fun _ _ => laneDest_injective)
      (by rw [hports]; exact hq) rfl
    rw [List.map_map] at hexec
    rw [hport] at htakes hleaves
    simp only [gone_of_lane hp, hlive, Bool.not_eq_true', Bool.not_eq_false'] at htakes hleaves
    exact ⟨_, hexec, Cx.pushes_bag, htakes, hleaves⟩
  case served =>
    obtain ⟨hpop, hpeek⟩ := State.popOp_outcomes hs (fun take => Cx.popOp_ok (s := s) (take := take) hs.2 hr hf hb hclean hne hst hready)
    refine ⟨⟨_, hpop, Cx.pops_outstanding hs.1, fun l => ?pop⟩, _, hpeek, Cx.pops_outstanding hs.1, fun l => ?peek⟩
    case pop =>
      rw [Cx.pops_port hs.1 hp]
      exact Port.popped_lane ..
    case peek =>
      rw [Cx.pops_port hs.1 hp]
      rfl
  case parks => exact State.popOp_outcomes hs (fun _ => Cx.popOp_parks hs.2 hr hf hb hclean hempty hst)
  case gone =>
    obtain ⟨hpop, hpeek⟩ :=
      State.popOp_outcomes hs (fun _ => Cx.popOp_orphaned (s := s) hs.2 hr hf hb hclean hempty ((Warp.portSt_of_far hp).trans hst))
    exact ⟨State.settle_orphaned hpop, State.settle_orphaned hpeek⟩

end Sys2Proof.Machine
end

section
/-! SUPPORT. A result that writes M0 (R38, R78): the register reads as all ones whatever is written to it. -/

namespace Sys2Proof.Machine

open Sys2Proof

theorem Warp.mreg_zero (w : Warp) : w.mreg 0 = allLanes w.id.wide := if_pos rfl

/-- A warp off the cores with one answered result, which clears lane 0 of M0. -/
def maskZeroWarp : Warp := { iss := { outstanding := [{ id := 0, writes := [.m 0 1 0], ready := true }] } }

/-- The state after reset with that warp. -/
def maskZeroState : State := { State.reset with warps := [(0, maskZeroWarp)] }

/-- The result returns to `maskZeroState`, and M0 reads as all ones then: lane 0 is not cleared. -/
theorem maskZeroState_returns : ∃ t : State, exec (.registerResultReturn 0 0) maskZeroState = .next t ∧
    (t.warp 0).mreg 0 = 0xFFFFFFFF ∧ (t.warp 0).iss.outstanding = [] := by
  exact ⟨_, rfl, (Warp.mreg_zero _).trans rfl, rfl⟩

/-- Refutes O46: the clause on mask registers takes in n = 0, and a result that writes M0 does not change what M0 reads as. -/
theorem not_returnEvents : ¬ Obligations.ReturnEvents := by
  intro h
  obtain ⟨hresult, -⟩ := h maskZeroState 0 maskZeroWarp rfl
  obtain ⟨hplain, -⟩ := hresult 0 _ rfl rfl
  obtain ⟨-, hmask⟩ := hplain rfl rfl
  obtain ⟨t, ht, -, -, hunraced, -⟩ := hmask 0 1 0 rfl (by decide)
  obtain ⟨t', ht', hall, -⟩ := maskZeroState_returns
  have htt : t = t' := Host.Outcome.next.inj (ht.symm.trans ht')
  have hcleared : (t.warp 0).mreg 0 = 0xFFFFFFFE := (hunraced rfl).1
  rw [htt, hall] at hcleared
  exact absurd hcleared (by decide)

end Sys2Proof.Machine
end

section
/-! SUPPORT. Host queues and their packets (R350 to R353). -/

namespace Sys2Proof.Machine

open Sys2Proof

@[simp] theorem State.modQueue_queue (s : State) (q : Nat) (f : Queue → Queue) : (s.modQueue q f).queue q = f (s.queue q) :=
  KMap.getD_set_self ..

/-! The doorbell (R350). -/

section
variable {s : State} {q : Nat} {x : Queue} {tail : Word} (hq : s.queues.get? q = some x)
include hq

theorem execDoorbell_moves (hroom : (tail - x.head).toNat ≤ 2 ^ x.log) (hlive : x.live = true) :
    execDoorbell q tail s = .next (s.modQueue q (fun x => { x with tail := tail })) := by
  have hover : ({ x with tail := tail } : Queue).overrun = false := decide_eq_false (Nat.not_lt.2 hroom)
  simp only [execDoorbell, hq, hlive, hover, Bool.not_true, Bool.false_eq_true, if_false]
  rfl

theorem execDoorbell_wakes (hlive : x.live = false) :
    execDoorbell q tail s = .next ((s.modQueue q (fun x => { x with tail := tail })).nextPacket q) := by
  simp only [execDoorbell, hq, hlive, Bool.not_false, if_true]
  rfl

/-- An overrun doorbell stops its queue, whether the queue had a packet or has one now. -/
theorem execDoorbell_overruns (hover : 2 ^ x.log < (tail - x.head).toNat)
    (hlive : ((s.modQueue q (fun x => { x with tail := tail })).queue q).live = true) :
    execDoorbell q tail s = .next ((s.modQueue q (fun x => { x with tail := tail })).queueError q) := by
  have hover : ({ x with tail := tail } : Queue).overrun = true := decide_eq_true hover
  cases hold : x.live
  · have hx : (s.modQueue q (fun x => { x with tail := tail })).queue q = { x with tail := tail } := by
      rw [State.modQueue_queue, State.queue, KMap.getD_of_get? hq]
    rw [execDoorbell_wakes hq hold, State.nextPacket]
    rw [hx] at hlive ⊢
    simp only [hlive, hover, Bool.not_true, Bool.false_eq_true, if_false, if_true]
  · simp only [execDoorbell, hq, hold, hover, Bool.not_true, Bool.false_eq_true, if_false, if_true]
    rfl

end

/-! A packet in its turn (R352). -/

/-- The queue has a packet of words `l` to take, its context runs, and no other queue goes first (R352, R423). -/
structure State.PacketReady (s : State) (q : Nat) (l : List Word) : Prop where
  live : (s.queue q).live = true
  runs : s.queueRuns q = true
  first : s.yields q = false
  steady : s.switching 0 0 = false
  packet : s.packet q = .ok l

section
variable {s : State} {q : Nat} {l : List Word} {again : Ev} {f : Packet → State} (h : s.PacketReady q l)
include h

theorem State.look_of_packet {p : Packet} (hp : packetOf l = some p) : s.look q again f = f p := by
  simp only [State.look, h.live, h.runs, h.steady, h.packet, hp, Bool.not_true, Bool.or_self, Bool.false_eq_true, if_false]

theorem State.look_of_malformed (hp : packetOf l = none) : s.look q again f = s.queueError q := by
  simp only [State.look, h.live, h.runs, h.steady, h.packet, hp, Bool.not_true, Bool.or_self, Bool.false_eq_true, if_false]

theorem State.turn_of_packet {p : Packet} (hp : packetOf l = some p) : s.turn q again f = f p := by
  rw [State.turn, State.look_of_packet h hp]
  simp only [h.first, Bool.false_eq_true, if_false]

theorem State.turn_of_malformed (hp : packetOf l = none) : s.turn q again f = s.queueError q := by
  rw [State.turn, State.look_of_malformed h hp]

end

section
variable {s : State} {q : Nat} {l : List Word}

theorem execPacketNop_takes (h : (s.packetSeen q).PacketReady q l) (hp : packetOf l = some .nop) :
    execPacketNop q s = .next ((s.packetSeen q).taken1 q) := by
  simp only [execPacketNop, State.turn_of_packet h hp]
  rfl

theorem execPacketNop_stops (h : (s.packetSeen q).PacketReady q l) (hp : packetOf l = none) :
    execPacketNop q s = .next ((s.packetSeen q).queueError q) := by
  simp only [execPacketNop, State.turn_of_malformed h hp]
  rfl

section
variable {after : Bool} {d : List Word} (h : (s.packetSeen q).PacketReady q l) (hp : packetOf l = some (.launch after d))
include h hp

theorem execPacketLaunch_waits (ht : (s.packetSeen q).takeable q = false) :
    execPacketLaunch q s = .next ((s.packetSeen q).post (.packetLaunch q)) := by
  simp only [execPacketLaunch, State.turn_of_packet h hp, ht, Bool.not_false, if_true]
  rfl

section
variable (ht : (s.packetSeen q).takeable q = true)
include ht

theorem execPacketLaunch_accepts
    (hr : (s.packetSeen q).refusal ((s.packetSeen q).queue q).ctx { words := d, queue := some q } = none) :
    execPacketLaunch q s = .next (((s.packetSeen q).accept ((s.packetSeen q).queue q).ctx ((s.packetSeen q).choose 9400 4)
      { words := d, queue := some q } ((s.packetSeen q).queue q).level).2.taken1 q) := by
  simp only [execPacketLaunch, State.turn_of_packet h hp, ht, hr, Bool.not_true, Bool.false_eq_true, if_false]
  rfl

theorem execPacketLaunch_refuses {k : Nat}
    (hr : (s.packetSeen q).refusal ((s.packetSeen q).queue q).ctx { words := d, queue := some q } = some k) :
    execPacketLaunch q s = .next (((s.packetSeen q).refuseWord ((s.packetSeen q).queue q).ctx ((s.packetSeen q).choose 9400 4)
      { words := d, queue := some q } k).taken1 q) := by
  simp only [execPacketLaunch, State.turn_of_packet h hp, ht, hr, Bool.not_true, Bool.false_eq_true, if_false]
  rfl

end

end

/-! WAITMEM (R353). -/

section
variable {a : Addr} {v m : Word} {k : Nat} (h : s.PacketReady q l) (hp : packetOf l = some (.waitmem a v m k))
include h hp

theorem State.testMem_met (hm : (s.queue q).met = true) : s.testMem q = s.taken1 q := by
  rw [State.testMem, State.look_of_packet h hp]
  simp only [hm, h.first, Bool.false_eq_true, if_false, if_true]

section
variable (hm : (s.queue q).met = false)
include hm

theorem State.testMem_holds {w : List Word} (hr : s.distRead q (s.queue q).ctx a 1 = .ok w) (hw : waitmet (nth w 0 0) v m k = true) :
    s.testMem q = (((s.distSeen (s.queue q).ctx a 1).dropFars (.queue q)).modQueue q (fun x => { x with met := true })).post
      (.packetWaitmem q) := by
  rw [State.testMem, State.look_of_packet h hp]
  simp only [hm, hr, hw, Bool.false_eq_true, if_false, if_true]

theorem State.testMem_fails {w : List Word} (hr : s.distRead q (s.queue q).ctx a 1 = .ok w) (hw : waitmet (nth w 0 0) v m k = false) :
    s.testMem q = (((s.distSeen (s.queue q).ctx a 1).dropFars (.queue q)).modQueue q (fun x => { x with
      testAt := (s.die 0).mesh })).post (.waitmemRetest q) := by
  rw [State.testMem, State.look_of_packet h hp]
  simp only [hm, hr, hw, Bool.false_eq_true, if_false]

theorem State.testMem_malformed (hr : s.distRead q (s.queue q).ctx a 1 = .bad) : s.testMem q = s.queueError q := by
  rw [State.testMem, State.look_of_packet h hp]
  simp only [hm, hr, Bool.false_eq_true, if_false]

theorem State.testMem_awaits (hr : s.distRead q (s.queue q).ctx a 1 = .page) :
    s.testMem q = (s.distWait q (s.queue q).ctx a 1 .page).post (.packetWaitmem q) := by
  rw [State.testMem, State.look_of_packet h hp]
  simp only [hm, hr, Bool.false_eq_true, if_false]

end

end

end

end Sys2Proof.Machine
end

section
/-! SUPPORT. Grids, teams and warps at the launch engine (R71, R357 to R361). -/

namespace Sys2Proof.Machine

open Sys2Proof

/-- The state with an event set going when a test says so. -/
def State.postWhen (s : State) (b : Bool) (e : Ev) : State := if b then s.post e else s

@[simp] theorem State.postWhen_warps (s : State) (b : Bool) (e : Ev) : (s.postWhen b e).warps = s.warps := by
  unfold State.postWhen; split <;> rfl
@[simp] theorem State.postWhen_teams (s : State) (b : Bool) (e : Ev) : (s.postWhen b e).teams = s.teams := by
  unfold State.postWhen; split <;> rfl
@[simp] theorem State.postWhen_grids (s : State) (b : Bool) (e : Ev) : (s.postWhen b e).grids = s.grids := by
  unfold State.postWhen; split <;> rfl
@[simp] theorem State.postWhen_mem (s : State) (b : Bool) (e : Ev) : (s.postWhen b e).mem = s.mem := by
  unfold State.postWhen; split <;> rfl
@[simp] theorem State.postWhen_ctxs (s : State) (b : Bool) (e : Ev) : (s.postWhen b e).ctxs = s.ctxs := by
  unfold State.postWhen; split <;> rfl

/-! Grids (R357 to R359). -/

section
variable {s : State} {ctx g : Nat} {x : Grid} (hg : s.grids.get? (gridKey ctx g) = some x) (hx : x.retired = false)
include hg hx

section
variable (hleft : x.placed < x.teams) (hrun : (s.ctx ctx).run = .running)
include hleft hrun

/-- A grid that fits nowhere, with no context to pre-empt for it, is tried again. -/
theorem execTeamPlace_waits (hnone : s.placeNext ctx g = none) (hvictim : s.victim ctx x.prio = none) :
    execTeamPlace ctx g s = .next (s.post (.teamPlace ctx g)) := by
  simp only [execTeamPlace, hg, hx, hrun, hnone, hvictim, decide_eq_false (Nat.not_le.2 hleft), Bool.or_self, Bool.false_eq_true, if_false,
    bne_self_eq_false]
  rfl

/-- Placing teams adds to what the placement leaves the context's times and events alone. -/
theorem execTeamPlace_places {t : State} (hsome : s.placeNext ctx g = some t) : ∃ q : State, execTeamPlace ctx g s = .next q ∧
    q.warps = t.warps ∧ q.teams = t.teams ∧ q.grids = t.grids ∧ q.mem = t.mem := by
  simp only [execTeamPlace, hg, hx, hrun, hsome, decide_eq_false (Nat.not_le.2 hleft), Bool.or_self, Bool.false_eq_true, if_false,
    bne_self_eq_false]
  exact ⟨((t.modCtx ctx _).postWhen _ (.timeSliceExpiry ctx)).postWhen _ (.teamPlace ctx g), rfl, by simp, by simp, by simp, by simp⟩

end

section
variable (hsmall : g < 2 ^ 24) (hdone : s.gridDone ctx g = true) (hall : x.exited = x.teams)
include hsmall hdone hall

theorem execGridRetire_silent (hword : x.desc.completion = 0) : execGridRetire ctx g s = .next (s.retireGrid ctx g) := by
  simp only [execGridRetire, Nat.not_le.2 hsmall, hg, hx, hdone, hall, hword, bne_self_eq_false, Bool.not_true, Bool.false_eq_true,
    if_false, if_true]
  rfl

theorem execGridRetire_completes {t : State} (hword : x.desc.completion ≠ 0)
    (hc : s.complete ctx x.die g x.desc.completion (statusWord true false 0 g) = some t) :
    execGridRetire ctx g s = .next (t.retireGrid ctx g) := by
  simp only [execGridRetire, Nat.not_le.2 hsmall, hg, hx, hdone, hall, hword, hc, bne_self_eq_false, Bool.not_true, Bool.false_eq_true,
    if_false]
  rfl

end

end

/-! Warps (R71). -/

theorem State.exitTeam_warps (s : State) (t core : Nat) : (s.exitTeam t core).warps = s.warps := by
  have hring (b : Bool) (ctx baseOfs logShift seqOfs : Nat) (rec : List Word) :
      (if b then s.ring ctx baseOfs logShift seqOfs rec else s).warps = s.warps := by
    split
    · exact (State.observes_ring ..).warps
    · rfl
  have hseg (s : State) (b : Bool) (ctx : Nat) : (if b then s.endSeg core ctx 0 else s).warps = s.warps := by
    split
    · exact (State.observes_endSeg ..).warps
    · rfl
  exact (hseg ..).trans ((State.observes_trace ..).warps.trans (hring ..))

section
variable {s : State} {u : Nat} {w : Warp} (hw : s.warps.get? u = some w) (hret : w.retired = false) (hlive : w.live = 0)
include hw hret hlive

theorem execWarpRetire_waits (hwait : (s.exitWait u).isSome = true) : execWarpRetire u s = .next (s.post (.warpRetire u)) := by
  simp only [execWarpRetire, hw, hret, hlive, hwait, bne_self_eq_false, Bool.or_self, Bool.or_true, Bool.false_eq_true, if_false, if_true]
  rfl

/-- A warp whose lanes have all exited retires once it waits for nothing. -/
theorem execWarpRetire_retires (hplace : w.id.place.isSome = true) (hwait : s.exitWait u = none) :
    ∃ t : State, execWarpRetire u s = .next t ∧ (t.warp u).retired = true := by
  have hplace : w.id.place.isNone = false := by simpa using hplace
  simp only [execWarpRetire, hw, hret, hlive, hplace, hwait, Option.isSome_none, bne_self_eq_false, Bool.or_self, Bool.false_eq_true, if_false]
  generalize hs2 : State.modWarp _ u _ = s2
  have hs2 : (s2.warp u).retired = true := by rw [← hs2, State.modWarp_warp]
  split
  · refine ⟨_, rfl, ?_⟩
    have hwarps := State.exitTeam_warps (s2.modTeam w.id.team (fun t => { t with
        exited := addNew t.exited [w.id.w]
        groups := t.groups + w.iss.groups
        counters := (t.counters.zip w.iss.counters).map (fun p => (p.1 + p.2) % 2 ^ 64) })) w.id.team w.core
    unfold State.warp
    rw [hwarps]
    exact hs2
  · exact ⟨_, rfl, hs2⟩

end

end Sys2Proof.Machine
end

section
/-! SUPPORT. Pre-emption, saves and restores of contexts (R361 to R364). -/

namespace Sys2Proof.Machine

open Sys2Proof

section
variable {s : State} {ctx : Nat} {c : Ctx} (hc : s.ctxs.get? ctx = some c)
include hc

theorem State.ctx_of_get? : s.ctx ctx = c := KMap.getD_of_get? hc

theorem execPreemptRequest_halts (hrun : c.run = .running) (hterm : c.terminated = false) (hrep : s.replaying ctx = false) :
    execPreemptRequest ctx s = .next ((s.modCtx ctx (fun c => { c with run := .halting })).post (.contextSave ctx)) := by
  simp only [execPreemptRequest, State.preempt, hc, State.ctx_of_get? hc, hrun, hterm, hrep, Option.isNone_some, bne_self_eq_false,
    Bool.or_self, Bool.false_eq_true, if_false]
  rfl

theorem execContextSave_waits (hrun : c.run = .halting) (hh : s.halted ctx = false) :
    execContextSave ctx s = .next (s.post (.contextSave ctx)) := by
  simp only [execContextSave, hc, hrun, hh, bne_self_eq_false, Bool.not_false, Bool.false_eq_true, if_false, if_true]
  rfl

theorem execContextRestore_waits (hrun : c.run = .saved) (hterm : c.terminated = false) (hmap : s.restoreMap ctx = none)
    (hv : s.victim ctx (s.ctxPrio ctx) = none) : execContextRestore ctx s = .next (s.post (.contextRestore ctx)) := by
  simp only [execContextRestore, hc, hrun, hterm, hmap, hv, bne_self_eq_false, Bool.or_self, Bool.false_eq_true, if_false]
  split <;> rfl

end

theorem execTimeSliceExpiry_of_due {s : State} {ctx due : Nat} (hd : s.sliceDue ctx = some due) : execTimeSliceExpiry ctx s =
    .next (if (s.reachMesh 0 due).ctxs.any (fun kv => kv.1 != ctx && (s.reachMesh 0 due).waiting kv.1 &&
        (s.reachMesh 0 due).ctxPrio kv.1 == (s.reachMesh 0 due).ctxPrio ctx) then (s.reachMesh 0 due).preempt ctx
      else (s.reachMesh 0 due).post (.timeSliceExpiry ctx)) := by
  simp only [execTimeSliceExpiry, hd]
  split <;> rfl

/-! What keeps a context in the table. -/

/-- The context is in the table. -/
def State.hasCtx (s : State) (ctx : Nat) : Prop := (s.ctxs.get? ctx).isSome = true

theorem State.hasCtx_of_eq {s t : State} {ctx : Nat} (h : s.hasCtx ctx) (he : t.ctxs = s.ctxs) : t.hasCtx ctx := by
  unfold State.hasCtx
  rw [he]
  exact h

theorem State.hasCtx_modCtx {s : State} {ctx : Nat} (h : s.hasCtx ctx) (x : Nat) (f : Ctx → Ctx) : (s.modCtx x f).hasCtx ctx := by
  unfold State.hasCtx State.modCtx
  by_cases hx : ctx = x
  · subst hx
    obtain ⟨c, hc⟩ := Option.isSome_iff_exists.1 h
    rw [KMap.get?_modify_self hc]
    rfl
  · dsimp only
    rwa [KMap.get?_modify_ne _ _ hx]

theorem State.hasCtx_foldl {α : Type} {ctx : Nat} {f : State → α → State} (hf : ∀ s x, s.hasCtx ctx → (f s x).hasCtx ctx) (l : List α)
    {s : State} (h : s.hasCtx ctx) : (l.foldl f s).hasCtx ctx := by
  induction l generalizing s with
  | nil => exact h
  | cons x t ih => exact ih (hf s x h)

section
variable {s : State} {ctx : Nat} (h : s.hasCtx ctx)
include h

theorem State.hasCtx_resumeWatch (x : Nat) : (s.resumeWatch x).hasCtx ctx := by
  unfold State.resumeWatch
  split
  · exact h
  · exact State.hasCtx_modCtx (State.hasCtx_of_eq h rfl) ..

theorem State.hasCtx_decided (cores : List Nat) : (s.decided cores).hasCtx ctx := by
  unfold State.decided
  refine State.hasCtx_foldl ?_ _ ?_
  · intro s x h
    exact State.hasCtx_of_eq h rfl
  · exact State.hasCtx_of_eq h rfl

theorem State.hasCtx_moveMasks (x : Nat) (m : List (Nat × Nat)) : (s.moveMasks x m).hasCtx ctx := State.hasCtx_modCtx h ..

theorem State.hasCtx_firstOn (x core : Nat) : (s.firstOn x core).hasCtx ctx := by
  unfold State.firstOn
  split
  · exact h
  · exact State.hasCtx_modCtx (State.hasCtx_of_eq h rfl) ..

theorem State.hasCtx_putCore (x old new : Nat) : (s.putCore x old new).hasCtx ctx := by
  unfold State.putCore
  split
  · exact State.hasCtx_firstOn h ..
  · exact State.hasCtx_modCtx (State.hasCtx_of_eq h rfl) ..

theorem State.hasCtx_putTeam (tid core : Nat) : (s.putTeam tid core).hasCtx ctx := by
  unfold State.putTeam
  dsimp only
  split
  · exact h
  · refine State.hasCtx_of_eq ?_ ((State.observes_openSeg ..).trans (State.observes_startSampling ..)).ctxs
    exact State.hasCtx_of_eq (State.hasCtx_of_eq h rfl) (State.observes_trace ..).ctxs

theorem State.hasCtx_moveTensors (x : Nat) (m : List (Nat × Nat)) : (s.moveTensors x m).hasCtx ctx := by
  unfold State.moveTensors
  refine State.hasCtx_foldl ?_ _ ?_
  · intro s x h
    exact State.hasCtx_of_eq h rfl
  · exact State.hasCtx_of_eq h rfl

theorem State.hasCtx_moveWork (x : Nat) (m : List (Nat × Nat)) : (s.moveWork x m).hasCtx ctx := State.hasCtx_of_eq h rfl

end

/-! Saves (R362, R363). -/

theorem KMap.of_mem_mapv {α β : Type} {m : KMap α} {f : Nat → α → β} {k : Nat} {y : β} (h : (k, y) ∈ m.mapv f) :
    ∃ x, (k, x) ∈ m ∧ f k x = y := by
  obtain ⟨⟨i, x⟩, hx, he⟩ := List.mem_map.1 h
  cases he
  exact ⟨x, hx, rfl⟩

/-- The state once a context is saved, with its trace record and its restore set going. -/
def State.savedAs (s : State) (ctx : Nat) (saves : List CoreSave) (clk : Nat) : State :=
  ((s.modCtx ctx (fun c => { c with run := .saved, saves := saves, cores := [] })).trace ctx 5 0 0 0 0 0 clk).post (.contextRestore ctx)

theorem State.savedAs_leaves {s : State} {ctx clk : Nat} {saves : List CoreSave} (h : s.hasCtx ctx)
    (hoff : ∀ u w, (u, w) ∈ s.warps → w.id.ctx = ctx → w.retired = false → w.id.place = none) :
    ((s.savedAs ctx saves clk).ctx ctx).run = .saved ∧ ((s.savedAs ctx saves clk).ctx ctx).cores = [] ∧
      ((s.savedAs ctx saves clk).ctx ctx).saves = saves ∧
      ∀ u w, (u, w) ∈ (s.savedAs ctx saves clk).warps → w.id.ctx = ctx → w.retired = false → w.id.place = none := by
  have hctx : (s.savedAs ctx saves clk).ctx ctx = { s.ctx ctx with run := .saved, saves := saves, cores := [] } :=
    (congrArg (fun m : KMap Ctx => m.getD ctx {}) (State.observes_trace ..).ctxs).trans (State.modCtx_ctx h _)
  have hwarps : (s.savedAs ctx saves clk).warps = s.warps := (State.observes_trace ..).warps
  rw [hctx, hwarps]
  exact ⟨rfl, rfl, rfl, hoff⟩

/-- When the warps of a context with places are replaced by one without, none of the context keeps its place. -/
theorem Warp.place_of_left {ctx : Nat} {v x : Warp} (hx : x.id.place = none)
    (hctx : (if v.id.ctx == ctx && v.here then x else v).id.ctx = ctx)
    (hret : (if v.id.ctx == ctx && v.here then x else v).retired = false) :
    (if v.id.ctx == ctx && v.here then x else v).id.place = none := by
  by_cases hin : (v.id.ctx == ctx && v.here) = true
  · rwa [if_pos hin]
  · rw [if_neg hin] at hctx hret ⊢
    simpa [Warp.here, hctx, hret] using hin

/-- The warps of a context that is saved leave their places, and the save has what each of its cores held. -/
theorem execContextSave_saves {s : State} {ctx : Nat} {c : Ctx} (hc : s.ctxs.get? ctx = some c) (hrun : c.run = .halting)
    (hh : s.halted ctx = true) : ∃ t : State, execContextSave ctx s = .next t ∧ (t.ctx ctx).run = .saved ∧
      (t.ctx ctx).cores = [] ∧ (t.ctx ctx).saves = c.cores.map (s.coreSave ctx) ∧
      ∀ u w, (u, w) ∈ t.warps → w.id.ctx = ctx → w.retired = false → w.id.place = none := by
  have hhas : (((s.endSegs ctx).freezeWatch ctx).wrWords c.d.saveBase (s.saveImage ctx)).hasCtx ctx := by
    refine State.hasCtx_of_eq ?_ (State.observes_wrWords ..).ctxs
    refine State.hasCtx_of_eq (State.hasCtx_resumeWatch ?_ ctx) rfl
    exact State.hasCtx_of_eq (Option.isSome_of_eq_some hc) (State.observes_endSegs ..).ctxs
  simp only [execContextSave, hc, hrun, hh, bne_self_eq_false, Bool.not_true, Bool.false_eq_true, if_false]
  generalize ((s.endSegs ctx).freezeWatch ctx).wrWords c.d.saveBase (s.saveImage ctx) = s1 at hhas ⊢
  refine ⟨State.savedAs _ ctx _ _, rfl, State.savedAs_leaves (State.hasCtx_of_eq hhas rfl) fun u w hm hctx hret => ?_⟩
  dsimp only at hm
  obtain ⟨v, -, hv⟩ := KMap.of_mem_mapv hm
  subst hv
  exact Warp.place_of_left rfl hctx hret

/-! Restores (R364). -/

theorem State.pauseWatch_ctx {s : State} {ctx : Nat} (h : s.hasCtx ctx) :
    ((s.pauseWatch ctx).ctx ctx).run = (s.ctx ctx).run ∧ ((s.pauseWatch ctx).ctx ctx).saves = (s.ctx ctx).saves := by
  unfold State.pauseWatch
  split
  · exact ⟨rfl, rfl⟩
  · rw [State.modCtx_ctx h]
    exact ⟨rfl, rfl⟩

theorem State.thawWatch_ctx {s : State} {ctx : Nat} (h : s.hasCtx ctx) :
    ((s.thawWatch ctx).ctx ctx).run = (s.ctx ctx).run ∧ ((s.thawWatch ctx).ctx ctx).saves = (s.ctx ctx).saves := by
  unfold State.thawWatch
  dsimp only
  split
  · exact State.pauseWatch_ctx (State.hasCtx_of_eq h rfl)
  · exact ⟨rfl, rfl⟩

/-- A context that a restore marks as running is so once its watches go on and its slice is timed. -/
theorem State.restored_runs {s : State} {ctx : Nat} {f : Ctx → Ctx} {b : Bool} {e : Ev} (h : s.hasCtx ctx)
    (hrun : (f (s.ctx ctx)).run = .running) (hsaves : (f (s.ctx ctx)).saves = []) :
    ((((s.modCtx ctx f).thawWatch ctx).postWhen b e).ctx ctx).run = .running ∧
      ((((s.modCtx ctx f).thawWatch ctx).postWhen b e).ctx ctx).saves = [] := by
  have hctx : (((s.modCtx ctx f).thawWatch ctx).postWhen b e).ctx ctx = ((s.modCtx ctx f).thawWatch ctx).ctx ctx :=
    congrArg (fun m : KMap Ctx => m.getD ctx {}) (State.postWhen_ctxs ..)
  obtain ⟨hr, hs⟩ := State.thawWatch_ctx (State.hasCtx_modCtx h ctx f)
  rw [hctx, hr, hs, State.modCtx_ctx h]
  exact ⟨hrun, hsaves⟩

theorem execContextRestore_restores {s : State} {ctx : Nat} {c : Ctx} {m : List (Nat × Nat)} (hc : s.ctxs.get? ctx = some c)
    (hrun : c.run = .saved) (hterm : c.terminated = false) (hb : s.betterWaits ctx = false) (hbag : s.bag = [])
    (hmap : s.restoreMap ctx = some m) :
    ∃ t : State, execContextRestore ctx s = .next t ∧ (t.ctx ctx).run = .running ∧ (t.ctx ctx).saves = [] := by
  have hhas : s.hasCtx ctx := Option.isSome_of_eq_some hc
  simp only [execContextRestore, hc, hrun, hterm, hb, hbag, hmap, bne_self_eq_false, Bool.or_self, Bool.false_eq_true, if_false,
    List.contains_nil, List.any_nil]
  refine ⟨State.postWhen (State.thawWatch (State.modCtx _ ctx _) ctx) _ (.timeSliceExpiry ctx), rfl, State.restored_runs ?_ rfl rfl⟩
  refine State.hasCtx_moveTensors (State.hasCtx_moveWork (State.hasCtx_foldl ?_ _ (State.hasCtx_foldl ?_ _ ?_)) ..) ..
  · exact fun s p h => State.hasCtx_putTeam h ..
  · exact fun s p h => State.hasCtx_putCore h ..
  · exact State.hasCtx_moveMasks (State.hasCtx_decided hhas _) ..

end Sys2Proof.Machine
end

section
/-! O57 (R71, R350 to R353, R356 to R364). -/

namespace Sys2Proof.Machine

open Sys2Proof

/-- A THOT from 60 to 125 is kept with the register's bits 19:0 (R353, log 29). -/
theorem execPlacementRegisterWrite_keeps {s : State} {die : Nat} {v : Word} (hlow : 60 ≤ v.toNat % 256) (hhigh : v.toNat % 256 ≤ 125) :
    execPlacementRegisterWrite die v s = .next (s.modDie die (fun d => { d with placement := v &&& 0xFFFFF })) := by
  simp only [execPlacementRegisterWrite, decide_eq_false (Nat.not_lt.2 hlow), decide_eq_false (Nat.not_lt.2 hhigh), Bool.or_self,
    Bool.false_eq_true, if_false]
  rfl

/-- Another THOT leaves the register as it was. -/
theorem execPlacementRegisterWrite_ignores {s : State} {die : Nat} {v : Word} (hout : v.toNat % 256 < 60 ∨ 125 < v.toNat % 256) :
    execPlacementRegisterWrite die v s = .next s := by
  have htest : (decide (v.toNat % 256 < 60) || decide (125 < v.toNat % 256)) = true := by simpa using hout
  simp only [execPlacementRegisterWrite, htest, if_true]
  rfl

/-- Settles O57: each event of the launch engine is its function of the model, whose branches the lemmas above name. -/
theorem launchEvents : Obligations.LaunchEvents := by
  unfold Obligations.LaunchEvents
  intro s
  refine ⟨?doorbell, ?packets, ?grids, ?warps, ?contexts, ?placed, ?ignored, fun _ => rfl⟩
  case doorbell =>
    intro q x tail hq
    exact ⟨execDoorbell_moves hq, execDoorbell_wakes hq, execDoorbell_overruns hq⟩
  case packets =>
    intro q l ready p
    have hready {x : State} (h : ready x l) : x.PacketReady q l := by
      obtain ⟨hlive, hruns, hfirst, hsteady, hpacket⟩ := h
      exact ⟨hlive, hruns, hfirst, hsteady, hpacket⟩
    refine ⟨fun h => ⟨execPacketNop_takes (hready h), execPacketNop_stops (hready h), ?_⟩, ?_⟩
    · intro after d hp
      exact ⟨fun ht => ⟨execPacketLaunch_accepts (hready h) hp ht, fun _ => execPacketLaunch_refuses (hready h) hp ht⟩,
        execPacketLaunch_waits (hready h) hp⟩
    · intro a v m k hp test
      have htest (x : State) (gives : State → Prop) (hg : gives (x.testMem q)) : test x gives := by
        intro h read t
        refine ⟨fun hm => State.testMem_met (hready h) hp hm ▸ hg, fun hm => ⟨fun w hr hw => ?_, fun w hr hw => ?_, fun hr => ?_,
          fun hr => ?_⟩⟩
        · exact State.testMem_holds (hready h) hp hm hr hw ▸ hg
        · exact State.testMem_fails (hready h) hp hm hr hw ▸ hg
        · exact State.testMem_malformed (hready h) hp hm hr ▸ hg
        · exact State.testMem_awaits (hready h) hp hm hr ▸ hg
      exact ⟨htest p (fun t => exec (.packetWaitmem q) s = .next t) rfl, htest s (fun t => exec (.waitmemRetest q) s = .next t) rfl⟩
  case grids =>
    intro ctx g x hg hsmall hx
    exact ⟨execTeamPlace_waits hg hx, fun t hl hr => execTeamPlace_places hg hx hl hr,
      fun hd ha => ⟨execGridRetire_silent hg hx hsmall hd ha, fun _ => execGridRetire_completes hg hx hsmall hd ha⟩⟩
  case warps =>
    intro u w hw hret hlive
    exact ⟨execWarpRetire_retires hw hret hlive, execWarpRetire_waits hw hret hlive⟩
  case contexts =>
    intro ctx c hc
    exact ⟨execPreemptRequest_halts hc, fun due => execTimeSliceExpiry_of_due, execContextSave_waits hc, execContextSave_saves hc,
      execContextRestore_waits hc, fun m => execContextRestore_restores hc⟩
  case placed => exact fun _ _ => execPlacementRegisterWrite_keeps
  case ignored => exact fun _ _ => execPlacementRegisterWrite_ignores

end Sys2Proof.Machine
end

section
/-! SUPPORT. Vector words whose lanes read B of other lanes, or the magnitude table, and words whose lanes see one another (R130, R138,
R154, R163). -/

namespace Sys2Proof.Machine

open Sys2Proof

/-- A word whose lanes read B of other lanes, or the magnitude table, follows its rule. -/
theorem vecRule_of_bop {i : Instr} {sw : Bool} {v : VOp} {f : State → FEnv → (Nat → Word) → (Nat → Word) → LaneIn → LaneOut}
    (hi : ∀ s, exec i s = s.runTarget sw (fun c t => c.bop t v (f s))) :
    VecRule i sw v (fun c s p x => f s p.env (fun l => c.readV s p.b l) (c.magEntry s) x) := by
  intro s c p hcx hv _
  rw [hi]
  exact State.runTarget_ok hcx (Cx.bop_ok (f := f s) hv)

/-- A word whose lanes see one another follows its rule. -/
theorem laneRule_of_xop {i : Instr} {sw : Bool} {v : VOp} {reads : Nat → Lanes → List LaneIn → Lanes}
    {f : FEnv → Nat → Lanes → (Nat → Word) → LaneIn → LaneOut}
    (hi : ∀ s, exec i s = s.runTarget sw (fun c s => c.xop s v reads f)) : LaneRule i sw v reads f := by
  intro s c p hcx hv hr
  rw [hi]
  exact State.runTarget_ok hcx (Cx.xop_ok rfl hv hr)

end Sys2Proof.Machine
end

section
/-! SUPPORT. The floating words (R146). -/

namespace Sys2Proof.Machine

open Sys2Proof

theorem fSub_sumOf {f : Fmt} {env : FEnv} {rng : Word} {a b : Nat} (h2 : f ≠ .e2m1) (h1 : 1 ≤ env.mode) (h6 : env.mode ≤ 6) :
    SumOf f env rng [(f, ftziBits f env a), (f, ftziBits f env b)] false
      [unpack f (ftziBits f env a), negV (unpack f (ftziBits f env b))] (fSub f env rng a b) := sumRes_sumOf h2 h1 h6

theorem floatRule_of_vf {i : Instr} {o : FDab} {rnd c sat : Bool} {lat : Nat} {f : FEnv → LaneIn → FRes}
    (hi : ∀ s, exec i s = s.vf o rnd c sat lat f) : FloatRule i o rnd c sat lat f := vecRule_of_vop (f := fun e x => fone (f e x)) hi

theorem floatRuleS_of_vfS {i : Instr} {o : FDab} {rnd c sat : Bool} {f : FEnv → LaneIn → FRes}
    (hi : ∀ s, exec i s = s.vfS o rnd c sat f) : FloatRuleS i o rnd c sat f := vecRule_of_vop (f := fun e x => fone (f e x)) hi

theorem floatRule1_of_vf1 {i : Instr} {o : FDa} {rnd : Bool} {lat : Nat} {f : FEnv → LaneIn → FRes}
    (hi : ∀ s, exec i s = s.vf1 o rnd lat f) : FloatRule1 i o rnd lat f := vecRule_of_vop (f := fun e x => fone (f e x)) hi

/-- Clearing the sign bit is taking the low 31 bits. -/
theorem toNat_clear_sign (a : Word) : (a &&& 0x7FFFFFFF#32).toNat = a.toNat % 2 ^ 31 :=
  (BitVec.toNat_and a _).trans (Nat.and_two_pow_sub_one_eq_mod a.toNat 31)

theorem exec_fabs (o : FDa) (s : State) :
    exec (.fabs o) s = s.vf1 o false 6 (fun _ x => { v := (x.a0 &&& 0x7FFFFFFF#32).toNat, rng := x.rng }) := by
  simp only [toNat_clear_sign]
  rfl

/-- Settles O19: sums and products are sums of exact terms rounded once, and every word is its form of vector word. -/
theorem floatWords : Obligations.FloatWords := by
  refine ⟨fun f env rng a b c h2 h1 h6 => ⟨fAdd_sumOf h2 h1 h6, fSub_sumOf h2 h1 h6, fMul_sumOf h2 h1 h6, fFma_sumOf h2 h1 h6⟩,
    fun o => ⟨?fadd, ?fsub, ?fmul, ?ffma, ?fmin, ?fmax, ?fminm, ?fmaxm, ?fdiv, ?faddS, ?fsubS, ?fmulS, ?ffmaS, ?fminS, ?fmaxS, ?fminmS,
      ?fmaxmS⟩,
    fun o => ⟨floatRule1_of_vf1 (exec_fabs o), ?fneg, ?fsqrt, ?frcp, ?frsq, ?fex2, ?flg2, ?fsin, ?fcos, ?ftanh, ?fsigm, ?ferf⟩⟩
  case fadd | fsub | fmul | ffma | fmin | fmax | fminm | fmaxm | fdiv => exact floatRule_of_vf fun _ => rfl
  case faddS | fsubS | fmulS | ffmaS | fminS | fmaxS | fminmS | fmaxmS => exact floatRuleS_of_vfS fun _ => rfl
  case fneg | fsqrt | frcp | frsq | fex2 | flg2 | fsin | fcos | ftanh | fsigm | ferf => exact floatRule1_of_vf1 fun _ => rfl

end Sys2Proof.Machine
end

section
/-! SUPPORT. Conversions by the table of R128, and the words CVT and SCVT (R149 to R151). -/

namespace Sys2Proof.Machine

open Sys2Proof

/-! Types. -/

theorem fmtType_eq_none_of_intType {t n : Nat} {sg : Bool} (h : intType t = some (sg, n)) : fmtType t = none := by
  unfold intType at h
  split at h
  case h_9 => cases h
  all_goals rfl

theorem intMin_nonpos (sg : Bool) (n : Nat) : intMin sg n ≤ 0 := by
  cases sg
  · exact le_refl _
  · exact neg_nonpos.2 (by positivity)

theorem intMax_nonneg (sg : Bool) (n : Nat) : 0 ≤ intMax sg n := by
  cases sg
  · exact sub_nonneg.2 (one_le_pow₀ (by decide))
  · exact sub_nonneg.2 (one_le_pow₀ (by decide))

section
variable {t u n m : Nat} {sg tg : Bool} {f g : Fmt}

theorem cvtVal_fmt_fmt (hu : fmtType u = some f) (ht : fmtType t = some g) (e : FEnv) (rng : Word) (v : Nat) :
    cvtVal t u e rng v = fConv f g e rng v 0 := by
  simp only [cvtVal, hu, ht]

theorem cvtVal_fmt_int (hu : fmtType u = some f) (ht : intType t = some (sg, n)) (e : FEnv) (rng : Word) (v : Nat) :
    cvtVal t u e rng v = { v := ((fToInt f e rng v (intMin sg n) (intMax sg n)).1 % 2 ^ n).toNat,
                           fl := (fToInt f e rng v (intMin sg n) (intMax sg n)).2.1,
                           rng := (fToInt f e rng v (intMin sg n) (intMax sg n)).2.2 } := by
  simp only [cvtVal, hu, ht, fmtType_eq_none_of_intType ht]

theorem cvtVal_int_fmt (hu : intType u = some (sg, n)) (ht : fmtType t = some g) (e : FEnv) (rng : Word) (v : Nat) :
    cvtVal t u e rng v = fOfInt g e rng (intOf sg n v) := by
  simp only [cvtVal, hu, ht, fmtType_eq_none_of_intType hu]

theorem cvtVal_int_int (hu : intType u = some (sg, n)) (ht : intType t = some (tg, m)) (e : FEnv) (rng : Word) (v : Nat) :
    cvtVal t u e rng v = { v := (clampTo (e.sat && decide (m ≤ n)) m (intMin tg m) (intMax tg m) (intOf sg n v)).1,
                           fl := (clampTo (e.sat && decide (m ≤ n)) m (intMin tg m) (intMax tg m) (intOf sg n v)).2,
                           rng := rng } := by
  simp only [cvtVal, hu, ht, fmtType_eq_none_of_intType hu, fmtType_eq_none_of_intType ht]

end

/-! Between formats. -/

/-- The code with exponent all ones and no mantissa is an infinity. -/
theorem unpack_inf {f : Fmt} (neg : Bool) (hf : f.ieee = true) : unpack f (signed f neg ((2 ^ f.ebits - 1) * 2 ^ f.mbits)) = .inf neg := by
  have h := unpack_code (f := f) (neg := neg) (ex := 2 ^ f.ebits - 1) (fr := 0) (by positivity) (Nat.sub_lt (by positivity) one_pos)
  rw [Nat.add_zero] at h
  simp [h, hf]

section
variable {f g : Fmt} {e : FEnv} {rng : Word} {v : Nat} {k : Int} {neg : Bool}

theorem fConv_nan (h : isNan f (ftziBits f e v) = true) : fConv f g e rng v k =
    nanRes g e rng (nanOf e g [(f, ftziBits f e v)]) (snanFl [(f, ftziBits f e v)]) := by
  obtain ⟨x, hx⟩ := isNan_iff.1 h
  simp only [fConv, hx]

theorem fConv_inf (h : unpack f (ftziBits f e v) = .inf neg) : fConv f g e rng v k = infRes g e rng neg := by
  simp only [fConv, h]

theorem fConv_zero {x : Int} (h : unpack f (ftziBits f e v) = .fin neg 0 x) :
    fConv f g e rng v k = { v := signed g neg 0, rng := e.advance rng } := by
  simp only [fConv, h, if_true]

theorem fConv_fin {m : Nat} {x : Int} (h : unpack f (ftziBits f e v) = .fin neg m x) (hm : m ≠ 0) :
    fConv f g e rng v k = roundTo g e rng neg m 1 (x + k) := by
  simp only [fConv, h, hm, if_false]

theorem snanFl_singleton (f : Fmt) (b : Nat) : snanFl [(f, b)] = if isSnan f b = true then flINV else 0 := by
  simp [snanFl]

/-- A NaN into a format (R126, R128). -/
theorem fConv_nan_law (h : isNan f (ftziBits f e v) = true) :
    let b := ftziBits f e v
    let r := fConv f g e rng v k
    (g = .e2m1 → r.v = 0 ∧ r.fl = flINV) ∧ (g ≠ .e2m1 → (e.nanp = false → r.v = g.defNan) ∧
      (e.nanp = true → r.v = carryNan f g b) ∧ r.fl = if isSnan f b = true then flINV else 0) := by
  intro b r
  have hr : r = nanRes g e rng (nanOf e g [(f, b)]) (snanFl [(f, b)]) := fConv_nan h
  rw [hr, snanFl_singleton]
  refine ⟨fun hg => ?_, fun hg => ⟨fun hp => ?_, fun hp => ?_, ?_⟩⟩
  · simp only [nanRes, hg, if_true, true_and]
    split <;> decide
  · simp [nanRes, hg, nanOf, hp]
  · simp [nanRes, hg, nanOf, hp, b, h]
  · simp [nanRes, hg]

/-- An infinity into a format (R128). -/
theorem infRes_law (g : Fmt) (e : FEnv) (rng : Word) (neg : Bool) :
    let r := infRes g e rng neg
    (g.ieee = true → unpack g r.v = .inf neg ∧ r.fl = 0) ∧
      (g = .e2m1 ∨ (g = .e4m3 ∧ e.sat = true) → r.v = signed g neg g.maxCode ∧ r.fl = flSAT ||| flIX) ∧
      (g = .e4m3 → e.sat = false → r.v = signed g neg 0x7F ∧ r.fl = flOF ||| flIX) := by
  refine ⟨fun hi => ?_, ?_, ?_⟩
  · simp [infRes, hi, unpack_inf]
  · rintro (rfl | ⟨rfl, hs⟩)
    · simp [infRes, Fmt.ieee]
    · simp [infRes, Fmt.ieee, hs]
  · rintro rfl hs
    simp [infRes, Fmt.ieee, hs]

end

/-! To an integer. -/

/-- The units that a mode gives are found with the generator's bits after its step (R118, R120). -/
theorem roundQ_eq_of_roundsTo {e : FEnv} {rng : Word} {neg : Bool} {N D q : Nat} (hD : 0 < D) (h1 : 1 ≤ e.mode) (h6 : e.mode ≤ 6)
    (hq : RoundsTo e.mode neg ((srStep rng).toNat / 65536) N D q) : roundQ e.mode neg N D ((e.advance rng).toNat / 65536) = q := by
  have hsame : roundQ e.mode neg N D ((e.advance rng).toNat / 65536) = roundQ e.mode neg N D ((srStep rng).toNat / 65536) := by
    by_cases hm : e.mode = 6
    · simp only [FEnv.advance, hm, if_true]
    · simp only [roundQ, hm, if_false]
  rw [hsame]
  exact (roundQ_roundsTo hD).unique hD h1 h6 hq

section
variable {f : Fmt} {e : FEnv} {rng : Word} {v : Nat} {lo hi : Int}

theorem fToInt_nan (h : isNan f (ftziBits f e v) = true) : fToInt f e rng v lo hi = (0, flINV, e.advance rng) := by
  obtain ⟨x, hx⟩ := isNan_iff.1 h
  simp only [fToInt, hx]

theorem fToInt_inf {neg : Bool} (h : unpack f (ftziBits f e v) = .inf neg) :
    fToInt f e rng v lo hi = (if neg then lo else hi, flINV, e.advance rng) := by
  simp only [fToInt, h]

theorem fToInt_fin {neg : Bool} {m q : Nat} {x : Int} (h1 : 1 ≤ e.mode) (h6 : e.mode ≤ 6) (h : unpack f (ftziBits f e v) = .fin neg m x)
    (hq : RoundsTo e.mode neg ((srStep rng).toNat / 65536) (m * 2 ^ x.toNat) (2 ^ (-x).toNat) q) :
    let y : Int := if neg then -(q : Int) else q
    fToInt f e rng v lo hi = if y < lo then (lo, flINV, e.advance rng) else if hi < y then (hi, flINV, e.advance rng)
      else (y, if q * 2 ^ (-x).toNat = m * 2 ^ x.toNat then 0 else flIX, e.advance rng) := by
  have hround := roundQ_eq_of_roundsTo (by positivity) h1 h6 hq
  have hfrac : fracOf m 1 x 0 = (m * 2 ^ x.toNat, 2 ^ (-x).toNat) := by simp [fracOf, scale2]
  simp only [fToInt, h, hfrac, hround, bne_iff_ne, ne_eq, ite_not]

end

/-! The clauses of the table. -/

section
variable {t u n m : Nat} {sg tg : Bool} {f g : Fmt} {e : FEnv} {rng : Word} {v : Nat}

theorem cvtVal_fmt_fmt_law (h1 : 1 ≤ e.mode) (h6 : e.mode ≤ 6) (hu : fmtType u = some f) (ht : fmtType t = some g) :
    let r := cvtVal t u e rng v
    let b := ftziBits f e v
    (isNan f b = true → (g = .e2m1 → r.v = 0 ∧ r.fl = flINV) ∧ (g ≠ .e2m1 → (e.nanp = false → r.v = g.defNan) ∧
      (e.nanp = true → r.v = carryNan f g b) ∧ r.fl = if isSnan f b = true then flINV else 0)) ∧
    (∀ neg, unpack f b = .inf neg → (g.ieee = true → unpack g r.v = .inf neg ∧ r.fl = 0) ∧
      (g = .e2m1 ∨ (g = .e4m3 ∧ e.sat = true) → r.v = signed g neg g.maxCode ∧ r.fl = flSAT ||| flIX) ∧
      (g = .e4m3 → e.sat = false → r.v = signed g neg 0x7F ∧ r.fl = flOF ||| flIX)) ∧
    (∀ neg x, unpack f b = .fin neg 0 x → r.v = signed g neg 0 ∧ r.fl = 0) ∧
    (∀ neg m x, unpack f b = .fin neg m x → m ≠ 0 → RoundOf g e rng neg m 1 x r) := by
  dsimp only
  rw [cvtVal_fmt_fmt hu ht]
  refine ⟨fConv_nan_law, fun neg h => ?inf, fun neg x h => ?zero, fun neg m x h hm => ?fin⟩
  case inf => rw [fConv_inf h]; exact infRes_law g e rng neg
  case zero => rw [fConv_zero h]; exact ⟨rfl, rfl⟩
  case fin =>
    rw [fConv_fin h hm, add_zero]
    exact roundTo_roundOf (Nat.pos_of_ne_zero hm) one_pos h1 h6

theorem cvtVal_fmt_int_law (h1 : 1 ≤ e.mode) (h6 : e.mode ≤ 6) (hu : fmtType u = some f) (ht : intType t = some (sg, n)) :
    let r := cvtVal t u e rng v
    let b := ftziBits f e v
    let gives (y : Int) (fl : Word) : Prop := r.v = (y % 2 ^ n).toNat ∧ r.fl = fl
    (isNan f b = true → gives 0 flINV) ∧
    (∀ neg, unpack f b = .inf neg → gives (if neg then intMin sg n else intMax sg n) flINV) ∧
    (∀ neg m x q, unpack f b = .fin neg m x → RoundsTo e.mode neg ((srStep rng).toNat / 65536) (m * 2 ^ x.toNat) (2 ^ (-x).toNat) q →
      let y : Int := if neg then -(q : Int) else q
      (y < intMin sg n → gives (intMin sg n) flINV) ∧ (intMax sg n < y → gives (intMax sg n) flINV) ∧
      (intMin sg n ≤ y → y ≤ intMax sg n → gives y (if q * 2 ^ (-x).toNat = m * 2 ^ x.toNat then 0 else flIX))) := by
  dsimp only
  rw [cvtVal_fmt_int hu ht]
  refine ⟨fun h => ?nan, fun neg h => ?inf, fun neg m x q h hq => ?fin⟩
  case nan => rw [fToInt_nan h]; exact ⟨rfl, rfl⟩
  case inf => rw [fToInt_inf h]; exact ⟨rfl, rfl⟩
  case fin =>
    rw [fToInt_fin h1 h6 h hq]
    have hlo := intMin_nonpos sg n
    have hhi := intMax_nonneg sg n
    refine ⟨fun hy => ?_, fun hy => ?_, fun hy hy' => ?_⟩
    · rw [if_pos hy]; exact ⟨rfl, rfl⟩
    · rw [if_neg (by omega), if_pos hy]; exact ⟨rfl, rfl⟩
    · rw [if_neg (not_lt.2 hy), if_neg (not_lt.2 hy')]; exact ⟨rfl, rfl⟩

theorem cvtVal_int_fmt_law (h1 : 1 ≤ e.mode) (h6 : e.mode ≤ 6) (hu : intType u = some (sg, n)) (ht : fmtType t = some g) :
    let r := cvtVal t u e rng v
    (intOf sg n v = 0 → r.v = 0 ∧ r.fl = 0) ∧
    (intOf sg n v ≠ 0 → RoundOf g e rng (decide (intOf sg n v < 0)) (intOf sg n v).natAbs 1 0 r) := by
  dsimp only
  rw [cvtVal_int_fmt hu ht, fOfInt]
  refine ⟨fun h => ?_, fun h => ?_⟩
  · rw [if_pos h]; exact ⟨rfl, rfl⟩
  · rw [if_neg h]; exact roundTo_roundOf (Int.natAbs_pos.2 h) one_pos h1 h6

theorem cvtVal_int_int_law (hu : intType u = some (sg, n)) (ht : intType t = some (tg, m)) :
    let r := cvtVal t u e rng v
    let x := intOf sg n v
    let gives (y : Int) (fl : Word) : Prop := r.v = (y % 2 ^ m).toNat ∧ r.fl = fl
    (e.sat = false ∨ n < m → gives x 0) ∧
    (e.sat = true → m ≤ n → (x < intMin tg m → gives (intMin tg m) flSAT) ∧ (intMax tg m < x → gives (intMax tg m) flSAT) ∧
      (intMin tg m ≤ x → x ≤ intMax tg m → gives x 0)) := by
  dsimp only
  rw [cvtVal_int_int hu ht]
  have hlo := intMin_nonpos tg m
  have hhi := intMax_nonneg tg m
  refine ⟨fun h => ?wrap, fun hs hmn => ?clamp⟩
  case wrap =>
    have hoff : (e.sat && decide (m ≤ n)) = false := by
      rcases h with h | h
      · simp [h]
      · simp [Nat.not_le.2 h]
    rw [hoff]
    exact ⟨rfl, rfl⟩
  case clamp =>
    have hon : (e.sat && decide (m ≤ n)) = true := by simp [hs, hmn]
    rw [hon, clampTo, if_pos rfl]
    refine ⟨fun hx => ?_, fun hx => ?_, fun hx hx' => ?_⟩
    · rw [if_pos hx]; exact ⟨rfl, rfl⟩
    · rw [if_neg (by omega), if_pos hx]; exact ⟨rfl, rfl⟩
    · rw [if_neg (not_lt.2 hx), if_neg (not_lt.2 hx')]; exact ⟨rfl, rfl⟩

end

/-! The words. -/

/-- The operands of CVT: 64-bit values are pairs, and a narrow result keeps the rest of D (R149). -/
def VOp.cvt (o : FCvt) : VOp :=
  { use := { ixd := true, ixa := true, rnd := true, sat := true, na := (fmtType o.u.toNat).isSome }
    d := some (o.d.toNat, if typeWidth o.t.toNat = 64 then 2 else 1), a := some (o.a.toNat, if typeWidth o.u.toNat = 64 then 2 else 1)
    keepD := decide (typeWidth o.t.toNat < 32), fa := fmtType o.u.toNat
    partA := some (cvtSrc o.t.toNat o.u.toNat o.e.toNat), float := true, lat := 6 }

/-- CVT of one lane, from type `u` to type `t` with part selector `sel` (R149). -/
def cvtLane (t u sel : Nat) (e : FEnv) (x : LaneIn) : LaneOut :=
  let wt := typeWidth t
  let wu := typeWidth u
  let v := if wu = 64 then (pairOf x.a).toNat else x.a0.toNat / 2 ^ (wu * cvtSrc t u sel) % 2 ^ wu
  let r := cvtVal t u e x.rng v
  let at0 := wt * cvtDst t u sel
  { ws := if wt = 64 then pairWords (BitVec.ofNat 64 r.v)
          else if wt = 32 then [BitVec.ofNat 32 r.v]
          else [(nth x.d 0 0 &&& ~~~(BitVec.ofNat 32 ((2 ^ wt - 1) * 2 ^ at0))) ||| BitVec.ofNat 32 (r.v * 2 ^ at0)]
    fl := r.fl, rng := r.rng }

theorem exec_cvt (o : FCvt) (s : State) :
    exec (.cvt o) s = s.runTarget o.sw (fun c t => c.vop t (VOp.cvt o) (cvtLane o.t.toNat o.u.toNat o.e.toNat)) := by
  have hexec : exec (.cvt o) s = execCvt o s := rfl
  simp only [hexec, execCvt, BitVec.ofNat_toNat, BitVec.setWidth_eq]
  rfl

/-- The elements of one lane widened to BF16 by its block's scale (R150). -/
def scvtUpLane (f : Fmt) (block sel : Nat) (e : FEnv) (rd : Nat → Word) (x : LaneIn) : LaneOut :=
  let k := scaleOf block sel rd x.lane
  let r := packLanes .bf16 (fun rng j => scaled f .bf16 e rng (sub f x.a0 j) k) f.per 0 x.rng
  { ws := halfWords r.1, fl := r.2.1, rng := r.2.2 }

/-- The LQ2 weights of one lane as BF16, by its block's scale (R117, R150). -/
def scvtUpLq2Lane (sel : Nat) (e : FEnv) (rd mag : Nat → Word) (x : LaneIn) : LaneOut :=
  let r := packLanes .bf16 (fun rng j =>
    match scaleOf 4 sel rd x.lane with
    | some k => lqRound .bf16 e rng (lqWeight mag x.a0 j) k
    | none => nanRes .bf16 e rng Fmt.bf16.defNan 0) 16 0 x.rng
  { ws := halfWords r.1, fl := r.2.1, rng := r.2.2 }

/-- The F32 group of one lane narrowed into a register, over its block's scale (R151). -/
def scvtDnLane (f : Fmt) (block sel : Nat) (e : FEnv) (rd : Nat → Word) (x : LaneIn) : LaneOut :=
  let k := (scaleOf block sel rd x.lane).map (fun n => -n)
  let r := packLanes f (fun rng j => scaled .f32 f e rng (nth x.a j 0).toNat k) f.per 0 x.rng
  { ws := [BitVec.ofNat 32 (packSubs f r.1)], fl := r.2.1, rng := r.2.2 }

/-- The operands of a scaled conversion: D, A and B, A and D groups of registers. -/
def VOp.scvt (o : FScvt) (kd ka : Nat) : VOp :=
  { use := { ixd := true, ixa := true, ixb := true, rnd := true, sat := true }
    d := some (o.d.toNat, kd), a := some (o.a.toNat, ka), b := some (o.b.toNat, 1), crossB := true, float := true, lat := 6 }

section
variable {i : Instr} {o : FScvt} {f : Fmt} {block : Nat}

theorem vecRule_of_scvtUp (hi : ∀ s, exec i s = s.scvtUp o f block) : VecRule i o.sw { VOp.scvt o (f.per / 2) 1 with fa := some f }
    (fun c s p x => scvtUpLane f block o.e.toNat p.env (fun l => c.readV s p.b l) x) :=
  vecRule_of_bop (f := fun _ e rd _ x => scvtUpLane f block o.e.toNat e rd x) hi

theorem vecRule_of_scvtDn (hi : ∀ s, exec i s = s.scvtDn o f block) : VecRule i o.sw { VOp.scvt o 1 f.per with fa := some .f32 }
    (fun c s p x => scvtDnLane f block o.e.toNat p.env (fun l => c.readV s p.b l) x) :=
  vecRule_of_bop (f := fun _ e rd _ x => scvtDnLane f block o.e.toNat e rd x) hi

end

theorem vecRule_scvtUpLq2 (o : FScvt) : VecRule (.scvtUpLq2 o) o.sw { VOp.scvt o 8 1 with extra := [.table] }
    (fun c s p x => scvtUpLq2Lane o.e.toNat p.env (fun l => c.readV s p.b l) (c.magEntry s) x) :=
  vecRule_of_bop (f := fun _ e rd mag x => scvtUpLq2Lane o.e.toNat e rd mag x) fun _ => rfl

/-- Settles O22: the table of R128 by the kinds of its two types, then CVT lane by lane and each scaled conversion by its form. -/
theorem conversionWords : Obligations.ConversionWords := by
  refine ⟨fun t u e rng v h1 h6 => ⟨fun f g hu ht => cvtVal_fmt_fmt_law h1 h6 hu ht, fun f sg n hu ht => cvtVal_fmt_int_law h1 h6 hu ht,
      fun g sg n hu ht => cvtVal_int_fmt_law h1 h6 hu ht, fun sg n tg m hu ht => cvtVal_int_int_law hu ht⟩,
    fun o => vecRule_of_vop (exec_cvt o), fun o => ⟨?upE4m3, ?upE5m2, ?upE2m1, ?upLq2, ?dnE4m3, ?dnE5m2, ?dnE2m1⟩⟩
  case upE4m3 | upE5m2 | upE2m1 => exact vecRule_of_scvtUp fun _ => rfl
  case upLq2 => exact vecRule_scvtUpLq2 o
  case dnE4m3 | dnE5m2 | dnE2m1 => exact vecRule_of_scvtDn fun _ => rfl

end Sys2Proof.Machine
end

section
/-! SUPPORT. The cross-lane words (R154 to R157). -/

namespace Sys2Proof.Machine

open Sys2Proof

theorem tileRule_of_tileOp {i : Instr} {o : FDa} {lat : Nat} {f : List Nat → (Nat → Word) → Nat → Word}
    (hi : ∀ s, exec i s = s.tileOp o lat (fun tile act rd x => f (tileLanes tile x.lane act) rd x.lane)) : TileRule i o lat f :=
  laneRule_of_xop hi

/-- A shuffle reads its source lane of the tile, or keeps A and sets XLB (R155). -/
theorem shuffle_of_shfl {i : Instr} {o : FDab} {src : Nat → Nat → Int} (hi : ∀ s, exec i s = s.shfl o src) {s : State} {c : Cx} {p : Prep}
    (hcx : s.cx = some c) :
    let from1 (tile : Nat) (x : LaneIn) : Option Nat := shflSrc tile c.w.id.wide x.lane (src x.lane x.b0.toNat)
    let v : VOp := { VOp.dab o { ixd := true, ixa := true, ixb := true } false 8 with extra := [.part], crossA := true }
    let tile := bits (c.readPart s).toNat 2 0
    let outs := c.lanesOut s v p (fun x => match from1 tile x with
      | some l => one x (c.readV s p.a l)
      | none => { ws := [x.a0], fl := flXLB, rng := x.rng })
    c.VecOk s v p outs → c.free s [.v p.a (maskOf ((lanesOf p.act).map (fun l => (from1 tile (c.sources s v p l)).getD l)))] →
    exec i s = .next (s.afterVec c o.sw v p outs) := by
  intro from1 v tile outs hv hr
  have hreads : c.free s [.v p.a (maskOf (((lanesOf p.act).map (c.sources s
      (VOp.dab o { ixd := true, ixa := true, ixb := true } false 8) p)).map (fun x => (from1 tile x).getD x.lane)))] := by
    rw [List.map_map]
    exact hr
  rw [hi]
  exact State.runTarget_ok hcx (Cx.xop_ok rfl hv hreads)

/-- A lane mask of the tile: at width 64 it is a pair, and D is even (R156). -/
theorem laneMask_of_tileMask {i : Instr} {o : FDa} {f : List Nat → (Nat → Word) → Nat → List Nat}
    (hi : ∀ s, exec i s = s.tileMask o (fun tile act rd x => maskOf (f (tileLanes tile x.lane act) rd x.lane)))
    {s : State} {c : Cx} {p : Prep} (hcx : s.cx = some c) (hd : c.w.id.wide = true → o.d.toNat % 2 = 0) :
    let v : VOp := { VOp.da o.d.toNat o.a.toNat { ixd := true, ixa := true } 8 with
      d := some (o.d.toNat, if c.w.id.wide then 2 else 1), extra := [.part], crossA := true }
    let outs := c.lanesOut s v p (fun x =>
      let m := maskOf (f (tileLanes (bits (c.readPart s).toNat 2 0) x.lane p.act) (fun l => c.readV s p.a l) x.lane)
      { ws := if c.w.id.wide then pairWords m else [m.setWidth 32], rng := x.rng })
    c.VecOk s v p outs → c.free s [.v p.a p.act] → exec i s = .next (s.afterVec c o.sw v p outs) := by
  intro v outs hv hr
  have heven : (c.w.id.wide && o.d.toNat % 2 == 1) = false := by
    cases hw : c.w.id.wide
    · rfl
    · simp [hd hw]
  rw [hi]
  refine State.runTarget_ok hcx ?_
  simp only [heven, Bool.false_eq_true, if_false]
  exact Cx.xop_ok rfl hv hr

/-- Settles O24: shuffles, tile-wide values, floating sums and lane masks are each one form of word over the tile. -/
theorem laneWords : Obligations.LaneWords := by
  refine ⟨fun o => ⟨?idx, ?up, ?dn, ?xor⟩,
    fun o => ⟨?any, ?all, ?bcast, ?addI, ?minI, ?maxI, ?scanI, ⟨?addF, ?scanF⟩, ⟨?ballot, ?matchV⟩⟩⟩
  case idx =>
    rintro _ _ s c p hcx rfl
    exact shuffle_of_shfl (i := .shflIdx o) (src := fun _ k => k) (fun _ => rfl) hcx
  case up =>
    rintro _ _ s c p hcx rfl
    exact shuffle_of_shfl (i := .shflUp o) (src := fun i k => i - k) (fun _ => rfl) hcx
  case dn =>
    rintro _ _ s c p hcx rfl
    exact shuffle_of_shfl (i := .shflDn o) (src := fun i k => i + k) (fun _ => rfl) hcx
  case xor =>
    rintro _ _ s c p hcx rfl
    exact shuffle_of_shfl (i := .shflXor o) (src := fun i k => ((i ^^^ k : Nat) : Int)) (fun _ => rfl) hcx
  case any | all | bcast => exact tileRule_of_tileOp fun _ => rfl
  case addI | minI | maxI | scanI =>
    refine tileRule_of_tileOp fun _ => ?_
    simp only [List.foldl_map]
    rfl
  case addF | scanF => exact laneRule_of_xop fun _ => rfl
  case ballot =>
    exact fun s c p hcx hd =>
      laneMask_of_tileMask (i := .ballot o) (f := fun ls rd _ => ls.filter (fun j => rd j != 0)) (fun _ => rfl) hcx hd
  case matchV =>
    exact fun s c p hcx hd =>
      laneMask_of_tileMask (i := .matchV o) (f := fun ls rd i => ls.filter (fun j => rd j == rd i)) (fun _ => rfl) hcx hd

end Sys2Proof.Machine
end

section
/-! SUPPORT. The codebook words (R163 to R165). -/

namespace Sys2Proof.Machine

open Sys2Proof

/-- LQDEC of one lane: the two weights of its pair, or a free value of a pair that a lane does not have (R163, log 10). -/
def lqDecLane (tick : Nat) (mag : Nat → Word) (x : LaneIn) : LaneOut :=
  let h (j : Nat) : Nat := (lqRound .bf16 {} 0 (lqWeight mag x.a0 j) 0).v
  let n := x.b0.toNat % 16
  { ws := if n < 8 then [BitVec.ofNat 32 (h (2 * n) + 65536 * h (2 * n + 1))] else [BitVec.ofNat 32 (Config.pick tick (6000 + x.lane))]
    rng := x.rng }

/-- LQDOT of one lane: sixteen weights by sixteen BF16 elements, and C, rounded once (R164). -/
def lqDotLane (e : FEnv) (mag : Nat → Word) (x : LaneIn) : LaneOut :=
  let xs := (x.b.flatMap (subs .bf16)).map (ftziBits .bf16 e)
  let ws := (List.range 16).map (lqWeight mag x.a0)
  let cc := ftziBits .f32 e x.c.toNat
  let vs := xs.map (unpack .bf16)
  fone (sumRes .f32 e x.rng (xs.map (fun v => (Fmt.bf16, v)) ++ [(.f32, cc)]) (anyInv ws vs) (prods ws vs ++ [unpack .f32 cc]))

theorem exec_lqdot (o : FDab) (s : State) : exec (.lqdot o) s = s.runTarget o.sw (fun c t => c.bop t
    { VOp.dab o { ixd := true, ixa := true, ixb := true, rnd := true, c := true, sat := true } true 8 with
      b := some (o.b.toNat, 8), fb := some .bf16, fc := some .f32, float := true, extra := [.table] }
    (fun e _ mag x => lqDotLane e mag x)) := rfl

/-- The state with a table write in progress: it is outstanding for its warp, and its core's table holds it until it completes (R165). -/
def State.writingTable (s : State) (c : Cx) (writes : KMap Word) : State :=
  let due := (s.core c.core).cyc + c.clocks 32
  ((s.newId.2.modWarp c.uid (fun w => { w with iss := { w.iss with outstanding := w.iss.outstanding ++
    [{ id := s.fresh, due := due, names := [.table] }] } })).modCore c.core (fun k => { k with lq := k.lq ++
      [{ id := s.fresh, uid := c.uid, due := due, writes := writes }] })).post (.lqtblComplete c.core s.fresh)

@[simp] theorem State.post_core (s : State) (e : Ev) (k : Nat) : (s.post e).core k = s.core k := rfl

theorem State.writingTable_lq (s : State) (c : Cx) (writes : KMap Word) : ((s.writingTable c writes).core c.core).lq =
    (s.core c.core).lq ++ [{ id := s.fresh, uid := c.uid, due := (s.core c.core).cyc + c.clocks 32, writes := writes }] := by
  rw [State.writingTable, State.post_core, State.modCore_core]
  rfl

theorem State.writingTable_mag (s : State) (c : Cx) (writes : KMap Word) :
    ((s.writingTable c writes).core c.core).mag = (s.core c.core).mag := by
  rw [State.writingTable, State.post_core, State.modCore_core]
  rfl

theorem execLqtbl_ok {o : FAb} {s : State} {c : Cx} {p : Prep} (hcx : s.cx = some c)
    (hp : c.prep s { use := { z := false }, a := some (o.a.toNat, 1), b := some (o.b.toNat, 1), extra := [.table] } = .ok p) :
    execLqtbl o s = .next ((s.writingTable c ((lanesOf p.act).foldl
      (fun (m : KMap Word) i => m.set ((c.readV s p.a i).toNat % 256) (c.readV s p.b i)) [])).closeGroup c o.sw .next) := by
  refine State.runTarget_ok hcx ?_
  simp only [hp, bind, Except.bind]
  rfl

/-- Settles O28: the weights and the dot product lane by lane, and the table write as it stands in progress. -/
theorem codebookWords : Obligations.CodebookWords := by
  refine ⟨fun o => ⟨?lqdec, ?lqdot⟩, fun s c hcx o p hp =>
    ⟨_, execLqtbl_ok hcx hp, State.writingTable_lq s c _, State.writingTable_mag s c _, rfl⟩⟩
  case lqdec => exact vecRule_of_bop (f := fun s _ _ mag x => lqDecLane s.tick mag x) fun _ => rfl
  case lqdot => exact vecRule_of_bop (f := fun _ e _ mag x => lqDotLane e mag x) (exec_lqdot o)

end Sys2Proof.Machine
end

section
/-! SUPPORT. The state after reset (R116). -/

namespace Sys2Proof.Machine

open Sys2Proof

/-- A number with one hexadecimal digit for each of the first `n` positions, 1 where a test holds and else 0. -/
def digitSum (b : Nat → Bool) (n : Nat) : Nat := (List.range n).foldl (fun a i => a + (if b i then 16 ^ i else 0)) 0

theorem digitSum_succ (b : Nat → Bool) (n : Nat) : digitSum b (n + 1) = digitSum b n + if b n then 16 ^ n else 0 := by
  simp [digitSum, List.range_succ]

theorem digitSum_lt (b : Nat → Bool) (n : Nat) : digitSum b n < 16 ^ n := by
  induction n with
  | zero => exact Nat.one_pos
  | succ n ih =>
    rw [digitSum_succ, Nat.pow_succ]
    split <;> omega

/-- A digit is what its test gave. -/
theorem digitSum_digit (b : Nat → Bool) {n i : Nat} (hi : i < n) : digitSum b n / 16 ^ i % 16 = if b i then 1 else 0 := by
  induction n with
  | zero => omega
  | succ n ih =>
    rw [digitSum_succ]
    rcases Nat.lt_succ_iff_lt_or_eq.1 hi with hlt | rfl
    · have hdvd : 16 ^ (i + 1) ∣ (if b n then 16 ^ n else 0) := by
        split
        · exact Nat.pow_dvd_pow 16 hlt
        · exact Nat.dvd_zero _
      obtain ⟨k, hk⟩ := hdvd
      rw [hk, Nat.pow_succ, Nat.mul_assoc, Nat.add_mul_div_left _ _ (by positivity), Nat.add_mul_mod_self_left, ih hlt]
    · have hlow := digitSum_lt b i
      have hpos : 0 < 16 ^ i := by positivity
      split
      · rw [Nat.add_div_right _ hpos, Nat.div_eq_of_lt hlow]
      · rw [Nat.add_zero, Nat.div_eq_of_lt hlow]

/-- Weight i of an entry after reset has code bit i of the entry's number (R116). -/
theorem magReset_weight (m : Nat) {i : Nat} (hi : i < 8) : (magReset m).extractLsb' (4 * i) 4 = if m.testBit i then 1 else 0 := by
  have hval : (magReset m).toNat = digitSum (bitAt m) 8 := Nat.mod_eq_of_lt (digitSum_lt (bitAt m) 8)
  apply BitVec.eq_of_toNat_eq
  rw [BitVec.extractLsb'_toNat, hval, Nat.shiftRight_eq_div_pow, Nat.pow_mul]
  refine (digitSum_digit (bitAt m) hi).trans ?_
  unfold bitAt
  split <;> rfl

/-- Settles O2: every map of the reset state is empty, so that each register reads its default. -/
theorem resetState : Obligations.ResetState :=
  ⟨State.reset_memOk, fun _ => rfl, rfl, rfl, rfl, rfl, rfl, rfl, rfl, rfl, rfl, rfl, fun _ => ⟨rfl, rfl⟩,
    fun _ m _ hi => magReset_weight m hi⟩

end Sys2Proof.Machine
end

section
/-! SUPPORT. Exact integer results as words: sums, products, shifts and the extrema of two words (R139, R143, R158). -/

namespace Sys2Proof.Machine

open Sys2Proof

theorem ofInt_toInt_sub {n : Nat} (a b : BitVec n) : BitVec.ofInt n (a.toInt - b.toInt) = a - b := by
  rw [Int.sub_eq_add_neg, BitVec.ofInt_add, BitVec.ofInt_neg, BitVec.ofInt_toInt, BitVec.ofInt_toInt, BitVec.sub_eq_add_neg]

theorem ofInt_add_toNat {n : Nat} (x : Int) (c : BitVec n) : BitVec.ofInt n (x + c.toNat) = BitVec.ofInt n x + c := by
  rw [BitVec.ofInt_add, BitVec.ofInt_natCast, BitVec.ofNat_toNat, BitVec.setWidth_eq]

/-- Without SAT an exact result is taken modulo 2^32 (R139). -/
theorem intRes_of_ofInt {x : Int} {w : Word} (h : BitVec.ofInt 32 x = w) (sat : Bool) :
    intRes sat x = if sat then clampI32 x else (w, 0) := by rw [intRes, h]

theorem intRes_add (sat : Bool) (a b : Word) :
    intRes sat (a.toInt + b.toInt) = if sat then clampI32 (a.toInt + b.toInt) else (a + b, 0) :=
  intRes_of_ofInt (by rw [BitVec.ofInt_add, BitVec.ofInt_toInt, BitVec.ofInt_toInt]) sat

theorem intRes_sub (sat : Bool) (a b : Word) :
    intRes sat (a.toInt - b.toInt) = if sat then clampI32 (a.toInt - b.toInt) else (a - b, 0) :=
  intRes_of_ofInt (ofInt_toInt_sub a b) sat

theorem intRes_mul_add (sat : Bool) (a b c : Word) :
    intRes sat (a.toInt * b.toInt + c.toInt) = if sat then clampI32 (a.toInt * b.toInt + c.toInt) else (a * b + c, 0) :=
  intRes_of_ofInt (by rw [BitVec.ofInt_add, BitVec.ofInt_mul, BitVec.ofInt_toInt, BitVec.ofInt_toInt, BitVec.ofInt_toInt]) sat

/-! Products of double width, and their high halves. -/

theorem ofInt_mul_toInt (a b : Word) : BitVec.ofInt 64 (a.toInt * b.toInt) = a.signExtend 64 * b.signExtend 64 :=
  BitVec.ofInt_mul _ _

theorem ofNat_mul_toNat (a b : Word) : BitVec.ofNat 64 (a.toNat * b.toNat) = a.setWidth 64 * b.setWidth 64 := by
  rw [BitVec.ofNat_mul, BitVec.ofNat_toNat, BitVec.ofNat_toNat]

theorem mulhI_eq (a b : Word) : mulhI a b = (a.signExtend 64 * b.signExtend 64).extractLsb' 32 32 := by
  rw [← ofInt_mul_toInt, mulhI]
  apply BitVec.eq_of_toNat_eq
  simp only [BitVec.extractLsb'_toNat, BitVec.toNat_ofInt, Nat.shiftRight_eq_div_pow]
  omega

theorem mulhN_eq (a b : Word) : mulhN a b = (a.setWidth 64 * b.setWidth 64).extractLsb' 32 32 := by
  rw [← ofNat_mul_toNat, mulhN]
  apply BitVec.eq_of_toNat_eq
  simp only [BitVec.extractLsb'_toNat, BitVec.toNat_ofNat, Nat.shiftRight_eq_div_pow]
  omega

/-! Shifts by a whole word's count (R143, R144). -/

theorem shlW_eq (a b : Word) : shlW a b = a <<< b.toNat := ite_eq_right_iff.2 fun h => (BitVec.shiftLeft_eq_zero h).symm

theorem shrW_eq (a b : Word) : shrW a b = a >>> b.toNat := ite_eq_right_iff.2 fun h => (BitVec.ushiftRight_eq_zero h).symm

theorem shlD_eq (a : BitVec 64) (b : Word) : shlD a b = a <<< b.toNat :=
  ite_eq_right_iff.2 fun h => (BitVec.shiftLeft_eq_zero h).symm

theorem shrD_eq (a : BitVec 64) (b : Word) : shrD a b = a >>> b.toNat :=
  ite_eq_right_iff.2 fun h => (BitVec.ushiftRight_eq_zero h).symm

/-- An arithmetic shift by 31 leaves the sign in every bit, and so does any longer one. -/
theorem sarW_eq (a b : Word) : sarW a b = a.sshiftRight b.toNat := by
  unfold sarW
  rcases Nat.lt_or_ge b.toNat 32 with h | h
  · rw [Nat.min_eq_left (by omega)]
  · rw [Nat.min_eq_right (by omega)]
    ext i hi
    rw [BitVec.getElem_sshiftRight, BitVec.getElem_sshiftRight, dif_neg (by omega : ¬ b.toNat + i < 32)]
    split
    case isTrue hlt =>
      obtain rfl : i = 0 := by omega
      rfl
    case isFalse => rfl

/-! Extrema of two words. -/

theorem minIW_eq (a b : Word) : minIW a b = BitVec.ofInt 32 (min a.toInt b.toInt) := by
  unfold minIW
  split
  case isTrue h => rw [min_eq_right (BitVec.slt_iff_toInt_lt.1 h).le, BitVec.ofInt_toInt]
  case isFalse h => rw [min_eq_left (not_lt.1 (mt BitVec.slt_iff_toInt_lt.2 h)), BitVec.ofInt_toInt]

theorem maxIW_eq (a b : Word) : maxIW a b = BitVec.ofInt 32 (max a.toInt b.toInt) := by
  unfold maxIW
  split
  case isTrue h => rw [max_eq_right (BitVec.slt_iff_toInt_lt.1 h).le, BitVec.ofInt_toInt]
  case isFalse h => rw [max_eq_left (not_lt.1 (mt BitVec.slt_iff_toInt_lt.2 h)), BitVec.ofInt_toInt]

theorem minNW_eq (a b : Word) : minNW a b = BitVec.ofNat 32 (min a.toNat b.toNat) := by
  unfold minNW
  split
  case isTrue h => rw [min_eq_right (BitVec.ult_iff_toNat_lt.1 h).le, BitVec.ofNat_toNat, BitVec.setWidth_eq]
  case isFalse h => rw [min_eq_left (not_lt.1 (mt BitVec.ult_iff_toNat_lt.2 h)), BitVec.ofNat_toNat, BitVec.setWidth_eq]

theorem maxNW_eq (a b : Word) : maxNW a b = BitVec.ofNat 32 (max a.toNat b.toNat) := by
  unfold maxNW
  split
  case isTrue h => rw [max_eq_right (BitVec.ult_iff_toNat_lt.1 h).le, BitVec.ofNat_toNat, BitVec.setWidth_eq]
  case isFalse h => rw [max_eq_left (not_lt.1 (mt BitVec.ult_iff_toNat_lt.2 h)), BitVec.ofNat_toNat, BitVec.setWidth_eq]

/-- The distance of two I32 as a difference of words (R144). -/
theorem ofNat_natAbs_sub (a b : Word) : BitVec.ofNat 32 (a.toInt - b.toInt).natAbs = if b.slt a then a - b else b - a := by
  rw [← BitVec.ofInt_natCast]
  split
  case isTrue h =>
    have := BitVec.slt_iff_toInt_lt.1 h
    rw [Int.natAbs_of_nonneg (by omega), ofInt_toInt_sub]
  case isFalse h =>
    have := mt BitVec.slt_iff_toInt_lt.2 h
    rw [← Int.natAbs_neg, Int.neg_sub, Int.natAbs_of_nonneg (by omega), ofInt_toInt_sub]

/-- The leading zeros stand above the highest one, whose place is the binary logarithm. -/
theorem clzW_eq (a : Word) : clzW a = a.clz := by
  unfold clzW
  split
  case isTrue h => exact (BitVec.clz_eq_iff_eq_zero.2 h).symm
  case isFalse h =>
    have hclz : a.clz.toNat < 32 := BitVec.clz_lt_iff_ne_zero.2 h
    have hlo := BitVec.two_pow_sub_clz_le_toNat_of_ne_zero (by decide) h
    have hhi := BitVec.toNat_lt_two_pow_sub_clz (x := a)
    rw [show 32 - a.clz.toNat = 31 - a.clz.toNat + 1 by omega] at hhi
    have hlog : Nat.log2 a.toNat = 31 - a.clz.toNat := (Nat.log2_eq_iff (mt (BitVec.eq_of_toNat_eq (y := 0#32)) h)).2 ⟨hlo, hhi⟩
    rw [hlog, Nat.sub_sub_self (by omega), BitVec.ofNat_toNat, BitVec.setWidth_eq]

end Sys2Proof.Machine
end

section
/-! SUPPORT. Bit fields: the words of BFE and BFI bit by bit (R144). -/

namespace Sys2Proof.Machine

open Sys2Proof

theorem fieldPos_eq (b : Word) : fieldPos b = b.toNat % 256 := rfl

theorem fieldLen_eq (b : Word) : fieldLen b = min (b.toNat / 256 % 256) 32 := by
  simp [fieldLen, bits, Nat.shiftRight_eq_div_pow]

theorem fieldLen_le (b : Word) : fieldLen b ≤ 32 := Nat.min_le_right _ _

theorem ofNat_mul_two_pow {n : Nat} (x p : Nat) : BitVec.ofNat n (x * 2 ^ p) = BitVec.ofNat n x <<< p := by
  apply BitVec.eq_of_toNat_eq
  simp [Nat.shiftLeft_eq]

theorem bfiW_eq (a b c : Word) : bfiW a b c =
    let pos := b.toNat % 256
    let m : Word := BitVec.ofNat 32 (2 ^ min (b.toNat / 256 % 256) 32 - 1) <<< pos
    (c &&& ~~~m) ||| ((a <<< pos) &&& m) := by
  simp only [bfiW, ofNat_mul_two_pow, BitVec.ofNat_toNat, BitVec.setWidth_eq, fieldPos_eq, fieldLen_eq]

/-- The number whose bits below n are given by a test. -/
def bitSum (b : Nat → Bool) (n : Nat) : Nat := (List.range n).foldl (fun a i => a + (if b i then 2 ^ i else 0)) 0

theorem bitSum_succ (b : Nat → Bool) (n : Nat) : bitSum b (n + 1) = 2 ^ n * (b n).toNat + bitSum b n := by
  cases h : b n <;> simp [bitSum, List.range_succ, h, Nat.add_comm]

theorem bitSum_lt (b : Nat → Bool) (n : Nat) : bitSum b n < 2 ^ n := by
  induction n with
  | zero => exact Nat.one_pos
  | succ n ih =>
    rw [bitSum_succ, Nat.pow_succ]
    cases b n <;> simp <;> omega

theorem testBit_bitSum (b : Nat → Bool) (n i : Nat) : (bitSum b n).testBit i = (decide (i < n) && b i) := by
  induction n with
  | zero => simp [bitSum]
  | succ n ih =>
    rw [bitSum_succ, Nat.testBit_two_pow_mul_add _ (bitSum_lt b n), ih]
    rcases Nat.lt_trichotomy i n with h | rfl | h
    · simp [h, Nat.lt_succ_of_lt h]
    · cases b i <;> simp
    · have : i - n ≠ 0 := by omega
      simp [Nat.not_lt.2 h.le, show ¬ i < n + 1 by omega, Nat.testBit_bool_toNat, this]

theorem two_pow_sub_two_pow {m n : Nat} (h : n ≤ m) : 2 ^ m - 2 ^ n = 2 ^ n * (2 ^ (m - n) - 1) := by
  rw [Nat.mul_sub, ← Nat.pow_add, Nat.mul_one, Nat.add_sub_cancel' h]

/-- Bit i of A as BFE reads it, at any index. -/
def fieldBit (sg : Bool) (a : Word) (i : Nat) : Bool := if i < 32 then a.getLsbD i else sg && a.getLsbD 31

theorem fieldBit_true (a : Word) (p : Nat) {i : Nat} (hi : i < 32) : fieldBit true a (p + i) = (a.sshiftRight p)[i] := by
  rw [BitVec.getElem_sshiftRight, fieldBit]
  split <;> rfl

theorem fieldBit_false (a : Word) (i : Nat) : fieldBit false a i = a.getLsbD i := by
  unfold fieldBit
  split
  case isTrue => rfl
  case isFalse h => exact (BitVec.getLsbD_of_ge a i (Nat.not_lt.1 h)).symm

theorem bfeW_eq (sg : Bool) (a b : Word) : bfeW sg a b =
    if fieldLen b = 0 then 0 else
      let v := bitSum (fun i => fieldBit sg a (fieldPos b + i)) (fieldLen b)
      BitVec.ofNat 32 (if sg && fieldBit sg a (fieldPos b + fieldLen b - 1) then v + (2 ^ 32 - 2 ^ fieldLen b) else v) := rfl

/-- The field's bits stand below its length, and under a sign its top bit above them. -/
theorem getElem_bfeW (sg : Bool) (a b : Word) {i : Nat} (hi : i < 32) : (bfeW sg a b)[i] =
    if i < fieldLen b then fieldBit sg a (fieldPos b + i)
    else decide (0 < fieldLen b) && (sg && fieldBit sg a (fieldPos b + fieldLen b - 1)) := by
  have hle := fieldLen_le b
  rw [bfeW_eq]
  generalize fieldLen b = len at *
  rcases Nat.eq_zero_or_pos len with rfl | hpos
  · simp
  · rw [if_neg hpos.ne', ← BitVec.getLsbD_eq_getElem, BitVec.getLsbD_ofNat]
    cases htop : sg && fieldBit sg a (fieldPos b + len - 1) with
    | false => by_cases h : i < len <;> simp [testBit_bitSum, hi, h]
    | true =>
      simp only [if_true, Nat.add_comm (bitSum _ _), two_pow_sub_two_pow hle, Nat.testBit_two_pow_mul_add _ (bitSum_lt _ _),
        testBit_bitSum, Nat.testBit_two_pow_sub_one]
      by_cases h : i < len
      · simp [hi, h]
      · have : i - len < 32 - len := by omega
        simp [hi, hpos, h, this]

/-- A shift left and an arithmetic shift back spread bit `len - 1` over the bits above it. -/
theorem getElem_shiftLeft_sshiftRight (a : Word) {len i : Nat} (hl : len ≤ 32) (hi : i < 32) :
    ((a <<< (32 - len)).sshiftRight (32 - len))[i] = if i < len then a[i] else decide (0 < len) && a.getLsbD (len - 1) := by
  rw [BitVec.getElem_sshiftRight]
  by_cases h : i < len
  · simp [h, show 32 - len + i < 32 by omega]
  · rw [dif_neg (by omega), if_neg h, BitVec.msb_eq_getLsbD_last, BitVec.getLsbD_shiftLeft]
    rcases Nat.eq_zero_or_pos len with rfl | hpos
    · rfl
    · simp [hpos, show ¬ 31 < 32 - len by omega, show 31 - (32 - len) = len - 1 by omega]

theorem bfeW_true (a b : Word) : bfeW true a b =
    let len := min (b.toNat / 256 % 256) 32
    ((a.sshiftRight (b.toNat % 256)) <<< (32 - len)).sshiftRight (32 - len) := by
  have hle := fieldLen_le b
  ext i hi
  rw [getElem_bfeW true a b hi, ← fieldLen_eq, ← fieldPos_eq, getElem_shiftLeft_sshiftRight _ hle hi, fieldBit_true a _ hi]
  rcases Nat.eq_zero_or_pos (fieldLen b) with h0 | hpos
  · simp [h0]
  · rw [Bool.true_and, Nat.add_sub_assoc hpos, fieldBit_true a _ (by omega), BitVec.getLsbD_eq_getElem (by omega)]

theorem bfeW_false (a b : Word) : bfeW false a b =
    (a >>> (b.toNat % 256)) &&& BitVec.ofNat 32 (2 ^ min (b.toNat / 256 % 256) 32 - 1) := by
  ext i hi
  rw [getElem_bfeW false a b hi, ← fieldLen_eq, ← fieldPos_eq, BitVec.getElem_and, BitVec.getElem_ushiftRight, fieldBit_false,
    ← BitVec.getLsbD_eq_getElem hi (x := BitVec.ofNat _ _), BitVec.getLsbD_ofNat, Nat.testBit_two_pow_sub_one]
  by_cases h : i < fieldLen b <;> simp [h, hi]

end Sys2Proof.Machine
end

section
/-! SUPPORT. The integer words of VINT and VINT.S (R143). -/

namespace Sys2Proof.Machine

open Sys2Proof

theorem intRule_of_vint {i j : Instr} {o : FDab} {c sat : Bool} {lat : Nat} {f g : Bool → Word → Word → Word → Word × Word}
    (hfg : ∀ sat a b c, f sat a b c = g sat a b c) (hi : ∀ s, exec i s = s.vint o c sat lat f)
    (hj : ∀ s, exec j s = s.vintS o c sat lat f) : IntRule i j o c sat lat g := by
  obtain rfl : f = g := by
    funext sat a b c
    exact hfg sat a b c
  exact ⟨vecRule_of_vop (f := fun e x => oneF x (f e.sat x.a0 x.b0 x.c)) hi,
    vecRule_of_vop (f := fun e x => oneF x (f e.sat x.a0 x.b0 x.c)) hj⟩

/-- A word of A and B that takes neither C nor SAT. -/
theorem intRule_of_binary {i j : Instr} {o : FDab} {lat : Nat} {f g : Word → Word → Word} (hfg : ∀ a b, f a b = g a b)
    (hi : ∀ s, exec i s = s.vint o false false lat (fun _ a b _ => (f a b, 0)))
    (hj : ∀ s, exec j s = s.vintS o false false lat (fun _ a b _ => (f a b, 0))) :
    IntRule i j o false false lat (fun _ a b _ => (g a b, 0)) :=
  intRule_of_vint (fun _ a b _ => congrArg (·, 0) (hfg a b)) hi hj

/-- Settles O17: each word is one form of vector word, and its exact result is the word that the statement writes. -/
theorem integerWords : Obligations.IntegerWords := by
  refine fun o => ⟨?iadd, ?isub, ?imul, ?imulhI, ?imulhN, ?imad, ?and, ?or, ?xor, ?shl, ?shr, ?sar, ?minI, ?minN, ?maxI, ?maxN⟩
  case iadd => exact intRule_of_vint (fun sat a b _ => intRes_add sat a b) (fun _ => rfl) (fun _ => rfl)
  case isub => exact intRule_of_vint (fun sat a b _ => intRes_sub sat a b) (fun _ => rfl) (fun _ => rfl)
  case imad => exact intRule_of_vint intRes_mul_add (fun _ => rfl) (fun _ => rfl)
  case imul | and | or | xor => exact intRule_of_binary (fun _ _ => rfl) (fun _ => rfl) (fun _ => rfl)
  case imulhI => exact intRule_of_binary mulhI_eq (fun _ => rfl) (fun _ => rfl)
  case imulhN => exact intRule_of_binary mulhN_eq (fun _ => rfl) (fun _ => rfl)
  case shl => exact intRule_of_binary shlW_eq (fun _ => rfl) (fun _ => rfl)
  case shr => exact intRule_of_binary shrW_eq (fun _ => rfl) (fun _ => rfl)
  case sar => exact intRule_of_binary sarW_eq (fun _ => rfl) (fun _ => rfl)
  case minI => exact intRule_of_binary minIW_eq (fun _ => rfl) (fun _ => rfl)
  case minN => exact intRule_of_binary minNW_eq (fun _ => rfl) (fun _ => rfl)
  case maxI => exact intRule_of_binary maxIW_eq (fun _ => rfl) (fun _ => rfl)
  case maxN => exact intRule_of_binary maxNW_eq (fun _ => rfl) (fun _ => rfl)

end Sys2Proof.Machine
end

section
/-! SUPPORT. The words of VBIT and VINT.I (R144, R145). -/

namespace Sys2Proof.Machine

open Sys2Proof

theorem unRule_of_vbit1 {i : Instr} {o : FDa} {f g : Word → Word} (hfg : ∀ a, f a = g a) (hi : ∀ s, exec i s = s.vbit1 o f) :
    UnRule i o g := by
  obtain rfl : f = g := funext hfg
  exact vecRule_of_vop (f := fun _ x => one x (f x.a0)) hi

theorem bitRule_of_vbit {i : Instr} {o : FDab} {kd ka kb : Nat} {c : Bool} {lat : Nat} {f g : LaneIn → List Word}
    (hfg : ∀ x, f x = g x) (hi : ∀ s, exec i s = s.vbit o kd ka kb c lat f) : BitRule i o kd ka kb c lat g := by
  obtain rfl : f = g := funext hfg
  exact vecRule_of_vop (f := fun _ x => { ws := f x, rng := x.rng }) hi

/-- A word whose lanes share a value of the issuing warp, its immediate, follows its rule. -/
theorem vecRule_of_vop_cx {i : Instr} {sw : Bool} {v : VOp} {f : Cx → FEnv → LaneIn → LaneOut}
    (hi : ∀ s, exec i s = s.runTarget sw (fun c s => c.vop s v (f c))) : VecRule i sw v (fun c _ p x => f c p.env x) := by
  intro s c p hcx hv _
  rw [hi]
  exact State.runTarget_ok hcx (Cx.vop_ok (f := f c) hv)

theorem vecRule_of_vinti {i : Instr} {o : FImm} {sat : Bool} {f g : Bool → Word → Word → Word × Word}
    (hfg : ∀ sat a b, f sat a b = g sat a b) (hi : ∀ s, exec i s = s.vinti o sat f) :
    VecRule i o.sw (.da o.d.toNat o.a.toNat (useInt false false sat) 4)
      (fun c _ p x => oneF x (g p.env.sat x.a0 (c.imm (o.i.signExtend 32)))) := by
  obtain rfl : f = g := by
    funext sat a b
    exact hfg sat a b
  exact vecRule_of_vop_cx (f := fun c e x => oneF x (f e.sat x.a0 (c.imm (o.i.signExtend 32)))) hi

/-- Settles O18: one-source words, words over register groups and words with an immediate, each with its result as a word. -/
theorem bitAndImmediateWords : Obligations.BitAndImmediateWords := by
  refine ⟨fun o => ⟨?popc, ?clz, ?brev⟩,
    fun o => ⟨?bfeI, ?bfeN, ?bfi, ?sel, ?prmt, ?andn, ?absd, ?iaddD, ?isubD, ?shlD, ?shrD, ?imulwI, ?imulwN⟩,
    fun o => ⟨?iaddi, ?andi, ?xori⟩, fun o => ?movi⟩
  case popc | brev => exact unRule_of_vbit1 (fun _ => rfl) (fun _ => rfl)
  case clz => exact unRule_of_vbit1 clzW_eq (fun _ => rfl)
  case bfeI => exact bitRule_of_vbit (fun x => congrArg ([·]) (bfeW_true x.a0 x.b0)) (fun _ => rfl)
  case bfeN => exact bitRule_of_vbit (fun x => congrArg ([·]) (bfeW_false x.a0 x.b0)) (fun _ => rfl)
  case bfi => exact bitRule_of_vbit (fun x => congrArg ([·]) (bfiW_eq x.a0 x.b0 x.c)) (fun _ => rfl)
  case sel | prmt | andn | iaddD | isubD => exact bitRule_of_vbit (fun _ => rfl) (fun _ => rfl)
  case absd => exact bitRule_of_vbit (fun x => congrArg ([·]) (ofNat_natAbs_sub x.a0 x.b0)) (fun _ => rfl)
  case shlD => exact bitRule_of_vbit (fun x => congrArg pairWords (shlD_eq (pairOf x.a) x.b0)) (fun _ => rfl)
  case shrD => exact bitRule_of_vbit (fun x => congrArg pairWords (shrD_eq (pairOf x.a) x.b0)) (fun _ => rfl)
  case imulwI => exact bitRule_of_vbit (fun x => congrArg pairWords (ofInt_mul_toInt x.a0 x.b0)) (fun _ => rfl)
  case imulwN => exact bitRule_of_vbit (fun x => congrArg pairWords (ofNat_mul_toNat x.a0 x.b0)) (fun _ => rfl)
  case iaddi => exact vecRule_of_vinti intRes_add (fun _ => rfl)
  case andi => exact vecRule_of_vinti (g := fun _ a i => (a &&& i, 0)) (fun _ _ _ => rfl) (fun _ => rfl)
  case xori => exact vecRule_of_vinti (g := fun _ a i => (a ^^^ i, 0)) (fun _ _ _ => rfl) (fun _ => rfl)
  case movi => exact vecRule_of_vop_cx (f := fun c _ x => one x (c.imm (o.i.signExtend 32))) fun _ => rfl

end Sys2Proof.Machine
end

section
/-! SUPPORT. Packed words and dot products of VH2 and VQ (R147, R148). -/

namespace Sys2Proof.Machine

open Sys2Proof

theorem packRule_of_vp {i : Instr} {o : FDab} {f : Fmt} {rnd c sat : Bool} {lat : Nat} {g : FEnv → Word → Nat → Nat → Nat → FRes}
    (hi : ∀ s, exec i s = s.vp o f rnd c sat lat g) : PackRule i o f rnd c sat lat g :=
  vecRule_of_vop (f := fun e x => packed f x (g e)) hi

theorem dotRule_of_vdot {i : Instr} {o : FDab} {f : Fmt} {lat : Nat} (hi : ∀ s, exec i s = s.vdot o f lat) : DotRule i o f lat :=
  vecRule_of_vop (f := fun e x => fone (fDot f .f32 e x.rng (subs f x.a0) (subs f x.b0) x.c.toNat)) hi

theorem byteRule_of_vqi {i : Instr} {o : FDab} {c sat : Bool} {f g : Bool → LaneIn → Word × Word} (hfg : ∀ sat x, f sat x = g sat x)
    (hi : ∀ s, exec i s = s.vqi o c sat f) : ByteRule i o c sat g := by
  obtain rfl : f = g := by
    funext sat x
    exact hfg sat x
  exact vecRule_of_vop (f := fun e x => oneF x (f e.sat x)) hi

theorem byteDot_nonneg (a b : Word) : 0 ≤ byteDot false a b := by
  simp only [byteDot, byteInts, bytesOf, List.map, List.zipWith, List.foldl, Bool.false_eq_true, if_false]
  positivity

theorem intRes_byteDot_add (sat : Bool) (a b c : Word) : intRes sat (byteDot true a b + c.toInt) =
    if sat then clampI32 (byteDot true a b + c.toInt) else (BitVec.ofInt 32 (byteDot true a b) + c, 0) :=
  intRes_of_ofInt (by rw [BitVec.ofInt_add, BitVec.ofInt_toInt]) sat

theorem ofNat_toNat_emod {n : Nat} (x : Int) : BitVec.ofNat n (x % 2 ^ n).toNat = BitVec.ofInt n x := (BitVec.ofNatLT_eq_ofNat _).symm

/-- An exact sum that is not negative can pass only the upper bound of N32. -/
theorem clampTo_of_nonneg (sat : Bool) {x : Int} (h : 0 ≤ x) : clampTo sat 32 0 (2 ^ 32 - 1) x =
    if sat ∧ 2 ^ 32 ≤ x then (2 ^ 32 - 1, flSAT) else ((x % 2 ^ 32).toNat, 0) := by
  cases sat with
  | false => rfl
  | true =>
    have : 2 ^ 32 - 1 < x ↔ 2 ^ 32 ≤ x := by omega
    simp only [clampTo, if_true, if_neg (Int.not_lt.2 h), this, true_and]
    rfl

theorem clampTo_byteDot_add (sat : Bool) (a b c : Word) :
    (let r := clampTo sat 32 0 (2 ^ 32 - 1) (byteDot false a b + c.toNat)
     ((BitVec.ofNat 32 r.1, r.2) : Word × Word)) =
    if sat ∧ 2 ^ 32 ≤ byteDot false a b + c.toNat then (0xFFFFFFFF, flSAT) else (BitVec.ofInt 32 (byteDot false a b) + c, 0) := by
  have hdot := byteDot_nonneg a b
  dsimp only
  rw [clampTo_of_nonneg sat (by omega), ← ofInt_add_toNat, ← ofNat_toNat_emod]
  split <;> rfl

/-- Settles O20: packed words and dot products by their forms, and the integer dot products as sums of words. -/
theorem packedWords : Obligations.PackedWords := by
  refine fun o => ⟨⟨?hadd, ?hsub, ?hmul, ?hfma, ?hmin, ?hmax, ?badd, ?bsub, ?bmul, ?bfma, ?bmin, ?bmax, ?hdot, ?bdot⟩,
    ⟨?addE4m3, ?subE4m3, ?mulE4m3, ?addE5m2, ?subE5m2, ?mulE5m2, ?maxE4m3, ?minE4m3, ?dotE4m3, ?dotE5m2, ?dotE2m1⟩,
    ?dotI8, ?dotN8, ?addI8, ?addN8, ?maxI8⟩
  case hadd | hsub | hmul | hfma | hmin | hmax => exact packRule_of_vp fun _ => rfl
  case badd | bsub | bmul | bfma | bmin | bmax => exact packRule_of_vp fun _ => rfl
  case addE4m3 | subE4m3 | mulE4m3 | addE5m2 | subE5m2 | mulE5m2 | maxE4m3 | minE4m3 => exact packRule_of_vp fun _ => rfl
  case hdot | bdot | dotE4m3 | dotE5m2 | dotE2m1 => exact dotRule_of_vdot fun _ => rfl
  case dotI8 => exact byteRule_of_vqi (fun sat x => intRes_byteDot_add sat x.a0 x.b0 x.c) (fun _ => rfl)
  case dotN8 => exact byteRule_of_vqi (fun sat x => clampTo_byteDot_add sat x.a0 x.b0 x.c) (fun _ => rfl)
  case addI8 | addN8 | maxI8 => exact byteRule_of_vqi (fun _ _ => rfl) (fun _ => rfl)

end Sys2Proof.Machine
end

section
/-! SUPPORT. The compares of VCMP and VCMP.S (R152). -/

namespace Sys2Proof.Machine

open Sys2Proof

theorem cmpRule_of_cmpop {i : Instr} {sw : Bool} {v : VOp} {md : Nat} {f : FEnv → LaneIn → Bool × Word}
    (hi : ∀ s, exec i s = s.runTarget sw (fun c s => c.cmpop s v md f)) : CmpRule i sw v md f := by
  intro s c p hcx hv
  rw [hi]
  have hok := Cx.cmpop_ok (f := f) hv
  exact State.runTarget_ok (body := fun c s => c.cmpop s v md f) hcx hok

theorem bne_eq_decide_ne (a b : Word) : (a != b) = decide (a ≠ b) := by rw [bne, beq_eq_decide, decide_not]

theorem intCmpRule_of_vcmp {i j : Instr} {o : FCmp} {f g : Word → Word → Bool} (hfg : ∀ a b, f a b = g a b)
    (hi : ∀ s, exec i s = s.vcmp o f) (hj : ∀ s, exec j s = s.vcmpS o f) : IntCmpRule i j o g := by
  obtain rfl : f = g := by
    funext a b
    exact hfg a b
  exact ⟨cmpRule_of_cmpop hi, cmpRule_of_cmpop hj⟩

theorem floatCmpRule_of_vfcmp {i j : Instr} {o : FCmp} {inv : Bool} {p : FVal → FVal → Bool → Bool}
    (hi : ∀ s, exec i s = s.vfcmp o inv p) (hj : ∀ s, exec j s = s.vfcmpS o inv p) : FloatCmpRule i j o inv p :=
  ⟨cmpRule_of_cmpop hi, cmpRule_of_cmpop hj⟩

/-- Settles O21: both forms of every compare run one condition over the lanes. -/
theorem compareWords : Obligations.CompareWords := by
  refine fun o => ⟨?eq, ?ne, ?ltI, ?leI, ?ltN, ?leN, ?tstz, ?tstnz, ?feq, ?fne, ?flt, ?fle, ?funo, ?ford⟩
  case eq => exact intCmpRule_of_vcmp (fun _ _ => beq_eq_decide _ _) (fun _ => rfl) (fun _ => rfl)
  case ne => exact intCmpRule_of_vcmp (fun _ _ => bne_eq_decide_ne _ _) (fun _ => rfl) (fun _ => rfl)
  case ltI | leI | ltN | leN => exact intCmpRule_of_vcmp (fun _ _ => rfl) (fun _ => rfl) (fun _ => rfl)
  case tstz => exact intCmpRule_of_vcmp (fun _ _ => beq_eq_decide _ _) (fun _ => rfl) (fun _ => rfl)
  case tstnz => exact intCmpRule_of_vcmp (fun _ _ => bne_eq_decide_ne _ _) (fun _ => rfl) (fun _ => rfl)
  case feq | fne | flt | fle | funo | ford => exact floatCmpRule_of_vfcmp (fun _ => rfl) (fun _ => rfl)

end Sys2Proof.Machine
end

section
/-! SUPPORT. The scalar words of SALU and SALU.I (R158, R159). -/

namespace Sys2Proof.Machine

open Sys2Proof

theorem scalarRule_of_sop {i : Instr} {sw : Bool} {srcs : List Nat} {outs : Cx → State → List (Nat × Word)}
    (hi : ∀ s, exec i s = s.runTarget sw (fun c s => c.sop s 3 srcs (outs c s))) : ScalarRule i sw srcs outs := by
  intro s c hs hf
  rw [hi]
  exact State.runTarget_ok hs.1 (Cx.sop_ok hs.2 hf)

theorem scalarRule_of_salu {i : Instr} {o : FDab} {f g : Word → Word → Word} (hfg : ∀ a b, f a b = g a b)
    (hi : ∀ s, exec i s = s.salu o f) : ScalarRule i o.sw [o.a.toNat, o.b.toNat]
      (fun c s => [(o.d.toNat, g (c.readS s o.a.toNat) (c.readS s o.b.toNat))]) := by
  obtain rfl : f = g := by
    funext a b
    exact hfg a b
  exact scalarRule_of_sop hi

theorem scalarRule_of_salui {i : Instr} {o : FImm} {f g : Word → Word → Word} (hfg : ∀ a b, f a b = g a b)
    (hi : ∀ s, exec i s = s.salui o f) : ScalarRule i o.sw [o.a.toNat]
      (fun c s => [(o.d.toNat, g (c.readS s o.a.toNat) (c.imm (o.i.signExtend 32)))]) := by
  obtain rfl : f = g := by
    funext a b
    exact hfg a b
  exact scalarRule_of_sop hi

theorem scmp_eq (a b : Word) : (if a.slt b then 0xFFFFFFFF else if a = b then 0 else 1 : Word) =
    if a.toInt < b.toInt then 0xFFFFFFFF else if a = b then 0 else 1 := by
  simp only [BitVec.slt_iff_toInt_lt]

theorem exec_ssel (o : FDab) (s : State) : exec (.ssel o) s = s.runTarget o.sw (fun c s => c.sop s 3 [o.a.toNat, o.b.toNat]
    [(o.d.toNat, if c.readS s o.d.toNat = 0 then c.readS s o.b.toNat else c.readS s o.a.toNat)]) := by
  have hsel (x y z : Word) : (if x = 0 then z else y) = if x != 0 then y else z := by simp
  simp only [hsel]
  rfl

/-- Settles O25: each word runs one scalar operation over its S registers, with its result as a word. -/
theorem scalarWords : Obligations.ScalarWords := by
  refine ⟨fun o => ?salu, fun o => ?salui, fun o => scalarRule_of_sop fun _ => rfl⟩
  case salu =>
    intro r
    have hr {i f g} (hfg : ∀ a b, f a b = g a b) (hi : ∀ s, exec i s = s.salu o f) : r i g := scalarRule_of_salu hfg hi
    clear_value r
    refine ⟨?sadd, ?ssub, ?smul, ?sand, ?sor, ?sxor, hr shlW_eq fun _ => rfl, hr shrW_eq fun _ => rfl, hr sarW_eq fun _ => rfl,
      hr minIW_eq fun _ => rfl, hr maxIW_eq fun _ => rfl, hr minNW_eq fun _ => rfl, hr maxNW_eq fun _ => rfl,
      hr scmp_eq fun _ => rfl, scalarRule_of_sop fun _ => rfl, scalarRule_of_sop (exec_ssel o)⟩
    case sadd | ssub | smul | sand | sor | sxor => exact hr (fun _ _ => rfl) fun _ => rfl
  case salui =>
    intro r
    have hr {i f g} (hfg : ∀ a b, f a b = g a b) (hi : ∀ s, exec i s = s.salui o f) : r i g := scalarRule_of_salui hfg hi
    clear_value r
    exact ⟨hr (fun _ _ => rfl) fun _ => rfl, hr (fun _ _ => rfl) fun _ => rfl, hr shlW_eq fun _ => rfl⟩

end Sys2Proof.Machine
end

section
/-! SUPPORT. The key words (R184, R186 to R194). -/

namespace Sys2Proof.Machine

open Sys2Proof

theorem scopeOfCode_of_five_lt {n : Nat} (h : 5 < n) : scopeOfCode n = none := by
  obtain ⟨k, rfl⟩ := Nat.exists_eq_add_of_lt h
  rw [Nat.add_right_comm, Nat.add_comm]
  rfl

/-- What KDEF leaves in its register: the produce key above the consume key (R189). -/
theorem append_key_setWidth (p c : BitVec 4) : (p ++ c).setWidth 32 = BitVec.ofNat 32 (16 * p.toNat + c.toNat) := by
  refine BitVec.eq_of_toNat_eq ?_
  rw [BitVec.toNat_setWidth, BitVec.toNat_append, ← Nat.shiftLeft_add_eq_or_of_lt c.isLt, Nat.shiftLeft_eq, Nat.mul_comm,
    BitVec.toNat_ofNat]

section
variable {s : State} {c : Cx} (hs : s.bare c)
include hs

/-- A word whose body traps right after it has found that no XP stands before it (R53). -/
theorem State.runTarget_traps {sw : Bool} {body : Cx → State → Except Stop (State × Flow)}
    {k : Unit → Except Stop (State × Flow)} {t : TrapInfo} (hb : body c s = c.noXp >>= k) (hk : k () = .error (.trap t)) :
    s.runTarget sw body = .next (s.raise c t) := by
  refine State.runTarget_trap hs.1 ?_
  rw [hb, Cx.noXp_of_none hs.2]
  exact hk

/-! KSCOPE (R188). -/

theorem execKscope_sets {o : FKscope} {sc : Scope} (hsc : scopeOfCode (c.imm (o.o.setWidth 32)).toNat = some sc) (h0 : o.d ≠ 0)
    (h15 : o.d ≠ 15) (hk : (c.w.key o.d.toNat).drained = true) :
    execKscope o s = .next ((s.modWarp c.uid (fun w => w.setKey o.d.toNat { w.key o.d.toNat with scope := sc })).closeGroup
      c o.sw .next) := by
  have hd : (decide (o.d.toNat = 0) || decide (o.d.toNat = 15)) = false := by
    simpa [← BitVec.toNat_inj] using And.intro h0 h15
  refine State.runTarget_ok hs.1 ?_
  simp only [Cx.noXp_of_none hs.2, hsc, hd, hk, bind, Except.bind, Bool.not_true, Bool.false_eq_true, if_false]

theorem execKscope_ill {o : FKscope} (h : 5 < (c.imm (o.o.setWidth 32)).toNat ∨ o.d = 0 ∨ o.d = 15) :
    execKscope o s = .next (s.raise c { cause := 0x01 }) := by
  refine State.runTarget_trap hs.1 ?_
  simp only [Cx.noXp_of_none hs.2, bind, Except.bind]
  cases hsc : scopeOfCode (c.imm (o.o.setWidth 32)).toNat with
  | none => rfl
  | some sc =>
    have hd : o.d = 0 ∨ o.d = 15 := h.resolve_left fun h5 => by cases (scopeOfCode_of_five_lt h5).symm.trans hsc
    have hd : (decide (o.d.toNat = 0) || decide (o.d.toNat = 15)) = true := by
      rcases hd with hd | hd <;> simp [hd]
    simp only [hd, if_true]
    rfl

/-! KDEF and KFORK (R172, R189, R190). -/

theorem execKdef_sets {o : FKdef} (hp : o.p ≠ 15) (hf : c.w.id.mode = .interlocked → c.free s [.kdef]) :
    execKdef o s = .next ((s.modWarp c.uid (fun w =>
      { w with ctl := { w.ctl with kdef := BitVec.ofNat 32 (16 * o.p.toNat + o.c.toNat) }
               iss := { w.iss with outstanding := w.iss.outstanding.map Result.noKdef } })).closeGroup c o.sw .next) := by
  have ht : c.touch s (if c.w.id.mode == .interlocked then [RegName.kdef] else []) = .ok () := by
    split
    next h => exact hf (beq_iff_eq.1 h)
    next => exact Cx.touch_nil c s
  refine State.runTarget_ok hs.1 ?_
  simp only [Cx.noXp_of_none hs.2, hp, ht, append_key_setWidth, bind, Except.bind, if_false]

theorem execKdef_all {o : FKdef} (hp : o.p = 15) : execKdef o s = .next (s.raise c { cause := 0x0B }) :=
  State.runTarget_traps hs rfl (if_pos hp)

theorem execKfork_ok {o : FKdef} {d : Dep} {s1 : State} (hp : o.p ≠ 15) (hc : c.consume s o.c.toNat = .ok (d, s1)) :
    execKfork o s = .next ((if o.p = 0 then s1
      else s1.modWarp c.uid (fun w => w.setKey o.p.toNat { w.key o.p.toNat with inh := d })).closeGroup c o.sw .next) := by
  refine State.runTarget_ok hs.1 ?_
  simp only [Cx.noXp_of_none hs.2, hp, hc, bind, Except.bind, if_false]

theorem execKfork_all {o : FKdef} (hp : o.p = 15) : execKfork o s = .next (s.raise c { cause := 0x0B }) :=
  State.runTarget_traps hs rfl (if_pos hp)

/-! KJOIN (R172, R190). -/

theorem execKjoin_ok {o : FKjoin} {da db d : Dep} {wa wb w : Warp} (hp : o.d ≠ 15)
    (ha : c.w.consume (s.lates c.uid) o.a.toNat = some (da, wa)) (hb : wa.consume (s.lates c.uid) o.b.toNat = some (db, wb))
    (hm : wb.merge (s.lates c.uid) da db = some (d, w)) :
    execKjoin o s = .next ((s.putWarp c.uid
      (if o.d = 0 then w else w.setKey o.d.toNat { w.key o.d.toNat with inh := d })).closeGroup c o.sw .next) := by
  refine State.runTarget_ok hs.1 ?_
  simp only [Cx.noXp_of_none hs.2, hp, State.warp_of_cx hs.1, ha, hb, hm, bind, Except.bind, if_false]

theorem execKjoin_all {o : FKjoin} (hp : o.d = 15) : execKjoin o s = .next (s.raise c { cause := 0x0B }) :=
  State.runTarget_traps hs rfl (if_pos hp)

/-! KWAIT and KPOLL (R184, R191, R194). -/

section
variable {o : FKwait} {d : Dep} {s1 : State} (hc : c.consume s o.c.toNat = .ok (d, s1))
include hc

theorem execKwait_passes (hd : s1.depOk c.uid d = true) (hr : (s1.warp c.uid).due (c.w.covers o.c.toNat) = none) :
    execKwait o s = .next (s1.closeGroup c o.sw .next) := by
  simp only [execKwait, hs.1, Cx.noXp_of_none hs.2, hc, hd, hr, State.settle, Bool.not_true, Bool.false_eq_true, if_false]

theorem execKwait_parks (hd : s1.depOk c.uid d = false) : execKwait o s = .next (s1.parkWarp c.uid .keyWait) := by
  simp only [execKwait, hs.1, Cx.noXp_of_none hs.2, hc, hd, State.settle, Bool.not_false, if_true]

end

theorem execKpoll_gives {o : FKs} (hd : c.w.due (fun r => c.w.covers o.k.toNat r) = none) (hf : c.free s [.s o.s.toNat]) :
    execKpoll o s = .next ((s.afterS c 4 [(o.s.toNat, if c.w.pollOk o.k.toNat then 1 else 0)]).closeGroup c o.sw .next) := by
  unfold Cx.free at hf
  refine (State.runReporting_of_none_due hs hd).trans ?_
  simp only [Cx.noXp_of_none hs.2, hf, bind, Except.bind]
  rfl

/-! KSEND (R181, R192). -/

section
variable {o : FKsend}

/-- The chime that KSEND queues: target, grid and tag from its three S registers, grid 0 for its own (R192). -/
def Cx.chime (c : Cx) (s : State) (o : FKsend) (d : Dep) (m : Nat) : Chime :=
  let t := c.readS s o.s.toNat
  let g := (c.readS s (o.s.toNat + 1)).toNat
  { uid := c.uid, ctx := c.ctx, target := t, grid := if g = 0 then c.w.id.grid else g
    tag := c.readS s (o.s.toNat + 2), sender := s.chimeName c.w, dep := d, mem := some m
    remote := !t.getLsbD 21 && t.toNat / 2 ^ 22 != s.fab.device }

theorem execKsend_ill (h : 61 < o.s.toNat) : execKsend o s = .next (s.raise c { cause := 0x01 }) :=
  State.runTarget_traps hs rfl (if_pos h)

variable (ho : o.s.toNat ≤ 61) (hp : o.p ≠ 15) (hf : c.free s [.s o.s.toNat, .s (o.s.toNat + 1), .s (o.s.toNat + 2)])
include ho hp hf

theorem execKsend_parks (hq : 4 ≤ c.w.kf.sendq.length) : execKsend o s = .next (s.parkWarp c.uid .keyWait) := by
  unfold Cx.free at hf
  refine State.runTarget_park hs.1 ?_
  simp only [Cx.noXp_of_none hs.2, Nat.not_lt.2 ho, hp, hf, hq, bind, Except.bind, if_true, if_false]

theorem execKsend_queues {d : Dep} {m : Nat} {s1 : State} (hq : c.w.kf.sendq.length < 4)
    (hk : c.keys s o.c.toNat o.p.toNat = .ok (d, m, s1)) :
    execKsend o s = .next ((((s1.outward c.core c.ctx [o.c.toNat, o.p.toNat, (c.readS s o.s.toNat).toNat,
      (c.readS s (o.s.toNat + 1)).toNat, (c.chime s o d m).tag.toNat]).modWarp c.uid
        (fun w => { w with kf := { w.kf with sendq := w.kf.sendq ++ [c.chime s o d m] } })).post (.chimeLeave c.uid)).closeGroup
          c o.sw .next) := by
  unfold Cx.free at hf
  refine State.runTarget_ok hs.1 ?_
  simp only [Cx.noXp_of_none hs.2, Nat.not_lt.2 ho, hp, hf, Nat.not_le.2 hq, hk, bind, Except.bind, if_false]
  rfl

end

/-! KRECV (R182, R193). -/

section
variable {o : FKs} (hp : o.k ≠ 15) (hf : c.free s [.s o.s.toNat, .s (o.s.toNat + 1)])
include hp hf

theorem execKrecv_parks (hq : 8 ≤ c.w.kf.claims.length) : execKrecv o s = .next (s.parkWarp c.uid .keyWait) := by
  unfold Cx.free at hf
  refine State.runTarget_park hs.1 ?_
  simp only [Cx.noXp_of_none hs.2, hp, hf, hq, bind, Except.bind, if_true, if_false]

theorem execKrecv_claims {m : Nat} {s1 : State} (hq : c.w.kf.claims.length < 8) (hk : c.produce s o.k.toNat true = .ok (m, s1)) :
    execKrecv o s = .next (((((s1.modWarp c.uid (fun w => { w with kf := { w.kf with
      claims := w.kf.claims ++ [{ id := m, sd := o.s.toNat, mem := some m }] } })).statusPend c.uid (.claim m)
        (.s o.s.toNat)).statusPend c.uid (.claim m) (.s (o.s.toNat + 1))).serveClaims c.uid 8).closeGroup c o.sw .next) := by
  unfold Cx.free at hf
  refine State.runTarget_ok hs.1 ?_
  simp only [Cx.noXp_of_none hs.2, hp, hf, Nat.not_le.2 hq, hk, bind, Except.bind, if_false]

end

end

/-- Settles O29: every word's conditions decide the branches of its body, which then runs to its end. -/
theorem keyWords : Obligations.KeyWords := by
  intro s c hs
  refine ⟨fun o => ⟨fun sc hsc => execKscope_sets hs hsc, execKscope_ill hs⟩, fun o => ⟨execKdef_sets hs, execKdef_all hs⟩,
    fun o => ⟨fun d s1 hp h0 hc => ?fork, fun d s1 h0 hc => ?forkNone, execKfork_all hs⟩,
    fun o => ⟨fun da wa db wb d w hp h0 ha hb hm => ?join, fun da wa db wb d w h0 ha hb hm => ?joinNone, execKjoin_all hs⟩,
    fun o d s1 hc => ⟨execKwait_passes hs hc, execKwait_parks hs hc⟩, fun o => execKpoll_gives hs⟩
  case fork => exact (execKfork_ok hs hp hc).trans (by rw [if_neg h0])
  case forkNone => exact (execKfork_ok hs (by simp [h0]) hc).trans (by rw [if_pos h0])
  case join => exact (execKjoin_ok hs hp ha hb hm).trans (by rw [if_neg h0])
  case joinNone => exact (execKjoin_ok hs (by simp [h0]) ha hb hm).trans (by rw [if_pos h0])

/-- Settles O30: the length of the queue, or of the claims, decides whether the word parks or goes on with its keys. -/
theorem chimeWords : Obligations.ChimeWords := by
  intro s c hs
  exact ⟨fun o ho hp hf => ⟨execKsend_parks hs ho hp hf, fun d m s1 => execKsend_queues hs ho hp hf⟩,
    fun o => execKsend_ill hs,
    fun o hp hf => ⟨execKrecv_parks hs hp hf, fun m s1 => execKrecv_claims hs hp hf⟩⟩

end Sys2Proof.Machine
end

section
/-! SUPPORT. Rings of generations (R166, R170, R171). -/

namespace Sys2Proof

theorem findIx_append_of_not {α : Type} {p : α → Bool} {pre : List α} (h : ∀ x ∈ pre, ¬p x = true) (post : List α) (n : Nat) :
    findIx p (pre ++ post) n = findIx p post (n + pre.length) := by
  induction pre generalizing n with
  | nil => rfl
  | cons y t ih =>
    have hy : ¬p y = true := h y List.mem_cons_self
    rw [List.cons_append, findIx, if_neg hy, ih fun x hx => h x (List.mem_cons_of_mem _ hx), List.length_cons]
    congr 1
    omega

end Sys2Proof

namespace Sys2Proof.Machine

open Sys2Proof

/-- A ring whose one OPEN slot `g` stands between slots that are not OPEN. -/
def OpenAt (ring pre : List GenSlot) (g : GenSlot) (post : List GenSlot) : Prop :=
  ring = pre ++ g :: post ∧ g.st = .opened ∧ ∀ h ∈ pre ++ post, h.st ≠ .opened

theorem exists_openAt_iff (ring : List GenSlot) :
    (ring.filter (fun g => g.st == .opened)).length = 1 ↔ ∃ pre g post, OpenAt ring pre g post := by
  constructor
  · intro h
    obtain ⟨g, hg⟩ := List.length_eq_one_iff.1 h
    obtain ⟨pre, post, hr, hpre, ho, hpost⟩ := List.filter_eq_cons_iff.1 hg
    refine ⟨pre, g, post, hr, beq_iff_eq.1 ho, fun x hx hxo => ?_⟩
    rcases List.mem_append.1 hx with hx | hx
    · exact hpre x hx (beq_iff_eq.2 hxo)
    · exact List.filter_eq_nil_iff.1 hpost x hx (beq_iff_eq.2 hxo)
  · rintro ⟨pre, g, post, rfl, ho, hn⟩
    have none {l : List GenSlot} (hl : ∀ h ∈ l, h ∈ pre ++ post) : l.filter (fun g => g.st == .opened) = [] :=
      List.filter_eq_nil_iff.2 fun x hx hxo => hn x (hl x hx) (beq_iff_eq.1 hxo)
    rw [List.filter_append, List.filter_cons_of_pos (p := fun g : GenSlot => g.st == .opened) (beq_iff_eq.2 ho),
      none fun _ => List.mem_append_left _, none fun _ => List.mem_append_right _]
    rfl

theorem Key.open1_of_openAt {x : Key} {pre post : List GenSlot} {g : GenSlot} (h : OpenAt x.ring pre g post) :
    x.open1 = (pre.length, g) := by
  obtain ⟨hr, ho, hn⟩ := h
  have hpre : ∀ y ∈ pre, ¬(y.st == .opened) = true := fun y hy hyo => hn y (List.mem_append_left _ hy) (beq_iff_eq.1 hyo)
  simp [Key.open1, hr, findIx_append_of_not hpre, findIx, ho]

theorem GenSlot.holds_of_opened {g : GenSlot} (h : g.st = .opened) : g.holds true = true ↔ g.members ≠ 0 ∨ g.claims ≠ 0 := by
  simp [GenSlot.holds, h]

section
variable {x y : Key} {i : Nat} {g : GenSlot} (ho : x.open1 = (i, g))
include ho

theorem Key.seal_of_empty (h : g.holds true = false) : x.seal = some x := by
  simp [Key.seal, ho, h]

/-- A key whose OPEN generation has members is sealed into the slot after it. -/
theorem Key.of_seal (hh : g.holds true = true) (h : x.seal = some y) :
    y = { x with ring := setAt (setAt x.ring i { g with st := .sealed }) ((i + 1) % 4) { st := .opened, seq := g.seq + 1 } } := by
  simp only [Key.seal, ho, hh, Bool.not_true, Bool.false_eq_true, if_false] at h
  split at h
  next => exact (Option.some.inj h).symm
  next => cases h

end

/-- Sealing a ring of four slots leaves the OPEN one SEALED, and the next one, cyclically, OPEN. -/
theorem openAt_seal {ring pre post : List GenSlot} {g : GenSlot} (h : OpenAt ring pre g post) (h4 : ring.length = 4) (n : GenSlot)
    (hn : n.st = .opened) : ∃ pre' post',
      OpenAt (setAt (setAt ring pre.length { g with st := .sealed }) ((pre.length + 1) % 4) n) pre' n post' ∧
      { g with st := .sealed } ∈ pre' ++ post' := by
  obtain ⟨rfl, ho, hno⟩ := h
  simp only [List.length_append, List.length_cons] at h4
  rw [setAt_eq_set, setAt_eq_set, List.set_append_right _ _ (Nat.le_refl _), Nat.sub_self, List.set_cons_zero]
  cases post with
  | cons b post =>
    have hi : (pre.length + 1) % 4 = pre.length + 1 := Nat.mod_eq_of_lt (by simp at h4; omega)
    refine ⟨pre ++ [{ g with st := .sealed }], post, ⟨?_, hn, ?_⟩, by simp⟩
    · rw [hi, List.set_append_right _ _ (by omega)]
      simp
    · intro k hk
      simp only [List.append_assoc, List.mem_append, List.mem_cons, List.not_mem_nil, or_false] at hk
      rcases hk with hk | rfl | hk
      · exact hno k (by simp [hk])
      · simp
      · exact hno k (by simp [hk])
  | nil =>
    have hi : (pre.length + 1) % 4 = 0 := by simp at h4; omega
    cases pre with
    | nil => simp at h4
    | cons b pre =>
      refine ⟨[], pre ++ [{ g with st := .sealed }], ⟨?_, hn, ?_⟩, by simp⟩
      · rw [hi]
        rfl
      · intro k hk
        simp only [List.nil_append, List.mem_append, List.mem_singleton] at hk
        rcases hk with hk | rfl
        · exact hno k (by simp [hk])
        · simp

/-- Settles O31: the ring is cut at its OPEN slot, before the seal and after it. -/
theorem sealedGenerations : Obligations.SealedGenerations := by
  intro x y h4 h1 hy
  obtain ⟨pre, g, post, hx⟩ := (exists_openAt_iff _).1 h1
  have ho := Key.open1_of_openAt hx
  have hholds := GenSlot.holds_of_opened hx.2.1
  simp only [ho]
  cases hh : g.holds true with
  | false =>
    cases (Key.seal_of_empty ho hh).symm.trans hy
    exact ⟨h4, h1, rfl, rfl, fun _ _ => rfl, fun h => absurd (hholds.2 h) (by simp [hh])⟩
  | true =>
    obtain ⟨pre', post', hy', hmem⟩ := openAt_seal hx h4 { st := .opened, seq := g.seq + 1 } rfl
    have hyx := Key.of_seal ho hh hy
    have hring := (congrArg Key.ring hyx).trans hy'.1
    have ho' := Key.open1_of_openAt (x := y) ⟨hring, hy'.2⟩
    refine ⟨by simp [hyx, setAt_eq_set, h4], (exists_openAt_iff _).2 ⟨pre', _, post', hring, hy'.2⟩, by rw [hyx], by rw [hyx],
      fun hm hc => absurd (hholds.1 hh) (by simp [hm, hc]), fun _ => ⟨by simp only [Key.seq, ho', ho], ?_, by rw [ho'], by rw [ho']⟩⟩
    rw [hring]
    exact List.mem_append.2 ((List.mem_append.1 hmem).imp_right (List.mem_cons_of_mem _))

end Sys2Proof.Machine
end

section
/-! SUPPORT. A store at its home (R173): what it leaves of memory and of everything else. -/

namespace Sys2Proof.Machine

open Sys2Proof

/-- Each of several bytes reads as it was written. -/
theorem Memory.read_writeN_in {m : List Host.Cell} (h : Memory.wf m = true) {a k : Nat} {l : List Byte} (hk : k < l.length) :
    Memory.read (Memory.writeN m a l) (a + k) = l[k]?.getD 0 := by
  induction l generalizing m a k with
  | nil => cases hk
  | cons b t ih =>
    cases k with
    | zero =>
      rw [Nat.add_zero, Memory.writeN, Memory.read_writeN_out _ t (.inl a.lt_succ_self), Memory.read_write_self h]
      rfl
    | succ k =>
      rw [show a + (k + 1) = a + 1 + k by omega]
      exact ih (Memory.wf_write h a b) (Nat.lt_of_succ_lt_succ hk)

theorem State.storeUnit_store {s : State} {o : Op} {u : MUnit} {pa : Nat} (hu : u.tgt = .dev pa) (hk : o.kind = .store) :
    s.storeUnit o u = s.homeWrite pa u.data := by
  simp only [State.storeUnit, hu, hk]
  rfl

theorem State.homeWrite_mem {s : State} (h : s.partials = []) (pa : Nat) (l : List Byte) (poison : Bool) :
    (s.homeWrite pa l poison).mem = Memory.writeN s.mem pa l := by
  simp only [State.homeWrite, State.spoil_mem, State.setBad_mem, State.mergeAt_of_no_partials h]
  rfl

/-- Settles O49: with no RED line to merge the home's write is a write of the bytes, and changes nothing else of the state. -/
theorem storeFrame : Obligations.StoreFrame := by
  intro s o u pa hu hk hm hp
  have hframe := State.sameBut_homeWrite s pa u.data false
  rw [State.storeUnit_store hu hk]
  rw [State.homeWrite_mem hp]
  refine ⟨fun a ha => Memory.read_writeN_out s.mem u.data ha, fun k hk => Memory.read_writeN_in hm.1 hk, ?_, ?_, ?_⟩ <;>
    rw [hframe]

end Sys2Proof.Machine
end

section
/-! SUPPORT. Chimes on their way (R181 to R183, R192, R310). -/

namespace Sys2Proof.Machine

open Sys2Proof

/-! The send queue (R181, R192). -/

section
variable {s : State} {u : Nat} {w : Warp} {k : Chime} {rest : List Chime} (hw : s.warps.get? u = some w)
  (hq : w.kf.sendq = k :: rest)
include hw hq

theorem execChimeLeave_waits (hd : s.depOk u k.dep = false) : execChimeLeave u s = .next (s.post (.chimeLeave u)) := by
  simp only [execChimeLeave, hw, hq, hd, Bool.not_false, Bool.or_true, if_true]
  rfl

/-- A chime that may leave, for a target on this device with room, is on its way and out of its queue. -/
theorem execChimeLeave_leaves {v : Nat} {t : Warp} (hh : w.here = true) (hout : k.out = false) (hr : k.remote = false)
    (hd : s.depOk u k.dep = true) (hc : s.coverOk u k.dep = true)
    (ht : s.chimeTarget k.ctx k.grid k.target k.tag = some (v, t)) (hroom : t.kf.inbox.length + s.coming v < 8) :
    execChimeLeave u s = .next (State.post { s.newId.2.putWarp u { w with kf := { w.kf with sendq := rest } } with
      chimes := s.chimes.set s.fresh k } (.chimeInboxArrival s.fresh)) := by
  simp only [execChimeLeave, hw, hq, hh, hout, hr, hd, hc, ht, Nat.not_le.2 hroom, Bool.not_true, Bool.or_self, Bool.and_false,
    Bool.false_eq_true, if_false]
  rfl

end

/-! The inbox (R181 to R183). -/

/-- The member that a chime holds, if it holds one, leaves by its event (R169). -/
def State.postLeave (s : State) (m : Option Nat) : State := m.elim s fun m => s.post (.memberLeave m)

theorem State.postLeave_eq (s : State) (m : Option Nat) :
    s.postLeave m = match m with | some m => s.post (.memberLeave m) | none => s := by
  cases m <;> rfl

section
variable {s : State} {id : Nat} {k : Chime} (hk : s.chimes.get? id = some k)
include hk

theorem execChimeDiscard_counts : execChimeDiscard id s =
    .next ((State.bumpHdr { s with chimes := s.chimes.erase id } k.ctx 40 1).postLeave k.mem) := by
  simp only [execChimeDiscard, hk]
  cases k.mem <;> rfl

theorem execChimeInboxArrival_enters {v : Nat} {t : Warp} (ht : s.chimeTarget k.ctx k.grid k.target k.tag = some (v, t))
    (hp : t.id.place.isSome = true)
    (hfirst : ∀ i j, (i, j) ∈ s.chimes → i < id → j.uid = k.uid → j.remote = false →
      (s.chimeTarget j.ctx j.grid j.target j.tag).map Prod.fst ≠ some v) :
    execChimeInboxArrival id s =
      .next ((State.inbox { s with chimes := s.chimes.erase id } v
        (BitVec.ofNat 32 (k.tag.toNat % 2 ^ 16 + s.teamIndex (s.warp k.uid) / 2 ^ 16 * 2 ^ 16)) k.sender).postLeave k.mem) := by
  have hall : (s.chimes.all fun kv => !(decide (kv.1 < id) && kv.2.uid == k.uid && !kv.2.remote &&
      (s.chimeTarget kv.2.ctx kv.2.grid kv.2.target kv.2.tag).map Prod.fst == some v)) = true := by
    refine List.all_eq_true.2 fun kv hkv => Bool.not_eq_true' _ ▸ Bool.eq_false_iff.2 fun h => ?_
    simp only [Bool.and_eq_true, decide_eq_true_eq, beq_iff_eq, Bool.not_eq_true'] at h
    obtain ⟨⟨⟨hi, hu⟩, hr⟩, hv⟩ := h
    exact hfirst kv.1 kv.2 hkv hi hu hr hv
  have hn : t.id.place.isNone = false := by rw [← Option.not_isSome, hp]; rfl
  simp only [execChimeInboxArrival, hk, ht, hall, hn, Bool.not_true, Bool.or_self, Bool.false_eq_true, if_false]
  cases k.mem <;> rfl

end

/-! The CHIME message (R310). -/

section
variable {s : State} {m : Msg} {v : Nat} {t : Warp}
  (ht : s.chimeTarget (s.chan m.ch).ctx (nth m.words 2 0).toNat (nth m.words 1 0) (nth m.words 5 0) = some (v, t))
include ht

theorem execChimeMsg_enters (hp : t.id.place.isSome = true) (hroom : t.kf.inbox.length + s.coming v < 8) :
    execChimeMsg m s = .next (s.inbox v
      (BitVec.ofNat 32 ((nth m.words 5 0).toNat % 2 ^ 16 + (nth m.words 6 0).toNat % 2 ^ 16 * 2 ^ 16)) (nth m.words 3 0)) := by
  have hn : t.id.place.isNone = false := by rw [← Option.not_isSome, hp]; rfl
  simp only [execChimeMsg, State.takeChime, ht, hn, decide_eq_false (Nat.not_le.2 hroom), Bool.or_self, Bool.false_eq_true,
    if_false]
  rfl

theorem execChimeMsg_waits (h : t.id.place = none ∨ 8 ≤ t.kf.inbox.length + s.coming v) :
    execChimeMsg m s = .next (s.post (.chimeMsg m)) := by
  have hn : (t.id.place.isNone || decide (8 ≤ t.kf.inbox.length + s.coming v)) = true := by
    simpa only [Bool.or_eq_true, Option.isNone_iff_eq_none, decide_eq_true_eq] using h
  simp only [execChimeMsg, State.takeChime, ht, hn, if_true]
  rfl

end

/-- Settles O47: a chime's way is its send queue, then the inbox of its target or the count of those discarded. -/
theorem chimeEvents : Obligations.ChimeEvents := by
  intro s
  refine ⟨fun u w k rest v t hw hq hh hout hr hd hc ht hroom =>
      ⟨_, execChimeLeave_leaves hw hq hh hout hr hd hc ht hroom, ?_, KMap.get?_set_self .., ?_, rfl⟩,
    fun u w k rest => execChimeLeave_waits, fun id k v t hk ht hp hfirst =>
      (execChimeInboxArrival_enters hk ht hp hfirst).trans (congrArg _ (State.postLeave_eq ..)),
    fun id k hk => (execChimeDiscard_counts hk).trans (congrArg _ (State.postLeave_eq ..)),
    fun m v t ht => ⟨execChimeMsg_enters ht, execChimeMsg_waits ht⟩⟩
  · show ((s.newId.2.putWarp u { w with kf := { w.kf with sendq := rest } }).warp u).kf.sendq = rest
    rw [State.putWarp_warp]
  · exact List.mem_append_right _ List.mem_cons_self

end Sys2Proof.Machine
end

section
/-! SUPPORT. Memory operations at work (R173 to R180, R200, R201, R215, R216, R218 to R225, R385, R386). -/

namespace Sys2Proof.Machine

open Sys2Proof

section
variable {s : State} {id i : Nat} {o : Op} (ho : s.ops.get? id = some o)

/-! Units that bind together (R204). -/

/-- The units of an operation that read the aligned word of one of them. -/
def Op.together (o : Op) (i : Nat) : List Nat := o.select (fun v => v.near (o.unit i) (max (o.unit i).size 4))

/-- The state after the units of a word are bound. -/
def State.bound (s : State) (id : Nat) (o : Op) (i : Nat) : State :=
  ((o.together i).foldl (fun s j => s.bindUnit id o i j) s).tryEnd id

theorem State.bindWord_of_may (h : (o.together i).all (s.mayBind id o i) = true) : s.bindWord id i o = some (s.bound id o i) :=
  if_pos h

theorem State.bindWord_of_not (h : (o.together i).all (s.mayBind id o i) = false) : s.bindWord id i o = none :=
  if_neg (Bool.not_eq_true _ ▸ h)

include ho

theorem execRemoteRefusal_refuses (hd : (o.unit i).done = false) (r : Nat) :
    execRemoteRefusal id i r s = .next ((s.doneUnit id i [] true).tryEnd id) := by
  rw [Op.unit] at hd
  simp only [execRemoteRefusal, ho, hd, Bool.false_eq_true, if_false]
  rfl

variable (hd : (o.unit i).done = false) (hs : (o.unit i).sent = false)
include hd hs

/-! Loads (R177, R204, R218). -/

section
variable (hn : ∀ d pa, (o.unit i).tgt ≠ .net d pa)
include hn

theorem execLoadReturn_binds (he : s.enterNear id = s) (h : (o.together i).all (s.mayBind id o i) = true) :
    execLoadReturn id i s = .next (s.bound id o i) := by
  simp only [execLoadReturn, he, ho, hd, hs, State.bindWord_of_may h, Bool.or_self, Bool.false_eq_true, if_false]
  rfl

theorem execLoadReturn_waits (he : s.enterNear id = s) (h : (o.together i).all (s.mayBind id o i) = false) :
    execLoadReturn id i s = .next (s.post (.loadReturn id i)) := by
  simp only [execLoadReturn, he, ho, hd, hs, State.bindWord_of_not h, Bool.or_self, Bool.false_eq_true, if_false]
  rfl

theorem execStoreAtHome_performs (hp : s.mayPerform id o i = true) :
    execStoreAtHome id i s = .next (((s.storeUnit o (o.unit i)).doneUnit id i [] false).tryEnd id) := by
  simp only [execStoreAtHome, ho, hd, hs, hp, Bool.or_self, Bool.not_true, Bool.false_eq_true, if_false]
  rfl

theorem execAtomicAtHome_performs {code : Nat} (hp : s.mayPerform id o i = true) (hk : o.kind = .atomic code)
    (hb : s.targetBad (o.unit i).tgt (o.unit i).size = false) :
    execAtomicAtHome id i s = .next (((s.atomicUnit o.core code (o.unit i).tgt (o.unit i).size (o.unit i).data).2.doneUnit id i
      (s.atomicUnit o.core code (o.unit i).tgt (o.unit i).size (o.unit i).data).1 false).tryEnd id) := by
  simp only [execAtomicAtHome, ho, hd, hs, hk, hp, hb, Bool.or_self, Bool.not_true, Bool.false_eq_true, if_false]
  rfl

end

/-! Commits and atomics of another device (R310, R390). -/

theorem execAtomicAtHome_commits {m : BitVec 4} (hk : o.kind = .cstm m)
    (hp : (o.select (fun _ => true)).all (s.mayPerform id o) = true) :
    execAtomicAtHome id i s = .next (((o.select (fun _ => true)).foldl
      (fun t j => t.doneUnit id j (leBytes (s.commitUnits o m).1 4) false) (s.commitUnits o m).2).tryEnd id) := by
  simp only [execAtomicAtHome, ho, hd, hs, hk, hp, Bool.or_self, Bool.not_true, Bool.false_eq_true, if_false]
  rfl

theorem execAtomicAtHome_refused {d pa code : Nat} (ht : (o.unit i).tgt = .net d pa) (hc : s.channelTo o.ctx d = none)
    (hp : s.mayPerform id o i = true) (hk : o.kind = .atomic code) : execAtomicAtHome id i s = .next (s.refuseUnits id [i]) := by
  simp only [execAtomicAtHome, ho, hd, hs, hk, ht, hp, hc, Bool.or_self, Bool.not_true, Bool.false_eq_true, if_false]
  rfl

/-! Windows (R214, R215). -/

theorem execWindowAccess_binds (hr : o.kind.reads = true) (h : (o.together i).all (s.mayBind id o i) = true) :
    execWindowAccess id i s = .next (s.bound id o i) := by
  simp only [execWindowAccess, ho, hd, hs, hr, State.bindWord_of_may h, Bool.or_self, Bool.false_eq_true, if_false, if_true]
  rfl

theorem execWindowAccess_stores {pa : Nat} (hr : o.kind.reads = false) (ht : (o.unit i).tgt = .win pa)
    (hp : s.mayPerform id o i = true) :
    execWindowAccess id i s = .next (((s.storeUnit o (o.unit i)).doneUnit id i [] false).tryEnd id) := by
  simp only [execWindowAccess, ho, hd, hs, hr, ht, hp, Bool.or_self, Bool.not_true, Bool.false_eq_true, if_false]
  rfl

end

/-! Notices (R180). -/

section
variable {s t : State} {id : Nat} (hh : s.noticesHeld id = false)
include hh

theorem execReleaseNotice_op (hq : s.reqs.get? id = none) (hr : s.releaseOp id = some t) : execReleaseNotice id s = .next t := by
  simp only [execReleaseNotice, hh, hq, hr, Bool.false_eq_true, if_false]
  rfl

theorem execReleaseNotice_req {r : Req} (hq : s.reqs.get? id = some r) (hd : s.depOk r.uid r.dep = true) :
    execReleaseNotice id s = .next (s.applyReq id) := by
  simp only [execReleaseNotice, hh, hq, hd, Bool.false_eq_true, if_false, if_true]
  rfl

end

/-- What one slice alone holds of RED lines becomes its home's (R385). -/
theorem execPartialFlush_only {s : State} {p : Partial} (hs : s.partials = [p]) :
    execPartialFlush p.line p.slice s = .next { s with partials := [{ p with slice := 2 ^ 16 + homeSlice p.line }] } := by
  simp only [execPartialFlush, hs, List.find?_cons_of_pos, beq_self_eq_true, Bool.and_self, List.filter_cons, bne_self_eq_false,
    Bool.false_eq_true, if_false, List.filter_nil]
  rfl

/-! Walks (R200, R201, R410). -/

section
variable {s : State} {r : WalkReq}

/-- The waits of a waiter for a page, changed. -/
def State.markPage (s : State) (r : WalkReq) (f : PageWait → PageWait) : State :=
  { s with pages := s.pages.map (fun p => if p.who == r.who && p.page == r.page then f p else p) }

theorem State.missPage_full (h : s.pageRequest r = none) :
    s.missPage r = (s.markPage r (fun p => { p with missed := true })).post (.tlbWalkComplete r) := by
  simp only [State.missPage, h, State.markPage]

theorem State.missPage_asked {t : State} {q : BitVec 32} (h : s.pageRequest r = some (t, q)) :
    s.missPage r = t.markPage r (fun p => { p with seq := some q }) := by
  simp only [State.missPage, h, State.markPage]

variable (hw : s.pages.any (fun p => p.who == r.who && p.page == r.page && p.seq == none) = true)
include hw

theorem execTlbWalkComplete_late (hm : s.pages.any (fun p => p.who == r.who && p.page == r.page && p.missed) = true) :
    execTlbWalkComplete r s = .next (s.missPage r) := by
  simp only [execTlbWalkComplete, hw, hm, Bool.not_true, Bool.false_eq_true, if_false, if_true]
  rfl

theorem execTlbWalkComplete_walks (hm : s.pages.any (fun p => p.who == r.who && p.page == r.page && p.missed) = false) :
    let w := s.walked (readerDie r.core r.who) r.ctx r.va
    (∀ k e, w.translate r.core r.ctx r.va = .leaf k e → execTlbWalkComplete r s = .next
      { w.fillTlb r.core r.ctx r.va (.leaf k e) with pages := w.pages.filter (fun p => !(p.who == r.who && p.page == r.page)) }) ∧
    (w.translate r.core r.ctx r.va = .fatal →
      execTlbWalkComplete r s = .next { w with pages := w.pages.filter (fun p => p.who != r.who) }) ∧
    (w.translate r.core r.ctx r.va = .replay → execTlbWalkComplete r s = .next (w.missPage r)) := by
  refine ⟨fun k e h => ?_, fun h => ?_, fun h => ?_⟩ <;>
    simp only [execTlbWalkComplete, hw, hm, h, Bool.not_true, Bool.false_eq_true, if_false, ran]

end

/-- Settles O48: every event meets the branch that its hypotheses name, and a walk that misses ends as a request or a wait. -/
theorem memoryEvents : Obligations.MemoryEvents := by
  intro s id i o ho hd hs
  refine ⟨fun hn => ⟨execLoadReturn_binds ho hd hs hn, execLoadReturn_waits ho hd hs hn,
      fun hp => ⟨execStoreAtHome_performs ho hd hs hn hp, fun code hk hb => execAtomicAtHome_performs ho hd hs hn hp hk hb⟩⟩,
    fun m hk hp => execAtomicAtHome_commits ho hd hs hk hp,
    fun d pa ht hc hp code hk => execAtomicAtHome_refused ho hd hs ht hc hp hk,
    fun hr h => execWindowAccess_binds ho hd hs hr h,
    fun pa hr ht hp => execWindowAccess_stores ho hd hs hr ht hp,
    fun r => execRemoteRefusal_refuses ho hd r,
    fun t hh hq hr => execReleaseNotice_op hh hq hr,
    fun k r hh hq hr => execReleaseNotice_req hh hq hr,
    fun line => rfl, fun line k p hp hl hk => ?flush, fun r hw => ⟨fun hm => ?late, fun hm => ?walk⟩⟩
  case flush => subst hl hk; exact execPartialFlush_only hp
  case late =>
    have h := execTlbWalkComplete_late hw hm
    exact ⟨fun hn => h.trans (congrArg _ (State.missPage_full hn)), fun t q hq => h.trans (congrArg _ (State.missPage_asked hq))⟩
  case walk =>
    obtain ⟨hleaf, hfatal, hmiss⟩ := execTlbWalkComplete_walks hw hm
    exact ⟨hleaf, hfatal, fun h => ⟨fun hn => (hmiss h).trans (congrArg _ (State.missPage_full hn)),
      fun t q hq => (hmiss h).trans (congrArg _ (State.missPage_asked hq))⟩⟩

end Sys2Proof.Machine
end

section
/-! SUPPORT. Setting a memory operation going (R176, R180, R213, R313): what it changes, and that one with room does not park. -/

namespace Sys2Proof.Machine

open Sys2Proof

/-- Everything but operations, warps, cores, what the host holds, events and numbers: an operation that is set going changes no
more. -/
def State.setsGoing (s t : State) : Prop :=
  t = { s with ops := t.ops, warps := t.warps, cores := t.cores, avtos := t.avtos, bag := t.bag, fresh := t.fresh }

namespace State.setsGoing

variable {s t u : State}

theorem refl (s : State) : s.setsGoing s := rfl

theorem trans (h1 : s.setsGoing t) (h2 : t.setsGoing u) : s.setsGoing u := by
  unfold State.setsGoing at h1 h2 ⊢
  rw [h2, h1]

theorem foldl {α : Type} {f : State → α → State} (hf : ∀ (s : State) x, s.setsGoing (f s x)) (l : List α) (s : State) :
    s.setsGoing (l.foldl f s) := by
  induction l generalizing s with
  | nil => exact refl s
  | cons x t ih => exact (hf s x).trans (ih (f s x))

theorem mem (h : s.setsGoing t) : t.mem = s.mem := by
  unfold State.setsGoing at h
  rw [h]

theorem teams (h : s.setsGoing t) : t.teams = s.teams := by
  unfold State.setsGoing at h
  rw [h]

end State.setsGoing

theorem State.setsGoing_roomFor (s : State) (core ctx : Nat) : s.setsGoing (s.roomFor core ctx) := by
  unfold State.roomFor
  split
  · rfl
  · dsimp only
    split
    · rfl
    · split <;> rfl

theorem State.setsGoing_outward (s : State) (core ctx : Nat) (l : List Nat) : s.setsGoing (s.outward core ctx l) := by
  unfold State.outward
  split
  · rfl
  · split
    · rfl
    · unfold State.extend
      split
      · rfl
      · exact (show s.setsGoing (s.modCore core _) from rfl).trans (State.setsGoing_roomFor ..)

theorem State.setsGoing_sends (s : State) (o : Op) : s.setsGoing (s.sends o) := by
  unfold State.sends
  dsimp only
  split
  · rfl
  · exact State.setsGoing_outward ..

theorem State.setsGoing_toHost (s : State) (g : Target) (n : Nat) : s.setsGoing (s.toHost g n) := by
  cases g <;> rfl

theorem State.setsGoing_storeThrough (s : State) (o : Op) : s.setsGoing (s.storeThrough o) := by
  unfold State.storeThrough
  split
  · rfl
  · refine State.setsGoing.foldl (fun s u => ?_) o.units s
    split <;> rfl

theorem State.setsGoing_enterOp (s : State) (id : Nat) : s.setsGoing (s.enterOp id) := by
  unfold State.enterOp
  split
  · rfl
  next o _ => exact (show s.setsGoing (s.newId.2.putOp id _) from rfl).trans (State.setsGoing_storeThrough ..)

theorem State.setsGoing_tryMember (s : State) (id : Nat) : s.setsGoing (s.tryMember id) := by
  unfold State.tryMember
  split
  · rfl
  next o _ =>
    split
    · rfl
    next m _ =>
      dsimp only
      split
      · have hhost : s.setsGoing (if (s.warp o.uid).scopeOf o.key == .sys && !o.kind.reads then
            o.units.foldl (fun s u => s.toHost u.tgt u.size) s else s) := by
          split
          · exact State.setsGoing.foldl (fun s u => State.setsGoing_toHost s u.tgt u.size) o.units s
          · rfl
        exact hhost.trans rfl
      · rfl

theorem State.setsGoing_releaseOp {s t : State} {id : Nat} (h : s.releaseOp id = some t) : s.setsGoing t := by
  unfold State.releaseOp at h
  split at h
  · cases h; rfl
  · split at h
    · cases h; rfl
    · split at h
      · cases h
        exact (State.setsGoing_enterOp s id).trans (State.setsGoing_tryMember ..)
      · cases h

theorem State.setsGoing_enterNear (s : State) (id : Nat) : s.setsGoing (s.enterNear id) := by
  unfold State.enterNear
  split
  · rfl
  · split
    · exact State.setsGoing_enterOp s id
    · rfl

/-! The operation with its result. -/

/-- The state with a result outstanding for an operation that gives one. -/
def State.expecting (s : State) (c : Cx) : List RegName → State
  | [] => s.newId.2
  | n :: names => s.newId.2.newId.2.modWarp c.uid (fun w => { w with iss := { w.iss with outstanding := w.iss.outstanding ++
      [{ id := s.fresh + 1, names := n :: names, ready := false, word := s.word }] } })

/-- The operation, with the result that is to take its values when it gives one. -/
def Op.expecting (o : Op) (rid : Nat) : List RegName → Op
  | [] => o
  | _ :: _ => { o with res := some rid }

/-- An operation in flight that may enter at once: a reader its ports' queues, a store or atomic when it is let. -/
def State.letGo (s : State) (id : Nat) (o : Op) (now : Bool) : State :=
  if o.kind.reads then s.enterNear id
  else
    match (if now then s.releaseOp id else none) with
    | some t => t
    | none => s.post (.releaseNotice id)

theorem State.setsGoing_letGo (s : State) (id : Nat) (o : Op) (now : Bool) : s.setsGoing (s.letGo id o now) := by
  unfold State.letGo
  split
  · exact State.setsGoing_enterNear s id
  · split
    next t h =>
      split at h
      · exact State.setsGoing_releaseOp h
      · cases h
    next => rfl

theorem State.setsGoing_expecting (s : State) (c : Cx) (names : List RegName) : s.setsGoing (s.expecting c names) := by
  cases names <;> rfl

/-- The state after an operation with units is set going. -/
def Cx.launched (c : Cx) (s : State) (o : Op) (names : List RegName) : State :=
  ((((s.expecting c names).sends o).putOp s.fresh (o.expecting (s.fresh + 1) names)).letGo s.fresh o
    (o.near || s.choose 8960 2 = 0)).postAll (o.units.zipIdx.map (fun p => unitEvent s.fresh p.2 o.kind p.1.tgt))

theorem Cx.setsGoing_launched (c : Cx) (s : State) (o : Op) (names : List RegName) : s.setsGoing (c.launched s o names) := by
  have hsent := (State.setsGoing_expecting s c names).trans (State.setsGoing_sends _ o)
  have hput : State.setsGoing _ (State.putOp ((s.expecting c names).sends o) s.fresh (o.expecting (s.fresh + 1) names)) := rfl
  exact (hsent.trans hput).trans ((State.setsGoing_letGo ..).trans rfl)

section
variable {s : State} {c : Cx} {o : Op} (h : s.room c o) (names : List RegName)
include h

/-- An operation that has room goes, or ends at once when it has no unit. -/
theorem Cx.launchOp_of_room :
    c.launchOp s o names = .ok (if o.units.isEmpty then s.postLeave o.mem else c.launched s o names) := by
  obtain ⟨hcredit, hport, hticket⟩ := h
  have h1 : o.units.any (fun u => s.creditless o.ctx u.tgt) = false := List.any_eq_false.2 fun u hm => by simp [hcredit u hm]
  have h2 : (o.near && s.canEnter s.fresh o && !s.portRoom o) = false := by
    cases hn : o.near <;> cases hc : s.canEnter s.fresh o <;> simp [hport, hn, hc]
  have h3 : (!o.kind.reads && !s.depOk c.uid o.dep && !(s.tickets c.uid).any o.dep.same && decide (16 ≤ (s.tickets c.uid).length)) =
      false := by
    rcases hticket with h | h | h | h
    · simp [h]
    · simp [h]
    · simp [h]
    · simp [Nat.not_le.2 h]
  unfold Cx.launchOp
  simp only [h1, h2, h3, Bool.false_and, Bool.false_eq_true, if_false]
  split
  · cases o.mem <;> rfl
  · cases names <;> rfl

theorem Cx.launchOp_setsGoing : ∃ t, c.launchOp s o names = .ok t ∧ s.setsGoing t := by
  refine ⟨_, Cx.launchOp_of_room h names, ?_⟩
  split
  · unfold State.postLeave
    cases o.mem <;> rfl
  · exact Cx.setsGoing_launched c s o names

end

end Sys2Proof.Machine
end

section
/-! SUPPORT. Loads, stores and atomics at their issue (R176, R180, R186, R195, R202, R204, R218 to R225). -/

namespace Sys2Proof.Machine

open Sys2Proof

/-! The registers a memory word names. -/

theorem vNames_ne_nil {n k : Nat} (hk : 0 < k) (l : Lanes) : vNames n k l ≠ [] := by
  obtain ⟨k, rfl⟩ := Nat.exists_eq_succ_of_ne_zero (Nat.ne_of_gt hk)
  simp [vNames, List.range'_succ]

theorem unitsOf_ne_nil (lane n : Nat) (va : Addr) (t : Target) (data : List Byte) : unitsOf lane n va t data ≠ [] := by
  unfold unitsOf
  split <;> simp

theorem bits_low_nibble (n : Nat) : bits n 3 0 = n % 16 := rfl

theorem bits_high_nibble (n : Nat) : bits n 7 4 = n / 16 % 16 := by
  rw [bits, Nat.shiftRight_eq_div_pow]
  rfl

/-! A reader in its ports' queues (R213). -/

/-- Only the entry of an operation has changed, and the numbers given out. -/
def State.entered (s : State) (id : Nat) (o : Op) (t : State) : Prop :=
  t = { s with ops := t.ops, fresh := t.fresh } ∧ (∃ e b, t.ops.get? id = some { o with entry := e, released := b }) ∧
    ∀ j, j ≠ id → t.ops.get? j = s.ops.get? j

theorem State.entered.bag {s t : State} {id : Nat} {o : Op} (h : s.entered id o t) : t.bag = s.bag := by rw [h.1]

theorem State.entered.warp {s t : State} {id : Nat} {o : Op} (h : s.entered id o t) (u : Nat) : t.warp u = s.warp u := by
  rw [h.1]
  rfl

theorem State.storeThrough_of_reads {o : Op} (hk : o.kind.reads = true) (s : State) : s.storeThrough o = s := by
  have hne : (o.kind != .store) = true := bne_iff_ne.2 fun h => by rw [h] at hk; cases hk
  exact if_pos hne

theorem State.entered_enterNear {s : State} {id : Nat} {o : Op} (ho : s.ops.get? id = some o) (hk : o.kind.reads = true) :
    s.entered id o (s.enterNear id) := by
  simp only [State.enterNear, ho]
  split
  · simp only [State.enterOp, ho, State.storeThrough_of_reads hk]
    exact ⟨rfl, ⟨_, _, KMap.get?_set_self ..⟩, fun j hj => KMap.get?_set_ne _ _ hj⟩
  · exact ⟨rfl, ⟨_, _, ho⟩, fun _ _ => rfl⟩

theorem State.sends_of_reads {o : Op} (hk : o.kind.reads = true) (s : State) : s.sends o = s := by
  simp [State.sends, hk]

theorem State.expecting_outstanding (s : State) (c : Cx) (n : RegName) (names : List RegName) :
    ((s.expecting c (n :: names)).warp c.uid).iss.outstanding = (s.warp c.uid).iss.outstanding ++
      [{ id := s.fresh + 1, names := n :: names, ready := false, word := s.word }] := by
  rw [State.expecting, State.modWarp_warp]
  rfl

section
variable {c : Cx} {s : State} {o : Op} {names : List RegName} (hk : o.kind.reads = true) (hn : names ≠ [])
include hk hn

/-- A reader leaves its result outstanding and its units on their way, and nothing else. -/
theorem Cx.launched_reader :
    (∃ e b, (c.launched s o names).ops.get? s.fresh = some { o with res := some (s.fresh + 1), entry := e, released := b }) ∧
    (∀ j, j ≠ s.fresh → (c.launched s o names).ops.get? j = s.ops.get? j) ∧
    ((c.launched s o names).warp c.uid).iss.outstanding = (s.warp c.uid).iss.outstanding ++
      [{ id := s.fresh + 1, names := names, ready := false, word := s.word }] ∧
    (c.launched s o names).bag = s.bag ++ o.units.zipIdx.map (fun p => unitEvent s.fresh p.2 o.kind p.1.tgt) := by
  cases names with
  | nil => exact absurd rfl hn
  | cons n names =>
    have he := State.entered_enterNear (s := (s.expecting c (n :: names)).putOp s.fresh { o with res := some (s.fresh + 1) })
      (KMap.get?_set_self ..) hk
    simp only [Cx.launched, State.sends_of_reads hk, Op.expecting, State.letGo, hk, if_true]
    refine ⟨he.2.1, fun j hj => (he.2.2 j hj).trans (KMap.get?_set_ne _ _ hj), ?_, congrArg (· ++ _) he.bag⟩
    exact (congrArg (·.iss.outstanding) (he.warp c.uid)).trans (State.expecting_outstanding s c n names)

end

/-! The words' bodies. -/

section
variable {c : Cx} {s s1 t : State} {near : Bool} {n d a m : Nat} {dep : Dep} {oks : List (Nat × Addr × Target)} (hs : s.bare c)
include hs

section
variable {o : FMem} (hd : c.resolve 0 c.mask none o.d.toNat ((n + 3) / 4) = .ok d)
  (ha : c.resolve 1 c.mask none o.a.toNat (if near then 1 else 2) = .ok a)
  (hf : c.free s (vNames a (if near then 1 else 2) c.mask ++ vNames d ((n + 3) / 4) c.mask))
  (hk : c.keys s o.c.toNat o.p.toNat = .ok (dep, m, s1))
include hd ha hf hk

/-- The operation of a load, as `Cx.load` sets it going. -/
def Cx.loadOp (c : Cx) (s1 : State) (o : FMem) (near signed : Bool) (n d : Nat) (dep : Dep) (m : Nat)
    (oks : List (Nat × Addr × Target)) : Op :=
  { c.op s1 (.load signed) o.c.toNat o.p.toNat dep m with
    d := d, near := near, bypass := c.wide o.c.toNat, units := oks.flatMap (fun p => unitsOf p.1 n p.2.1 p.2.2 []) }

theorem Cx.load_ok {signed : Bool} (hb : c.uncaptured s (List.range' d ((n + 3) / 4)))
    (hc : c.check s .load o.p.toNat n (c.lanes s near .load n (c.addresses s near a)) = .ok oks)
    (hl : c.launchOp (c.settleLanes s1 (!near) oks) (c.loadOp s1 o near signed n d dep m oks)
      (vNames d ((n + 3) / 4) c.mask) = .ok t) :
    c.load s o near signed n = .ok (t, .next) := by
  unfold Cx.free at hf
  unfold Cx.uncaptured at hb
  unfold Cx.loadOp at hl
  simp only [Cx.load, regsFor, Cx.noXp_of_none hs.2, hd, ha, hf, hb, hc, hk, hl, undo, bind, Except.bind]

/-- The operation of a store, as `Cx.store` sets it going. -/
def Cx.storeOp (c : Cx) (s s1 : State) (o : FMem) (near : Bool) (n d : Nat) (dep : Dep) (m : Nat)
    (oks : List (Nat × Addr × Target)) : Op :=
  { c.op s1 .store o.c.toNat o.p.toNat dep m with
    near := near
    units := highestWins (oks.flatMap (fun p => unitsOf p.1 n p.2.1 p.2.2 (c.laneBytes s d ((n + 3) / 4) n p.1))) }

theorem Cx.store_ok (hc : c.check s .store o.p.toNat n (c.lanes s near .store n (c.addresses s near a)) = .ok oks)
    (hl : c.launchOp (c.settleLanes s1 (!near) oks) (c.storeOp s s1 o near n d dep m oks) [] = .ok t) :
    c.store s o near n = .ok (t, .next) := by
  unfold Cx.free at hf
  unfold Cx.storeOp at hl
  simp only [Cx.store, regsFor, Cx.noXp_of_none hs.2, hd, ha, hf, hc, hk, hl, undo, bind, Except.bind]

end

section
variable {o : FDab} {b kb code : Nat} (hd : c.resolve 0 c.mask none o.d.toNat (n / 4) = .ok d)
  (ha : c.resolve 1 c.mask none o.a.toNat (if near then 1 else 2) = .ok a)
  (hb : c.resolve 2 c.mask none o.b.toNat kb = .ok b)
  (hf : c.free s (vNames a (if near then 1 else 2) c.mask ++ vNames b kb c.mask ++ vNames d (n / 4) c.mask ++ [.kdef]))
  (hw : c.uncaptured s (List.range' d (n / 4)))
  (hc : c.check s .atomic ((c.readKdef s).toNat / 16 % 16) n (c.lanes s near .atomic n (c.addresses s near a)) = .ok oks)
  (hk : c.keys s ((c.readKdef s).toNat % 16) ((c.readKdef s).toNat / 16 % 16) = .ok (dep, m, s1))
include hd ha hb hf hw hc hk

/-- The operation of an atomic, as `Cx.atomic` sets it going. -/
def Cx.atomicOp (c : Cx) (s s1 : State) (near : Bool) (code n d b kb : Nat) (dep : Dep) (m : Nat)
    (oks : List (Nat × Addr × Target)) : Op :=
  { c.op s1 (.atomic code) ((c.readKdef s).toNat % 16) ((c.readKdef s).toNat / 16 % 16) dep m with
    d := d, near := near
    units := oks.map (fun p =>
      { lane := p.1, tgt := p.2.2, size := n, va := p.2.1, data := bytesOfWords (c.readVs s b kb p.1) }) }

theorem Cx.atomic_ok (hn : n % 4 = 0)
    (hl : c.launchOp (c.settleLanes s1 (!near) oks) (c.atomicOp s s1 near code n d b kb dep m oks) (vNames d (n / 4) c.mask) = .ok t) :
    c.atomic s o near code n kb = .ok (t, .next) := by
  have hr : regsFor n = n / 4 := by rw [regsFor]; omega
  unfold Cx.free at hf
  unfold Cx.uncaptured at hw
  unfold Cx.atomicOp at hl
  simp only [Cx.atomic, hr, bits_low_nibble, bits_high_nibble, Cx.noXp_of_none hs.2, hd, ha, hb, hf, hw, hc, hk, hl, undo, bind,
    Except.bind]

end

/-! What they leave. -/

/-- A word whose operation has room completes, and its operation is in flight. -/
theorem State.runTarget_launches {sw : Bool} {body : Cx → State → Except Stop (State × Flow)} {s2 : State} {o : Op}
    {names : List RegName} (hr : s2.room c o) (hb : ∀ t, c.launchOp s2 o names = .ok t → body c s = .ok (t, .next)) :
    ∃ t : State, c.launchOp s2 o names = .ok t ∧ s.runTarget sw body = .next (t.closeGroup c sw .next) ∧ t.mem = s2.mem ∧
      t.teams = s2.teams := by
  obtain ⟨t, hl, hg⟩ := Cx.launchOp_setsGoing hr names
  exact ⟨t, hl, State.runTarget_ok hs.1 (hb t hl), hg.mem, hg.teams⟩

/-- A word whose operation reads completes with its result outstanding and its units on their way. -/
theorem State.runTarget_reads {sw : Bool} {body : Cx → State → Except Stop (State × Flow)} {s2 : State} {o : Op}
    {names : List RegName} (hr : s2.room c o) (hk : o.kind.reads = true) (hu : o.units ≠ []) (hn : names ≠ [])
    (hb : ∀ t, c.launchOp s2 o names = .ok t → body c s = .ok (t, .next)) :
    ∃ (t : State) (e : Nat) (b : Bool), s.runTarget sw body = .next (t.closeGroup c sw .next) ∧
      t.ops.get? s2.fresh = some { o with res := some (s2.fresh + 1), entry := e, released := b } ∧
      (∀ j, j ≠ s2.fresh → t.ops.get? j = s2.ops.get? j) ∧ t.mem = s2.mem ∧ t.teams = s2.teams ∧
      (t.warp c.uid).iss.outstanding = (s2.warp c.uid).iss.outstanding ++
        [{ id := s2.fresh + 1, names := names, ready := false, word := s2.word }] ∧
      t.bag = s2.bag ++ o.units.zipIdx.map (fun p => unitEvent s2.fresh p.2 o.kind p.1.tgt) := by
  have hl := Cx.launchOp_of_room hr names
  rw [if_neg (by simpa using hu)] at hl
  obtain ⟨⟨e, b, hop⟩, hother, hout, hbag⟩ := Cx.launched_reader (c := c) (s := s2) hk hn
  have hg := Cx.setsGoing_launched c s2 o names
  exact ⟨_, e, b, State.runTarget_ok hs.1 (hb _ hl), hop, hother, hg.mem, hg.teams, hout, hbag⟩

end

/-- Settles O32: a load reads, so that it goes at once, with as many units as its lanes have. -/
theorem loadWords : Obligations.LoadWords := by
  intro o s c hs d a oks dep m s1 ld
  have load {i : Instr} {near signed : Bool} {n : Nat} (hn : 0 < n)
      (hi : exec i s = s.runTarget o.sw (fun c s => c.load s o near signed n)) : ld i near signed n := by
    intro hd ha hf hb hc hne hk s2 op hr
    have hu : op.units ≠ [] := fun h => by
      obtain ⟨p, l, rfl⟩ := List.exists_cons_of_ne_nil hne
      exact unitsOf_ne_nil _ _ _ _ _ (List.append_eq_nil_iff.1 h).1
    rw [hi]
    exact State.runTarget_reads hs hr rfl hu (vNames_ne_nil (by omega) _) fun t hl => Cx.load_ok hs hd ha hf hk hb hc hl
  exact ⟨load (by decide) rfl, load (by decide) rfl, load (by decide) rfl, load (by decide) rfl, load (by decide) rfl,
    load (by decide) rfl, load (by decide) rfl, load (by decide) rfl, load (by decide) rfl, load (by decide) rfl,
    load (by decide) rfl, load (by decide) rfl, load (by decide) rfl, load (by decide) rfl⟩

/-- Settles O33: an operation with room does not park, and what sets it going stores no byte. -/
theorem storeAndAtomicWords : Obligations.StoreAndAtomicWords := by
  intro s c hs d a b oks dep m s1
  refine ⟨fun o => ?stores, fun o => ?atomics⟩
  case stores =>
    intro st
    have store {i : Instr} {near : Bool} {n : Nat} (hi : exec i s = s.runTarget o.sw (fun c s => c.store s o near n)) :
        st i near n := by
      intro hd ha hf hc hk s2 op hr
      rw [hi]
      exact State.runTarget_launches hs hr fun t hl => Cx.store_ok hs hd ha hf hk hc hl
    exact ⟨store rfl, store rfl, store rfl, store rfl, store rfl, store rfl, store rfl, store rfl, store rfl, store rfl⟩
  case atomics =>
    intro at1 both
    have atomic {i j : Instr} {code n kb : Nat} (hn : n % 4 = 0)
        (hi : exec i s = s.runTarget o.sw (fun c s => c.atomic s o false code n kb))
        (hj : exec j s = s.runTarget o.sw (fun c s => c.atomic s o true code n kb)) : both i j code n kb := by
      have form {i : Instr} {near : Bool} (hi : exec i s = s.runTarget o.sw (fun c s => c.atomic s o near code n kb)) :
          at1 i near code n kb := by
        intro hd ha hb hf hw hc hk s2 op hr
        rw [hi]
        exact State.runTarget_launches hs hr fun t hl => Cx.atomic_ok hs hd ha hb hf hw hc hk hn hl
      exact ⟨form hi, form hj⟩
    exact ⟨atomic rfl rfl rfl, atomic rfl rfl rfl, atomic rfl rfl rfl, atomic rfl rfl rfl, atomic rfl rfl rfl,
      atomic rfl rfl rfl, atomic rfl rfl rfl, atomic rfl rfl rfl, atomic rfl rfl rfl, atomic rfl rfl rfl, atomic rfl rfl rfl,
      atomic rfl rfl rfl, atomic rfl rfl rfl, atomic rfl rfl rfl, atomic rfl rfl rfl, atomic rfl rfl rfl⟩

end Sys2Proof.Machine
end

section
/-! SUPPORT. What an atomic leaves at its location, in numbers (R118, R119, R126, R224). -/

namespace Sys2Proof.Machine

open Sys2Proof

@[simp] theorem length_leBytes (v n : Nat) : (leBytes v n).length = n := by
  induction n generalizing v with
  | zero => rfl
  | succ n ih => simp [leBytes, ih]

theorem leNat_leBytes (v n : Nat) : leNat (leBytes v n) = v % 256 ^ n := by
  induction n generalizing v with
  | zero => simp [leBytes, leNat, Nat.mod_one]
  | succ n ih => simp [leBytes, leNat, ih, pow_succ', Nat.mod_mul]

/-! The operands of an atomic are the number that is read and two that its registers hold one after the other. -/

theorem leBytes_append_first (y n : Nat) (b : List Byte) : (leBytes y n ++ b).take n = leBytes y n :=
  List.take_left' (length_leBytes ..)

theorem leBytes_append_second (y z n : Nat) : ((leBytes y n ++ leBytes z n).drop n).take n = leBytes z n := by
  rw [List.drop_left' (length_leBytes ..), List.take_of_length_le (length_leBytes ..).le]

/-- The sum that an atomic leaves is Round's of the exact sum, in the format's own width. -/
theorem fAdd_atomic {f : Fmt} (h2 : f ≠ .e2m1) (a b : Nat) :
    (fAdd f {} 0 a b).v < 2 ^ f.width ∧ SumOf f {} 0 [(f, a), (f, b)] false [unpack f a, unpack f b] (fAdd f {} 0 a b) :=
  ⟨sumRes_lt h2 (by decide) (by decide) (by simp), fAdd_sumOf h2 (by decide) (by decide)⟩

/-- A half of a word made of two halves. -/
theorem half_of_halves {l u h : Nat} (hl : l < 2 ^ 16) (hu : u < 2 ^ 16) (hh : h < 2) :
    (l + u * 2 ^ 16) % 2 ^ 32 / 2 ^ (16 * h) % 2 ^ 16 = if h = 0 then l else u := by
  obtain rfl | rfl : h = 0 ∨ h = 1 := by omega
  · rw [if_pos rfl]; omega
  · rw [if_neg (by decide)]; omega

theorem leNat_leBytes_four (v : Nat) : leNat (leBytes v 4) = v % 2 ^ 32 := leNat_leBytes v 4

theorem leNat_leBytes_eight (v : Nat) : leNat (leBytes v 8) = v % 2 ^ 64 := leNat_leBytes v 8

/-- Settles O34: read as numbers, the operands give a number that fits the location, or wraps in it. -/
theorem atomicValues : Obligations.AtomicValues := by
  intro x y z
  have hx := x.isLt
  have hy := y.isLt
  -- every code whose value is a word's number closes here
  simp only [atomicNew, length_leBytes, leBytes_append_first, leBytes_append_second, leNat_leBytes_four, leNat_leBytes_eight,
    BitVec.toNat_mod_cancel, BitVec.ofNat_toNat, BitVec.setWidth_eq, ← BitVec.toNat_and, ← BitVec.toNat_or, ← BitVec.toNat_xor,
    ← BitVec.toNat_add, BitVec.toNat_inj, ← apply_ite BitVec.toNat, true_and,
    and_self, implies_true, and_true]
  refine ⟨?min, ?max, ?incw, ?addF32, fun h hh => ?addBf16x2⟩
  case min => exact Nat.mod_eq_of_lt (by omega)
  case max => exact Nat.mod_eq_of_lt (by omega)
  case incw => exact Nat.mod_eq_of_lt (by split <;> omega)
  case addF32 =>
    obtain ⟨hlt, hsum⟩ := fAdd_atomic (f := .f32) (by decide) x.toNat y.toNat
    exact ⟨_, Nat.mod_eq_of_lt hlt, hsum⟩
  case addBf16x2 =>
    have sums (k : Nat) := fAdd_atomic (f := .bf16) (by decide) (x.toNat / 2 ^ (16 * k) % 2 ^ 16) (y.toNat / 2 ^ (16 * k) % 2 ^ 16)
    refine ⟨_, ?_, (sums h).2⟩
    rw [half_of_halves (sums 0).1 (sums 1).1 hh]
    obtain rfl | rfl : h = 0 ∨ h = 1 := by omega
    · rfl
    · rfl

end Sys2Proof.Machine
end

section
/-! SUPPORT. A CSTM whose staging block lies in a guard: it completes, and its GUARD report is a record in memory (R20, R208, R390). -/

namespace Sys2Proof.Machine

open Sys2Proof

/-- The group of a CSTM's word in a warp whose lane 0 alone is live. -/
def guardBlockGroup : Group := { pc := 0x10000, here := 0x10000, mask := 1 }

/-- A warp on a core, whose V registers read as zero, so that a staging block named by one lies in the lower guard. -/
def guardBlockWarp : Warp :=
  { id := { team := 1, place := some 0 }, live := 1, regs := { fill := false }, iss := { grp := some guardBlockGroup } }

/-- That warp issues, in a team of one thread and a context whose fault area has one record, which is free. -/
def guardBlockState : State :=
  { State.reset with
    cur := some 0
    warps := [(0, guardBlockWarp)]
    teams := [(1, { core := some 0, warps := [0], threads := 1 })]
    ctxs := [(0, { d := { faultBase := 0x4000, faultN := 1 } })] }

/-- What its word sees. -/
def guardBlockCx : Cx := { uid := 0, w := guardBlockWarp, g := guardBlockGroup }

/-- CSTM V1, V0 of entry 0 alone. -/
def guardBlockCstm : FCstm := { sw := false, d := 1, a := 0, m := 1 }

/-- The lanes of its base and its one block, as the checks pass them. -/
def guardBlockLanes : List (Nat × Addr × Target) := [(0, 0, .guard 0 0), (0, 0, .guard 1 0)]

theorem guardBlock_checks : guardBlockCx.check guardBlockState .atomic 0 128 (guardBlockCx.blockLanes guardBlockState 0 0 [0]) =
    .ok guardBlockLanes := rfl

/-- Its keys are K0: nothing to wait for, and taking them writes no memory. -/
theorem guardBlock_keys : ∃ dep m s1, guardBlockCx.keys guardBlockState 0 0 = .ok (dep, m, s1) ∧ s1.mem = [] ∧
    (guardBlockCx.settleLanes s1 false (guardBlockLanes.drop 1)).depOk 0 dep = true := ⟨_, _, _, rfl, rfl, rfl⟩

/-- It completes, and the first byte of the fault record is the cause GUARD. -/
theorem guardBlock_runs : ∃ t : State, exec (.sliceCstm guardBlockCstm) guardBlockState = .next t ∧
    Memory.read t.mem 0x4000 = 0x09 :=
  ⟨_, rfl, rfl⟩

/-- Refutes O35: a staging block in a guard reads as zero and is reported, and the report's fault record is a write to memory, so
that a CSTM that completes need not leave memory as its keys leave it. -/
theorem not_lineWords : ¬ Obligations.LineWords := by
  intro h
  obtain ⟨dep, m, s1, hkeys, hmem, hdep⟩ := guardBlock_keys
  obtain ⟨-, -, -, hcstm, -⟩ := h guardBlockState guardBlockCx ⟨rfl, rfl⟩ 1 0 0 0 guardBlockLanes dep m s1
  obtain ⟨t, ht, htmem, -⟩ := hcstm guardBlockCstm rfl rfl rfl rfl guardBlock_checks rfl hkeys (.inl hdep)
  obtain ⟨q, hq, hrecord⟩ := guardBlock_runs
  have hclosed : t.closeGroup guardBlockCx false .next = q := Host.Outcome.next.inj (ht.symm.trans hq)
  have hqmem : q.mem = [] := hclosed ▸ htmem.trans hmem
  rw [hqmem] at hrecord
  exact absurd hrecord (by decide)

end Sys2Proof.Machine
end

section
/-! SUPPORT. PBIND, PUNBIND and PSTAT (R227, R229 to R233, R243, R246, R247). -/

namespace Sys2Proof.Machine

open Sys2Proof

/-- The team index in a target word (R232). -/
theorem bits_team_index (n : Nat) : bits n 20 5 = n / 32 % 2 ^ 16 := by
  simp only [bits, Nat.shiftRight_eq_div_pow]

/-- What a PBIND that passes its checks does with a port, by the port's state (R233, R243). -/
def Cx.rebinds (c : Cx) (s : State) (p : Nat) (t : Word) : PortSt → Except Stop (State × Flow)
  | .connected => if s.pushesDone c.uid p then .ok ((s.unbind c.uid p).bindTo c.uid p t, .next) else .error (.park .portFull s)
  | .waiting => .ok (s.bindTo c.uid p t, .next)
  | .unbound | .orphaned => .ok ((s.dropQueue c.uid p).bindTo c.uid p t, .next)

/-- What PUNBIND does with a port, by the port's state (R233, R247). -/
def Cx.unbinds (c : Cx) (s : State) (p : Nat) : PortSt → Except Stop (State × Flow)
  | .connected => if s.pushesDone c.uid p then .ok (s.unbind c.uid p, .next) else .error (.park .portFull s)
  | .waiting | .orphaned => .ok (s.unbind c.uid p, .next)
  | .unbound => .ok (s, .next)

section
variable {s : State} {c : Cx} (hs : s.bare c)
include hs

section
variable {o : FPbind} (hf : c.free s [.s o.s.toNat])
include hf

theorem execPbind_unreached
    (hno : (s.grid c.ctx c.w.id.grid).reach (s.teamIndex c.w) o.p.toNat ≠ some ((c.readS s o.s.toNat).toNat / 32 % 2 ^ 16)) :
    execPbind o s = s.settle c o.sw (.error (portUnbound o.p.toNat c.mask)) := by
  unfold Cx.free at hf
  simp only [execPbind, State.runTarget, hs.1, Cx.noXp_of_none hs.2, hf, bits_team_index, beq_eq_false_iff_ne.2 hno, bind, Except.bind,
    Bool.and_false, Bool.false_and, Bool.not_false, Bool.true_or, if_true]

theorem execPbind_reached {k : Nat} {tm : Team} {st : PortSt} (hweave : c.w.id.weave.isSome = true)
    (htarget : c.readS s o.s.toNat >>> 21 = 0)
    (hreach : (s.grid c.ctx c.w.id.grid).reach (s.teamIndex c.w) o.p.toNat = some ((c.readS s o.s.toNat).toNat / 32 % 2 ^ 16))
    (hteam : s.teamOf c.ctx c.w.id.grid ((c.readS s o.s.toNat).toNat / 32 % 2 ^ 16) = some (k, tm))
    (hwarp : (s.warpIn tm ((c.readS s o.s.toNat).toNat % 32)).isSome = true)
    (hroom : o.p.toNat < 6 ∨ s.holders c.core o.p.toNat (fun u _ => u == c.uid) < 2)
    (hst : (c.w.port o.p.toNat).st = st) : execPbind o s = s.settle c o.sw (c.rebinds s o.p.toNat (c.readS s o.s.toNat) st) := by
  have hfull : (decide (6 ≤ o.p.toNat) && decide (2 ≤ s.holders c.core o.p.toNat (fun u _ => u == c.uid))) = false := by
    simpa [imp_iff_not_or, Nat.not_le] using hroom
  unfold Cx.free at hf
  simp only [execPbind, State.runTarget, hs.1, Cx.noXp_of_none hs.2, hf, bits_team_index, hweave, htarget, hreach, hteam, hwarp,
    hfull, hst, bind, Except.bind, beq_self_eq_true, Bool.and_self, Bool.not_true, Bool.or_self, Bool.false_eq_true, if_false]
  cases st
  case connected =>
    unfold Cx.rebinds
    cases s.pushesDone c.uid o.p.toNat <;> rfl
  all_goals rfl

end

theorem execPunbind_eq {o : FPort} {st : PortSt} (hst : (c.w.port o.p.toNat).st = st) :
    execPunbind o s = s.settle c o.sw (c.unbinds s o.p.toNat st) := by
  simp only [execPunbind, State.runTarget, hs.1, Cx.noXp_of_none hs.2, hst, bind, Except.bind]
  cases st
  case connected =>
    unfold Cx.unbinds
    cases s.pushesDone c.uid o.p.toNat <;> rfl
  all_goals rfl

theorem execPstat_gives {o : FPop} {d : Nat} (hr : c.resolve 0 c.mask none o.d.toNat 1 = .ok d) (hf : c.free s [.v d c.mask])
    (hb : c.uncaptured s [d]) (hne : lanesOf c.mask ≠ []) :
    execPstat o s = .next (((s.result c 2 [.v d c.mask] [.v d ((lanesOf c.mask).map (fun l => (l, c.pstatWord s o.p.toNat l)))]).sampling
      c.uid (.port o.p.toNat)).closeGroup c o.sw .next) := by
  unfold Cx.free at hf
  unfold Cx.uncaptured at hb
  have hsome : ((lanesOf c.mask).map (fun l => (l, c.pstatWord s o.p.toNat l))).isEmpty = false := by simpa using hne
  refine State.runTarget_ok hs.1 ?_
  simp only [Cx.noXp_of_none hs.2, hr, hf, hb, hsome, bind, Except.bind, Bool.false_eq_true, if_false]

end

/-- Settles O37: what a port reaches and the state it is in decide a binding, and the state alone an unbinding. -/
theorem portBinding : Obligations.PortBinding := by
  intro s c hs
  refine ⟨?bind, ?unbind, fun o d => execPstat_gives hs⟩
  case bind =>
    intro o hf t p ix others
    refine ⟨execPbind_unreached hs hf, fun k tm hweave htarget hreach hteam hwarp hroom => ?_⟩
    have hreached {st : PortSt} := execPbind_reached (st := st) hs hf hweave htarget hreach hteam hwarp hroom
    refine ⟨?_, fun hst => hreached hst, fun hst hdone => (hreached hst).trans (congrArg _ (if_pos hdone))⟩
    rintro (hst | hst) <;> exact hreached hst
  case unbind =>
    intro o
    refine ⟨fun hst => execPunbind_eq hs hst, ?_,
      fun hst hwait => (execPunbind_eq hs hst).trans (congrArg _ (if_neg (ne_true_of_eq_false hwait)))⟩
    rintro (hst | hst | ⟨hst, hdone⟩)
    · exact execPunbind_eq hs hst
    · exact execPunbind_eq hs hst
    · exact (execPunbind_eq hs hst).trans (congrArg _ (if_pos hdone))

end Sys2Proof.Machine
end

section
/-! SUPPORT. Ports at work: values that become visible, and the watchdog (R234, R236, R238). -/

namespace Sys2Proof

/-- Rewriting the values at keys that differ, one key after the other. -/
theorem KMap.getD_foldl_set {α : Type} (f : Nat → α → α) (m : KMap α) {ls : List Nat} (hn : ls.Nodup) (k : Nat) (d : α) :
    (ls.foldl (fun m l => m.set l (f l (m.getD l d))) m).getD k d = if k ∈ ls then f k (m.getD k d) else m.getD k d := by
  induction ls generalizing m with
  | nil => rfl
  | cons l t ih =>
    obtain ⟨hl, ht⟩ := List.nodup_cons.1 hn
    rw [List.foldl_cons, ih _ ht, KMap.getD_set]
    by_cases hk : k = l
    · subst hk
      simp [hl]
    · simp [hk]

end Sys2Proof

namespace Sys2Proof.Machine

open Sys2Proof

theorem State.observes.txs {s t : State} (h : s.observes t) : t.txs = s.txs := by
  unfold State.observes at h
  rw [h]

theorem State.observes.warp {s t : State} (h : s.observes t) (u : Nat) : t.warp u = s.warp u := by
  rw [State.warp, h.warps]
  rfl

/-- A lane's queue once the value of a push comes to it: discarded, or visible (R234, R236). -/
def laneArrival (id : Nat) (dead : Bool) (l : List PortVal) : List PortVal :=
  if dead then l.filter (fun v => v.tx != id) else l.map (fun v => if v.tx = id then { v with vis := true } else v)

/-- A port once the values of a push come to some of its lanes. -/
def Port.arrive (x : Port) (id : Nat) (dead : Nat → Bool) (ls : List Nat) : Port :=
  { x with queue := ls.foldl (fun m l => m.set l (laneArrival id (dead l) (m.getD l []))) x.queue }

theorem Port.arrive_lane (x : Port) (id : Nat) (dead : Nat → Bool) {ls : List Nat} (hn : ls.Nodup) (l : Nat) :
    (x.arrive id dead ls).lane l = if l ∈ ls then laneArrival id (dead l) (x.lane l) else x.lane l :=
  KMap.getD_foldl_set (fun l => laneArrival id (dead l)) x.queue hn l []

theorem PortTx.mem_clear {t : PortTx} {id l : Nat} {x : Port} : l ∈ t.clear id x ↔
    l ∈ t.lanes ∧ ((x.lane l).takeWhile (fun v => v.tx != id)).all (fun v => v.vis) = true := List.mem_filter

theorem PortTx.clear_nodup {t : PortTx} (h : t.lanes.Nodup) (id : Nat) (x : Port) : (t.clear id x).Nodup := h.filter _

section
variable {s : State} {id : Nat} {t : PortTx} (ht : s.txs.get? id = some t) (hw : (s.warps.get? t.tgt).isSome = true)
include ht hw

theorem execPortValueVisible_waits (hd : s.depOk t.uid t.dep = false) :
    execPortValueVisible id s = .next (s.post (.portValueVisible id)) := by
  simp only [execPortValueVisible, ht, Option.isNone_eq_false_iff.2 hw, State.txOk, hd, Bool.false_and, Bool.not_false, Bool.true_or,
    Bool.false_eq_true, if_false, if_true]
  rfl

/-- On a lane port, the values come to the lanes in whose queues every earlier one is visible. -/
theorem execPortValueVisible_arrives (hok : s.txOk t = true) (hp : t.port < 2) (hport : t.tport < (s.warp t.tgt).ports.length)
    (hsome : t.clear id ((s.warp t.tgt).port t.tport) ≠ [])
    (hplace : (s.warp t.tgt).id.place.isSome = true ∨ (s.warp t.tgt).retired = true) :
    ∃ q : State, execPortValueVisible id s = .next q ∧
      (t.lanes.filter (fun l => !(t.clear id ((s.warp t.tgt).port t.tport)).contains l) = [] → q.txs = s.txs.erase id) ∧
      (q.warp t.tgt).port t.tport = ((s.warp t.tgt).port t.tport).arrive id (gone t.port (s.warp t.tgt))
        (t.clear id ((s.warp t.tgt).port t.tport)) := by
  have hstays : ((s.warp t.tgt).id.place.isNone && !(s.warp t.tgt).retired) = false := by
    rcases hplace with h | h
    · rw [← Option.not_isSome, h]
      rfl
    · rw [h, Bool.not_true, Bool.and_false]
  simp only [execPortValueVisible, ht, Option.isNone_eq_false_iff.2 hw, hok, List.isEmpty_eq_false_iff.2 hsome, hstays, hp, decide_true,
    Bool.not_true, Bool.or_self, Bool.true_or, Bool.false_eq_true, if_false, if_true]
  refine ⟨_, rfl, fun hall => ?_, ?_⟩
  · rw [(State.observes_bumpHdr ..).txs, State.modWarp_txs, hall]
    rfl
  · rw [(State.observes_bumpHdr ..).warp, State.modWarp_warp]
    exact Warp.setPort_port (by split <;> exact hport) _

end

theorem execPortWatchdogExpiry_traps {s : State} {u due : Nat} {g : Group} (hdue : s.portDue u = some due)
    (hg : (s.warp u).group = some g) :
    let w := s.warp u
    let t : State := { (s.reachCore w.core due).wake u w.iss.stall with word := w.iss.parkWord }
    execPortWatchdogExpiry u s = .next (t.raise { uid := u, w := t.warp u, g := g }
      { cause := 0x0D, info1 := (w.iss.parkWord.extractLsb' 18 3).setWidth 32, info2 := g.mask.setWidth 32,
        info3 := g.mask.extractLsb' 32 32 }) := by
  simp only [execPortWatchdogExpiry, hdue, hg]
  rfl

end Sys2Proof.Machine
end

section
/-! SUPPORT. Barriers at work: arrivals, combiners, releases and the watchdog (R366, R367, R369, R370). -/

namespace Sys2Proof.Machine

open Sys2Proof

/-! Barriers of teams. -/

theorem State.team_of_get? {s : State} {k : Nat} {t : Team} (h : s.teams.get? k = some t) : s.team k = t := KMap.getD_of_get? h

theorem State.putBar_bar {s : State} {k : Nat} {t : Team} (h : s.teams.get? k = some t) (b : Nat) (x : Barrier) :
    ((s.putBar k b x).team k).bar b = x := by
  rw [State.putBar, State.modTeam, State.team, KMap.getD_of_get? (KMap.get?_modify_self h)]
  exact KMap.getD_set_self ..

/-! Arrivals (R366). -/

/-- A barrier with the arrivals of a warp counted. -/
def Barrier.counts (x : Barrier) (u : Nat) : Barrier :=
  { x with arrivals := x.arrivals.map (fun q => if q.uid = u then { q with counted := true } else q) }

section
variable {s : State} {u b : Nat} {w : Warp} {a : Arrive} (hw : s.warps.get? u = some w)
  (ha : ((s.team w.id.team).bar b).arrivals.find? (fun a => a.uid == u && !a.counted) = some a)
  (hconf : ((s.team w.id.team).bar b).st ≠ .unconf)
include hw ha hconf

theorem execBarrierArrivalCounted_counts (hruns : s.runs w.id.ctx = true)
    (hok : s.arrivalOk a ((s.team w.id.team).bar b).level = true) : execBarrierArrivalCounted u b s =
      .next ((s.putBar w.id.team b (((s.team w.id.team).bar b).counts u)).tryMeet w.id.team b) := by
  simp only [execBarrierArrivalCounted, hw, ha, hconf, hruns, hok, Bool.not_true, Bool.or_self, Bool.false_eq_true, if_false]
  rfl

theorem execBarrierArrivalCounted_waits (hok : s.arrivalOk a ((s.team w.id.team).bar b).level = false) :
    execBarrierArrivalCounted u b s = .next (s.post (.barrierArrivalCounted u b)) := by
  simp only [execBarrierArrivalCounted, hw, ha, hconf, hok, Bool.not_false, Bool.or_true, if_false, if_true]
  rfl

end

/-! Combiners and releases (R367). -/

/-- A barrier in its next phase, with the arrivals that were not counted. -/
def Barrier.released (x : Barrier) : Barrier :=
  { x with phase := x.phase + 1, arrivals := x.arrivals.filter (fun a => !a.counted), st := .idle }

/-- The release posts nothing but the ends of memberships. -/
theorem State.release_team (s : State) (k b : Nat) : (s.release k b).team k =
    (if (((s.team k).bar b).arrivals.filter (fun a => !a.counted)).isEmpty then s.putBar k b ((s.team k).bar b).released
      else s.startFill k b ((s.team k).bar b).released).team k := by
  unfold State.release
  dsimp only
  rw [State.team, (State.setsGoing.foldl (fun s a => ?_) _ _).teams]
  · rfl
  · split <;> rfl

/-- Whether a combiner is that of a barrier of a team. -/
def State.combines (s : State) (k : Nat) (t : Team) (b : Nat) (c : Comb) : Bool :=
  c.ctx == t.ctx && c.grid == t.grid && c.b == b && c.level == (t.bar b).level && c.inst == s.instance1 k (t.bar b).level

/-- The teams that have met at the combiner of a barrier, with team `k`. -/
def State.metWith (s : State) (k : Nat) (t : Team) (b : Nat) : List Nat :=
  addNew (((s.combs.find? (s.combines k t b)).map (fun c => c.teams)).getD []) [k]

/-- The combiners once team `k` has met at that of its barrier. -/
def State.combsWith (s : State) (k : Nat) (t : Team) (b : Nat) : List Comb :=
  { ctx := t.ctx, grid := t.grid, b := b, level := (t.bar b).level, inst := s.instance1 k (t.bar b).level, teams := s.metWith k t b } ::
    s.combs.filter (fun c => !s.combines k t b c)

section
variable {s : State} {k b : Nat} {t : Team} (ht : s.teams.get? k = some t)
include ht

section
variable (hmet : (t.bar b).st = .met)
include hmet

theorem execBarrierRelease_releases : execBarrierRelease k b s = .next (s.release k b) := by
  simp only [execBarrierRelease, ht, hmet, if_true]
  rfl

theorem execCombinerArrival_last (hall : (s.participants k (t.bar b).level).all (fun p => (s.metWith k t b).contains p) = true) :
    execCombinerArrival k b s = .next (State.postAll { s with combs := s.combs.filter (fun c => !s.combines k t b c) }
      ((s.participants k (t.bar b).level).map (fun p => Ev.barrierRelease p b))) := by
  unfold State.metWith at hall
  simp only [execCombinerArrival, ht, hmet]
  exact if_pos hall

theorem execCombinerArrival_joins (hall : (s.participants k (t.bar b).level).all (fun p => (s.metWith k t b).contains p) = false) :
    execCombinerArrival k b s = .next { s with combs := s.combsWith k t b } := by
  simp only [execCombinerArrival, ht, hmet]
  exact if_neg (ne_true_of_eq_false hall)

end

/-- A release starts the next phase, with the arrivals that were not counted (R367). -/
theorem State.release_bar :
    (((s.release k b).team k).bar b).phase = (t.bar b).phase + 1 ∧
    (((s.release k b).team k).bar b).arrivals = (t.bar b).arrivals.filter (fun a => !a.counted) ∧
    ((((s.release k b).team k).bar b).st = .idle ∨ (((s.release k b).team k).bar b).st = .filling) := by
  rw [State.release_team, State.team_of_get? ht]
  split
  · rw [State.putBar_bar ht]
    exact ⟨rfl, rfl, .inl rfl⟩
  · rw [State.startFill, State.putBar_bar ht]
    exact ⟨rfl, rfl, .inr rfl⟩

end

/-! The watchdog (R369, R370). -/

theorem State.terminate_ctxs (s : State) (ctx : Nat) :
    (s.terminate ctx).ctxs = (s.modCtx ctx (fun k => { k with terminated := true, run := .saved })).ctxs := by
  unfold State.terminate
  dsimp only
  split <;> rfl

theorem State.terminate_ctx {s : State} {ctx : Nat} (h : s.hasCtx ctx) :
    (s.terminate ctx).ctx ctx = { s.ctx ctx with terminated := true, run := .saved } := by
  rw [State.ctx, State.terminate_ctxs]
  exact State.modCtx_ctx h _

theorem State.hasCtx_wrWords {s : State} {ctx : Nat} (h : s.hasCtx ctx) (a : Nat) (l : List Word) : (s.wrWords a l).hasCtx ctx :=
  State.hasCtx_of_eq h (State.observes_wrWords ..).ctxs

theorem State.hasCtx_record {s : State} {ctx : Nat} (h : s.hasCtx ctx) (x : Nat) (r : FaultRec) : (s.record x r).1.hasCtx ctx := by
  unfold State.record
  dsimp only
  split
  · exact State.hasCtx_wrWords h ..
  · exact State.hasCtx_modCtx h ..

theorem State.observes.ctx {s t : State} (h : s.observes t) (ctx : Nat) : t.ctx ctx = s.ctx ctx := by
  rw [State.ctx, h.ctxs]
  rfl

theorem State.record_diags {s : State} {ctx : Nat} (h : s.hasCtx ctx) (r : FaultRec) :
    ((s.record ctx r).1.ctx ctx).diags = (s.ctx ctx).diags := by
  unfold State.record
  dsimp only
  split
  · rw [(State.observes_wrWords ..).ctx]
  · rw [State.modCtx_ctx h]

/-- A context ends with a diagnostic record at `a`, which is counted, and a fault record (R369, R370). -/
def State.endsWith (s : State) (ctx a : Nat) (diag : List Word) (r : FaultRec) : State :=
  (((s.wrWords a diag).modCtx ctx (fun c => { c with diags := c.diags + 1 })).record ctx r).1.terminate ctx

theorem State.endsWith_ctx {s : State} {ctx : Nat} (h : s.hasCtx ctx) (a : Nat) (diag : List Word) (r : FaultRec) :
    ((s.endsWith ctx a diag r).ctx ctx).terminated = true ∧ ((s.endsWith ctx a diag r).ctx ctx).diags = (s.ctx ctx).diags + 1 := by
  have hwrote := State.hasCtx_wrWords h a diag
  have hcounted := State.hasCtx_modCtx hwrote ctx (fun c => { c with diags := c.diags + 1 })
  rw [State.endsWith, State.terminate_ctx (State.hasCtx_record hcounted ctx r)]
  refine ⟨rfl, (State.record_diags hcounted r).trans ?_⟩
  rw [State.modCtx_ctx hwrote, (State.observes_wrWords ..).ctx]

theorem execBarrierWatchdog_ends {s : State} {k b due : Nat} (hdue : s.barDue k b = some due) :
    ∃ t : State, execBarrierWatchdog k b s = .next t ∧ (s.hasCtx (s.team k).ctx →
      (t.ctx (s.team k).ctx).terminated = true ∧ (t.ctx (s.team k).ctx).diags = (s.ctx (s.team k).ctx).diags + 1) := by
  simp only [execBarrierWatchdog, hdue]
  exact ⟨_, rfl, fun h => State.endsWith_ctx (s := s.reachMesh _ due) h ..⟩

/-- Settles O50: each event meets the branch that its hypotheses name; the queues of a push, and the phase after a release, are read
off what the event leaves. -/
theorem portAndBarrierEvents : Obligations.PortAndBarrierEvents := by
  intro s
  refine ⟨?_, fun u due g => execPortWatchdogExpiry_traps, fun u w b a hw =>
      fun ha hconf => ⟨execBarrierArrivalCounted_counts hw ha hconf, execBarrierArrivalCounted_waits hw ha hconf⟩,
    fun k t b ht hmet => ⟨execBarrierRelease_releases ht hmet, execCombinerArrival_last ht hmet, execCombinerArrival_joins ht hmet⟩,
    fun k t b ht => State.release_bar ht, fun k b due => execBarrierWatchdog_ends⟩
  intro id t ht hnodup hport w x first hw
  refine ⟨execPortValueVisible_waits ht hw, fun hdep hcover hsome hp hplace => ?_⟩
  have hok : s.txOk t = true := by
    simpa [State.txOk, hdep] using hcover
  obtain ⟨l, hl, hfirst⟩ := hsome
  have hclear := List.ne_nil_of_mem (PortTx.mem_clear.2 ⟨hl, hfirst⟩)
  obtain ⟨q, hexec, htxs, hqueue⟩ := execPortValueVisible_arrives ht hw hok hp hport hclear hplace
  refine ⟨q, hexec, fun hall => htxs ?_, fun l hl => ?_⟩
  · refine List.filter_eq_nil_iff.2 fun l hl => ?_
    simpa using PortTx.mem_clear.2 ⟨hl, hall l hl⟩
  · rw [hqueue, Port.arrive_lane x id _ (PortTx.clear_nodup hnodup id x)]
    exact ⟨fun h => if_neg fun hc => h (PortTx.mem_clear.1 hc).2, fun h => if_pos (PortTx.mem_clear.2 ⟨hl, h⟩)⟩

end Sys2Proof.Machine
end

section
/-! SUPPORT. Receive counters (R264, R266): what counting and arming leave beside the counter itself, which the waits that they end
and the triggers that they fire do not touch. -/

namespace Sys2Proof.Machine

open Sys2Proof

/-- Device memory and every receive counter are as they were. -/
def State.keepsCounters (s t : State) : Prop := t.mem = s.mem ∧ ∀ core, (t.core core).rcs = (s.core core).rcs

namespace State.keepsCounters

variable {s t u : State}

theorem refl (s : State) : s.keepsCounters s := ⟨rfl, fun _ => rfl⟩

theorem trans (h1 : s.keepsCounters t) (h2 : t.keepsCounters u) : s.keepsCounters u :=
  ⟨h2.1.trans h1.1, fun core => (h2.2 core).trans (h1.2 core)⟩

/-- What changes neither memory nor cores. -/
theorem of_eq (hmem : t.mem = s.mem) (hcores : t.cores = s.cores) : s.keepsCounters t :=
  ⟨hmem, fun _ => by rw [State.core, State.core, hcores]⟩

theorem foldl {α : Type} {f : State → α → State} (hf : ∀ (s : State) x, s.keepsCounters (f s x)) (l : List α) (s : State) :
    s.keepsCounters (l.foldl f s) := by
  induction l generalizing s with
  | nil => exact refl s
  | cons x t ih => exact (hf s x).trans (ih (f s x))

theorem rc (h : s.keepsCounters t) (core n : Nat) : t.rc core n = s.rc core n := by
  rw [State.rc, State.rc, h.2]

end State.keepsCounters

/-! The log of a warp (R404) takes no part in the counters of its core. -/

/-- A change of a core's segments. -/
theorem State.keepsCounters_modCore_segs (s : State) (k : Nat) (f : Core → List Seg) :
    s.keepsCounters (s.modCore k (fun c => { c with segs := f c })) := by
  refine ⟨rfl, fun core => ?_⟩
  rw [State.modCore, State.core, KMap.getD_set]
  split
  next h => rw [h]
  next => rfl

theorem State.keepsCounters_post (s : State) (e : Ev) : s.keepsCounters (s.post e) := .refl s

theorem State.keepsCounters_roomFor (s : State) (core ctx : Nat) : s.keepsCounters (s.roomFor core ctx) := by
  unfold State.roomFor
  split
  · exact .refl s
  · dsimp only
    split
    · exact .refl s
    · split <;> exact (State.keepsCounters_modCore_segs ..).trans (State.keepsCounters_post ..)

theorem State.keepsCounters_extend (s : State) (core ctx : Nat) (l : List Word) (f : Seg → Seg) :
    s.keepsCounters (s.extend core ctx l f) := by
  unfold State.extend
  split
  · exact .refl s
  · exact (State.keepsCounters_modCore_segs ..).trans (State.keepsCounters_roomFor ..)

theorem State.keepsCounters_logWarp (s : State) (u kind : Nat) (payload : List Word) : s.keepsCounters (s.logWarp u kind payload) := by
  unfold State.logWarp
  split
  · exact .refl s
  · split
    · unfold State.logInput
      split
      · exact .refl s
      · exact State.keepsCounters_extend ..
    · exact .refl s

/-! The waits that a counter ends, and the triggers that it fires. -/

theorem State.keepsCounters_statusV (s : State) (u : Nat) (own : Owner) (n lane : Nat) (v : Word) :
    s.keepsCounters (s.statusV u own n lane v) := by
  unfold State.statusV State.statusLanes
  split
  · exact .refl s
  · exact (State.keepsCounters_logWarp ..).trans (.of_eq rfl rfl)

theorem State.keepsCounters_endReq (s : State) (id : Nat) (v : Word) : s.keepsCounters (s.endReq id v) := by
  unfold State.endReq
  split
  · exact .refl s
  next r _ =>
    have hended := State.keepsCounters_statusV { s with reqs := s.reqs.erase id } r.uid (.req id) r.v r.lane v
    dsimp only
    split
    · exact hended.trans (State.keepsCounters_post ..)
    · exact hended

theorem State.keepsCounters_endWaits (s : State) (core n : Nat) : s.keepsCounters (s.endWaits core n) :=
  .foldl (fun s id => State.keepsCounters_endReq s id _) _ s

theorem State.keepsCounters_fire (s : State) (core n fuel : Nat) : s.keepsCounters (s.fire core n fuel) := by
  induction fuel generalizing s with
  | zero => exact .refl s
  | succ k ih =>
    unfold State.fire
    split
    · exact .refl s
    · exact .trans (.of_eq rfl rfl) (ih _)

/-! Counting and arming. -/

/-- A counter to which `m` is added (R264). -/
def Rc.counts (r : Rc) (m : Nat) : Rc :=
  { r with
    count := min 0xFFFFFFFF (r.count + m)
    ovf := r.ovf || min 0xFFFFFFFF (r.count + m) == 0xFFFFFFFF
    arrivedIdle := r.arrivedIdle || r.st == 0
    st := if r.st == 1 && decide (r.target ≤ min 0xFFFFFFFF (r.count + m)) then 2 else r.st }

/-- A counter armed with a target (R264). -/
def Rc.arms (r : Rc) (t : Nat) : Rc := { r with count := 0, target := t, st := if t = 0 then 2 else 1 }

theorem State.putRc_rc_self (s : State) (core n : Nat) (r : Rc) : (s.putRc core n r).rc core n = r := by
  rw [State.putRc, State.modCore, State.rc, State.core, KMap.getD_set_self, KMap.getD_set_self]

theorem State.putRc_rc_ne (s : State) (core : Nat) {n k : Nat} (r : Rc) (h : k ≠ n) : (s.putRc core n r).rc core k = s.rc core k := by
  rw [State.putRc, State.modCore, State.rc, State.core, KMap.getD_set_self, KMap.getD_set_ne _ _ _ h]
  rfl

/-- What follows a counter's change keeps every counter, whether or not the change ends waits. -/
theorem State.keepsCounters_settle (s : State) (core n : Nat) (met : Prop) [Decidable met] :
    s.keepsCounters ((if met then s.endWaits core n else s).fire core n (if met then s.endWaits core n else s).copies.length) := by
  refine .trans ?_ (State.keepsCounters_fire ..)
  split
  · exact State.keepsCounters_endWaits ..
  · exact .refl s

theorem State.count_keeps (s : State) (core n m : Nat) :
    (s.putRc core n ((s.rc core n).counts m)).keepsCounters (s.count core n m) :=
  State.keepsCounters_settle ..

theorem State.arm_keeps (s : State) (core n t : Nat) : (s.putRc core n ((s.rc core n).arms t)).keepsCounters (s.arm core n t).1 :=
  State.keepsCounters_settle ..

theorem State.count_rc (s : State) (core n m : Nat) : (s.count core n m).rc core n = (s.rc core n).counts m :=
  ((s.count_keeps core n m).rc core n).trans (State.putRc_rc_self ..)

theorem State.count_rc_ne (s : State) (core m : Nat) {n k : Nat} (h : k ≠ n) : (s.count core n m).rc core k = s.rc core k :=
  ((s.count_keeps core n m).rc core k).trans (State.putRc_rc_ne _ _ _ h)

theorem State.arm_rc (s : State) (core n t : Nat) : (s.arm core n t).1.rc core n = (s.rc core n).arms t :=
  ((s.arm_keeps core n t).rc core n).trans (State.putRc_rc_self ..)

/-- Settles O52: the counter is put once, and what follows, the ends of waits and the firing of triggers, keeps every counter. -/
theorem counterRules : Obligations.CounterRules := by
  intro s core n m t
  dsimp only
  rw [State.count_rc, State.arm_rc]
  refine ⟨rfl, rfl, ?_, ?_, ?_, rfl, ⟨rfl, rfl, rfl⟩, (s.count_keeps core n m).1, fun k => State.count_rc_ne s core m⟩ <;>
    simp [Rc.counts]

end Sys2Proof.Machine
end

section
/-! SUPPORT. A copy that has failed while a chunk of it was due to be read (R267, R269). -/

namespace Sys2Proof.Machine

open Sys2Proof

/-- A copy that failed at a landing, after which nothing of it is left to read or to land (R267). -/
def failedCopy : Copy := { uid := 1, ctx := 0, core := 0, team := 1, lane := 0, v := 3, rc := [], st := .moving, fail := some (7, true, 0) }

/-- Its context has been saved since, and its end waits for that. -/
def failedCopyState : State :=
  { State.reset with ctxs := [(0, { run := .saved })], copies := [(0, failedCopy)], bag := [.copyEnd 0] }

/-- A read of a chunk that was still due reads nothing and sets nothing going. -/
theorem failedCopy_reads_nothing : exec (.copyChunkRead 0) failedCopyState = .next failedCopyState := rfl

/-- Refutes O51: the clauses on reading leave out that the copy has not failed. One that has reads no chunk any more, and neither does
a read that was still due wait for its context to be back. -/
theorem not_copyEvents : ¬ Obligations.CopyEvents := by
  intro h
  obtain ⟨-, -, hread, -⟩ := h failedCopyState 0 failedCopy rfl
  have hwaits : exec (.copyChunkRead 0) failedCopyState = .next (failedCopyState.post (.copyChunkRead 0)) := (hread rfl).2 rfl
  have hsame : failedCopyState = failedCopyState.post (.copyChunkRead 0) :=
    Host.Outcome.next.inj (failedCopy_reads_nothing.symm.trans hwaits)
  exact absurd (congrArg (·.bag.length) hsame) (by decide)

end Sys2Proof.Machine
end

section
/-! SUPPORT. The checks and the parameters of a matrix word, and the bindings of operand handles and scale tensors (R282, R290, R293,
R300, R304, R305). -/

namespace Sys2Proof.Machine

open Sys2Proof

/-- The address of a failing lane, when it is a word (R105). -/
theorem trapLane_word (cause : BitVec 6) (lane : Nat) (w : Word) :
    trapLane cause lane (w.setWidth 64) = .trap { cause := cause, info1 := BitVec.ofNat 32 lane, info2 := w, info3 := 0 } := by
  have low : (w.setWidth 64).setWidth 32 = w := by simp
  have high : (w.setWidth 64).extractLsb' 32 32 = 0 := by
    apply BitVec.eq_of_toNat_eq
    simp [Nat.shiftRight_eq_div_pow]
    omega
  rw [trapLane, low, high]

/-! The checks of every matrix word (R300). -/

/-- The registers that a matrix word names are valid (R33). -/
def Cx.names (c : Cx) (v n : Nat) : Prop := ∀ r, v ≤ r → r < v + n → c.w.validV r = true

theorem Cx.mxHead_ok {c : Cx} {v n : Nat} {kp : BitVec 4} (hx : c.g.xp = none) (hv : c.names v n) (hp : kp ≠ 15) :
    c.mxHead v n kp = .ok () := by
  have hnone : (List.range' v n).find? (fun r => !c.w.validV r) = none := by
    refine List.find?_eq_none.2 fun r hr => ?_
    obtain ⟨hlo, hhi⟩ := List.mem_range'_1.1 hr
    simp [hv r hlo hhi]
  simp only [Cx.mxHead, Cx.noXp_of_none hx, hnone, hp, bind, Except.bind, if_false]

/-- What a matrix word of the posting lane does once its form, its registers and its produce key are checked: nothing without an
active lane, and else its work once the registers that it names are free. -/
def Cx.mxBody (c : Cx) (s : State) (v n : Nat) (kp : BitVec 4) (names : List RegName) (k : Except Stop (State × Flow)) :
    Except Stop (State × Flow) := do
  c.mxHead v n kp
  if c.mask = 0 then .ok (s, .next)
  else
    c.touch s names
    k

section
variable {s : State} {c : Cx} {v n : Nat} {kp : BitVec 4} {sw : Bool} {names : List RegName}
  {body : Cx → State → Except Stop (State × Flow)} {k : Except Stop (State × Flow)}
  (hs : s.bare c) (hv : c.names v n) (hp : kp ≠ 15) (hb : body c s = c.mxBody s v n kp names k)
include hs hv hp hb

theorem State.runTarget_mx (hm : c.mask ≠ 0) (hf : c.free s names) : s.runTarget sw body = s.settle c sw k := by
  unfold Cx.free at hf
  unfold State.runTarget
  rw [hs.1]
  simp only [hb, Cx.mxBody, Cx.mxHead_ok hs.2 hv hp, hf, bind, Except.bind, if_neg hm]

theorem State.runTarget_mx_idle (hm : c.mask = 0) : s.runTarget sw body = .next (s.closeGroup c sw .next) := by
  refine State.runTarget_ok hs.1 ?_
  simp only [hb, Cx.mxBody, Cx.mxHead_ok hs.2 hv hp, bind, Except.bind, if_pos hm]

end

/-- MX_PARAM at a word of the parameters (R293). -/
def Cx.raisesParam (c : Cx) (s : State) (reason ix : Nat) (w : Word) : Host.Outcome State Fault Refusal :=
  .next (s.raise c
    { cause := 0x0E, info1 := BitVec.ofNat 32 (reason + ix * 2 ^ 8), info2 := w, info3 := BitVec.ofNat 32 c.lane })

@[simp] theorem State.settle_mxParam (s : State) (c : Cx) (sw : Bool) (reason ix : Nat) (w : Word) :
    s.settle c sw (.error (mxParam reason ix w c.lane)) = c.raisesParam s reason ix w := rfl

@[simp] theorem State.settle_ok (s t : State) (c : Cx) (sw : Bool) (fl : Flow) :
    s.settle c sw (.ok (t, fl)) = .next (t.closeGroup c sw fl) := rfl

/-! Bounds of a field. -/

theorem div_bne_zero_of_le {n k : Nat} (hk : 0 < k) (h : k ≤ n) : (n / k != 0) = true :=
  bne_iff_ne.2 (Nat.div_ne_zero_iff.2 ⟨Nat.ne_of_gt hk, h⟩)

theorem div_bne_zero_of_lt {n k : Nat} (h : n < k) : (n / k != 0) = false := by
  rw [Nat.div_eq_of_lt h]
  rfl

/-! MXHBIND (R304). -/

/-- The fields of MXHBIND, each with whether it is bad. -/
def handleFields (h base size : Nat) : List (Nat × Bool) :=
  [(0, h / 16 != 0), (1, base / 2 ^ 23 != 0 || base % 128 != 0), (2, size % 128 != 0 || size == 0)]

section
variable {h base size : Nat}

theorem handleFields_bad_handle (h0 : 16 ≤ h) : (handleFields h base size).find? (fun b => b.2) = some (0, true) := by
  simp only [handleFields, List.find?, div_bne_zero_of_le (by decide) h0]

theorem handleFields_bad_base (h0 : h < 16) (h1 : 2 ^ 23 ≤ base ∨ base % 128 ≠ 0) :
    (handleFields h base size).find? (fun b => b.2) = some (1, true) := by
  have hbad : (base / 2 ^ 23 != 0 || base % 128 != 0) = true := by
    rcases h1 with h1 | h1
    · rw [div_bne_zero_of_le (by decide) h1, Bool.true_or]
    · rw [bne_iff_ne.2 h1, Bool.or_true]
  simp only [handleFields, List.find?, div_bne_zero_of_lt h0, hbad]

theorem handleFields_bad_size (h0 : h < 16) (h1 : base < 2 ^ 23) (h1' : base % 128 = 0) (h2 : size % 128 ≠ 0 ∨ size = 0) :
    (handleFields h base size).find? (fun b => b.2) = some (2, true) := by
  have hbad : (size % 128 != 0 || size == 0) = true := by simpa using h2
  simp only [handleFields, List.find?, div_bne_zero_of_lt h0, div_bne_zero_of_lt h1, h1', hbad, bne_self_eq_false, Bool.or_self]

theorem handleFields_good (h0 : h < 16) (h1 : base < 2 ^ 23) (h1' : base % 128 = 0) (h2 : size % 128 = 0) (h2' : size ≠ 0) :
    (handleFields h base size).find? (fun b => b.2) = none := by
  simp only [handleFields, List.find?, div_bne_zero_of_lt h0, div_bne_zero_of_lt h1, h1', h2, beq_false_of_ne h2',
    bne_self_eq_false, Bool.or_self]

end

/-- A handle as MXHBIND leaves it: its generation stays. -/
def Handle.boundAt (h : Handle) (base size : Nat) : Handle := { h with bound := true, base := base, size := size }

/-- A team with one of its handles replaced. -/
def Team.setHandle (t : Team) (n : Nat) (h : Handle) : Team := { t with handles := t.handles.set n h }

/-- A tensor's number is not the field that names every tensor (R305). -/
theorem ne_all_of_lt {w : Word} (h : w.toNat < 256) : w ≠ 0xFFFFFFFF := fun hall => by
  rw [hall] at h
  exact absurd h (by decide)

section
variable {s : State} {c : Cx} {o : FV} (hs : s.bare c) (hm : c.mask ≠ 0)
include hs hm

section
variable (hv : c.names o.v.toNat 3) (hf : c.free s (vNames o.v.toNat 3 (laneBit c.lane))) {h base size : Word}
  (hx : c.params s o.v.toNat 3 = [h, base, size])
include hv hf hx

theorem execMxhbind_bad {i : Nat} (hbad : (handleFields h.toNat base.toNat size.toNat).find? (fun b => b.2) = some (i, true)) :
    execMxhbind o s = c.raisesParam s 1 i (nth [h, base, size] i 0) := by
  unfold handleFields at hbad
  refine (State.runTarget_mx hs hv (kp := 0) (by decide) rfl hm hf).trans ?_
  simp only [hx, mw, nth, hbad, State.settle_mxParam]

variable (hgood : (handleFields h.toNat base.toNat size.toNat).find? (fun b => b.2) = none)
include hgood

theorem execMxhbind_binds (hz : (s.team c.w.id.team).zone base.toNat size.toNat = .alloc) : execMxhbind o s =
    .next (((c.command s [h.toNat, base.toNat, size.toNat]).modTeam c.w.id.team (fun t =>
      t.setHandle h.toNat (((s.team c.w.id.team).handle h.toNat).boundAt base.toNat size.toNat))).closeGroup c o.sw .next) := by
  unfold handleFields at hgood
  refine (State.runTarget_mx hs hv (kp := 0) (by decide) rfl hm hf).trans ?_
  simp only [hx, mw, nth, hgood, hz, bne_self_eq_false, Bool.false_eq_true, if_false]
  rfl

theorem execMxhbind_prot (hz : (s.team c.w.id.team).zone base.toNat size.toNat ≠ .alloc) : execMxhbind o s =
    .next (s.raise c { cause := 0x08, info1 := BitVec.ofNat 32 c.lane, info2 := base, info3 := 0 }) := by
  unfold handleFields at hgood
  refine (State.runTarget_mx hs hv (kp := 0) (by decide) rfl hm hf).trans ?_
  simp only [hx, mw, nth, hgood, bne_iff_ne.2 hz, trapLane_word, if_true]
  rfl

end

/-! MXHGEN (R282, R304). -/

/-- The next generation of a handle: what the operand cache holds under the old one is not read any more (R282). -/
def Handle.advance (h : Handle) : Handle := { h with gen := h.gen + 1 }

/-- A quad whose operand caches hold nothing of a team's handle. -/
def Quad.dropHandle (q : Quad) (team h : Nat) : Quad :=
  { q with opCache := q.opCache.filter (fun e => !((e.tag.drop 1).take 2 == [team, h])) }

section
variable (hv : c.names o.v.toNat 1) (hf : c.free s [.v o.v.toNat (laneBit c.lane)])
include hv hf

section
variable {w : Word} (hw : c.readV s o.v.toNat c.lane = w)
include hw

theorem execMxhgen_bad_handle (h : 16 ≤ w.toNat) : execMxhgen o s = c.raisesParam s 1 0 w := by
  refine (State.runTarget_mx hs hv (kp := 0) (by decide) rfl hm hf).trans ?_
  simp only [hw, div_bne_zero_of_le (by decide) h, if_true, State.settle_mxParam]

section
variable (hh : w.toNat < 16)
include hh

theorem execMxhgen_unbound (hb : ((s.team c.w.id.team).handle w.toNat).bound = false) :
    execMxhgen o s = c.raisesParam s 4 0 w := by
  refine (State.runTarget_mx hs hv (kp := 0) (by decide) rfl hm hf).trans ?_
  simp only [hw, div_bne_zero_of_lt hh, hb, Bool.not_false, if_true, State.settle_mxParam, Bool.false_eq_true, if_false]

section
variable (hb : ((s.team c.w.id.team).handle w.toNat).bound = true)
include hb

theorem execMxhgen_advances (hg : ((s.team c.w.id.team).handle w.toNat).gen ≠ 0xFFFF) :
    execMxhgen o s = .next (((c.command s [w.toNat]).modTeam c.w.id.team (fun t =>
      t.setHandle w.toNat ((s.team c.w.id.team).handle w.toNat).advance)).closeGroup c o.sw .next) := by
  have hbound : (!((s.team c.w.id.team).handle w.toNat).bound) = false := by rw [hb]; rfl
  refine (State.runTarget_mx hs hv (kp := 0) (by decide) rfl hm hf).trans ?_
  simp only [hw, div_bne_zero_of_lt hh, hbound, hg, Bool.false_eq_true, if_false]
  rfl

/-- The generation that comes after 0xFFFF finds nothing of its number in the caches. -/
theorem execMxhgen_wraps (hg : ((s.team c.w.id.team).handle w.toNat).gen = 0xFFFF) :
    execMxhgen o s = .next ((((c.command s [w.toNat]).modTeam c.w.id.team (fun t =>
      t.setHandle w.toNat ((s.team c.w.id.team).handle w.toNat).advance)).modQuad (quadOf c.core) (fun q =>
        q.dropHandle c.w.id.team w.toNat)).closeGroup c o.sw .next) := by
  have hbound : (!((s.team c.w.id.team).handle w.toNat).bound) = false := by rw [hb]; rfl
  refine (State.runTarget_mx hs hv (kp := 0) (by decide) rfl hm hf).trans ?_
  simp only [hw, div_bne_zero_of_lt hh, hbound, if_pos hg, Bool.false_eq_true, if_false]
  rfl

end

end

/-! SCINV (R305). -/

/-- The next generation of a scale tensor's binding: what the scale cache holds under the old one is not read any more (R291). -/
def Tensor.advance (t : Tensor) : Tensor := { t with gen := t.gen + 1 }

theorem execScinv_all (h : w = 0xFFFFFFFF) : execScinv o s = .next (((c.command s [w.toNat]).modQuad (quadOf c.core) (fun q =>
    { q with tensors := q.tensors.mapv (fun i t => if i / 256 == c.ctx then t.advance else t) })).closeGroup c o.sw .next) := by
  refine (State.runTarget_mx hs hv (kp := 0) (by decide) rfl hm hf).trans ?_
  simp only [hw, h, if_true]
  rfl

section
variable (hall : w ≠ 0xFFFFFFFF)
include hall

theorem execScinv_bad_tensor (h : 256 ≤ w.toNat) : execScinv o s = c.raisesParam s 1 0 w := by
  refine (State.runTarget_mx hs hv (kp := 0) (by decide) rfl hm hf).trans ?_
  simp only [hw, if_neg hall, h, if_true, State.settle_mxParam]

end

section
variable (ht : w.toNat < 256)
include ht

theorem execScinv_unbound (hb : (s.tensor (quadOf c.core) c.ctx w.toNat).bound = false) :
    execScinv o s = c.raisesParam s 9 0 w := by
  refine (State.runTarget_mx hs hv (kp := 0) (by decide) rfl hm hf).trans ?_
  simp only [hw, if_neg (ne_all_of_lt ht), Nat.not_le.2 ht, hb, Bool.not_false, if_true, if_false, State.settle_mxParam]

theorem execScinv_one (hb : (s.tensor (quadOf c.core) c.ctx w.toNat).bound = true) :
    execScinv o s = .next (((c.command s [w.toNat]).modQuad (quadOf c.core) (fun q =>
      { q with tensors := q.tensors.modify (tensorKey c.ctx w.toNat) Tensor.advance })).closeGroup c o.sw .next) := by
  refine (State.runTarget_mx hs hv (kp := 0) (by decide) rfl hm hf).trans ?_
  simp only [hw, if_neg (ne_all_of_lt ht), Nat.not_le.2 ht, hb, Bool.not_true, Bool.false_eq_true, if_false]
  rfl

end

end
end

/-! SCBIND (R305). -/

/-- A tensor as SCBIND leaves it, at the next generation of its number. -/
def Tensor.boundAt (t : Tensor) (base : Addr) (len : Nat) : Tensor := { base := base, len := len, bound := true, gen := t.gen + 1 }

/-- A quad with one of its tensors replaced. -/
def Quad.setTensor (q : Quad) (k : Nat) (t : Tensor) : Quad := { q with tensors := q.tensors.set k t }

section
variable (he : o.v.toNat % 2 = 0) (hv : c.names o.v.toNat 4) (hf : c.free s (vNames o.v.toNat 4 (laneBit c.lane)))
  {lo hi t len : Word} (hx : c.params s o.v.toNat 4 = [lo, hi, t, len])
include he hv hf hx

theorem execScbind_bad_tensor (ht : 256 ≤ t.toNat) : execScbind o s = c.raisesParam s 1 2 t := by
  refine (State.runTarget_mx hs hv (kp := 0) (by decide) (by simp only [he]; rfl) hm hf).trans ?_
  simp only [hx, mw, nth, div_bne_zero_of_le (by decide) ht, if_true, State.settle_mxParam]

section
variable (ht : t.toNat < 256)
include ht

theorem execScbind_bad_length (h : len.toNat = 0 ∨ 2 ^ 23 < len.toNat) : execScbind o s = c.raisesParam s 1 3 len := by
  have hbad : (decide (len.toNat = 0) || decide (2 ^ 23 < len.toNat)) = true := by simpa using h
  refine (State.runTarget_mx hs hv (kp := 0) (by decide) (by simp only [he]; rfl) hm hf).trans ?_
  simp only [hx, mw, nth, div_bne_zero_of_lt ht, hbad, if_true, if_false, State.settle_mxParam, Bool.false_eq_true]

theorem execScbind_binds (h0 : len.toNat ≠ 0) (hlen : len.toNat ≤ 2 ^ 23) : execScbind o s =
    .next (((c.command s [lo.toNat, hi.toNat, t.toNat, len.toNat]).modQuad (quadOf c.core) (fun q =>
      q.setTensor (tensorKey c.ctx t.toNat) ((s.tensor (quadOf c.core) c.ctx t.toNat).boundAt (pair lo hi) len.toNat))).closeGroup
        c o.sw .next) := by
  refine (State.runTarget_mx hs hv (kp := 0) (by decide) (by simp only [he]; rfl) hm hf).trans ?_
  simp only [hx, mw, nth, div_bne_zero_of_lt ht, decide_eq_false h0, decide_eq_false (Nat.not_lt.2 hlen), Bool.or_self, if_false,
    Bool.false_eq_true]
  rfl

end
end
end

/-! SCLOAD (R305). -/

section
variable {s : State} {c : Cx} {o : FMx} (hs : s.bare c) (hm : c.mask ≠ 0) (hp : o.p ≠ 15) (hv : c.names o.v.toNat 3)
  (hf : c.free s (vNames o.v.toNat 3 (laneBit c.lane))) {t first n : Word} (hx : c.params s o.v.toNat 3 = [t, first, n])
include hs hm hp hv hf hx

theorem execScload_bad_tensor (h : 256 ≤ t.toNat) : execScload o s = c.raisesParam s 1 0 t := by
  refine (State.runTarget_mx hs hv hp rfl hm hf).trans ?_
  simp only [hx, mw, nth, h, if_true, State.settle_mxParam]

section
variable (ht : t.toNat < 256)
include ht

theorem execScload_bad_count (h : n.toNat = 0 ∨ 65536 < n.toNat) : execScload o s = c.raisesParam s 1 2 n := by
  have hbad : (decide (n.toNat = 0) || decide (65536 < n.toNat)) = true := by simpa using h
  refine (State.runTarget_mx hs hv hp rfl hm hf).trans ?_
  simp only [hx, mw, nth, Nat.not_le.2 ht, hbad, if_true, if_false, State.settle_mxParam]

section
variable (h0 : n.toNat ≠ 0) (hn : n.toNat ≤ 65536)
include h0 hn

theorem execScload_unbound (hb : (s.tensor (quadOf c.core) c.ctx t.toNat).bound = false) :
    execScload o s = c.raisesParam s 9 0 t := by
  refine (State.runTarget_mx hs hv hp rfl hm hf).trans ?_
  simp only [hx, mw, nth, Nat.not_le.2 ht, decide_eq_false h0, decide_eq_false (Nat.not_lt.2 hn), hb, Bool.or_self,
    Bool.not_false, if_true, if_false, State.settle_mxParam, Bool.false_eq_true]

theorem execScload_asks {id : Nat} {s1 : State} (hb : (s.tensor (quadOf c.core) c.ctx t.toNat).bound = true)
    (hq : c.quietReq s .scLoad o.c.toNat o.p.toNat [t] ((List.range' first.toNat n.toNat).map (fun b => (b, []))) = .ok (id, s1)) :
    execScload o s = .next ((s1.startReq id State.applyMx).closeGroup c o.sw .next) := by
  refine (State.runTarget_mx hs hv hp rfl hm hf).trans ?_
  simp only [hx, mw, nth, Nat.not_le.2 ht, decide_eq_false h0, decide_eq_false (Nat.not_lt.2 hn), hb, hq, Bool.or_self,
    Bool.not_true, if_false, Bool.false_eq_true, bind, Except.bind, State.settle_ok]

end
end
end

/-- Settles O40: the first bad field decides, and with none the word binds, advances a generation or asks for its blocks. -/
theorem matrixBindings : Obligations.MatrixBindings := by
  intro s c hs hm v has x team q bad
  refine ⟨?noKeys, ?scload⟩
  case noKeys =>
    rintro o rfl
    refine ⟨?mxhbind, ?oneField, ?scbind⟩
    case mxhbind =>
      rintro ⟨hv, hf⟩ h bound good
      exact ⟨fun ⟨h0, h1, h1', h2, h2'⟩ => execMxhbind_binds hs hm hv hf rfl (handleFields_good h0 h1 h1' h2 h2'),
        fun ⟨h0, h1, h1', h2, h2'⟩ => execMxhbind_prot hs hm hv hf rfl (handleFields_good h0 h1 h1' h2 h2'),
        fun h0 => execMxhbind_bad hs hm hv hf rfl (handleFields_bad_handle h0),
        fun h0 h1 => execMxhbind_bad hs hm hv hf rfl (handleFields_bad_base h0 h1),
        fun h0 h1 h1' h2 => execMxhbind_bad hs hm hv hf rfl (handleFields_bad_size h0 h1 h1' h2)⟩
    case oneField =>
      rintro ⟨hv, hf⟩ h advanced
      exact ⟨fun hh hb hg => execMxhgen_advances hs hm hv hf rfl hh hb hg,
        fun hh hb hg => ⟨by rw [hg]; rfl, execMxhgen_wraps hs hm hv hf rfl hh hb hg⟩,
        execMxhgen_unbound hs hm hv hf rfl, execMxhgen_bad_handle hs hm hv hf rfl,
        execScinv_all hs hm hv hf rfl, fun ht hall => execScinv_bad_tensor hs hm hv hf rfl hall ht,
        execScinv_one hs hm hv hf rfl, execScinv_unbound hs hm hv hf rfl⟩
    case scbind =>
      rintro he ⟨hv, hf⟩ n
      exact ⟨fun ht => execScbind_binds hs hm he hv hf rfl ht, execScbind_bad_tensor hs hm he hv hf rfl,
        execScbind_bad_length hs hm he hv hf rfl⟩
  case scload =>
    rintro o rfl hp ⟨hv, hf⟩
    exact ⟨fun id s1 ht h0 hn hb hq => execScload_asks hs hm hp hv hf rfl ht h0 hn hb hq, execScload_bad_tensor hs hm hp hv hf rfl,
      execScload_bad_count hs hm hp hv hf rfl, execScload_unbound hs hm hp hv hf rfl⟩

end Sys2Proof.Machine
end

section
/-! SUPPORT. Posts and the words of tiles (R286, R288, R292, R293, R300 to R303). -/

namespace Sys2Proof.Machine

open Sys2Proof

theorem State.observes.tiles {s t : State} (h : s.observes t) : t.tiles = s.tiles := by
  unfold State.observes at h
  rw [h]

/-! MXPOST (R292 to R294, R301). -/

/-- A post as its word leaves it: the parameters, and what it takes of its team, its quad and its B warp at issue. -/
def Cx.postOf (c : Cx) (s : State) (v tile : Nat) (p : List Word) (dep : Dep) (m : Nat) : Post :=
  let t := s.team c.w.id.team
  let b := ((s.warpAt c.core (mxBslot p)).map Prod.fst).getD 0
  let tens (w : Nat) : Tensor := if bitAt (mw p w) 31 then s.tensor (quadOf c.core) c.ctx (bits (mw p w) 30 23) else {}
  { uid := c.uid, ctx := c.ctx, core := c.core, team := c.w.id.team, lane := c.lane, v := v, p := p, tile := tile
    handle := t.handle (bits (mw p 1) 31 28), ta := tens 5, tb := tens 6, dep := dep, mem := some m, fmode := c.readFmode s
    nth := t.gangPosts, buid := b, bregs := mxBregs p
    waits := ((s.warp b).iss.outstanding.filter (fun x => (mxBregs p).any (fun g => x.hits (.v g (BitVec.allOnes 64))))).map
      (fun x => x.id) }

/-- The state with a post in its quad's table: its request in the digest, and a GANG post counted by its team. -/
def Cx.tablePost (c : Cx) (s1 : State) (kc kp : Nat) (x : Post) : State :=
  let t := (s1.newId.2.outward c.core c.ctx (kc :: kp :: x.p.map BitVec.toNat)).putPost s1.fresh x
  if mxGang x.p then t.modTeam c.w.id.team (fun t => { t with gangPosts := t.gangPosts + 1 }) else t

/-- The state after a post is accepted: its status is pending, and the arbiter is to look at the table. -/
def Cx.acceptPost (c : Cx) (s1 : State) (kc kp : Nat) (x : Post) : State :=
  ((c.tablePost s1 kc kp x).statusPend c.uid (.post s1.fresh) (.v x.v (laneBit c.lane))).post (.mxGrant (quadOf c.core))

section
variable (c : Cx) (s1 : State) (kc kp : Nat) (x : Post)

theorem Cx.tablePost_posts : (c.tablePost s1 kc kp x).posts.get? s1.fresh = some x := by
  unfold Cx.tablePost
  split <;> exact KMap.get?_set_self ..

theorem Cx.tablePost_observed : (c.tablePost s1 kc kp x).warps = s1.warps ∧ (c.tablePost s1 kc kp x).tiles = s1.tiles := by
  have h := State.observes_outward s1.newId.2 c.core c.ctx (kc :: kp :: x.p.map BitVec.toNat)
  unfold Cx.tablePost
  split <;> exact ⟨h.warps, h.tiles⟩

theorem Cx.acceptPost_posts : (c.acceptPost s1 kc kp x).posts.get? s1.fresh = some x := Cx.tablePost_posts ..

theorem Cx.acceptPost_status : ((c.acceptPost s1 kc kp x).warp c.uid).iss.status =
    (s1.warp c.uid).iss.status ++ [{ reg := .v x.v (laneBit c.lane), owner := .post s1.fresh }] := by
  have hwarp : (c.tablePost s1 kc kp x).warp c.uid = s1.warp c.uid :=
    congrArg (fun m : KMap Warp => m.getD c.uid {}) (Cx.tablePost_observed ..).1
  rw [Cx.acceptPost, State.post_warp, State.statusPend, State.modWarp_warp, hwarp]

theorem Cx.acceptPost_bag : .mxGrant (quadOf c.core) ∈ (c.acceptPost s1 kc kp x).bag := List.mem_append_right _ List.mem_cons_self

theorem Cx.acceptPost_tiles : (c.acceptPost s1 kc kp x).tiles = s1.tiles := (Cx.tablePost_observed ..).2

end

/-- A word that no capture has parked runs from its start (R301). -/
theorem Cx.mxBody_anew {c : Cx} {s : State} {v n : Nat} {kp : BitVec 4} {names : List RegName} {k : Except Stop (State × Flow)}
    (h : ∀ id, c.w.iss.resume ≠ .capture id) (parked : Nat → Except Stop (State × Flow)) :
    (do
      c.mxHead v n kp
      match c.w.iss.resume with
      | .capture id => parked id
      | _ =>
        if c.mask = 0 then .ok (s, .next)
        else
          c.touch s names
          k) = c.mxBody s v n kp names k := by
  split
  next id e => exact absurd e (h id)
  next => rfl

section
variable {o : FMx} {s : State} {c : Cx} (hs : s.bare c) (hp : o.p ≠ 15)
include hs hp

section
variable (hv : c.names o.v.toNat 9) (hr : ∀ id, c.w.iss.resume ≠ .capture id)
include hv hr

theorem execMxpost_idle (hm : c.mask = 0) : execMxpost o s = .next (s.closeGroup c o.sw .next) :=
  State.runTarget_mx_idle hs hv hp (Cx.mxBody_anew hr _) hm

section
variable (hm : c.mask ≠ 0)
  (hf : c.free s (vNames o.v.toNat 8 (laneBit c.lane) ++ [.v (o.v.toNat + 8) (laneBit c.lane)]))
  (hb : c.bWrites s [o.v.toNat + 8] (laneBit c.lane) = .ok ())
  {p : List Word} (hparams : c.params s o.v.toNat 8 = p)
  (hl : c.free s (if bitAt (mw p 4) 27 then [.l (bits (mw p 4) 26 25)] else []))
  {tile : Nat} (ht : mxTile p (bits (c.readL s (bits (mw p 4) 26 25)).toNat 23 16) = tile)
include hm hf hb hparams hl ht

/-- The first check of a post's parameters that fails (R293). -/
theorem execMxpost_bad {r i : Nat} (hc : c.mxCheck s p tile = some (r, i)) : execMxpost o s = c.raisesParam s r i (nth p i 0) := by
  unfold Cx.free at hl
  refine (State.runTarget_mx hs hv hp (Cx.mxBody_anew hr _) hm hf).trans ?_
  simp only [hb, hparams, hl, ht, hc, bind, Except.bind, State.settle_mxParam]

section
variable (hc : c.mxCheck s p tile = none)
include hc

theorem execMxpost_parks (hfull : 8 ≤ s.mxPending c.uid ∨ 32 ≤ s.mxTable (quadOf c.core)) :
    execMxpost o s = .next (s.parkWarp c.uid .engine) := by
  have hfull : (decide (8 ≤ s.mxPending c.uid) || decide (32 ≤ s.mxTable (quadOf c.core))) = true := by simpa using hfull
  unfold Cx.free at hl
  refine (State.runTarget_mx hs hv hp (Cx.mxBody_anew hr _) hm hf).trans ?_
  simp only [hb, hparams, hl, ht, hc, hfull, bind, Except.bind, if_true]
  rfl

theorem execMxpost_accepts {dep : Dep} {m : Nat} {s1 : State} (hpend : s.mxPending c.uid < 8) (hroom : s.mxTable (quadOf c.core) < 32)
    (hk : c.keys s o.c.toNat o.p.toNat = .ok (dep, m, s1)) (hcap : mxCapwait p = false) : execMxpost o s =
      .next ((c.acceptPost s1 o.c.toNat o.p.toNat (c.postOf s (o.v.toNat + 8) tile p dep m)).closeGroup c o.sw .next) := by
  unfold Cx.free at hl
  refine (State.runTarget_mx hs hv hp (Cx.mxBody_anew hr _) hm hf).trans ?_
  simp only [hb, hparams, hl, ht, hc, hk, hcap, decide_eq_false (Nat.not_le.2 hpend), decide_eq_false (Nat.not_le.2 hroom), bind,
    Except.bind, Bool.or_self, Bool.false_eq_true, if_false]
  rfl

end
end
end
end

/-! MXRD and MXWR (R302). -/

/-- The word of a tile that an index names. -/
def Cx.tileTarget (c : Cx) (ix : Nat) : Target := .win (tileAddr c.core (ix / 2 ^ 14) (ix % 2 ^ 14))

/-- An index names a word of an allotted tile. -/
def Cx.tileIxOk (c : Cx) (s : State) (ix : Nat) : Prop := ix < 2 ^ 18 ∧ s.tileOk c.ctx c.core (ix / 2 ^ 14) = true

theorem Cx.tileIxOk_iff {c : Cx} {s : State} {ix : Nat} :
    c.tileIxOk s ix ↔ (decide (2 ^ 18 ≤ ix) || !s.tileOk c.ctx c.core (ix / 2 ^ 14)) = false := by
  simp only [Cx.tileIxOk, Bool.or_eq_false_iff, decide_eq_false_iff_not, Nat.not_le, Bool.not_eq_false']

section
variable {s : State} {c : Cx} {v : Nat}

theorem Cx.mxLanes_ok (h : ∀ l ∈ lanesOf c.mask, c.tileIxOk s (c.readV s v l).toNat) :
    c.mxLanes s v = .ok ((lanesOf c.mask).map (fun l => (l, c.tileTarget (c.readV s v l).toNat))) := by
  have hnone : ((lanesOf c.mask).map (fun l => (l, (c.readV s v l).toNat))).find?
      (fun p => decide (2 ^ 18 ≤ p.2) || !s.tileOk c.ctx c.core (p.2 / 2 ^ 14)) = none := by
    refine List.find?_eq_none.2 fun p hp => ?_
    obtain ⟨l, hl, rfl⟩ := List.mem_map.1 hp
    exact ne_true_of_eq_false (Cx.tileIxOk_iff.1 (h l hl))
  simp only [Cx.mxLanes, hnone, List.map_map]
  rfl

/-- The lowest lane with a bad index is the one that is reported. -/
theorem Cx.mxLanes_bad {l : Nat} (hl : l ∈ lanesOf c.mask) (hbad : ¬ c.tileIxOk s (c.readV s v l).toNat)
    (hlow : ∀ k ∈ lanesOf c.mask, k < l → c.tileIxOk s (c.readV s v k).toNat) :
    c.mxLanes s v = .error (trapLane 0x08 l ((c.readV s v l).setWidth 64)) := by
  have hfirst : (lanesOf c.mask).find? ((fun p : Nat × Nat => decide (2 ^ 18 ≤ p.2) || !s.tileOk c.ctx c.core (p.2 / 2 ^ 14)) ∘
      (fun l => (l, (c.readV s v l).toNat))) = some l :=
    find?_eq_some_of_least (lanesOf_sorted _) hl (Bool.eq_true_of_not_eq_false (mt Cx.tileIxOk_iff.2 hbad))
      fun k hk hkl => Cx.tileIxOk_iff.1 (hlow k hk hkl)
  simp only [Cx.mxLanes, List.find?_map, hfirst, Option.map_some, BitVec.ofNat_toNat]

end

section
variable {o : FMx} {s : State} {c : Cx} (hs : s.bare c) (hp : o.p ≠ 15) (he : o.v.toNat % 2 = 0) (hv : c.names o.v.toNat 2)
  (hf : c.free s [.v o.v.toNat c.mask, .v (o.v.toNat + 1) c.mask])
include hs hp he hv hf

section
variable {dep : Dep} {m : Nat} {s1 : State} (hix : ∀ l ∈ lanesOf c.mask, c.tileIxOk s (c.readV s o.v.toNat l).toNat)
  (hk : c.keys s o.c.toNat o.p.toNat = .ok (dep, m, s1))
include hix hk

/-- MXRD as an operation: a load of a tile's word into the second register of each lane's pair. -/
def Cx.mxrdOp (c : Cx) (s s1 : State) (o : FMx) (dep : Dep) (m : Nat) : Op :=
  { c.op s1 (.load false) o.c.toNat o.p.toNat dep m with
    d := o.v.toNat + 1
    units := (lanesOf c.mask).map (fun l => { lane := l, tgt := c.tileTarget (c.readV s o.v.toNat l).toNat, size := 4 }) }

theorem execMxrd_launches (hb : c.uncaptured s [o.v.toNat + 1]) (hroom : s1.room c (c.mxrdOp s s1 o dep m)) :
    ∃ t : State, c.launchOp s1 (c.mxrdOp s s1 o dep m) [.v (o.v.toNat + 1) c.mask] = .ok t ∧
      execMxrd o s = .next (t.closeGroup c o.sw .next) := by
  unfold Cx.free at hf
  unfold Cx.uncaptured at hb
  obtain ⟨t, hl, -⟩ := Cx.launchOp_setsGoing hroom [.v (o.v.toNat + 1) c.mask]
  refine ⟨t, hl, State.runTarget_ok hs.1 ?_⟩
  unfold Cx.mxrdOp at hl
  simp only [he, Cx.mxHead_ok hs.2 hv hp, hf, hb, Cx.mxLanes_ok hix, hk, List.map_map, Function.comp_def, hl, undo, bind, Except.bind,
    bne_self_eq_false, Bool.false_eq_true, if_false]

/-- MXWR as an operation: a store to a tile's word of the second register of each lane's pair. -/
def Cx.mxwrOp (c : Cx) (s s1 : State) (o : FMx) (dep : Dep) (m : Nat) : Op :=
  { c.op s1 .store o.c.toNat o.p.toNat dep m with
    units := highestWins ((lanesOf c.mask).map (fun l =>
      { lane := l, tgt := c.tileTarget (c.readV s o.v.toNat l).toNat, size := 4, data := bytesOf (c.readV s (o.v.toNat + 1) l) })) }

theorem execMxwr_launches (hroom : s1.room c (c.mxwrOp s s1 o dep m)) :
    ∃ t : State, c.launchOp s1 (c.mxwrOp s s1 o dep m) [] = .ok t ∧ execMxwr o s = .next (t.closeGroup c o.sw .next) := by
  unfold Cx.free at hf
  obtain ⟨t, hl, -⟩ := Cx.launchOp_setsGoing hroom []
  refine ⟨t, hl, State.runTarget_ok hs.1 ?_⟩
  unfold Cx.mxwrOp at hl
  simp only [he, Cx.mxHead_ok hs.2 hv hp, hf, Cx.mxLanes_ok hix, hk, List.map_map, Function.comp_def, hl, undo, bind, Except.bind,
    bne_self_eq_false, Bool.false_eq_true, if_false]

end

section
variable {l : Nat} (hl : l ∈ lanesOf c.mask) (hbad : ¬ c.tileIxOk s (c.readV s o.v.toNat l).toNat)
  (hlow : ∀ k ∈ lanesOf c.mask, k < l → c.tileIxOk s (c.readV s o.v.toNat k).toNat)
include hl hbad hlow

theorem execMxrd_prot (hb : c.uncaptured s [o.v.toNat + 1]) : execMxrd o s = .next (s.raise c
    { cause := 0x08, info1 := BitVec.ofNat 32 l, info2 := c.readV s o.v.toNat l, info3 := 0 }) := by
  unfold Cx.free at hf
  unfold Cx.uncaptured at hb
  refine State.runTarget_trap hs.1 ?_
  simp only [he, Cx.mxHead_ok hs.2 hv hp, hf, hb, Cx.mxLanes_bad hl hbad hlow, trapLane_word, bind, Except.bind, bne_self_eq_false,
    Bool.false_eq_true, if_false]

theorem execMxwr_prot : execMxwr o s = .next (s.raise c
    { cause := 0x08, info1 := BitVec.ofNat 32 l, info2 := c.readV s o.v.toNat l, info3 := 0 }) := by
  unfold Cx.free at hf
  refine State.runTarget_trap hs.1 ?_
  simp only [he, Cx.mxHead_ok hs.2 hv hp, hf, Cx.mxLanes_bad hl hbad hlow, trapLane_word, bind, Except.bind, bne_self_eq_false,
    Bool.false_eq_true, if_false]

end
end

/-! MXZERO (R303). -/

section
variable {o : FMx} {s : State} {c : Cx} (hs : s.bare c) (hp : o.p ≠ 15) (hv : c.names o.v.toNat 1)
include hs hp hv

theorem execMxzero_idle (hm : c.mask = 0) : execMxzero o s = .next (s.closeGroup c o.sw .next) :=
  State.runTarget_mx_idle hs hv hp rfl hm

section
variable (hm : c.mask ≠ 0) (hf : c.free s [.v o.v.toNat (laneBit c.lane)]) {w : Word} (hw : c.readV s o.v.toNat c.lane = w)
include hm hf hw

theorem execMxzero_bad_mask (h : 2 ^ 16 ≤ w.toNat) : execMxzero o s = c.raisesParam s 1 0 w := by
  refine (State.runTarget_mx hs hv hp rfl hm hf).trans ?_
  simp only [hw, div_bne_zero_of_le (by decide) h, if_true, State.settle_mxParam]

section
variable (hmask : w.toNat < 2 ^ 16)
include hmask

theorem execMxzero_bad_tile (h : ∃ k, k < 16 ∧ w.getLsbD k = true ∧ s.tileOk c.ctx c.core k = false) :
    execMxzero o s = c.raisesParam s 7 0 w := by
  obtain ⟨k, hk, hbit, htile⟩ := h
  have hany : (List.range 16).any (fun t => w.getLsbD t && !s.tileOk c.ctx c.core t) = true :=
    List.any_eq_true.2 ⟨k, List.mem_range.2 hk, by rw [hbit, htile]; rfl⟩
  refine (State.runTarget_mx hs hv hp rfl hm hf).trans ?_
  simp only [hw, div_bne_zero_of_lt hmask, hany, if_true, if_false, Bool.false_eq_true, State.settle_mxParam]

/-- MXZERO of tiles that are all allotted asks for them to be cleared, at once when it names none. -/
theorem execMxzero_asks {id : Nat} {s1 : State} (h : ∀ k, k < 16 → w.getLsbD k = true → s.tileOk c.ctx c.core k = true)
    (hq : c.quietReq s .mxZero o.c.toNat o.p.toNat [w] [] = .ok (id, s1)) :
    execMxzero o s = .next ((if w = 0 then s1.applyMx id else s1.startReq id State.applyMx).closeGroup c o.sw .next) := by
  have hany : (List.range 16).any (fun t => w.getLsbD t && !s.tileOk c.ctx c.core t) = false := by
    refine List.any_eq_false.2 fun k hk => ?_
    cases hbit : w.getLsbD k with
    | false => exact Bool.false_ne_true
    | true => simp [h k (List.mem_range.1 hk) hbit]
  refine (State.runTarget_mx hs hv hp rfl hm hf).trans ?_
  simp only [hw, div_bne_zero_of_lt hmask, hany, hq, if_false, Bool.false_eq_true, bind, Except.bind, State.settle_ok]

end
end
end

/-- Settles O39: each word by its checks; a post's are those of its parameters, an access's those of each lane's index. -/
theorem matrixWords : Obligations.MatrixWords := by
  intro o s c hs hp v one has q
  refine ⟨?mxpost, ?access, ?mxzero⟩
  case mxpost =>
    intro hv hr p ln tile
    refine ⟨execMxpost_idle hs hp hv hr, fun hm hf hb hl => ⟨fun r i => execMxpost_bad hs hp hv hr hm hf hb rfl hl rfl,
      execMxpost_parks hs hp hv hr hm hf hb rfl hl rfl, fun dep m s1 hc hpend hroom hk hcap => ?_⟩⟩
    exact ⟨_, c.postOf s (v + 8) tile p dep m, execMxpost_accepts hs hp hv hr hm hf hb rfl hl rfl hc hpend hroom hk hcap,
      Cx.acceptPost_posts .., rfl, rfl, rfl, rfl, rfl, rfl, rfl, rfl, rfl, rfl, Cx.acceptPost_status .., Cx.acceptPost_bag ..,
      Cx.acceptPost_tiles ..⟩
  case access =>
    intro he hv hf ix word ok
    exact ⟨fun dep m s1 hok hk => ⟨execMxrd_launches hs hp he hv hf hok hk, execMxwr_launches hs hp he hv hf hok hk⟩,
      fun l hl hbad hlow => ⟨execMxwr_prot hs hp he hv hf hl hbad hlow, execMxrd_prot hs hp he hv hf hl hbad hlow⟩⟩
  case mxzero =>
    intro hv m
    exact ⟨execMxzero_idle hs hp hv, fun hm hf => ⟨execMxzero_bad_mask hs hp hv hm hf rfl, execMxzero_bad_tile hs hp hv hm hf rfl,
      fun id s1 hmask htiles => execMxzero_asks hs hp hv hm hf rfl hmask htiles⟩⟩

end Sys2Proof.Machine
end

section
/-! SUPPORT. The matrix engine at work: grant, capture, passes and their ends, and the fetch of scales (R286, R288, R291, R294 to R298,
R305). -/

namespace Sys2Proof.Machine

open Sys2Proof

/-! An operation of one post (R285, R294). -/

section
variable {s : State} {id : Nat} {p : Post} (hp : s.posts.get? id = some p) (hg : mxGang p.p = false)
include hp hg

theorem State.opPosts_solo : s.opPosts id = [(id, p)] := by
  simp only [State.opPosts, hp, hg, Bool.not_false, if_true]

theorem State.modOp_solo (f : Post → Post) : s.modOp id f = { s with posts := s.posts.modify id f } := by
  simp only [State.modOp, State.opPosts_solo hp hg, List.foldl_cons, List.foldl_nil]

end

/-! Grant (R294 to R296). -/

/-- The state whose one post is another. -/
def State.onlyPost (s : State) (id : Nat) (p : Post) : State := { s with posts := [(id, p)] }

theorem KMap.get?_singleton {α : Type} (i : Nat) (x : α) : KMap.get? [(i, x)] i = some x := if_pos rfl

theorem KMap.modify_singleton {α : Type} (i : Nat) (x : α) (f : α → α) : KMap.modify [(i, x)] i f = [(i, f x)] := by
  simp [KMap.modify, KMap.get?_singleton, KMap.set]

section
variable {s : State} {id : Nat} {p : Post} (h : s.posts = [(id, p)]) (hg : mxGang p.p = false)
include h

theorem State.posts_get?_only : s.posts.get? id = some p := by rw [h]; exact KMap.get?_singleton id p

theorem State.modify_only (f : Post → Post) : ({ s with posts := s.posts.modify id f } : State) = s.onlyPost id (f p) := by
  rw [h, KMap.modify_singleton]
  rfl

theorem State.postsOn_only (hd : s.onDevice p.ctx = true) : s.postsOn (quadOf p.core) = [(id, p)] := by
  simp [State.postsOn, h, hd]

section
include hg

theorem State.leads_only (hd : s.onDevice p.ctx = true) : s.leads (quadOf p.core) = [(id, p)] := by
  simp [State.leads, State.postsOn_only h hd, State.opPosts_solo (State.posts_get?_only h) hg, whole, hg]

theorem State.unmatched_only (hd : s.onDevice p.ctx = true) : s.unmatched (quadOf p.core) = [] := by
  simp [State.unmatched, State.postsOn_only h hd, hg]

theorem State.disagree_only (hd : s.onDevice p.ctx = true) : s.disagree (quadOf p.core) = [] := by
  simp [State.disagree, State.leads_only h hg hd, State.opPosts_solo (State.posts_get?_only h) hg, agree]

/-- A post as it becomes eligible at a clock. -/
def Post.eligibleAt (p : Post) (cyc : Nat) : Post := { p with eligible := some cyc }

/-- A post whose dependence is satisfied becomes eligible. -/
theorem State.markEligible_only (hd : s.onDevice p.ctx = true) (he : p.eligible = none) (hn : p.granted = false)
    (hdep : s.depOk p.uid p.dep = true) : s.markEligible (quadOf p.core) =
      (s.onlyPost id (p.eligibleAt (s.quad (quadOf p.core)).cyc)).post (.mxStarvationLimit id) := by
  simp [State.markEligible, State.leads_only h hg hd, State.opPosts_solo (State.posts_get?_only h) hg,
    State.modOp_solo (State.posts_get?_only h) hg, State.modify_only h, Post.eligibleAt, he, hn, hdep]

theorem State.ranked_only (hd : s.onDevice p.ctx = true) (hr : s.runs p.ctx = true) (he : p.eligible.isSome = true)
    (hn : p.granted = false) : s.ranked (quadOf p.core) = [(id, p)] := by
  simp [State.ranked, State.leads_only h hg hd, he, hn, hr, rankIn]

/-- A post whose grant at a clock sets its capture going, with the magnitudes as the grant found them. -/
def Post.grantedAt (p : Post) (cyc : Nat) (mag : KMap Word) : Post :=
  { p with granted := true, starved := false, eligible := none, due := cyc + 4, mag := mag }

/-- The first grant of an operation sets its capture going, 4 clocks on. -/
theorem State.grantAll_only (hc : p.captured = false) : s.grantAll [] [(id, p)] =
    (s.onlyPost id (p.grantedAt (s.quad (quadOf p.core)).cyc (s.magNow p.core))).post (.mxCaptureComplete id) := by
  simp [State.grantAll, State.grantOp, State.opPosts_solo (State.posts_get?_only h) hg, State.modify_only h, Post.grantedAt, hc]

end

theorem State.busyArrays_only (hd : s.onDevice p.ctx = true) (hn : p.granted = false) : s.busyArrays (quadOf p.core) = [] := by
  simp [State.busyArrays, State.postsOn_only h hd, hn]

/-- The state whose only post has become eligible, its starvation to come. -/
def State.markedOnly (s : State) (id : Nat) (p : Post) : State :=
  (s.onlyPost id (p.eligibleAt (s.quad (quadOf p.core)).cyc)).post (.mxStarvationLimit id)

/-- The state whose only post is granted its array, its capture to come. -/
def State.grantedOnly (s : State) (id : Nat) (p : Post) : State :=
  ((s.onlyPost id (p.grantedAt (s.quad (quadOf p.core)).cyc (s.magNow p.core))).post (.mxStarvationLimit id)).post
    (.mxCaptureComplete id)

/-- The only post of a quad, eligible as its dependence is satisfied, is granted its array. -/
theorem execMxGrant_only (hg : mxGang p.p = false) (hd : s.onDevice p.ctx = true) (hr : s.runs p.ctx = true) (he : p.eligible = none)
    (hn : p.granted = false) (hc : p.captured = false) (hdep : s.depOk p.uid p.dep = true) :
    execMxGrant (quadOf p.core) s = .next (s.grantedOnly id p) := by
  have hmark : s.markEligible (quadOf p.core) = s.markedOnly id p := State.markEligible_only h hg hd he hn hdep
  have hbusy : (s.markedOnly id p).busyArrays (quadOf p.core) = [] := State.busyArrays_only (p := p.eligibleAt _) rfl hd hn
  have hranked : (s.markedOnly id p).ranked (quadOf p.core) = [(id, p.eligibleAt (s.quad (quadOf p.core)).cyc)] :=
    State.ranked_only (p := p.eligibleAt _) rfl hg hd hr rfl hn
  have hgrant : (s.markedOnly id p).grantAll [] [(id, p.eligibleAt (s.quad (quadOf p.core)).cyc)] = s.grantedOnly id p :=
    State.grantAll_only (p := p.eligibleAt _) rfl hg hc
  have hleft : (s.grantedOnly id p).postsOn (quadOf p.core) = [(id, p.grantedAt (s.quad (quadOf p.core)).cyc (s.magNow p.core))] :=
    State.postsOn_only (p := p.grantedAt ..) rfl hd
  simp only [execMxGrant, State.unmatched_only h hg hd, State.disagree_only h hg hd, List.foldl_nil, hmark, hbusy, hranked, hgrant,
    hleft]
  rfl

end

/-! Starvation (R295). -/

theorem execMxStarvationLimit_starves {s : State} {id due : Nat} {p : Post} (hp : s.posts.get? id = some p)
    (h : s.starveDue id = some due) : execMxStarvationLimit id s =
      .next ((s.reachQuad (quadOf p.core) due).modOp id (fun p => { p with starved := true })) := by
  simp only [execMxStarvationLimit, h, hp]
  rfl

section
variable {s : State} {id : Nat} {p : Post} (hp : s.posts.get? id = some p) (hg : mxGang p.p = false) (hgrant : p.granted = true)
include hp hg hgrant

/-! Capture (R286). -/

/-- A post after its capture: its words of B, and its first pass 44 clocks on. -/
def Post.capturing (p : Post) (words : KMap Word) : Post :=
  { p with captured := true, capture := words, hazard := [], due := p.due + 44 }

theorem execMxCaptureComplete_solo (hc : p.captured = false) (hd : s.onDevice p.ctx = true)
    (hw : ∀ r ∈ (s.warp p.buid).iss.outstanding, r.id ∉ p.waits) : execMxCaptureComplete id s =
      .next (((s.reachQuad (quadOf p.core) p.due).putPost id
        (p.capturing ((s.reachQuad (quadOf p.core) p.due).captureOf p))).post (.mxPassBoundary id)) := by
  have hreturned (f : Result → Bool) : (s.warp p.buid).iss.outstanding.any (fun r => p.waits.contains r.id && f r) = false :=
    List.any_eq_false.2 fun r hr => by simp [hw r hr]
  simp only [execMxCaptureComplete, State.opPosts_solo hp hg, hgrant, hc, hd, hreturned, List.any_cons, List.any_nil, Bool.not_true,
    Bool.or_self, Bool.false_eq_true, if_false]
  rfl

/-! Passes (R288, R295 to R298). -/

section
variable (hc : p.captured = true) (hr : s.runs p.ctx = true) (ha : s.awaits (.post id) = false)
include hc hr ha

/-- How a pass of formats other than the integers rounds and flushes: to nearest, as the post's FMODE has it (R278, R296). -/
def Post.env (p : Post) : FEnv := { mode := 1, ftzi := p.fmode.getLsbD 3, ftzo := p.fmode.getLsbD 4 }

/-- The state after a pass of an operation of one post: its tile is written, and the pass is counted. -/
def State.afterPass (s : State) (id : Nat) (p : Post) (a : ArrayIn) : State :=
  ((s.reachQuad (quadOf p.core) p.due).writePass [(id, p)] p.env a).modOp id
    (fun p => { p with committed := p.committed + 1, due := p.due + 32 })

theorem execMxPassBoundary_bad {cause reason array addr : Nat} (hin : s.arrayIn id p = .bad cause reason array addr) :
    execMxPassBoundary id s = .next ((s.failPosts [id] cause reason array addr).post (.mxGrant (quadOf p.core))) := by
  simp only [execMxPassBoundary, State.opPosts_solo hp hg, hgrant, hc, hr, ha, State.passIn, hin, Bool.not_true, Bool.or_self,
    Bool.false_eq_true, if_false]
  rfl

section
variable {a : ArrayIn} (hin : s.arrayIn id p = .ok [a])
include hin

theorem execMxPassBoundary_last (hn : mxN p.p ≤ p.committed + 1) : execMxPassBoundary id s =
    .next (((s.afterPass id p a).endPost id (statusWord true false 0 (mxN p.p))).post (.mxGrant (quadOf p.core))) := by
  simp only [execMxPassBoundary, State.opPosts_solo hp hg, hgrant, hc, hr, ha, State.passIn, hin, hn, Bool.not_true, Bool.or_self,
    Bool.false_eq_true, if_false, if_true]
  rfl

/-- Between the boundaries after 8 passes the chain keeps its array. -/
theorem execMxPassBoundary_goes_on (hn : p.committed + 1 < mxN p.p) (h8 : (p.committed + 1) % 8 ≠ 0) :
    execMxPassBoundary id s = .next ((s.afterPass id p a).post (.mxPassBoundary id)) := by
  simp only [execMxPassBoundary, State.opPosts_solo hp hg, hgrant, hc, hr, ha, State.passIn, hin, Nat.not_le.2 hn, decide_eq_false h8,
    Bool.not_true, Bool.or_self, Bool.false_and, Bool.false_eq_true, if_false]
  rfl

end
end
end

/-! Scales (R291, R305). -/

@[simp] theorem State.modQuad_quad (s : State) (q : Nat) (f : Quad → Quad) : (s.modQuad q f).quad q = f (s.quad q) := by
  simp [State.modQuad, State.quad]

theorem Quad.mem_keepScale (q : Quad) (c : Cached) : c ∈ (q.keepScale c).scales := by
  simp [Quad.keepScale, scaleCacheBytes]

/-- The state after the home of a scale byte has been read, when it has one. -/
def State.scaleRead (s : State) (core : Nat) : Option Nat → State
  | some a => (s.homeRead (dieOf core) a 1).2
  | none => s

/-- A block of an SCLOAD is done; the SCLOAD ends with its last. -/
def State.blockDone (s : State) (id : Nat) (r : Req) (block : Nat) : State :=
  let r1 : Req := { r with rows := r.rows.filter (fun b => b.1 != block) }
  let s1 : State := { s with reqs := s.reqs.set id r1 }
  if r1.rows.isEmpty then (s1.endQuiet id).dropFars (.post id) else s1

theorem State.endQuiet_quads_mem (s : State) (id : Nat) : (s.endQuiet id).quads = s.quads ∧ (s.endQuiet id).mem = s.mem := by
  unfold State.endQuiet
  split
  · exact ⟨rfl, rfl⟩
  · dsimp only
    split <;> exact ⟨rfl, rfl⟩

theorem State.blockDone_quads_mem (s : State) (id : Nat) (r : Req) (block : Nat) :
    (s.blockDone id r block).quads = s.quads ∧ (s.blockDone id r block).mem = s.mem := by
  unfold State.blockDone
  dsimp only
  split
  · exact State.endQuiet_quads_mem ..
  · exact ⟨rfl, rfl⟩

theorem State.blockDone_quad (s : State) (id : Nat) (r : Req) (block q : Nat) : (s.blockDone id r block).quad q = s.quad q :=
  congrArg (fun m : KMap Quad => m.getD q {}) (State.blockDone_quads_mem ..).1

/-- With no RED line to merge a read of a scale leaves memory as it is. -/
theorem State.scaleRead_mem {s : State} (h : s.partials = []) (core : Nat) (home : Option Nat) :
    (s.scaleRead core home).mem = s.mem := by
  cases home with
  | none => rfl
  | some a => simp [State.scaleRead, State.homeRead, State.mergeAt_of_no_partials h]

section
variable {s : State} {quad ctx tensor block k b : Nat} {r : Req} {home : Option Nat}
  (hreq : s.reqs.find? (fun kv => kv.2.kind == .scLoad && kv.2.begun && kv.2.ctx == ctx && quadOf kv.2.core == quad &&
    (nth kv.2.args 0 0).toNat == tensor && kv.2.rows.any (fun b => b.1 == block)) = some (k, r))
  (hd : s.onDevice ctx = true) (hmem : s.scaleMem r.core ctx (s.tensor quad ctx tensor) block = .ok b home)
include hreq hd hmem

theorem execScaleFetchReturn_keeps : execScaleFetchReturn quad ctx tensor block s =
    .next (((s.scaleRead r.core home).modQuad quad (fun q => q.keepScale
      { tag := scaleTag ctx tensor (s.tensor quad ctx tensor).gen block, bytes := [BitVec.ofNat 8 b] })).blockDone k r block) := by
  cases home <;> (simp only [execScaleFetchReturn, hreq, hd, hmem, Bool.not_true, Bool.false_eq_true, if_false]; rfl)

end

/-- Settles O53: an operation of one post is its own list of posts, so that each event is one of the branches above. -/
theorem matrixEvents : Obligations.MatrixEvents := by
  intro s id p hp quad cyc runs
  refine ⟨?grant, fun due => execMxStarvationLimit_starves hp,
    fun hg hgr hc ⟨hd, _⟩ hw => execMxCaptureComplete_solo hp hg hgr hc hd hw, ?pass,
    fun hg hgr hc ⟨_, hr⟩ ha cause reason array addr => execMxPassBoundary_bad hp hg hgr hc hr ha, ?scale⟩
  case grant =>
    intro h hg hn hc he ⟨hd, hr⟩ _ hdep
    exact ⟨_, _, execMxGrant_only h hg hd hr he hn hc hdep, KMap.get?_singleton .., rfl, rfl, rfl, rfl,
      List.mem_append_right _ List.mem_cons_self, rfl, rfl⟩
  case pass =>
    intro hg hgr hc ⟨_, hr⟩ ha env a hin
    exact ⟨execMxPassBoundary_last hp hg hgr hc hr ha hin, execMxPassBoundary_goes_on hp hg hgr hc hr ha hin⟩
  case scale =>
    intro ctx tensor block k r b home hreq hd hmem
    refine ⟨_, execScaleFetchReturn_keeps hreq hd hmem, ?_, fun hpart => ?_⟩
    · rw [State.blockDone_quad, State.modQuad_quad]
      exact Quad.mem_keepScale ..
    · exact (State.blockDone_quads_mem ..).2.trans (State.scaleRead_mem hpart r.core home)

end Sys2Proof.Machine
end

section
/-! SUPPORT. The fabric at work: requests that arrive, answers and attempts, channels, SIGNAL and ATOMIC (R264, R307, R309 to R318). -/

namespace Sys2Proof.Machine

open Sys2Proof

theorem State.chan_of_get? {s : State} {ch : Nat} {c : Chan} (h : s.chans.get? ch = some c) : s.chan ch = c :=
  KMap.getD_of_get? h

/-! Requests that arrive (R307, R309, R312, R314 to R317). -/

/-- The state in which a request that was applied before is counted as a duplicate, once (R316). -/
def State.countDup (s : State) (r : FabReq) (c : Chan) : State :=
  if r.dup then s else s.putChan r.ch { c with dups := min 0xFFFFFFFF (c.dups + 1) }

/-- The state in which a request of a channel waits in its holding entry to be served again (R314). -/
def State.heldOver (s : State) (r : FabReq) (c : Chan) : State :=
  (s.hold r).post (.fabricRequestArrival { r with held := true, dup := c.applied r.seq })

/-- What a request comes to once what it was applied with is answered. -/
def FabRes.answered (answer : State → Nat → List Byte → State) : FabRes → FabRes
  | .done t reason data => .done (answer t reason data) 0 []
  | .hold t => .hold t

theorem State.take_of_done {s t : State} {r : FabReq} {reason : Nat} {data : List Byte} (h : s.serve r = .done t reason data) :
    s.take r = t.unhold r := by
  simp only [State.take, h]

section
variable {s : State} {r : FabReq} {c : Chan} (hc : s.chans.get? r.ch = some c)
include hc

theorem State.take_of_hold {t : State} (h : s.serve r = .hold t) : s.take r = t.heldOver r c := by
  simp only [State.take, h, State.chan_of_get? hc]
  rfl

/-! A request that was applied before (R316). -/

section
variable (happ : c.applied r.seq = true)
include happ

theorem State.serve_write_again (hw : r.write = true) : s.serve r =
    .done ((s.countDup r c).respond r (c.ring.getD (r.seq.toNat % 256) (0, [])).1 (c.ring.getD (r.seq.toNat % 256) (0, [])).2) 0 [] := by
  simp only [State.serve, State.chan_of_get? hc, happ, hw, if_true]
  rfl

theorem State.serve_read_again (hw : r.write = false) :
    s.serve r = ((s.countDup r c).fabApply c r).answered (fun t => t.respond r) := by
  simp only [State.serve, State.chan_of_get? hc, happ, hw, if_true, Bool.false_eq_true, if_false]
  rfl

end

/-! A request that comes first (R316, R317). -/

section
variable (happ : c.applied r.seq = false)
include happ

theorem State.serve_first (hpred : r.pred = r.seq ∨ c.applied r.pred = true) :
    s.serve r = (s.fabApply c r).answered (fun t => t.fabDone r) := by
  have hturn : (r.pred == r.seq || c.applied r.pred) = true := by simpa using hpred
  simp only [State.serve, State.chan_of_get? hc, happ, hturn, Bool.not_true, Bool.false_eq_true, if_false]
  rfl

theorem State.serve_early (hne : r.pred ≠ r.seq) (hpred : c.applied r.pred = false) : s.serve r = .hold s := by
  simp [State.serve, State.chan_of_get? hc, happ, hpred, hne]

end
end

/-- What a request finds by the state of its channel (R312): it is served, waits for the fetch, or starts it. -/
def State.received (s : State) (r : FabReq) (c : Chan) : ChanSt → State
  | .evicted => ((s.putChan r.ch { c with st := .fetching }).hold r).post (.channelFetchComplete r.ch)
  | .fetching => s.hold r
  | _ => s.take r

section
variable {s : State} {r : FabReq} (hs : (List.range 4).any (s.switching 1) = false)
include hs

theorem execFabricRequestArrival_refuses (h : s.chans.get? r.ch = none ∨ r.valid = false) :
    execFabricRequestArrival r s = .next ((s.violate (reqKind r) r.src r.ch r.addr 1).respond r 1 []) := by
  unfold execFabricRequestArrival
  rw [hs]
  cases hc : s.chans.get? r.ch with
  | none => rfl
  | some c =>
    have hinvalid : r.valid = false := h.resolve_left (by simp [hc])
    simp only [hinvalid]
    rfl

variable {c : Chan} (hc : s.chans.get? r.ch = some c) (hv : r.valid = true)
  (hheld : r.held = false ∨ c.holding.any (fun q => q.seq == r.seq) = true)
include hc hv hheld

/-- A valid request that does not wait, or still does, goes by the state of its channel. -/
theorem execFabricRequestArrival_receives : execFabricRequestArrival r s = .next (s.received r c c.st) := by
  have hstill : (r.held && !c.holding.any (fun q => q.seq == r.seq)) = false := by
    rcases hheld with h | h <;> simp [h]
  simp only [execFabricRequestArrival, hs, hc, hv, hstill, Bool.not_true, Bool.false_eq_true, if_false]
  cases c.st <;> rfl

theorem execFabricRequestArrival_takes (hst : c.st = .cached ∨ c.st = .closing) :
    execFabricRequestArrival r s = .next (s.take r) := by
  rw [execFabricRequestArrival_receives hs hc hv hheld]
  rcases hst with h | h <;> rw [h] <;> rfl

end

/-! Answers and attempts (R313, R315, R318). -/

section
variable {s : State} {r : FabResp} {c : Chan} (hc : s.chans.get? r.ch = some c)
include hc

theorem execFabricResponse_ends {x : Sent} (hx : c.sent.find? (fun x => x.req.seq == r.seq) = some x) :
    let t := (s.putChan r.ch { c with credits := c.credits + 1 }).endSent r.ch x r.reason r.data
    execFabricResponse r s = .next (t.pump r.ch (t.chan r.ch).unsent.length) := by
  simp only [execFabricResponse, hc, hx]
  rfl

theorem execFabricResponse_late (hx : c.sent.find? (fun x => x.req.seq == r.seq) = none) (hlate : c.late.contains r.seq = true) :
    let c1 := { c with credits := c.credits + 1, late := c.late.filter (fun q => q != r.seq) }
    execFabricResponse r s = .next ((s.putChan r.ch { c1 with sold := c1.oldest }).pump r.ch c.unsent.length) := by
  simp only [execFabricResponse, hc, hx, hlate, if_true]
  rfl

end

section
variable {s : State} {ch seq : Nat} {x : Sent} (hx : (s.chan ch).sent.find? (fun x => x.req.seq.toNat == seq) = some x)
include hx

theorem execFabricRetryTimeout_again (htries : x.tries < 8) :
    let t := s.reachMesh 0 (x.at0 + s.fab.fretry.toNat)
    let c := t.chan ch
    let y : Sent := { x with tries := x.tries + 1, at0 := t.fabClock }
    execFabricRetryTimeout ch seq s = .next (((t.putChan ch { c with
      sent := c.sent.map (fun z => if z.req.seq == x.req.seq then y else z) }).emit (.request ch x.req)).post
        (.fabricRetryTimeout ch seq)) := by
  simp only [execFabricRetryTimeout, hx, htries, if_true]
  rfl

theorem execFabricRetryTimeout_ends (htries : 8 ≤ x.tries) :
    let t := s.reachMesh 0 (x.at0 + s.fab.fretry.toNat)
    let c := t.chan ch
    let d : State := ((t.putChan ch { c with errs := min 0xFFFFFFFF (c.errs + 1), late := c.late ++ [x.req.seq] }).endSent ch x 7 []).emit
      (.notice 2 ch)
    execFabricRetryTimeout ch seq s = .next (d.pump ch (d.chan ch).unsent.length) := by
  simp only [execFabricRetryTimeout, hx, Nat.not_lt.2 htries, if_false]
  rfl

end

/-- Requests sent again on other ports change what is sent, and nothing else (R318). -/
theorem State.foldl_emit_fab_chans_mem (l : List Out) (s : State) :
    (l.foldl State.emit s).fab = s.fab ∧ (l.foldl State.emit s).chans = s.chans ∧ (l.foldl State.emit s).mem = s.mem := by
  induction l generalizing s with
  | nil => exact ⟨rfl, rfl, rfl⟩
  | cons o t ih => exact ih (s.emit o)

theorem execFabricPortDown_moves (s : State) (port : Nat) (moves : List (Nat × Nat × Nat)) :
    ∃ t : State, execFabricPortDown port moves s = .next t ∧ t.fab.down = addNew s.fab.down [port] ∧
      t.fab.lanes = moves.foldl (fun m p => m.set (p.1 * 16 + p.2.1) p.2.2) s.fab.lanes ∧ t.chans = s.chans ∧ t.mem = s.mem := by
  refine ⟨_, rfl, ?_⟩
  obtain ⟨hfab, hchans, hmem⟩ := State.foldl_emit_fab_chans_mem _ _
  rw [hfab, hchans, hmem]
  exact ⟨rfl, rfl, rfl, rfl⟩

/-! Channels (R311, R312, R314). -/

section
variable {s : State} {ch : Nat} {words : List Word} {c : Chan} (hw : chanOf words = some c)
include hw

theorem execChannelCreate_creates (hfree : s.chans.get? ch = none) (hch : ch < 1048576) (hroom : c.initCred ≤ s.fab.holding) :
    ∃ t : State, execChannelCreate ch words s = .next t ∧ t.chans.get? ch = some c ∧
      t.fab.holding = s.fab.holding - c.initCred := by
  have hopen : ((s.chans.get? ch).isSome || decide (1048576 ≤ ch) || decide (s.fab.holding < c.initCred)) = false := by
    simp [hfree, hch, hroom]
  unfold execChannelCreate
  simp only [hw, hopen, Bool.false_eq_true, if_false]
  exact ⟨_, rfl, KMap.get?_set_self s.chans ch c, rfl⟩

theorem execChannelCreate_fails (hroom : s.fab.holding < c.initCred) :
    execChannelCreate ch words s = .next (s.emit (.answer 1 [BitVec.ofNat 32 ch])) := by
  simp only [execChannelCreate, hw, hroom, decide_true, Bool.or_true, if_true]
  rfl

end

section
variable {s : State} {ch : Nat} {c : Chan} (hc : s.chans.get? ch = some c)
include hc

theorem execChannelClose_closes (hsent : c.sent = []) (hunsent : c.unsent = []) (hholding : c.holding = []) :
    execChannelClose ch s =
      .next { s with chans := s.chans.erase ch, fab := { s.fab with holding := s.fab.holding + c.initCred } } := by
  simp only [execChannelClose, hc, hsent, hunsent, hholding]
  rfl

theorem execChannelClose_waits (hsent : c.sent ≠ []) (hst : c.st = .cached) :
    execChannelClose ch s = .next ((s.putChan ch { c with st := .closing }).post (.channelClose ch)) := by
  have hbusy : c.sent.isEmpty = false := by simpa using hsent
  simp only [execChannelClose, hc, hbusy, hst, Bool.false_and, Bool.false_eq_true, if_false, if_true]
  rfl

theorem execChannelFetchComplete_fetches (hst : c.st = .fetching)
    (hroom : (s.chans.filter (fun kv => kv.2.st == .cached || kv.2.st == .closing)).length < 4096) :
    execChannelFetchComplete ch s = .next ((c.holding.foldl State.take (s.putChan ch { c with st := .cached, used := s.tick })).pump
      ch c.unsent.length) := by
  have hfetching : (c.st != .fetching) = false := by simp [hst]
  simp only [execChannelFetchComplete, hc, hfetching, hroom, Bool.false_eq_true, if_false, if_true]
  rfl

end

/-! SIGNAL and ATOMIC (R264, R310). -/

section
variable {s : State} {m : Msg}

theorem execSignalMsg_counts (hrun : (s.ctx (s.msgCtx m)).run ≠ .saved)
    (hcore : (s.core (bits (nth m.words 1 0).toNat 8 0)).retired = false)
    (hrc : s.rcOk (s.msgCtx m) (bits (nth m.words 1 0).toNat 8 0) (bits (nth m.words 1 0).toNat 21 16) = true) :
    execSignalMsg m s = .next (s.count (bits (nth m.words 1 0).toNat 8 0) (bits (nth m.words 1 0).toNat 21 16)
      (nth m.words 2 0).toNat) := by
  have hback : ((s.ctx (s.msgCtx m)).run == .saved) = false := by simpa using hrun
  simp only [execSignalMsg, State.takeSignal, hback, hcore, hrc, Bool.not_true, Bool.false_eq_true, if_false]
  rfl

theorem execSignalMsg_waits (hrun : (s.ctx (s.msgCtx m)).run = .saved) :
    execSignalMsg m s = .next (s.post (.signalMsg m)) := by
  simp only [execSignalMsg, State.takeSignal, hrun, beq_self_eq_true, if_true]
  rfl

/-- An ATOMIC is applied where its target's page lies in device memory. -/
theorem execAtomicMsg_applies :
    let c := s.chan m.ch
    let code := bits (nth m.words 0 0).toNat 15 8
    let pa := (pair (nth m.words 2 0) (nth m.words 3 0)).toNat
    let n := if 13 ≤ code then 8 else 4
    let data := ((bytesOfWords ((m.words.drop 4).take 2)).take n) ++ ((bytesOfWords ((m.words.drop 6).take 2)).take n)
    code < 16 → pa % n = 0 → s.exportBad c pa n true true = none → s.localLane c.ctx pa n true = .ok (.dev pa) →
      execAtomicMsg m s = .next (s.atomicUnit noCore code (.dev pa) n data).2 := by
  intro c code pa n data hcode halign hexport hlane
  have hplain : (decide (15 < code) || pa % n != 0) = false := by simp [halign, Nat.not_lt.2 (Nat.le_of_lt_succ hcode)]
  unfold execAtomicMsg State.takeAtomic
  dsimp only
  rw [hplain, hexport, hlane]
  rfl

end

/-- Settles O54: each event is one of the branches above; what a request comes to is what serving it comes to. -/
theorem fabricEvents : Obligations.FabricEvents := by
  intro s
  refine ⟨fun r hs => ⟨execFabricRequestArrival_refuses hs, ?arrival⟩, fun r c x hc hx => execFabricResponse_ends hc hx,
    fun r c hc hx hlate => execFabricResponse_late hc hx hlate,
    fun ch seq x hx => ⟨execFabricRetryTimeout_again hx, execFabricRetryTimeout_ends hx⟩, execFabricPortDown_moves s,
    fun ch words c hw => ⟨execChannelCreate_creates hw, execChannelCreate_fails hw⟩,
    fun ch c hc => ⟨execChannelClose_closes hc, execChannelClose_waits hc, execChannelFetchComplete_fetches hc⟩,
    fun m => ⟨execSignalMsg_counts, execSignalMsg_waits⟩, fun m => execAtomicMsg_applies⟩
  case arrival =>
    intro c hc hv hheld kept t again gives
    have hreceives := execFabricRequestArrival_receives hs hc hv hheld
    refine ⟨fun hst => ?served, fun hst => hreceives.trans (by rw [hst]; rfl), fun hst => hreceives.trans (by rw [hst]; rfl)⟩
    have htakes : ∀ u, s.take r = u → gives u :=
      fun u hu => (execFabricRequestArrival_takes hs hc hv hheld hst).trans (congrArg _ hu)
    refine ⟨fun happ hw => ?writeAgain, fun happ hw => ⟨fun u reason data hu => ?readAgain, fun u hu => ?readHeld⟩,
      fun happ hpred => ⟨fun u reason data hu => ?first, fun u hu => ?firstHeld⟩, fun happ hne hpred => ?early⟩
    case writeAgain => exact htakes _ (State.take_of_done (State.serve_write_again hc happ hw))
    case readAgain =>
      exact htakes _ (State.take_of_done ((State.serve_read_again hc happ hw).trans (congrArg (FabRes.answered _) hu)))
    case readHeld =>
      exact htakes _ (State.take_of_hold hc ((State.serve_read_again hc happ hw).trans (congrArg (FabRes.answered _) hu)))
    case first =>
      exact htakes _ (State.take_of_done ((State.serve_first hc happ hpred).trans (congrArg (FabRes.answered _) hu)))
    case firstHeld =>
      exact htakes _ (State.take_of_hold hc ((State.serve_first hc happ hpred).trans (congrArg (FabRes.answered _) hu)))
    case early => exact htakes _ (State.take_of_hold hc (State.serve_early hc happ hne hpred))

end Sys2Proof.Machine
end

section
/-! SUPPORT. A RESULT in a state whose table of copies is not in canonical form (R261, R266, R325). -/

namespace Sys2Proof.Machine

open Sys2Proof

/-- A root's copy in a reduction of no elements, which owes its signal at counter 0 of core 0. -/
def owingCopy : Copy :=
  { uid := 1, ctx := 0, core := 0, team := 1, lane := 0, v := 3, rc := List.replicate 12 0 ++ [0x00004000, 0, 0, 0], st := .moving }

/-- An armed trigger of the counter that the signal reaches, which has not signalled. -/
def armedCopy : Copy := { owingCopy with st := .armed }

/-- A state whose table of copies lists one identifier twice: lookups find the root's copy, the counter finds the trigger as well. -/
def twinCopies : State :=
  { State.reset with
    ctxs := [(0, {})], colls := [{ ctx := 0, group := 0, n := 0, copy := some 3 }], copies := [(3, owingCopy), (3, armedCopy)] }

/-- The last RESULT signals, the signal fires the trigger, and the fired trigger, which has not signalled, stands under the identifier. -/
theorem twinCopies_takeResult :
    ((twinCopies.takeResult 0 0 0 []).1.copies.get? 3).map (fun y => (y.st, y.signalled)) = some (.queued, false) := rfl

/-- Refutes O55: the clause on RESULT does not ask that the table of copies lists an identifier once. Where it lists the root's copy and
an armed trigger under one identifier, the signal after the last RESULT fires that trigger, which replaces the copy just marked as
signalled. -/
theorem not_collectiveEvents : ¬ Obligations.CollectiveEvents := by
  rintro ⟨-, -, htakes⟩
  obtain ⟨-, -, -, -, hresult, -⟩ := htakes twinCopies 0 0 []
  obtain ⟨t, x, htake, -, happlied, hsignalled, -⟩ := hresult 0 _ 3 owingCopy rfl rfl rfl (fun i hi => absurd hi (Nat.not_lt_zero i))
  have hstate : (twinCopies.takeResult 0 0 0 []).1 = t := congrArg Prod.fst htake
  obtain ⟨y, hcopy, hy⟩ := Option.map_eq_some_iff.1 (hstate ▸ twinCopies_takeResult)
  exact Bool.false_ne_true ((congrArg Prod.snd hy).symm.trans (hsignalled happlied rfl y hcopy))

end Sys2Proof.Machine
end

section
/-! SUPPORT. The Creel's words (R329, R331, R342 to R349). -/

namespace Sys2Proof.Machine

open Sys2Proof

/-- A buffer word that names a buffer of the context that issues (R329). -/
def Cx.ownsBuffer (c : Cx) (s : State) (w : Word) : Prop :=
  w.toNat < 64 ∧ w.toNat / 8 % 2 = 0 ∧ ((s.ctx c.ctx).creelMask.getD (w.toNat / 16) 0).getLsbD (w.toNat % 8) = true

/-- The buffer that a buffer word names (R329). -/
def bufferOf (w : Word) : Nat := w.toNat / 16 * 8 + w.toNat % 8

/-- PROT at lane 0, with the buffer word as the address (R329). -/
def badBuffer (w : Word) : TrapInfo := { cause := 0x08, info1 := 0, info2 := w, info3 := 0 }

theorem bits_buffer_die {n : Nat} (h : n < 64) : bits n 5 4 = n / 16 := by
  rw [bits, Nat.shiftRight_eq_div_pow]
  omega

theorem bits_buffer_high (n : Nat) : bits n 31 6 = n / 64 % 2 ^ 26 := by
  rw [bits, Nat.shiftRight_eq_div_pow]

theorem bitAt_three (n : Nat) : bitAt n 3 = decide (n / 8 % 2 = 1) := Nat.testBit_eq_decide_div_mod_eq

section
variable {s : State} {c : Cx} {w : Word}

theorem Cx.buffer_of_owns (h : c.ownsBuffer s w) : c.buffer s w = .ok (bufferOf w) := by
  obtain ⟨hlow, hgap, hmask⟩ := h
  have hhigh : bits w.toNat 31 6 = 0 := by rw [bits_buffer_high, Nat.div_eq_of_lt hlow, Nat.zero_mod]
  have hdie := bits_buffer_die hlow
  have hcb : bits w.toNat 2 0 = w.toNat % 8 := rfl
  have hbit : bitAt w.toNat 3 = false := by rw [bitAt_three, hgap]; rfl
  simp only [Cx.buffer, bufferOf, hhigh, hdie, hcb, hbit, hmask, bne_self_eq_false, Bool.not_true, Bool.or_self,
    Bool.false_eq_true, if_false]

theorem Cx.buffer_of_not_owns (h : ¬ c.ownsBuffer s w) : c.buffer s w = .error (.trap (badBuffer w)) := by
  have hbad : (bits w.toNat 31 6 != 0 || bitAt w.toNat 3 ||
      !((s.ctx c.ctx).creelMask.getD (bits w.toNat 5 4) 0).getLsbD (bits w.toNat 2 0)) = true := by
    by_contra hgood
    rw [Bool.not_eq_true, Bool.or_eq_false_iff, Bool.or_eq_false_iff, bne_eq_false_iff_eq, bits_buffer_high, bitAt_three,
      decide_eq_false_iff_not, Bool.not_eq_false'] at hgood
    obtain ⟨⟨hhigh, hgap⟩, hmask⟩ := hgood
    have hlow : w.toNat < 64 := by have := w.isLt; omega
    exact h ⟨hlow, by omega, by rwa [bits_buffer_die hlow] at hmask⟩
  rw [Cx.buffer, if_pos hbad, trapLane_word]
  rfl

end

/-- What a request on a buffer leaves when it is set going (R342). -/
def Cx.asksCreel (c : Cx) (sw : Bool) (id : Nat) (s1 : State) : Host.Outcome State Fault Refusal :=
  .next ((s1.startReq id State.applyCreel).closeGroup c sw .next)

/-! CRCFG and CRWAIT (R344, R347). -/

section
variable {s : State} {c : Cx} {o : FCp} {v : Nat} (hs : s.bare c) (hp : o.p ≠ 15) (he : o.n.toNat % 2 = 0)
  (hr : c.resolve 0 c.mask none o.v.toNat 1 = .ok v)
  (hf : c.free s [.v v (laneBit c.lane), .s o.n.toNat, .s (o.n.toNat + 1)])
  (hb : c.bWrites s [v] (laneBit c.lane) = .ok ())
include hs hp he hr hf hb

theorem execCrcfg_asks (hown : c.ownsBuffer s (c.readS s o.n.toNat)) {l : List Word} {r : Nat × State}
    (hl : c.nearRecord s (c.readS s (o.n.toNat + 1)) 64 = .ok l)
    (hq : c.request s .crCfg v o.c.toNat o.p.toNat (BitVec.ofNat 32 (bufferOf (c.readS s o.n.toNat)) :: l) = .ok r) :
    execCrcfg o s = Cx.asksCreel c o.sw r.1 r.2 := by
  unfold Cx.free at hf
  refine State.runTarget_ok hs.1 ?_
  simp only [Cx.noXp_of_none hs.2, he, hr, hf, hb, hp, Cx.buffer_of_owns hown, hl, hq, bind, Except.bind, bne_self_eq_false,
    Bool.false_eq_true, if_false]

theorem execCrcfg_prot (hown : ¬ c.ownsBuffer s (c.readS s o.n.toNat)) :
    execCrcfg o s = .next (s.raise c (badBuffer (c.readS s o.n.toNat))) := by
  unfold Cx.free at hf
  refine State.runTarget_trap hs.1 ?_
  simp only [Cx.noXp_of_none hs.2, he, hr, hf, hb, hp, Cx.buffer_of_not_owns hown, bind, Except.bind, bne_self_eq_false,
    Bool.false_eq_true, if_false]

theorem execCrwait_asks (hown : c.ownsBuffer s (c.readS s o.n.toNat)) {r : Nat × State}
    (hq : c.request s .crWait v o.c.toNat o.p.toNat
      [BitVec.ofNat 32 (bufferOf (c.readS s o.n.toNat)), c.readS s (o.n.toNat + 1)] = .ok r) :
    execCrwait o s = Cx.asksCreel c o.sw r.1 r.2 := by
  unfold Cx.free at hf
  refine State.runTarget_ok hs.1 ?_
  simp only [Cx.noXp_of_none hs.2, he, hr, hf, hb, hp, Cx.buffer_of_owns hown, hq, bind, Except.bind, bne_self_eq_false,
    Bool.false_eq_true, if_false]

theorem execCrwait_prot (hown : ¬ c.ownsBuffer s (c.readS s o.n.toNat)) :
    execCrwait o s = .next (s.raise c (badBuffer (c.readS s o.n.toNat))) := by
  unfold Cx.free at hf
  refine State.runTarget_trap hs.1 ?_
  simp only [Cx.noXp_of_none hs.2, he, hr, hf, hb, hp, Cx.buffer_of_not_owns hown, bind, Except.bind, bne_self_eq_false,
    Bool.false_eq_true, if_false]

end

/-! CRGATE and CRFREE (R346, R349). -/

section
variable {s : State} {c : Cx} {o : FCp} {v : Nat} (hs : s.bare c) (hp : o.p ≠ 15) (hb : c.uncaptured s [v])
include hs hp hb

section
variable (he : o.v.toNat % 4 = 0) (hr : c.resolve 0 c.mask none o.v.toNat 12 = .ok v)
  (hf : c.free s (.s o.n.toNat :: vNames v 12 c.mask))
include he hr hf

theorem execCrgate_asks (hown : c.ownsBuffer s (c.readS s o.n.toNat)) {d : Dep} {m : Nat} {s1 : State}
    (hk : c.keys s o.c.toNat o.p.toNat = .ok (d, m, s1)) :
    let r := c.laneReq s1 .crGate v (bufferOf (c.readS s o.n.toNat)) o.c.toNat o.p.toNat d (some m) (c.rows s v 12)
    execCrgate o s = Cx.asksCreel c o.sw r.1 r.2 := by
  unfold Cx.free at hf
  unfold Cx.uncaptured at hb
  refine State.runTarget_ok hs.1 ?_
  simp only [Cx.noXp_of_none hs.2, he, hr, hf, hb, hp, Cx.buffer_of_owns hown, hk, bind, Except.bind, bne_self_eq_false,
    Bool.false_eq_true, if_false]

theorem execCrgate_prot (hown : ¬ c.ownsBuffer s (c.readS s o.n.toNat)) :
    execCrgate o s = .next (s.raise c (badBuffer (c.readS s o.n.toNat))) := by
  unfold Cx.free at hf
  unfold Cx.uncaptured at hb
  refine State.runTarget_trap hs.1 ?_
  simp only [Cx.noXp_of_none hs.2, he, hr, hf, hb, hp, Cx.buffer_of_not_owns hown, bind, Except.bind, bne_self_eq_false,
    Bool.false_eq_true, if_false]

end

section
variable (hr : c.resolve 0 c.mask none o.v.toNat 1 = .ok v) (hf : c.free s [.v v c.mask, .s o.n.toNat])
include hr hf

theorem execCrfree_asks (hown : c.ownsBuffer s (c.readS s o.n.toNat)) {d : Dep} {m : Nat} {s1 : State}
    (hk : c.keys s o.c.toNat o.p.toNat = .ok (d, m, s1)) :
    let r := c.laneReq s1 .crFree v (bufferOf (c.readS s o.n.toNat)) o.c.toNat o.p.toNat d (some m) (c.rows s v 1)
    execCrfree o s = Cx.asksCreel c o.sw r.1 r.2 := by
  unfold Cx.free at hf
  unfold Cx.uncaptured at hb
  refine State.runTarget_ok hs.1 ?_
  simp only [Cx.noXp_of_none hs.2, hr, hf, hb, hp, Cx.buffer_of_owns hown, hk, bind, Except.bind, if_false]

theorem execCrfree_prot (hown : ¬ c.ownsBuffer s (c.readS s o.n.toNat)) :
    execCrfree o s = .next (s.raise c (badBuffer (c.readS s o.n.toNat))) := by
  unfold Cx.free at hf
  unfold Cx.uncaptured at hb
  refine State.runTarget_trap hs.1 ?_
  simp only [Cx.noXp_of_none hs.2, hr, hf, hb, hp, Cx.buffer_of_not_owns hown, bind, Except.bind, if_false]

end
end

/-! CRALLOC (R345). -/

section
variable {s : State} {c : Cx} {o : FAlloc} {v : Nat} (hs : s.bare c) (hfresh : ∀ id, c.w.iss.resume ≠ .alloc id)
  (hr : c.resolve 0 c.mask none o.d.toNat 1 = .ok v) (hf : c.free s [.v v c.mask, .s (2 * o.n.toNat)])
  (hb : c.uncaptured s [v])

/-- The request of a CRALLOC of a buffer (R345). -/
def Cx.allocReq (c : Cx) (s : State) (v b : Nat) (all : Bool) : Nat × State :=
  c.laneReq s (.crAlloc all) v b 0 0 {} none (c.rows s v 1)

/-- The state after a CRALLOC's request was taken in its turn (R342, R345). -/
def Cx.allocated (c : Cx) (s : State) (v b : Nat) (all : Bool) : State :=
  (c.allocReq s v b all).2.applyCreel (c.allocReq s v b all).1

include hs hfresh hr hf hb

/-- A CRALLOC that does not resume, once its registers are checked. -/
theorem Cx.allocate_eq (all : Bool) : c.allocate s o all = (do
    let b ← c.buffer s (c.readS s (2 * o.n.toNat))
    if all && ((c.allocated s v b all).reqs.get? (c.allocReq s v b all).1).isSome then
      .error (.park .engine ((c.allocated s v b all).modWarp c.uid (fun w =>
        { w with iss := { w.iss with resume := .alloc (c.allocReq s v b all).1 } })))
    else .ok (c.allocated s v b all, .next)) := by
  unfold Cx.free at hf
  unfold Cx.uncaptured at hb
  unfold Cx.allocate
  rw [Cx.noXp_of_none hs.2, hr]
  cases hres : c.w.iss.resume with
  | alloc id => exact absurd hres (hfresh id)
  | _ =>
    simp only [hf, hb, bind, Except.bind]
    rfl

section
variable (hown : c.ownsBuffer s (c.readS s (2 * o.n.toNat)))
include hown

theorem execCralloc_gives : execCralloc o s = .next ((c.allocated s v (bufferOf (c.readS s (2 * o.n.toNat))) false).closeGroup c o.sw .next) := by
  refine State.runTarget_ok hs.1 ?_
  rw [Cx.allocate_eq hs hfresh hr hf hb, Cx.buffer_of_owns hown]
  rfl

theorem execCrallocW_gives (hdone : ((c.allocated s v (bufferOf (c.readS s (2 * o.n.toNat))) true).reqs.get?
    (c.allocReq s v (bufferOf (c.readS s (2 * o.n.toNat))) true).1).isNone) :
    execCrallocW o s = .next ((c.allocated s v (bufferOf (c.readS s (2 * o.n.toNat))) true).closeGroup c o.sw .next) := by
  have hdone := Option.isNone_iff_eq_none.1 hdone
  refine State.runTarget_ok hs.1 ?_
  rw [Cx.allocate_eq hs hfresh hr hf hb, Cx.buffer_of_owns hown]
  simp only [bind, Except.bind, hdone, Option.isSome_none, Bool.and_false, Bool.false_eq_true, if_false]

theorem execCrallocW_parks (hwaits : ((c.allocated s v (bufferOf (c.readS s (2 * o.n.toNat))) true).reqs.get?
    (c.allocReq s v (bufferOf (c.readS s (2 * o.n.toNat))) true).1).isSome) :
    execCrallocW o s = .next (((c.allocated s v (bufferOf (c.readS s (2 * o.n.toNat))) true).modWarp c.uid (fun x =>
      { x with iss := { x.iss with resume := .alloc (c.allocReq s v (bufferOf (c.readS s (2 * o.n.toNat))) true).1 } })).parkWarp c.uid
        .engine) := by
  refine State.runTarget_park hs.1 ?_
  rw [Cx.allocate_eq hs hfresh hr hf hb, Cx.buffer_of_owns hown]
  simp only [bind, Except.bind, hwaits, Bool.and_self, if_true]

end

theorem Cx.allocate_prot {all : Bool} (hown : ¬ c.ownsBuffer s (c.readS s (2 * o.n.toNat))) :
    s.runTarget o.sw (fun c s => c.allocate s o all) = .next (s.raise c (badBuffer (c.readS s (2 * o.n.toNat)))) := by
  refine State.runTarget_trap hs.1 ?_
  rw [Cx.allocate_eq hs hfresh hr hf hb, Cx.buffer_of_not_owns hown]
  rfl

end

/-! CRSTAT (R348). -/

/-- What a lane reads of a buffer: what its selector names, or a free value of a buffer that a program wrote into (R331). -/
def State.crstatFig (s : State) (b lane sel : Nat) : Nat :=
  if (s.buf b).spoiled then Config.pick s.tick (70000000 + lane) % 2 ^ 24 else ((s.buf b).stat sel).getD 0

theorem State.crstatWord_eq (s : State) (b lane sel : Nat) :
    s.crstatWord b lane sel = BitVec.ofNat 32 (min (s.crstatFig b lane sel) 0xFFFFFF) := statusWord_progress _

section
variable {s : State} {c : Cx} {o : FVn} {v : Nat} (hs : s.bare c) (hr : c.resolve 0 c.mask none o.v.toNat 1 = .ok v)
  (hf : c.free s [.v v c.mask, .s o.n.toNat]) (hb : c.uncaptured s [v])
include hs hr hf hb

theorem execCrstat_prot_buffer (hown : ¬ c.ownsBuffer s (c.readS s o.n.toNat)) :
    execCrstat o s = .next (s.raise c (badBuffer (c.readS s o.n.toNat))) := by
  unfold Cx.free at hf
  unfold Cx.uncaptured at hb
  refine State.runTarget_trap hs.1 ?_
  simp only [Cx.noXp_of_none hs.2, hr, hf, hb, Cx.buffer_of_not_owns hown, bind, Except.bind]

section
variable (hown : c.ownsBuffer s (c.readS s o.n.toNat))
include hown

theorem execCrstat_gives (hall : ∀ l ∈ lanesOf c.mask, ((s.buf (bufferOf (c.readS s o.n.toNat))).stat (c.readV s v l).toNat).isSome) :
    let b := bufferOf (c.readS s o.n.toNat)
    execCrstat o s = .next (((s.result c 4 [.v v c.mask] [.v v ((lanesOf c.mask).map (fun l =>
      (l, BitVec.ofNat 32 (min (s.crstatFig b l (c.readV s v l).toNat) 0xFFFFFF))))]).sampling c.uid
        (.creel b ((lanesOf c.mask).map (fun l => (l, (c.readV s v l).toNat))))).closeGroup c o.sw .next) := by
  unfold Cx.free at hf
  unfold Cx.uncaptured at hb
  have hnone : ((lanesOf c.mask).map (fun l => (l, (c.readV s v l).toNat))).find? (fun p =>
      ((s.buf (bufferOf (c.readS s o.n.toNat))).stat p.2).isNone) = none := by
    simpa [List.find?_eq_none, Option.isSome_iff_ne_none] using hall
  refine State.runTarget_ok hs.1 ?_
  simp only [Cx.noXp_of_none hs.2, hr, hf, hb, Cx.buffer_of_owns hown, hnone, bind, Except.bind, List.map_map,
    Function.comp_def, State.crstatWord_eq]

theorem execCrstat_prot_selector {l : Nat} (hl : l ∈ lanesOf c.mask)
    (hbad : (s.buf (bufferOf (c.readS s o.n.toNat))).stat (c.readV s v l).toNat = none)
    (hlow : ∀ k ∈ lanesOf c.mask, k < l → ((s.buf (bufferOf (c.readS s o.n.toNat))).stat (c.readV s v k).toNat).isSome) :
    execCrstat o s = .next (s.raise c
      { cause := 0x08, info1 := BitVec.ofNat 32 l, info2 := c.readV s v l, info3 := 0 }) := by
  unfold Cx.free at hf
  unfold Cx.uncaptured at hb
  have hfind : ((lanesOf c.mask).map (fun i => (i, (c.readV s v i).toNat))).find? (fun p =>
      ((s.buf (bufferOf (c.readS s o.n.toNat))).stat p.2).isNone) = some (l, (c.readV s v l).toNat) := by
    rw [List.find?_map, find?_eq_some_of_least (lanesOf_sorted c.mask) hl (by simp [hbad])
      (fun k hk hkl => by simpa [Option.isSome_iff_ne_none] using hlow k hk hkl)]
    rfl
  refine State.runTarget_trap hs.1 ?_
  simp only [Cx.noXp_of_none hs.2, hr, hf, hb, Cx.buffer_of_owns hown, hfind, bind, Except.bind]
  rw [show BitVec.ofNat 64 (c.readV s v l).toNat = (c.readV s v l).setWidth 64 from BitVec.ofNat_toNat ..]
  exact congrArg Except.error (trapLane_word 0x08 l (c.readV s v l))

end
end

/-- Settles O41: the buffer word decides between PROT and the request, and the selectors between PROT and the words they name. -/
theorem creelWords : Obligations.CreelWords := by
  intro s c hs v own buf one asks prot
  refine ⟨fun o hp => ⟨fun he hr hf hb => ?record, fun he hr hf hb => ?gate, fun hr hf hb => ?free⟩,
    fun o hfresh hr hf hb => ?alloc, fun o hr hf hb => ?stat⟩
  case record =>
    exact ⟨fun hown => ⟨fun l r hl hq => execCrcfg_asks hs hp he hr hf hb hown hl hq,
        fun r hq => execCrwait_asks hs hp he hr hf hb hown hq⟩,
      fun hown => ⟨execCrcfg_prot hs hp he hr hf hb hown, execCrwait_prot hs hp he hr hf hb hown⟩⟩
  case gate =>
    exact ⟨fun d m s1 hown hk => execCrgate_asks hs hp hb he hr hf hown hk, execCrgate_prot hs hp hb he hr hf⟩
  case free =>
    exact ⟨fun d m s1 hown hk => execCrfree_asks hs hp hb hr hf hown hk, execCrfree_prot hs hp hb hr hf⟩
  case alloc =>
    exact ⟨fun hown => ⟨execCralloc_gives hs hfresh hr hf hb hown, execCrallocW_gives hs hfresh hr hf hb hown,
        execCrallocW_parks hs hfresh hr hf hb hown⟩,
      fun hown => ⟨Cx.allocate_prot hs hfresh hr hf hb hown, Cx.allocate_prot hs hfresh hr hf hb hown⟩⟩
  case stat =>
    refine ⟨fun hown hall => ⟨fun l => s.crstatFig (buf (c.readS s o.n.toNat)) l (c.readV s v l).toNat, fun hkept l => ?kept,
        execCrstat_gives hs hr hf hb hown hall⟩,
      fun hown l hl hbad hlow => execCrstat_prot_selector hs hr hf hb hown hl hbad hlow, execCrstat_prot_buffer hs hr hf hb⟩
    case kept => exact if_neg (Bool.eq_false_iff.1 hkept)

end Sys2Proof.Machine
end

section
/-! SUPPORT. An arrival at a Creel whose firmware is being switched (R332, R423). -/

namespace Sys2Proof.Machine

open Sys2Proof

/-- A state in which the Creel of die 0 has stopped for a switch of its firmware, and nothing else is going on (R423). -/
def stoppedCreel : State := { State.reset with svc := { stops := [(8, 0)] } }

/-- A byte that a memory operation sends to a buffer of that Creel (R332). -/
def lateArrival : Arrival := { buf := 0, src := .op 0 0, data := [(0, 1)] }

/-- A stopped Creel takes no arrival: it waits. -/
theorem stoppedCreel_holds : exec (.creelArrival lateArrival) stoppedCreel = .next (stoppedCreel.post (.creelArrival lateArrival)) := rfl

/-- What accepting the byte comes to: it is dropped, since the buffer is not configured, and nothing is left to do. -/
theorem stoppedCreel_arrive : (stoppedCreel.arrive 0 [(0, 1)]).2 = true ∧
    ((stoppedCreel.arrive 0 [(0, 1)]).1.arrivedOp 0 0).bag = [] := ⟨rfl, rfl⟩

/-- Refutes O56: the clause on accepted bytes does not ask that the Creel runs. While its firmware is switched (R423) an arrival is put
off, whatever accepting it would come to. -/
theorem not_creelEvents : ¬ Obligations.CreelEvents := by
  rintro ⟨haccepted, -⟩
  obtain ⟨htaken, hbag⟩ := stoppedCreel_arrive
  have hnext := stoppedCreel_holds.symm.trans ((haccepted stoppedCreel lateArrival _ (Prod.ext rfl htaken)).1 0 0 rfl)
  injection hnext with hstate
  exact List.cons_ne_nil _ _ ((congrArg State.bag hstate).trans hbag)

end Sys2Proof.Machine
end

section
/-! SUPPORT. The barrier words (R365 to R368, R371, R373 to R376). -/

namespace Sys2Proof.Machine

open Sys2Proof

/-- No GUARD report is due at a barrier word of the warp (R106, R371). -/
def Cx.unguarded (c : Cx) : Prop := c.w.due (fun r => r.cause == 0x09 && c.w.iss.resume == .none) = none

/-- The state of a warp that waits at a barrier. -/
def Cx.atBarrier (c : Cx) (s : State) (b : Nat) : State := s.modWarp c.uid (fun w => { w with iss := { w.iss with parkBar := b } })

/-! The operands of BINIT (R367, R373). -/

/-- The fields of BINIT's first register are well formed for a team (R373). -/
def BinitFields (a : Nat) (x : Word) (t : Team) : Prop :=
  a % 2 = 0 ∧ x.toNat / 4 % 64 = 0 ∧ x.toNat < 2 ^ 14 ∧ 0 < x.toNat / 256 % 64 ∧ x.toNat / 256 % 64 ≤ t.warps.length

/-- The level of a BINIT is open to the team: a gang for 1, a co-scheduled grid from 2 on (R365, R373). -/
def BinitReach (level : Nat) (t : Team) (g : Grid) : Prop :=
  (level = 1 → t.gang ≠ 0) ∧ (2 ≤ level → (nth g.desc.words 1 0).getLsbD 18 = true)

theorem bits_expect (n : Nat) : bits n 13 8 = n / 256 % 64 := by
  rw [bits, Nat.shiftRight_eq_div_pow]
  rfl

theorem binitFields_iff {a : Nat} {x : Word} {t : Team} : BinitFields a x t ↔
    (a % 2 != 0 || bits x.toNat 7 2 != 0 || bits x.toNat 31 14 != 0 || decide (bits x.toNat 13 8 = 0) ||
      decide (t.warps.length < bits x.toNat 13 8)) = false := by
  have hgap : bits x.toNat 7 2 = x.toNat / 4 % 64 := by rw [bits, Nat.shiftRight_eq_div_pow]; rfl
  have hhigh : bits x.toNat 31 14 = 0 ↔ x.toNat < 2 ^ 14 := by
    rw [bits, Nat.shiftRight_eq_div_pow]
    have := x.isLt
    omega
  simp only [BinitFields, Bool.or_eq_false_iff, bne_eq_false_iff_eq, decide_eq_false_iff_not, hgap, hhigh, bits_expect, Nat.not_lt,
    ← ne_eq, Nat.pos_iff_ne_zero, and_assoc]

theorem binitReach_iff {level : Nat} {t : Team} {g : Grid} : BinitReach level t g ↔
    (decide (level = 1) && decide (t.gang = 0) || (decide (2 ≤ level) && !(nth g.desc.words 1 0).getLsbD 18)) = false := by
  simp [BinitReach]

/-- A barrier as BINIT configures it (R367). -/
def Barrier.configured (y : Barrier) (x limit : Word) : Barrier :=
  { y with level := x.toNat % 4, expect := x.toNat / 256 % 64, limit := limit.toNat }

/-- A barrier that BINIT takes out of UNCONF (R367). -/
def Barrier.opened (y : Barrier) : Barrier := { y with phase := 0, st := .idle }

/-- The dies of a grid's teams are noted when a barrier of level DIE is configured (R364). -/
def Cx.noteDies (c : Cx) (s : State) (x : Word) : State := if x.toNat % 4 = 2 then s.setDies c.ctx c.w.id.grid else s

section
variable {s : State} {c : Cx} (hs : s.bare c) (hd : c.unguarded)
include hs hd

theorem State.runBar_eq {sw : Bool} {body : Cx → State → Except Stop (State × Flow)} :
    s.runBar sw body = s.settle c sw (body c s) := State.runReporting_of_none_due hs hd

theorem State.runBar_ok {sw : Bool} {body : Cx → State → Except Stop (State × Flow)} {t : State} {fl : Flow}
    (hb : body c s = .ok (t, fl)) : s.runBar sw body = .next (t.closeGroup c sw fl) := by
  rw [State.runBar_eq hs hd, hb]
  rfl

theorem State.runBar_trap {sw : Bool} {body : Cx → State → Except Stop (State × Flow)} {t : TrapInfo}
    (hb : body c s = .error (.trap t)) : s.runBar sw body = .next (s.raise c t) := by
  rw [State.runBar_eq hs hd, hb]
  rfl

theorem State.runBar_parks {sw : Bool} {body : Cx → State → Except Stop (State × Flow)} {t : State} {b : Nat}
    (hb : body c s = .error (c.parkBar t b)) : s.runBar sw body = .next ((c.atBarrier t b).parkWarp c.uid .barrier) := by
  rw [State.runBar_eq hs hd, hb]
  rfl

/-! BINIT (R367, R373). -/

/-- What a well-formed BINIT of a barrier does, by the barrier's state (R367, R373). -/
def Cx.binits (c : Cx) (s : State) (o : FBs) : BarSt → Except Stop (State × Flow) :=
  let x := c.readS s o.s.toNat
  let y := (s.team c.w.id.team).bar o.b.toNat
  let z := y.configured x (c.readS s (o.s.toNat + 1))
  let s1 := c.noteDies s x
  fun
  | .unconf =>
    if y.arrivals.isEmpty then .ok (s1.putBar c.w.id.team o.b.toNat z.opened, .next)
    else .ok ((s1.startFill c.w.id.team o.b.toNat z.opened).postAll
      (y.arrivals.map (fun q => Ev.barrierArrivalCounted q.uid o.b.toNat)), .next)
  | .idle => .ok (s1.putBar c.w.id.team o.b.toNat z, .next)
  | _ => .error (c.parkBar s o.b.toNat)

section
variable {o : FBs} (hf : c.free s [.s o.s.toNat, .s (o.s.toNat + 1)])
include hf

theorem execBinit_ill (h : ¬ BinitFields o.s.toNat (c.readS s o.s.toNat) (s.team c.w.id.team)) :
    execBinit o s = .next (s.raise c { cause := 0x01 }) := by
  unfold Cx.free at hf
  have hbad := Bool.eq_true_of_not_eq_false (mt binitFields_iff.2 h)
  refine State.runBar_trap hs hd ?_
  simp only [Cx.noXp_of_none hs.2, hf, bind, Except.bind]
  exact if_pos hbad

section
variable (hfields : BinitFields o.s.toNat (c.readS s o.s.toNat) (s.team c.w.id.team))
include hfields

theorem execBinit_prot (h : ¬ BinitReach ((c.readS s o.s.toNat).toNat % 4) (s.team c.w.id.team) (s.grid c.ctx c.w.id.grid)) :
    execBinit o s = .next (s.raise c { cause := 0x08, info1 := BitVec.ofNat 32 c.lane, info2 := 0, info3 := 0 }) := by
  unfold Cx.free at hf
  have hbad := Bool.eq_true_of_not_eq_false (mt binitReach_iff.2 h)
  refine State.runBar_trap hs hd ?_
  simp only [Cx.noXp_of_none hs.2, hf, bind, Except.bind]
  exact (if_neg (Bool.eq_false_iff.1 (binitFields_iff.1 hfields))).trans (if_pos hbad)

theorem execBinit_settles {st : BarSt} (hst : ((s.team c.w.id.team).bar o.b.toNat).st = st)
    (h : BinitReach ((c.readS s o.s.toNat).toNat % 4) (s.team c.w.id.team) (s.grid c.ctx c.w.id.grid)) :
    execBinit o s = s.settle c o.sw (c.binits s o st) := by
  unfold Cx.free at hf
  subst hst
  refine (State.runBar_eq hs hd).trans (congrArg _ ?_)
  simp only [Cx.noXp_of_none hs.2, hf, bind, Except.bind]
  refine (if_neg (Bool.eq_false_iff.1 (binitFields_iff.1 hfields))).trans
    ((if_neg (Bool.eq_false_iff.1 (binitReach_iff.1 h))).trans ?_)
  simp only [bits_expect]
  rfl

end
end

/-! BARV, BSYNC and BWAIT (R374, R375). -/

section
variable {o : FBar} (hp : o.p ≠ 15)
include hp

theorem execBarv_arrives {s1 : State} (hfree : c.arrived s o.b.toNat = false)
    (ha : c.arrive s o.b.toNat o.c.toNat o.p.toNat = .ok s1) : execBarv o s = .next (s1.closeGroup c o.sw .next) := by
  refine State.runBar_ok hs hd ?_
  simp only [Cx.noXp_of_none hs.2, hp, hfree, ha, bind, Except.bind, Bool.false_eq_true, if_false]

theorem execBarv_parks (hwaits : c.arrived s o.b.toNat = true) :
    execBarv o s = .next ((c.atBarrier s o.b.toNat).parkWarp c.uid .barrier) := by
  refine State.runBar_parks hs hd ?_
  simp only [Cx.noXp_of_none hs.2, hp, hwaits, bind, Except.bind, if_true, if_false]

theorem execBsync_arrives {s1 : State} (hfree : c.arrived s o.b.toNat = false)
    (ha : c.arrive s o.b.toNat o.c.toNat o.p.toNat = .ok s1) (hfirst : c.w.iss.resume ≠ .barrier o.b.toNat) :
    execBsync o s = .next ((c.atBarrier (s1.modWarp c.uid (fun w =>
      { w with iss := { w.iss with resume := .barrier o.b.toNat } })) o.b.toNat).parkWarp c.uid .barrier) := by
  refine State.runBar_parks hs hd ?_
  simp only [Cx.noXp_of_none hs.2, hp, hfree, ha, hfirst, bind, Except.bind, Bool.false_eq_true, if_false]

theorem execBsync_parks (hwaits : c.arrived s o.b.toNat = true) :
    execBsync o s = .next ((c.atBarrier s o.b.toNat).parkWarp c.uid .barrier) := by
  refine State.runBar_parks hs hd ?_
  simp only [Cx.noXp_of_none hs.2, hp, hwaits, bind, Except.bind, if_true, if_false, ite_self]

theorem execBsync_passes (hreleased : c.arrived s o.b.toNat = false) (hsecond : c.w.iss.resume = .barrier o.b.toNat) :
    execBsync o s = .next (s.closeGroup c o.sw .next) := by
  refine State.runBar_ok hs hd ?_
  simp only [Cx.noXp_of_none hs.2, hp, hreleased, hsecond, bind, Except.bind, Bool.false_eq_true, if_true, if_false]

end

theorem execBwait_passes {o : FBwait} (hreleased : c.arrived s o.b.toNat = false) :
    execBwait o s = .next (s.closeGroup c o.sw .next) := by
  refine State.runBar_ok hs hd ?_
  simp only [Cx.noXp_of_none hs.2, hreleased, bind, Except.bind, Bool.false_eq_true, if_false]

theorem execBwait_parks {o : FBwait} (hwaits : c.arrived s o.b.toNat = true) :
    execBwait o s = .next ((c.atBarrier s o.b.toNat).parkWarp c.uid .barrier) := by
  refine State.runBar_parks hs hd ?_
  simp only [Cx.noXp_of_none hs.2, hwaits, bind, Except.bind, if_true]

/-! BSTAT (R376). -/

theorem execBstat_gives {o : FBs} (hf : c.free s [.s o.s.toNat]) : execBstat o s =
    .next (((s.afterS c 4 [(o.s.toNat, ((s.team c.w.id.team).bar o.b.toNat).stat)]).sampling c.uid
      (.barrier c.w.id.team o.b.toNat)).closeGroup c o.sw .next) := by
  refine State.runBar_ok hs hd ?_
  rw [Cx.sop_ok hs.2 hf]
  rfl

end

/-! Arrivals (R366). -/

/-- What an arrival leaves, when its team is one of the table: it is the barrier's last, an IDLE barrier fills, and a configured one
is asked to count it; the barrier's other fields and memory stay. -/
structure State.ArrivalLeaves (s t : State) (team b : Nat) (a : Arrive) : Prop where
  arrivals : ((t.team team).bar b).arrivals = ((s.team team).bar b).arrivals ++ [a]
  fills : ((s.team team).bar b).st = .idle → ((t.team team).bar b).st = .filling
  keepsSt : ((s.team team).bar b).st ≠ .idle → ((t.team team).bar b).st = ((s.team team).bar b).st
  asks : ((s.team team).bar b).st ≠ .unconf → .barrierArrivalCounted a.uid b ∈ t.bag
  phase : ((t.team team).bar b).phase = ((s.team team).bar b).phase
  level : ((t.team team).bar b).level = ((s.team team).bar b).level
  expect : ((t.team team).bar b).expect = ((s.team team).bar b).expect
  limit : ((t.team team).bar b).limit = ((s.team team).bar b).limit
  mem : t.mem = s.mem

/-- A barrier whose arrivals have one more at their end, with a state and a start of its own. -/
def Barrier.joined (x : Barrier) (a : Arrive) (st : BarSt) (start : Int) : Barrier :=
  { x with arrivals := x.arrivals ++ [a], st := st, start := start }

theorem State.arrivalLeaves_of_joined {s t : State} {team b : Nat} {a : Arrive} {st : BarSt} {start : Int}
    (hbar : (t.team team).bar b = ((s.team team).bar b).joined a st start) (hfills : ((s.team team).bar b).st = .idle → st = .filling)
    (hkeeps : ((s.team team).bar b).st ≠ .idle → st = ((s.team team).bar b).st)
    (hasks : ((s.team team).bar b).st ≠ .unconf → .barrierArrivalCounted a.uid b ∈ t.bag) (hmem : t.mem = s.mem) :
    s.ArrivalLeaves t team b a :=
  ⟨congrArg Barrier.arrivals hbar, fun h => (congrArg Barrier.st hbar).trans (hfills h),
    fun h => (congrArg Barrier.st hbar).trans (hkeeps h), hasks, (congrArg Barrier.phase hbar :), (congrArg Barrier.level hbar :),
    (congrArg Barrier.expect hbar :), (congrArg Barrier.limit hbar :), hmem⟩

/-- An arrival goes through whatever the barrier's state. -/
theorem Cx.arrive_leaves {s s1 : State} {c : Cx} {b kc kp m : Nat} {d : Dep} (hk : c.keys s kc kp = .ok (d, m, s1))
    (ht : (s1.teams.get? c.w.id.team).isSome = true) : ∃ t : State, c.arrive s b kc kp = .ok t ∧
      s1.ArrivalLeaves t c.w.id.team b { uid := c.uid, w := c.w.id.w, dep := d, mem := some m } := by
  obtain ⟨tm, htm⟩ := Option.isSome_iff_exists.1 ht
  have hout := State.setsGoing_outward s1 c.core c.ctx [b, c.w.id.w]
  have hteam : (s1.outward c.core c.ctx [b, c.w.id.w]).team c.w.id.team = s1.team c.w.id.team := by
    rw [State.team, hout.teams]
    rfl
  have hbar := State.putBar_bar (hout.teams ▸ htm : (s1.outward c.core c.ctx [b, c.w.id.w]).teams.get? c.w.id.team = some tm) b
  have hasked (x : State) : Ev.barrierArrivalCounted c.uid b ∈ (x.post (.barrierArrivalCounted c.uid b)).bag :=
    List.mem_append_right _ List.mem_cons_self
  unfold Cx.arrive
  simp only [hk, bind, Except.bind, hteam]
  cases hst : ((s1.team c.w.id.team).bar b).st with
  | unconf =>
    exact ⟨_, rfl, State.arrivalLeaves_of_joined (hbar _) (fun hi => nomatch hst.symm.trans hi) (fun _ => hst.symm)
      (fun hu => absurd hst hu) hout.mem⟩
  | idle =>
    exact ⟨_, rfl, State.arrivalLeaves_of_joined (hbar _) (fun _ => rfl) (fun hi => absurd hst hi) (fun _ => hasked _) hout.mem⟩
  | _ =>
    exact ⟨_, rfl, State.arrivalLeaves_of_joined (hbar _) (fun hi => nomatch hst.symm.trans hi) (fun _ => hst.symm)
      (fun _ => hasked _) hout.mem⟩

/-- Settles O42: with no report due a barrier word is its body, whose branches its operands and the barrier's state decide. -/
theorem barrierWords : Obligations.BarrierWords := by
  refine ⟨?words, ?arrive⟩
  case arrive =>
    intro s c b kc kp d m s1 hk ht x
    obtain ⟨t, hok, h⟩ := Cx.arrive_leaves (b := b) hk ht
    exact ⟨t, hok, h.arrivals, h.fills, h.keepsSt, h.asks, h.phase, h.level, h.expect, h.limit, h.mem⟩
  intro s c hs hd team t set parks
  refine ⟨fun o hf => ?binit, fun o hp => ?arrival, fun o => ?bwait, fun o hf => execBstat_gives hs hd hf⟩
  case binit =>
    intro v e level b y z s1 fields reach
    refine ⟨fun hfields hreach => ?configures, execBinit_ill hs hd hf, execBinit_prot hs hd hf⟩
    have hsettles := fun st (hst : y.st = st) => execBinit_settles hs hd hf hfields hst hreach
    refine ⟨fun hst hnone => (hsettles _ hst).trans ?_, fun hst hsome => (hsettles _ hst).trans ?_,
      fun hst => hsettles _ hst, fun hst => hst.elim (hsettles _) (hsettles _)⟩
    · exact congrArg (s.settle c o.sw) (if_pos (List.isEmpty_iff.2 hnone))
    · exact congrArg (s.settle c o.sw) (if_neg (mt List.isEmpty_iff.1 hsome))
  case arrival =>
    exact ⟨fun s1 hfree ha => ⟨execBarv_arrives hs hd hp hfree ha, execBsync_arrives hs hd hp hfree ha⟩,
      fun hwaits => ⟨execBarv_parks hs hd hp hwaits, execBsync_parks hs hd hp hwaits⟩, execBsync_passes hs hd hp⟩
  case bwait => exact ⟨execBwait_passes hs hd, execBwait_parks hs hd⟩

end Sys2Proof.Machine
end

section
/-! SUPPORT. GLAUNCH, GWAIT and GSTAT, and what a launch comes to (R16, R354 to R358, R377 to R379). -/

namespace Sys2Proof.Machine

open Sys2Proof

/-- A status word in figures: DONE, ERR, CAUSE and DETAIL side by side (R16). -/
theorem statusWord_eq (done err : Bool) {cause n : Nat} (hc : cause < 64) (hn : n < 2 ^ 24) :
    statusWord done err cause n = BitVec.ofNat 32 (done.toNat * 2 ^ 31 + err.toNat * 2 ^ 30 + cause * 2 ^ 24 + n) := by
  refine BitVec.eq_of_toNat_eq ?_
  have hmin : min n 0xFFFFFF = n := by omega
  have hd := Bool.toNat_le done
  have he := Bool.toNat_le err
  rw [statusWord, hmin, BitVec.toNat_append, BitVec.toNat_append, BitVec.toNat_append, ← Nat.shiftLeft_add_eq_or_of_lt (BitVec.isLt _),
    ← Nat.shiftLeft_add_eq_or_of_lt (BitVec.isLt _), ← Nat.shiftLeft_add_eq_or_of_lt (BitVec.isLt _)]
  simp only [Nat.shiftLeft_eq, BitVec.toNat_ofBool, BitVec.toNat_ofNat]
  omega

/-! The leader lane (R377). -/

/-- Lane 0 of warp 0 of the team of a warp lives. -/
def Cx.firstLives (c : Cx) (s : State) : Prop :=
  ∃ p, s.warpIn (s.team c.w.id.team) 0 = some p ∧ p.2.live.getLsbD 0 = true

section
variable {s : State} {c : Cx}

theorem Cx.firstLives_iff : c.firstLives s ↔ (s.warpIn (s.team c.w.id.team) 0).any (fun p => p.2.live.getLsbD 0) = true := by
  rw [Cx.firstLives, Option.any_eq_true]

theorem Cx.leads_iff_first (h : c.firstLives s) : c.leads s = true ↔ c.w.id.w = 0 ∧ c.mask.getLsbD 0 = true := by
  rw [Cx.leads]
  rw [if_pos (Cx.firstLives_iff.1 h), Bool.and_eq_true, beq_iff_eq]

theorem Cx.leads_iff_lowest (h : ¬ c.firstLives s) :
    c.leads s = true ↔ ∀ u ∈ (s.team c.w.id.team).warps, (s.warp u).live ≠ 0 → c.w.id.w ≤ (s.warp u).id.w := by
  rw [Cx.leads]
  rw [if_neg (mt Cx.firstLives_iff.2 h), List.all_map, List.all_eq_true]
  refine forall₂_congr fun u _ => ?_
  rw [Function.comp_apply, Bool.or_eq_true, beq_iff_eq, decide_eq_true_eq, or_iff_not_imp_left]

end

/-! GLAUNCH (R378). -/

/-- What GLAUNCH does once its registers are checked: a nesting of ten, another lane than the leader's and the produce key K15 trap,
a full table parks, and the launch is asked for otherwise. -/
def Cx.glaunches (c : Cx) (s : State) (o : FMx) (v : Nat) : Except Stop (State × Flow) :=
  if (s.grid c.ctx c.w.id.grid).depth = 10 then .error (.trap { cause := 0x14, info1 := 10 })
  else if !c.leads s then .error (trapLane 0x08 c.lane 0)
  else if o.p = 15 then .error (trapOf 0x0B)
  else if decide (8 ≤ s.gridReqs c.uid) || s.tableFull then .error (.park .engine s)
  else do
    let (id, s1) ← c.request s .gLaunch (v + 13) o.c.toNat o.p.toNat ((List.range' v 13).map (fun r => c.readV s r c.lane))
    .ok (s1.startReq id State.applyGrid, .next)

section
variable {s : State} {c : Cx} {o : FMx} {v : Nat} (hs : s.bare c) (hr : c.resolve 0 c.mask none o.v.toNat 1 = .ok v)
  (hv : c.names v 14)
  (hf : c.leads s = true → c.free s ((List.range' v 13).map (fun r => RegName.v r (laneBit c.lane)) ++ [.v (v + 13) (laneBit c.lane)]) ∧
    c.bWrites s [v + 13] (laneBit c.lane) = .ok ())
include hs hr hv hf

theorem execGlaunch_eq : execGlaunch o s = s.settle c o.sw (c.glaunches s o v) := by
  have hnone : (List.range' v 14).find? (fun r => !c.w.validV r) = none := by
    refine List.find?_eq_none.2 fun r hr => ?_
    obtain ⟨hlo, hhi⟩ := List.mem_range'_1.1 hr
    simp [hv r hlo hhi]
  have hsingle : c.w.badReg none v 1 = none := by
    cases hbad : c.w.badReg none o.v.toNat 1 with
    | some r => simp [Cx.resolve, hbad] at hr
    | none =>
      have heq : o.v.toNat = v := by simpa [Cx.resolve, hbad] using hr
      exact heq ▸ hbad
  unfold execGlaunch State.runTarget
  rw [hs.1]
  refine congrArg (s.settle c o.sw) ?_
  simp only [Cx.noXp_of_none hs.2, hr, hnone, hsingle, bind, Except.bind]
  cases hl : c.leads s with
  | false =>
    simp only [Cx.glaunches, hl, Bool.false_eq_true, if_false]
    rfl
  | true =>
    obtain ⟨ht, hb⟩ := hf hl
    unfold Cx.free at ht
    simp only [Cx.glaunches, hl, ht, hb, bind, Except.bind, if_true]

theorem execGlaunch_depth (hd : (s.grid c.ctx c.w.id.grid).depth = 10) :
    execGlaunch o s = .next (s.raise c { cause := 0x14, info1 := 10 }) := by
  rw [execGlaunch_eq hs hr hv hf, Cx.glaunches, if_pos hd]
  rfl

section
variable (hd : (s.grid c.ctx c.w.id.grid).depth ≠ 10)
include hd

theorem execGlaunch_prot (hl : c.leads s = false) :
    execGlaunch o s = .next (s.raise c { cause := 0x08, info1 := BitVec.ofNat 32 c.lane, info2 := 0, info3 := 0 }) := by
  rw [execGlaunch_eq hs hr hv hf, Cx.glaunches, if_neg hd, hl]
  rfl

section
variable (hl : c.leads s = true)
include hl

theorem execGlaunch_all (hp : o.p = 15) : execGlaunch o s = .next (s.raise c { cause := 0x0B }) := by
  rw [execGlaunch_eq hs hr hv hf, Cx.glaunches, if_neg hd, hl, if_pos hp]
  rfl

variable (hp : o.p ≠ 15)
include hp

theorem execGlaunch_parks (hfull : 8 ≤ s.gridReqs c.uid ∨ s.tableFull = true) :
    execGlaunch o s = .next (s.parkWarp c.uid .engine) := by
  have hfull : (decide (8 ≤ s.gridReqs c.uid) || s.tableFull) = true := by simpa using hfull
  rw [execGlaunch_eq hs hr hv hf, Cx.glaunches, if_neg hd, hl, if_neg hp, if_pos hfull]
  rfl

theorem execGlaunch_asks {id : Nat} {s1 : State} (hroom : s.gridReqs c.uid < 8) (htable : s.tableFull = false)
    (hq : c.request s .gLaunch (v + 13) o.c.toNat o.p.toNat ((List.range' v 13).map (fun r => c.readV s r c.lane)) = .ok (id, s1)) :
    execGlaunch o s = .next ((s1.startReq id State.applyGrid).closeGroup c o.sw .next) := by
  have hroom : ¬ (decide (8 ≤ s.gridReqs c.uid) || s.tableFull) = true := by simp [htable, hroom]
  rw [execGlaunch_eq hs hr hv hf, Cx.glaunches, if_neg hd, hl, if_neg hp, if_neg hroom, hq]
  rfl

end
end
end

/-! GWAIT (R379). -/

section
variable {s : State} {c : Cx} {o : FCp} {v : Nat} (hs : s.bare c) (hp : o.p ≠ 15) (hr : c.resolve 0 c.mask none o.v.toNat 1 = .ok v)
  (hf : c.free s [.v v (laneBit c.lane), .s o.n.toNat]) (hb : c.bWrites s [v] (laneBit c.lane) = .ok ())
include hs hp hr hf hb

theorem execGwait_parks (hfull : 8 ≤ s.gridReqs c.uid) : execGwait o s = .next (s.parkWarp c.uid .engine) := by
  unfold Cx.free at hf
  refine State.runTarget_park hs.1 ?_
  simp only [Cx.noXp_of_none hs.2, hr, hf, hb, hp, hfull, bind, Except.bind, if_true, if_false]

theorem execGwait_asks {id : Nat} {s1 : State} (hroom : s.gridReqs c.uid < 8)
    (hq : c.request s .gWait v o.c.toNat o.p.toNat [c.readS s o.n.toNat] = .ok (id, s1)) :
    execGwait o s = .next ((s1.startReq id State.applyGrid).closeGroup c o.sw .next) := by
  unfold Cx.free at hf
  refine State.runTarget_ok hs.1 ?_
  simp only [Cx.noXp_of_none hs.2, hr, hf, hb, hp, Nat.not_le.2 hroom, hq, bind, Except.bind, if_false]

end

/-! GSTAT (R379). -/

theorem execGstat_gives {s : State} {c : Cx} {o : FGstat} {x : Word} (hs : s.bare c) (hf : c.free s [.s o.n.toNat, .s o.d.toNat])
    (hx : s.gstatWord c.ctx (c.readS s o.n.toNat).toNat = x) :
    execGstat o s = .next ((s.afterS c 4 [(o.d.toNat, x)]).closeGroup c o.sw .next) := by
  refine State.runTarget_ok hs.1 ?_
  rw [Cx.sop_ok hs.2 hf, hx]
  rfl

section
variable {s : State} {ctx g : Nat}

section
variable {x : Grid} (hg : g < 2 ^ 24) (hx : s.grids.get? (gridKey ctx g) = some x)
include hg hx

theorem State.gstatWord_retired (h : x.retired = true) : s.gstatWord ctx g = BitVec.ofNat 32 (2 ^ 31 + g) := by
  simp only [State.gstatWord, if_neg (Nat.not_le.2 hg), hx, h, if_true]
  exact (statusWord_eq true false (by decide) hg).trans (congrArg _ (by simp))

theorem State.gstatWord_live (h : x.retired = false) : s.gstatWord ctx g = BitVec.ofNat 32 (min (x.teams - x.exited) 0xFFFFFF) := by
  simp only [State.gstatWord, if_neg (Nat.not_le.2 hg), hx, h, Bool.false_eq_true, if_false]
  exact statusWord_progress _

end

theorem State.gstatWord_none (h : 2 ^ 24 ≤ g ∨ s.grids.get? (gridKey ctx g) = none) :
    s.gstatWord ctx g = BitVec.ofNat 32 (2 ^ 31 + 2 ^ 30 + 8 * 2 ^ 24 + g % 2 ^ 24) := by
  have hnone : (if 2 ^ 24 ≤ g then none else s.grids.get? (gridKey ctx g)) = none := by
    split
    next => rfl
    next hg => exact h.resolve_left hg
  rw [State.gstatWord, hnone]
  exact (statusWord_eq true true (by decide) (Nat.mod_lt _ (by decide))).trans (congrArg _ (by simp))

end

/-- Settles O43: depth, leader, produce key and room decide in this order what GLAUNCH does, and the grid's entry what GSTAT gives. -/
theorem launchWords : Obligations.LaunchWords := by
  intro s c hs v one live0
  refine ⟨Cx.leads_iff_first, Cx.leads_iff_lowest, fun o hr hv hf => ?glaunch,
    fun o hp hr hf hb => ⟨execGwait_parks hs hp hr hf hb, fun id s1 => execGwait_asks hs hp hr hf hb⟩, fun o hf => ?gstat⟩
  case glaunch =>
    exact ⟨execGlaunch_depth hs hr hv hf, execGlaunch_prot hs hr hv hf, execGlaunch_all hs hr hv hf,
      fun hd hl hp => ⟨execGlaunch_parks hs hr hv hf hd hl hp, fun id s1 => execGlaunch_asks hs hr hv hf hd hl hp⟩⟩
  case gstat =>
    exact ⟨fun x hg hx => ⟨fun h => execGstat_gives hs hf (State.gstatWord_retired hg hx h),
        fun h => execGstat_gives hs hf (State.gstatWord_live hg hx h)⟩,
      fun h => execGstat_gives hs hf (State.gstatWord_none h)⟩

/-! What a launch comes to (R355, R356, R378). -/

theorem State.observes.grids {s t : State} (h : s.observes t) : t.grids = s.grids := by
  unfold State.observes at h
  rw [h]

/-- The grid that an accepted launch of a grid's makes (R356). -/
def State.launched (s : State) (ctx die : Nat) (l : Launch) (parent : Grid) : Grid :=
  { ctx := ctx, id := s.freeGridId ctx 4097 (s.ctx ctx).nextGrid, desc := l, kern := (s.kernelOf ctx l).map Prod.snd,
    depth := parent.depth + 1, prio := min (bits (l.d 1) 17 16) parent.prio, die := die }

/-- An accepted launch stands in the table under its id. -/
theorem State.accept_grids {s : State} {ctx die level : Nat} {l : Launch} {p : Nat} (hp : l.parent = some p) :
    (s.accept ctx die l level).2.grids.get? (gridKey ctx (s.freeGridId ctx 4097 (s.ctx ctx).nextGrid)) =
      some (s.launched ctx die l (s.grid ctx p)) := by
  unfold State.accept
  dsimp only [State.post]
  rw [(State.observes_trace _ _ _ _ _ _ _ _ _).grids]
  simp only [State.modCtx, KMap.get?_set_self, hp]
  rfl

section
variable {s : State} {id : Nat} {r : Req} (hr : s.reqs.get? id = some r) (hk : r.kind = .gLaunch) (htable : s.tableFull = false)

/-- The launch that a request of GLAUNCH asks for. -/
def State.asked (s : State) (r : Req) : Launch := { words := r.args, parent := some (s.warp r.uid).id.grid }

include hr hk htable

theorem State.applyGrid_refuses {k : Nat} (h : s.refusal r.ctx (s.asked r) = some k) : s.applyGrid id =
    (s.refuseWord r.ctx (dieOf r.core) (s.asked r) k).endReq id (statusWord true true 0x08 k) := by
  unfold State.asked at h
  simp only [State.applyGrid, hr, hk, htable, h, Bool.false_eq_true, if_false]
  rfl

theorem State.applyGrid_accepts (h : s.refusal r.ctx (s.asked r) = none) : s.applyGrid id =
    ((s.accept r.ctx (dieOf r.core) (s.asked r) 0).2).endReq id
      (statusWord true false 0 (s.freeGridId r.ctx 4097 (s.ctx r.ctx).nextGrid)) := by
  unfold State.asked at h
  simp only [State.applyGrid, hr, hk, htable, h, Bool.false_eq_true, if_false]
  rfl

end

/-- Settles O44: the first broken rule is the status of a refused launch, and an accepted one is a grid of the table. -/
theorem launches : Obligations.Launches := by
  intro s id r hr hk htable l
  exact ⟨fun k h => State.applyGrid_refuses hr hk htable h,
    fun h => ⟨State.applyGrid_accepts hr hk htable h, _, State.accept_grids rfl, rfl, rfl, rfl, rfl, rfl, rfl⟩⟩

end Sys2Proof.Machine
end

section
/-! SUPPORT. The privileged words (R418 to R422). -/

namespace Sys2Proof.Machine

open Sys2Proof

/-- A privileged word outside privileged state (R418). -/
theorem State.runTarget_priv {s : State} {c : Cx} {sw : Bool} {body : Cx → State → Except Stop (State × Flow)}
    {k : Unit → Except Stop (State × Flow)} (hs : s.cx = some c) (hp : (s.ctx c.ctx).d.priv = false)
    (hb : body c s = c.privileged s >>= k) : s.runTarget sw body = .next (s.raise c { cause := 0x03 }) := by
  refine State.runTarget_trap hs ?_
  rw [hb, Cx.privileged, hp]
  rfl

theorem Cx.privileged_ok {s : State} {c : Cx} (hp : (s.ctx c.ctx).d.priv = true) (hx : c.g.xp = none) : c.privileged s = .ok () := by
  rw [Cx.privileged, hp, if_pos rfl, Cx.noXp_of_none hx]

theorem sysS_ok {n : Nat} (h : n < 64) : sysS n = .ok () := if_neg (Nat.not_le.2 h)

/-- The address of TGTCTX in the report of a target that is no context (R419). -/
theorem trapLane_ctx {n : Nat} (h : n < 2 ^ 32) :
    trapLane 0x08 0 (BitVec.ofNat 64 n) = .trap { cause := 0x08, info1 := 0, info2 := BitVec.ofNat 32 n, info3 := 0 } := by
  have hw : BitVec.ofNat 64 n = (BitVec.ofNat 32 n).setWidth 64 := by
    refine BitVec.eq_of_toNat_eq ?_
    simp only [BitVec.toNat_setWidth, BitVec.toNat_ofNat]
    omega
  rw [hw, trapLane_word]
  rfl

section
variable {s : State} {c : Cx}

theorem Cx.target1_ok (h : (s.ctxs.get? (c.tgt s)).isSome = true) : c.target1 s = .ok (c.tgt s) := if_pos h

theorem Cx.target1_none (h : ¬ (s.ctxs.get? (c.tgt s)).isSome = true) (hlt : c.tgt s < 2 ^ 32) :
    c.target1 s = .error (.trap { cause := 0x08, info1 := 0, info2 := BitVec.ofNat 32 (c.tgt s), info3 := 0 }) := by
  rw [Cx.target1, if_neg h, trapLane_ctx hlt]

end

section
variable {s : State} {c : Cx} (hs : s.cx = some c) (hp : (s.ctx c.ctx).d.priv = false)
include hs hp

theorem execMtcp_priv (o : FMtc) : execMtcp o s = .next (s.raise c { cause := 0x03 }) := State.runTarget_priv hs hp rfl

theorem execMfcp_priv (o : FMfc) : execMfcp o s = .next (s.raise c { cause := 0x03 }) := State.runTarget_priv hs hp rfl

theorem execTlbinv_priv (o : FA) : execTlbinv o s = .next (s.raise c { cause := 0x03 }) := State.runTarget_priv hs hp rfl

theorem execWswitch_priv (o : FDa) : execWswitch o s = .next (s.raise c { cause := 0x03 }) := State.runTarget_priv hs hp rfl

theorem execHalt_priv (o : FNone) : execHalt o s = .next (s.raise c { cause := 0x03 }) := State.runTarget_priv hs hp rfl

end

section
variable {s : State} {c : Cx} (hs : s.cx = some c) (hp : (s.ctx c.ctx).d.priv = true) (hx : c.g.xp = none)
include hs hp hx

/-! MTCP (R419). -/

/-- Whether a context may name a context as its target: in the secure world any number, else a context of its own world (R419). -/
def Cx.mayTarget (c : Cx) (s : State) (v : Word) : Prop :=
  (s.ctx c.ctx).d.secure = true ∨ ∃ k, s.ctxs.get? v.toNat = some k ∧ k.d.secure = false

omit hs hp hx in
theorem Cx.mayTarget_iff {v : Word} : c.mayTarget s v ↔
    (!(s.ctx c.ctx).d.secure && !(match s.ctxs.get? v.toNat with | some k => !k.d.secure | none => false)) = false := by
  unfold Cx.mayTarget
  cases (s.ctx c.ctx).d.secure <;> cases s.ctxs.get? v.toNat <;> simp

section
variable {o : FMtc} (ha : o.a.toNat < 64)
include ha

theorem execMtcp_ill (hn : 3 < o.n.toNat) : execMtcp o s = .next (s.raise c { cause := 0x01 }) := by
  refine State.runTarget_trap hs ?_
  simp only [Cx.privileged_ok hp hx, sysS_ok ha, hn, bind, Except.bind, decide_true, if_true]
  rfl

variable (hf : c.free s [.s o.a.toNat])
include hf

theorem execMtcp_tgt (hn : o.n = 0) (h : c.mayTarget s (c.readS s o.a.toNat)) : execMtcp o s =
    .next ((s.modCtx c.ctx (fun k => { k with tgt := some (c.readS s o.a.toNat).toNat })).closeGroup c o.sw .next) := by
  unfold Cx.free at hf
  rw [Cx.mayTarget_iff, ← Bool.not_eq_true] at h
  have h3 : ¬ 3 < o.n.toNat := by simp [hn]
  refine State.runTarget_ok hs ?_
  simp only [Cx.privileged_ok hp hx, sysS_ok ha, hf, h3, bind, Except.bind, decide_false, Bool.false_eq_true, if_false]
  rw [hn]
  exact if_neg h

theorem execMtcp_foreign (hn : o.n = 0) (h : ¬ c.mayTarget s (c.readS s o.a.toNat)) : execMtcp o s =
    .next (s.raise c { cause := 0x17, info1 := 0, info2 := c.readS s o.a.toNat, info3 := 0 }) := by
  unfold Cx.free at hf
  rw [Cx.mayTarget_iff, Bool.not_eq_false] at h
  have h3 : ¬ 3 < o.n.toNat := by simp [hn]
  refine State.runTarget_trap hs ?_
  simp only [Cx.privileged_ok hp hx, sysS_ok ha, hf, h3, bind, Except.bind, decide_false, Bool.false_eq_true, if_false]
  rw [hn]
  exact (if_pos h).trans (congrArg Except.error (trapLane_word _ _ _))

theorem execMtcp_replays (hn : o.n = 1) (h : (s.ctxs.get? (c.tgt s)).isSome = true) :
    execMtcp o s = .next ((s.replayPages (c.tgt s) (c.readS s o.a.toNat)).closeGroup c o.sw .next) := by
  unfold Cx.free at hf
  refine State.runTarget_ok hs ?_
  simp only [Cx.privileged_ok hp hx, sysS_ok ha, hf, hn, Cx.target1_ok h, bind, Except.bind]
  rfl

theorem execMtcp_portWd (hn : o.n = 2) (h : (s.ctxs.get? (c.tgt s)).isSome = true) : execMtcp o s =
    .next ((s.modCtx (c.tgt s) (fun k => { k with d := { k.d with
      portWd := if c.readS s o.a.toNat = 0 then 0x1000000 else c.readS s o.a.toNat } })).closeGroup c o.sw .next) := by
  unfold Cx.free at hf
  refine State.runTarget_ok hs ?_
  simp only [Cx.privileged_ok hp hx, sysS_ok ha, hf, hn, Cx.target1_ok h, bind, Except.bind]
  rfl

theorem execMtcp_prot (hn : o.n = 1 ∨ o.n = 2) (h : ¬ (s.ctxs.get? (c.tgt s)).isSome = true) (hlt : c.tgt s < 2 ^ 32) :
    execMtcp o s = .next (s.raise c { cause := 0x08, info1 := 0, info2 := BitVec.ofNat 32 (c.tgt s), info3 := 0 }) := by
  unfold Cx.free at hf
  refine State.runTarget_trap hs ?_
  rcases hn with hn | hn <;>
    (simp only [Cx.privileged_ok hp hx, sysS_ok ha, hf, hn, Cx.target1_none h hlt, bind, Except.bind]; rfl)

theorem execMtcp_fretry (hn : o.n = 3) : execMtcp o s =
    .next ((if (c.readS s o.a.toNat).toNat < 1024 ∨ 2 ^ 31 < (c.readS s o.a.toNat).toNat then s
      else { s with fab := { s.fab with fretry := c.readS s o.a.toNat } }).closeGroup c o.sw .next) := by
  unfold Cx.free at hf
  refine State.runTarget_ok hs ?_
  simp only [Cx.privileged_ok hp hx, sysS_ok ha, hf, hn, bind, Except.bind]
  simp only [← Bool.decide_or, decide_eq_true_eq]
  exact (apply_ite (fun t => Except.ok (t, Flow.next)) _ _ _).symm

end

/-! MFCP (R419). -/

section
variable {o : FMfc} (hd : o.d.toNat < 64)
include hd

theorem execMfcp_ill (hn : 5 < o.n.toNat) : execMfcp o s = .next (s.raise c { cause := 0x01 }) := by
  refine State.runTarget_trap hs ?_
  simp only [Cx.privileged_ok hp hx, sysS_ok hd, hn, bind, Except.bind, decide_true, if_true]
  rfl

variable (hf : c.free s [.s o.d.toNat]) {n : BitVec 7} (hn : o.n = n)
include hf hn

/-- A register of the device is read as a result of four clocks. -/
theorem execMfcp_device {x : Word} (h : n.toNat ≤ 5 ∧ n.toNat ≠ 1 ∧ n.toNat ≠ 2) (hv : c.privReg s 0 n.toNat = x) :
    execMfcp o s = .next ((s.afterS c 4 [(o.d.toNat, x)]).closeGroup c o.sw .next) := by
  subst hn hv
  obtain ⟨h5, h1, h2⟩ := h
  unfold Cx.free at hf
  refine State.runTarget_ok hs ?_
  simp only [Cx.privileged_ok hp hx, sysS_ok hd, hf, Nat.not_lt.2 h5, h1, h2, bind, Except.bind, decide_false, Bool.or_false,
    Bool.false_eq_true, if_false]
  rfl

/-- So is a register of the target, where there is one. -/
theorem execMfcp_target {x : Word} (h : n = 1 ∨ n = 2) (ht : (s.ctxs.get? (c.tgt s)).isSome = true)
    (hv : c.privReg s (c.tgt s) n.toNat = x) :
    execMfcp o s = .next ((s.afterS c 4 [(o.d.toNat, x)]).closeGroup c o.sw .next) := by
  subst hn hv
  have h12 : (decide (o.n.toNat = 1) || decide (o.n.toNat = 2)) = true := by rcases h with h | h <;> simp [h]
  have h5 : ¬ 5 < o.n.toNat := by rcases h with h | h <;> simp [h]
  unfold Cx.free at hf
  refine State.runTarget_ok hs ?_
  simp only [Cx.privileged_ok hp hx, sysS_ok hd, hf, h5, h12, Cx.target1_ok ht, bind, Except.bind, decide_false,
    Bool.false_eq_true, if_false, if_true]
  rfl

end

end

/-! TLBINV (R420). -/

/-- The pages that TLBINV names (R420). -/
def Cx.invalOf (c : Cx) (s : State) (a : Nat) : Inval :=
  { id := s.fresh, ctx := c.tgt s, page := ((c.readS s a).toNat + 2 ^ 32 * (c.readS s (a + 1)).toNat) % 2 ^ 57 / 4096,
    pages := (c.readS s (a + 2)).toNat }

/-- The state in which TLBINV parks: the command has gone out, and its completion is to come (R420). -/
def Cx.invalidates (c : Cx) (s : State) (i : Inval) : State :=
  (State.post { c.command s.newId.2 [i.ctx, i.page, i.pages] with invals := s.invals ++ [i] } (.tlbinvComplete i.id)).modWarp c.uid
    (fun w => { w with iss := { w.iss with resume := .tlbinv i.id } })

theorem Cx.invalidates_bag (c : Cx) (s : State) (i : Inval) : .tlbinvComplete i.id ∈ (c.invalidates s i).bag :=
  List.mem_append_right _ (List.mem_singleton_self _)

theorem Cx.invalidates_resume (c : Cx) (s : State) (i : Inval) :
    ((c.invalidates s i).warps.get? c.uid).map (fun w => w.iss.resume) = some (.tlbinv i.id) := by
  simp [Cx.invalidates, State.modWarp, State.putWarp]

theorem pair_toNat (lo hi : Word) : (pair lo hi).toNat = lo.toNat + 2 ^ 32 * hi.toNat := by
  rw [pair, BitVec.toNat_append, ← Nat.shiftLeft_add_eq_or_of_lt lo.isLt, Nat.shiftLeft_eq, Nat.mul_comm, Nat.add_comm]

section
variable {s : State} {c : Cx} (hs : s.cx = some c) (hp : (s.ctx c.ctx).d.priv = true) (hx : c.g.xp = none)
include hs hp hx

section
variable {o : FA} {id : Nat} (hr : c.w.iss.resume = .tlbinv id)
include hr

theorem execTlbinv_waits (h : s.invals.any (fun i => i.id == id && !i.done) = true) :
    execTlbinv o s = .next (s.parkWarp c.uid .keyWait) := by
  refine State.runTarget_park hs ?_
  simp only [Cx.privileged_ok hp hx, hr, h, bind, Except.bind, if_true]

theorem execTlbinv_goes_on (h : s.invals.any (fun i => i.id == id && !i.done) = false) : execTlbinv o s =
    .next (({ s with invals := s.invals.filter (fun i => i.id != id) } : State).closeGroup c o.sw .next) := by
  refine State.runTarget_ok hs ?_
  simp only [Cx.privileged_ok hp hx, hr, h, bind, Except.bind, Bool.false_eq_true, if_false]

end

section
variable {o : FA} (hr : ∀ id, c.w.iss.resume ≠ .tlbinv id)
include hr

theorem execTlbinv_ill (h : 61 < o.a.toNat ∨ o.a.toNat % 2 ≠ 0) : execTlbinv o s = .next (s.raise c { cause := 0x01 }) := by
  have hbad : (decide (61 < o.a.toNat) || o.a.toNat % 2 != 0) = true := by simpa using h
  refine State.runTarget_trap hs ?_
  simp only [Cx.privileged_ok hp hx, bind, Except.bind]
  cases hw : c.w.iss.resume with
  | tlbinv id => exact absurd hw (hr id)
  | _ =>
    simp only [hbad, if_true]
    rfl

variable (hlo : o.a.toNat ≤ 61) (heven : o.a.toNat % 2 = 0)
  (hf : c.free s [.s o.a.toNat, .s (o.a.toNat + 1), .s (o.a.toNat + 2)])
include hlo heven hf

theorem execTlbinv_prot (h : ¬ (s.ctxs.get? (c.tgt s)).isSome = true) (hlt : c.tgt s < 2 ^ 32) :
    execTlbinv o s = .next (s.raise c { cause := 0x08, info1 := 0, info2 := BitVec.ofNat 32 (c.tgt s), info3 := 0 }) := by
  have hok : (decide (61 < o.a.toNat) || o.a.toNat % 2 != 0) = false := by simpa using And.intro hlo heven
  unfold Cx.free at hf
  refine State.runTarget_trap hs ?_
  simp only [Cx.privileged_ok hp hx, bind, Except.bind]
  cases hw : c.w.iss.resume with
  | tlbinv id => exact absurd hw (hr id)
  | _ => simp only [hok, hf, Cx.target1_none h hlt, Bool.false_eq_true, if_false]

theorem execTlbinv_asks (h : (s.ctxs.get? (c.tgt s)).isSome = true) :
    execTlbinv o s = .next ((c.invalidates s (c.invalOf s o.a.toNat)).parkWarp c.uid .keyWait) := by
  have hok : (decide (61 < o.a.toNat) || o.a.toNat % 2 != 0) = false := by simpa using And.intro hlo heven
  unfold Cx.free at hf
  refine State.runTarget_park hs ?_
  simp only [Cx.privileged_ok hp hx, bind, Except.bind]
  cases hw : c.w.iss.resume with
  | tlbinv id => exact absurd hw (hr id)
  | _ =>
    simp only [hok, hf, Cx.target1_ok h, pair_toNat, Bool.false_eq_true, if_false]
    rfl

end

/-! WSWITCH (R421). -/

section
variable {o : FDa} (hd : o.d.toNat < 64) (ha : o.a.toNat < 64) (hf : c.free s [.s o.d.toNat, .s o.a.toNat])
include hd ha hf

theorem execWswitch_eq :
    let t := c.command s [(c.readS s o.a.toNat).toNat]
    let r := if (s.ctx c.ctx).d.secure then t.switchWorld (c.readS t o.a.toNat) else (t, 2)
    execWswitch o s = .next ((r.1.afterS c 4 [(o.d.toNat,
      if r.2 = 0 then statusWord true false 0 0 else statusWord true true 0x17 r.2)]).closeGroup c o.sw .next) := by
  intro t r
  have hctx : t.ctx c.ctx = s.ctx c.ctx := (State.observes_outward s _ _ _).ctx _
  unfold Cx.free at hf
  refine State.runTarget_ok hs ?_
  simp only [Cx.privileged_ok hp hx, sysS_ok hd, sysS_ok ha, hf, bind, Except.bind]
  rw [hctx]
  rfl

theorem execWswitch_refuses (h : (s.ctx c.ctx).d.secure = false) : execWswitch o s =
    .next (((c.command s [(c.readS s o.a.toNat).toNat]).afterS c 4 [(o.d.toNat, statusWord true true 0x17 2)]).closeGroup c o.sw .next) := by
  rw [execWswitch_eq hs hp hx hd ha hf, h]
  rfl

section
variable (h : (s.ctx c.ctx).d.secure = true)
include h

theorem execWswitch_switches :
    let t := c.command s [(c.readS s o.a.toNat).toNat]
    let r := t.switchWorld (c.readS t o.a.toNat)
    r.2 = 0 → execWswitch o s = .next ((r.1.afterS c 4 [(o.d.toNat, statusWord true false 0 0)]).closeGroup c o.sw .next) := by
  intro t r hr
  rw [execWswitch_eq hs hp hx hd ha hf, h]
  simp only [if_true]
  rw [if_pos hr]

theorem execWswitch_fails :
    let t := c.command s [(c.readS s o.a.toNat).toNat]
    let r := t.switchWorld (c.readS t o.a.toNat)
    r.2 ≠ 0 → execWswitch o s = .next ((r.1.afterS c 4 [(o.d.toNat, statusWord true true 0x17 r.2)]).closeGroup c o.sw .next) := by
  intro t r hr
  rw [execWswitch_eq hs hp hx hd ha hf, h]
  simp only [if_true]
  rw [if_neg hr]

end
end

/-! HALT (R422). -/

theorem execHalt_goes_on {o : FNone} (h : c.w.iss.resume = .resumed) : execHalt o s = .next (s.closeGroup c o.sw .next) := by
  refine State.runTarget_ok hs ?_
  simp only [Cx.privileged_ok hp hx, h, bind, Except.bind]

theorem execHalt_parks {o : FNone} (h : c.w.iss.resume ≠ .resumed) : execHalt o s =
    .next ((s.modWarp c.uid (fun w => { w with iss := { w.iss with resume := .halt } })).parkWarp c.uid .hold) := by
  refine State.runTarget_park hs ?_
  simp only [Cx.privileged_ok hp hx, bind, Except.bind]

end

/-- Settles O45: each privileged word checks privilege, then its operands, then its target, and does what its register or engine names. -/
theorem systemWords : Obligations.SystemWords := by
  intro s c hs
  refine ⟨fun hp => ?outside, fun hp hx => ?inside⟩
  case outside =>
    exact ⟨execMtcp_priv hs hp, execMfcp_priv hs hp, execTlbinv_priv hs hp, execWswitch_priv hs hp, execHalt_priv hs hp⟩
  case inside =>
    intro tgt there stops
    refine ⟨?mtcp, ?mfcp, ?tlbinv, ?waits, ?wswitch, ?halt⟩
    case mtcp =>
      intro o ha hf v goes open1
      exact ⟨fun hn => ⟨execMtcp_tgt hs hp hx ha hf hn, execMtcp_foreign hs hp hx ha hf hn⟩, execMtcp_replays hs hp hx ha hf,
        execMtcp_portWd hs hp hx ha hf, execMtcp_prot hs hp hx ha hf, execMtcp_fretry hs hp hx ha hf, execMtcp_ill hs hp hx ha⟩
    case mfcp =>
      intro o hd hf gives
      have device {n : BitVec 7} {x : Word} (hn : o.n = n) := execMfcp_device (x := x) hs hp hx hd hf hn
      have target {n : BitVec 7} {x : Word} (hn : o.n = n) := execMfcp_target (x := x) hs hp hx hd hf hn
      exact ⟨fun hn => device hn (by decide) rfl, fun hn ht => ⟨_, target hn (.inl rfl) ht rfl⟩, fun hn ht => target hn (.inr rfl) ht rfl,
        fun hn => device hn (by decide) rfl, fun hn => device hn (by decide) rfl, fun hn => device hn (by decide) rfl,
        execMfcp_ill hs hp hx hd⟩
    case tlbinv =>
      intro o hr a
      exact ⟨execTlbinv_ill hs hp hx hr, fun hlo heven hf => ⟨execTlbinv_prot hs hp hx hr hlo heven hf, fun h =>
        ⟨c.invalidates s (c.invalOf s a), execTlbinv_asks hs hp hx hr hlo heven hf h, rfl, c.invalidates_bag s _, c.invalidates_resume s _⟩⟩⟩
    case waits => exact fun o id hr => ⟨execTlbinv_waits hs hp hx hr, execTlbinv_goes_on hs hp hx hr⟩
    case wswitch =>
      intro o hd ha hf gives t
      exact ⟨execWswitch_refuses hs hp hx hd ha hf, fun h => ⟨execWswitch_switches hs hp hx hd ha hf h, execWswitch_fails hs hp hx hd ha hf h⟩⟩
    case halt => exact fun o => ⟨execHalt_goes_on hs hp hx, execHalt_parks hs hp hx⟩

end Sys2Proof.Machine
end

section
/-! SUPPORT. Observation at work: chunks, OBSCTL, samples, the debugger, dumps and the start of a replay (R392, R398 to R407). -/

namespace Sys2Proof.Machine

open Sys2Proof

/-! Records leave the cores as they are (R393). -/

theorem State.sameBut.cores {s t : State} (h : s.sameBut t) : t.cores = s.cores := by
  unfold State.sameBut at h
  rw [h]

theorem State.observes.host {s t : State} (h : s.observes t) : t.host = s.host := by
  unfold State.observes at h
  rw [h]

theorem State.wrWords_cores (s : State) (a : Nat) (l : List Word) : (s.wrWords a l).cores = s.cores := (State.sameBut_wr s a _).cores

theorem State.obsWrite_cores (s : State) (ctx va : Nat) (l : List Word) (fuel : Nat) : (s.obsWrite ctx va l fuel).cores = s.cores := by
  induction fuel generalizing s va l with
  | zero => rfl
  | succ n ih =>
    unfold State.obsWrite
    dsimp only
    split
    · rfl
    rw [ih]
    split
    · exact State.wrWords_cores ..
    · rfl

theorem State.bumpHdr_cores (s : State) (ctx ofs n : Nat) : (s.bumpHdr ctx ofs n).cores = s.cores := by
  unfold State.bumpHdr
  dsimp only
  split
  · rfl
  split
  · exact State.wrWords_cores ..
  · rfl

theorem State.obsPut_cores {s t : State} {ctx va : Nat} {rec : List Word} (h : s.obsPut ctx va rec = some t) : t.cores = s.cores := by
  unfold State.obsPut at h
  dsimp only at h
  split at h
  · cases h
    rw [State.wrWords_cores, State.wrWords_cores]
  · cases h

theorem State.ring_cores (s : State) (ctx baseOfs logShift seqOfs : Nat) (rec : List Word) :
    (s.ring ctx baseOfs logShift seqOfs rec).cores = s.cores := by
  unfold State.ring
  split
  · rfl
  split
  · dsimp only
    split
    next t ht => rw [State.bumpHdr_cores, State.obsPut_cores ht]
    next => rfl
  · rfl

/-! Chunks (R405). -/

/-- A segment whose chunk has been written. -/
def Seg.chunkWritten (g : Seg) : Seg := { g with fill := g.fill.drop 16384, written := g.written + 1, waiting := false }

theorem State.core_of_cores {s t : State} (h : t.cores = s.cores) (core : Nat) : t.core core = s.core core := by
  rw [State.core, h, State.core]

theorem State.writeChunk_segs (s : State) (core i : Nat) (g : Seg) :
    ((s.writeChunk core i g).core core).segs = setAt (s.core core).segs i g.chunkWritten := by
  unfold State.writeChunk
  dsimp only
  split
  · rw [State.modCore_core, State.core_of_cores (State.obsWrite_cores ..)]
    rfl
  · rw [State.modCore_core]
    rfl

/-- What a chunk write does for the segment at a place: an open one that waits is written. -/
def State.writeWaiting (core : Nat) (s : State) (p : Seg × Nat) : State :=
  if p.1.opened && p.1.waiting then s.writeChunk core p.2 p.1 else s

/-- An open segment does not wait. -/
def Seg.goesOn (g : Seg) : Prop := g.opened = true → g.waiting = false

theorem State.writeWaiting_segs {s : State} {core : Nat} {done rest : List Seg} {g : Seg} (h : (s.core core).segs = done ++ g :: rest) :
    ∃ g' : Seg, g'.goesOn ∧ ((s.writeWaiting core (g, done.length)).core core).segs = done ++ g' :: rest := by
  unfold State.writeWaiting
  split
  next => exact ⟨g.chunkWritten, fun _ => rfl, by simp [State.writeChunk_segs, h, setAt_eq_set]⟩
  next hw => exact ⟨g, fun ho => by simpa [ho] using hw, h⟩

/-- Segments written one after another, the first ones already: none that is open waits. -/
theorem State.writeWaiting_all {core : Nat} (rest : List Seg) : ∀ {s : State} {done : List Seg}, (s.core core).segs = done ++ rest →
    (∀ g ∈ done, g.goesOn) → ∀ g ∈ (((rest.zipIdx done.length).foldl (State.writeWaiting core) s).core core).segs, g.goesOn := by
  induction rest with
  | nil =>
    intro s done h hd
    simpa [h] using hd
  | cons g rest ih =>
    intro s done h hd
    obtain ⟨g', hg', h'⟩ := State.writeWaiting_segs h
    have hlen : (done ++ [g']).length = done.length + 1 := by simp
    rw [List.zipIdx_cons, List.foldl_cons, ← hlen]
    refine ih (by rw [h', List.append_assoc]; rfl) fun x hx => ?_
    rcases List.mem_append.1 hx with hx | hx
    · exact hd x hx
    · exact List.mem_singleton.1 hx ▸ hg'

theorem State.observes_writeWaiting (core : Nat) (s : State) (p : Seg × Nat) : s.observes (s.writeWaiting core p) := by
  unfold State.writeWaiting
  split
  · exact State.observes_writeChunk ..
  · exact .refl s

theorem execChunkWrite_eq (core : Nat) (s : State) :
    execChunkWrite core s = .next ((s.core core).segs.zipIdx.foldl (State.writeWaiting core) s) := rfl

/-! Full regions and digests (R405, R406). -/

theorem execRecordRegionFull_due {s : State} {core due : Nat} (h : s.fullDue core = some due) :
    let t := s.reachCore core due
    let full (g : Seg) : Bool := g.opened && (match g.fullAt with | some a => decide (a ≤ (t.core core).cyc) | none => false)
    execRecordRegionFull core s = .next (((t.core core).segs.filter full).foldl (fun s g => s.endSeg core g.ctx 1) t) := by
  intro t full
  unfold execRecordRegionFull
  rw [h]
  rfl

theorem execDigestLog_due {s : State} {core due : Nat} (h : s.digestDue core = some due) :
    let t := s.reachCore core due
    let ctxs := ((t.core core).segs.filter (fun g => g.opened && decide (g.digestAt + 4096 ≤ (t.core core).cyc))).map (fun g => g.ctx)
    execDigestLog core s = .next ((ctxs.foldl (fun s x => s.logDigest core x) t).post (.digestLog core)) := by
  intro t ctxs
  unfold execDigestLog
  rw [h]
  rfl

/-! OBSCTL (R392). -/

theorem State.manages_software {s : State} {b : Bool} {ctx : Nat} : s.manages (.software b) ctx = true ↔
    ∃ c, s.ctxs.get? ctx = some c ∧ c.d.secure = b ∧ (b = true → s.svc.session = true) := by
  unfold State.manages State.speaks State.ctx
  cases h : s.ctxs.get? ctx with
  | none => simp
  | some c =>
    rw [KMap.getD_of_get? h]
    simp only [Option.isSome_some, Bool.true_and, Bool.and_eq_true, beq_iff_eq, Option.some.injEq, exists_eq_left']
    exact and_congr eq_comm (by cases b <;> simp)

theorem execObsctlWrite_ignored {s : State} {who : Requester} {ctx : Nat} {v : Word} (h : bits v.toNat 26 24 ≠ 0 ∨ s.manages who ctx = false) :
    execObsctlWrite ⟨who, ctx⟩ v s = .next s := by
  refine if_pos ?_
  rcases h with h | h <;> simp [h]

theorem execObsctlWrite_sets {s : State} {who : Requester} {ctx : Nat} {v : Word} (hm : s.manages who ctx = true) (hv : bits v.toNat 26 24 = 0) :
    ∃ t : State, execObsctlWrite ⟨who, ctx⟩ v s = .next t ∧ ((s.ctx ctx).obsctl.getLsbD 31 = false → (t.ctx ctx).obsctl = v) := by
  unfold execObsctlWrite
  have hgo : ¬ (!s.manages who ctx || bits v.toNat 26 24 != 0) = true := by simp [hm, hv]
  dsimp only
  rw [if_neg hgo]
  refine ⟨_, rfl, fun hrec => ?_⟩
  rw [State.observes.ctx (.foldl (fun s c => State.observes_startSampling s ctx c) _ _), hrec]
  exact congrArg Ctx.obsctl (State.modCtx_ctx (Bool.and_eq_true_iff.1 hm).1 _)

/-! Samples (R398). -/

theorem execPcSample_passes {s : State} {core ctx due : Nat} (h : s.sampleDue core ctx = some due) :
    ∃ t : State, execPcSample core ctx s = .next t ∧ due + 1 ≤ (t.core core).cyc ∧ t.warps.keys = s.warps.keys := by
  have hcyc : due + 1 ≤ ((s.reachCore core (due + 1)).core core).cyc := by
    rw [State.reachCore, State.modCore_core]
    exact Nat.le_max_right ..
  unfold execPcSample
  rw [h]
  dsimp only
  split
  next => exact ⟨_, rfl, hcyc, rfl⟩
  next w =>
    refine ⟨_, rfl, ?_, congrArg KMap.keys (State.observes.warps (s := s.reachCore core (due + 1)) (((State.observes_ring ..).trans
      (State.observes_modCore ..)).trans (State.observes_post ..)))⟩
    rw [State.core_of_cores (State.post_cores ..), State.modCore_core]
    exact hcyc.trans_eq (congrArg Core.cyc (State.core_of_cores (State.ring_cores ..) core)).symm

/-! The debugger (R400 to R402). -/

theorem execBreakpointStop_match {s : State} {u l : Nat} {w : Warp} (hw : s.warps.get? u = some w) (h : s.bpMatch w = some l) :
    execBreakpointStop u s = .next (s.preciseStop u l) := by
  unfold execBreakpointStop
  rw [hw]
  dsimp only
  rw [h]
  rfl

section
variable {s : State} {ctx : Nat}

theorem execDebugStop_eq : execDebugStop ctx s = if (s.ctx ctx).held then
    .next ((s.modCtx ctx (fun c => { c with stopped := true, stopOn := none, step := none })).pauseWatch ctx) else .next s := rfl

theorem execDebugResume_eq : execDebugResume ctx s = if (s.ctx ctx).held then
    .next ((s.modCtx ctx (fun c => { c with stopped := false, stopOn := none, step := none })).resumeWatch ctx) else .next s := rfl

theorem execSetBreakpoint_held (hh : (s.ctx ctx).held = true) {n : Nat} (pc : Addr) (grid filter : Word) (hn : n < 4) :
    execSetBreakpoint ctx n pc grid filter s =
      .next (s.modCtx ctx (fun c => { c with bps := setAt c.bps n { pc := pc, grid := grid, filter := filter } })) :=
  if_pos (by simp [hh, hn])

theorem execDebugSingleStep_stopped (hh : (s.ctx ctx).held = true) {grid team thread u : Nat} {w : Warp}
    (hw : s.warps.find? (fun kv => kv.2.id.ctx == ctx && kv.2.id.grid == grid && s.teamIndex kv.2 == team &&
      kv.2.id.w == thread / kv.2.width && kv.2.id.place.isSome && !kv.2.retired) = some (u, w)) (hs : (s.ctx ctx).stopped = true) :
    execDebugSingleStep ctx grid team thread s = .next (s.modCtx ctx (fun c => { c with step := some (u, thread % w.width) })) := by
  unfold execDebugSingleStep
  dsimp only
  rw [hw]
  exact if_pos (by simp [hh, hs])

theorem execDump_stopped {region : Nat} (hc : (s.ctxs.get? ctx).isSome = true) (hs : (s.ctx ctx).stopped = true)
    (ht : (s.ctx ctx).terminated = false) : execDump ctx region s =
      .next ((s.wrWords region (s.saveImage ctx ++ s.nameMap ctx)).modCtx ctx (fun c => { c with dumpTo := some region })) := by
  have hgo : ¬ ((s.ctxs.get? ctx).isNone || !((s.ctx ctx).stopped || (s.ctx ctx).terminated && (s.ctx ctx).obsctl.getLsbD 27)) = true := by
    simp [hs, Option.isSome_iff_ne_none.1 hc]
  unfold execDump
  dsimp only
  rw [if_neg hgo, ht]
  rfl

end

/-! Replays (R407). -/

section
variable {s : State} {core ctx seg : Nat} {g : Seg} (hg : s.allSegs[seg]? = some g) (ho : g.opened = false)
include hg ho

theorem execReplayStart_places (h : s.mayReplay core ctx = true) : execReplayStart core ⟨seg, ctx⟩ s =
    .next ((s.modCore core (fun k => { k with
      cyc := g.start, busy := [], mag := g.mag, lq := g.lq, replay := some { g with ctx := ctx, digest := 0 } })).placeDue core) := by
  simp only [execReplayStart, hg, ho, h]
  rfl

theorem execReplayStart_refused (h : s.mayReplay core ctx = false) : execReplayStart core ⟨seg, ctx⟩ s = .next s := by
  simp only [execReplayStart, hg, ho, h]
  rfl

end

/-- Settles O58: each event does to records, segments, samples and debugger state what its rule says, and records leave the cores. -/
theorem observeEvents : Obligations.ObserveEvents := by
  intro s core ctx
  refine ⟨?chunk, fun due h => execRecordRegionFull_due h, fun due h => execDigestLog_due h,
    fun who v => ⟨execObsctlWrite_sets, execObsctlWrite_ignored⟩, fun b => State.manages_software, fun due h => execPcSample_passes h,
    fun u w l hw h => execBreakpointStop_match hw h,
    fun hh => ⟨execDebugStop_eq.trans (if_pos hh), execDebugResume_eq.trans (if_pos hh),
      fun n pc grid filter hn => execSetBreakpoint_held hh pc grid filter hn, fun grid team thread u w hw hs => execDebugSingleStep_stopped hh hw hs⟩,
    fun hh => ⟨execDebugStop_eq.trans (if_neg (by simp [hh])), execDebugResume_eq.trans (if_neg (by simp [hh]))⟩, fun take => rfl,
    fun region hc hs ht => execDump_stopped hc hs ht, fun seg g hg ho => ⟨execReplayStart_places hg ho, execReplayStart_refused hg ho⟩⟩
  case chunk =>
    have hobs : s.observes ((s.core core).segs.zipIdx.foldl (State.writeWaiting core) s) :=
      .foldl (State.observes_writeWaiting core) _ _
    exact ⟨_, execChunkWrite_eq core s, hobs.warps, hobs.host, fun i g hi =>
      State.writeWaiting_all (core := core) _ (done := []) rfl (by simp) g (List.mem_of_getElem? hi)⟩

end Sys2Proof.Machine
end

section
/-! SUPPORT. Service: firmware, retraining, retired cores, checkpoints, errors, power and attestation (R416, R423 to R429). -/

namespace Sys2Proof.Machine

open Sys2Proof

/-! Where a line lives once its die bits are turned (R380, R424). -/

theorem bits_xor (a b hi lo : Nat) : bits (a ^^^ b) hi lo = bits a hi lo ^^^ bits b hi lo := by
  rw [bits, Nat.shiftRight_xor_distrib, Nat.xor_mod_two_pow]
  rfl

theorem bits_lt (n hi lo : Nat) : bits n hi lo < 2 ^ (hi + 1 - lo) := Nat.mod_lt _ (Nat.two_pow_pos _)

theorem homeDie_lt (p : Nat) : homeDie p < 4 :=
  Nat.xor_lt_two_pow (n := 2) (Nat.xor_lt_two_pow (bits_lt p 8 7) (bits_lt p 18 17)) (bits_lt p 28 27)

theorem homeSlice_lt (p : Nat) : homeSlice p < 24 := by
  have hlow : bits p 11 9 ^^^ bits p 21 19 < 2 ^ 3 := Nat.xor_lt_two_pow (bits_lt p 11 9) (bits_lt p 21 19)
  have hhigh : bits p 47 12 % 3 < 3 := Nat.mod_lt _ (by decide)
  rw [homeSlice]
  omega

section
variable {d : Nat} (hd : d < 4)
include hd

theorem homeDie_turn (p : Nat) : homeDie (p ^^^ d * 128) = homeDie p ^^^ d := by
  have hbits : bits (d * 128) 8 7 = d ∧ bits (d * 128) 18 17 = 0 ∧ bits (d * 128) 28 27 = 0 := by
    interval_cases d <;> decide
  obtain ⟨h7, h17, h27⟩ := hbits
  rw [homeDie, homeDie, bits_xor, bits_xor, bits_xor, h7, h17, h27, Nat.xor_zero, Nat.xor_zero]
  ac_rfl

theorem homeSlice_turn (p : Nat) : homeSlice (p ^^^ d * 128) = homeSlice p := by
  have hbits : bits (d * 128) 11 9 = 0 ∧ bits (d * 128) 21 19 = 0 ∧ bits (d * 128) 47 12 = 0 := by
    interval_cases d <;> decide
  obtain ⟨h9, h19, h12⟩ := hbits
  rw [homeSlice, homeSlice, bits_xor, bits_xor, bits_xor, h9, h19, h12, Nat.xor_zero, Nat.xor_zero, Nat.xor_zero]

end

/-- A line of a channel, its die bits turned by how far another channel's die is off, is of that channel (R424). -/
theorem channelOf_turn {p target : Nat} (ht : target < 32) (hsame : channelOf p % 8 = target % 8) :
    channelOf (p ^^^ (channelOf p / 8 ^^^ target / 8) * 128) = target := by
  have hslice := homeSlice_lt p
  have hdie : channelOf p / 8 = homeDie p := by rw [channelOf]; omega
  have hoff : homeDie p ^^^ target / 8 < 4 := Nat.xor_lt_two_pow (n := 2) (homeDie_lt p) (by omega)
  have hmod : channelOf p % 8 = homeSlice p / 3 := by rw [channelOf]; omega
  rw [hdie, channelOf, homeDie_turn hoff, homeSlice_turn hoff, ← Nat.xor_assoc, Nat.xor_self, Nat.zero_xor]
  omega

/-! What a memory reads as where a copy does not reach (R424). -/

theorem Memory.read_filter {m : List Host.Cell} {a : Nat} {f : Nat → Bool} (h : f a = true) :
    Memory.read (m.filter (fun c => f c.1)) a = Memory.read m a := by
  induction m with
  | nil => rfl
  | cons c m ih =>
    obtain ⟨k, v⟩ := c
    rw [List.filter_cons]
    split
    next => rw [Memory.read, Memory.read, ih]
    next hk =>
      have hne : k ≠ a := fun heq => hk (heq ▸ h)
      rw [ih, Memory.read, if_neg hne]

theorem Memory.read_foldl_write {addr : Host.Cell → Nat} {a : Nat} (l : List Host.Cell) (hl : ∀ c ∈ l, addr c ≠ a) (m : List Host.Cell) :
    Memory.read (l.foldl (fun m c => Memory.write m (addr c) c.2) m) a = Memory.read m a := by
  induction l generalizing m with
  | nil => rfl
  | cons c l ih =>
    obtain ⟨hc, hl⟩ := List.forall_mem_cons.1 hl
    rw [List.foldl_cons, ih hl, Memory.read_write_ne _ _ hc.symm]

theorem State.mergeAll_of_no_partials {s : State} (h : s.partials = []) : s.mergeAll = s := by
  rw [State.mergeAll, h]
  rfl

theorem State.sameBut_mergeAll (s : State) : s.sameBut s.mergeAll := State.sameBut_foldl State.sameBut_mergeLine _ _

/-- A retrained channel's lines are left in the reserve too, and no other line changes (R424). -/
def State.retrained (s : State) (channel target : Nat) : List Host.Cell :=
  (s.mem.filter (fun c => channelOf c.1 == channel)).foldl (fun (l : List Host.Cell) (c : Host.Cell) =>
    Memory.write l (c.1 ^^^ ((channel / 8 ^^^ target / 8) * 128)) c.2) (s.mem.filter (fun c => channelOf c.1 != target))

theorem State.read_retrained {s : State} {channel target a : Nat} (ht : target < 32) (hsame : channel % 8 = target % 8)
    (ha : channelOf a ≠ target) : Memory.read (s.retrained channel target) a = Memory.read s.mem a := by
  rw [State.retrained, Memory.read_foldl_write, Memory.read_filter (f := fun k => channelOf k != target) (by simpa using ha)]
  intro c hc heq
  have hchan : channelOf c.1 = channel := by simpa using (List.mem_filter.1 hc).2
  subst hchan
  exact ha (heq ▸ channelOf_turn ht hsame)

theorem execLpddrRetrain_copies {s : State} {channel target : Nat} (hc : channel < 32) (ht : target < 32) (hsame : channel % 8 = target % 8)
    (hne : channel ≠ target) : execLpddrRetrain channel target s = .next (State.answered { s.mergeAll with
      mem := s.mergeAll.retrained channel target, bad := s.mergeAll.bad.filter (fun b => channelOf b != target) } true []) :=
  if_neg (by simp [hc, ht, hsame, hne])

/-! Contexts asked to save (R425, R426). -/

/-- What is kept at every step of a fold is kept. -/
theorem State.foldl_keeps {α β : Type} {f : State → α → State} (g : State → β) (hf : ∀ s x, g (f s x) = g s) (l : List α) (s : State) :
    g (l.foldl f s) = g s := by
  induction l generalizing s with
  | nil => rfl
  | cons x t ih => rw [List.foldl_cons, ih, hf]

section
variable (s : State) (ctx : Nat)

theorem State.preempt_cores : (s.preempt ctx).cores = s.cores := by unfold State.preempt; split <;> rfl

theorem State.preempt_mem : (s.preempt ctx).mem = s.mem := by unfold State.preempt; split <;> rfl

theorem State.preempt_warps : (s.preempt ctx).warps = s.warps := by unfold State.preempt; split <;> rfl

end

/-- A retired core stays so while its contexts are asked to save. -/
theorem execCoreRetire_retires (core : Nat) (s : State) :
    ∃ t : State, execCoreRetire core s = .next t ∧ (t.core core).retired = true ∧ t.mem = s.mem ∧ t.warps = s.warps := by
  refine ⟨_, rfl, ?_, State.foldl_keeps State.mem State.preempt_mem _ _, State.foldl_keeps State.warps State.preempt_warps _ _⟩
  rw [State.core_of_cores (State.foldl_keeps State.cores State.preempt_cores _ _), State.modCore_core]

/-! Checkpoints (R426). -/

theorem execCheckpoint_asks {s : State} (h : s.anyRunning = true) : execCheckpoint s = .next (s.preemptAll.post .checkpoint) := if_pos h

theorem State.mem_foldl_hostWr (addr : Nat → Nat) (bytes : Nat → List Byte) (l : List Nat) (s : State) :
    (l.foldl (fun t x => t.hostWr (addr x) (bytes x)) s).mem = s.mem :=
  State.foldl_keeps (f := fun t x => t.hostWr (addr x) (bytes x)) State.mem (fun _ _ => rfl) l s

theorem execCheckpoint_stores {s : State} (h : s.anyRunning = false) :
    ∃ t : State, execCheckpoint s = .next t ∧ t.svc.image = some s.image ∧ t.mem = s.mergeAll.mem := by
  unfold execCheckpoint
  rw [if_neg (by simp [h])]
  refine ⟨_, rfl, rfl, ?_⟩
  exact State.mem_foldl_hostWr (fun l => Config.safeTier + l) s.mergeAll.stored s.mergeAll.heldLines s.mergeAll

theorem execCheckpointRestore_loads {s : State} {i : Image} {keys : List WorldKey} (hi : s.svc.image = some i) (hk : i.keys = some keys)
    (hs : s.svc.session = true) : ∃ t : State, execCheckpointRestore s = .next t ∧
      t.mem = s.loadLines i keys ∧ t.svc.keys = keys ∧ t.versions = i.versions ∧ t.ctxs = i.ctxs ∧
      t.warps = i.warps ∧ t.teams = i.teams ∧ t.grids = i.grids ∧ t.bufs = i.bufs ∧ t.host = s.host := by
  simp only [execCheckpointRestore, hi, hk, hs, Option.bind_some, Option.filter_some, if_true]
  exact ⟨_, rfl, rfl, rfl, rfl, rfl, rfl, rfl, rfl, rfl, rfl⟩

theorem execCheckpointRestore_refuses {s : State}
    (h : s.svc.image = none ∨ s.svc.session = false ∨ ∃ i, s.svc.image = some i ∧ i.keys = none) :
    execCheckpointRestore s = .next (s.answered false []) := by
  unfold execCheckpointRestore
  cases hi : s.svc.image with
  | none => rfl
  | some i =>
    have hnone : ((some i).bind (fun i => i.keys)).filter (fun _ => s.svc.session) = none := by
      rcases h with h | h | ⟨j, hj, hk⟩
      · rw [hi] at h; cases h
      · simp [h]
      · rw [hi] at hj; cases hj; simp [hk]
    rw [hnone]
    rfl

/-! Errors (R427). -/

theorem State.markPoison_svc (s : State) (e : EccRec) : (s.markPoison e).svc = s.svc := by
  unfold State.markPoison
  extract_lets core pa
  generalize placeOf pa = place
  clear_value pa
  split
  next => split <;> rfl
  next =>
    split
    · split <;> rfl
    · rfl
  next => split <;> rfl
  next => rfl
  next => rfl
  next => rfl
  next =>
    split
    · split <;> rfl
    · rfl
  next => rfl

theorem execEccError_records (s : State) (e : EccRec) : ∃ t : State, execEccError e s = .next t ∧ t.svc.errSeq = s.svc.errSeq + 1 ∧
    (e.uncorr = false → t.mem = s.mem ∧ t.warps = s.warps ∧ t.bad = s.bad) := by
  unfold execEccError
  dsimp only
  split
  next hu => exact ⟨_, rfl, congrArg Service.errSeq (State.markPoison_svc ..), fun h => absurd hu (by simp [h])⟩
  next => exact ⟨_, rfl, rfl, fun _ => ⟨rfl, rfl, rfl⟩⟩

/-! Power (R429). -/

section
variable {s : State}

theorem State.anyHot_iff {n : Nat} : s.cores.any (fun kv => decide (n ≤ kv.2.temp)) = true ↔ ∃ kv ∈ s.cores, n ≤ kv.2.temp := by
  simp only [List.any_eq_true, decide_eq_true_eq]

theorem execClockThrottle_cool (up : Bool) (h : ∀ kv ∈ s.cores, kv.2.temp < 115) : execClockThrottle up s = .next { s with
    svc := { s.svc with clock := if up = false then max 350 (s.svc.clock - 25)
      else if s.svc.cap < s.svc.drawn then s.svc.clock else min 700 (s.svc.clock + 25) } } := by
  have hcool : s.cores.any (fun kv => decide (115 ≤ kv.2.temp)) = false := by
    rw [← Bool.not_eq_true, State.anyHot_iff]
    rintro ⟨kv, hkv, hle⟩
    exact absurd hle (Nat.not_le.2 (h kv hkv))
  unfold execClockThrottle
  rw [hcool]
  cases up <;> simp [ran]

theorem execClockThrottle_hot (up : Bool) (h : ∃ kv ∈ s.cores, 115 ≤ kv.2.temp) :
    execClockThrottle up s = .next { s with svc := { s.svc with clock := 350 } } := by
  unfold execClockThrottle
  rw [State.anyHot_iff.2 h]
  rfl

theorem State.modDie_off {d k : Nat} : ((s.modDie d (fun k => { k with off := true })).die k).off = (decide (k = d) || (s.die k).off) := by
  simp only [State.modDie, State.die, KMap.getD_set]
  split
  next h => simp [h]
  next h => simp [h]

/-- A core of a die is at 125 °C. -/
def State.overheats (s : State) (die : Nat) : Prop := ∃ kv ∈ s.cores, dieOf kv.1 = die ∧ 125 ≤ kv.2.temp

theorem State.overheats_iff {die : Nat} :
    s.cores.any (fun kv => dieOf kv.1 == die && decide (125 ≤ kv.2.temp)) = true ↔ s.overheats die := by
  simp only [State.overheats, List.any_eq_true, Bool.and_eq_true, beq_iff_eq, decide_eq_true_eq]

theorem execThermalShutdown_cool {die : Nat} (h : ¬ s.overheats die) : execThermalShutdown die s = .next s :=
  if_pos (by simpa [State.overheats] using h)

section
variable {die : Nat} (h : s.overheats die)
include h

theorem execThermalShutdown_asks (hr : s.anyRunning = true) :
    execThermalShutdown die s = .next (s.preemptAll.post (.thermalShutdown die)) := by
  unfold execThermalShutdown
  rw [State.overheats_iff.2 h, if_neg (by decide), if_pos hr]
  rfl

theorem execThermalShutdown_ends (hr : s.anyRunning = false) :
    ∃ t : State, execThermalShutdown die s = .next t ∧ ∀ d, d < 4 → (t.die d).off = true := by
  unfold execThermalShutdown
  rw [State.overheats_iff.2 h, if_neg (by decide), if_neg (by simp [hr])]
  refine ⟨_, rfl, fun d hd => ?_⟩
  interval_cases d <;> simp [List.range_succ, State.modDie_off]

end
end

/-! Attestation (R416). -/

section
variable {s : State} {code : Nat} {need : List Nat} (m : SpdmReq)

theorem State.spdmAfter_answers (h : ∀ k ∈ need, s.svc.spdm.contains k = true) : s.spdmAfter code need m = s.spdmAnswer code m :=
  if_pos (List.all_eq_true.2 h)

theorem State.spdmAfter_refuses (h : ¬ ∀ k ∈ need, s.svc.spdm.contains k = true) : s.spdmAfter code need m = s.spdmError :=
  if_neg (mt List.all_eq_true.1 h)

theorem execFinish_answers (h : ∀ k ∈ [0xE4], s.svc.spdm.contains k = true) :
    execFinish m s = .next (State.spdmAnswer { s with svc := { s.svc with session := true } } 0xE5 m) :=
  if_pos (h _ (List.mem_singleton_self _))

end

/-! Firmware (R423). -/

section
variable {s : State} {kind die : Nat} (hk : kind < 3) (hd : die < 4)
include hk hd

theorem execFirmwareUpdate_stops (h : s.switching kind die = false) : execFirmwareUpdate kind die true s = .next (State.post
    { s with svc := { s.svc with stops := s.svc.stops.set (kind * 4 + die) (s.die die).mesh } } (.firmwareUpdate kind die true)) := by
  unfold execFirmwareUpdate
  rw [if_neg (by simpa using ⟨Nat.le_of_lt_succ hk, hd⟩), h]
  rfl

theorem execFirmwareUpdate_ends (h : s.switching kind die = true) : execFirmwareUpdate kind die true s = .next (State.answered
    { s with svc := { s.svc with
      firmware := s.svc.firmware.set (kind * 4 + die) (s.svc.firmware.getD (kind * 4 + die) 0 + 1)
      stops := s.svc.stops.erase (kind * 4 + die) } } true []) := by
  unfold execFirmwareUpdate
  rw [if_neg (by simpa using ⟨Nat.le_of_lt_succ hk, hd⟩), h]
  rfl

end

/-- Settles O60: each service event and attestation message does what its rule says, and a retrained channel's copy reaches its
target alone. -/
theorem serviceEvents : Obligations.ServiceEvents := by
  intro s
  refine ⟨?firmware, ?retrain, fun core => execCoreRetire_retires core s, execCheckpoint_asks, execCheckpoint_stores, rfl,
    fun i keys => execCheckpointRestore_loads, execCheckpointRestore_refuses, execEccError_records s,
    ⟨_, rfl, rfl, rfl, rfl, rfl, rfl, rfl, rfl, rfl⟩, execClockThrottle_cool, execClockThrottle_hot, ?thermal, ?spdm⟩
  case firmware =>
    intro kind die hk hd k
    exact ⟨execFirmwareUpdate_stops hk hd, execFirmwareUpdate_ends hk hd, rfl⟩
  case retrain =>
    intro channel target hc ht hsame hne
    have hm := State.observes.of_sameBut s.sameBut_mergeAll
    refine ⟨_, execLpddrRetrain_copies hc ht hsame hne, hm.warps, hm.host, fun hp _ a ha => ?_⟩
    rw [State.mergeAll_of_no_partials hp]
    exact State.read_retrained ht hsame ha
  case thermal =>
    intro die hot
    exact ⟨execThermalShutdown_cool, execThermalShutdown_asks, execThermalShutdown_ends⟩
  case spdm =>
    intro m has
    have answers {code : Nat} {need : List Nat} (h : has need) : ran (s.spdmAfter code need m) = .next (s.spdmAnswer code m) :=
      congrArg Host.Outcome.next (State.spdmAfter_answers m h)
    exact ⟨rfl, answers, answers, fun h => ⟨answers h, answers h, answers h, answers h, answers h⟩, execFinish_answers m,
      fun h => congrArg Host.Outcome.next (State.spdmAfter_refuses m h)⟩

end Sys2Proof.Machine
end

section
/-! SUPPORT. The canonical form of the memories (log 1, log 2) through every shape of result: a state, a stop, a body's end. -/

namespace Sys2Proof.Machine

open Sys2Proof

/-- The state a stop leaves, if it leaves one, has its memories in canonical form. -/
def Stop.memOk : Stop → Prop
  | .park _ t => t.memOk
  | _ => True

/-- Whatever a body comes to has its memories in canonical form: what completes by `P`, and the state of a stop. -/
def Kept {α : Type} (P : α → Prop) : Except Stop α → Prop
  | .ok a => P a
  | .error e => e.memOk

/-- What there is satisfies `P`. -/
def OptKept {α : Type} (P : α → Prop) (o : Option α) : Prop := ∀ a, o = some a → P a

/-- The state an outcome goes on in, if it goes on, has its memories in canonical form. -/
def KeptOut : Host.Outcome State Fault Refusal → Prop
  | .next t => t.memOk
  | _ => True

/-- What a Creel's access comes to has its memories in canonical form. -/
def CrKept {α : Type} (P : α → Prop) : CrMem α → Prop
  | .ok a => P a
  | .wait s => s.memOk
  | _ => True

/-- What becomes of a request has its memories in canonical form. -/
def FabRes.memOk : FabRes → Prop
  | .done s _ _ => s.memOk
  | .hold s => s.memOk

/-- What an engine's read of another device comes to has its memories in canonical form. -/
def FarR.memOk : FarR → Prop
  | .wait s => s.memOk
  | _ => True

theorem State.memOk_ite {c : Prop} [Decidable c] {s t : State} (hs : s.memOk) (ht : t.memOk) : (if c then s else t).memOk := by
  split
  · exact hs
  · exact ht

/-- Folding an operation that keeps the canonical form keeps it. -/
theorem State.memOk_fold {α : Type} {f : State → α → State} {l : List α} {s : State} (hf : ∀ s x, s.memOk → (f s x).memOk)
    (h : s.memOk) : (l.foldl f s).memOk :=
  State.memOk_foldl hf l h

theorem State.memOk_of_fst {α : Type} {p : State × α} {t : State} {x : α} (e : p = (t, x)) (h : p.1.memOk) : t.memOk := by
  subst e
  exact h

theorem State.memOk_of_snd {α : Type} {p : α × State} {t : State} {x : α} (e : p = (x, t)) (h : p.2.memOk) : t.memOk := by
  subst e
  exact h

theorem State.memOk_getD {o : Option State} {s : State} (ho : OptKept State.memOk o) (hs : s.memOk) : (o.getD s).memOk := by
  cases o with
  | none => exact hs
  | some t => exact ho t rfl

section
variable {α β : Type} {P : α → Prop} {Q : β → Prop}

theorem Kept.bind {x : Except Stop β} {k : β → Except Stop α} (hx : Kept Q x) (hk : ∀ b, Q b → Kept P (k b)) :
    Kept P (x >>= k) := by
  cases x with
  | error e => exact hx
  | ok b => exact hk b hx

/-- A check before what follows. -/
theorem Kept.seq {x : Except Stop β} {k : β → Except Stop α} (hx : Kept (fun _ => True) x) (hk : ∀ b, Kept P (k b)) :
    Kept P (x >>= k) :=
  Kept.bind hx fun b _ => hk b

/-- A body that completes. -/
theorem Kept.done {a : α} (h : P a) : Kept P (.ok a) := h

/-- A check that is passed. -/
theorem Kept.pass {a : α} : Kept (fun _ => True) (.ok a : Except Stop α) := trivial

/-- A check that stops the word. -/
theorem Kept.stop {e : Stop} (h : e.memOk) : Kept P (.error e) := h

theorem Kept.ite {c : Prop} [Decidable c] {x y : Except Stop α} (hx : Kept P x) (hy : Kept P y) : Kept P (if c then x else y) := by
  split
  · exact hx
  · exact hy

/-- One of two checks, and what follows either. -/
theorem Kept.either {c : Prop} [Decidable c] {x y : Except Stop β} {k : β → Except Stop α} (hx : Kept (fun _ => True) x)
    (hy : Kept (fun _ => True) y) (hk : ∀ b, Kept P (k b)) : Kept P (if c then x >>= k else y >>= k) :=
  Kept.ite (Kept.seq hx hk) (Kept.seq hy hk)

theorem Kept.of_error {x : Except Stop α} {e : Stop} (he : x = .error e) (h : Kept P x) : e.memOk := by
  subst he
  exact h

theorem Kept.of_ok {x : Except Stop α} {a : α} (ha : x = .ok a) (h : Kept P x) : P a := by
  subst ha
  exact h

theorem Kept.undo {s : State} (hs : s.memOk) {x : Except Stop α} (hx : Kept P x) : Kept P (undo s x) := by
  unfold Machine.undo
  split
  · exact hs
  · exact hx

theorem OptKept.none : OptKept P none := fun _ h => nomatch h

theorem OptKept.some {a : α} (h : P a) : OptKept P (some a) := by
  rintro b ⟨⟩
  exact h

theorem OptKept.get {o : Option α} {a : α} (e : o = Option.some a) (h : OptKept P o) : P a := h a e

theorem OptKept.ite {c : Prop} [Decidable c] {x y : Option α} (hx : OptKept P x) (hy : OptKept P y) :
    OptKept P (if c then x else y) := by
  split
  · exact hx
  · exact hy

theorem OptKept.bind {x : Option β} {k : β → Option α} (hx : OptKept Q x) (hk : ∀ b, Q b → OptKept P (k b)) :
    OptKept P (x.bind k) := by
  cases x with
  | none => exact OptKept.none
  | some b => exact hk b (hx b rfl)

theorem OptKept.map {x : Option β} {f : β → α} (hx : OptKept Q x) (hf : ∀ b, Q b → P (f b)) : OptKept P (x.map f) := by
  cases x with
  | none => exact OptKept.none
  | some b => exact OptKept.some (hf b (hx b rfl))

theorem CrKept.ite {c : Prop} [Decidable c] {x y : CrMem α} (hx : CrKept P x) (hy : CrKept P y) :
    CrKept P (if c then x else y) := by
  split
  · exact hx
  · exact hy

theorem CrKept.of_ok {x : CrMem α} {a : α} (ha : x = .ok a) (h : CrKept P x) : P a := by
  subst ha
  exact h

theorem CrKept.of_wait {x : CrMem α} {s : State} (hs : x = .wait s) (h : CrKept P x) : s.memOk := by
  subst hs
  exact h

end

theorem KeptOut.ite {c : Prop} [Decidable c] {x y : Host.Outcome State Fault Refusal} (hx : KeptOut x) (hy : KeptOut y) :
    KeptOut (if c then x else y) := by
  split
  · exact hx
  · exact hy

theorem FabRes.memOk_ite {c : Prop} [Decidable c] {x y : FabRes} (hx : x.memOk) (hy : y.memOk) : (if c then x else y).memOk := by
  split
  · exact hx
  · exact hy

theorem FabRes.of_done {x : FabRes} {s : State} {k : Nat} {l : List Byte} (e : x = .done s k l) (h : x.memOk) : s.memOk := by
  subst e
  exact h

theorem FabRes.of_hold {x : FabRes} {s : State} (e : x = .hold s) (h : x.memOk) : s.memOk := by
  subst e
  exact h

theorem FarR.of_wait {x : FarR} {s : State} (e : x = .wait s) (h : x.memOk) : s.memOk := by
  subst e
  exact h

end Sys2Proof.Machine
end

section
/-! SUPPORT. What a word or an event is made of, first the bodies of the computing words (R52 to R54, R85 to R103, R137 to R162). -/

namespace Sys2Proof.Machine

open Sys2Proof

theorem State.memOk_putWarp {s : State} {u : Nat} {w : Warp} (h : s.memOk) : (s.putWarp u w).memOk := h

theorem State.memOk_modWarp {s : State} {u : Nat} {f : Warp → Warp} (h : s.memOk) : (s.modWarp u f).memOk := h

theorem State.kept_obsPut {s : State} {ctx va : Nat} {rec : List Word} (h : s.memOk) :
    OptKept State.memOk (s.obsPut ctx va rec) := by
  unfold State.obsPut
  dsimp only
  split
  · exact OptKept.some (State.memOk_wrWords (State.memOk_wrWords h _ _) _ _)
  · exact OptKept.none

theorem State.memOk_emit {s : State} {o : Out} (h : s.memOk) : (s.emit o).memOk := h

theorem State.memOk_bumpHdr {s : State} {ctx ofs n : Nat} (h : s.memOk) : (s.bumpHdr ctx ofs n).memOk := by
  unfold State.bumpHdr
  refine State.memOk_ite h ?_
  split
  · exact State.memOk_wrWords h _ _
  · exact h

theorem State.memOk_ring {s : State} {ctx baseOfs logShift seqOfs : Nat} {rec : List Word} (h : s.memOk) :
    (s.ring ctx baseOfs logShift seqOfs rec).memOk := by
  unfold State.ring
  refine State.memOk_ite h ?_
  split
  · dsimp only
    split
    next e1 => exact State.memOk_bumpHdr (OptKept.get (P := State.memOk) e1 (State.kept_obsPut h))
    · exact h
  · exact h

theorem State.memOk_trace {s : State} {ctx ev core grid team thread arg clk : Nat} (h : s.memOk) :
    (s.trace ctx ev core grid team thread arg clk).memOk :=
  State.memOk_ite (State.memOk_ring h) h

theorem State.memOk_modCtx {s : State} {c : Nat} {f : Ctx → Ctx} (h : s.memOk) : (s.modCtx c f).memOk := h

theorem State.memOk_giveUp {s : State} {ctx : Nat} (h : s.memOk) : (s.giveUp ctx).memOk := h

theorem State.memOk_terminate {s : State} {ctx : Nat} (h : s.memOk) : (s.terminate ctx).memOk := State.memOk_ite h h

theorem State.memOk_record {s : State} {ctx : Nat} {r : FaultRec} (h : s.memOk) : (s.record ctx r).1.memOk := by
  unfold State.record
  dsimp only
  split
  · exact State.memOk_wrWords h _ _
  · exact h

theorem State.memOk_enterTrap {s : State} {u : Nat} {p : PendTrap} (h : s.memOk) : (s.enterTrap u p).memOk := by
  unfold State.enterTrap
  split
  · dsimp only
    split
    · exact State.memOk_trace h
    · exact State.memOk_terminate (State.memOk_record h)
  · dsimp only
    split
    · exact h
    · exact State.memOk_terminate (State.memOk_record h)

theorem State.memOk_post {s : State} {e : Ev} (h : s.memOk) : (s.post e).memOk := h

theorem State.memOk_raise {s0 : State} {c : Cx} {t : TrapInfo} (hs0 : s0.memOk) : (s0.raise c t).memOk :=
  State.memOk_ite (State.memOk_enterTrap (State.memOk_ite hs0 hs0)) (State.memOk_post (State.memOk_modWarp (State.memOk_ite hs0
    hs0)))

theorem State.memOk_parkWarp {s : State} {u : Nat} {r : Stall} (h : s.memOk) : (s.parkWarp u r).memOk := h

theorem State.memOk_endTainted {s : State} {w : Warp} {place : Nat} (h : s.memOk) : (s.endTainted w place).memOk :=
  State.memOk_terminate (State.memOk_record h)

theorem State.memOk_endPoisoned {s : State} {c : Cx} {place : Nat} (h : s.memOk) : (s.endPoisoned c place).memOk :=
  State.memOk_endTainted h

theorem State.keptOut_attach {s : State} {sw : Bool} {f : Group → Except Stop Group} (h : s.memOk)
    (hf : ∀ g, Kept (fun _ => True) (f g)) : KeptOut (s.attach sw f) := by
  unfold State.attach
  split
  · exact trivial
  refine KeptOut.ite (State.memOk_raise h) ?_
  split
  · exact h
  · exact State.memOk_raise h
  next e => exact Kept.of_error e (hf _)
  · exact State.memOk_endPoisoned h
  · exact trivial

theorem execHnop_keeps {s : State} {o : FHnop} (h : s.memOk) : KeptOut (execHnop o s) :=
  State.keptOut_attach h (fun _ => Kept.pass)

theorem execHimmLo_keeps {s : State} {o : FHimm} (h : s.memOk) : KeptOut (execHimmLo o s) :=
  State.keptOut_attach h (fun _ => Kept.pass)

theorem execHimmHi_keeps {s : State} {o : FHimm} (h : s.memOk) : KeptOut (execHimmHi o s) :=
  State.keptOut_attach h (fun _ => Kept.pass)

theorem execHofs_keeps {s : State} {o : FHofs} (h : s.memOk) : KeptOut (execHofs o s) :=
  State.keptOut_attach h (fun _ => Kept.pass)

theorem execHcache_keeps {s : State} {o : FH3} (h : s.memOk) : KeptOut (execHcache o s) :=
  State.keptOut_attach h (fun _ => Kept.pass)

theorem execHreuse_keeps {s : State} {o : FH3} (h : s.memOk) : KeptOut (execHreuse o s) :=
  State.keptOut_attach h (fun _ => Kept.pass)

theorem execHstall_keeps {s : State} {o : FHstall} (h : s.memOk) : KeptOut (execHstall o s) :=
  State.keptOut_attach h (fun _ => Kept.pass)

theorem execHprio_keeps {s : State} {o : FHprio} (h : s.memOk) : KeptOut (execHprio o s) := by
  unfold execHprio
  split
  · exact trivial
  · exact KeptOut.ite (State.keptOut_attach h (fun g => Kept.pass)) (State.keptOut_attach h (fun _ => Kept.pass))

theorem execXp_keeps {s : State} {o : FXp} (h : s.memOk) : KeptOut (execXp o s) :=
  State.keptOut_attach h (fun _ => Kept.ite trivial Kept.pass)

/-- What a body comes to is settled in canonical form. -/
theorem State.keptOut_settle {s : State} {c : Cx} {sw : Bool} {r : Except Stop (State × Flow)} (h : s.memOk)
    (hr : Kept (fun p => p.1.memOk) r) : KeptOut (s.settle c sw r) :=
  match r, hr with
  | .ok (_, _), hr => hr
  | .error (.park _ _), hr => hr
  | .error (.trap _), _ => State.memOk_raise h
  | .error (.poison _), _ => State.memOk_endPoisoned h
  | .error (.halt _), _ => trivial

theorem State.keptOut_runTarget {s : State} {sw : Bool} {body : Cx → State → Except Stop (State × Flow)} (h : s.memOk)
    (hb : ∀ c, Kept (fun p => p.1.memOk) (body c s)) : KeptOut (s.runTarget sw body) := by
  unfold State.runTarget
  split
  · exact trivial
  · exact State.keptOut_settle h (hb _)

theorem Cx.kept_noXp {c : Cx} : Kept (fun _ => True) (c.noXp) := Kept.ite trivial Kept.pass

theorem switchViol_kept {w : Warp} {a1 : RegName} : OptKept Stop.memOk (switchViol w a1) := by
  unfold switchViol
  split
  · exact OptKept.some trivial
  · exact OptKept.some trivial
  · exact OptKept.some trivial
  · exact OptKept.some trivial
  · exact OptKept.some trivial
  · exact OptKept.none

theorem Cx.kept_touch {s : State} {c : Cx} {names : List RegName} (h : s.memOk) : Kept (fun _ => True) (c.touch s names) := by
  unfold Cx.touch
  refine Kept.ite trivial ?_
  split
  · exact Kept.ite h trivial
  dsimp only
  split
  · exact Kept.ite h trivial
  · exact trivial
  · exact h
  next e =>
    obtain ⟨r, _, hr⟩ := List.exists_of_findSome?_eq_some e
    exact switchViol_kept _ hr
  · exact Kept.ite h trivial

theorem State.keptOut_branch {s : State} {o : FBr} {taken : Lanes → Lanes → Lanes} (h : s.memOk) : KeptOut (s.branch o taken) :=
  State.keptOut_runTarget h (fun _ => Kept.seq Cx.kept_noXp fun _ => Kept.seq (Cx.kept_touch h) fun _ => Kept.done h)

theorem execBrT_keeps {s : State} {o : FBr} (h : s.memOk) : KeptOut (execBrT o s) := State.keptOut_branch h

theorem execBrF_keeps {s : State} {o : FBr} (h : s.memOk) : KeptOut (execBrF o s) := State.keptOut_branch h

theorem execBrAny_keeps {s : State} {o : FBr} (h : s.memOk) : KeptOut (execBrAny o s) := State.keptOut_branch h

theorem execBrAll_keeps {s : State} {o : FBr} (h : s.memOk) : KeptOut (execBrAll o s) := State.keptOut_branch h

theorem Cx.kept_bWrites {s : State} {c : Cx} {regs : List Nat} {lanes : Lanes} (h : s.memOk) :
    Kept (fun _ => True) (c.bWrites s regs lanes) := by
  unfold Cx.bWrites
  refine Kept.ite Kept.pass ?_
  split
  · exact h
  · exact trivial
  · exact Kept.pass

theorem State.memOk_newId {s : State} (h : s.memOk) : (s.newId).2.memOk := h

theorem State.memOk_result {s : State} {c : Cx} {lat : Nat} {names : List RegName} {writes : List RegWrite} (h : s.memOk) :
    (s.result c lat names writes).memOk :=
  State.memOk_ite h h

theorem execCall_keeps {s : State} {o : FCall} (h : s.memOk) : KeptOut (execCall o s) := by
  refine State.keptOut_runTarget h fun _ => ?_
  exact Kept.seq Cx.kept_noXp fun _ => Kept.seq (Cx.kept_touch h) fun _ => Kept.seq (Cx.kept_bWrites h) fun _ => Kept.done h

theorem State.memOk_loopRace {s : State} {c : Cx} {n : Nat} (h : s.memOk) : (s.loopRace c n).memOk := State.memOk_ite h h

theorem execLoopb_keeps {s : State} {o : FLoop} (h : s.memOk) : KeptOut (execLoopb o s) := by
  refine State.keptOut_runTarget h fun _ => ?_
  refine Kept.seq Cx.kept_noXp fun _ => ?_
  refine Kept.seq (Cx.kept_touch h) fun _ => ?_
  refine Kept.ite (Kept.done (State.memOk_modWarp (State.memOk_loopRace h))) ?_
  exact Kept.done (State.memOk_modWarp (State.memOk_loopRace h))

theorem Cx.kept_resolve {c : Cx} {operand : Nat} {act : Lanes} {x : Option Word} {field k : Nat} :
    Kept (fun _ => True) (c.resolve operand act x field k) := by
  unfold Cx.resolve
  split
  · split
    · dsimp only
      split
      · exact trivial
      · exact Kept.pass
    · dsimp only
      split
      · exact trivial
      · exact Kept.pass
  · dsimp only
    split
    · exact trivial
    · exact Kept.pass

theorem Cx.kept_indirect {s : State} {c : Cx} {n : Nat} {call : Bool} (h : s.memOk) :
    Kept (fun p => p.1.memOk) (c.indirect s n call) := by
  unfold Cx.indirect
  refine Kept.seq Cx.kept_noXp fun _ => ?_
  refine Kept.seq Cx.kept_resolve fun _ => ?_
  refine Kept.seq (Cx.kept_touch h) fun _ => ?_
  refine Kept.either (Cx.kept_bWrites h) Kept.pass fun _ => ?_
  split
  · dsimp only
    split
    · exact trivial
    · exact Kept.done h
  · dsimp only
    split
    · exact trivial
    · exact Kept.done h

theorem execJmpi_keeps {s : State} {o : FA} (h : s.memOk) : KeptOut (execJmpi o s) :=
  State.keptOut_runTarget h (fun _ => Cx.kept_indirect h)

theorem execCalli_keeps {s : State} {o : FA} (h : s.memOk) : KeptOut (execCalli o s) :=
  State.keptOut_runTarget h (fun _ => Cx.kept_indirect h)

theorem execRet_keeps {s : State} {o : FNone} (h : s.memOk) : KeptOut (execRet o s) :=
  State.keptOut_runTarget h (fun _ => Cx.kept_indirect h)

theorem State.memOk_deliver {s : State} {c : Cx} {r : Report} {rest : List Report} (h : s.memOk) : (s.deliver c r rest).1.memOk := h

theorem State.keptOut_runReporting {s : State} {sw : Bool} {p : Cx → Report → Bool}
    {body : Cx → State → Except Stop (State × Flow)} (h : s.memOk) (hb : ∀ c, Kept (fun p => p.1.memOk) (body c s)) :
    KeptOut (s.runReporting sw p body) := by
  unfold State.runReporting
  split
  · exact trivial
  split
  · exact State.memOk_raise h
  · exact State.keptOut_settle h (hb _)

theorem State.memOk_leave {s : State} {id : Nat} (h : s.memOk) : (s.leave id).memOk := by
  unfold State.leave
  split
  · exact h
  · exact State.memOk_ite h h

theorem State.memOk_leaveO {s : State} {a1 : Option Nat} (h : s.memOk) : (s.leaveO a1).memOk := by
  unfold State.leaveO
  split
  · exact State.memOk_leave h
  · exact h

theorem State.memOk_cancelClaims {s : State} {uid : Nat} (h : s.memOk) : (s.cancelClaims uid).memOk :=
  State.memOk_fold (fun _ _ h1 => State.memOk_leaveO h1) (State.memOk_putWarp h)

theorem execExit_keeps {s : State} {o : FNone} (h : s.memOk) : KeptOut (execExit o s) := by
  unfold execExit
  split
  · exact trivial
  refine KeptOut.ite ?_ (State.keptOut_runReporting h fun c => Kept.seq Cx.kept_noXp fun _ => ?_)
  · dsimp only
    split
    · exact State.memOk_raise h
    · exact h
  · have hend (s1 : State) (b : Bool) (es : List Ent) (h1 : s1.memOk) : Kept (fun p : State × Flow => p.1.memOk)
        (.ok (if b then (s1.cancelClaims c.uid).post (.warpRetire c.uid) else s1, .goto es)) :=
      State.memOk_ite (State.memOk_post (State.memOk_cancelClaims h1)) h1
    dsimp only
    split
    · exact Kept.seq (Kept.stop trivial) fun _ => Kept.either (Kept.stop h) Kept.pass fun _ => hend _ _ _ h
    · exact Kept.seq (Kept.stop h) fun _ => Kept.either (Kept.stop h) Kept.pass fun _ => hend _ _ _ h
    · exact Kept.seq Kept.pass fun _ => Kept.either (Kept.stop h) Kept.pass fun _ => hend _ _ _ h

theorem Cx.kept_software {c : Cx} {cause : BitVec 6} {code : BitVec 7} : Kept (fun p => p.1.memOk) (c.software cause code) :=
  Kept.seq Cx.kept_noXp fun _ => trivial

theorem execTrap_keeps {s : State} {o : FCode} (h : s.memOk) : KeptOut (execTrap o s) :=
  State.keptOut_runTarget h (fun _ => Cx.kept_software)

theorem execSysc_keeps {s : State} {o : FCode} (h : s.memOk) : KeptOut (execSysc o s) :=
  State.keptOut_runTarget h (fun _ => Cx.kept_software)

theorem State.memOk_modCore {s : State} {c : Nat} {f : Core → Core} (h : s.memOk) : (s.modCore c f).memOk := h

theorem State.memOk_spend {s : State} {core part : Nat} {b : Issued} (h : s.memOk) : (s.spend core part b).memOk := h

theorem State.memOk_pauseWatch {s : State} {ctx : Nat} (h : s.memOk) : (s.pauseWatch ctx).memOk := State.memOk_ite h h

theorem State.memOk_preciseStop {s : State} {uid lane : Nat} (h : s.memOk) : (s.preciseStop uid lane).memOk :=
  State.memOk_trace (State.memOk_pauseWatch h)

theorem State.memOk_brkStop {s : State} {uid lane : Nat} (h : s.memOk) : (s.brkStop uid lane).memOk :=
  State.memOk_modWarp (State.memOk_preciseStop h)

theorem execBrk_keeps {s : State} {o : FCode} (h : s.memOk) : KeptOut (execBrk o s) := by
  unfold execBrk
  split
  · exact trivial
  · refine KeptOut.ite (State.keptOut_settle h Cx.kept_software) ?_
    exact KeptOut.ite (State.keptOut_settle h (Kept.done h)) (State.memOk_brkStop h)

theorem execYield_keeps {s : State} {o : FNone} (h : s.memOk) : KeptOut (execYield o s) :=
  State.keptOut_runTarget h (fun _ => Kept.seq Cx.kept_noXp fun _ => Kept.done h)

theorem execNop_keeps {s : State} {o : FNone} (h : s.memOk) : KeptOut (execNop o s) :=
  State.keptOut_runTarget h (fun _ => Kept.seq Cx.kept_noXp fun _ => Kept.done h)

theorem execEnrol_keeps {s : State} {o : FJ} (h : s.memOk) : KeptOut (execEnrol o s) :=
  State.keptOut_runTarget h (fun _ => Kept.seq Cx.kept_noXp fun _ => Kept.done h)

theorem execJoin_keeps {s : State} {o : FJ} (h : s.memOk) : KeptOut (execJoin o s) := by
  unfold execJoin
  refine State.keptOut_runTarget h (fun _ => ?_)
  refine Kept.seq Cx.kept_noXp fun _ => ?_
  split
  · exact trivial
  · exact Kept.done h

theorem execStrike_keeps {s : State} {o : FJ} (h : s.memOk) : KeptOut (execStrike o s) :=
  State.keptOut_runTarget h (fun _ => Kept.seq Cx.kept_noXp fun _ => Kept.done h)

theorem execLset_keeps {s : State} {o : FLset} (h : s.memOk) : KeptOut (execLset o s) := by
  refine State.keptOut_runTarget h fun _ => ?_
  exact Kept.seq Cx.kept_noXp fun _ => Kept.seq (Cx.kept_touch h) fun _ => Kept.done (State.memOk_result h)

theorem execDrain_keeps {s : State} {o : FNone} (h : s.memOk) : KeptOut (execDrain o s) := by
  unfold execDrain
  refine State.keptOut_runTarget h (fun _ => ?_)
  refine Kept.seq Cx.kept_noXp fun _ => ?_
  refine Kept.ite ?_ (Kept.ite h (Kept.done h))
  split
  · exact trivial
  · exact h

theorem execEret_keeps {s : State} {o : FNone} (h : s.memOk) : KeptOut (execEret o s) :=
  State.keptOut_runTarget h (fun _ => Kept.seq Cx.kept_noXp fun _ => Kept.ite trivial (Kept.ite h (Kept.done h)))

/-- An operand's register, where the word has the operand, and what follows. -/
theorem Cx.kept_field {α : Type} {P : α → Prop} {c : Cx} {n : Option (Nat × Nat)} {operand d : Nat} {act : Lanes} {x : Option Word}
    {k : Nat → Except Stop α} (hk : ∀ d, Kept P (k d)) :
    Kept P (match n with | some (n, m) => c.resolve operand act x n m >>= k | none => .ok d >>= k) := by
  cases n with
  | none => exact Kept.seq Kept.pass hk
  | some p => exact Kept.seq Cx.kept_resolve hk

theorem Cx.kept_prep {s : State} {c : Cx} {o : VOp} (h : s.memOk) : Kept (fun _ => True) (c.prep s o) := by
  unfold Cx.prep
  refine Kept.ite trivial (Kept.seq (Cx.kept_touch h) fun _ => Cx.kept_field fun d => Cx.kept_field fun a => Cx.kept_field fun b =>
    ?_)
  exact Kept.ite (Kept.seq Cx.kept_resolve fun _ => Kept.seq (Cx.kept_touch h) fun _ => Kept.seq (Cx.kept_bWrites h) fun _ =>
    trivial)
    (Kept.seq Kept.pass fun _ => Kept.seq (Cx.kept_touch h) fun _ => Kept.seq (Cx.kept_bWrites h) fun _ => trivial)

theorem snanOp_kept {operand : Nat} {found : List (Nat × Option Nat)} : OptKept Stop.memOk (snanOp operand found) := by
  unfold snanOp
  split
  · exact OptKept.none
  · exact OptKept.some trivial

theorem Cx.kept_snan {c : Cx} {o : VOp} {p : Prep} {ins : List LaneIn} : Kept (fun _ => True) (c.snan o p ins) := by
  unfold Cx.snan
  refine Kept.ite trivial ?_
  dsimp only
  split
  next e => exact snanOp_kept _ e
  next e => exact snanOp_kept _ e
  next e => exact snanOp_kept _ e
  · exact trivial

theorem Cx.kept_flagCheck {c : Cx} {fmode fl : Word} : Kept (fun _ => True) (c.flagCheck fmode fl) := by
  unfold Cx.flagCheck
  split
  · exact trivial
  · exact Kept.pass

theorem State.memOk_setRngs {s : State} {uid : Nat} {outs : List (Nat × LaneOut)} (h : s.memOk) : (s.setRngs uid outs).memOk :=
  State.memOk_ite h h

theorem Cx.kept_finish {s : State} {c : Cx} {o : VOp} {p : Prep} {outs : List (Nat × LaneOut)} (h : s.memOk) :
    Kept (fun p => p.1.memOk) (c.finish s o p outs) :=
  Kept.seq Cx.kept_flagCheck fun _ => Kept.ite h (Kept.done (State.memOk_result (State.memOk_setRngs h)))

theorem Cx.kept_vop {s : State} {c : Cx} {o : VOp} {f : FEnv → LaneIn → LaneOut} (h : s.memOk) :
    Kept (fun p => p.1.memOk) (c.vop s o f) :=
  Kept.seq (Cx.kept_prep h) fun _ => Kept.seq Cx.kept_snan fun _ => Cx.kept_finish h

theorem State.keptOut_vint {s : State} {o : FDab} {c sat : Bool} {lat : Nat} {f : Bool → Word → Word → Word → Word × Word} (h :
    s.memOk) : KeptOut (s.vint o c sat lat f) :=
  State.keptOut_runTarget h (fun _ => Cx.kept_vop h)

theorem execIadd_keeps {s : State} {o : FDab} (h : s.memOk) : KeptOut (execIadd o s) := State.keptOut_vint h

theorem execIsub_keeps {s : State} {o : FDab} (h : s.memOk) : KeptOut (execIsub o s) := State.keptOut_vint h

theorem execImul_keeps {s : State} {o : FDab} (h : s.memOk) : KeptOut (execImul o s) := State.keptOut_vint h

theorem execImulhI_keeps {s : State} {o : FDab} (h : s.memOk) : KeptOut (execImulhI o s) := State.keptOut_vint h

theorem execImulhN_keeps {s : State} {o : FDab} (h : s.memOk) : KeptOut (execImulhN o s) := State.keptOut_vint h

theorem execImad_keeps {s : State} {o : FDab} (h : s.memOk) : KeptOut (execImad o s) := State.keptOut_vint h

theorem execAnd_keeps {s : State} {o : FDab} (h : s.memOk) : KeptOut (execAnd o s) := State.keptOut_vint h

theorem execOr_keeps {s : State} {o : FDab} (h : s.memOk) : KeptOut (execOr o s) := State.keptOut_vint h

theorem execXor_keeps {s : State} {o : FDab} (h : s.memOk) : KeptOut (execXor o s) := State.keptOut_vint h

theorem execShl_keeps {s : State} {o : FDab} (h : s.memOk) : KeptOut (execShl o s) := State.keptOut_vint h

theorem execShr_keeps {s : State} {o : FDab} (h : s.memOk) : KeptOut (execShr o s) := State.keptOut_vint h

theorem execSar_keeps {s : State} {o : FDab} (h : s.memOk) : KeptOut (execSar o s) := State.keptOut_vint h

theorem execMinI_keeps {s : State} {o : FDab} (h : s.memOk) : KeptOut (execMinI o s) := State.keptOut_vint h

theorem execMinN_keeps {s : State} {o : FDab} (h : s.memOk) : KeptOut (execMinN o s) := State.keptOut_vint h

theorem execMaxI_keeps {s : State} {o : FDab} (h : s.memOk) : KeptOut (execMaxI o s) := State.keptOut_vint h

theorem execMaxN_keeps {s : State} {o : FDab} (h : s.memOk) : KeptOut (execMaxN o s) := State.keptOut_vint h

theorem State.keptOut_vintS {s : State} {o : FDab} {c sat : Bool} {lat : Nat} {f : Bool → Word → Word → Word → Word × Word} (h :
    s.memOk) : KeptOut (s.vintS o c sat lat f) :=
  State.keptOut_runTarget h (fun _ => Cx.kept_vop h)

theorem execIaddS_keeps {s : State} {o : FDab} (h : s.memOk) : KeptOut (execIaddS o s) := State.keptOut_vintS h

theorem execIsubS_keeps {s : State} {o : FDab} (h : s.memOk) : KeptOut (execIsubS o s) := State.keptOut_vintS h

theorem execImulS_keeps {s : State} {o : FDab} (h : s.memOk) : KeptOut (execImulS o s) := State.keptOut_vintS h

theorem execImulhIS_keeps {s : State} {o : FDab} (h : s.memOk) : KeptOut (execImulhIS o s) := State.keptOut_vintS h

theorem execImulhNS_keeps {s : State} {o : FDab} (h : s.memOk) : KeptOut (execImulhNS o s) := State.keptOut_vintS h

theorem execImadS_keeps {s : State} {o : FDab} (h : s.memOk) : KeptOut (execImadS o s) := State.keptOut_vintS h

theorem execAndS_keeps {s : State} {o : FDab} (h : s.memOk) : KeptOut (execAndS o s) := State.keptOut_vintS h

theorem execOrS_keeps {s : State} {o : FDab} (h : s.memOk) : KeptOut (execOrS o s) := State.keptOut_vintS h

theorem execXorS_keeps {s : State} {o : FDab} (h : s.memOk) : KeptOut (execXorS o s) := State.keptOut_vintS h

theorem execShlS_keeps {s : State} {o : FDab} (h : s.memOk) : KeptOut (execShlS o s) := State.keptOut_vintS h

theorem execShrS_keeps {s : State} {o : FDab} (h : s.memOk) : KeptOut (execShrS o s) := State.keptOut_vintS h

theorem execSarS_keeps {s : State} {o : FDab} (h : s.memOk) : KeptOut (execSarS o s) := State.keptOut_vintS h

theorem execMinIS_keeps {s : State} {o : FDab} (h : s.memOk) : KeptOut (execMinIS o s) := State.keptOut_vintS h

theorem execMinNS_keeps {s : State} {o : FDab} (h : s.memOk) : KeptOut (execMinNS o s) := State.keptOut_vintS h

theorem execMaxIS_keeps {s : State} {o : FDab} (h : s.memOk) : KeptOut (execMaxIS o s) := State.keptOut_vintS h

theorem execMaxNS_keeps {s : State} {o : FDab} (h : s.memOk) : KeptOut (execMaxNS o s) := State.keptOut_vintS h

theorem State.keptOut_vbit1 {s : State} {o : FDa} {f : Word → Word} (h : s.memOk) : KeptOut (s.vbit1 o f) :=
  State.keptOut_runTarget h (fun _ => Cx.kept_vop h)

theorem execPopc_keeps {s : State} {o : FDa} (h : s.memOk) : KeptOut (execPopc o s) := State.keptOut_vbit1 h

theorem execClz_keeps {s : State} {o : FDa} (h : s.memOk) : KeptOut (execClz o s) := State.keptOut_vbit1 h

theorem execBrev_keeps {s : State} {o : FDa} (h : s.memOk) : KeptOut (execBrev o s) := State.keptOut_vbit1 h

theorem State.keptOut_vbit {s : State} {o : FDab} {kd ka kb : Nat} {c : Bool} {lat : Nat} {f : LaneIn → List Word} (h : s.memOk) :
    KeptOut (s.vbit o kd ka kb c lat f) :=
  State.keptOut_runTarget h (fun _ => Cx.kept_vop h)

theorem execBfeI_keeps {s : State} {o : FDab} (h : s.memOk) : KeptOut (execBfeI o s) := State.keptOut_vbit h

theorem execBfeN_keeps {s : State} {o : FDab} (h : s.memOk) : KeptOut (execBfeN o s) := State.keptOut_vbit h

theorem execBfi_keeps {s : State} {o : FDab} (h : s.memOk) : KeptOut (execBfi o s) := State.keptOut_vbit h

theorem execSel_keeps {s : State} {o : FDab} (h : s.memOk) : KeptOut (execSel o s) := State.keptOut_vbit h

theorem execPrmt_keeps {s : State} {o : FDab} (h : s.memOk) : KeptOut (execPrmt o s) := State.keptOut_vbit h

theorem execAndn_keeps {s : State} {o : FDab} (h : s.memOk) : KeptOut (execAndn o s) := State.keptOut_vbit h

theorem execAbsdI_keeps {s : State} {o : FDab} (h : s.memOk) : KeptOut (execAbsdI o s) := State.keptOut_vbit h

theorem execIaddD_keeps {s : State} {o : FDab} (h : s.memOk) : KeptOut (execIaddD o s) := State.keptOut_vbit h

theorem execIsubD_keeps {s : State} {o : FDab} (h : s.memOk) : KeptOut (execIsubD o s) := State.keptOut_vbit h

theorem execShlD_keeps {s : State} {o : FDab} (h : s.memOk) : KeptOut (execShlD o s) := State.keptOut_vbit h

theorem execShrD_keeps {s : State} {o : FDab} (h : s.memOk) : KeptOut (execShrD o s) := State.keptOut_vbit h

theorem execImulwI_keeps {s : State} {o : FDab} (h : s.memOk) : KeptOut (execImulwI o s) := State.keptOut_vbit h

theorem execImulwN_keeps {s : State} {o : FDab} (h : s.memOk) : KeptOut (execImulwN o s) := State.keptOut_vbit h

theorem State.keptOut_vinti {s : State} {o : FImm} {sat : Bool} {f : Bool → Word → Word → Word × Word} (h : s.memOk) :
    KeptOut (s.vinti o sat f) :=
  State.keptOut_runTarget h (fun _ => Cx.kept_vop h)

theorem execIaddi_keeps {s : State} {o : FImm} (h : s.memOk) : KeptOut (execIaddi o s) := State.keptOut_vinti h

theorem execAndi_keeps {s : State} {o : FImm} (h : s.memOk) : KeptOut (execAndi o s) := State.keptOut_vinti h

theorem execXori_keeps {s : State} {o : FImm} (h : s.memOk) : KeptOut (execXori o s) := State.keptOut_vinti h

theorem execMovi_keeps {s : State} {o : FMovi} (h : s.memOk) : KeptOut (execMovi o s) :=
  State.keptOut_runTarget h (fun _ => Cx.kept_vop h)

theorem State.keptOut_vf {s : State} {o : FDab} {rnd c sat : Bool} {lat : Nat} {f : FEnv → LaneIn → FRes} (h : s.memOk) :
    KeptOut (s.vf o rnd c sat lat f) :=
  State.keptOut_runTarget h (fun _ => Cx.kept_vop h)

theorem execFadd_keeps {s : State} {o : FDab} (h : s.memOk) : KeptOut (execFadd o s) := State.keptOut_vf h

theorem execFsub_keeps {s : State} {o : FDab} (h : s.memOk) : KeptOut (execFsub o s) := State.keptOut_vf h

theorem execFmul_keeps {s : State} {o : FDab} (h : s.memOk) : KeptOut (execFmul o s) := State.keptOut_vf h

theorem execFfma_keeps {s : State} {o : FDab} (h : s.memOk) : KeptOut (execFfma o s) := State.keptOut_vf h

theorem execFmin_keeps {s : State} {o : FDab} (h : s.memOk) : KeptOut (execFmin o s) := State.keptOut_vf h

theorem execFmax_keeps {s : State} {o : FDab} (h : s.memOk) : KeptOut (execFmax o s) := State.keptOut_vf h

theorem execFminm_keeps {s : State} {o : FDab} (h : s.memOk) : KeptOut (execFminm o s) := State.keptOut_vf h

theorem execFmaxm_keeps {s : State} {o : FDab} (h : s.memOk) : KeptOut (execFmaxm o s) := State.keptOut_vf h

theorem State.keptOut_vf1 {s : State} {o : FDa} {rnd : Bool} {lat : Nat} {f : FEnv → LaneIn → FRes} (h : s.memOk) :
    KeptOut (s.vf1 o rnd lat f) :=
  State.keptOut_runTarget h (fun _ => Cx.kept_vop h)

theorem execFabs_keeps {s : State} {o : FDa} (h : s.memOk) : KeptOut (execFabs o s) := State.keptOut_vf1 h

theorem execFneg_keeps {s : State} {o : FDa} (h : s.memOk) : KeptOut (execFneg o s) := State.keptOut_vf1 h

theorem execFrcp_keeps {s : State} {o : FDa} (h : s.memOk) : KeptOut (execFrcp o s) := State.keptOut_vf1 h

theorem execFrsq_keeps {s : State} {o : FDa} (h : s.memOk) : KeptOut (execFrsq o s) := State.keptOut_vf1 h

theorem execFsqrt_keeps {s : State} {o : FDa} (h : s.memOk) : KeptOut (execFsqrt o s) := State.keptOut_vf1 h

theorem execFex2_keeps {s : State} {o : FDa} (h : s.memOk) : KeptOut (execFex2 o s) := State.keptOut_vf1 h

theorem execFlg2_keeps {s : State} {o : FDa} (h : s.memOk) : KeptOut (execFlg2 o s) := State.keptOut_vf1 h

theorem execFdiv_keeps {s : State} {o : FDab} (h : s.memOk) : KeptOut (execFdiv o s) := State.keptOut_vf h

theorem State.keptOut_vfS {s : State} {o : FDab} {rnd c sat : Bool} {f : FEnv → LaneIn → FRes} (h : s.memOk) :
    KeptOut (s.vfS o rnd c sat f) :=
  State.keptOut_runTarget h (fun _ => Cx.kept_vop h)

theorem execFaddS_keeps {s : State} {o : FDab} (h : s.memOk) : KeptOut (execFaddS o s) := State.keptOut_vfS h

theorem execFsubS_keeps {s : State} {o : FDab} (h : s.memOk) : KeptOut (execFsubS o s) := State.keptOut_vfS h

theorem execFmulS_keeps {s : State} {o : FDab} (h : s.memOk) : KeptOut (execFmulS o s) := State.keptOut_vfS h

theorem execFfmaS_keeps {s : State} {o : FDab} (h : s.memOk) : KeptOut (execFfmaS o s) := State.keptOut_vfS h

theorem execFminS_keeps {s : State} {o : FDab} (h : s.memOk) : KeptOut (execFminS o s) := State.keptOut_vfS h

theorem execFmaxS_keeps {s : State} {o : FDab} (h : s.memOk) : KeptOut (execFmaxS o s) := State.keptOut_vfS h

theorem execFminmS_keeps {s : State} {o : FDab} (h : s.memOk) : KeptOut (execFminmS o s) := State.keptOut_vfS h

theorem execFmaxmS_keeps {s : State} {o : FDab} (h : s.memOk) : KeptOut (execFmaxmS o s) := State.keptOut_vfS h

theorem execFsinS_keeps {s : State} {o : FDa} (h : s.memOk) : KeptOut (execFsinS o s) := State.keptOut_vf1 h

theorem execFcosS_keeps {s : State} {o : FDa} (h : s.memOk) : KeptOut (execFcosS o s) := State.keptOut_vf1 h

theorem execFtanhS_keeps {s : State} {o : FDa} (h : s.memOk) : KeptOut (execFtanhS o s) := State.keptOut_vf1 h

theorem execFsigmS_keeps {s : State} {o : FDa} (h : s.memOk) : KeptOut (execFsigmS o s) := State.keptOut_vf1 h

theorem execFerfS_keeps {s : State} {o : FDa} (h : s.memOk) : KeptOut (execFerfS o s) := State.keptOut_vf1 h

theorem State.keptOut_vp {s : State} {o : FDab} {f : Fmt} {rnd c sat : Bool} {lat : Nat} {g : FEnv → Word → Nat → Nat → Nat → FRes}
    (h : s.memOk) : KeptOut (s.vp o f rnd c sat lat g) :=
  State.keptOut_runTarget h (fun _ => Cx.kept_vop h)

theorem execHadd_keeps {s : State} {o : FDab} (h : s.memOk) : KeptOut (execHadd o s) := State.keptOut_vp h

theorem execHsub_keeps {s : State} {o : FDab} (h : s.memOk) : KeptOut (execHsub o s) := State.keptOut_vp h

theorem execHmul_keeps {s : State} {o : FDab} (h : s.memOk) : KeptOut (execHmul o s) := State.keptOut_vp h

theorem execHfma_keeps {s : State} {o : FDab} (h : s.memOk) : KeptOut (execHfma o s) := State.keptOut_vp h

theorem execHmin_keeps {s : State} {o : FDab} (h : s.memOk) : KeptOut (execHmin o s) := State.keptOut_vp h

theorem execHmax_keeps {s : State} {o : FDab} (h : s.memOk) : KeptOut (execHmax o s) := State.keptOut_vp h

theorem execBadd_keeps {s : State} {o : FDab} (h : s.memOk) : KeptOut (execBadd o s) := State.keptOut_vp h

theorem execBsub_keeps {s : State} {o : FDab} (h : s.memOk) : KeptOut (execBsub o s) := State.keptOut_vp h

theorem execBmul_keeps {s : State} {o : FDab} (h : s.memOk) : KeptOut (execBmul o s) := State.keptOut_vp h

theorem execBfma_keeps {s : State} {o : FDab} (h : s.memOk) : KeptOut (execBfma o s) := State.keptOut_vp h

theorem execBmin_keeps {s : State} {o : FDab} (h : s.memOk) : KeptOut (execBmin o s) := State.keptOut_vp h

theorem execBmax_keeps {s : State} {o : FDab} (h : s.memOk) : KeptOut (execBmax o s) := State.keptOut_vp h

theorem State.keptOut_vdot {s : State} {o : FDab} {f : Fmt} {lat : Nat} (h : s.memOk) : KeptOut (s.vdot o f lat) :=
  State.keptOut_runTarget h (fun _ => Cx.kept_vop h)

theorem execHdot2_keeps {s : State} {o : FDab} (h : s.memOk) : KeptOut (execHdot2 o s) := State.keptOut_vdot h

theorem execBdot2_keeps {s : State} {o : FDab} (h : s.memOk) : KeptOut (execBdot2 o s) := State.keptOut_vdot h

theorem execQaddE4m3_keeps {s : State} {o : FDab} (h : s.memOk) : KeptOut (execQaddE4m3 o s) := State.keptOut_vp h

theorem execQsubE4m3_keeps {s : State} {o : FDab} (h : s.memOk) : KeptOut (execQsubE4m3 o s) := State.keptOut_vp h

theorem execQmulE4m3_keeps {s : State} {o : FDab} (h : s.memOk) : KeptOut (execQmulE4m3 o s) := State.keptOut_vp h

theorem execQaddE5m2_keeps {s : State} {o : FDab} (h : s.memOk) : KeptOut (execQaddE5m2 o s) := State.keptOut_vp h

theorem execQsubE5m2_keeps {s : State} {o : FDab} (h : s.memOk) : KeptOut (execQsubE5m2 o s) := State.keptOut_vp h

theorem execQmulE5m2_keeps {s : State} {o : FDab} (h : s.memOk) : KeptOut (execQmulE5m2 o s) := State.keptOut_vp h

theorem execQdot4E4m3_keeps {s : State} {o : FDab} (h : s.memOk) : KeptOut (execQdot4E4m3 o s) := State.keptOut_vdot h

theorem execQdot4E5m2_keeps {s : State} {o : FDab} (h : s.memOk) : KeptOut (execQdot4E5m2 o s) := State.keptOut_vdot h

theorem State.keptOut_vqi {s : State} {o : FDab} {c sat : Bool} {f : Bool → LaneIn → Word × Word} (h : s.memOk) :
    KeptOut (s.vqi o c sat f) :=
  State.keptOut_runTarget h (fun _ => Cx.kept_vop h)

theorem execQdot4I8_keeps {s : State} {o : FDab} (h : s.memOk) : KeptOut (execQdot4I8 o s) := State.keptOut_vqi h

theorem execQdot4N8_keeps {s : State} {o : FDab} (h : s.memOk) : KeptOut (execQdot4N8 o s) := State.keptOut_vqi h

theorem execXdot8E2m1_keeps {s : State} {o : FDab} (h : s.memOk) : KeptOut (execXdot8E2m1 o s) := State.keptOut_vdot h

theorem execQmaxE4m3_keeps {s : State} {o : FDab} (h : s.memOk) : KeptOut (execQmaxE4m3 o s) := State.keptOut_vp h

theorem execQminE4m3_keeps {s : State} {o : FDab} (h : s.memOk) : KeptOut (execQminE4m3 o s) := State.keptOut_vp h

theorem execQaddI8_keeps {s : State} {o : FDab} (h : s.memOk) : KeptOut (execQaddI8 o s) := State.keptOut_vqi h

theorem execQaddN8_keeps {s : State} {o : FDab} (h : s.memOk) : KeptOut (execQaddN8 o s) := State.keptOut_vqi h

theorem execQmaxI8_keeps {s : State} {o : FDab} (h : s.memOk) : KeptOut (execQmaxI8 o s) := State.keptOut_vqi h

theorem execCvt_keeps {s : State} {o : FCvt} (h : s.memOk) : KeptOut (execCvt o s) := by
  unfold execCvt
  exact State.keptOut_runTarget h (fun _ => Cx.kept_vop h)

theorem Cx.kept_bop {s : State} {c : Cx} {o : VOp} {f : FEnv → (Nat → Word) → (Nat → Word) → LaneIn → LaneOut} (h : s.memOk) :
    Kept (fun p => p.1.memOk) (c.bop s o f) :=
  Kept.seq (Cx.kept_prep h) fun _ => Kept.seq Cx.kept_snan fun _ => Cx.kept_finish h

theorem State.keptOut_scvtUp {s : State} {o : FScvt} {f : Fmt} {block : Nat} (h : s.memOk) : KeptOut (s.scvtUp o f block) :=
  State.keptOut_runTarget h (fun _ => Cx.kept_bop h)

theorem execScvtUpE4m3_keeps {s : State} {o : FScvt} (h : s.memOk) : KeptOut (execScvtUpE4m3 o s) := State.keptOut_scvtUp h

theorem execScvtUpE5m2_keeps {s : State} {o : FScvt} (h : s.memOk) : KeptOut (execScvtUpE5m2 o s) := State.keptOut_scvtUp h

theorem execScvtUpE2m1_keeps {s : State} {o : FScvt} (h : s.memOk) : KeptOut (execScvtUpE2m1 o s) := State.keptOut_scvtUp h

theorem execScvtUpLq2_keeps {s : State} {o : FScvt} (h : s.memOk) : KeptOut (execScvtUpLq2 o s) :=
  State.keptOut_runTarget h (fun _ => Cx.kept_bop h)

theorem State.keptOut_scvtDn {s : State} {o : FScvt} {f : Fmt} {block : Nat} (h : s.memOk) : KeptOut (s.scvtDn o f block) :=
  State.keptOut_runTarget h (fun _ => Cx.kept_bop h)

theorem execScvtDnE4m3_keeps {s : State} {o : FScvt} (h : s.memOk) : KeptOut (execScvtDnE4m3 o s) := State.keptOut_scvtDn h

theorem execScvtDnE5m2_keeps {s : State} {o : FScvt} (h : s.memOk) : KeptOut (execScvtDnE5m2 o s) := State.keptOut_scvtDn h

theorem execScvtDnE2m1_keeps {s : State} {o : FScvt} (h : s.memOk) : KeptOut (execScvtDnE2m1 o s) := State.keptOut_scvtDn h

theorem Cx.kept_cmpop {s : State} {c : Cx} {o : VOp} {md : Nat} {f : FEnv → LaneIn → Bool × Word} (h : s.memOk) :
    Kept (fun p => p.1.memOk) (c.cmpop s o md f) := by
  refine Kept.seq (Cx.kept_prep h) fun _ => ?_
  exact Kept.seq Cx.kept_snan fun _ => Kept.seq Cx.kept_flagCheck fun _ => Kept.ite h (Kept.done (State.memOk_result h))

theorem State.keptOut_vcmp {s : State} {o : FCmp} {f : Word → Word → Bool} (h : s.memOk) : KeptOut (s.vcmp o f) :=
  State.keptOut_runTarget h (fun _ => Cx.kept_cmpop h)

theorem execCmpEq_keeps {s : State} {o : FCmp} (h : s.memOk) : KeptOut (execCmpEq o s) := State.keptOut_vcmp h

theorem execCmpNe_keeps {s : State} {o : FCmp} (h : s.memOk) : KeptOut (execCmpNe o s) := State.keptOut_vcmp h

theorem execCmpLtI_keeps {s : State} {o : FCmp} (h : s.memOk) : KeptOut (execCmpLtI o s) := State.keptOut_vcmp h

theorem execCmpLeI_keeps {s : State} {o : FCmp} (h : s.memOk) : KeptOut (execCmpLeI o s) := State.keptOut_vcmp h

theorem execCmpLtN_keeps {s : State} {o : FCmp} (h : s.memOk) : KeptOut (execCmpLtN o s) := State.keptOut_vcmp h

theorem execCmpLeN_keeps {s : State} {o : FCmp} (h : s.memOk) : KeptOut (execCmpLeN o s) := State.keptOut_vcmp h

theorem State.keptOut_vfcmp {s : State} {o : FCmp} {inv : Bool} {p : FVal → FVal → Bool → Bool} (h : s.memOk) :
    KeptOut (s.vfcmp o inv p) :=
  State.keptOut_runTarget h (fun _ => Cx.kept_cmpop h)

theorem execCmpFeq_keeps {s : State} {o : FCmp} (h : s.memOk) : KeptOut (execCmpFeq o s) := State.keptOut_vfcmp h

theorem execCmpFne_keeps {s : State} {o : FCmp} (h : s.memOk) : KeptOut (execCmpFne o s) := State.keptOut_vfcmp h

theorem execCmpFlt_keeps {s : State} {o : FCmp} (h : s.memOk) : KeptOut (execCmpFlt o s) := State.keptOut_vfcmp h

theorem execCmpFle_keeps {s : State} {o : FCmp} (h : s.memOk) : KeptOut (execCmpFle o s) := State.keptOut_vfcmp h

theorem execCmpFuno_keeps {s : State} {o : FCmp} (h : s.memOk) : KeptOut (execCmpFuno o s) := State.keptOut_vfcmp h

theorem execCmpFord_keeps {s : State} {o : FCmp} (h : s.memOk) : KeptOut (execCmpFord o s) := State.keptOut_vfcmp h

theorem execCmpTstz_keeps {s : State} {o : FCmp} (h : s.memOk) : KeptOut (execCmpTstz o s) := State.keptOut_vcmp h

theorem execCmpTstnz_keeps {s : State} {o : FCmp} (h : s.memOk) : KeptOut (execCmpTstnz o s) := State.keptOut_vcmp h

theorem State.keptOut_vcmpS {s : State} {o : FCmp} {f : Word → Word → Bool} (h : s.memOk) : KeptOut (s.vcmpS o f) :=
  State.keptOut_runTarget h (fun _ => Cx.kept_cmpop h)

theorem execCmpEqS_keeps {s : State} {o : FCmp} (h : s.memOk) : KeptOut (execCmpEqS o s) := State.keptOut_vcmpS h

theorem execCmpNeS_keeps {s : State} {o : FCmp} (h : s.memOk) : KeptOut (execCmpNeS o s) := State.keptOut_vcmpS h

theorem execCmpLtIS_keeps {s : State} {o : FCmp} (h : s.memOk) : KeptOut (execCmpLtIS o s) := State.keptOut_vcmpS h

theorem execCmpLeIS_keeps {s : State} {o : FCmp} (h : s.memOk) : KeptOut (execCmpLeIS o s) := State.keptOut_vcmpS h

theorem execCmpLtNS_keeps {s : State} {o : FCmp} (h : s.memOk) : KeptOut (execCmpLtNS o s) := State.keptOut_vcmpS h

theorem execCmpLeNS_keeps {s : State} {o : FCmp} (h : s.memOk) : KeptOut (execCmpLeNS o s) := State.keptOut_vcmpS h

theorem State.keptOut_vfcmpS {s : State} {o : FCmp} {inv : Bool} {p : FVal → FVal → Bool → Bool} (h : s.memOk) :
    KeptOut (s.vfcmpS o inv p) :=
  State.keptOut_runTarget h (fun _ => Cx.kept_cmpop h)

theorem execCmpFeqS_keeps {s : State} {o : FCmp} (h : s.memOk) : KeptOut (execCmpFeqS o s) := State.keptOut_vfcmpS h

theorem execCmpFneS_keeps {s : State} {o : FCmp} (h : s.memOk) : KeptOut (execCmpFneS o s) := State.keptOut_vfcmpS h

theorem execCmpFltS_keeps {s : State} {o : FCmp} (h : s.memOk) : KeptOut (execCmpFltS o s) := State.keptOut_vfcmpS h

theorem execCmpFleS_keeps {s : State} {o : FCmp} (h : s.memOk) : KeptOut (execCmpFleS o s) := State.keptOut_vfcmpS h

theorem execCmpFunoS_keeps {s : State} {o : FCmp} (h : s.memOk) : KeptOut (execCmpFunoS o s) := State.keptOut_vfcmpS h

theorem execCmpFordS_keeps {s : State} {o : FCmp} (h : s.memOk) : KeptOut (execCmpFordS o s) := State.keptOut_vfcmpS h

theorem execCmpTstzS_keeps {s : State} {o : FCmp} (h : s.memOk) : KeptOut (execCmpTstzS o s) := State.keptOut_vcmpS h

theorem execCmpTstnzS_keeps {s : State} {o : FCmp} (h : s.memOk) : KeptOut (execCmpTstnzS o s) := State.keptOut_vcmpS h

theorem State.keptOut_maskOp {s : State} {sw : Bool} {d : Nat} {srcs : List Nat} {f : Cx → State → Lanes} (h : s.memOk) :
    KeptOut (s.maskOp sw d srcs f) :=
  State.keptOut_runTarget h fun _ => Kept.seq Cx.kept_noXp fun _ => Kept.seq (Cx.kept_touch h) fun _ =>
    State.memOk_ite h (State.memOk_result h)

theorem execMand_keeps {s : State} {o : FMask3} (h : s.memOk) : KeptOut (execMand o s) := State.keptOut_maskOp h

theorem execMor_keeps {s : State} {o : FMask3} (h : s.memOk) : KeptOut (execMor o s) := State.keptOut_maskOp h

theorem execMxor_keeps {s : State} {o : FMask3} (h : s.memOk) : KeptOut (execMxor o s) := State.keptOut_maskOp h

theorem execMandn_keeps {s : State} {o : FMask3} (h : s.memOk) : KeptOut (execMandn o s) := State.keptOut_maskOp h

theorem execMnot_keeps {s : State} {o : FMask2} (h : s.memOk) : KeptOut (execMnot o s) := State.keptOut_maskOp h

theorem State.keptOut_maskS {s : State} {sw : Bool} {a : Nat} {f : Bool → Lanes → Except Stop (List (Nat × Word))} (h : s.memOk)
    (hf : ∀ b v, Kept (fun _ => True) (f b v)) : KeptOut (s.maskS sw a f) :=
  State.keptOut_runTarget h fun _ => Kept.seq Cx.kept_noXp fun _ => Kept.seq (hf _ _) fun _ => Kept.seq (Cx.kept_touch h) fun _ =>
    State.memOk_result h

theorem execMpopc_keeps {s : State} {o : FMaskS} (h : s.memOk) : KeptOut (execMpopc o s) :=
  State.keptOut_maskS h (fun _ _ => Kept.pass)

theorem execMffs_keeps {s : State} {o : FMaskS} (h : s.memOk) : KeptOut (execMffs o s) :=
  State.keptOut_maskS h (fun _ _ => Kept.pass)

theorem execMfroms_keeps {s : State} {o : FMfroms} (h : s.memOk) : KeptOut (execMfroms o s) := by
  refine State.keptOut_runTarget h fun _ => ?_
  refine Kept.seq Cx.kept_noXp fun _ => ?_
  exact Kept.ite trivial (Kept.seq (Cx.kept_touch h) fun _ => Kept.done (State.memOk_ite h (State.memOk_result h)))

theorem execMtos_keeps {s : State} {o : FMaskS} (h : s.memOk) : KeptOut (execMtos o s) :=
  State.keptOut_maskS h (fun _ _ => Kept.ite (Kept.ite trivial Kept.pass) Kept.pass)

theorem Cx.kept_xop {s : State} {c : Cx} {o : VOp} {reads : Nat → Lanes → List LaneIn → Lanes} {f : FEnv → Nat → Lanes → (Nat →
    Word) → LaneIn → LaneOut} (h : s.memOk) : Kept (fun p => p.1.memOk) (c.xop s o reads f) :=
  Kept.seq (Cx.kept_prep h) fun _ => Kept.seq (Cx.kept_touch h) fun _ => Kept.seq Cx.kept_snan fun _ => Cx.kept_finish h

theorem State.keptOut_shfl {s : State} {o : FDab} {src : Nat → Nat → ℤ} (h : s.memOk) : KeptOut (s.shfl o src) :=
  State.keptOut_runTarget h (fun _ => Cx.kept_xop h)

theorem execShflIdx_keeps {s : State} {o : FDab} (h : s.memOk) : KeptOut (execShflIdx o s) := State.keptOut_shfl h

theorem execShflUp_keeps {s : State} {o : FDab} (h : s.memOk) : KeptOut (execShflUp o s) := State.keptOut_shfl h

theorem execShflDn_keeps {s : State} {o : FDab} (h : s.memOk) : KeptOut (execShflDn o s) := State.keptOut_shfl h

theorem execShflXor_keeps {s : State} {o : FDab} (h : s.memOk) : KeptOut (execShflXor o s) := State.keptOut_shfl h

theorem State.keptOut_tileOp {s : State} {o : FDa} {lat : Nat} {f : Nat → Lanes → (Nat → Word) → LaneIn → Word} (h : s.memOk) :
    KeptOut (s.tileOp o lat f) :=
  State.keptOut_runTarget h (fun _ => Cx.kept_xop h)

theorem execVoteAny_keeps {s : State} {o : FDa} (h : s.memOk) : KeptOut (execVoteAny o s) := State.keptOut_tileOp h

theorem execVoteAll_keeps {s : State} {o : FDa} (h : s.memOk) : KeptOut (execVoteAll o s) := State.keptOut_tileOp h

theorem State.keptOut_tileMask {s : State} {o : FDa} {f : Nat → Lanes → (Nat → Word) → LaneIn → Lanes} (h : s.memOk) :
    KeptOut (s.tileMask o f) :=
  State.keptOut_runTarget h (fun _ => Kept.ite trivial (Cx.kept_xop h))

theorem execBallot_keeps {s : State} {o : FDa} (h : s.memOk) : KeptOut (execBallot o s) := State.keptOut_tileMask h

theorem execMatch_keeps {s : State} {o : FDa} (h : s.memOk) : KeptOut (execMatch o s) := State.keptOut_tileMask h

theorem execRedxAddI_keeps {s : State} {o : FDa} (h : s.memOk) : KeptOut (execRedxAddI o s) := State.keptOut_tileOp h

theorem State.keptOut_tileSum {s : State} {o : FDa} {f : FEnv → Nat → (Nat → Nat) → Nat → FRes} (h : s.memOk) :
    KeptOut (s.tileSum o f) :=
  State.keptOut_runTarget h (fun _ => Cx.kept_xop h)

theorem execRedxAddF_keeps {s : State} {o : FDa} (h : s.memOk) : KeptOut (execRedxAddF o s) := State.keptOut_tileSum h

theorem execRedxMinI_keeps {s : State} {o : FDa} (h : s.memOk) : KeptOut (execRedxMinI o s) := State.keptOut_tileOp h

theorem execRedxMaxI_keeps {s : State} {o : FDa} (h : s.memOk) : KeptOut (execRedxMaxI o s) := State.keptOut_tileOp h

theorem execScanAddI_keeps {s : State} {o : FDa} (h : s.memOk) : KeptOut (execScanAddI o s) := State.keptOut_tileOp h

theorem execScanAddF_keeps {s : State} {o : FDa} (h : s.memOk) : KeptOut (execScanAddF o s) := State.keptOut_tileSum h

theorem execBcast_keeps {s : State} {o : FDa} (h : s.memOk) : KeptOut (execBcast o s) := State.keptOut_tileOp h

theorem Cx.kept_sop {s : State} {c : Cx} {lat : Nat} {srcs : List Nat} {outs : List (Nat × Word)} (h : s.memOk) :
    Kept (fun p => p.1.memOk) (c.sop s lat srcs outs) :=
  Kept.seq Cx.kept_noXp fun _ => Kept.seq (Cx.kept_touch h) fun _ => Kept.done (State.memOk_result h)

theorem State.keptOut_salu {s : State} {o : FDab} {f : Word → Word → Word} (h : s.memOk) : KeptOut (s.salu o f) :=
  State.keptOut_runTarget h (fun _ => Cx.kept_sop h)

theorem execSadd_keeps {s : State} {o : FDab} (h : s.memOk) : KeptOut (execSadd o s) := State.keptOut_salu h

theorem execSsub_keeps {s : State} {o : FDab} (h : s.memOk) : KeptOut (execSsub o s) := State.keptOut_salu h

theorem execSmul_keeps {s : State} {o : FDab} (h : s.memOk) : KeptOut (execSmul o s) := State.keptOut_salu h

theorem execSand_keeps {s : State} {o : FDab} (h : s.memOk) : KeptOut (execSand o s) := State.keptOut_salu h

theorem execSor_keeps {s : State} {o : FDab} (h : s.memOk) : KeptOut (execSor o s) := State.keptOut_salu h

theorem execSxor_keeps {s : State} {o : FDab} (h : s.memOk) : KeptOut (execSxor o s) := State.keptOut_salu h

theorem execSshl_keeps {s : State} {o : FDab} (h : s.memOk) : KeptOut (execSshl o s) := State.keptOut_salu h

theorem execSshr_keeps {s : State} {o : FDab} (h : s.memOk) : KeptOut (execSshr o s) := State.keptOut_salu h

theorem execSsar_keeps {s : State} {o : FDab} (h : s.memOk) : KeptOut (execSsar o s) := State.keptOut_salu h

theorem execSminI_keeps {s : State} {o : FDab} (h : s.memOk) : KeptOut (execSminI o s) := State.keptOut_salu h

theorem execSmaxI_keeps {s : State} {o : FDab} (h : s.memOk) : KeptOut (execSmaxI o s) := State.keptOut_salu h

theorem execSminN_keeps {s : State} {o : FDab} (h : s.memOk) : KeptOut (execSminN o s) := State.keptOut_salu h

theorem execSmaxN_keeps {s : State} {o : FDab} (h : s.memOk) : KeptOut (execSmaxN o s) := State.keptOut_salu h

theorem execSaddD_keeps {s : State} {o : FDab} (h : s.memOk) : KeptOut (execSaddD o s) :=
  State.keptOut_runTarget h (fun _ => Cx.kept_sop h)

theorem execScmp_keeps {s : State} {o : FDab} (h : s.memOk) : KeptOut (execScmp o s) := State.keptOut_salu h

theorem execSsel_keeps {s : State} {o : FDab} (h : s.memOk) : KeptOut (execSsel o s) :=
  State.keptOut_runTarget h (fun _ => Cx.kept_sop h)

theorem State.keptOut_salui {s : State} {o : FImm} {f : Word → Word → Word} (h : s.memOk) : KeptOut (s.salui o f) :=
  State.keptOut_runTarget h (fun _ => Cx.kept_sop h)

theorem execSaddi_keeps {s : State} {o : FImm} (h : s.memOk) : KeptOut (execSaddi o s) := State.keptOut_salui h

theorem execSmovi_keeps {s : State} {o : FMovi} (h : s.memOk) : KeptOut (execSmovi o s) :=
  State.keptOut_runTarget h (fun _ => Cx.kept_sop h)

theorem execSandi_keeps {s : State} {o : FImm} (h : s.memOk) : KeptOut (execSandi o s) := State.keptOut_salui h

theorem execSshli_keeps {s : State} {o : FImm} (h : s.memOk) : KeptOut (execSshli o s) := State.keptOut_salui h

theorem execMovv_keeps {s : State} {o : FDa} (h : s.memOk) : KeptOut (execMovv o s) :=
  State.keptOut_runTarget h (fun _ => Cx.kept_vop h)

theorem execMovVs_keeps {s : State} {o : FDa} (h : s.memOk) : KeptOut (execMovVs o s) :=
  State.keptOut_runTarget h (fun _ => Cx.kept_vop h)

theorem execMovSv_keeps {s : State} {o : FDab} (h : s.memOk) : KeptOut (execMovSv o s) := by
  refine State.keptOut_runTarget h fun _ => ?_
  refine Kept.ite trivial ?_
  refine Kept.seq (Cx.kept_touch h) fun _ => ?_
  exact Kept.seq Cx.kept_resolve fun _ => Kept.seq (Cx.kept_touch h) fun _ => Kept.done (State.memOk_result h)

theorem State.memOk_latch {s : State} {c : Cx} {n : Nat} (h : s.memOk) : (s.latch c n).memOk := State.memOk_ite h h

theorem execMfc_keeps {s : State} {o : FMfc} (h : s.memOk) : KeptOut (execMfc o s) := by
  refine State.keptOut_runTarget h fun _ => ?_
  exact Kept.ite trivial (Kept.seq (Cx.kept_touch h) fun _ => Kept.done (State.memOk_result (State.memOk_latch h)))

theorem Cx.kept_mtcV {s : State} {c : Cx} {n a : Nat} (h : s.memOk) : Kept (fun p => p.1.memOk) (c.mtcV s n a) := by
  refine Kept.seq (Cx.kept_prep h) fun _ => ?_
  exact Kept.ite (Kept.done h) (Kept.ite (Kept.done (State.memOk_ite h (State.memOk_result h))) trivial)

theorem Cx.kept_mtcS {s : State} {c : Cx} {n a : Nat} (h : s.memOk) : Kept (fun p => p.1.memOk) (c.mtcS s n a) := by
  unfold Cx.mtcS
  refine Kept.ite trivial ?_
  refine Kept.seq (Cx.kept_touch h) fun _ => ?_
  split
  · exact Kept.ite (Kept.done (State.memOk_result h)) trivial
  · exact Kept.ite (Kept.done (State.memOk_result h)) trivial
  · exact Kept.ite trivial (Kept.ite trivial (Kept.done (State.memOk_result h)))
  · exact Kept.ite trivial (Kept.done (State.memOk_result h))
  · exact Kept.ite trivial (Kept.done (State.memOk_result h))
  · exact trivial

theorem execMtc_keeps {s : State} {o : FMtc} (h : s.memOk) : KeptOut (execMtc o s) :=
  State.keptOut_runTarget h (fun _ => Kept.ite (Cx.kept_mtcV h) (Cx.kept_mtcS h))

theorem execMfcv_keeps {s : State} {o : FMfc} (h : s.memOk) : KeptOut (execMfcv o s) :=
  State.keptOut_runTarget h (fun _ => Cx.kept_vop (State.memOk_latch h))

theorem Cx.kept_dynRegs {s : State} {c : Cx} {p : Prep} (_ : s.memOk) : Kept (fun _ => True) (c.dynRegs s p) := by
  unfold Cx.dynRegs
  dsimp only
  split
  · exact Kept.pass
  · exact trivial

theorem execVrdi_keeps {s : State} {o : FDa} (h : s.memOk) : KeptOut (execVrdi o s) := by
  refine State.keptOut_runTarget h fun _ => ?_
  refine Kept.seq (Cx.kept_prep h) fun _ => ?_
  exact Kept.seq (Cx.kept_dynRegs h) fun _ => Kept.seq (Cx.kept_touch h) fun _ => Cx.kept_finish h

theorem execVwri_keeps {s : State} {o : FAb} (h : s.memOk) : KeptOut (execVwri o s) := by
  refine State.keptOut_runTarget h fun _ => ?_
  refine Kept.seq (Cx.kept_prep h) fun _ => ?_
  refine Kept.seq (Cx.kept_dynRegs h) fun _ => ?_
  exact Kept.seq (Cx.kept_touch h) fun _ => Kept.seq (Cx.kept_bWrites h) fun _ => Kept.done (State.memOk_result h)

theorem execXset_keeps {s : State} {o : FXset} (h : s.memOk) : KeptOut (execXset o s) := by
  refine State.keptOut_runTarget h fun _ => ?_
  exact Kept.ite trivial (Kept.seq (Cx.kept_touch h) fun _ => Kept.ite trivial (Kept.done (State.memOk_result h)))

end Sys2Proof.Machine
end

section
/-! SUPPORT. The words that reach memory, keys, ports, copies, engines and the system, and what they are made of. -/

namespace Sys2Proof.Machine

open Sys2Proof

theorem State.memOk_await {s : State} {r : WalkReq} (h : s.memOk) : (s.await r).memOk := State.memOk_ite h h

theorem State.memOk_reissue {s : State} {u : Nat} (h : s.memOk) : (s.reissue u).memOk := h

theorem Cx.memOk_awaitPages {s : State} {c : Cx} {a : Access} {ls : List (Nat × Addr)} (h : s.memOk) :
    (c.awaitPages s a ls).memOk :=
  State.memOk_fold (fun _ _ h1 => State.memOk_await h1) (State.memOk_reissue h)

theorem Cx.kept_check {s : State} {c : Cx} {a : Access} {kp n : Nat} {ls : List (Nat × Addr × LaneR)} (h : s.memOk) :
    Kept (fun _ => True) (c.check s a kp n ls) := by
  unfold Cx.check
  refine Kept.ite trivial ?_
  split
  · exact trivial
  · split
    · exact trivial
    · exact trivial
    · exact trivial
    · exact trivial
    · split
      · exact trivial
      · split
        · exact Kept.ite h Kept.pass
        · exact Cx.memOk_awaitPages h

theorem Cx.kept_consume {s : State} {c : Cx} {k : Nat} (h : s.memOk) : Kept (fun p => p.2.memOk) (c.consume s k) := by
  unfold Cx.consume
  split
  · exact Kept.done h
  · exact h

theorem Cx.kept_produce {s : State} {c : Cx} {k : Nat} {claim : Bool} (h : s.memOk) :
    Kept (fun p => p.2.memOk) (c.produce s k claim) :=
  Kept.ite trivial (Kept.ite h (Kept.done h))

theorem Cx.kept_keys {s : State} {c : Cx} {kc kp : Nat} (h : s.memOk) : Kept (fun p => p.2.2.memOk) (c.keys s kc kp) := by
  unfold Cx.keys
  refine Kept.ite trivial (Kept.bind (Q := fun p : _ × State => p.2.memOk) (Cx.kept_consume h) fun ⟨d, s1⟩ h1 => ?_)
  have hp : Kept (fun p : Nat × State => p.2.memOk) (c.produce s1 kp false) := Cx.kept_produce h1
  dsimp only
  split
  next e => exact Kept.done (Kept.of_ok (P := fun p : Nat × State => p.2.memOk) e hp)
  · exact h
  next e => exact Kept.of_error e hp

theorem State.memOk_modQuad {s : State} {q : Nat} {f : Quad → Quad} (h : s.memOk) : (s.modQuad q f).memOk := h

theorem State.memOk_fillTlb {s : State} {core ctx : Nat} {va : Addr} {a1 : Walk} (h : s.memOk) :
    (s.fillTlb core ctx va a1).memOk := by
  unfold State.fillTlb
  split
  · exact State.memOk_ite h (State.memOk_ite (State.memOk_ite h h) (State.memOk_modQuad (State.memOk_ite h h)))
  · exact h

theorem State.memOk_countRead {s : State} {die pa : Nat} (h : s.memOk) : (s.countRead die pa).memOk := State.memOk_ite h h

theorem State.memOk_scan {s : State} {die pa n : Nat} (h : s.memOk) : (s.scan die pa n).memOk :=
  State.memOk_fold (fun _ _ h1 => State.memOk_homeRead h1 _ _ _) h

theorem State.memOk_walked {s : State} {die ctx : Nat} {va : Addr} (h : s.memOk) : (s.walked die ctx va).memOk :=
  State.memOk_fold (fun _ _ h1 => State.memOk_scan h1) h

theorem State.memOk_learn {s : State} {core ctx : Nat} {va : Addr} (h : s.memOk) : (s.learn core ctx va).memOk :=
  State.memOk_ite (State.memOk_fillTlb (State.memOk_walked h)) (State.memOk_fillTlb h)

theorem State.memOk_roomFor {s : State} {core ctx : Nat} (h : s.memOk) : (s.roomFor core ctx).memOk := by
  unfold State.roomFor
  split
  · exact h
  · exact State.memOk_ite h (State.memOk_ite h h)

theorem State.memOk_extend {s : State} {core ctx : Nat} {l : List Word} {f : Seg → Seg} (h : s.memOk) :
    (s.extend core ctx l f).memOk := by
  unfold State.extend
  split
  · exact h
  · exact State.memOk_roomFor h

theorem State.memOk_logInput {s : State} {core ctx kind slot : Nat} {payload : List Word} (h : s.memOk) :
    (s.logInput core ctx kind slot payload).memOk := by
  unfold State.logInput
  split
  · exact h
  · exact State.memOk_extend h

theorem State.memOk_logWarp {s : State} {uid kind : Nat} {payload : List Word} (h : s.memOk) :
    (s.logWarp uid kind payload).memOk := by
  unfold State.logWarp
  split
  · exact h
  · exact State.memOk_ite (State.memOk_logInput h) h

theorem State.memOk_addReport {s : State} {u : Nat} {r : Report} (h : s.memOk) : (s.addReport u r).memOk :=
  State.memOk_modWarp (State.memOk_logWarp h)

theorem State.memOk_guardReport {s : State} {uid lane addr : Nat} (h : s.memOk) : (s.guardReport uid lane addr).memOk :=
  State.memOk_ite h (State.memOk_ite (State.memOk_bumpHdr h) (State.memOk_addReport (State.memOk_record h)))

theorem Cx.memOk_settleLanes {s : State} {c : Cx} {global : Bool} {oks : List (Nat × Addr × Target)} (h : s.memOk) :
    (c.settleLanes s global oks).memOk := by
  unfold Cx.settleLanes
  split
  · split
    · exact State.memOk_guardReport (State.memOk_fold (fun _ _ h1 => State.memOk_learn h1) h)
    · exact State.memOk_fold (fun _ _ h2 => State.memOk_learn h2) h
  · split
    · exact State.memOk_guardReport h
    · exact h

theorem State.memOk_putOp {s : State} {id : Nat} {o : Op} (h : s.memOk) : (s.putOp id o).memOk := h

theorem State.memOk_outward {s : State} {core ctx : Nat} {l : List Nat} (h : s.memOk) : (s.outward core ctx l).memOk := by
  unfold State.outward
  split
  · exact h
  · split
    · exact h
    · exact State.memOk_extend h

theorem State.memOk_sends {s : State} {o : Op} (h : s.memOk) : (s.sends o).memOk := State.memOk_ite h (State.memOk_outward h)

theorem State.memOk_storeThrough {s : State} {o : Op} (h : s.memOk) : (s.storeThrough o).memOk := by
  unfold State.storeThrough
  refine State.memOk_ite h ?_
  refine State.memOk_fold (fun _ _ h1 => ?_) h
  split
  · exact State.memOk_modCore h1
  · exact h1

theorem State.memOk_enterOp {s : State} {id : Nat} (h : s.memOk) : (s.enterOp id).memOk := by
  unfold State.enterOp
  split
  · exact h
  · exact State.memOk_storeThrough h

theorem State.memOk_enterNear {s : State} {id : Nat} (h : s.memOk) : (s.enterNear id).memOk := by
  unfold State.enterNear
  split
  · exact h
  · exact State.memOk_ite (State.memOk_enterOp h) h

theorem State.memOk_toHost {s : State} {a1 : Target} {a2 : Nat} (h : s.memOk) : (s.toHost a1 a2).memOk := by
  unfold State.toHost
  split
  · exact h
  · exact h
  · exact h

theorem State.memOk_tryMember {s : State} {id : Nat} (h : s.memOk) : (s.tryMember id).memOk := by
  unfold State.tryMember
  split
  · exact h
  · split
    · exact h
    · exact State.memOk_ite (State.memOk_post (State.memOk_putOp (State.memOk_ite (State.memOk_fold (fun _ _ h1 =>
        State.memOk_toHost h1) h) h))) h

theorem State.kept_releaseOp {s : State} {id : Nat} (h : s.memOk) : OptKept State.memOk (s.releaseOp id) := by
  unfold State.releaseOp
  split
  · exact OptKept.some h
  · refine OptKept.ite (OptKept.some h) ?_
    exact OptKept.ite (OptKept.some (State.memOk_tryMember (State.memOk_enterOp h))) OptKept.none

theorem State.memOk_postAll {s : State} {l : List Ev} (h : s.memOk) : (s.postAll l).memOk := h

theorem Cx.kept_launchOp {s : State} {c : Cx} {o : Op} {names : List RegName} (h : s.memOk) :
    Kept State.memOk (c.launchOp s o names) := by
  unfold Cx.launchOp
  extract_lets held r q s1 o1 s2 s3
  refine Kept.ite h (Kept.ite h (Kept.ite h (Kept.ite ?_ ?_)))
  · refine Kept.done ?_
    split
    · exact State.memOk_post h
    · exact h
  · have h2 : s2.memOk := State.memOk_putOp (State.memOk_sends (State.memOk_ite h h))
    clear_value s2
    have h3 : s3.memOk := by
      refine State.memOk_ite (State.memOk_enterNear h2) ?_
      split
      next e => exact OptKept.get (P := State.memOk) e (OptKept.ite (State.kept_releaseOp h2) OptKept.none)
      · exact State.memOk_post h2
    exact Kept.done (State.memOk_postAll h3)

theorem Cx.kept_load {s : State} {c : Cx} {o : FMem} {near signed : Bool} {n : Nat} (h : s.memOk) :
    Kept (fun p => p.1.memOk) (c.load s o near signed n) := by
  refine Kept.seq Cx.kept_noXp fun _ => ?_
  refine Kept.seq Cx.kept_resolve fun _ => ?_
  refine Kept.seq Cx.kept_resolve fun _ => ?_
  refine Kept.seq (Cx.kept_touch h) fun _ => ?_
  refine Kept.seq (Cx.kept_bWrites h) fun _ => ?_
  refine Kept.seq (Cx.kept_check h) fun _ => ?_
  refine Kept.bind (Q := fun p : _ × _ × State => p.2.2.memOk) (Cx.kept_keys h) fun ⟨_, _, _⟩ h1 => ?_
  exact Kept.bind (Q := State.memOk) (Kept.undo h (Cx.kept_launchOp (Cx.memOk_settleLanes h1))) fun _ h2 => Kept.done h2

theorem execLdB8_keeps {s : State} {o : FMem} (h : s.memOk) : KeptOut (execLdB8 o s) :=
  State.keptOut_runTarget h (fun _ => Cx.kept_load h)

theorem execLdB16_keeps {s : State} {o : FMem} (h : s.memOk) : KeptOut (execLdB16 o s) :=
  State.keptOut_runTarget h (fun _ => Cx.kept_load h)

theorem execLdB32_keeps {s : State} {o : FMem} (h : s.memOk) : KeptOut (execLdB32 o s) :=
  State.keptOut_runTarget h (fun _ => Cx.kept_load h)

theorem execLdB64_keeps {s : State} {o : FMem} (h : s.memOk) : KeptOut (execLdB64 o s) :=
  State.keptOut_runTarget h (fun _ => Cx.kept_load h)

theorem execLdB128_keeps {s : State} {o : FMem} (h : s.memOk) : KeptOut (execLdB128 o s) :=
  State.keptOut_runTarget h (fun _ => Cx.kept_load h)

theorem execLdI8_keeps {s : State} {o : FMem} (h : s.memOk) : KeptOut (execLdI8 o s) :=
  State.keptOut_runTarget h (fun _ => Cx.kept_load h)

theorem execLdI16_keeps {s : State} {o : FMem} (h : s.memOk) : KeptOut (execLdI16 o s) :=
  State.keptOut_runTarget h (fun _ => Cx.kept_load h)

theorem Cx.kept_prefetch {s : State} {c : Cx} {o : FPref} (h : s.memOk) : Kept (fun p => p.1.memOk) (c.prefetch s o) :=
  Kept.seq Cx.kept_noXp fun _ => Kept.bind (Q := State.memOk) (Cx.kept_launchOp h) fun _ h1 => Kept.done h1

theorem execPref_keeps {s : State} {o : FPref} (h : s.memOk) : KeptOut (execPref o s) :=
  State.keptOut_runTarget h (fun _ => Cx.kept_prefetch h)

theorem Cx.kept_store {s : State} {c : Cx} {o : FMem} {near : Bool} {n : Nat} (h : s.memOk) :
    Kept (fun p => p.1.memOk) (c.store s o near n) := by
  refine Kept.seq Cx.kept_noXp fun _ => ?_
  refine Kept.seq Cx.kept_resolve fun _ => ?_
  refine Kept.seq Cx.kept_resolve fun _ => ?_
  refine Kept.seq (Cx.kept_touch h) fun _ => ?_
  refine Kept.seq (Cx.kept_check h) fun _ => ?_
  refine Kept.bind (Q := fun p : _ × _ × State => p.2.2.memOk) (Cx.kept_keys h) fun ⟨_, _, _⟩ h1 => ?_
  exact Kept.bind (Q := State.memOk) (Kept.undo h (Cx.kept_launchOp (Cx.memOk_settleLanes h1))) fun _ h2 => Kept.done h2

theorem execStB8_keeps {s : State} {o : FMem} (h : s.memOk) : KeptOut (execStB8 o s) :=
  State.keptOut_runTarget h (fun _ => Cx.kept_store h)

theorem execStB16_keeps {s : State} {o : FMem} (h : s.memOk) : KeptOut (execStB16 o s) :=
  State.keptOut_runTarget h (fun _ => Cx.kept_store h)

theorem execStB32_keeps {s : State} {o : FMem} (h : s.memOk) : KeptOut (execStB32 o s) :=
  State.keptOut_runTarget h (fun _ => Cx.kept_store h)

theorem execStB64_keeps {s : State} {o : FMem} (h : s.memOk) : KeptOut (execStB64 o s) :=
  State.keptOut_runTarget h (fun _ => Cx.kept_store h)

theorem execStB128_keeps {s : State} {o : FMem} (h : s.memOk) : KeptOut (execStB128 o s) :=
  State.keptOut_runTarget h (fun _ => Cx.kept_store h)

theorem execLdnB8_keeps {s : State} {o : FMem} (h : s.memOk) : KeptOut (execLdnB8 o s) :=
  State.keptOut_runTarget h (fun _ => Cx.kept_load h)

theorem execLdnB16_keeps {s : State} {o : FMem} (h : s.memOk) : KeptOut (execLdnB16 o s) :=
  State.keptOut_runTarget h (fun _ => Cx.kept_load h)

theorem execLdnB32_keeps {s : State} {o : FMem} (h : s.memOk) : KeptOut (execLdnB32 o s) :=
  State.keptOut_runTarget h (fun _ => Cx.kept_load h)

theorem execLdnB64_keeps {s : State} {o : FMem} (h : s.memOk) : KeptOut (execLdnB64 o s) :=
  State.keptOut_runTarget h (fun _ => Cx.kept_load h)

theorem execLdnB128_keeps {s : State} {o : FMem} (h : s.memOk) : KeptOut (execLdnB128 o s) :=
  State.keptOut_runTarget h (fun _ => Cx.kept_load h)

theorem execLdnI8_keeps {s : State} {o : FMem} (h : s.memOk) : KeptOut (execLdnI8 o s) :=
  State.keptOut_runTarget h (fun _ => Cx.kept_load h)

theorem execLdnI16_keeps {s : State} {o : FMem} (h : s.memOk) : KeptOut (execLdnI16 o s) :=
  State.keptOut_runTarget h (fun _ => Cx.kept_load h)

theorem Cx.kept_presence {s : State} {c : Cx} {o : FMem} (h : s.memOk) : Kept (fun p => p.1.memOk) (c.presence s o) := by
  unfold Cx.presence
  refine Kept.seq Cx.kept_noXp fun _ => ?_
  refine Kept.seq Cx.kept_resolve fun _ => ?_
  refine Kept.seq Cx.kept_resolve fun _ => ?_
  refine Kept.seq (Cx.kept_touch h) fun _ => ?_
  refine Kept.seq (Cx.kept_bWrites h) fun _ => ?_
  refine Kept.ite trivial ?_
  split
  · exact trivial
  · refine Kept.bind (Q := fun p : _ × _ × State => p.2.2.memOk) (Cx.kept_keys h) fun ⟨_, _, _⟩ h1 => ?_
    exact Kept.bind (Q := State.memOk) (Kept.undo h (Cx.kept_launchOp h1)) fun _ h2 => Kept.done h2

theorem execLdnPres_keeps {s : State} {o : FMem} (h : s.memOk) : KeptOut (execLdnPres o s) :=
  State.keptOut_runTarget h (fun _ => Cx.kept_presence h)

theorem execStnB8_keeps {s : State} {o : FMem} (h : s.memOk) : KeptOut (execStnB8 o s) :=
  State.keptOut_runTarget h (fun _ => Cx.kept_store h)

theorem execStnB16_keeps {s : State} {o : FMem} (h : s.memOk) : KeptOut (execStnB16 o s) :=
  State.keptOut_runTarget h (fun _ => Cx.kept_store h)

theorem execStnB32_keeps {s : State} {o : FMem} (h : s.memOk) : KeptOut (execStnB32 o s) :=
  State.keptOut_runTarget h (fun _ => Cx.kept_store h)

theorem execStnB64_keeps {s : State} {o : FMem} (h : s.memOk) : KeptOut (execStnB64 o s) :=
  State.keptOut_runTarget h (fun _ => Cx.kept_store h)

theorem execStnB128_keeps {s : State} {o : FMem} (h : s.memOk) : KeptOut (execStnB128 o s) :=
  State.keptOut_runTarget h (fun _ => Cx.kept_store h)

theorem Cx.kept_atomic {s : State} {c : Cx} {o : FDab} {near : Bool} {code n kb : Nat} (h : s.memOk) :
    Kept (fun p => p.1.memOk) (c.atomic s o near code n kb) := by
  refine Kept.seq Cx.kept_noXp fun _ => ?_
  refine Kept.seq Cx.kept_resolve fun _ => ?_
  refine Kept.seq Cx.kept_resolve fun _ => ?_
  refine Kept.seq Cx.kept_resolve fun _ => ?_
  refine Kept.seq (Cx.kept_touch h) fun _ => ?_
  refine Kept.seq (Cx.kept_bWrites h) fun _ => ?_
  refine Kept.seq (Cx.kept_check h) fun _ => ?_
  refine Kept.bind (Q := fun p : _ × _ × State => p.2.2.memOk) (Cx.kept_keys h) fun ⟨_, _, _⟩ h1 => ?_
  exact Kept.bind (Q := State.memOk) (Kept.undo h (Cx.kept_launchOp (Cx.memOk_settleLanes h1))) fun _ h2 => Kept.done h2

theorem execAtomAddI32_keeps {s : State} {o : FDab} (h : s.memOk) : KeptOut (execAtomAddI32 o s) :=
  State.keptOut_runTarget h (fun _ => Cx.kept_atomic h)

theorem execAtomMinI32_keeps {s : State} {o : FDab} (h : s.memOk) : KeptOut (execAtomMinI32 o s) :=
  State.keptOut_runTarget h (fun _ => Cx.kept_atomic h)

theorem execAtomMaxI32_keeps {s : State} {o : FDab} (h : s.memOk) : KeptOut (execAtomMaxI32 o s) :=
  State.keptOut_runTarget h (fun _ => Cx.kept_atomic h)

theorem execAtomMinN32_keeps {s : State} {o : FDab} (h : s.memOk) : KeptOut (execAtomMinN32 o s) :=
  State.keptOut_runTarget h (fun _ => Cx.kept_atomic h)

theorem execAtomMaxN32_keeps {s : State} {o : FDab} (h : s.memOk) : KeptOut (execAtomMaxN32 o s) :=
  State.keptOut_runTarget h (fun _ => Cx.kept_atomic h)

theorem execAtomAnd_keeps {s : State} {o : FDab} (h : s.memOk) : KeptOut (execAtomAnd o s) :=
  State.keptOut_runTarget h (fun _ => Cx.kept_atomic h)

theorem execAtomOr_keeps {s : State} {o : FDab} (h : s.memOk) : KeptOut (execAtomOr o s) :=
  State.keptOut_runTarget h (fun _ => Cx.kept_atomic h)

theorem execAtomXor_keeps {s : State} {o : FDab} (h : s.memOk) : KeptOut (execAtomXor o s) :=
  State.keptOut_runTarget h (fun _ => Cx.kept_atomic h)

theorem execAtomXchg_keeps {s : State} {o : FDab} (h : s.memOk) : KeptOut (execAtomXchg o s) :=
  State.keptOut_runTarget h (fun _ => Cx.kept_atomic h)

theorem execAtomCas_keeps {s : State} {o : FDab} (h : s.memOk) : KeptOut (execAtomCas o s) :=
  State.keptOut_runTarget h (fun _ => Cx.kept_atomic h)

theorem execAtomAddF32_keeps {s : State} {o : FDab} (h : s.memOk) : KeptOut (execAtomAddF32 o s) :=
  State.keptOut_runTarget h (fun _ => Cx.kept_atomic h)

theorem execAtomAddBf16x2_keeps {s : State} {o : FDab} (h : s.memOk) : KeptOut (execAtomAddBf16x2 o s) :=
  State.keptOut_runTarget h (fun _ => Cx.kept_atomic h)

theorem execAtomIncw_keeps {s : State} {o : FDab} (h : s.memOk) : KeptOut (execAtomIncw o s) :=
  State.keptOut_runTarget h (fun _ => Cx.kept_atomic h)

theorem execAtomAddI64_keeps {s : State} {o : FDab} (h : s.memOk) : KeptOut (execAtomAddI64 o s) :=
  State.keptOut_runTarget h (fun _ => Cx.kept_atomic h)

theorem execAtomCas64_keeps {s : State} {o : FDab} (h : s.memOk) : KeptOut (execAtomCas64 o s) :=
  State.keptOut_runTarget h (fun _ => Cx.kept_atomic h)

theorem execAtomXchg64_keeps {s : State} {o : FDab} (h : s.memOk) : KeptOut (execAtomXchg64 o s) :=
  State.keptOut_runTarget h (fun _ => Cx.kept_atomic h)

theorem execAtomnAddI32_keeps {s : State} {o : FDab} (h : s.memOk) : KeptOut (execAtomnAddI32 o s) :=
  State.keptOut_runTarget h (fun _ => Cx.kept_atomic h)

theorem execAtomnMinI32_keeps {s : State} {o : FDab} (h : s.memOk) : KeptOut (execAtomnMinI32 o s) :=
  State.keptOut_runTarget h (fun _ => Cx.kept_atomic h)

theorem execAtomnMaxI32_keeps {s : State} {o : FDab} (h : s.memOk) : KeptOut (execAtomnMaxI32 o s) :=
  State.keptOut_runTarget h (fun _ => Cx.kept_atomic h)

theorem execAtomnMinN32_keeps {s : State} {o : FDab} (h : s.memOk) : KeptOut (execAtomnMinN32 o s) :=
  State.keptOut_runTarget h (fun _ => Cx.kept_atomic h)

theorem execAtomnMaxN32_keeps {s : State} {o : FDab} (h : s.memOk) : KeptOut (execAtomnMaxN32 o s) :=
  State.keptOut_runTarget h (fun _ => Cx.kept_atomic h)

theorem execAtomnAnd_keeps {s : State} {o : FDab} (h : s.memOk) : KeptOut (execAtomnAnd o s) :=
  State.keptOut_runTarget h (fun _ => Cx.kept_atomic h)

theorem execAtomnOr_keeps {s : State} {o : FDab} (h : s.memOk) : KeptOut (execAtomnOr o s) :=
  State.keptOut_runTarget h (fun _ => Cx.kept_atomic h)

theorem execAtomnXor_keeps {s : State} {o : FDab} (h : s.memOk) : KeptOut (execAtomnXor o s) :=
  State.keptOut_runTarget h (fun _ => Cx.kept_atomic h)

theorem execAtomnXchg_keeps {s : State} {o : FDab} (h : s.memOk) : KeptOut (execAtomnXchg o s) :=
  State.keptOut_runTarget h (fun _ => Cx.kept_atomic h)

theorem execAtomnCas_keeps {s : State} {o : FDab} (h : s.memOk) : KeptOut (execAtomnCas o s) :=
  State.keptOut_runTarget h (fun _ => Cx.kept_atomic h)

theorem execAtomnAddF32_keeps {s : State} {o : FDab} (h : s.memOk) : KeptOut (execAtomnAddF32 o s) :=
  State.keptOut_runTarget h (fun _ => Cx.kept_atomic h)

theorem execAtomnAddBf16x2_keeps {s : State} {o : FDab} (h : s.memOk) : KeptOut (execAtomnAddBf16x2 o s) :=
  State.keptOut_runTarget h (fun _ => Cx.kept_atomic h)

theorem execAtomnIncw_keeps {s : State} {o : FDab} (h : s.memOk) : KeptOut (execAtomnIncw o s) :=
  State.keptOut_runTarget h (fun _ => Cx.kept_atomic h)

theorem execAtomnAddI64_keeps {s : State} {o : FDab} (h : s.memOk) : KeptOut (execAtomnAddI64 o s) :=
  State.keptOut_runTarget h (fun _ => Cx.kept_atomic h)

theorem execAtomnCas64_keeps {s : State} {o : FDab} (h : s.memOk) : KeptOut (execAtomnCas64 o s) :=
  State.keptOut_runTarget h (fun _ => Cx.kept_atomic h)

theorem execAtomnXchg64_keeps {s : State} {o : FDab} (h : s.memOk) : KeptOut (execAtomnXchg64 o s) :=
  State.keptOut_runTarget h (fun _ => Cx.kept_atomic h)

theorem Cx.kept_linked {s : State} {c : Cx} {o : FLdl} (h : s.memOk) : Kept (fun p => p.1.memOk) (c.linked s o) := by
  refine Kept.seq Cx.kept_noXp fun _ => ?_
  refine Kept.seq Cx.kept_resolve fun _ => ?_
  refine Kept.seq Cx.kept_resolve fun _ => ?_
  refine Kept.seq (Cx.kept_touch h) fun _ => ?_
  refine Kept.seq (Cx.kept_bWrites h) fun _ => ?_
  refine Kept.seq (Cx.kept_check h) fun _ => ?_
  refine Kept.bind (Q := fun p : _ × _ × State => p.2.2.memOk) (Cx.kept_keys h) fun ⟨_, _, _⟩ h1 => ?_
  exact Kept.bind (Q := State.memOk) (Kept.undo h (Cx.kept_launchOp (Cx.memOk_settleLanes h1))) fun _ h2 => Kept.done h2

theorem execSliceLdl_keeps {s : State} {o : FLdl} (h : s.memOk) : KeptOut (execSliceLdl o s) :=
  State.keptOut_runTarget h (fun _ => Cx.kept_linked h)

theorem Cx.kept_commit {s : State} {c : Cx} {o : FCstm} (h : s.memOk) : Kept (fun p => p.1.memOk) (c.commit s o) := by
  refine Kept.seq Cx.kept_noXp fun _ => ?_
  refine Kept.seq Cx.kept_resolve fun _ => ?_
  refine Kept.seq Cx.kept_resolve fun _ => ?_
  refine Kept.seq (Cx.kept_touch h) fun _ => ?_
  refine Kept.seq (Cx.kept_bWrites h) fun _ => ?_
  refine Kept.seq (Cx.kept_check h) fun _ => ?_
  refine Kept.ite (Kept.seq h fun _ => Kept.bind (Q := fun p : _ × _ × State => p.2.2.memOk) (Cx.kept_keys h) fun ⟨_, _, _⟩ h1 =>
    Kept.ite (Kept.done (State.memOk_post (State.memOk_result (State.memOk_modWarp (Cx.memOk_settleLanes h1))))) (Kept.bind (Q :=
    State.memOk) (Kept.undo h (Cx.kept_launchOp (State.memOk_modWarp (Cx.memOk_settleLanes h1)))) fun _ h2 => Kept.done h2)) ?_
  refine Kept.bind (Q := fun p : _ × _ × State => p.2.2.memOk) (Cx.kept_keys h) fun ⟨_, _, _⟩ h3 => ?_
  refine Kept.ite (Kept.done (State.memOk_post (State.memOk_result (State.memOk_modWarp (Cx.memOk_settleLanes h3))))) ?_
  refine Kept.bind (Q := State.memOk) (Kept.undo h (Cx.kept_launchOp (State.memOk_modWarp (Cx.memOk_settleLanes h3)))) fun _ h4 =>
    ?_
  exact Kept.done h4

theorem execSliceCstm_keeps {s : State} {o : FCstm} (h : s.memOk) : KeptOut (execSliceCstm o s) :=
  State.keptOut_runTarget h (fun _ => Cx.kept_commit h)

theorem Cx.kept_redl {s : State} {c : Cx} {aln : Bool} {e a b : Nat} (h : s.memOk) :
    Kept (fun p => p.1.memOk) (c.redl s aln e a b) := by
  refine Kept.seq Cx.kept_noXp fun _ => ?_
  refine Kept.either Cx.kept_resolve Kept.pass fun _ => ?_
  refine Kept.seq Cx.kept_resolve fun _ => ?_
  refine Kept.seq Cx.kept_resolve fun _ => ?_
  refine Kept.seq (Cx.kept_touch h) fun _ => ?_
  refine Kept.seq (Cx.kept_check h) fun _ => ?_
  refine Kept.bind (Q := fun p : _ × _ × State => p.2.2.memOk) (Cx.kept_keys h) fun ⟨_, _, _⟩ h1 => ?_
  exact Kept.bind (Q := State.memOk) (Kept.undo h (Cx.kept_launchOp (Cx.memOk_settleLanes h1))) fun _ h2 => Kept.done h2

theorem execSliceRedlI32_keeps {s : State} {o : FAb} (h : s.memOk) : KeptOut (execSliceRedlI32 o s) :=
  State.keptOut_runTarget h (fun _ => Cx.kept_redl h)

theorem execSliceRedlAln_keeps {s : State} {o : FDab} (h : s.memOk) : KeptOut (execSliceRedlAln o s) :=
  State.keptOut_runTarget h (fun _ => Cx.kept_redl h)

theorem execKscope_keeps {s : State} {o : FKscope} (h : s.memOk) : KeptOut (execKscope o s) := by
  unfold execKscope
  refine State.keptOut_runTarget h (fun _ => ?_)
  refine Kept.seq Cx.kept_noXp fun _ => ?_
  split
  · exact trivial
  · exact Kept.ite trivial (Kept.ite h (Kept.done h))

theorem execKdef_keeps {s : State} {o : FKdef} (h : s.memOk) : KeptOut (execKdef o s) := by
  refine State.keptOut_runTarget h fun _ => ?_
  exact Kept.seq Cx.kept_noXp fun _ => Kept.ite trivial (Kept.seq (Cx.kept_touch h) fun _ => Kept.done h)

theorem execKfork_keeps {s : State} {o : FKdef} (h : s.memOk) : KeptOut (execKfork o s) := by
  refine State.keptOut_runTarget h fun _ => ?_
  refine Kept.seq Cx.kept_noXp fun _ => ?_
  refine Kept.ite trivial ?_
  exact Kept.bind (Q := fun p : _ × State => p.2.memOk) (Cx.kept_consume h) fun _ h1 => Kept.done (State.memOk_ite h1 h1)

theorem execKjoin_keeps {s : State} {o : FKjoin} (h : s.memOk) : KeptOut (execKjoin o s) := by
  unfold execKjoin
  refine State.keptOut_runTarget h (fun _ => ?_)
  refine Kept.seq Cx.kept_noXp fun _ => ?_
  refine Kept.ite trivial ?_
  split
  · dsimp only
    split
    · exact h
    · split
      · exact h
      · split
        · exact h
        · exact Kept.done h
  · dsimp only
    split
    · exact h
    · split
      · exact h
      · split
        · exact h
        · exact Kept.done h

theorem execKwait_keeps {s : State} {o : FKwait} (h : s.memOk) : KeptOut (execKwait o s) := by
  unfold execKwait
  split
  · exact trivial
  split
  · exact State.memOk_raise h
  split
  next e => exact State.keptOut_settle h (Kept.of_error e (Cx.kept_consume h))
  next e =>
    have h1 := Kept.of_ok e (Cx.kept_consume h)
    split
    · exact State.keptOut_settle h h1
    split
    · exact State.memOk_raise (State.memOk_deliver h1)
    · exact State.keptOut_settle h h1

theorem execKsend_keeps {s : State} {o : FKsend} (h : s.memOk) : KeptOut (execKsend o s) := by
  refine State.keptOut_runTarget h fun _ => ?_
  refine Kept.seq Cx.kept_noXp fun _ => ?_
  refine Kept.ite trivial ?_
  refine Kept.ite trivial ?_
  refine Kept.seq (Cx.kept_touch h) fun _ => ?_
  refine Kept.ite h ?_
  refine Kept.bind (Q := fun p : _ × _ × State => p.2.2.memOk) (Cx.kept_keys h) fun ⟨_, _, _⟩ h1 => ?_
  exact Kept.done (State.memOk_post (State.memOk_modWarp (State.memOk_outward h1)))

theorem State.memOk_statusPend {s : State} {uid : Nat} {own : Owner} {n : RegName} (h : s.memOk) :
    (s.statusPend uid own n).memOk := h

theorem State.memOk_serveClaims {s : State} {uid a1 : Nat} (h : s.memOk) : (s.serveClaims uid a1).memOk := by
  unfold State.serveClaims
  split
  · exact h
  · dsimp only
    split
    · exact State.memOk_serveClaims (State.memOk_leaveO (State.memOk_logWarp h))
    · exact h

theorem execKrecv_keeps {s : State} {o : FKs} (h : s.memOk) : KeptOut (execKrecv o s) := by
  refine State.keptOut_runTarget h fun _ => ?_
  refine Kept.seq Cx.kept_noXp fun _ => ?_
  refine Kept.ite trivial ?_
  refine Kept.seq (Cx.kept_touch h) fun _ => ?_
  refine Kept.ite h ?_
  exact Kept.bind (Q := fun p : _ × State => p.2.memOk) (Cx.kept_produce h) fun _ h1 => Kept.done (State.memOk_serveClaims h1)

theorem execKpoll_keeps {s : State} {o : FKs} (h : s.memOk) : KeptOut (execKpoll o s) := by
  refine State.keptOut_runReporting h fun _ => ?_
  exact Kept.seq Cx.kept_noXp fun _ => Kept.seq (Cx.kept_touch h) fun _ => Kept.done (State.memOk_result h)

theorem State.memOk_orphan {s : State} {v p : Nat} {gone : Bool} (h : s.memOk) : (s.orphan v p gone).memOk :=
  State.memOk_modWarp (State.memOk_logWarp h)

theorem State.memOk_bindTo {s : State} {uid p : Nat} {t : Word} (h : s.memOk) : (s.bindTo uid p t).memOk := by
  unfold State.bindTo
  dsimp only
  split
  · exact h
  · exact State.memOk_ite (State.memOk_orphan h) (State.memOk_ite h h)

theorem State.memOk_orphanPeer {s : State} {uid p : Nat} {gone : Bool} (h : s.memOk) : (s.orphanPeer uid p gone).memOk := by
  unfold State.orphanPeer
  dsimp only
  split
  · exact h
  · exact State.memOk_ite (State.memOk_orphan h) h

theorem State.memOk_dropQueue {s : State} {uid p : Nat} (h : s.memOk) : (s.dropQueue uid p).memOk := State.memOk_bumpHdr h

theorem State.memOk_unbind {s : State} {uid p : Nat} (h : s.memOk) : (s.unbind uid p).memOk :=
  State.memOk_putWarp (State.memOk_dropQueue (State.memOk_ite (State.memOk_orphanPeer h) h))

theorem execPbind_keeps {s : State} {o : FPbind} (h : s.memOk) : KeptOut (execPbind o s) := by
  unfold execPbind
  refine State.keptOut_runTarget h (fun _ => ?_)
  refine Kept.seq Cx.kept_noXp fun _ => ?_
  refine Kept.seq (Cx.kept_touch h) fun _ => ?_
  refine Kept.ite trivial ?_
  split
  · dsimp only
    split
    · exact h
    · exact Kept.done (State.memOk_bindTo h)
    · exact Kept.done (State.memOk_bindTo (State.memOk_dropQueue h))
  · dsimp only
    split
    · exact Kept.done (State.memOk_bindTo (State.memOk_unbind h))
    · exact Kept.done (State.memOk_bindTo h)
    · exact Kept.done (State.memOk_bindTo (State.memOk_dropQueue h))

theorem orphaned_memOk {x : Port} {p : Nat} {c : Cx} {fails : Lanes} : (orphaned x p c fails).memOk := by
  unfold orphaned
  split
  · trivial
  · trivial

theorem Cx.memOk_pushOut {s : State} {c : Cx} {p kc : Nat} {vals : List Word} (h : s.memOk) : (c.pushOut s p kc vals).memOk :=
  State.memOk_ite h (State.memOk_outward h)

theorem State.memOk_withTx {s : State} {id : Nat} {t : PortTx} (h : s.memOk) : (s.withTx id t).memOk := h

theorem execPush_keeps {s : State} {o : FPush} (h : s.memOk) : KeptOut (execPush o s) := by
  unfold execPush
  refine State.keptOut_runTarget h (fun _ => ?_)
  refine Kept.seq Cx.kept_noXp fun _ => ?_
  refine Kept.seq Cx.kept_resolve fun _ => ?_
  refine Kept.seq (Cx.kept_touch h) fun _ => ?_
  split
  · exact trivial
  · exact orphaned_memOk
  · refine Kept.ite (Kept.bind (Q := fun p : _ × State => p.2.memOk) (Cx.kept_consume h) fun _ h1 => Kept.done (Cx.memOk_pushOut
      h1)) ?_
    refine Kept.ite h ?_
    split
    · exact trivial
    · refine Kept.ite h ?_
      refine Kept.bind (Q := fun p : _ × State => p.2.memOk) (Cx.kept_consume h) fun _ h2 => ?_
      exact Kept.ite (Kept.done h2) (Kept.done (State.memOk_post (State.memOk_withTx (Cx.memOk_pushOut h2))))

theorem Cx.kept_popOp {s : State} {c : Cx} {p d : Nat} {take : Bool} (h : s.memOk) :
    Kept (fun p => p.1.memOk) (c.popOp s p d take) := by
  unfold Cx.popOp
  refine Kept.seq Cx.kept_noXp fun _ => ?_
  refine Kept.seq Cx.kept_resolve fun _ => ?_
  refine Kept.seq (Cx.kept_touch h) fun _ => ?_
  refine Kept.seq (Cx.kept_bWrites h) fun _ => ?_
  refine Kept.ite trivial ?_
  split
  · split
    · exact trivial
    · exact h
    · exact Kept.ite (Kept.done (State.memOk_ite h (State.memOk_result h))) orphaned_memOk
    · exact Kept.ite (Kept.done (State.memOk_ite h (State.memOk_result h))) h
  · split
    · exact trivial
    · exact h
    · exact Kept.ite (Kept.done (State.memOk_ite h (State.memOk_result h))) orphaned_memOk
    · exact Kept.ite (Kept.done (State.memOk_ite h (State.memOk_result h))) h

theorem execPop_keeps {s : State} {o : FPop} (h : s.memOk) : KeptOut (execPop o s) :=
  State.keptOut_runTarget h (fun _ => Cx.kept_popOp h)

theorem execPpeek_keeps {s : State} {o : FPop} (h : s.memOk) : KeptOut (execPpeek o s) :=
  State.keptOut_runTarget h (fun _ => Cx.kept_popOp h)

theorem State.memOk_sampling {s : State} {uid : Nat} {k : Sample} (h : s.memOk) : (s.sampling uid k).memOk := h

theorem execPstat_keeps {s : State} {o : FPop} (h : s.memOk) : KeptOut (execPstat o s) := by
  refine State.keptOut_runTarget h fun _ => ?_
  refine Kept.seq Cx.kept_noXp fun _ => ?_
  refine Kept.seq Cx.kept_resolve fun _ => ?_
  refine Kept.seq (Cx.kept_touch h) fun _ => ?_
  exact Kept.seq (Cx.kept_bWrites h) fun _ => Kept.done (State.memOk_ite h (State.memOk_sampling (State.memOk_result h)))

theorem execPunbind_keeps {s : State} {o : FPort} (h : s.memOk) : KeptOut (execPunbind o s) := by
  unfold execPunbind
  refine State.keptOut_runTarget h (fun _ => ?_)
  refine Kept.seq Cx.kept_noXp fun _ => ?_
  dsimp only
  split
  · exact Kept.ite h (Kept.done (State.memOk_unbind h))
  · exact Kept.done h
  · exact Kept.done (State.memOk_unbind h)

theorem Cx.kept_nearRecord {s : State} {c : Cx} {a : Word} {n : Nat} (h : s.memOk) : Kept (fun _ => True) (c.nearRecord s a n) := by
  unfold Cx.nearRecord
  refine Kept.seq (Cx.kept_check h) fun _ => ?_
  split
  · exact Kept.pass
  · exact trivial

theorem State.memOk_groupRead {s : State} {ctx g : Nat} (h : s.memOk) : (s.groupRead ctx g).memOk := by
  unfold State.groupRead
  split
  · exact State.memOk_scan h
  · exact h

theorem State.memOk_putCopy {s : State} {id : Nat} {c : Copy} (h : s.memOk) : (s.putCopy id c).memOk := h

theorem State.memOk_modGroup {s : State} {ctx g : Nat} {f : GroupEnt → GroupEnt} (h : s.memOk) : (s.modGroup ctx g f).memOk := by
  unfold State.modGroup
  split
  · exact State.memOk_wrWords (State.memOk_wrWords h _ _) _ _
  · exact h

theorem State.memOk_modTeam {s : State} {t : Nat} {f : Team → Team} (h : s.memOk) : (s.modTeam t f).memOk := h

theorem State.memOk_makeAbsent {s : State} {l : List (Nat × Nat × Nat)} (h : s.memOk) : (s.makeAbsent l).memOk :=
  State.memOk_fold (fun _ _ h1 => State.memOk_modTeam h1) h

theorem State.memOk_putColl {s : State} {k : Coll} (h : s.memOk) : (s.putColl k).memOk := State.memOk_ite h h

theorem State.memOk_acceptColl {s : State} {id : Nat} {c : Copy} (h : s.memOk) : (s.acceptColl id c).memOk :=
  State.memOk_putCopy (State.memOk_putColl (State.memOk_modGroup h))

theorem State.memOk_fire {s : State} {core n a1 : Nat} (h : s.memOk) : (s.fire core n a1).memOk := by
  unfold State.fire
  split
  · exact h
  · split
    · exact h
    · exact State.memOk_fire h

theorem State.memOk_acceptCopy {s : State} {id : Nat} {c : Copy} (h : s.memOk) : (s.acceptCopy id c).memOk := by
  unfold State.acceptCopy
  extract_lets gi s0 g gang off dead n s1 lines c1 s2 s3
  have hs : s0.memOk := State.memOk_ite (State.memOk_groupRead h) h
  clear_value off
  split
  · exact State.memOk_post (State.memOk_putCopy hs)
  · refine State.memOk_ite (State.memOk_post (State.memOk_putCopy hs)) (State.memOk_ite ?_ ?_)
    · exact State.memOk_post (State.memOk_putCopy (State.memOk_ite hs (State.memOk_modGroup hs)))
    · have h2 : s2.memOk := State.memOk_makeAbsent (State.memOk_putCopy hs)
      have h3 : s3.memOk := State.memOk_ite (State.memOk_acceptColl h2) h2
      exact State.memOk_ite (State.memOk_fire h3) (State.memOk_post h3)

theorem Cx.kept_copyPost {s : State} {c : Cx} {o : FCp} {trig : Bool} (h : s.memOk) :
    Kept (fun p => p.1.memOk) (c.copyPost s o trig) := by
  refine Kept.seq Cx.kept_noXp fun _ => ?_
  refine Kept.seq Cx.kept_resolve fun _ => ?_
  refine Kept.seq (Cx.kept_touch h) fun _ => ?_
  refine Kept.seq (Cx.kept_bWrites h) fun _ => ?_
  refine Kept.ite trivial ?_
  refine Kept.ite h ?_
  refine Kept.seq (Cx.kept_nearRecord h) fun _ => ?_
  refine Kept.bind (Q := fun p : _ × _ × State => p.2.2.memOk) (Cx.kept_keys h) fun ⟨_, _, _⟩ h1 => ?_
  exact Kept.done (State.memOk_acceptCopy (State.memOk_statusPend (State.memOk_outward h1)))

theorem execTcopy_keeps {s : State} {o : FCp} (h : s.memOk) : KeptOut (execTcopy o s) :=
  State.keptOut_runTarget h (fun _ => Cx.kept_copyPost h)

theorem execTcopyt_keeps {s : State} {o : FCp} (h : s.memOk) : KeptOut (execTcopyt o s) :=
  State.keptOut_runTarget h (fun _ => Cx.kept_copyPost h)

theorem State.memOk_tryEndCopy {s : State} {id : Nat} (h : s.memOk) : (s.tryEndCopy id).memOk := by
  unfold State.tryEndCopy
  split
  · exact h
  · exact State.memOk_ite h h

theorem State.memOk_stopCopy {s : State} {id : Nat} {cancelled : Bool} {f : Copy → Copy} (h : s.memOk) :
    (s.stopCopy id cancelled f).memOk := by
  unfold State.stopCopy
  split
  · exact h
  · exact State.memOk_ite (State.memOk_of_eq (State.memOk_tryEndCopy (State.memOk_putCopy h)) rfl rfl) (State.memOk_tryEndCopy h)

theorem Cx.memOk_command {s : State} {c : Cx} {l : List Nat} (h : s.memOk) : (c.command s l).memOk := State.memOk_outward h

theorem execTcancel_keeps {s : State} {o : FV} (h : s.memOk) : KeptOut (execTcancel o s) := by
  refine State.keptOut_runTarget h fun _ => ?_
  refine Kept.seq Cx.kept_noXp fun _ => ?_
  refine Kept.seq Cx.kept_resolve fun _ => ?_
  exact Kept.done (State.memOk_fold (fun _ _ h1 => State.memOk_stopCopy h1) (Cx.memOk_command h))

theorem Cx.kept_counter {s : State} {c : Cx} {v : Word} (_ : s.memOk) : Kept (fun _ => True) (c.counter s v) :=
  Kept.ite Kept.pass trivial

theorem Cx.kept_request {s : State} {c : Cx} {kind : ReqKind} {v kc kp : Nat} {args : List Word} (h : s.memOk) :
    Kept (fun p => p.2.memOk) (c.request s kind v kc kp args) := by
  refine Kept.bind (Q := fun p : _ × _ × State => p.2.2.memOk) (Cx.kept_keys h) fun ⟨_, _, _⟩ h1 => ?_
  exact Kept.done (State.memOk_statusPend (State.memOk_of_eq (State.memOk_outward (State.memOk_newId h1)) rfl rfl))

theorem State.memOk_startReq {s : State} {id : Nat} {apply : State → Nat → State} (h : s.memOk) (ha : (apply s id).memOk) :
    (s.startReq id apply).memOk := by
  unfold State.startReq
  split
  · exact h
  · exact State.memOk_ite ha (State.memOk_post h)

theorem State.memOk_writeback {s : State} {uid : Nat} {writes : List RegWrite} {unsure : Post → Bool} (h : s.memOk) :
    (s.writeback uid writes unsure).memOk := h

theorem State.memOk_statusLanes {s : State} {uid : Nat} {own : Owner} {n : Nat} {vals : KMap Word} (h : s.memOk) :
    (s.statusLanes uid own n vals).memOk :=
  State.memOk_ite h (State.memOk_writeback (State.memOk_modWarp (State.memOk_logWarp h)))

theorem State.memOk_statusV {s : State} {uid : Nat} {own : Owner} {n lane : Nat} {v : Word} (h : s.memOk) :
    (s.statusV uid own n lane v).memOk :=
  State.memOk_statusLanes h

theorem State.memOk_endReq {s : State} {id : Nat} {v : Word} (h : s.memOk) : (s.endReq id v).memOk := by
  unfold State.endReq
  split
  · exact h
  · split
    · exact State.memOk_post (State.memOk_statusV h)
    · exact State.memOk_statusV h

theorem State.memOk_endWaits {s : State} {core n : Nat} (h : s.memOk) : (s.endWaits core n).memOk :=
  State.memOk_fold (fun _ _ h1 => State.memOk_endReq h1) h

theorem State.memOk_arm {s : State} {core n t : Nat} (h : s.memOk) : (s.arm core n t).1.memOk :=
  State.memOk_fire (State.memOk_ite (State.memOk_endWaits h) h)

theorem State.memOk_applyRc {s : State} {id : Nat} (h : s.memOk) : (s.applyRc id).memOk := by
  unfold State.applyRc
  split
  · exact h
  · split
    · exact State.memOk_endReq (State.memOk_arm h)
    · exact State.memOk_ite (State.memOk_endReq h) h
    · exact h

theorem Cx.kept_rcPost {s : State} {c : Cx} {o : FCp} {wait : Bool} (h : s.memOk) :
    Kept (fun p => p.1.memOk) (c.rcPost s o wait) := by
  refine Kept.seq Cx.kept_noXp fun _ => ?_
  refine Kept.seq Cx.kept_resolve fun _ => ?_
  refine Kept.seq (Cx.kept_touch h) fun _ => ?_
  refine Kept.seq (Cx.kept_bWrites h) fun _ => ?_
  refine Kept.ite trivial ?_
  refine Kept.seq (Cx.kept_counter h) fun _ => ?_
  refine Kept.bind (Q := fun p : _ × State => p.2.memOk) (Cx.kept_request h) fun _ h1 => ?_
  exact Kept.done (State.memOk_startReq h1 (State.memOk_applyRc h1))

theorem execRcarm_keeps {s : State} {o : FCp} (h : s.memOk) : KeptOut (execRcarm o s) :=
  State.keptOut_runTarget h (fun _ => Cx.kept_rcPost h)

theorem execRcwait_keeps {s : State} {o : FCp} (h : s.memOk) : KeptOut (execRcwait o s) :=
  State.keptOut_runTarget h (fun _ => Cx.kept_rcPost h)

theorem execRcread_keeps {s : State} {o : FVn} (h : s.memOk) : KeptOut (execRcread o s) := by
  refine State.keptOut_runTarget h fun _ => ?_
  refine Kept.seq Cx.kept_noXp fun _ => ?_
  refine Kept.seq Cx.kept_resolve fun _ => ?_
  refine Kept.seq (Cx.kept_touch h) fun _ => ?_
  refine Kept.seq (Cx.kept_bWrites h) fun _ => ?_
  exact Kept.seq (Cx.kept_counter h) fun _ => Kept.done (State.memOk_sampling (State.memOk_result h))

theorem execCpoll_keeps {s : State} {o : FVn} (h : s.memOk) : KeptOut (execCpoll o s) := by
  refine State.keptOut_runTarget h fun _ => ?_
  refine Kept.seq Cx.kept_noXp fun _ => ?_
  refine Kept.seq Cx.kept_resolve fun _ => ?_
  exact Kept.seq (Cx.kept_touch h) fun _ => Kept.done (State.memOk_sampling (State.memOk_result h))

theorem Cx.kept_mxHead {c : Cx} {v n : Nat} {kp : BitVec 4} : Kept (fun _ => True) (c.mxHead v n kp) := by
  unfold Cx.mxHead
  refine Kept.seq Cx.kept_noXp fun _ => ?_
  split
  · exact trivial
  · exact Kept.ite trivial Kept.pass

theorem State.memOk_putPost {s : State} {id : Nat} {p : Post} (h : s.memOk) : (s.putPost id p).memOk := h

theorem execMxpost_keeps {s : State} {o : FMx} (h : s.memOk) : KeptOut (execMxpost o s) := by
  unfold execMxpost
  refine State.keptOut_runTarget h fun c => ?_
  extract_lets v one p ln tile q t b regs waits tens after
  have hafter (x : Unit) : Kept (fun p => p.1.memOk) (after x) := by
    refine Kept.ite h (Kept.bind (Q := fun p : _ × _ × State => p.2.2.memOk) (Cx.kept_keys h) fun x h1 => ?_)
    split
    extract_lets r post s2 s3 s4
    have h2 : s2.memOk := State.memOk_putPost (State.memOk_outward h1)
    have h3 : s3.memOk := State.memOk_ite (State.memOk_modTeam h2) h2
    have h4 : s4.memOk := State.memOk_post (State.memOk_statusPend h3)
    exact Kept.ite (State.memOk_modWarp h4) (Kept.done h4)
  clear_value after
  refine Kept.seq Cx.kept_mxHead fun _ => ?_
  split
  · exact Kept.ite (Kept.done h) h
  refine Kept.ite (Kept.done h) (Kept.seq (Cx.kept_touch h) fun _ => Kept.seq (Cx.kept_bWrites h) fun _ => ?_)
  refine Kept.seq (Cx.kept_touch h) fun _ => ?_
  split
  · exact Kept.seq trivial hafter
  · exact Kept.seq Kept.pass hafter

theorem Cx.kept_mxLanes {s : State} {c : Cx} {v : Nat} (_ : s.memOk) : Kept (fun _ => True) (c.mxLanes s v) := by
  unfold Cx.mxLanes
  dsimp only
  split
  · exact trivial
  · exact Kept.pass

theorem execMxrd_keeps {s : State} {o : FMx} (h : s.memOk) : KeptOut (execMxrd o s) := by
  refine State.keptOut_runTarget h fun _ => ?_
  refine Kept.either trivial Kept.pass fun _ => ?_
  refine Kept.seq Cx.kept_mxHead fun _ => ?_
  refine Kept.seq (Cx.kept_touch h) fun _ => ?_
  refine Kept.seq (Cx.kept_bWrites h) fun _ => ?_
  refine Kept.seq (Cx.kept_mxLanes h) fun _ => ?_
  refine Kept.bind (Q := fun p : _ × _ × State => p.2.2.memOk) (Cx.kept_keys h) fun ⟨_, _, _⟩ h1 => ?_
  exact Kept.bind (Q := State.memOk) (Kept.undo h (Cx.kept_launchOp h1)) fun _ h2 => Kept.done h2

theorem execMxwr_keeps {s : State} {o : FMx} (h : s.memOk) : KeptOut (execMxwr o s) := by
  refine State.keptOut_runTarget h fun _ => ?_
  refine Kept.either trivial Kept.pass fun _ => ?_
  refine Kept.seq Cx.kept_mxHead fun _ => ?_
  refine Kept.seq (Cx.kept_touch h) fun _ => ?_
  refine Kept.seq (Cx.kept_mxLanes h) fun _ => ?_
  refine Kept.bind (Q := fun p : _ × _ × State => p.2.2.memOk) (Cx.kept_keys h) fun ⟨_, _, _⟩ h1 => ?_
  exact Kept.bind (Q := State.memOk) (Kept.undo h (Cx.kept_launchOp h1)) fun _ h2 => Kept.done h2

theorem Cx.kept_quietReq {s : State} {c : Cx} {kind : ReqKind} {kc kp : Nat} {args : List Word} {rows : List (Nat × List Word)} (h
    : s.memOk) : Kept (fun p => p.2.memOk) (c.quietReq s kind kc kp args rows) := by
  refine Kept.bind (Q := fun p : _ × _ × State => p.2.2.memOk) (Cx.kept_keys h) fun ⟨_, _, _⟩ h1 => ?_
  exact Kept.done (State.memOk_of_eq (State.memOk_outward (State.memOk_newId h1)) rfl rfl)

theorem State.memOk_endQuiet {s : State} {id : Nat} (h : s.memOk) : (s.endQuiet id).memOk := by
  unfold State.endQuiet
  split
  · exact h
  · split
    · exact h
    · exact h

theorem State.memOk_applyMx {s : State} {id : Nat} (h : s.memOk) : (s.applyMx id).memOk := by
  unfold State.applyMx
  split
  · exact h
  · split
    · exact State.memOk_endQuiet h
    · exact State.memOk_ite (State.memOk_endQuiet h) h
    · exact h

theorem execMxzero_keeps {s : State} {o : FMx} (h : s.memOk) : KeptOut (execMxzero o s) := by
  refine State.keptOut_runTarget h fun _ => ?_
  refine Kept.seq Cx.kept_mxHead fun _ => ?_
  refine Kept.ite (Kept.done h) ?_
  refine Kept.seq (Cx.kept_touch h) fun _ => ?_
  refine Kept.ite trivial ?_
  refine Kept.ite trivial ?_
  refine Kept.bind (Q := fun p : _ × State => p.2.memOk) (Cx.kept_quietReq h) fun _ h1 => ?_
  exact Kept.done (State.memOk_ite (State.memOk_applyMx h1) (State.memOk_startReq h1 (State.memOk_applyMx h1)))

theorem execMxhbind_keeps {s : State} {o : FV} (h : s.memOk) : KeptOut (execMxhbind o s) := by
  unfold execMxhbind
  refine State.keptOut_runTarget h (fun _ => ?_)
  refine Kept.seq Cx.kept_mxHead fun _ => ?_
  refine Kept.ite (Kept.done h) ?_
  refine Kept.seq (Cx.kept_touch h) fun _ => ?_
  dsimp only
  split
  · exact trivial
  · exact Kept.ite trivial (Kept.done (State.memOk_modTeam (Cx.memOk_command h)))

theorem execMxhgen_keeps {s : State} {o : FV} (h : s.memOk) : KeptOut (execMxhgen o s) := by
  refine State.keptOut_runTarget h fun _ => ?_
  refine Kept.seq Cx.kept_mxHead fun _ => ?_
  refine Kept.ite (Kept.done h) ?_
  refine Kept.seq (Cx.kept_touch h) fun _ => ?_
  refine Kept.ite trivial ?_
  refine Kept.ite trivial ?_
  refine Kept.done ?_
  exact State.memOk_ite (State.memOk_modQuad (State.memOk_modTeam (Cx.memOk_command h))) (State.memOk_modTeam (Cx.memOk_command h))

theorem execScbind_keeps {s : State} {o : FV} (h : s.memOk) : KeptOut (execScbind o s) := by
  refine State.keptOut_runTarget h fun _ => ?_
  refine Kept.either trivial Kept.pass fun _ => ?_
  refine Kept.seq Cx.kept_mxHead fun _ => ?_
  refine Kept.ite (Kept.done h) ?_
  refine Kept.seq (Cx.kept_touch h) fun _ => ?_
  exact Kept.ite trivial (Kept.ite trivial (Kept.done (State.memOk_modQuad (Cx.memOk_command h))))

theorem execScload_keeps {s : State} {o : FMx} (h : s.memOk) : KeptOut (execScload o s) := by
  refine State.keptOut_runTarget h fun _ => ?_
  refine Kept.seq Cx.kept_mxHead fun _ => ?_
  refine Kept.ite (Kept.done h) ?_
  refine Kept.seq (Cx.kept_touch h) fun _ => ?_
  refine Kept.ite trivial ?_
  refine Kept.ite trivial ?_
  refine Kept.ite trivial ?_
  refine Kept.bind (Q := fun p : _ × State => p.2.memOk) (Cx.kept_quietReq h) fun _ h1 => ?_
  exact Kept.done (State.memOk_startReq h1 (State.memOk_applyMx h1))

theorem execScinv_keeps {s : State} {o : FV} (h : s.memOk) : KeptOut (execScinv o s) := by
  refine State.keptOut_runTarget h fun _ => ?_
  refine Kept.seq Cx.kept_mxHead fun _ => ?_
  refine Kept.ite (Kept.done h) ?_
  refine Kept.seq (Cx.kept_touch h) fun _ => ?_
  refine Kept.ite (Kept.done (State.memOk_modQuad (Cx.memOk_command h))) ?_
  exact Kept.ite trivial (Kept.ite trivial (Kept.done (State.memOk_modQuad (Cx.memOk_command h))))

theorem Cx.kept_buffer {s : State} {c : Cx} {w : Word} (_ : s.memOk) : Kept (fun _ => True) (c.buffer s w) :=
  Kept.ite trivial Kept.pass

theorem State.memOk_creelFault {s : State} {b : Nat} {who : List Nat} {ctx reason expert slot addr : Nat} (h : s.memOk) :
    (s.creelFault b who ctx reason expert slot addr).memOk :=
  State.memOk_record h

theorem State.memOk_endCr {s : State} {b id : Nat} {v : Word} (h : s.memOk) : (s.endCr b id v).memOk := State.memOk_endReq h

theorem State.memOk_endCrWaits {s : State} {b : Nat} {p : Word → Bool} {v : Word} (h : s.memOk) : (s.endCrWaits b p v).memOk :=
  State.memOk_fold (fun _ _ h1 => State.memOk_endCr h1) h

theorem State.memOk_dropFars {s : State} {who : WalkFor} (h : s.memOk) : (s.dropFars who).memOk := h

theorem State.memOk_putBuf {s : State} {b : Nat} {x : CrBuf} (h : s.memOk) : (s.putBuf b x).memOk := h

theorem State.memOk_applyCfg {s : State} {id : Nat} {r : Req} (h : s.memOk) : (s.applyCfg id r).memOk := by
  unfold State.applyCfg
  dsimp only
  split
  · exact State.memOk_endReq (State.memOk_creelFault h)
  · exact State.memOk_endReq (State.memOk_of_eq (State.memOk_endCrWaits (State.memOk_dropFars h)) rfl rfl)

theorem State.memOk_endLanes {s : State} {id : Nat} {vals : KMap Word} (h : s.memOk) : (s.endLanes id vals).memOk := by
  unfold State.endLanes
  split
  · exact h
  · split
    · split
      · exact State.memOk_post (State.memOk_statusLanes h)
      · exact State.memOk_statusLanes h
    · split
      · exact State.memOk_post (State.memOk_statusLanes h)
      · exact State.memOk_statusLanes h

theorem State.kept_applyAlloc {s : State} {id : Nat} {r : Req} {all : Bool} (h : s.memOk) :
    OptKept State.memOk (s.applyAlloc id r all) := by
  refine OptKept.ite (OptKept.ite (OptKept.some (State.memOk_endLanes h)) (OptKept.some (State.memOk_endLanes h))) ?_
  exact OptKept.ite OptKept.none (OptKept.some (State.memOk_endLanes h))

theorem State.memOk_gateLanes {s : State} {id b : Nat} {a1 : List (Nat × List Word)} {a2 : List Word} (h : s.memOk) :
    (s.gateLanes id b a1 a2).memOk := by
  unfold State.gateLanes
  split
  · split
    · exact h
    · exact State.memOk_endLanes h
  · split
    · exact h
    · dsimp only
      split
      · exact State.memOk_gateLanes (State.memOk_ite (State.memOk_creelFault h) h)
      · exact State.memOk_ite h (State.memOk_gateLanes (State.memOk_ite h (State.memOk_ite h h)))

theorem State.memOk_freeLane {s : State} {b : Nat} {slot : Word} (h : s.memOk) : (s.freeLane b slot).1.memOk := by
  unfold State.freeLane
  dsimp only
  split
  · exact h
  · split
    · exact h
    · exact h
    · exact h

theorem State.memOk_applyFree {s : State} {id : Nat} {r : Req} (h : s.memOk) : (s.applyFree id r).memOk := by
  unfold State.applyFree
  refine State.memOk_endLanes (List.foldlRecOn (motive := fun a : State × KMap Word × Bool => a.1.memOk) _ _ h fun a ha p _ => ?_)
  exact State.memOk_ite (State.memOk_creelFault (State.memOk_freeLane ha)) (State.memOk_freeLane ha)

theorem State.memOk_applyWait {s : State} {id : Nat} {r : Req} (h : s.memOk) : (s.applyWait id r).memOk :=
  State.memOk_ite (State.memOk_endCr h) (State.memOk_ite (State.memOk_endCr h) (State.memOk_ite (State.memOk_endCr h) h))

theorem State.memOk_applyCreel {s : State} {id : Nat} (h : s.memOk) : (s.applyCreel id).memOk := by
  unfold State.applyCreel
  split
  · exact h
  · refine State.memOk_ite h ?_
    split
    · exact State.memOk_applyCfg h
    · split
      next e1 => exact OptKept.get (P := State.memOk) e1 (State.kept_applyAlloc h)
      · exact State.memOk_post (State.memOk_ite h h)
    · exact State.memOk_gateLanes h
    · exact State.memOk_applyFree h
    · exact State.memOk_ite h (State.memOk_applyWait h)
    · exact h

theorem execCrcfg_keeps {s : State} {o : FCp} (h : s.memOk) : KeptOut (execCrcfg o s) := by
  refine State.keptOut_runTarget h fun _ => ?_
  refine Kept.seq Cx.kept_noXp fun _ => ?_
  refine Kept.either trivial Kept.pass fun _ => ?_
  refine Kept.seq Cx.kept_resolve fun _ => ?_
  refine Kept.seq (Cx.kept_touch h) fun _ => ?_
  refine Kept.seq (Cx.kept_bWrites h) fun _ => ?_
  refine Kept.ite trivial ?_
  refine Kept.seq (Cx.kept_buffer h) fun _ => ?_
  refine Kept.seq (Cx.kept_nearRecord h) fun _ => ?_
  refine Kept.bind (Q := fun p : _ × State => p.2.memOk) (Cx.kept_request h) fun _ h1 => ?_
  exact Kept.done (State.memOk_startReq h1 (State.memOk_applyCreel h1))

theorem Cx.memOk_laneReq {s : State} {c : Cx} {kind : ReqKind} {v b kc kp : Nat} {dep : Dep} {mem : Option Nat} {rows : List (Nat ×
    List Word)} (h : s.memOk) : (c.laneReq s kind v b kc kp dep mem rows).2.memOk :=
  State.memOk_statusPend (State.memOk_of_eq (State.memOk_outward (State.memOk_newId h)) rfl rfl)

theorem Cx.kept_allocate {s : State} {c : Cx} {o : FAlloc} {all : Bool} (h : s.memOk) :
    Kept (fun p => p.1.memOk) (c.allocate s o all) := by
  unfold Cx.allocate
  refine Kept.seq Cx.kept_noXp fun _ => ?_
  split
  · exact Kept.ite (Kept.done h) h
  · refine Kept.seq Cx.kept_resolve fun _ => ?_
    refine Kept.seq (Cx.kept_touch h) fun _ => ?_
    refine Kept.seq (Cx.kept_bWrites h) fun _ => ?_
    refine Kept.seq (Cx.kept_buffer h) fun _ => ?_
    refine Kept.ite (State.memOk_modWarp (State.memOk_applyCreel (Cx.memOk_laneReq h))) ?_
    exact Kept.done (State.memOk_applyCreel (Cx.memOk_laneReq h))

theorem execCralloc_keeps {s : State} {o : FAlloc} (h : s.memOk) : KeptOut (execCralloc o s) :=
  State.keptOut_runTarget h (fun _ => Cx.kept_allocate h)

theorem execCrallocW_keeps {s : State} {o : FAlloc} (h : s.memOk) : KeptOut (execCrallocW o s) :=
  State.keptOut_runTarget h (fun _ => Cx.kept_allocate h)

theorem execCrgate_keeps {s : State} {o : FCp} (h : s.memOk) : KeptOut (execCrgate o s) := by
  refine State.keptOut_runTarget h fun _ => ?_
  refine Kept.seq Cx.kept_noXp fun _ => ?_
  refine Kept.either trivial Kept.pass fun _ => ?_
  refine Kept.seq Cx.kept_resolve fun _ => ?_
  refine Kept.seq (Cx.kept_touch h) fun _ => ?_
  refine Kept.seq (Cx.kept_bWrites h) fun _ => ?_
  refine Kept.ite trivial ?_
  refine Kept.seq (Cx.kept_buffer h) fun _ => ?_
  refine Kept.bind (Q := fun p : _ × _ × State => p.2.2.memOk) (Cx.kept_keys h) fun ⟨_, _, _⟩ h1 => ?_
  exact Kept.done (State.memOk_startReq (Cx.memOk_laneReq h1) (State.memOk_applyCreel (Cx.memOk_laneReq h1)))

theorem execCrwait_keeps {s : State} {o : FCp} (h : s.memOk) : KeptOut (execCrwait o s) := by
  refine State.keptOut_runTarget h fun _ => ?_
  refine Kept.seq Cx.kept_noXp fun _ => ?_
  refine Kept.either trivial Kept.pass fun _ => ?_
  refine Kept.seq Cx.kept_resolve fun _ => ?_
  refine Kept.seq (Cx.kept_touch h) fun _ => ?_
  refine Kept.seq (Cx.kept_bWrites h) fun _ => ?_
  refine Kept.ite trivial ?_
  refine Kept.seq (Cx.kept_buffer h) fun _ => ?_
  refine Kept.bind (Q := fun p : _ × State => p.2.memOk) (Cx.kept_request h) fun _ h1 => ?_
  exact Kept.done (State.memOk_startReq h1 (State.memOk_applyCreel h1))

theorem execCrstat_keeps {s : State} {o : FVn} (h : s.memOk) : KeptOut (execCrstat o s) := by
  unfold execCrstat
  refine State.keptOut_runTarget h (fun _ => ?_)
  refine Kept.seq Cx.kept_noXp fun _ => ?_
  refine Kept.seq Cx.kept_resolve fun _ => ?_
  refine Kept.seq (Cx.kept_touch h) fun _ => ?_
  refine Kept.seq (Cx.kept_bWrites h) fun _ => ?_
  refine Kept.seq (Cx.kept_buffer h) fun _ => ?_
  dsimp only
  split
  · exact trivial
  · exact Kept.done (State.memOk_sampling (State.memOk_result h))

theorem execCrfree_keeps {s : State} {o : FCp} (h : s.memOk) : KeptOut (execCrfree o s) := by
  refine State.keptOut_runTarget h fun _ => ?_
  refine Kept.seq Cx.kept_noXp fun _ => ?_
  refine Kept.seq Cx.kept_resolve fun _ => ?_
  refine Kept.seq (Cx.kept_touch h) fun _ => ?_
  refine Kept.seq (Cx.kept_bWrites h) fun _ => ?_
  refine Kept.ite trivial ?_
  refine Kept.seq (Cx.kept_buffer h) fun _ => ?_
  refine Kept.bind (Q := fun p : _ × _ × State => p.2.2.memOk) (Cx.kept_keys h) fun ⟨_, _, _⟩ h1 => ?_
  exact Kept.done (State.memOk_startReq (Cx.memOk_laneReq h1) (State.memOk_applyCreel (Cx.memOk_laneReq h1)))

theorem State.keptOut_runBar {s : State} {sw : Bool} {body : Cx → State → Except Stop (State × Flow)} (h : s.memOk)
    (hb : ∀ c, Kept (fun p => p.1.memOk) (body c s)) : KeptOut (s.runBar sw body) :=
  State.keptOut_runReporting h hb

theorem State.memOk_putBar {s : State} {team b : Nat} {x : Barrier} (h : s.memOk) : (s.putBar team b x).memOk := h

theorem State.memOk_startFill {s : State} {team b : Nat} {x : Barrier} (h : s.memOk) : (s.startFill team b x).memOk := h

theorem Cx.memOk_parkBar {s : State} {c : Cx} {b : Nat} (h : s.memOk) : (c.parkBar s b).memOk := h

theorem execBinit_keeps {s : State} {o : FBs} (h : s.memOk) : KeptOut (execBinit o s) := by
  unfold execBinit
  refine State.keptOut_runBar h (fun _ => ?_)
  refine Kept.seq Cx.kept_noXp fun _ => ?_
  refine Kept.seq (Cx.kept_touch h) fun _ => ?_
  refine Kept.ite trivial ?_
  refine Kept.ite trivial ?_
  split
  · dsimp only
    split
    · exact Kept.ite (Kept.done h) (Kept.done h)
    · exact Kept.done h
    · exact Cx.memOk_parkBar h
  · dsimp only
    split
    · exact Kept.ite (Kept.done h) (Kept.done h)
    · exact Kept.done h
    · exact Cx.memOk_parkBar h

theorem Cx.kept_arrive {s : State} {c : Cx} {b kc kp : Nat} (h : s.memOk) : Kept State.memOk (c.arrive s b kc kp) := by
  unfold Cx.arrive
  refine Kept.bind (Q := fun p : _ × _ × State => p.2.2.memOk) (Cx.kept_keys h) fun ⟨d, m, s1⟩ h1 => ?_
  dsimp only
  split
  · exact Kept.done (State.memOk_putBar (State.memOk_outward h1))
  · exact Kept.done (State.memOk_post (State.memOk_startFill (State.memOk_outward h1)))
  · exact Kept.done (State.memOk_post (State.memOk_putBar (State.memOk_outward h1)))

theorem execBarv_keeps {s : State} {o : FBar} (h : s.memOk) : KeptOut (execBarv o s) := by
  refine State.keptOut_runBar h fun _ => ?_
  refine Kept.seq Cx.kept_noXp fun _ => ?_
  refine Kept.ite trivial ?_
  exact Kept.ite (Cx.memOk_parkBar h) (Kept.bind (Q := State.memOk) (Cx.kept_arrive h) fun _ h1 => Kept.done h1)

theorem execBwait_keeps {s : State} {o : FBwait} (h : s.memOk) : KeptOut (execBwait o s) :=
  State.keptOut_runBar h (fun _ => Kept.seq Cx.kept_noXp fun _ => Kept.ite (Cx.memOk_parkBar h) (Kept.done h))

theorem execBsync_keeps {s : State} {o : FBar} (h : s.memOk) : KeptOut (execBsync o s) := by
  refine State.keptOut_runBar h fun _ => ?_
  refine Kept.seq Cx.kept_noXp fun _ => ?_
  refine Kept.ite trivial ?_
  refine Kept.ite (Kept.ite (Cx.memOk_parkBar h) (Kept.done h)) ?_
  exact Kept.ite (Cx.memOk_parkBar h) (Kept.bind (Q := State.memOk) (Cx.kept_arrive h) fun _ h1 => Cx.memOk_parkBar h1)

theorem execBstat_keeps {s : State} {o : FBs} (h : s.memOk) : KeptOut (execBstat o s) := by
  refine State.keptOut_runBar h fun _ => ?_
  exact Kept.bind (Q := fun p : State × _ => p.1.memOk) (Cx.kept_sop h) fun _ h1 => Kept.done h1

theorem State.memOk_dropWord {s : State} {ctx die grid : Nat} {a : Addr} (h : s.memOk) : (s.dropWord ctx die grid a).memOk :=
  State.memOk_record h

theorem State.memOk_putChan {s : State} {ch : Nat} {c : Chan} (h : s.memOk) : (s.putChan ch c).memOk := h

theorem State.kept_sendHead {s : State} {ch : Nat} (h : s.memOk) : OptKept State.memOk (s.sendHead ch) := by
  unfold State.sendHead
  dsimp only
  split
  · exact OptKept.none
  · exact OptKept.ite OptKept.none (OptKept.some h)

theorem State.memOk_pump {s : State} {ch a1 : Nat} (h : s.memOk) : (s.pump ch a1).memOk := by
  unfold State.pump
  split
  · exact h
  · split
    next e1 => exact State.memOk_pump (OptKept.get (P := State.memOk) e1 (State.kept_sendHead h))
    · exact h

theorem State.memOk_wantChan {s : State} {ch : Nat} (h : s.memOk) : (s.wantChan ch).memOk :=
  State.memOk_ite h (State.memOk_pump h)

theorem State.memOk_enqueue {s : State} {ch : Nat} {x : Sent} (h : s.memOk) : (s.enqueue ch x).memOk :=
  State.memOk_wantChan h

theorem State.kept_requestOf {s : State} {ctx dev : Nat} {own : List SentFor} {r : FabReq} (h : s.memOk) :
    OptKept State.memOk (s.requestOf ctx dev own r) := by
  unfold State.requestOf
  split
  · exact OptKept.none
  · exact OptKept.some (State.memOk_enqueue h)

theorem State.kept_request {s : State} {ctx dev : Nat} {own : List SentFor} {addr : Nat} {write : Bool} {data : List (Nat × Byte)}
    {len : Nat} (h : s.memOk) : OptKept State.memOk (s.request ctx dev own addr write data len) :=
  State.kept_requestOf h

/-- The definition is opened before it is applied: the kernel must not compute `placeOf` of an open address. -/
theorem State.memOk_winPut {s : State} {writer : Option Nat} {pa : Nat} {v : Word} {ones : Nat} (h : s.memOk) :
    (s.winPut writer pa v ones).memOk := by
  generalize hf : State.winPut = f
  delta State.winPut at hf
  subst hf
  beta_reduce
  generalize placeOf pa = place
  cases place with
  | register c slot r lane _ =>
    dsimp only
    split
    · exact State.memOk_writeback (State.memOk_logWarp h)
    · exact h
  | tile c t i _ => exact h
  | port c f e l _ =>
    dsimp only
    split
    · exact State.memOk_ite (State.memOk_logWarp h) h
    · exact h
  | counter c o => exact State.memOk_ite h h
  | _ => exact h

/-- The definition is opened before it is applied: the kernel must not compute `placeOf` of an open address. -/
theorem State.memOk_winMark {s : State} {on : Bool} {pa : Nat} (h : s.memOk) : (s.winMark on pa).memOk := by
  generalize hf : State.winMark = f
  delta State.winMark at hf
  subst hf
  beta_reduce
  generalize placeOf pa = place
  cases place with
  | register c slot r lane _ =>
    dsimp only
    split
    · exact State.memOk_ite (State.memOk_endTainted h) h
    · exact h
  | tile c t i _ => exact h
  | port c f e l _ =>
    dsimp only
    split
    · exact h
    · exact h
  | _ => exact h

theorem State.memOk_winCleanAll {s : State} {pa n : Nat} (h : s.memOk) : (s.winCleanAll pa n).memOk :=
  State.memOk_fold (fun _ _ h1 => State.memOk_winMark h1) h

theorem State.memOk_winWrite {s : State} {writer : Option Nat} {pa : Nat} {l : List Byte} (h : s.memOk) :
    (s.winWrite writer pa l).memOk :=
  State.memOk_fold (fun _ _ h1 => State.memOk_winPut h1) (State.memOk_winCleanAll h)

theorem State.memOk_nearWrite {s : State} {team o : Nat} {l : List Byte} (h : s.memOk) : (s.nearWrite team o l).memOk := h

theorem State.kept_putWord {s : State} {ctx die grid : Nat} {a : Addr} {e : BitVec 64} {pa : Nat} {v : Word} (h : s.memOk) :
    OptKept State.memOk (s.putWord ctx die grid a e pa v) := by
  unfold State.putWord
  refine OptKept.ite (OptKept.some (State.memOk_hostWr h _ _)) ?_
  refine OptKept.ite (State.kept_request h) ?_
  split
  · exact OptKept.some (State.memOk_homeWrite h _ _ _)
  · exact OptKept.some (State.memOk_winWrite h)
  · exact OptKept.some h
  · exact OptKept.none

theorem State.kept_complete {s : State} {ctx die grid : Nat} {a : Addr} {v : Word} (h : s.memOk) :
    OptKept State.memOk (s.complete ctx die grid a v) := by
  unfold State.complete
  refine OptKept.ite (OptKept.some (State.memOk_dropWord h)) ?_
  split
  · exact OptKept.none
  · exact OptKept.some (State.memOk_getD (State.kept_putWord h) (State.memOk_dropWord h))
  · exact OptKept.some (State.memOk_dropWord h)

theorem State.memOk_refuseWord {s : State} {ctx die : Nat} {l : Launch} {reason : Nat} (h : s.memOk) :
    (s.refuseWord ctx die l reason).memOk := by
  unfold State.refuseWord
  refine State.memOk_ite h ?_
  split
  next e1 => exact OptKept.get (P := State.memOk) e1 (State.kept_complete h)
  · exact h

theorem State.memOk_accept {s : State} {ctx die : Nat} {l : Launch} {level : Nat} (h : s.memOk) :
    (s.accept ctx die l level).2.memOk :=
  State.memOk_post (State.memOk_trace h)

theorem State.memOk_applyGrid {s : State} {id : Nat} (h : s.memOk) : (s.applyGrid id).memOk := by
  unfold State.applyGrid
  split
  · exact h
  · split
    · refine State.memOk_ite h ?_
      split
      · exact State.memOk_endReq (State.memOk_refuseWord h)
      · exact State.memOk_endReq (State.memOk_accept h)
    · dsimp only
      split
      · exact State.memOk_endReq h
      · exact State.memOk_ite (State.memOk_endReq h) h
    · exact h

theorem execGlaunch_keeps {s : State} {o : FMx} (h : s.memOk) : KeptOut (execGlaunch o s) := by
  unfold execGlaunch
  refine State.keptOut_runTarget h fun c => ?_
  refine Kept.seq Cx.kept_noXp fun _ => Kept.seq Cx.kept_resolve fun v => ?_
  extract_lets one d launch leader
  have hlaunch (x : Unit) : Kept (fun p => p.1.memOk) (launch x) := by
    refine Kept.ite trivial (Kept.ite trivial (Kept.ite trivial (Kept.ite h ?_)))
    refine Kept.bind (Q := fun p : _ × State => p.2.memOk) (Cx.kept_request h) fun _ h1 => ?_
    exact Kept.done (State.memOk_startReq h1 (State.memOk_applyGrid h1))
  clear_value launch
  have hleader (x : Unit) : Kept (fun p => p.1.memOk) (leader x) :=
    Kept.ite (Kept.seq (Cx.kept_touch h) fun _ => Kept.seq (Cx.kept_bWrites h) hlaunch) (Kept.seq Kept.pass hlaunch)
  clear_value leader
  split
  · exact Kept.seq trivial hleader
  · exact Kept.seq Kept.pass hleader

theorem execGwait_keeps {s : State} {o : FCp} (h : s.memOk) : KeptOut (execGwait o s) := by
  refine State.keptOut_runTarget h fun _ => ?_
  refine Kept.seq Cx.kept_noXp fun _ => ?_
  refine Kept.seq Cx.kept_resolve fun _ => ?_
  refine Kept.seq (Cx.kept_touch h) fun _ => ?_
  refine Kept.seq (Cx.kept_bWrites h) fun _ => ?_
  refine Kept.ite trivial ?_
  refine Kept.ite h ?_
  refine Kept.bind (Q := fun p : _ × State => p.2.memOk) (Cx.kept_request h) fun _ h1 => ?_
  exact Kept.done (State.memOk_startReq h1 (State.memOk_applyGrid h1))

theorem execGstat_keeps {s : State} {o : FGstat} (h : s.memOk) : KeptOut (execGstat o s) :=
  State.keptOut_runTarget h (fun _ => Cx.kept_sop h)

theorem execLqdec_keeps {s : State} {o : FDab} (h : s.memOk) : KeptOut (execLqdec o s) :=
  State.keptOut_runTarget h (fun _ => Cx.kept_bop h)

theorem execLqdot_keeps {s : State} {o : FDab} (h : s.memOk) : KeptOut (execLqdot o s) :=
  State.keptOut_runTarget h (fun _ => Cx.kept_bop h)

theorem execLqtbl_keeps {s : State} {o : FAb} (h : s.memOk) : KeptOut (execLqtbl o s) :=
  State.keptOut_runTarget h (fun _ => Kept.seq (Cx.kept_prep h) fun _ => Kept.done h)

theorem Cx.kept_privileged {s : State} {c : Cx} (_ : s.memOk) : Kept (fun _ => True) (c.privileged s) :=
  Kept.ite Cx.kept_noXp trivial

theorem sysS_kept {n : Nat} : Kept (fun _ => True) (sysS n) := Kept.ite trivial Kept.pass

theorem Cx.kept_target1 {s : State} {c : Cx} (_ : s.memOk) : Kept (fun _ => True) (c.target1 s) := Kept.ite Kept.pass trivial

theorem execMtcp_keeps {s : State} {o : FMtc} (h : s.memOk) : KeptOut (execMtcp o s) := by
  unfold execMtcp
  refine State.keptOut_runTarget h (fun _ => ?_)
  refine Kept.seq (Cx.kept_privileged h) fun _ => ?_
  refine Kept.seq sysS_kept fun _ => ?_
  refine Kept.either trivial Kept.pass fun _ => ?_
  refine Kept.seq (Cx.kept_touch h) fun _ => ?_
  split
  · exact Kept.ite trivial (Kept.done h)
  · exact Kept.seq (Cx.kept_target1 h) fun _ => Kept.done h
  · exact Kept.seq (Cx.kept_target1 h) fun _ => Kept.done h
  · exact Kept.ite (Kept.done h) (Kept.done h)

theorem execMfcp_keeps {s : State} {o : FMfc} (h : s.memOk) : KeptOut (execMfcp o s) := by
  refine State.keptOut_runTarget h fun _ => ?_
  refine Kept.seq (Cx.kept_privileged h) fun _ => ?_
  refine Kept.seq sysS_kept fun _ => ?_
  refine Kept.either trivial Kept.pass fun _ => ?_
  refine Kept.seq (Cx.kept_touch h) fun _ => ?_
  exact Kept.either (Cx.kept_target1 h) Kept.pass fun _ => Kept.done (State.memOk_result h)

theorem execTlbinv_keeps {s : State} {o : FA} (h : s.memOk) : KeptOut (execTlbinv o s) := by
  unfold execTlbinv
  refine State.keptOut_runTarget h (fun _ => ?_)
  refine Kept.seq (Cx.kept_privileged h) fun _ => ?_
  split
  · exact Kept.ite h (Kept.done h)
  · refine Kept.either trivial Kept.pass fun _ => ?_
    refine Kept.seq (Cx.kept_touch h) fun _ => ?_
    refine Kept.seq (Cx.kept_target1 h) fun _ => ?_
    exact State.memOk_modWarp (State.memOk_post (State.memOk_of_eq (Cx.memOk_command (State.memOk_newId h)) rfl rfl))

theorem State.memOk_modDie {s : State} {d : Nat} {f : Die → Die} (h : s.memOk) : (s.modDie d f).memOk := h

theorem State.memOk_setWorld {s : State} {kind ix : Nat} {w : Bool} (h : s.memOk) : (s.setWorld kind ix w).memOk :=
  State.memOk_ite h h

theorem State.memOk_zeroMem {s : State} {mine : Nat → Bool} (h : s.memOk) : (s.zeroMem mine).memOk :=
  ⟨Memory.wf_filter h.1 _, h.2⟩

theorem State.memOk_zeroBlock {s : State} {kind ix : Nat} (h : s.memOk) : (s.zeroBlock kind ix).memOk := by
  unfold State.zeroBlock
  split
  · exact h
  · exact h
  · exact h
  · exact h
  · exact h
  · exact h
  · exact h
  · split
    · exact State.memOk_zeroMem h
    · exact h
  · exact h

theorem State.memOk_switchWorld {s : State} {block : Word} (h : s.memOk) : (s.switchWorld block).1.memOk := by
  unfold State.switchWorld
  dsimp only
  split
  · exact h
  · split
    · exact h
    · exact State.memOk_setWorld (State.memOk_zeroBlock h)

theorem execWswitch_keeps {s : State} {o : FDa} (h : s.memOk) : KeptOut (execWswitch o s) := by
  unfold execWswitch
  refine State.keptOut_runTarget h (fun _ => ?_)
  refine Kept.seq (Cx.kept_privileged h) fun _ => ?_
  refine Kept.seq sysS_kept fun _ => ?_
  refine Kept.seq sysS_kept fun _ => ?_
  refine Kept.seq (Cx.kept_touch h) fun _ => ?_
  refine Kept.done ?_
  refine State.memOk_result ?_
  split
  · exact State.memOk_switchWorld (Cx.memOk_command h)
  · exact Cx.memOk_command h

theorem execHalt_keeps {s : State} {o : FNone} (h : s.memOk) : KeptOut (execHalt o s) := by
  unfold execHalt
  refine State.keptOut_runTarget h (fun _ => ?_)
  refine Kept.seq (Cx.kept_privileged h) fun _ => ?_
  split
  · exact Kept.done h
  · exact h

end Sys2Proof.Machine
end

section
/-! SUPPORT. Results, loads and stores, copies and MX passes at work. -/

namespace Sys2Proof.Machine

open Sys2Proof

theorem execArbStarveLimit_keeps {s : State} {uid : Nat} (h : s.memOk) : KeptOut (execArbStarveLimit uid s) := by
  unfold execArbStarveLimit
  split
  · exact h
  · exact KeptOut.ite h h

theorem State.memOk_reachCore {s : State} {c t : Nat} (h : s.memOk) : (s.reachCore c t).memOk := h

theorem State.memOk_logResult {s : State} {uid : Nat} {r : Result} (h : s.memOk) : (s.logResult uid r).memOk :=
  State.memOk_ite h (State.memOk_fold (fun _ _ h1 => State.memOk_logWarp h1) h)

theorem execRegisterResultReturn_keeps {s : State} {uid id : Nat} (h : s.memOk) : KeptOut (execRegisterResultReturn uid id s) := by
  unfold execRegisterResultReturn
  split
  · exact h
  · split
    · exact h
    · exact KeptOut.ite h (State.memOk_writeback (State.memOk_modWarp (State.memOk_logResult (State.memOk_ite h h))))

theorem execLqtblComplete_keeps {s : State} {core id : Nat} (h : s.memOk) : KeptOut (execLqtblComplete core id s) := by
  unfold execLqtblComplete
  split
  · exact h
  · exact KeptOut.ite h (KeptOut.ite h h)

theorem State.memOk_wake {s : State} {u : Nat} {r : Option Stall} (h : s.memOk) : (s.wake u r).memOk := by
  unfold State.wake
  split
  · exact State.memOk_logWarp h
  · exact h

theorem State.memOk_orphanAll {s : State} {uid : Nat} (h : s.memOk) : (s.orphanAll uid).memOk :=
  State.memOk_fold (fun _ _ h1 => State.memOk_orphan h1) h

theorem State.memOk_logDigest {s : State} {core ctx : Nat} (h : s.memOk) : (s.logDigest core ctx).memOk := by
  unfold State.logDigest
  split
  · exact h
  · exact State.memOk_extend (State.memOk_logInput h)

theorem State.memOk_obsWrite {s : State} {ctx va : Nat} {l : List Word} {a1 : Nat} (h : s.memOk) :
    (s.obsWrite ctx va l a1).memOk := by
  unfold State.obsWrite
  split
  · exact h
  · refine State.memOk_ite h ?_
    refine State.memOk_obsWrite ?_
    split
    · exact State.memOk_wrWords h _ _
    · exact h

theorem State.memOk_writeChunk {s : State} {core i : Nat} {g : Seg} (h : s.memOk) : (s.writeChunk core i g).memOk := by
  unfold State.writeChunk
  split
  · exact State.memOk_modCore (State.memOk_obsWrite h)
  · exact h

theorem State.memOk_writeRest {s : State} {core i a1 : Nat} (h : s.memOk) : (s.writeRest core i a1).memOk := by
  unfold State.writeRest
  split
  · exact h
  · split
    · exact h
    · exact State.memOk_ite h (State.memOk_ite (State.memOk_writeRest (State.memOk_writeChunk h)) (State.memOk_ite
        (State.memOk_writeRest h) h))

theorem State.memOk_endSeg {s : State} {core ctx reason : Nat} (h : s.memOk) : (s.endSeg core ctx reason).memOk := by
  unfold State.endSeg
  dsimp only
  split
  · exact h
  · exact State.memOk_trace (State.memOk_writeRest (State.memOk_modCore (State.memOk_extend (State.memOk_logDigest h))))

theorem State.memOk_exitTeam {s : State} {t core : Nat} (h : s.memOk) : (s.exitTeam t core).memOk := by
  unfold State.exitTeam
  exact State.memOk_post (State.memOk_ite (State.memOk_endSeg (State.memOk_of_eq (State.memOk_trace (State.memOk_ite
    (State.memOk_ring h) h)) rfl rfl)) (State.memOk_of_eq (State.memOk_trace (State.memOk_ite (State.memOk_ring h) h)) rfl rfl))

theorem execWarpRetire_keeps {s : State} {uid : Nat} (h : s.memOk) : KeptOut (execWarpRetire uid s) := by
  unfold execWarpRetire
  split
  · exact h
  refine KeptOut.ite h (KeptOut.ite (State.memOk_post h) ?_)
  extract_lets s0 s1 s2 s3
  have h0 : s0.memOk := State.memOk_ite h (State.memOk_wake h)
  have h1 : s1.memOk := State.memOk_fold (fun _ _ ht => State.memOk_dropQueue ht) (State.memOk_orphanAll h0)
  clear_value s1
  have h3 : s3.memOk := State.memOk_modTeam (State.memOk_modWarp h1)
  clear_value s3
  exact KeptOut.ite (State.memOk_exitTeam h3) h3

theorem execTrapEntry_keeps {s : State} {uid : Nat} (h : s.memOk) : KeptOut (execTrapEntry uid s) := by
  unfold execTrapEntry
  split
  · exact h
  · split
    · exact h
    · exact KeptOut.ite h (State.memOk_enterTrap h)

theorem execMemberLeave_keeps {s : State} {id : Nat} (h : s.memOk) : KeptOut (execMemberLeave id s) := State.memOk_leave h

theorem State.memOk_applyReq {s : State} {id : Nat} (h : s.memOk) : (s.applyReq id).memOk := by
  unfold State.applyReq
  split
  · exact h
  · split
    · exact State.memOk_applyRc h
    · exact State.memOk_applyRc h
    · exact State.memOk_applyMx h
    · exact State.memOk_applyMx h
    · exact State.memOk_applyGrid h
    · exact State.memOk_applyGrid h
    · exact State.memOk_applyCreel h
    · exact State.memOk_applyCreel h
    · exact State.memOk_applyCreel h
    · exact State.memOk_applyCreel h
    · exact State.memOk_applyCreel h

theorem execReleaseNotice_keeps {s : State} {id : Nat} (h : s.memOk) : KeptOut (execReleaseNotice id s) := by
  unfold execReleaseNotice
  refine KeptOut.ite h ?_
  split
  · exact KeptOut.ite (State.memOk_applyReq h) h
  · split
    next e1 => exact OptKept.get (P := State.memOk) e1 (State.kept_releaseOp h)
    · exact h

theorem State.memOk_message {s : State} {ch kind : Nat} {own : List SentFor} {words : List Word} (h : s.memOk) :
    (s.message ch kind own words).memOk :=
  State.memOk_enqueue h

theorem execChimeLeave_keeps {s : State} {uid : Nat} (h : s.memOk) : KeptOut (execChimeLeave uid s) := by
  unfold execChimeLeave
  split
  · exact h
  · split
    · exact h
    · refine KeptOut.ite h ?_
      refine KeptOut.ite ?_ ?_
      · refine KeptOut.ite h ?_
        split
        · exact h
        · exact KeptOut.ite (State.memOk_post (State.memOk_wantChan h)) (State.memOk_message h)
      · split
        · exact KeptOut.ite h h
        · exact KeptOut.ite h (KeptOut.ite h h)

theorem State.memOk_inbox {s : State} {uid : Nat} {tag sender : Word} (h : s.memOk) : (s.inbox uid tag sender).memOk :=
  State.memOk_serveClaims h

theorem execChimeInboxArrival_keeps {s : State} {id : Nat} (h : s.memOk) : KeptOut (execChimeInboxArrival id s) := by
  unfold execChimeInboxArrival
  split
  · exact h
  · split
    · exact h
    · refine KeptOut.ite h ?_
      split
      · exact State.memOk_post (State.memOk_inbox h)
      · exact State.memOk_inbox h

theorem execChimeDiscard_keeps {s : State} {id : Nat} (h : s.memOk) : KeptOut (execChimeDiscard id s) := by
  unfold execChimeDiscard
  split
  · exact h
  · split
    · exact State.memOk_post (State.memOk_bumpHdr h)
    · exact State.memOk_bumpHdr h

theorem State.kept_pageRequest {s : State} {r : WalkReq} (h : s.memOk) : OptKept (fun p => p.1.memOk) (s.pageRequest r) :=
  OptKept.ite OptKept.none (OptKept.some (State.memOk_modCtx (State.memOk_wrWords h _ _)))

theorem State.memOk_missPage {s : State} {r : WalkReq} (h : s.memOk) : (s.missPage r).memOk := by
  unfold State.missPage
  split
  · exact h
  next e1 =>
    exact State.memOk_of_eq (OptKept.get (P := fun p : State × _ => p.1.memOk) e1 (State.kept_pageRequest h)) rfl rfl

theorem execTlbWalkComplete_keeps {s : State} {r : WalkReq} (h : s.memOk) : KeptOut (execTlbWalkComplete r s) := by
  unfold execTlbWalkComplete
  refine KeptOut.ite h ?_
  refine KeptOut.ite (State.memOk_missPage h) ?_
  dsimp only
  split
  · exact State.memOk_of_eq (State.memOk_fillTlb (State.memOk_walked h)) rfl rfl
  · exact State.memOk_of_eq (State.memOk_walked h) rfl rfl
  · exact State.memOk_missPage (State.memOk_walked h)

theorem State.memOk_logRefused {s : State} {o : Op} {refused : List (Nat × Addr)} (h : s.memOk) : (s.logRefused o refused).memOk :=
  State.memOk_logWarp h

theorem State.memOk_answer {s : State} {o : Op} {rid : Nat} (h : s.memOk) : (s.answer o rid).memOk :=
  State.memOk_ite h (State.memOk_ite h (State.memOk_modWarp (State.memOk_writeback (State.memOk_logResult (State.memOk_logRefused
    h)))))

theorem State.memOk_refuseStore {s : State} {o : Op} {u : MUnit} (h : s.memOk) : (s.refuseStore o u).memOk :=
  State.memOk_ite h (State.memOk_addReport (State.memOk_modWarp (State.memOk_record h)))

theorem State.memOk_tryEnd {s : State} {id : Nat} (h : s.memOk) : (s.tryEnd id).memOk := by
  unfold State.tryEnd
  split
  · exact h
  · refine State.memOk_ite (State.memOk_tryMember h) ?_
    split
    · exact State.memOk_answer (State.memOk_of_eq (State.memOk_tryMember h) rfl rfl)
    · split
      · exact State.memOk_refuseStore (State.memOk_of_eq (State.memOk_tryMember h) rfl rfl)
      · exact State.memOk_of_eq (State.memOk_tryMember h) rfl rfl

theorem State.memOk_doneUnit {s : State} {id i : Nat} {val : List Byte} {bad : Bool} (h : s.memOk) :
    (s.doneUnit id i val bad).memOk := by
  unfold State.doneUnit
  split
  · exact h
  · exact h

theorem State.memOk_refuseUnits {s : State} {id : Nat} {js : List Nat} (h : s.memOk) : (s.refuseUnits id js).memOk :=
  State.memOk_tryEnd (State.memOk_fold (fun _ _ h1 => State.memOk_doneUnit h1) h)

theorem State.memOk_markSent {s : State} {id : Nat} {js : List Nat} (h : s.memOk) : (s.markSent id js).memOk := by
  unfold State.markSent
  split
  · exact h
  · exact h

theorem State.memOk_fillL1 {s : State} {core line : Nat} {bytes : List Byte} (h : s.memOk) : (s.fillL1 core line bytes).memOk := h

theorem State.memOk_poisonRead {s : State} {o : Op} {u : MUnit} {pa : Nat} (h : s.memOk) : (s.poisonRead o u pa).memOk :=
  State.memOk_terminate (State.memOk_record h)

theorem State.memOk_devLoad {s : State} {o : Op} {salt pa n : Nat} (h : s.memOk) : (s.devLoad o salt pa n).2.memOk := by
  unfold State.devLoad
  split
  · exact h
  · exact State.memOk_ite (State.memOk_fillL1 (State.memOk_homeRead h _ _ _)) (State.memOk_modCore (State.memOk_homeRead h _ _ _))

theorem State.memOk_bindUnit {s : State} {id : Nat} {o : Op} {salt i : Nat} (h : s.memOk) : (s.bindUnit id o salt i).memOk := by
  unfold State.bindUnit
  split
  · dsimp only
    split
    · exact State.memOk_doneUnit h
    · exact State.memOk_doneUnit (State.memOk_homeRead h _ _ _)
    · exact State.memOk_ite (State.memOk_poisonRead (State.memOk_homeRead h _ _ _)) (State.memOk_doneUnit (State.memOk_ite
        (State.memOk_homeRead h _ _ _) (State.memOk_modWarp (State.memOk_homeRead h _ _ _))))
    · exact State.memOk_ite (State.memOk_poisonRead (State.memOk_devLoad h)) (State.memOk_doneUnit (State.memOk_devLoad h))
    · exact State.memOk_doneUnit h
    · exact State.memOk_ite (State.memOk_poisonRead h) (State.memOk_doneUnit h)
    · exact State.memOk_ite (State.memOk_poisonRead h) (State.memOk_doneUnit h)
    · exact State.memOk_doneUnit h
  · dsimp only
    split
    · exact State.memOk_doneUnit h
    · exact State.memOk_doneUnit (State.memOk_fillL1 (State.memOk_homeRead h _ _ _))
    · exact State.memOk_ite (State.memOk_poisonRead (State.memOk_homeRead h _ _ _)) (State.memOk_doneUnit (State.memOk_ite
        (State.memOk_homeRead h _ _ _) (State.memOk_modWarp (State.memOk_homeRead h _ _ _))))
    · exact State.memOk_ite (State.memOk_poisonRead (State.memOk_devLoad h)) (State.memOk_doneUnit (State.memOk_devLoad h))
    · exact State.memOk_doneUnit h
    · exact State.memOk_ite (State.memOk_poisonRead h) (State.memOk_doneUnit h)
    · exact State.memOk_ite (State.memOk_poisonRead h) (State.memOk_doneUnit h)
    · exact State.memOk_doneUnit h

theorem State.kept_bindWord {s : State} {id unit : Nat} {o : Op} (h : s.memOk) : OptKept State.memOk (s.bindWord id unit o) :=
  OptKept.ite (OptKept.some (State.memOk_tryEnd (State.memOk_fold (fun _ _ h1 => State.memOk_bindUnit h1) h))) OptKept.none

theorem execLoadReturn_keeps {s0 : State} {id unit : Nat} (hs0 : s0.memOk) : KeptOut (execLoadReturn id unit s0) := by
  unfold execLoadReturn
  dsimp only
  split
  · exact State.memOk_enterNear hs0
  · refine KeptOut.ite (State.memOk_enterNear hs0) ?_
    split
    · refine KeptOut.ite (State.memOk_post (State.memOk_enterNear hs0)) ?_
      split
      · exact State.memOk_refuseUnits (State.memOk_enterNear hs0)
      next e1 =>
        exact State.memOk_markSent (OptKept.get (P := State.memOk) e1 (State.kept_request (State.memOk_enterNear hs0)))
    · split
      next e2 => exact OptKept.get (P := State.memOk) e2 (State.kept_bindWord (State.memOk_enterNear hs0))
      · exact State.memOk_post (State.memOk_enterNear hs0)

theorem State.memOk_dropL1 {s : State} {core pa : Nat} (h : s.memOk) : (s.dropL1 core pa).memOk := h

theorem State.memOk_redLane {s : State} {o : Op} {u : MUnit} {pa : Nat} {aln : Bool} (h : s.memOk) : (s.redLane o u pa aln).memOk :=
  State.memOk_dropL1 (State.memOk_ite (State.memOk_ite (State.memOk_contribute h _ _ _ _ _ _ _) (State.memOk_contribute h _ _ _ _ _
    _ _)) (State.memOk_post (State.memOk_ite (State.memOk_contribute h _ _ _ _ _ _ _) (State.memOk_contribute h _ _ _ _ _ _ _))))

theorem State.memOk_hostLate {s : State} {pa : Nat} {l : List Byte} (h : s.memOk) : (s.hostLate pa l).memOk :=
  State.memOk_of_eq (State.memOk_hostWr h _ _) rfl rfl

theorem State.memOk_unpoison {s : State} {team line : Nat} (h : s.memOk) : (s.unpoison team line).memOk := h

theorem State.memOk_storeUnit {s : State} {o : Op} {u : MUnit} (h : s.memOk) : (s.storeUnit o u).memOk := by
  unfold State.storeUnit
  split
  · exact State.memOk_ite (State.memOk_redLane h) (State.memOk_homeWrite h _ _ _)
  · exact State.memOk_ite (State.memOk_hostWr h _ _) (State.memOk_hostLate h)
  · exact State.memOk_ite h h
  · exact State.memOk_winWrite h
  · exact h

theorem execStoreAtHome_keeps {s : State} {id unit : Nat} (h : s.memOk) : KeptOut (execStoreAtHome id unit s) := by
  unfold execStoreAtHome
  split
  · exact h
  · refine KeptOut.ite h ?_
    split
    · refine KeptOut.ite h ?_
      dsimp only
      split
      · exact State.memOk_refuseUnits h
      next e1 => exact State.memOk_markSent (OptKept.get (P := State.memOk) e1 (State.kept_request h))
    · exact KeptOut.ite h (State.memOk_tryEnd (State.memOk_doneUnit (State.memOk_storeUnit h)))

theorem State.memOk_commitUnits {s : State} {o : Op} {m : BitVec 4} (h : s.memOk) : (s.commitUnits o m).2.memOk := by
  unfold State.commitUnits
  dsimp only
  split
  · exact State.memOk_fold (fun _ _ h1 => State.memOk_dropL1 (State.memOk_homeWrite h1 _ _ _)) (State.memOk_mergeAt h _)
  · exact State.memOk_mergeAt h _

theorem State.memOk_atomicUnit {s : State} {core code : Nat} {t : Target} {n : Nat} {data : List Byte} (h : s.memOk) :
    (s.atomicUnit core code t n data).2.memOk := by
  unfold State.atomicUnit
  split
  · exact State.memOk_dropL1 (State.memOk_homeWrite (State.memOk_mergeAt h _) _ _ _)
  · exact State.memOk_hostLate h
  · exact h
  · exact h

theorem execAtomicAtHome_keeps {s : State} {id unit : Nat} (h : s.memOk) : KeptOut (execAtomicAtHome id unit s) := by
  unfold execAtomicAtHome
  split
  · exact h
  · refine KeptOut.ite h ?_
    split
    · refine KeptOut.ite h ?_
      exact State.memOk_tryEnd (State.memOk_fold (fun _ _ h1 => State.memOk_doneUnit h1) (State.memOk_commitUnits h))
    · refine KeptOut.ite h ?_
      split
      · exact State.memOk_refuseUnits h
      · exact State.memOk_markSent (State.memOk_message h)
    · refine KeptOut.ite h ?_
      exact KeptOut.ite (State.memOk_poisonRead h) (State.memOk_tryEnd (State.memOk_doneUnit (State.memOk_atomicUnit h)))
    · exact h

theorem execPartialFlush_keeps {s : State} {line slice : Nat} (h : s.memOk) : KeptOut (execPartialFlush line slice s) := by
  unfold execPartialFlush
  split
  · exact h
  · dsimp only
    split
    · exact h
    · exact h

theorem execWindowAccess_keeps {s : State} {id unit : Nat} (h : s.memOk) : KeptOut (execWindowAccess id unit s) := by
  unfold execWindowAccess
  split
  · exact h
  · refine KeptOut.ite h ?_
    refine KeptOut.ite ?_ ?_
    · split
      next e1 => exact OptKept.get (P := State.memOk) e1 (State.kept_bindWord h)
      · exact h
    · split
      · exact KeptOut.ite h (State.memOk_post (State.memOk_markSent h))
      · exact KeptOut.ite h (State.memOk_tryEnd (State.memOk_doneUnit (State.memOk_storeUnit h)))

theorem execRemoteRefusal_keeps {s : State} {id unit _reason : Nat} (h : s.memOk) :
    KeptOut (execRemoteRefusal id unit _reason s) := by
  unfold execRemoteRefusal
  split
  · exact h
  · exact KeptOut.ite h (State.memOk_tryEnd (State.memOk_doneUnit h))

theorem execPortValueVisible_keeps {s : State} {id : Nat} (h : s.memOk) : KeptOut (execPortValueVisible id s) := by
  unfold execPortValueVisible
  split
  · exact h
  · refine KeptOut.ite h ?_
    refine KeptOut.ite h ?_
    exact State.memOk_bumpHdr (State.memOk_modWarp (State.memOk_ite (State.memOk_of_eq (State.memOk_ite h (State.memOk_logWarp h))
      rfl rfl) (State.memOk_post (State.memOk_withTx (State.memOk_ite h (State.memOk_logWarp h))))))

theorem execPortWatchdogExpiry_keeps {s : State} {uid : Nat} (h : s.memOk) : KeptOut (execPortWatchdogExpiry uid s) := by
  unfold execPortWatchdogExpiry
  split
  · exact State.memOk_raise (State.memOk_of_eq (State.memOk_wake (State.memOk_reachCore h)) rfl rfl)
  · exact h

theorem execCopyBegin_keeps {s : State} {id : Nat} (h : s.memOk) : KeptOut (execCopyBegin id s) := by
  unfold execCopyBegin
  split
  · exact h
  · split
    · exact KeptOut.ite h h
    · exact KeptOut.ite h (KeptOut.ite (State.memOk_ite (State.memOk_tryEndCopy h) h) h)
    · exact h

theorem State.memOk_failCopy {s : State} {id reason : Nat} {dst : Bool} {a : Nat} (h : s.memOk) :
    (s.failCopy id reason dst a).memOk := by
  unfold State.failCopy
  split
  · exact h
  · exact State.memOk_ite (State.memOk_tryEndCopy h) (State.memOk_stopCopy h)

theorem State.memOk_askElems {s : State} {id : Nat} {a1 : List (Nat × Nat × Nat)} (h : s.memOk) : (s.askElems id a1).memOk := by
  unfold State.askElems
  split
  · exact h
  · split
    · exact h
    · refine State.memOk_ite (State.memOk_askElems h) ?_
      split
      · exact State.memOk_failCopy h
      next e1 =>
        exact State.memOk_askElems (State.memOk_of_eq (OptKept.get (P := State.memOk) e1 (State.kept_request h)) rfl rfl)

theorem State.memOk_copyWalks {s : State} {c : Copy} {ps : List Nat} {dst : Bool} (h : s.memOk) : (s.copyWalks c ps dst).memOk :=
  State.memOk_fold (fun _ _ h1 => State.memOk_ite (State.memOk_walked h1) h1) h

theorem State.memOk_readChunk {s : State} {id : Nat} {devices : List Nat} (h : s.memOk) : (s.readChunk id devices).memOk := by
  unfold State.readChunk
  split
  · exact h
  next c _ =>
  extract_lets again mcast free chunk ps es q s1 s2 s3 s4 ls top left c1 s5
  have hagain : again.memOk := State.memOk_post h
  clear_value again
  refine State.memOk_ite h (State.memOk_ite hagain (State.memOk_ite hagain ?_))
  split
  · exact State.memOk_failCopy h
  · exact State.memOk_post (State.memOk_askElems h)
  · exact hagain
  · exact State.memOk_post (State.memOk_await h)
  · refine State.memOk_ite hagain ?_
    have h1 : s1.memOk := State.memOk_copyWalks h
    have h2 : s2.memOk := State.memOk_ite h1 (State.memOk_copyWalks h1)
    have h4 : s4.memOk := State.memOk_fold (fun _ _ ht => State.memOk_countRead ht) (State.memOk_mergeAt h2 _)
    have h5 : s5.memOk := State.memOk_postAll (State.memOk_putCopy h4)
    clear_value s5
    split
    · exact State.memOk_failCopy h5
    · exact State.memOk_ite (State.memOk_tryEndCopy h5) (State.memOk_post h5)

theorem State.memOk_collSend {s : State} {ctx group kind n index rank : Nat} {own : List SentFor} {body : List Word} (h : s.memOk) :
    (s.collSend ctx group kind n index rank own body).memOk := by
  unfold State.collSend
  refine State.memOk_ite (State.memOk_post (State.memOk_scan h)) ?_
  split
  · exact State.memOk_message (State.memOk_scan h)
  · exact State.memOk_scan h

theorem State.memOk_readSource {s : State} {id : Nat} {c : Copy} (h : s.memOk) : (s.readSource id c).memOk := by
  unfold State.readSource
  refine State.memOk_ite h ?_
  refine State.memOk_ite h ?_
  split
  · dsimp only
    split
    · exact State.memOk_failCopy h
    · exact State.memOk_post (State.memOk_askElems h)
    · exact h
    · exact State.memOk_post (State.memOk_await h)
    · exact State.memOk_failCopy h
    · exact State.memOk_ite h (State.memOk_post (State.memOk_putCopy (State.memOk_fold (fun _ _ h1 => State.memOk_countRead h1)
        (State.memOk_mergeAt (State.memOk_copyWalks h) _))))
  · dsimp only
    split
    · exact State.memOk_failCopy h
    · exact State.memOk_post (State.memOk_askElems h)
    · exact h
    · exact State.memOk_post (State.memOk_await h)
    · exact State.memOk_failCopy h
    · exact State.memOk_ite h (State.memOk_post (State.memOk_putCopy (State.memOk_fold (fun _ _ h2 => State.memOk_countRead h2)
        (State.memOk_mergeAt (State.memOk_copyWalks h) _))))

theorem State.memOk_sendExp {s : State} {c : Copy} {k : Coll} {coord : Nat} (h : s.memOk) : (s.sendExp c k coord).memOk :=
  State.memOk_fold (fun _ _ h1 => State.memOk_collSend h1) h

theorem State.memOk_sendContrib {s : State} {c : Copy} {k : Coll} {coord : Nat} (h : s.memOk) : (s.sendContrib c k coord).memOk :=
  State.memOk_fold (fun _ _ h1 => State.memOk_collSend h1) (State.memOk_putColl h)

theorem State.memOk_collStep {s : State} {id : Nat} {c : Copy} {k : Coll} (h : s.memOk) : (s.collStep id c k).memOk :=
  State.memOk_ite (State.memOk_ite h (State.memOk_ite (State.memOk_failCopy h) (State.memOk_post (State.memOk_collSend
    (State.memOk_putColl h))))) (State.memOk_ite (State.memOk_readSource h) (State.memOk_ite (State.memOk_post (State.memOk_sendExp
    (State.memOk_putColl h))) (State.memOk_ite (State.memOk_sendContrib h) h)))

theorem execCopyChunkRead_keeps {s : State} {id : Nat} (h : s.memOk) : KeptOut (execCopyChunkRead id s) := by
  unfold execCopyChunkRead
  split
  · exact h
  · refine KeptOut.ite (State.memOk_stopCopy h) ?_
    refine KeptOut.ite h ?_
    split
    · exact State.memOk_readChunk h
    · split
      · exact KeptOut.ite (State.memOk_collStep h) h
      · exact h

theorem State.memOk_loseLanding {s : State} {id : Nat} {l : Landing} (h : s.memOk) : (s.loseLanding id l).memOk := by
  unfold State.loseLanding
  split
  · exact h
  · exact h

theorem State.memOk_count {s : State} {core n m : Nat} (h : s.memOk) : (s.count core n m).memOk :=
  State.memOk_fire (State.memOk_ite (State.memOk_endWaits h) h)

theorem State.memOk_dropLine {s : State} {team line : Nat} {short : Bool} (h : s.memOk) : (s.dropLine team line short).memOk := h

theorem State.memOk_lineLanded {s : State} {id team line n : Nat} (h : s.memOk) : (s.lineLanded id team line n).memOk := by
  unfold State.lineLanded
  split
  · exact h
  · split
    · exact h
    · exact State.memOk_ite (State.memOk_dropLine (State.memOk_ite h h)) h

theorem State.memOk_landed {s : State} {id : Nat} {l : Landing} (h : s.memOk) : (s.landed id l).memOk := by
  unfold State.landed
  split
  · exact h
  · refine State.memOk_tryEndCopy ?_
    refine State.memOk_ite ?_ ?_
    · refine State.memOk_fold (fun _ _ h1 => ?_) ?_
      · split
        · exact State.memOk_modTeam h1
        · exact h1
      · refine State.memOk_fold (fun _ _ h2 => ?_) ?_
        · split
          · exact State.memOk_lineLanded h2
          · exact h2
        · split
          · exact State.memOk_ite (State.memOk_count (State.memOk_putCopy h)) (State.memOk_putCopy h)
          · exact State.memOk_putCopy h
    · refine State.memOk_fold (fun _ _ h3 => ?_) ?_
      · split
        · exact State.memOk_lineLanded h3
        · exact h3
      · split
        · exact State.memOk_ite (State.memOk_count (State.memOk_putCopy h)) (State.memOk_putCopy h)
        · exact State.memOk_putCopy h

theorem State.memOk_winTaint {s : State} {pa n : Nat} (h : s.memOk) : (s.winTaint pa n).memOk :=
  State.memOk_fold (fun _ _ h1 => State.memOk_winMark h1) h

theorem State.memOk_landElem {s : State} {writer : Option Nat} {rop code : Nat} {poison : Bool} {t : Target} {b : List Byte} (h :
    s.memOk) : (s.landElem writer rop code poison t b).memOk := by
  unfold State.landElem
  split
  · split
    · exact State.memOk_ite (State.memOk_toHost (State.memOk_homeWrite (State.memOk_mergeAt h _) _ _ _)) (State.memOk_homeWrite
        (State.memOk_mergeAt h _) _ _ _)
    · exact State.memOk_ite (State.memOk_toHost (State.memOk_hostWr h _ _)) (State.memOk_hostLate h)
    · exact h
    · exact State.memOk_ite (State.memOk_winTaint (State.memOk_winWrite h)) (State.memOk_winWrite h)
    · exact h
  · split
    · exact State.memOk_ite (State.memOk_toHost (State.memOk_homeWrite (State.memOk_mergeAt h _) _ _ _)) (State.memOk_homeWrite
        (State.memOk_mergeAt h _) _ _ _)
    · exact State.memOk_ite (State.memOk_toHost (State.memOk_hostWr h _ _)) (State.memOk_hostLate h)
    · exact h
    · exact State.memOk_ite (State.memOk_winTaint (State.memOk_winWrite h)) (State.memOk_winWrite h)
    · exact h

theorem State.memOk_land {s : State} {id ix : Nat} (h : s.memOk) : (s.land id ix).memOk := by
  unfold State.land
  split
  · exact h
  next c _ =>
  split
  · exact h
  next l _ =>
  extract_lets first mark refuse data r
  have hmark {t : State} (ht : t.memOk) : (mark t).memOk := State.memOk_putCopy ht
  have hrefuse (k : Nat) : (refuse k).memOk := State.memOk_failCopy (State.memOk_loseLanding h)
  have hland {f : State → Nat × Target × List Byte → State} (hf : ∀ t e, t.memOk → (f t e).memOk) :
      ((l.elems.foldl f s).landed id l).memOk := State.memOk_landed (State.memOk_fold hf h)
  clear_value mark refuse
  split
  · exact State.memOk_landed h
  · exact hrefuse _
  refine State.memOk_ite h ?_
  split
  · extract_lets r1
    clear_value r1
    split
    · exact hrefuse _
    next e => exact hmark (OptKept.get (P := State.memOk) e (State.kept_requestOf h))
  · exact hmark (State.memOk_post h)
  · exact State.memOk_ite (hrefuse _) (State.memOk_ite (State.memOk_post h) (hland fun _ _ ht => State.memOk_landElem ht))
  · exact State.memOk_ite (hrefuse _) (hland fun _ _ ht => State.memOk_landElem ht)
  · exact hland fun _ _ ht => State.memOk_landElem ht

theorem execCopyLanding_keeps {s : State} {id line : Nat} (h : s.memOk) : KeptOut (execCopyLanding id line s) :=
  State.memOk_land h

theorem execHoldingSlotDrain_keeps {s : State} {id line _member : Nat} (h : s.memOk) :
    KeptOut (execHoldingSlotDrain id line _member s) :=
  State.memOk_land h

theorem State.memOk_closeCopy {s : State} {id : Nat} {c : Copy} {word : Word} (h : s.memOk) : (s.closeCopy id c word).memOk := by
  unfold State.closeCopy
  split
  · exact State.memOk_post (State.memOk_statusV (State.memOk_of_eq (State.memOk_fold (fun _ _ h1 => State.memOk_dropLine h1) h) rfl
      rfl))
  · exact State.memOk_statusV (State.memOk_of_eq (State.memOk_fold (fun _ _ h2 => State.memOk_dropLine h2) h) rfl rfl)

theorem State.memOk_copyRecord {s : State} {c : Copy} {cause engine inst detail : Nat} {addr : Addr} (h : s.memOk) :
    (s.copyRecord c cause engine inst detail addr).memOk :=
  State.memOk_record h

theorem State.memOk_poisonGroup {s : State} {ctx g reason n : Nat} (h : s.memOk) : (s.poisonGroup ctx g reason n).memOk := by
  unfold State.poisonGroup
  extract_lets ids s1 s2
  have h1 : s1.memOk := State.memOk_modGroup h
  clear_value s1
  have h2 : s2.memOk := State.memOk_of_eq h1 rfl rfl
  exact State.memOk_fold (fun _ _ ht => State.memOk_stopCopy ht) h2

theorem State.memOk_collFail {s : State} {ctx g n reason : Nat} (h : s.memOk) : (s.collFail ctx g n reason).memOk :=
  State.memOk_poisonGroup (State.memOk_fold (fun _ _ h1 => State.memOk_collSend h1) h)

theorem State.memOk_collAll {s : State} {ctx group kind n index : Nat} {body : List Word} (h : s.memOk) :
    (s.collAll ctx group kind n index body).memOk :=
  State.memOk_fold (fun _ _ h1 => State.memOk_collSend h1) h

theorem State.memOk_tryDone {s : State} {ctx group n : Nat} (h : s.memOk) : (s.tryDone ctx group n).memOk := by
  unfold State.tryDone
  split
  · exact h
  · exact State.memOk_ite (State.memOk_collAll (State.memOk_putColl h)) h

theorem State.memOk_tryResult {s : State} {k : Coll} (h : s.memOk) : (s.tryResult k).memOk := by
  unfold State.tryResult
  split
  · exact h
  · exact State.memOk_ite h (State.memOk_tryDone (State.memOk_fold (fun _ _ h1 => State.memOk_fold (fun _ _ h2 =>
      State.memOk_collSend h2) h1) (State.memOk_putColl h)))

theorem State.memOk_tryGo {s : State} {k : Coll} (h : s.memOk) : (s.tryGo k).memOk := by
  unfold State.tryGo
  split
  · exact h
  · exact State.memOk_ite h (State.memOk_ite (State.memOk_collFail h) (State.memOk_ite h (State.memOk_ite (State.memOk_tryResult
      (State.memOk_ite (State.memOk_collAll (State.memOk_putColl h)) (State.memOk_fold (fun _ _ h1 => State.memOk_collAll h1)
      (State.memOk_putColl h)))) (State.memOk_ite (State.memOk_collAll (State.memOk_putColl h)) (State.memOk_fold (fun _ _ h2 =>
      State.memOk_collAll h2) (State.memOk_putColl h))))))

theorem State.memOk_goWaiting {s : State} (h : s.memOk) : (s.goWaiting).memOk := by
  unfold State.goWaiting
  refine State.memOk_fold (fun _ _ h1 => ?_) h
  split
  · exact State.memOk_ite h1 (State.memOk_tryGo h1)
  · exact h1

theorem State.memOk_memberFailed {s : State} {c : Copy} (h : s.memOk) : (s.memberFailed c).memOk := by
  unfold State.memberFailed
  split
  · exact h
  · refine State.memOk_ite h ?_
    refine State.memOk_ite (State.memOk_collFail h) ?_
    refine State.memOk_collSend ?_
    split
    · exact State.memOk_putColl h
    · exact h

theorem State.memOk_signalFar {s : State} {id : Nat} {c : Copy} (h : s.memOk) : (s.signalFar id c).memOk := by
  unfold State.signalFar
  refine State.memOk_fold (fun _ _ h1 => ?_) h
  refine State.memOk_ite h1 ?_
  split
  · exact State.memOk_message (State.memOk_of_eq h1 rfl rfl)
  · exact h1

theorem State.memOk_signalHere {s : State} {c : Copy} (h : s.memOk) : (s.signalHere c).memOk :=
  State.memOk_fold (fun _ _ h1 => State.memOk_ite (State.memOk_count h1) h1) h

theorem execCopyEnd_keeps {s : State} {id : Nat} (h : s.memOk) : KeptOut (execCopyEnd id s) := by
  unfold execCopyEnd
  split
  · exact h
  · refine KeptOut.ite h ?_
    refine KeptOut.ite h ?_
    split
    · exact State.memOk_closeCopy (State.memOk_copyRecord h)
    · exact State.memOk_closeCopy (State.memOk_copyRecord (State.memOk_goWaiting (State.memOk_memberFailed h)))
    · refine KeptOut.ite (State.memOk_closeCopy (State.memOk_goWaiting (State.memOk_memberFailed h))) ?_
      refine KeptOut.ite (KeptOut.ite (State.memOk_failCopy h) (State.memOk_post (State.memOk_signalFar (State.memOk_signalHere
        h)))) ?_
      exact KeptOut.ite h (State.memOk_closeCopy h)

theorem execRcStateW1c_keeps {s : State} {core n b : Nat} (h : s.memOk) : KeptOut (execRcStateW1c core n b s) := h

theorem State.memOk_endPost {s : State} {id : Nat} {word : Word} (h : s.memOk) : (s.endPost id word).memOk := by
  unfold State.endPost
  split
  · exact h
  · split
    · exact State.memOk_post (State.memOk_statusV h)
    · exact State.memOk_statusV h

theorem State.memOk_modOp {s : State} {id : Nat} {f : Post → Post} (h : s.memOk) : (s.modOp id f).memOk :=
  State.memOk_fold (fun _ _ h1 => State.memOk_of_eq h1 rfl rfl) h

theorem State.memOk_markEligible {s : State} {quad : Nat} (h : s.memOk) : (s.markEligible quad).memOk :=
  State.memOk_fold (fun _ _ h1 => State.memOk_ite h1 (State.memOk_post (State.memOk_modOp h1))) h

theorem State.memOk_grantOp {s : State} {id : Nat} (h : s.memOk) : (s.grantOp id).memOk := by
  unfold State.grantOp
  dsimp only
  split
  · exact h
  · exact State.memOk_post (State.memOk_fold (fun _ _ h1 => State.memOk_of_eq h1 rfl rfl) h)

theorem State.memOk_grantAll {s : State} {a1 : List Nat} {a2 : List (Nat × Post)} (h : s.memOk) : (s.grantAll a1 a2).memOk := by
  unfold State.grantAll
  split
  · exact h
  · exact State.memOk_ite (State.memOk_grantAll (State.memOk_grantOp h)) (State.memOk_ite (State.memOk_grantAll h)
      (State.memOk_grantAll h))

theorem execMxGrant_keeps {s : State} {quad : Nat} (h : s.memOk) : KeptOut (execMxGrant quad s) := by
  unfold execMxGrant
  extract_lets s1 s2 s3 s4
  have h1 : s1.memOk := State.memOk_fold (fun _ _ ht => State.memOk_endPost ht) h
  clear_value s1
  have h2 : s2.memOk := State.memOk_fold (fun _ _ ht => State.memOk_endPost ht) h1
  clear_value s2
  have h3 : s3.memOk := State.memOk_markEligible h2
  clear_value s3
  have h4 : s4.memOk := State.memOk_grantAll h3
  clear_value s4
  exact State.memOk_ite (State.memOk_post h4) h4

theorem State.memOk_reachQuad {s : State} {q t : Nat} (h : s.memOk) : (s.reachQuad q t).memOk := h

theorem execMxStarvationLimit_keeps {s : State} {id : Nat} (h : s.memOk) : KeptOut (execMxStarvationLimit id s) := by
  unfold execMxStarvationLimit
  split
  · exact State.memOk_modOp h
  · exact h

theorem execMxCaptureComplete_keeps {s : State} {id : Nat} (h : s.memOk) : KeptOut (execMxCaptureComplete id s) := by
  unfold execMxCaptureComplete
  dsimp only
  split
  · exact h
  · refine KeptOut.ite h ?_
    exact KeptOut.ite h (State.memOk_post (State.memOk_fold (fun _ _ h1 => State.memOk_putPost h1) (State.memOk_reachQuad h)))

theorem State.memOk_farRead {s : State} {who : WalkFor} {ctx dev va pa n : Nat} (h : s.memOk) :
    (s.farRead who ctx dev va pa n).memOk := by
  unfold State.farRead
  split
  · split
    · exact h
    · exact trivial
    · exact trivial
  · split
    · exact trivial
    next e1 => exact OptKept.get (P := State.memOk) e1 (State.kept_request h)

theorem execScaleFetchReturn_keepsMemory {s : State} {quad ctx tensor block : Nat} (h : s.memOk) :
    KeptOut (execScaleFetchReturn quad ctx tensor block s) := by
  unfold execScaleFetchReturn
  extract_lets mine again
  split
  · exact h
  next id r _ =>
  extract_lets r1 done keep
  have hdone {u : State} (hu : u.memOk) : (done u).memOk := by
    have h1 : State.memOk { u with reqs := u.reqs.set id r1 } :=
      State.memOk_of_eq hu rfl rfl
    exact State.memOk_ite (State.memOk_dropFars (State.memOk_endQuiet h1)) h1
  have hkeep {u : State} {b : Nat} (hu : u.memOk) : (keep u b).memOk := hdone (State.memOk_modQuad hu)
  clear_value keep done
  refine KeptOut.ite (State.memOk_post h) ?_
  split
  · exact hkeep (State.memOk_homeRead h _ _ _)
  · exact hkeep h
  · exact State.memOk_post h
  · split
    next e => exact State.memOk_post (FarR.of_wait e (State.memOk_farRead h))
    · exact hkeep h
    · exact hdone h
  · exact hdone h

theorem State.memOk_failPosts {s : State} {ids : List Nat} {cause reason array addr : Nat} (h : s.memOk) :
    (s.failPosts ids cause reason array addr).memOk := by
  unfold State.failPosts
  refine State.memOk_fold (fun _ _ h1 => ?_) h
  split
  · exact h1
  · exact State.memOk_endPost (State.memOk_record h1)

theorem State.memOk_writePass {s : State} {l : List (Nat × Post)} {env : FEnv} {a : ArrayIn} (h : s.memOk) :
    (s.writePass l env a).memOk := by
  unfold State.writePass
  generalize List.range 16384 = cells
  exact State.memOk_modQuad (State.memOk_fold (fun _ _ hs => State.memOk_homeRead hs _ _ _) (State.memOk_of_eq h rfl rfl))

theorem execMxPassBoundary_keeps {s : State} {id : Nat} (h : s.memOk) : KeptOut (execMxPassBoundary id s) := by
  unfold execMxPassBoundary
  extract_lets l
  clear_value l
  split
  · exact h
  refine KeptOut.ite h (KeptOut.ite (State.memOk_post h) ?_)
  split
  · exact State.memOk_post h
  · exact State.memOk_post (State.memOk_await h)
  · split
    next e => exact State.memOk_post (FarR.of_wait e (State.memOk_farRead h))
    · exact State.memOk_post h
    · exact State.memOk_post (State.memOk_of_eq h rfl rfl)
  · exact State.memOk_post (State.memOk_failPosts h)
  · extract_lets s0 env s1 s2 done
    have h1 : s1.memOk := State.memOk_fold (fun _ _ ht => State.memOk_writePass ht) (State.memOk_reachQuad h)
    clear_value s1
    have h2 : s2.memOk := State.memOk_modOp h1
    clear_value s2
    refine KeptOut.ite (State.memOk_post (State.memOk_fold (fun _ _ ht => State.memOk_endPost ht) h2)) ?_
    exact KeptOut.ite (State.memOk_post (State.memOk_post (State.memOk_modOp h2))) (State.memOk_post h2)

end Sys2Proof.Machine
end

section
/-! SUPPORT. The fabric, the collective messages and the Creel at work. -/

namespace Sys2Proof.Machine

open Sys2Proof

theorem State.memOk_respond {s : State} {r : FabReq} {reason : Nat} {data : List Byte} (h : s.memOk) :
    (s.respond r reason data).memOk := h

theorem State.memOk_hold {s : State} {r : FabReq} (h : s.memOk) : (s.hold r).memOk := State.memOk_ite h h

theorem State.memOk_refuseReq {s : State} {r : FabReq} {addr reason : Nat} (h : s.memOk) : (s.refuseReq r addr reason).memOk := h

theorem State.memOk_takeChime {s : State} {m : Msg} (h : s.memOk) : (s.takeChime m).1.memOk := by
  unfold State.takeChime
  dsimp only
  split
  · exact h
  · split
    · exact h
    · exact State.memOk_inbox h

theorem State.kept_takeSignal {s : State} {m : Msg} (h : s.memOk) : OptKept (fun p => p.1.memOk) (s.takeSignal m) := by
  refine OptKept.ite OptKept.none ?_
  exact OptKept.ite (OptKept.some h) (OptKept.ite (OptKept.some h) (OptKept.some (State.memOk_count h)))

theorem State.memOk_takeAtomic {s : State} {m : Msg} {r : FabReq} {c : Chan} (h : s.memOk) : (s.takeAtomic m r c).memOk := by
  unfold State.takeAtomic
  refine FabRes.memOk_ite (State.memOk_refuseReq h) ?_
  split
  · exact State.memOk_refuseReq h
  · refine FabRes.memOk_ite h ?_
    split
    · exact h
    · exact FabRes.memOk_ite (State.memOk_refuseReq h) (State.memOk_atomicUnit h)
    · exact State.memOk_atomicUnit h
    · exact State.memOk_refuseReq h

theorem State.memOk_takeEntry {s : State} {ctx g : Nat} {l : List Word} (h : s.memOk) : (s.takeEntry ctx g l).memOk :=
  State.memOk_ite (State.memOk_collSend h) (State.memOk_tryGo (State.memOk_ite (State.memOk_post (State.memOk_putColl h))
    (State.memOk_putColl h)))

theorem State.memOk_takeExp {s : State} {ctx g covers : Nat} {l : List Word} (h : s.memOk) : (s.takeExp ctx g covers l).memOk :=
  State.memOk_ite h (State.memOk_tryGo (State.memOk_putColl h))

theorem State.memOk_takeGo {s : State} {ctx g : Nat} {l : List Word} (h : s.memOk) : (s.takeGo ctx g l).memOk := by
  unfold State.takeGo
  split
  · exact h
  · split
    · split
      · exact State.memOk_ite (State.memOk_putColl h) (State.memOk_post (State.memOk_putColl h))
      · exact State.memOk_putColl h
    · split
      · exact State.memOk_ite (State.memOk_putColl h) (State.memOk_post (State.memOk_putColl h))
      · exact State.memOk_putColl h

theorem State.memOk_takeContrib {s : State} {ctx g covers : Nat} {l : List Word} (h : s.memOk) :
    (s.takeContrib ctx g covers l).memOk := by
  unfold State.takeContrib
  split
  · exact h
  · split
    · exact h
    · exact State.memOk_tryResult (State.memOk_putColl h)

theorem State.memOk_takeResult {s : State} {ch ctx g : Nat} {l : List Word} (h : s.memOk) : (s.takeResult ch ctx g l).1.memOk := by
  unfold State.takeResult
  split
  · exact h
  · split
    · exact h
    · split
      · dsimp only
        split
        · exact State.memOk_await h
        · exact h
        · exact State.memOk_failCopy h
        · split
          · exact State.memOk_signalHere (State.memOk_putCopy (State.memOk_putColl (State.memOk_fold (fun _ _ h1 =>
              State.memOk_landed (State.memOk_fold (fun _ _ h2 => State.memOk_landElem h2) h1)) (State.memOk_copyWalks h))))
          · exact State.memOk_putColl (State.memOk_fold (fun _ _ h3 => State.memOk_landed (State.memOk_fold (fun _ _ h4 =>
              State.memOk_landElem h4) h3)) (State.memOk_copyWalks h))
      · dsimp only
        split
        · exact State.memOk_await h
        · exact h
        · exact State.memOk_failCopy h
        · split
          · exact State.memOk_signalHere (State.memOk_putCopy (State.memOk_putColl (State.memOk_fold (fun _ _ h5 =>
              State.memOk_landed (State.memOk_fold (fun _ _ h6 => State.memOk_landElem h6) h5)) (State.memOk_copyWalks h))))
          · exact State.memOk_putColl (State.memOk_fold (fun _ _ h7 => State.memOk_landed (State.memOk_fold (fun _ _ h8 =>
              State.memOk_landElem h8) h7)) (State.memOk_copyWalks h))

theorem State.memOk_ackResult {s : State} {ctx group n : Nat} (h : s.memOk) : (s.ackResult ctx group n).memOk := by
  unfold State.ackResult
  split
  · exact h
  · exact State.memOk_tryDone (State.memOk_putColl h)

theorem State.memOk_takeDone {s : State} {ctx g : Nat} {l : List Word} (h : s.memOk) : (s.takeDone ctx g l).memOk := by
  unfold State.takeDone
  split
  · exact h
  · dsimp only
    split
    · exact h
    · exact State.memOk_tryEndCopy h

theorem State.memOk_takeMismatch {s : State} {ctx g : Nat} {l : List Word} (h : s.memOk) : (s.takeMismatch ctx g l).memOk :=
  State.memOk_ite h (State.memOk_ite (State.memOk_collFail h) (State.memOk_poisonGroup h))

theorem State.memOk_takeColl {s : State} {kind : Nat} {m : Msg} (h : s.memOk) : (s.takeColl kind m).1.memOk := by
  unfold State.takeColl
  extract_lets ctx g s0 e
  have hs : s0.memOk := State.memOk_groupRead h
  clear_value s0
  split
  · exact State.memOk_of_eq hs rfl rfl
  split
  · exact hs
  split
  · exact State.memOk_goWaiting (State.memOk_takeEntry hs)
  · exact State.memOk_goWaiting (State.memOk_takeExp hs)
  · exact State.memOk_takeGo hs
  · exact State.memOk_takeContrib hs
  · exact State.memOk_ite (State.memOk_ackResult (State.memOk_takeResult hs)) (State.memOk_takeResult hs)
  · exact State.memOk_goWaiting (State.memOk_takeDone hs)
  · exact State.memOk_goWaiting (State.memOk_takeMismatch hs)

theorem State.memOk_takeMessage {s : State} {r : FabReq} {c : Chan} (h : s.memOk) : (s.takeMessage r c).memOk := by
  unfold State.takeMessage
  refine FabRes.memOk_ite (State.memOk_refuseReq h) ?_
  split
  · dsimp only
    split
    · exact State.memOk_takeChime h
    · exact State.memOk_takeChime h
  · split
    next e1 =>
      refine FabRes.memOk_ite (State.memOk_refuseReq (OptKept.get (P := fun p : State × _ => p.1.memOk) e1 (State.kept_takeSignal
        h))) ?_
      exact OptKept.get (P := fun p : State × _ => p.1.memOk) e1 (State.kept_takeSignal h)
    · exact h
  · exact State.memOk_takeAtomic h
  · dsimp only
    split
    · exact State.memOk_takeColl h
    · exact State.memOk_takeColl h
    · exact State.memOk_refuseReq (State.memOk_takeColl h)

theorem State.memOk_overdue {s : State} {b n : Nat} (h : s.memOk) : (s.overdue b n).memOk := by
  unfold State.overdue
  split
  · exact State.memOk_ite h h
  · exact h

theorem State.kept_creelPlan {s : State} {b : Nat} {a1 : List (Nat × Nat)} (h : s.memOk) :
    CrKept (fun _ => True) (s.creelPlan b a1) := by
  unfold State.creelPlan
  split
  · exact trivial
  · split
    · exact trivial
    · refine CrKept.ite ?_ trivial
      split
      · exact trivial
      · exact State.kept_creelPlan h
    · exact trivial

theorem State.memOk_creelPut {s : State} {ctx : Nat} {own : SentFor} {t : Target} {l : List Byte} (h : s.memOk) :
    (s.creelPut ctx own t l).memOk := by
  unfold State.creelPut
  split
  · exact State.memOk_homeWrite h _ _ _
  · exact State.memOk_hostWr h _ _
  · exact State.memOk_getD (State.kept_request h) h
  · exact State.memOk_winWrite h
  · exact h
  · exact h

theorem State.memOk_creelPutAll {s : State} {ctx : Nat} {own : Nat → SentFor} {a1 : List (Nat × Nat)} {a2 : List Target} {a3 : List
    Byte} (h : s.memOk) : (s.creelPutAll ctx own a1 a2 a3).memOk := by
  unfold State.creelPutAll
  split
  · exact State.memOk_creelPutAll (State.memOk_creelPut h)
  · exact h

theorem State.kept_creelWrite {s : State} {b rel slot va : Nat} {l : List Byte} (h : s.memOk) :
    CrKept (fun p => p.1.memOk) (s.creelWrite b rel slot va l) := by
  unfold State.creelWrite
  split
  · dsimp only
    split
    · exact State.memOk_creelPutAll h
    · exact trivial
    next e1 => exact CrKept.of_wait (P := fun _ => True) e1 (State.kept_creelPlan h)
    · exact trivial
  · dsimp only
    split
    · exact State.memOk_creelPutAll h
    · exact trivial
    next e2 => exact CrKept.of_wait (P := fun _ => True) e2 (State.kept_creelPlan h)
    · exact trivial

theorem State.memOk_faultBuf {s : State} {b : Nat} {who : List Nat} {reason expert slot addr : Nat} (h : s.memOk) :
    (s.faultBuf b who reason expert slot addr).memOk :=
  State.memOk_endCrWaits (State.memOk_putBuf (State.memOk_creelFault h))

theorem State.kept_dropped {s : State} {b n p kind len : Nat} (h : s.memOk) : CrKept State.memOk (s.dropped b n p kind len) := by
  unfold State.dropped
  refine CrKept.ite h ?_
  split
  next e1 => exact State.memOk_putBuf (CrKept.of_ok (P := fun p : State × _ => p.1.memOk) e1 (State.kept_creelWrite h))
  · exact trivial
  next e2 => exact CrKept.of_wait (P := fun p : State × _ => p.1.memOk) e2 (State.kept_creelWrite h)
  · exact State.memOk_faultBuf h

theorem State.memOk_arrive {s0 : State} {b : Nat} {bytes : List (Nat × Byte)} (hs0 : s0.memOk) : (s0.arrive b bytes).1.memOk := by
  unfold State.arrive
  dsimp only
  split
  · exact State.memOk_overdue hs0
  · split
    · exact State.memOk_modDie (State.memOk_overdue hs0)
    · split
      · exact State.memOk_ite (State.memOk_post (State.memOk_putBuf (State.memOk_overdue hs0))) (State.memOk_putBuf
          (State.memOk_overdue hs0))
      · split
        next e1 =>
          exact State.memOk_ite (State.memOk_post (CrKept.of_ok (P := State.memOk) e1 (State.kept_dropped (State.memOk_putBuf
            (State.memOk_overdue hs0))))) (CrKept.of_ok (P := State.memOk) e1 (State.kept_dropped (State.memOk_putBuf
            (State.memOk_overdue hs0))))
        · exact State.memOk_await (State.memOk_overdue hs0)
        next e2 =>
          exact CrKept.of_wait (P := State.memOk) e2 (State.kept_dropped (State.memOk_putBuf (State.memOk_overdue hs0)))
        · exact State.memOk_ite (State.memOk_post (State.memOk_putBuf (State.memOk_overdue hs0))) (State.memOk_putBuf
            (State.memOk_overdue hs0))

theorem State.memOk_fabCount {s : State} {r : FabReq} {pa : Nat} (h : s.memOk) : (s.fabCount r pa).1.memOk := by
  unfold State.fabCount
  split
  · exact State.memOk_count h
  · exact h

theorem State.memOk_fabWrite {s : State} {c : Chan} {r : FabReq} {pa n : Nat} {data : List (Nat × Byte)} (h : s.memOk) :
    (s.fabWrite c r pa n data).memOk := by
  unfold State.fabWrite
  refine FabRes.memOk_ite h ?_
  split
  · exact h
  · refine FabRes.memOk_ite (FabRes.memOk_ite h (FabRes.memOk_ite (State.memOk_arrive h) (State.memOk_arrive h))) ?_
    refine FabRes.memOk_ite ?_ (State.memOk_homeWriteMany h _ _)
    refine FabRes.memOk_ite h ?_
    split
    · exact State.memOk_fabCount (State.memOk_ite (State.memOk_unpoison (State.memOk_fold (fun _ _ h1 => State.memOk_nearWrite h1)
        h)) (State.memOk_fold (fun _ _ h2 => State.memOk_nearWrite h2) h))
    · exact h
    · refine FabRes.memOk_ite (State.memOk_refuseReq h) ?_
      exact State.memOk_fabCount (State.memOk_fold (fun _ _ h3 => State.memOk_winWrite h3) h)
    · exact State.memOk_refuseReq h

theorem State.memOk_fabRead {s : State} {c : Chan} {r : FabReq} {pa n : Nat} (h : s.memOk) : (s.fabRead c r pa n).memOk := by
  unfold State.fabRead
  refine FabRes.memOk_ite ?_ (State.memOk_homeRead h _ _ _)
  refine FabRes.memOk_ite h ?_
  split
  · exact FabRes.memOk_ite (State.memOk_refuseReq h) h
  · exact h
  · exact h
  · exact h
  · exact State.memOk_refuseReq h

theorem State.memOk_fabApply {s : State} {c : Chan} {r : FabReq} (h : s.memOk) : (s.fabApply c r).memOk := by
  unfold State.fabApply
  refine FabRes.memOk_ite (State.memOk_takeMessage h) ?_
  refine FabRes.memOk_ite (State.memOk_refuseReq h) ?_
  split
  · exact State.memOk_await h
  · exact State.memOk_refuseReq h
  · exact State.memOk_refuseReq h
  · split
    · dsimp only
      split
      · exact State.memOk_refuseReq (State.memOk_scan h)
      · exact State.memOk_fabWrite (State.memOk_scan h)
    · dsimp only
      split
      · exact State.memOk_refuseReq (State.memOk_scan h)
      · exact State.memOk_fabRead (State.memOk_scan h)

theorem State.memOk_fabDone {s : State} {r : FabReq} {reason : Nat} {data : List Byte} (h : s.memOk) :
    (s.fabDone r reason data).memOk := h

theorem State.memOk_serve {s : State} {r : FabReq} (h : s.memOk) : (s.serve r).memOk := by
  unfold State.serve
  dsimp only
  split
  · have h1 := State.memOk_ite (c := r.dup = true) h (State.memOk_putChan (ch := r.ch)
      (c := { s.chan r.ch with dups := min 0xFFFFFFFF ((s.chan r.ch).dups + 1) }) h)
    refine FabRes.memOk_ite (State.memOk_respond h1) ?_
    split
    next e => exact State.memOk_respond (FabRes.of_done e (State.memOk_fabApply h1))
    next e => exact FabRes.of_hold e (State.memOk_fabApply h1)
  · refine FabRes.memOk_ite h ?_
    split
    next e => exact State.memOk_fabDone (FabRes.of_done e (State.memOk_fabApply h))
    next e => exact FabRes.of_hold e (State.memOk_fabApply h)

theorem State.memOk_unhold {s : State} {r : FabReq} (h : s.memOk) : (s.unhold r).memOk := State.memOk_ite h h

theorem State.memOk_take {s : State} {r : FabReq} (h : s.memOk) : (s.take r).memOk := by
  have hr := State.memOk_serve (r := r) h
  unfold State.take
  split
  next e =>
    rw [e] at hr
    exact State.memOk_unhold hr
  next e =>
    rw [e] at hr
    exact State.memOk_post (State.memOk_hold hr)

theorem execFabricRequestArrival_keeps {s : State} {r : FabReq} (h : s.memOk) : KeptOut (execFabricRequestArrival r s) := by
  unfold execFabricRequestArrival
  refine KeptOut.ite h ?_
  split
  · exact h
  · refine KeptOut.ite h ?_
    refine KeptOut.ite h ?_
    split
    · exact State.memOk_post (State.memOk_hold h)
    · exact State.memOk_hold h
    · exact State.memOk_take h

theorem State.memOk_landingAnswer {s : State} {id ix reason : Nat} {core : Option (Nat × Nat)} (h : s.memOk) :
    (s.landingAnswer id ix reason core).memOk := by
  unfold State.landingAnswer
  split
  · exact h
  · exact h

theorem State.memOk_creelAnswer {s : State} {b id slot va reason : Nat} (h : s.memOk) :
    (s.creelAnswer b id slot va reason).memOk := by
  unfold State.creelAnswer
  split
  · exact h
  · refine State.memOk_ite (State.memOk_ite h h) ?_
    split
    · exact h
    · exact State.memOk_ite h (State.memOk_ite h h)

theorem State.memOk_outcome {s : State} {peer : Nat} {x : Sent} {reason : Nat} {data : List Byte} {a1 : SentFor} (h : s.memOk) :
    (s.outcome peer x reason data a1).memOk := by
  unfold State.outcome
  split
  · refine State.memOk_ite h ?_
    split
    · exact h
    · exact State.memOk_tryEnd (State.memOk_doneUnit h)
  · exact State.memOk_landingAnswer h
  · exact h
  · split
    · exact h
    · refine State.memOk_ite (State.memOk_post (State.memOk_ite h h)) ?_
      split
      · exact State.memOk_post (State.memOk_of_eq (State.memOk_ite h (State.memOk_modWarp h)) rfl rfl)
      · exact State.memOk_of_eq (State.memOk_ite h (State.memOk_modWarp h)) rfl rfl
  · exact h
  · exact State.memOk_ite h h
  · exact State.memOk_ite h (State.memOk_dropWord h)
  · exact State.memOk_ite (State.memOk_ackResult h) h
  · exact h
  · exact State.memOk_creelAnswer h
  · exact h

theorem State.memOk_endSent {s : State} {ch : Nat} {x : Sent} {reason : Nat} {data : List Byte} (h : s.memOk) :
    (s.endSent ch x reason data).memOk :=
  State.memOk_fold (fun _ _ h1 => State.memOk_outcome h1) (State.memOk_putChan h)

theorem execFabricResponse_keeps {s : State} {r : FabResp} (h : s.memOk) : KeptOut (execFabricResponse r s) := by
  unfold execFabricResponse
  split
  · exact h
  · split
    · exact KeptOut.ite (State.memOk_pump h) h
    · exact State.memOk_pump (State.memOk_endSent h)

theorem State.memOk_reachMesh {s : State} {d t : Nat} (h : s.memOk) : (s.reachMesh d t).memOk := h

theorem execFabricRetryTimeout_keeps {s : State} {ch seq : Nat} (h : s.memOk) : KeptOut (execFabricRetryTimeout ch seq s) := by
  unfold execFabricRetryTimeout
  split
  · exact h
  · exact KeptOut.ite h (State.memOk_pump (State.memOk_emit (State.memOk_endSent h)))

theorem execFabricPortDown_keeps {s : State} {port : Nat} {moves : List (Nat × Nat × Nat)} (h : s.memOk) :
    KeptOut (execFabricPortDown port moves s) :=
  State.memOk_fold (fun _ _ h1 => State.memOk_emit h1) (State.memOk_of_eq h rfl rfl)

theorem execChannelCreate_keeps {s : State} {ch : Nat} {words : List Word} (h : s.memOk) :
    KeptOut (execChannelCreate ch words s) := by
  unfold execChannelCreate
  split
  · exact h
  · exact KeptOut.ite h h

theorem execChannelClose_keeps {s : State} {ch : Nat} (h : s.memOk) : KeptOut (execChannelClose ch s) := by
  unfold execChannelClose
  split
  · exact h
  · exact KeptOut.ite h (KeptOut.ite h h)

theorem execChannelFetchComplete_keeps {s : State} {ch : Nat} (h : s.memOk) : KeptOut (execChannelFetchComplete ch s) := by
  unfold execChannelFetchComplete
  split
  · exact h
  next c _ =>
  extract_lets cached free
  have hfree : OptKept State.memOk free :=
    OptKept.ite (OptKept.some h) (OptKept.map (Q := fun _ => True) (fun _ _ => trivial) fun _ _ => State.memOk_putChan h)
  clear_value free
  refine KeptOut.ite h ?_
  split
  · exact State.memOk_post h
  · have h1 := State.memOk_putChan (ch := ch) (c := { c with st := .cached, used := s.tick }) (hfree _ rfl)
    exact State.memOk_pump (State.memOk_fold (fun _ _ ht => State.memOk_take ht) h1)

theorem execChimeMsg_keeps {s : State} {m : Msg} (h : s.memOk) : KeptOut (execChimeMsg m s) := by
  unfold execChimeMsg
  dsimp only
  split
  · exact State.memOk_post (State.memOk_takeChime h)
  · exact State.memOk_takeChime h

theorem execSignalMsg_keeps {s : State} {m : Msg} (h : s.memOk) : KeptOut (execSignalMsg m s) := by
  unfold execSignalMsg
  split
  next e => exact State.kept_takeSignal h _ e
  · exact h

theorem execAtomicMsg_keeps {s : State} {m : Msg} (h : s.memOk) : KeptOut (execAtomicMsg m s) := by
  unfold execAtomicMsg
  extract_lets r
  have hr := State.memOk_takeAtomic (m := m) (r := r) (c := s.chan m.ch) h
  split
  next e =>
    rw [e] at hr
    exact hr
  next e =>
    rw [e] at hr
    exact State.memOk_post hr

theorem State.memOk_collMsg {s : State} {kind : Nat} {m : Msg} (h : s.memOk) : (s.collMsg kind m).memOk :=
  State.memOk_ite (State.memOk_takeColl h) (State.memOk_post (State.memOk_takeColl h))

theorem execEntryMsg_keeps {s : State} {m : Msg} (h : s.memOk) : KeptOut (execEntryMsg m s) := State.memOk_collMsg h

theorem execExpMsg_keeps {s : State} {m : Msg} (h : s.memOk) : KeptOut (execExpMsg m s) := State.memOk_collMsg h

theorem execGoMsg_keeps {s : State} {m : Msg} (h : s.memOk) : KeptOut (execGoMsg m s) := State.memOk_collMsg h

theorem execContribMsg_keeps {s : State} {m : Msg} (h : s.memOk) : KeptOut (execContribMsg m s) := State.memOk_collMsg h

theorem execResultMsg_keeps {s : State} {m : Msg} (h : s.memOk) : KeptOut (execResultMsg m s) := State.memOk_collMsg h

theorem execDoneMsg_keeps {s : State} {m : Msg} (h : s.memOk) : KeptOut (execDoneMsg m s) := State.memOk_collMsg h

theorem execMismatchMsg_keeps {s : State} {m : Msg} (h : s.memOk) : KeptOut (execMismatchMsg m s) := State.memOk_collMsg h

theorem execCollectiveTimeout_keeps {s : State} {ctx group n : Nat} (h : s.memOk) :
    KeptOut (execCollectiveTimeout ctx group n s) := by
  unfold execCollectiveTimeout
  split
  · exact h
  · exact KeptOut.ite h (State.memOk_goWaiting (State.memOk_collFail h))

theorem State.memOk_arrivedOp {s : State} {id unit : Nat} (h : s.memOk) : (s.arrivedOp id unit).memOk := by
  unfold State.arrivedOp
  split
  · exact h
  · exact State.memOk_tryEnd (State.memOk_fold (fun _ _ h1 => State.memOk_doneUnit h1) h)

theorem execCreelArrival_keeps {s : State} {a : Arrival} (h : s.memOk) : KeptOut (execCreelArrival a s) := by
  unfold execCreelArrival
  refine KeptOut.ite h ?_
  refine KeptOut.ite (State.memOk_post (State.memOk_arrive h)) ?_
  split
  · exact State.memOk_arrivedOp (State.memOk_arrive h)
  · exact State.memOk_landingAnswer (State.memOk_arrive h)
  · exact State.memOk_emit (State.memOk_arrive h)

theorem execCreelDeadline_keeps {s : State} {b n : Nat} (h : s.memOk) : KeptOut (execCreelDeadline b n s) := by
  unfold execCreelDeadline
  split
  · exact h
  · exact h

theorem State.memOk_crFail {s : State} {b n reason expert va : Nat} (h : s.memOk) : (s.crFail b n reason expert va).memOk :=
  State.memOk_faultBuf h

theorem State.memOk_released {s : State} {b n : Nat} (h : s.memOk) : (s.released b n).memOk :=
  State.memOk_ite (State.memOk_post (State.memOk_ite (State.memOk_endCrWaits h) (State.memOk_post (State.memOk_endCrWaits h))))
    (State.memOk_ite (State.memOk_endCrWaits h) (State.memOk_post (State.memOk_endCrWaits h)))

theorem State.memOk_crWalk {s : State} {b n va : Nat} {kind : BitVec 2} (h : s.memOk) : (s.crWalk b n va kind).memOk :=
  State.memOk_post (State.memOk_await h)

theorem State.memOk_crRecord {s : State} {b : Nat} {r : CrRel} (h : s.memOk) : (s.crRecord b r).memOk := by
  unfold State.crRecord
  dsimp only
  split
  next e1 =>
    exact State.memOk_ite (State.memOk_released (State.memOk_dropFars (CrKept.of_ok (P := fun p : State × _ => p.1.memOk) e1
      (State.kept_creelWrite h)))) (State.memOk_putBuf (CrKept.of_ok (P := fun p : State × _ => p.1.memOk) e1
      (State.kept_creelWrite h)))
  · exact State.memOk_crWalk h
  · exact State.memOk_crFail h
  next e2 => exact State.memOk_post (CrKept.of_wait (P := fun p : State × _ => p.1.memOk) e2 (State.kept_creelWrite h))

theorem State.kept_creelRead {s : State} {b : Nat} {a1 : List (Nat × Nat)} (h : s.memOk) :
    CrKept (fun _ => True) (s.creelRead b a1) := by
  unfold State.creelRead
  split
  · exact trivial
  · split
    · exact trivial
    · split
      · exact trivial
      · exact State.kept_creelRead h
    · split
      · exact trivial
      · exact State.kept_creelRead h
    · split
      · split
        · exact trivial
        · exact State.kept_creelRead h
      next e1 => exact FarR.of_wait e1 (State.memOk_farRead h)
      · exact trivial
    · split
      · exact trivial
      · exact State.kept_creelRead h
    · split
      · exact trivial
      · exact State.kept_creelRead h
    · split
      · exact trivial
      · exact State.kept_creelRead h
    · split
      · exact trivial
      · exact State.kept_creelRead h
    · exact trivial

theorem State.kept_readFallbacks {s : State} {b : Nat} {l : List Nat} (h : s.memOk) :
    CrKept (fun _ => True) (s.readFallbacks b l).1 := by
  induction l with
  | nil => trivial
  | cons e t ih =>
    unfold State.readFallbacks
    dsimp only
    split
    · split
      · trivial
      · exact ih
    · trivial
    next hw => exact CrKept.of_wait hw (State.kept_creelRead h)
    · trivial

theorem State.memOk_creelReads {s : State} {b : Nat} {l : List (Nat × Nat)} (h : s.memOk) : (s.creelReads b l).memOk := by
  unfold State.creelReads
  refine State.memOk_fold (fun _ _ h1 => ?_) h
  split
  · exact State.memOk_homeRead h1 _ _ _
  · exact h1

theorem State.memOk_crBegin {s : State} {b n : Nat} (h : s.memOk) : (s.crBegin b n).memOk := by
  have hfb := State.kept_readFallbacks (b := b) (l := (s.buf b).fallbacks ((s.buf b).slot n)) h
  unfold State.crBegin
  dsimp only
  split
  · exact State.memOk_crWalk h
  next e =>
    rw [e] at hfb
    exact State.memOk_post hfb
  · exact State.memOk_crFail h
  · split
    · exact State.memOk_crWalk h
    · exact State.memOk_crWalk h
    · exact State.memOk_crFail h
    · exact State.memOk_crFail h
    next hw =>
      have ht := CrKept.of_ok hw (State.kept_creelWrite (State.memOk_creelReads h))
      exact State.memOk_ite (State.memOk_crRecord (State.memOk_putBuf ht)) (State.memOk_putBuf ht)
    · exact State.memOk_post h

theorem execCreelRelease_keeps {s : State} {b : Nat} (h : s.memOk) : KeptOut (execCreelRelease b s) := by
  unfold execCreelRelease
  refine KeptOut.ite h ?_
  split
  · exact State.memOk_faultBuf h
  · refine KeptOut.ite h ?_
    split
    · exact State.memOk_crFail h
    · exact KeptOut.ite (State.memOk_released h) (State.memOk_crRecord h)
  · split
    · exact State.memOk_crBegin h
    · exact h

theorem execCreelQuietEnd_keeps {s : State} {b n : Nat} (h : s.memOk) : KeptOut (execCreelQuietEnd b n s) := by
  unfold execCreelQuietEnd
  split
  · exact h
  · exact h

end Sys2Proof.Machine
end

section
/-! SUPPORT. Queues, placement, contexts, observation and service at work. -/

namespace Sys2Proof.Machine

open Sys2Proof

theorem State.memOk_modQueue {s : State} {q : Nat} {f : Queue → Queue} (h : s.memOk) : (s.modQueue q f).memOk := h

theorem State.memOk_queueError {s : State} {q : Nat} (h : s.memOk) : (s.queueError q).memOk := h

theorem State.memOk_distSeen {s : State} {ctx : Nat} {a : Addr} {n : Nat} (h : s.memOk) : (s.distSeen ctx a n).memOk := by
  unfold State.distSeen
  split
  · refine State.memOk_ite (State.memOk_walked h) ?_
    split
    · exact State.memOk_scan (State.memOk_walked h)
    · exact State.memOk_walked h
  · exact h

theorem State.memOk_packetSeen {s : State} {q : Nat} (h : s.memOk) : (s.packetSeen q).memOk :=
  State.memOk_ite (State.memOk_distSeen h) h

theorem State.memOk_distWait {s : State} {q ctx : Nat} {a : Addr} {n : Nat} {a1 : DistRead} (h : s.memOk) :
    (s.distWait q ctx a n a1).memOk := by
  unfold State.distWait
  split
  · exact State.memOk_await h
  · split
    next e1 => exact FarR.of_wait e1 (State.memOk_farRead h)
    · exact h
  · exact h

theorem State.memOk_nextPacket {s : State} {q : Nat} (h : s.memOk) : (s.nextPacket q).memOk := by
  unfold State.nextPacket
  refine State.memOk_ite h ?_
  refine State.memOk_ite h ?_
  dsimp only
  split
  · exact State.memOk_queueError (State.memOk_packetSeen h)
  · split
    · exact State.memOk_queueError (State.memOk_packetSeen h)
    · exact State.memOk_post (State.memOk_packetSeen h)
    · exact State.memOk_post (State.memOk_packetSeen h)
    · exact State.memOk_post (State.memOk_packetSeen h)
  · exact State.memOk_post (State.memOk_distWait (State.memOk_packetSeen h))

theorem execDoorbell_keeps {s : State} {q : Nat} {tail : Word} (h : s.memOk) : KeptOut (execDoorbell q tail s) := by
  unfold execDoorbell
  split
  · exact h
  · exact State.memOk_ite (State.memOk_nextPacket h) (State.memOk_ite h h)

theorem State.memOk_look {s : State} {q : Nat} {again : Ev} {f : Packet → State} (h : s.memOk) (hf : ∀ p, (f p).memOk) :
    (s.look q again f).memOk := by
  unfold State.look
  refine State.memOk_ite h (State.memOk_ite (State.memOk_post h) ?_)
  split
  · exact State.memOk_queueError h
  · split
    · exact State.memOk_queueError h
    · exact hf _
  · exact State.memOk_post (State.memOk_distWait h)

theorem State.memOk_turn {s : State} {q : Nat} {again : Ev} {f : Packet → State} (h : s.memOk) (hf : ∀ p, (f p).memOk) :
    (s.turn q again f).memOk :=
  State.memOk_look h fun p => State.memOk_ite (State.memOk_post h) (hf p)

theorem State.memOk_taken1 {s : State} {q : Nat} (h : s.memOk) : (s.taken1 q).memOk := State.memOk_nextPacket h

theorem execPacketNop_keeps {s0 : State} {q : Nat} (hs0 : s0.memOk) : KeptOut (execPacketNop q s0) := by
  unfold execPacketNop
  refine State.memOk_turn (State.memOk_packetSeen hs0) (fun _ => ?_)
  split
  · exact State.memOk_taken1 (State.memOk_packetSeen hs0)
  · exact State.memOk_nextPacket (State.memOk_packetSeen hs0)

theorem execPacketLaunch_keeps {s0 : State} {q : Nat} (hs0 : s0.memOk) : KeptOut (execPacketLaunch q s0) := by
  unfold execPacketLaunch
  refine State.memOk_turn (State.memOk_packetSeen hs0) (fun _ => ?_)
  split
  · refine State.memOk_ite (State.memOk_post (State.memOk_packetSeen hs0)) ?_
    dsimp only
    split
    · exact State.memOk_taken1 (State.memOk_refuseWord (State.memOk_packetSeen hs0))
    · exact State.memOk_taken1 (State.memOk_accept (State.memOk_packetSeen hs0))
  · exact State.memOk_nextPacket (State.memOk_packetSeen hs0)

theorem State.memOk_testMem {s : State} {q : Nat} (h : s.memOk) : (s.testMem q).memOk := by
  unfold State.testMem
  refine State.memOk_look h (fun _ => ?_)
  split
  · refine State.memOk_ite (State.memOk_ite h (State.memOk_taken1 h)) ?_
    split
    · exact h
    · exact State.memOk_ite (State.memOk_post (State.memOk_modQueue (State.memOk_dropFars (State.memOk_distSeen h))))
        (State.memOk_post (State.memOk_modQueue (State.memOk_dropFars (State.memOk_distSeen h))))
    · exact State.memOk_post (State.memOk_distWait h)
  · exact State.memOk_nextPacket h

theorem execPacketWaitmem_keeps {s : State} {q : Nat} (h : s.memOk) : KeptOut (execPacketWaitmem q s) :=
  State.memOk_testMem (State.memOk_packetSeen h)

theorem execWaitmemRetest_keeps {s : State} {q : Nat} (h : s.memOk) : KeptOut (execWaitmemRetest q s) :=
  State.memOk_testMem h

theorem State.memOk_consider {s : State} {dies : List Nat} (h : s.memOk) : (s.consider dies).memOk := h

theorem State.memOk_firstOn {s : State} {ctx core : Nat} (h : s.memOk) : (s.firstOn ctx core).memOk := State.memOk_ite h h

theorem State.memOk_startSampling {s : State} {ctx core : Nat} (h : s.memOk) : (s.startSampling ctx core).memOk :=
  State.memOk_ite h h

theorem State.memOk_openSeg {s : State} {t core : Nat} (h : s.memOk) : (s.openSeg t core).memOk := by
  unfold State.openSeg
  refine State.memOk_ite h ?_
  split
  · exact h
  · exact State.memOk_ite h (State.memOk_ite h h)

theorem State.memOk_placeTeam {s : State} {ctx grid : Nat} {o : CodeObj} {k : Kernel} {core : Nat} (h : s.memOk) :
    (s.placeTeam ctx grid o k core).memOk := by
  unfold State.placeTeam
  dsimp only
  split
  · exact h
  · exact State.memOk_startSampling (State.memOk_openSeg (State.memOk_trace (State.memOk_of_eq (State.memOk_firstOn h) rfl rfl)))

theorem State.memOk_placeTeams {s : State} {ctx grid : Nat} {o : CodeObj} {k : Kernel} {a1 : List Nat} (h : s.memOk) :
    (s.placeTeams ctx grid o k a1).memOk := by
  unfold State.placeTeams
  split
  · exact h
  · exact State.memOk_placeTeams (State.memOk_placeTeam h)

theorem State.memOk_decided {s : State} {cores : List Nat} (h : s.memOk) : (s.decided cores).memOk :=
  State.memOk_fold (fun _ _ h1 => State.memOk_modDie h1) (State.memOk_consider h)

theorem State.kept_placeSome {s : State} {ctx grid : Nat} {o : CodeObj} {k : Kernel} {salt : Nat} (h : s.memOk) :
    OptKept State.memOk (s.placeSome ctx grid o k salt) := by
  unfold State.placeSome
  split
  · exact OptKept.some (State.memOk_placeTeams (State.memOk_decided h))
  · exact OptKept.none

theorem State.kept_coSched {s : State} {ctx grid : Nat} {o : CodeObj} {k : Kernel} {a1 : Nat} (h : s.memOk) :
    OptKept State.memOk (s.coSched ctx grid o k a1) := by
  unfold State.coSched
  split
  · exact OptKept.none
  · refine OptKept.ite (OptKept.some h) ?_
    split
    · exact OptKept.none
    next e1 => exact State.kept_coSched (OptKept.get (P := State.memOk) e1 (State.kept_placeSome h))

theorem State.kept_placeNext {s : State} {ctx grid : Nat} (h : s.memOk) : OptKept State.memOk (s.placeNext ctx grid) := by
  unfold State.placeNext
  dsimp only
  split
  · exact OptKept.none
  · exact OptKept.ite (State.kept_coSched h) (State.kept_placeSome h)

theorem State.memOk_preempt {s : State} {ctx : Nat} (h : s.memOk) : (s.preempt ctx).memOk := State.memOk_ite h h

theorem execTeamPlace_keeps {s : State} {ctx grid : Nat} (h : s.memOk) : KeptOut (execTeamPlace ctx grid s) := by
  unfold execTeamPlace
  split
  · exact h
  refine KeptOut.ite h (KeptOut.ite (State.memOk_post h) ?_)
  split
  · split
    · exact State.memOk_post (State.memOk_preempt h)
    · exact State.memOk_post h
  next e =>
    have ht := OptKept.get (P := State.memOk) e (State.kept_placeNext h)
    extract_lets fresh t1 t2
    have h1 : t1.memOk := State.memOk_modCtx ht
    have h2 : t2.memOk := State.memOk_ite (State.memOk_post h1) h1
    exact State.memOk_ite (State.memOk_post h2) h2

theorem State.memOk_freeGrid {s : State} {ctx g : Nat} (h : s.memOk) : (s.freeGrid ctx g).memOk := h

theorem State.memOk_retireGrid {s : State} {ctx g : Nat} (h : s.memOk) : (s.retireGrid ctx g).memOk := by
  unfold State.retireGrid
  dsimp only
  split
  · exact State.memOk_post (State.memOk_fold (fun _ _ h1 => State.memOk_freeGrid h1) (State.memOk_fold (fun _ _ h2 =>
      State.memOk_endReq h2) (State.memOk_trace (State.memOk_of_eq h rfl rfl))))
  · exact State.memOk_freeGrid (State.memOk_fold (fun _ _ h3 => State.memOk_freeGrid h3) (State.memOk_fold (fun _ _ h4 =>
      State.memOk_endReq h4) (State.memOk_trace (State.memOk_of_eq h rfl rfl))))

theorem execGridRetire_keeps {s : State} {ctx g : Nat} (h : s.memOk) : KeptOut (execGridRetire ctx g s) := by
  unfold execGridRetire
  refine KeptOut.ite ?_ ?_
  · split
    · exact h
    · refine KeptOut.ite h ?_
      split
      next e1 => exact OptKept.get (P := State.memOk) e1 (State.kept_complete h)
      · exact State.memOk_post (State.memOk_await h)
  · split
    · exact h
    · refine KeptOut.ite h ?_
      refine KeptOut.ite h ?_
      refine KeptOut.ite h ?_
      refine KeptOut.ite (State.memOk_retireGrid h) ?_
      split
      next e2 => exact State.memOk_retireGrid (OptKept.get (P := State.memOk) e2 (State.kept_complete h))
      · exact State.memOk_post (State.memOk_await h)

theorem execPlacementRegisterWrite_keepsMemory {s : State} {die : Nat} {v : Word} (h : s.memOk) :
    KeptOut (execPlacementRegisterWrite die v s) :=
  KeptOut.ite h h

theorem execPreemptRequest_keeps {s : State} {ctx : Nat} (h : s.memOk) : KeptOut (execPreemptRequest ctx s) :=
  State.memOk_preempt h

theorem execTimeSliceExpiry_keeps {s : State} {ctx : Nat} (h : s.memOk) : KeptOut (execTimeSliceExpiry ctx s) := by
  unfold execTimeSliceExpiry
  split
  · exact h
  · exact KeptOut.ite (State.memOk_preempt h) h

theorem State.memOk_resumeWatch {s : State} {ctx : Nat} (h : s.memOk) : (s.resumeWatch ctx).memOk := by
  unfold State.resumeWatch
  split
  · exact h
  · exact h

theorem State.memOk_freezeWatch {s0 : State} {ctx : Nat} (hs0 : s0.memOk) : (s0.freezeWatch ctx).memOk :=
  State.memOk_of_eq (State.memOk_resumeWatch hs0) rfl rfl

theorem State.memOk_endSegs {s : State} {ctx : Nat} (h : s.memOk) : (s.endSegs ctx).memOk :=
  State.memOk_fold (fun _ _ h1 => State.memOk_endSeg h1) h

theorem execContextSave_keeps {s : State} {ctx : Nat} (h : s.memOk) : KeptOut (execContextSave ctx s) := by
  unfold execContextSave
  split
  · exact h
  refine KeptOut.ite h (KeptOut.ite (State.memOk_post h) ?_)
  extract_lets saves s1 s2 s3
  have h1 : s1.memOk := State.memOk_wrWords (State.memOk_freezeWatch (State.memOk_endSegs h)) _ _
  clear_value s1
  have h2 : s2.memOk := State.memOk_of_eq h1 rfl rfl
  clear_value s2
  have h3 : s3.memOk := State.memOk_modCtx h2
  clear_value s3
  exact State.memOk_post (State.memOk_trace h3)

theorem State.memOk_putCore {s : State} {ctx old new : Nat} (h : s.memOk) : (s.putCore ctx old new).memOk := by
  unfold State.putCore
  split
  · exact State.memOk_firstOn h
  · exact h

theorem State.memOk_moveMasks {s : State} {ctx : Nat} {m : List (Nat × Nat)} (h : s.memOk) : (s.moveMasks ctx m).memOk := h

theorem State.memOk_putTeam {s : State} {tid core : Nat} (h : s.memOk) : (s.putTeam tid core).memOk := by
  unfold State.putTeam
  dsimp only
  split
  · exact h
  · exact State.memOk_startSampling (State.memOk_openSeg (State.memOk_trace h))

theorem State.memOk_moveTensors {s : State} {ctx : Nat} {m : List (Nat × Nat)} (h : s.memOk) : (s.moveTensors ctx m).memOk :=
  State.memOk_fold (fun _ _ h1 => State.memOk_modQuad h1) (State.memOk_of_eq h rfl rfl)

theorem State.memOk_moveWork {s : State} {ctx : Nat} {m : List (Nat × Nat)} (h : s.memOk) : (s.moveWork ctx m).memOk := h

theorem State.memOk_thawWatch {s : State} {ctx : Nat} (h : s.memOk) : (s.thawWatch ctx).memOk :=
  State.memOk_ite (State.memOk_pauseWatch h) h

theorem execContextRestore_keeps {s : State} {ctx : Nat} (h : s.memOk) : KeptOut (execContextRestore ctx s) := by
  unfold execContextRestore
  split
  · exact h
  refine KeptOut.ite h (KeptOut.ite (State.memOk_post h) ?_)
  split
  · split
    · exact State.memOk_post (State.memOk_preempt h)
    · exact State.memOk_post h
  · extract_lets saved s1 s2 s3 s4
    have h1 : s1.memOk := State.memOk_fold (fun _ _ ht => State.memOk_putCore ht) (State.memOk_moveMasks (State.memOk_decided h))
    have h2 : s2.memOk := State.memOk_fold (fun _ _ ht => State.memOk_putTeam ht) h1
    have h3 : s3.memOk := State.memOk_modCtx (State.memOk_moveTensors (State.memOk_moveWork h2))
    have h4 : s4.memOk := State.memOk_thawWatch h3
    exact State.memOk_ite (State.memOk_post h4) h4

theorem State.memOk_release {s : State} {team b : Nat} (h : s.memOk) : (s.release team b).memOk := by
  unfold State.release
  refine State.memOk_fold (fun _ _ h1 => ?_) (State.memOk_ite (State.memOk_putBar h) (State.memOk_startFill h))
  split
  · exact State.memOk_post h1
  · exact h1

theorem State.memOk_tryMeet {s : State} {team b : Nat} (h : s.memOk) : (s.tryMeet team b).memOk :=
  State.memOk_ite h (State.memOk_ite (State.memOk_release h) h)

theorem execBarrierArrivalCounted_keeps {s : State} {uid b : Nat} (h : s.memOk) : KeptOut (execBarrierArrivalCounted uid b s) := by
  unfold execBarrierArrivalCounted
  split
  · exact h
  · dsimp only
    split
    · exact h
    · exact KeptOut.ite h (KeptOut.ite h (State.memOk_tryMeet h))

theorem execCombinerArrival_keeps {s : State} {team b : Nat} (h : s.memOk) : KeptOut (execCombinerArrival team b s) := by
  unfold execCombinerArrival
  split
  · exact h
  · exact KeptOut.ite h (KeptOut.ite h h)

theorem execBarrierRelease_keeps {s : State} {team b : Nat} (h : s.memOk) : KeptOut (execBarrierRelease team b s) := by
  unfold execBarrierRelease
  split
  · exact h
  · exact KeptOut.ite (State.memOk_release h) h

theorem execBarrierWatchdog_keeps {s : State} {team b : Nat} (h : s.memOk) : KeptOut (execBarrierWatchdog team b s) := by
  unfold execBarrierWatchdog
  split
  · exact h
  · exact State.memOk_terminate (State.memOk_record (State.memOk_modCtx (State.memOk_wrWords (State.memOk_reachMesh h) _ _)))

theorem execEpochEnd_keeps {s : State} {die : Nat} (h : s.memOk) : KeptOut (execEpochEnd die s) := h

theorem execSlmodeWrite_keeps {s : State} {die : Nat} {v : Word} (h : s.memOk) : KeptOut (execSlmodeWrite die v s) :=
  KeptOut.ite h (State.memOk_ite h h)

theorem execObsctlWrite_keeps {s : State} {asked : Asked Nat} {v : Word} (h : s.memOk) : KeptOut (execObsctlWrite asked v s) := by
  refine KeptOut.ite h ?_
  exact State.memOk_fold (fun _ _ h1 => State.memOk_startSampling h1) (State.memOk_ite (State.memOk_endSegs (State.memOk_modCtx h))
    (State.memOk_modCtx h))

theorem execPcSample_keeps {s : State} {core ctx : Nat} (h : s.memOk) : KeptOut (execPcSample core ctx s) := by
  unfold execPcSample
  split
  · exact h
  · dsimp only
    split
    · exact h
    · exact State.memOk_post (State.memOk_modCore (State.memOk_ring h))

theorem execBreakpointStop_keeps {s : State} {uid : Nat} (h : s.memOk) : KeptOut (execBreakpointStop uid s) := by
  unfold execBreakpointStop
  split
  · exact h
  · split
    · exact State.memOk_preciseStop h
    · exact h

theorem execDebugStop_keeps {s : State} {ctx : Nat} (h : s.memOk) : KeptOut (execDebugStop ctx s) :=
  KeptOut.ite (State.memOk_pauseWatch h) h

theorem execDebugResume_keeps {s : State} {ctx : Nat} (h : s.memOk) : KeptOut (execDebugResume ctx s) :=
  KeptOut.ite (State.memOk_resumeWatch h) h

theorem execDebugSingleStep_keeps {s : State} {ctx grid team thread : Nat} (h : s.memOk) :
    KeptOut (execDebugSingleStep ctx grid team thread s) := by
  unfold execDebugSingleStep
  dsimp only
  split
  · exact KeptOut.ite h h
  · exact h

theorem execSetBreakpoint_keeps {s : State} {ctx n : Nat} {pc : Addr} {grid filter : Word} (h : s.memOk) :
    KeptOut (execSetBreakpoint ctx n pc grid filter s) :=
  KeptOut.ite h h

theorem execDump_keeps {s : State} {ctx region : Nat} (h : s.memOk) : KeptOut (execDump ctx region s) := by
  unfold execDump
  extract_lets c s1
  have h1 : s1.memOk := State.memOk_modCtx (State.memOk_wrWords h _ _)
  clear_value s1
  exact KeptOut.ite h (State.memOk_ite (State.memOk_giveUp h1) h1)

theorem execRecordRegionFull_keeps {s : State} {core : Nat} (h : s.memOk) : KeptOut (execRecordRegionFull core s) := by
  unfold execRecordRegionFull
  split
  · exact h
  · exact State.memOk_fold (fun _ _ h1 => State.memOk_endSeg h1) (State.memOk_reachCore h)

theorem execDigestLog_keeps {s : State} {core : Nat} (h : s.memOk) : KeptOut (execDigestLog core s) := by
  unfold execDigestLog
  split
  · exact h
  · exact State.memOk_post (State.memOk_fold (fun _ _ h1 => State.memOk_logDigest h1) (State.memOk_reachCore h))

theorem State.memOk_placeSegTeam {s : State} {core ctx : Nat} {x : SegTeam} (h : s.memOk) : (s.placeSegTeam core ctx x).memOk :=
  State.memOk_fold (fun _ _ h1 => State.memOk_leave h1) (State.memOk_of_eq h rfl rfl)

theorem State.memOk_modReplay {s : State} {core : Nat} {f : Seg → Seg} (h : s.memOk) : (s.modReplay core f).memOk := h

theorem State.memOk_placeDue {s : State} {core : Nat} (h : s.memOk) : (s.placeDue core).memOk := by
  unfold State.placeDue
  split
  · exact h
  · exact State.memOk_fold (fun _ _ h1 => State.memOk_placeSegTeam h1) (State.memOk_modReplay h)

theorem execReplayStart_keeps {s : State} {core : Nat} {seg : ReplayOf} (h : s.memOk) : KeptOut (execReplayStart core seg s) := by
  unfold execReplayStart
  split
  · exact h
  · exact KeptOut.ite h (State.memOk_placeDue h)

theorem State.memOk_answered {s : State} {ok : Bool} {words : List Word} (h : s.memOk) : (s.answered ok words).memOk := h

theorem execContextCreate_keeps {s : State} {words : Asked (List Word)} (h : s.memOk) : KeptOut (execContextCreate words s) := by
  unfold execContextCreate
  split
  · exact h
  · exact KeptOut.ite h h

theorem execAllotmentSet_keeps {s : State} {ctx : Nat} {a : Allot} (h : s.memOk) : KeptOut (execAllotmentSet ctx a s) := by
  unfold execAllotmentSet
  refine KeptOut.ite h ?_
  split
  · exact KeptOut.ite h h
  · exact KeptOut.ite h h
  · exact KeptOut.ite h h
  · exact KeptOut.ite h h

theorem execPrqheadWrite_keeps {s : State} {ctx : Nat} {v : Word} (h : s.memOk) : KeptOut (execPrqheadWrite ctx v s) := h

theorem execPageReplay_keeps {s : State} {ctx : Nat} {r : Word} (h : s.memOk) : KeptOut (execPageReplay ctx r s) := h

theorem State.memOk_debugAccess {s : State} {ctx : Nat} {a : HostAcc} (h : s.memOk) : (s.debugAccess ctx a).memOk := by
  unfold State.debugAccess
  refine State.memOk_ite h ?_
  generalize s.debugPlace ctx a.addr = place
  split
  · exact h
  · exact State.memOk_ite (State.memOk_ite (State.memOk_nearWrite h) h) (State.memOk_emit h)
  · exact State.memOk_ite (State.memOk_winWrite h) (State.memOk_emit h)

theorem State.memOk_hostLine {s : State} {pa n : Nat} (h : s.memOk) : (s.hostLine pa n).2.memOk := by
  unfold State.hostLine
  dsimp only
  split
  · exact h
  · exact State.memOk_of_eq (State.memOk_mergeAt h _) rfl rfl

theorem State.memOk_hostSpan {s : State} {pa n a1 : Nat} (h : s.memOk) : (s.hostSpan pa n a1).2.memOk := by
  unfold State.hostSpan
  split
  · exact h
  · split
    · exact h
    · exact State.memOk_hostSpan (State.memOk_hostLine h)

theorem execHostAccess_keeps {s : State} {a : HostAcc} (h : s.memOk) : KeptOut (execHostAccess a s) := by
  unfold execHostAccess
  refine KeptOut.ite (KeptOut.ite (State.memOk_toHost (State.memOk_hostWr h _ _)) h) ?_
  refine KeptOut.ite ?_ (KeptOut.ite h (KeptOut.ite (State.memOk_fold (fun _ _ h1 => State.memOk_toHost h1) (State.memOk_wr h _ _))
    (State.memOk_emit (State.memOk_hostSpan h))))
  split
  · exact State.memOk_debugAccess h
  · exact h

theorem execWorldChange_keeps {s : State} {block : Asked Word} (h : s.memOk) : KeptOut (execWorldChange block s) :=
  KeptOut.ite h (State.memOk_answered (State.memOk_switchWorld h))

theorem execTlbinvComplete_keeps {s : State} {id : Nat} (h : s.memOk) : KeptOut (execTlbinvComplete id s) := by
  unfold execTlbinvComplete
  split
  · exact h
  · exact State.memOk_ite h h

theorem execHaltResume_keeps {s : State} {uid : Nat} (h : s.memOk) : KeptOut (execHaltResume uid s) := KeptOut.ite h h

theorem execFirmwareUpdate_keeps {s : State} {kind die : Nat} {ok : Bool} (h : s.memOk) :
    KeptOut (execFirmwareUpdate kind die ok s) :=
  KeptOut.ite h (KeptOut.ite h h)

theorem execLpddrRetrain_keeps {s : State} {channel target : Nat} (h : s.memOk) : KeptOut (execLpddrRetrain channel target s) := by
  obtain ⟨hm, hh⟩ := State.memOk_mergeAll h
  unfold execLpddrRetrain
  exact KeptOut.ite h ⟨Memory.wf_foldl_write _ _ _ (Memory.wf_filter hm _), hh⟩

theorem execCoreRetire_keeps {s : State} {core : Nat} (h : s.memOk) : KeptOut (execCoreRetire core s) :=
  State.memOk_fold (fun _ _ h1 => State.memOk_preempt h1) (State.memOk_modCore h)

theorem State.memOk_preemptAll {s : State} (h : s.memOk) : (s.preemptAll).memOk :=
  State.memOk_fold (fun _ _ h1 => State.memOk_preempt h1) h

theorem execCheckpoint_keeps {s : State} (h : s.memOk) : KeptOut (execCheckpoint s) := by
  refine KeptOut.ite (State.memOk_post (State.memOk_preemptAll h)) ?_
  exact State.memOk_emit (State.memOk_of_eq (State.memOk_fold (fun _ _ h1 => State.memOk_hostWr h1 _ _) (State.memOk_mergeAll h))
    rfl rfl)

theorem State.wf_loadLines {s : State} {i : Image} {keys : List WorldKey} : Memory.wf (s.loadLines i keys) = true := by
  unfold State.loadLines
  exact List.foldlRecOn (motive := fun m => Memory.wf m = true) _ _ rfl fun m hm l _ => Memory.wf_writeN hm _ _

theorem execCheckpointRestore_keeps {s : State} (h : s.memOk) : KeptOut (execCheckpointRestore s) := by
  unfold execCheckpointRestore
  split
  · exact h
  · exact h
  · exact ⟨State.wf_loadLines, h.2⟩

theorem State.memOk_markPoison {s : State} {e : EccRec} (h : s.memOk) : (s.markPoison e).memOk := by
  unfold State.markPoison
  extract_lets core pa
  generalize placeOf pa = place
  clear_value pa
  split
  · split
    · exact h
    · exact h
  · split
    · split
      · exact h
      · exact h
    · exact h
  · split
    · exact h
    · exact h
  · exact h
  · exact h
  · exact h
  · split
    · split
      · exact h
      · exact h
    · exact h
  · exact h

theorem execEccError_keeps {s : State} {e : EccRec} (h : s.memOk) : KeptOut (execEccError e s) :=
  State.memOk_ite (State.memOk_markPoison h) h

theorem execPowerOn_keeps {s : State} (h : s.memOk) : KeptOut (execPowerOn s) := ⟨rfl, h.2⟩

theorem execClockThrottle_keeps {s : State} {up : Bool} (h : s.memOk) : KeptOut (execClockThrottle up s) := h

theorem execThermalShutdown_keeps {s : State} {die : Nat} (h : s.memOk) : KeptOut (execThermalShutdown die s) := by
  refine KeptOut.ite h ?_
  exact KeptOut.ite (State.memOk_post (State.memOk_preemptAll h)) (State.memOk_fold (fun _ _ h1 => State.memOk_modDie h1) h)

theorem execGetVersion_keeps {s : State} {m : SpdmReq} (h : s.memOk) : KeptOut (execGetVersion m s) := h

theorem State.memOk_spdmAfter {s : State} {code : Nat} {need : List Nat} {m : SpdmReq} (h : s.memOk) :
    (s.spdmAfter code need m).memOk :=
  State.memOk_ite h h

theorem execGetCapabilities_keeps {s : State} {m : SpdmReq} (h : s.memOk) : KeptOut (execGetCapabilities m s) :=
  State.memOk_spdmAfter h

theorem execNegotiateAlgorithms_keeps {s : State} {m : SpdmReq} (h : s.memOk) : KeptOut (execNegotiateAlgorithms m s) :=
  State.memOk_spdmAfter h

theorem execGetDigests_keeps {s : State} {m : SpdmReq} (h : s.memOk) : KeptOut (execGetDigests m s) :=
  State.memOk_spdmAfter h

theorem execGetCertificate_keeps {s : State} {m : SpdmReq} (h : s.memOk) : KeptOut (execGetCertificate m s) :=
  State.memOk_spdmAfter h

theorem execChallenge_keeps {s : State} {m : SpdmReq} (h : s.memOk) : KeptOut (execChallenge m s) := State.memOk_spdmAfter h

theorem execGetMeasurements_keeps {s : State} {m : SpdmReq} (h : s.memOk) : KeptOut (execGetMeasurements m s) :=
  State.memOk_spdmAfter h

theorem execKeyExchange_keeps {s : State} {m : SpdmReq} (h : s.memOk) : KeptOut (execKeyExchange m s) :=
  State.memOk_spdmAfter h

theorem execFinish_keeps {s : State} {m : SpdmReq} (h : s.memOk) : KeptOut (execFinish m s) := KeptOut.ite h h

theorem State.kept_putPages {s : State} {ctx va : Nat} {l : List Byte} {ok : BitVec 64 → Bool} (h : s.memOk) :
    OptKept State.memOk (s.putPages ctx va l ok) := by
  unfold State.putPages
  refine List.foldlRecOn (motive := OptKept State.memOk) _ _ (OptKept.some h) fun o ho i _ => OptKept.bind ho fun t ht => ?_
  dsimp only
  split
  · exact OptKept.ite (OptKept.some (State.memOk_wr ht _ _)) OptKept.none
  · exact OptKept.none

theorem State.kept_placeObj {s : State} {ctx : Nat} {f : ObjFile} (h : s.memOk) : OptKept State.memOk (s.placeObj ctx f) := by
  refine OptKept.bind (Q := State.memOk) (OptKept.bind (Q := State.memOk) (State.kept_putPages h) fun _ h1 => State.kept_putPages
    h1) fun _ h2 => ?_
  exact State.kept_putPages h2

theorem State.kept_load {s : State} {ctx : Nat} {f : ObjFile} (h : s.memOk) : OptKept (fun p => p.1.memOk) (s.load ctx f) := by
  unfold State.load
  split
  · exact OptKept.none
  · refine OptKept.ite OptKept.none ?_
    split
    · exact OptKept.some h
    · exact OptKept.map (Q := State.memOk) (State.kept_placeObj h) fun _ h1 => h1

theorem State.memOk_overdrawn {s : State} (h : s.memOk) : (s.overdrawn).memOk := State.memOk_ite h h

theorem execRegisterWrite_keeps {s : State} {w : MgmtWrite} (h : s.memOk) : KeptOut (execRegisterWrite w s) := by
  unfold execRegisterWrite
  split
  · split
    · exact KeptOut.ite h (State.memOk_answered (State.memOk_nextPacket h))
    · exact h
  · exact KeptOut.ite h h
  · split
    · exact KeptOut.ite h (State.memOk_answered (State.memOk_wrWords h _ _))
    · exact h
  · exact KeptOut.ite h (KeptOut.ite h (State.memOk_answered (State.memOk_zeroMem h)))
  · exact KeptOut.ite h h
  · split
    next e1 =>
      exact State.memOk_answered (OptKept.get (P := fun p : State × _ => p.1.memOk) e1 (OptKept.ite OptKept.none (State.kept_load
        h)))
    · exact h
  · exact KeptOut.ite h h
  · exact KeptOut.ite h h
  · exact KeptOut.ite h h
  · exact KeptOut.ite h h
  · exact KeptOut.ite h h
  · exact KeptOut.ite h h
  · exact State.memOk_answered (State.memOk_ite (State.memOk_post (State.memOk_ite h h)) (State.memOk_ite h h))
  · exact KeptOut.ite h (State.memOk_answered (State.memOk_overdrawn h))
  · exact State.memOk_answered (State.memOk_overdrawn h)
  · exact h

theorem execContextEnd_keeps {s : State} {ctx : Nat} (h : s.memOk) : KeptOut (execContextEnd ctx s) :=
  KeptOut.ite h (State.memOk_of_eq (State.memOk_terminate h) rfl rfl)

theorem execHomePartialEviction_keeps {s : State} {line : Nat} (h : s.memOk) : KeptOut (execHomePartialEviction line s) :=
  State.memOk_mergeLine h _

theorem execRowClose_keeps {s : State} {channel bank : Nat} (h : s.memOk) : KeptOut (execRowClose channel bank s) := h

theorem execBankRefresh_keeps {s : State} {channel bank : Nat} (h : s.memOk) : KeptOut (execBankRefresh channel bank s) := h

theorem execDroopEvent_keeps {s : State} {core : Nat} (h : s.memOk) : KeptOut (execDroopEvent core s) := h

theorem execDebuggerHold_keeps {s : State} {ctx : Nat} {take : Bool} (h : s.memOk) : KeptOut (execDebuggerHold ctx take s) := h

theorem execChunkWrite_keeps {s : State} {core : Nat} (h : s.memOk) : KeptOut (execChunkWrite core s) :=
  State.memOk_fold (fun _ _ h1 => State.memOk_ite (State.memOk_writeChunk h1) h1) h

theorem exec_keeps {s : State} {i : Instr} (h : s.memOk) : KeptOut (exec i s) := by
  unfold exec
  split
  · exact execHnop_keeps h
  · exact execHimmLo_keeps h
  · exact execHimmHi_keeps h
  · exact execHofs_keeps h
  · exact execHcache_keeps h
  · exact execHreuse_keeps h
  · exact execHstall_keeps h
  · exact execHprio_keeps h
  · exact execXp_keeps h
  · exact execBrT_keeps h
  · exact execBrF_keeps h
  · exact execBrAny_keeps h
  · exact execBrAll_keeps h
  · exact execCall_keeps h
  · exact execLoopb_keeps h
  · exact execJmpi_keeps h
  · exact execCalli_keeps h
  · exact execRet_keeps h
  · exact execExit_keeps h
  · exact execTrap_keeps h
  · exact execSysc_keeps h
  · exact execBrk_keeps h
  · exact execYield_keeps h
  · exact execNop_keeps h
  · exact execEnrol_keeps h
  · exact execJoin_keeps h
  · exact execStrike_keeps h
  · exact execLset_keeps h
  · exact execDrain_keeps h
  · exact execEret_keeps h
  · exact execIadd_keeps h
  · exact execIsub_keeps h
  · exact execImul_keeps h
  · exact execImulhI_keeps h
  · exact execImulhN_keeps h
  · exact execImad_keeps h
  · exact execAnd_keeps h
  · exact execOr_keeps h
  · exact execXor_keeps h
  · exact execShl_keeps h
  · exact execShr_keeps h
  · exact execSar_keeps h
  · exact execMinI_keeps h
  · exact execMinN_keeps h
  · exact execMaxI_keeps h
  · exact execMaxN_keeps h
  · exact execIaddS_keeps h
  · exact execIsubS_keeps h
  · exact execImulS_keeps h
  · exact execImulhIS_keeps h
  · exact execImulhNS_keeps h
  · exact execImadS_keeps h
  · exact execAndS_keeps h
  · exact execOrS_keeps h
  · exact execXorS_keeps h
  · exact execShlS_keeps h
  · exact execShrS_keeps h
  · exact execSarS_keeps h
  · exact execMinIS_keeps h
  · exact execMinNS_keeps h
  · exact execMaxIS_keeps h
  · exact execMaxNS_keeps h
  · exact execPopc_keeps h
  · exact execClz_keeps h
  · exact execBrev_keeps h
  · exact execBfeI_keeps h
  · exact execBfeN_keeps h
  · exact execBfi_keeps h
  · exact execSel_keeps h
  · exact execPrmt_keeps h
  · exact execAndn_keeps h
  · exact execAbsdI_keeps h
  · exact execIaddD_keeps h
  · exact execIsubD_keeps h
  · exact execShlD_keeps h
  · exact execShrD_keeps h
  · exact execImulwI_keeps h
  · exact execImulwN_keeps h
  · exact execIaddi_keeps h
  · exact execAndi_keeps h
  · exact execXori_keeps h
  · exact execMovi_keeps h
  · exact execFadd_keeps h
  · exact execFsub_keeps h
  · exact execFmul_keeps h
  · exact execFfma_keeps h
  · exact execFmin_keeps h
  · exact execFmax_keeps h
  · exact execFminm_keeps h
  · exact execFmaxm_keeps h
  · exact execFabs_keeps h
  · exact execFneg_keeps h
  · exact execFrcp_keeps h
  · exact execFrsq_keeps h
  · exact execFsqrt_keeps h
  · exact execFex2_keeps h
  · exact execFlg2_keeps h
  · exact execFdiv_keeps h
  · exact execFaddS_keeps h
  · exact execFsubS_keeps h
  · exact execFmulS_keeps h
  · exact execFfmaS_keeps h
  · exact execFminS_keeps h
  · exact execFmaxS_keeps h
  · exact execFminmS_keeps h
  · exact execFmaxmS_keeps h
  · exact execFsinS_keeps h
  · exact execFcosS_keeps h
  · exact execFtanhS_keeps h
  · exact execFsigmS_keeps h
  · exact execFerfS_keeps h
  · exact execHadd_keeps h
  · exact execHsub_keeps h
  · exact execHmul_keeps h
  · exact execHfma_keeps h
  · exact execHmin_keeps h
  · exact execHmax_keeps h
  · exact execBadd_keeps h
  · exact execBsub_keeps h
  · exact execBmul_keeps h
  · exact execBfma_keeps h
  · exact execBmin_keeps h
  · exact execBmax_keeps h
  · exact execHdot2_keeps h
  · exact execBdot2_keeps h
  · exact execQaddE4m3_keeps h
  · exact execQsubE4m3_keeps h
  · exact execQmulE4m3_keeps h
  · exact execQaddE5m2_keeps h
  · exact execQsubE5m2_keeps h
  · exact execQmulE5m2_keeps h
  · exact execQdot4E4m3_keeps h
  · exact execQdot4E5m2_keeps h
  · exact execQdot4I8_keeps h
  · exact execQdot4N8_keeps h
  · exact execXdot8E2m1_keeps h
  · exact execQmaxE4m3_keeps h
  · exact execQminE4m3_keeps h
  · exact execQaddI8_keeps h
  · exact execQaddN8_keeps h
  · exact execQmaxI8_keeps h
  · exact execCvt_keeps h
  · exact execScvtUpE4m3_keeps h
  · exact execScvtUpE5m2_keeps h
  · exact execScvtUpE2m1_keeps h
  · exact execScvtUpLq2_keeps h
  · exact execScvtDnE4m3_keeps h
  · exact execScvtDnE5m2_keeps h
  · exact execScvtDnE2m1_keeps h
  · exact execCmpEq_keeps h
  · exact execCmpNe_keeps h
  · exact execCmpLtI_keeps h
  · exact execCmpLeI_keeps h
  · exact execCmpLtN_keeps h
  · exact execCmpLeN_keeps h
  · exact execCmpFeq_keeps h
  · exact execCmpFne_keeps h
  · exact execCmpFlt_keeps h
  · exact execCmpFle_keeps h
  · exact execCmpFuno_keeps h
  · exact execCmpFord_keeps h
  · exact execCmpTstz_keeps h
  · exact execCmpTstnz_keeps h
  · exact execCmpEqS_keeps h
  · exact execCmpNeS_keeps h
  · exact execCmpLtIS_keeps h
  · exact execCmpLeIS_keeps h
  · exact execCmpLtNS_keeps h
  · exact execCmpLeNS_keeps h
  · exact execCmpFeqS_keeps h
  · exact execCmpFneS_keeps h
  · exact execCmpFltS_keeps h
  · exact execCmpFleS_keeps h
  · exact execCmpFunoS_keeps h
  · exact execCmpFordS_keeps h
  · exact execCmpTstzS_keeps h
  · exact execCmpTstnzS_keeps h
  · exact execMand_keeps h
  · exact execMor_keeps h
  · exact execMxor_keeps h
  · exact execMandn_keeps h
  · exact execMnot_keeps h
  · exact execMpopc_keeps h
  · exact execMffs_keeps h
  · exact execMfroms_keeps h
  · exact execMtos_keeps h
  · exact execShflIdx_keeps h
  · exact execShflUp_keeps h
  · exact execShflDn_keeps h
  · exact execShflXor_keeps h
  · exact execVoteAny_keeps h
  · exact execVoteAll_keeps h
  · exact execBallot_keeps h
  · exact execMatch_keeps h
  · exact execRedxAddI_keeps h
  · exact execRedxAddF_keeps h
  · exact execRedxMinI_keeps h
  · exact execRedxMaxI_keeps h
  · exact execScanAddI_keeps h
  · exact execScanAddF_keeps h
  · exact execBcast_keeps h
  · exact execSadd_keeps h
  · exact execSsub_keeps h
  · exact execSmul_keeps h
  · exact execSand_keeps h
  · exact execSor_keeps h
  · exact execSxor_keeps h
  · exact execSshl_keeps h
  · exact execSshr_keeps h
  · exact execSsar_keeps h
  · exact execSminI_keeps h
  · exact execSmaxI_keeps h
  · exact execSminN_keeps h
  · exact execSmaxN_keeps h
  · exact execSaddD_keeps h
  · exact execScmp_keeps h
  · exact execSsel_keeps h
  · exact execSaddi_keeps h
  · exact execSmovi_keeps h
  · exact execSandi_keeps h
  · exact execSshli_keeps h
  · exact execMovv_keeps h
  · exact execMovVs_keeps h
  · exact execMovSv_keeps h
  · exact execMfc_keeps h
  · exact execMtc_keeps h
  · exact execMfcv_keeps h
  · exact execVrdi_keeps h
  · exact execVwri_keeps h
  · exact execXset_keeps h
  · exact execLdB8_keeps h
  · exact execLdB16_keeps h
  · exact execLdB32_keeps h
  · exact execLdB64_keeps h
  · exact execLdB128_keeps h
  · exact execLdI8_keeps h
  · exact execLdI16_keeps h
  · exact execPref_keeps h
  · exact execStB8_keeps h
  · exact execStB16_keeps h
  · exact execStB32_keeps h
  · exact execStB64_keeps h
  · exact execStB128_keeps h
  · exact execLdnB8_keeps h
  · exact execLdnB16_keeps h
  · exact execLdnB32_keeps h
  · exact execLdnB64_keeps h
  · exact execLdnB128_keeps h
  · exact execLdnI8_keeps h
  · exact execLdnI16_keeps h
  · exact execLdnPres_keeps h
  · exact execStnB8_keeps h
  · exact execStnB16_keeps h
  · exact execStnB32_keeps h
  · exact execStnB64_keeps h
  · exact execStnB128_keeps h
  · exact execAtomAddI32_keeps h
  · exact execAtomMinI32_keeps h
  · exact execAtomMaxI32_keeps h
  · exact execAtomMinN32_keeps h
  · exact execAtomMaxN32_keeps h
  · exact execAtomAnd_keeps h
  · exact execAtomOr_keeps h
  · exact execAtomXor_keeps h
  · exact execAtomXchg_keeps h
  · exact execAtomCas_keeps h
  · exact execAtomAddF32_keeps h
  · exact execAtomAddBf16x2_keeps h
  · exact execAtomIncw_keeps h
  · exact execAtomAddI64_keeps h
  · exact execAtomCas64_keeps h
  · exact execAtomXchg64_keeps h
  · exact execAtomnAddI32_keeps h
  · exact execAtomnMinI32_keeps h
  · exact execAtomnMaxI32_keeps h
  · exact execAtomnMinN32_keeps h
  · exact execAtomnMaxN32_keeps h
  · exact execAtomnAnd_keeps h
  · exact execAtomnOr_keeps h
  · exact execAtomnXor_keeps h
  · exact execAtomnXchg_keeps h
  · exact execAtomnCas_keeps h
  · exact execAtomnAddF32_keeps h
  · exact execAtomnAddBf16x2_keeps h
  · exact execAtomnIncw_keeps h
  · exact execAtomnAddI64_keeps h
  · exact execAtomnCas64_keeps h
  · exact execAtomnXchg64_keeps h
  · exact execSliceLdl_keeps h
  · exact execSliceCstm_keeps h
  · exact execSliceRedlI32_keeps h
  · exact execSliceRedlAln_keeps h
  · exact execKscope_keeps h
  · exact execKdef_keeps h
  · exact execKfork_keeps h
  · exact execKjoin_keeps h
  · exact execKwait_keeps h
  · exact execKsend_keeps h
  · exact execKrecv_keeps h
  · exact execKpoll_keeps h
  · exact execPbind_keeps h
  · exact execPush_keeps h
  · exact execPop_keeps h
  · exact execPpeek_keeps h
  · exact execPstat_keeps h
  · exact execPunbind_keeps h
  · exact execTcopy_keeps h
  · exact execTcopyt_keeps h
  · exact execTcancel_keeps h
  · exact execRcarm_keeps h
  · exact execRcwait_keeps h
  · exact execRcread_keeps h
  · exact execCpoll_keeps h
  · exact execMxpost_keeps h
  · exact execMxrd_keeps h
  · exact execMxwr_keeps h
  · exact execMxzero_keeps h
  · exact execMxhbind_keeps h
  · exact execMxhgen_keeps h
  · exact execScbind_keeps h
  · exact execScload_keeps h
  · exact execScinv_keeps h
  · exact execCrcfg_keeps h
  · exact execCralloc_keeps h
  · exact execCrallocW_keeps h
  · exact execCrgate_keeps h
  · exact execCrwait_keeps h
  · exact execCrstat_keeps h
  · exact execCrfree_keeps h
  · exact execBinit_keeps h
  · exact execBarv_keeps h
  · exact execBwait_keeps h
  · exact execBsync_keeps h
  · exact execBstat_keeps h
  · exact execGlaunch_keeps h
  · exact execGwait_keeps h
  · exact execGstat_keeps h
  · exact execLqdec_keeps h
  · exact execLqdot_keeps h
  · exact execLqtbl_keeps h
  · exact execMtcp_keeps h
  · exact execMfcp_keeps h
  · exact execTlbinv_keeps h
  · exact execWswitch_keeps h
  · exact execHalt_keeps h
  · exact execArbStarveLimit_keeps h
  · exact execRegisterResultReturn_keeps h
  · exact execLqtblComplete_keeps h
  · exact execWarpRetire_keeps h
  · exact execTrapEntry_keeps h
  · exact execMemberLeave_keeps h
  · exact execReleaseNotice_keeps h
  · exact execChimeLeave_keeps h
  · exact execChimeInboxArrival_keeps h
  · exact execChimeDiscard_keeps h
  · exact execTlbWalkComplete_keeps h
  · exact execLoadReturn_keeps h
  · exact execStoreAtHome_keeps h
  · exact execAtomicAtHome_keeps h
  · exact execPartialFlush_keeps h
  · exact execWindowAccess_keeps h
  · exact execRemoteRefusal_keeps h
  · exact execPortValueVisible_keeps h
  · exact execPortWatchdogExpiry_keeps h
  · exact execCopyBegin_keeps h
  · exact execCopyChunkRead_keeps h
  · exact execCopyLanding_keeps h
  · exact execHoldingSlotDrain_keeps h
  · exact execCopyEnd_keeps h
  · exact execRcStateW1c_keeps h
  · exact execMxGrant_keeps h
  · exact execMxStarvationLimit_keeps h
  · exact execMxCaptureComplete_keeps h
  · exact execScaleFetchReturn_keepsMemory h
  · exact execMxPassBoundary_keeps h
  · exact execFabricRequestArrival_keeps h
  · exact execFabricResponse_keeps h
  · exact execFabricRetryTimeout_keeps h
  · exact execFabricPortDown_keeps h
  · exact execChannelCreate_keeps h
  · exact execChannelClose_keeps h
  · exact execChannelFetchComplete_keeps h
  · exact execChimeMsg_keeps h
  · exact execSignalMsg_keeps h
  · exact execAtomicMsg_keeps h
  · exact execEntryMsg_keeps h
  · exact execExpMsg_keeps h
  · exact execGoMsg_keeps h
  · exact execContribMsg_keeps h
  · exact execResultMsg_keeps h
  · exact execDoneMsg_keeps h
  · exact execMismatchMsg_keeps h
  · exact execCollectiveTimeout_keeps h
  · exact execCreelArrival_keeps h
  · exact execCreelDeadline_keeps h
  · exact execCreelRelease_keeps h
  · exact execCreelQuietEnd_keeps h
  · exact execDoorbell_keeps h
  · exact execPacketNop_keeps h
  · exact execPacketLaunch_keeps h
  · exact execPacketWaitmem_keeps h
  · exact execWaitmemRetest_keeps h
  · exact execTeamPlace_keeps h
  · exact execGridRetire_keeps h
  · exact execPlacementRegisterWrite_keepsMemory h
  · exact execPreemptRequest_keeps h
  · exact execTimeSliceExpiry_keeps h
  · exact execContextSave_keeps h
  · exact execContextRestore_keeps h
  · exact execBarrierArrivalCounted_keeps h
  · exact execCombinerArrival_keeps h
  · exact execBarrierRelease_keeps h
  · exact execBarrierWatchdog_keeps h
  · exact execEpochEnd_keeps h
  · exact execSlmodeWrite_keeps h
  · exact execObsctlWrite_keeps h
  · exact execPcSample_keeps h
  · exact execBreakpointStop_keeps h
  · exact execDebugStop_keeps h
  · exact execDebugResume_keeps h
  · exact execDebugSingleStep_keeps h
  · exact execSetBreakpoint_keeps h
  · exact execDump_keeps h
  · exact execRecordRegionFull_keeps h
  · exact execDigestLog_keeps h
  · exact execReplayStart_keeps h
  · exact execContextCreate_keeps h
  · exact execAllotmentSet_keeps h
  · exact execPrqheadWrite_keeps h
  · exact execPageReplay_keeps h
  · exact execHostAccess_keeps h
  · exact execWorldChange_keeps h
  · exact execTlbinvComplete_keeps h
  · exact execHaltResume_keeps h
  · exact execFirmwareUpdate_keeps h
  · exact execLpddrRetrain_keeps h
  · exact execCoreRetire_keeps h
  · exact execCheckpoint_keeps h
  · exact execCheckpointRestore_keeps h
  · exact execEccError_keeps h
  · exact execPowerOn_keeps h
  · exact execClockThrottle_keeps h
  · exact execThermalShutdown_keeps h
  · exact execGetVersion_keeps h
  · exact execGetCapabilities_keeps h
  · exact execNegotiateAlgorithms_keeps h
  · exact execGetDigests_keeps h
  · exact execGetCertificate_keeps h
  · exact execChallenge_keeps h
  · exact execGetMeasurements_keeps h
  · exact execKeyExchange_keeps h
  · exact execFinish_keeps h
  · exact execRegisterWrite_keeps h
  · exact execContextEnd_keeps h
  · exact execHomePartialEviction_keeps h
  · exact execRowClose_keeps h
  · exact execBankRefresh_keeps h
  · exact execDroopEvent_keeps h
  · exact execDebuggerHold_keeps h
  · exact execChunkWrite_keeps h

theorem State.keptOut_runWord {s : State} {u : Nat} {x : Word} (h : s.memOk) : KeptOut (s.runWord u x) := by
  unfold State.runWord
  split
  · exact exec_keeps h
  · dsimp only
    split
    · exact h
    · exact State.memOk_raise h

theorem State.memOk_fetched {s : State} {w : Warp} {a : Addr} (h : s.memOk) : (s.fetched w a).memOk := by
  unfold State.fetched
  split
  · exact State.memOk_of_eq (State.memOk_mergeAt (State.memOk_learn h) _) rfl rfl
  · exact h

theorem State.keptOut_tryWord {s : State} {u : Nat} (h : s.memOk) : KeptOut (s.tryWord u) := by
  unfold State.tryWord
  split
  · exact h
  · split
    · exact h
    · split
      · exact State.memOk_raise h
      · split
        · exact State.keptOut_runWord (State.memOk_fetched h)
        · exact State.memOk_raise h
        · exact State.memOk_raise h
        · exact State.memOk_parkWarp (State.memOk_await h)

theorem State.keptOut_attempt {s : State} {u : Nat} (h : s.memOk) : KeptOut (s.attempt u) := by
  have ht := State.keptOut_tryWord (u := u) h
  unfold State.attempt
  split
  next e =>
    rw [e] at ht
    refine KeptOut.ite ht ?_
    split
    · exact exec_keeps h
    · exact KeptOut.ite (State.memOk_brkStop h) ht
    · exact ht
  · exact ht

end Sys2Proof.Machine
end

section
/-! SUPPORT. Every instruction and event, and the step. -/

namespace Sys2Proof.Machine

open Sys2Proof

theorem State.memOk_tweak {s : State} {u : Nat} {f : Warp → Warp} (h : s.memOk) : (s.tweak u f).memOk := h

theorem State.memOk_issued {t : State} {u : Nat} {w : Warp} (ht : t.memOk) : (t.issued u w).memOk := by
  unfold State.issued
  refine State.memOk_tweak ?_
  refine State.memOk_spend ?_
  split
  · exact State.memOk_ite (State.memOk_preciseStop (State.memOk_wake ht)) (State.memOk_wake ht)
  · exact State.memOk_ite (State.memOk_modCtx (State.memOk_wake ht)) (State.memOk_wake ht)
  · exact State.memOk_wake ht

theorem State.keptOut_issue {s : State} {u : Nat} (h : s.memOk) : KeptOut (s.issue u) := by
  have ht := State.keptOut_attempt (u := u) h
  unfold State.issue
  split
  next e =>
    rw [e] at ht
    exact KeptOut.ite (State.memOk_ite ht (State.memOk_wake ht)) (KeptOut.ite ht (State.memOk_issued ht))
  · exact ht

theorem State.memOk_logClocks {s : State} {core n : Nat} (h : s.memOk) : (s.logClocks core n).memOk :=
  State.memOk_fold (fun _ _ h1 => State.memOk_extend h1) h

theorem State.memOk_passWarp {s : State} {n : Nat} {c : Cand} (h : s.memOk) : (s.passWarp n c).memOk := by
  unfold State.passWarp
  split
  · exact h
  · exact State.memOk_ite (State.memOk_tweak (State.memOk_wake h)) h

theorem State.memOk_passClocks {s : State} {core n : Nat} {l : List Cand} (h : s.memOk) : (s.passClocks core n l).memOk :=
  State.memOk_fold (fun _ _ h1 => State.memOk_reachMesh h1) (State.memOk_reachQuad (State.memOk_modCore (State.memOk_logClocks
    (State.memOk_fold (fun _ _ h2 => State.memOk_passWarp h2) h))))

theorem State.memOk_replayStop {s : State} {core ctx uid : Nat} (h : s.memOk) : (s.replayStop core ctx uid).memOk :=
  State.memOk_trace (State.memOk_pauseWatch h)

theorem State.memOk_toldChime {s : State} {u : Nat} {a b : Word} (h : s.memOk) : (s.toldChime u a b).memOk := by
  unfold State.toldChime
  dsimp only
  split
  · exact h
  · exact State.memOk_leaveO h

theorem State.memOk_unpark {s : State} {u : Nat} {k : Stall} (h : s.memOk) : (s.unpark u k).memOk := by
  unfold State.unpark
  split
  · exact State.memOk_fold (fun _ _ h1 => State.memOk_leaveO h1) (State.memOk_putBar h)
  · exact State.memOk_ite h h
  · exact h

theorem State.memOk_toldReport {s : State} {u : Nat} {p : List Word} (h : s.memOk) : (s.toldReport u p).memOk :=
  State.memOk_addReport (State.memOk_ite h h)

theorem State.memOk_applyInput {s : State} {core : Nat} {e : List Word} (h : s.memOk) : (s.applyInput core e).memOk := by
  unfold State.applyInput
  split
  · split
    · exact h
    · split
      · exact h
      · exact State.memOk_toldChime h
      · split
        · exact State.memOk_unpark h
        · exact State.memOk_toldReport h
      · exact h
      · exact State.memOk_ite h (State.memOk_ite h h)

theorem State.memOk_replayInputs {s : State} {core a1 : Nat} (h : s.memOk) : (s.replayInputs core a1).memOk := by
  unfold State.replayInputs
  split
  · exact h
  · split
    · exact h
    · split
      · exact h
      · exact State.memOk_ite h (State.memOk_ite (State.memOk_replayInputs (State.memOk_ite h (State.memOk_replayStop h)))
          (State.memOk_replayInputs (State.memOk_applyInput h)))

theorem State.memOk_alone {s : State} {ctx : Nat} (h : s.memOk) : (s.alone ctx).memOk := h

theorem State.memOk_keepInside {s old : State} {core : Nat} (h : s.memOk) (hold : old.memOk) : (s.keepInside old core).memOk := by
  unfold State.keepInside
  extract_lets mine ev new s1
  have h1 : s1.memOk := ⟨h.1, hold.2⟩
  exact State.memOk_foldl (fun t m ht => State.memOk_leave ht) new h1

theorem State.keptOut_runInside {s : State} {core ctx u : Nat} {x : Word} (h : s.memOk) : KeptOut (s.runInside core ctx u x) := by
  have hr := State.keptOut_runWord (u := u) (x := x) (State.memOk_alone (ctx := ctx) h)
  unfold State.runInside
  split
  next e =>
    rw [e] at hr
    exact State.memOk_keepInside hr h
  · exact hr

theorem State.keptOut_replayParks {s : State} {core ctx : Nat} {l : List Cand} (h : s.memOk) :
    KeptOut (State.replayParks core ctx l s) := by
  induction l generalizing s with
  | nil => exact h
  | cons c l ih =>
    unfold State.replayParks
    split
    next x _ _ =>
      have hr := State.keptOut_runInside (core := core) (ctx := ctx) (u := c.uid) (x := x) h
      split
      next e =>
        rw [e] at hr
        exact ih hr
      · exact hr
    · exact ih h

theorem State.keptOut_replayWords {s : State} {core ctx : Nat} {l : List Nat} (h : s.memOk) :
    KeptOut (State.replayWords core ctx l s) := by
  induction l generalizing s with
  | nil => exact h
  | cons k l ih =>
    unfold State.replayWords
    split
    · exact ih h
    next u w _ =>
    refine KeptOut.ite (ih h) ?_
    split
    next x _ =>
      have hr := State.keptOut_runInside (core := core) (ctx := ctx) (u := u) (x := x) h
      split
      next t e =>
        rw [e] at hr
        split
        · exact ih (State.memOk_issued hr)
        next r _ =>
          have hr1 := State.keptOut_runInside (core := core) (ctx := ctx) (u := u) (x := x)
            (State.memOk_unpark (u := u) (k := r) hr)
          split
          next e1 =>
            rw [e1] at hr1
            exact ih (State.memOk_ite (State.memOk_replayStop hr1) (State.memOk_issued hr1))
          · exact hr1
      · exact hr
    · exact ih (State.memOk_replayStop h)

theorem State.keptOut_replayRetire {s : State} {core now : Nat} (h : s.memOk) : KeptOut (s.replayRetire core now) := by
  unfold State.replayRetire
  split
  · exact h
  refine List.foldlRecOn (motive := KeptOut) _ _ h fun o ho kv _ => ?_
  split
  · exact exec_keeps ho
  · exact ho

theorem State.keptOut_replayClock {s : State} {core : Nat} (h : s.memOk) : KeptOut (s.replayClock core) := by
  have hp := State.memOk_placeDue (core := core) h
  unfold State.replayClock
  extract_lets s0 now
  split
  · exact hp
  next g _ =>
  extract_lets slots s1 idle
  split
  · exact State.memOk_modCore (State.memOk_preciseStop hp)
  have h1 : s1.memOk := State.memOk_replayInputs (State.memOk_modReplay hp)
  have h2 := State.keptOut_replayParks (core := core) (ctx := g.ctx) (l := idle) h1
  split
  next s2 e2 =>
    rw [e2] at h2
    have h3 := State.keptOut_replayWords (core := core) (ctx := g.ctx) (l := slots) h2
    split
    next t e3 =>
      rw [e3] at h3
      have h4 := State.keptOut_replayRetire (core := core) (now := now) h3
      split
      next e4 =>
        rw [e4] at h4
        exact State.memOk_passClocks h4
      · exact h4
    · exact h3
  · exact h2

theorem State.keptOut_perform {s : State} {a1 : Choice} (h : s.memOk) : KeptOut (s.perform a1) := by
  unfold State.perform
  split
  · split
    · exact exec_keeps h
    · exact h
  · exact exec_keeps h
  · split
    · exact exec_keeps h
    · exact h
  · exact State.keptOut_issue h
  · exact State.memOk_passClocks h
  · exact h
  · exact State.keptOut_replayClock h

theorem step_keeps {s : State} (h : s.memOk) : KeptOut (step s) := by
  unfold step
  split
  · exact State.keptOut_perform h
  · exact h

end Sys2Proof.Machine
end

section
/-! O6. Every step keeps every memory in canonical form (log 1, log 2). -/

namespace Sys2Proof.Machine

open Sys2Proof

/-- Settles O6: whatever the step performs, an instruction, an event or a passing of clocks, keeps the form (`step_keeps`). -/
theorem stepKeepsMemory : Obligations.StepKeepsMemory := by
  intro s t h e
  have hs := step_keeps h
  rw [e] at hs
  exact hs

end Sys2Proof.Machine
end
